-- ==== Sys2Proof/Word.lean ====
section
/-! DEFINITION. The word types of the device and the ranges of its instance numbers (R32, R36). -/

namespace Sys2Proof

/-- One byte of memory. -/
abbrev Byte := BitVec 8
/-- One register (R5: registers are 32 bits wide). -/
abbrev Word := BitVec 32
/-- One configuration frame (1,024 bits). -/
abbrev Frame := BitVec 1024

/-- A fabric die `FD_d`. -/
abbrev DieIx := Fin 8
/-- A physical tin by its global number 13d + t (R32). -/
abbrev TinIx := Fin 104
/-- A tin role of one die (R33). -/
abbrev RoleIx := Fin 13
/-- A DRAM channel `MC_c`. -/
abbrev ChIx := Fin 16
/-- A hart (and its watchdog). -/
abbrev HartIx := Fin 4
/-- A pantry of a tin. -/
abbrev PantryIx := Fin 96
/-- A mixer of a tin. -/
abbrev MixerIx := Fin 64
/-- A queue of the HQE. -/
abbrev QueueIx := Fin 1024
/-- A rights domain. -/
abbrev Dom := Fin 16
/-- A spine router, `SPINE_12` the spare. -/
abbrev SpineIx := Fin 13
/-- A lane: 0–63 long lanes, 64–95 media lanes. -/
abbrev LaneIx := Fin 96
/-- A seam end: 2d + e. -/
abbrev SeamEndIx := Fin 16

end Sys2Proof
end

