-- ==== Sys2Proof/Machine/Bits.lean ====
section
/-! DEFINITION. Bit fields of numbers and words, two's complement, saturating counts and little-endian bytes (R2, R4). -/

namespace Sys2Proof.Machine

/-- Bits [lo + len − 1 : lo] of `n`. -/
def bits (n lo len : Nat) : Nat := n / 2 ^ lo % 2 ^ len

/-- Bit `i` of `n`. -/
def bit (n i : Nat) : Bool := bits n i 1 == 1

/-- `n` with bits [lo + len − 1 : lo] replaced by the low bits of `v`. -/
def setBits (n lo len v : Nat) : Nat :=
  n / 2 ^ (lo + len) * 2 ^ (lo + len) + v % 2 ^ len * 2 ^ lo + n % 2 ^ lo

/-- `n` with bit `i` set to `b`. -/
def setBit (n i : Nat) (b : Bool) : Nat := setBits n i 1 (if b then 1 else 0)

/-- The number of set bits among the low `k` bits of `n`. -/
def popCount (n : Nat) : Nat → Nat
  | 0 => 0
  | k + 1 => popCount n k + (if bit n k then 1 else 0)

/-- The two's-complement value of the low `len` bits of `n`. -/
def toSigned (n len : Nat) : Int :=
  let m := n % 2 ^ len
  if m < 2 ^ (len - 1) then (m : Int) else (m : Int) - (2 ^ len : Nat)

/-- The low `len` bits of the two's-complement form of `z`. -/
def ofSigned (z : Int) (len : Nat) : Nat := (z % (2 ^ len : Nat)).toNat

/-- 1 for true, 0 for false. -/
def b2n (b : Bool) : Nat := if b then 1 else 0

/-- A count that saturates at the top of a `len`-bit field. -/
def satAdd (len a b : Nat) : Nat := min (a + b) (2 ^ len - 1)

/-- ⌈a / b⌉. -/
def ceilDiv (a b : Nat) : Nat := (a + b - 1) / b

/-- The little-endian value of a byte list (R4). -/
def leVal : List Byte → Nat
  | [] => 0
  | b :: r => b.toNat + 256 * leVal r

/-- The `n` little-endian bytes of a value (R4). -/
def leBytes : Nat → Nat → List Byte
  | 0, _ => []
  | n + 1, v => BitVec.ofNat 8 v :: leBytes n (v / 256)

/-- Bytes [lo, lo + len) of a list, zeros past its end. -/
def slice (l : List Byte) (lo len : Nat) : List Byte :=
  (List.range len).map (fun i => l.getD (lo + i) 0)

/-- The little-endian value of bytes [lo, lo + len) of a list. -/
def leAt (l : List Byte) (lo len : Nat) : Nat := leVal (slice l lo len)

end Sys2Proof.Machine
end

