-- ==== Sys2Proof/Machine/RegMap.lean ====
section
/-! DEFINITION. The register map: where every register of the 16 MiB register window lies (R776), the fields each
register has, the access code and reset value of each field (R5), the values a field accepts (R11) and the resets
that return it to its reset value.  One line per register and per field, from the register tables of the manual. -/

namespace Sys2Proof.Machine

/-- The access codes of R5. -/
inductive Acc where
  | ro | rw | w1c | w1s | rc | rp | wo | rwl | rws
deriving DecidableEq, Repr

/-- One field of one register: the window offset of its register, its lowest bit and its width. -/
structure Fld where
  off : Nat
  lo : Nat
  len : Nat
deriving DecidableEq, Repr

/-- One row of a register table: the field's place, access code and reset value, the values a write may place in it
(from `min` to `max` in steps of `step` above `min`, R11) and the resets it keeps its value through. -/
structure FieldDef where
  lo : Nat
  len : Nat
  acc : Acc
  rst : Nat
  min : Nat
  max : Nat
  step : Nat
  keep : Nat
deriving DecidableEq, Repr

/-- One register of a block: its offset in the block, how many instances it has and how far apart, the resets beside
power-on reset that act on it (the `scope…` bits below) and its fields. -/
structure RegDef where
  off : Nat
  count : Nat
  stride : Nat
  scope : Nat
  fields : List FieldDef
deriving DecidableEq, Repr

/-- `RESET_N` (R665). -/
def scopeResetN : Nat := 1
/-- A die reset (R665, R677). -/
def scopeDie : Nat := 2
/-- A tin reset (R683). -/
def scopeTin : Nat := 4
/-- `PERST_N` (R402). -/
def scopePerst : Nat := 8
/-- A hub warm reset (R673). -/
def scopeWarm : Nat := 16

/-- The window offset of fabric die `d` (R776). -/
def dieBase (d : Nat) : Nat := 0x800000 + d * 0x80000

/-- The field of `LRD_RIGHTS` that holds domain `k`'s right to GENERAL (R195). -/
def LRD_RIGHTS.dom (k : Nat) : Fld := ⟨0xb0004, 2 * k, 2⟩


/-- Window offset of `GLB_DEVICE_ID` (R785). -/
def GLB_DEVICE_ID : Nat := 0x0
def GLB_DEVICE_ID.id : Fld := ⟨GLB_DEVICE_ID, 0, 32⟩
/-- Window offset of `GLB_REV` (R785). -/
def GLB_REV : Nat := 0x4
def GLB_REV.major : Fld := ⟨GLB_REV, 8, 8⟩
def GLB_REV.minor : Fld := ⟨GLB_REV, 0, 8⟩
/-- Window offset of `GLB_SERIAL` (R785). -/
def GLB_SERIAL (i : Nat) : Nat := 0x8 + 4 * i
def GLB_SERIAL.serial (i : Nat) : Fld := ⟨GLB_SERIAL i, 0, 32⟩
/-- Window offset of `GLB_ACC_ERR` (R785). -/
def GLB_ACC_ERR : Nat := 0x10
def GLB_ACC_ERR.valid : Fld := ⟨GLB_ACC_ERR, 31, 1⟩
def GLB_ACC_ERR.cause : Fld := ⟨GLB_ACC_ERR, 28, 3⟩
def GLB_ACC_ERR.domain : Fld := ⟨GLB_ACC_ERR, 24, 4⟩
def GLB_ACC_ERR.src : Fld := ⟨GLB_ACC_ERR, 12, 12⟩
def GLB_ACC_ERR.more : Fld := ⟨GLB_ACC_ERR, 0, 8⟩
/-- Window offset of `GLB_ACC_ADDR` (R785). -/
def GLB_ACC_ADDR : Nat := 0x14
def GLB_ACC_ADDR.offset : Fld := ⟨GLB_ACC_ADDR, 0, 24⟩
/-- Window offset of `GLB_ATTN_SUM` (R785). -/
def GLB_ATTN_SUM : Nat := 0x18
def GLB_ATTN_SUM.die : Fld := ⟨GLB_ATTN_SUM, 13, 8⟩
def GLB_ATTN_SUM.hub : Fld := ⟨GLB_ATTN_SUM, 0, 13⟩
/-- Window offset of `GLB_STRAP` (R785). -/
def GLB_STRAP : Nat := 0x1c
def GLB_STRAP.cfg_mode : Fld := ⟨GLB_STRAP, 1, 2⟩
def GLB_STRAP.pcie_bif : Fld := ⟨GLB_STRAP, 0, 1⟩
/-- Window offset of `GLB_SCRATCH` (R785). -/
def GLB_SCRATCH (i : Nat) : Nat := 0x20 + 4 * i
def GLB_SCRATCH.value (i : Nat) : Fld := ⟨GLB_SCRATCH i, 0, 32⟩
/-- Window offset of `PTM_PSTATE` (R662). -/
def PTM_PSTATE : Nat := 0x10000
def PTM_PSTATE.state : Fld := ⟨PTM_PSTATE, 29, 3⟩
def PTM_PSTATE.target : Fld := ⟨PTM_PSTATE, 26, 3⟩
def PTM_PSTATE.entering : Fld := ⟨PTM_PSTATE, 25, 1⟩
def PTM_PSTATE.waking : Fld := ⟨PTM_PSTATE, 24, 1⟩
def PTM_PSTATE.emulated : Fld := ⟨PTM_PSTATE, 23, 1⟩
def PTM_PSTATE.wake_cause : Fld := ⟨PTM_PSTATE, 0, 4⟩
/-- Window offset of `PTM_WAKE_CTL` (R662). -/
def PTM_WAKE_CTL : Nat := 0x10004
def PTM_WAKE_CTL.wake_now : Fld := ⟨PTM_WAKE_CTL, 31, 1⟩
def PTM_WAKE_CTL.timer_en : Fld := ⟨PTM_WAKE_CTL, 2, 1⟩
def PTM_WAKE_CTL.gpio_en : Fld := ⟨PTM_WAKE_CTL, 1, 1⟩
def PTM_WAKE_CTL.host : Fld := ⟨PTM_WAKE_CTL, 0, 1⟩
/-- Window offset of `PTM_WAKE_SEC` (R662). -/
def PTM_WAKE_SEC (i : Nat) : Nat := 0x10008 + 4 * i
def PTM_WAKE_SEC.sec (i : Nat) : Fld := ⟨PTM_WAKE_SEC i, 0, 32⟩
/-- Window offset of `PTM_DOZE` (R662). -/
def PTM_DOZE : Nat := 0x10010
def PTM_DOZE.mv : Fld := ⟨PTM_DOZE, 0, 10⟩
/-- Window offset of `PTM_VETO` (R662). -/
def PTM_VETO : Nat := 0x10014
def PTM_VETO.veto : Fld := ⟨PTM_VETO, 0, 1⟩
/-- Window offset of `PTM_REFUSE_LAST` (R662). -/
def PTM_REFUSE_LAST : Nat := 0x10018
def PTM_REFUSE_LAST.id : Fld := ⟨PTM_REFUSE_LAST, 28, 4⟩
def PTM_REFUSE_LAST.target : Fld := ⟨PTM_REFUSE_LAST, 25, 3⟩
def PTM_REFUSE_LAST.aborted : Fld := ⟨PTM_REFUSE_LAST, 24, 1⟩
def PTM_REFUSE_LAST.total : Fld := ⟨PTM_REFUSE_LAST, 0, 16⟩
/-- Window offset of `PTM_REFUSE_CNT` (R662). -/
def PTM_REFUSE_CNT (i : Nat) : Nat := 0x10040 + 4 * i
def PTM_REFUSE_CNT.aborted (i : Nat) : Fld := ⟨PTM_REFUSE_CNT i, 16, 16⟩
def PTM_REFUSE_CNT.refused (i : Nat) : Fld := ⟨PTM_REFUSE_CNT i, 0, 16⟩
/-- Window offset of `PTM_FAB_CTL` (R119). -/
def PTM_FAB_CTL (i : Nat) : Nat := 0x10100 + 4 * i
def PTM_FAB_CTL.vset (i : Nat) : Fld := ⟨PTM_FAB_CTL i, 16, 10⟩
def PTM_FAB_CTL.target (i : Nat) : Fld := ⟨PTM_FAB_CTL i, 4, 12⟩
def PTM_FAB_CTL.mode (i : Nat) : Fld := ⟨PTM_FAB_CTL i, 0, 2⟩
/-- Window offset of `PTM_FAB_STAT` (R120). -/
def PTM_FAB_STAT (i : Nat) : Nat := 0x10120 + 4 * i
def PTM_FAB_STAT.short (i : Nat) : Fld := ⟨PTM_FAB_STAT i, 31, 1⟩
def PTM_FAB_STAT.sub_floor (i : Nat) : Fld := ⟨PTM_FAB_STAT i, 30, 1⟩
def PTM_FAB_STAT.vnow (i : Nat) : Fld := ⟨PTM_FAB_STAT i, 12, 10⟩
def PTM_FAB_STAT.rate_die (i : Nat) : Fld := ⟨PTM_FAB_STAT i, 0, 12⟩
/-- Window offset of `PTM_RING_CTL` (R111). -/
def PTM_RING_CTL : Nat := 0x10140
def PTM_RING_CTL.confirm : Fld := ⟨PTM_RING_CTL, 16, 4⟩
def PTM_RING_CTL.wear_period : Fld := ⟨PTM_RING_CTL, 8, 8⟩
def PTM_RING_CTL.window : Fld := ⟨PTM_RING_CTL, 0, 4⟩
/-- Window offset of `PTM_HUB_RATE` (R112). -/
def PTM_HUB_RATE : Nat := 0x10144
def PTM_HUB_RATE.valid : Fld := ⟨PTM_HUB_RATE, 31, 1⟩
def PTM_HUB_RATE.stable : Fld := ⟨PTM_HUB_RATE, 30, 1⟩
def PTM_HUB_RATE.ring_failed : Fld := ⟨PTM_HUB_RATE, 24, 4⟩
def PTM_HUB_RATE.rate_max : Fld := ⟨PTM_HUB_RATE, 12, 12⟩
def PTM_HUB_RATE.rate : Fld := ⟨PTM_HUB_RATE, 0, 12⟩
/-- Window offset of `PTM_BOOST_CTL` (R663). -/
def PTM_BOOST_CTL : Nat := 0x10150
def PTM_BOOST_CTL.enable : Fld := ⟨PTM_BOOST_CTL, 0, 8⟩
/-- Window offset of `PTM_BOOST_STAT` (R663). -/
def PTM_BOOST_STAT (i : Nat) : Nat := 0x10160 + 4 * i
def PTM_BOOST_STAT.allowed (i : Nat) : Fld := ⟨PTM_BOOST_STAT i, 31, 1⟩
def PTM_BOOST_STAT.active (i : Nat) : Fld := ⟨PTM_BOOST_STAT i, 30, 1⟩
def PTM_BOOST_STAT.end_cause (i : Nat) : Fld := ⟨PTM_BOOST_STAT i, 27, 3⟩
def PTM_BOOST_STAT.lockout (i : Nat) : Fld := ⟨PTM_BOOST_STAT i, 26, 1⟩
def PTM_BOOST_STAT.credit_used (i : Nat) : Fld := ⟨PTM_BOOST_STAT i, 0, 16⟩
/-- Window offset of `PTM_PAD_CTL` (R663). -/
def PTM_PAD_CTL : Nat := 0x10180
def PTM_PAD_CTL.release : Fld := ⟨PTM_PAD_CTL, 8, 8⟩
def PTM_PAD_CTL.latched : Fld := ⟨PTM_PAD_CTL, 0, 8⟩
/-- Window offset of `PTM_GOV` (R663). -/
def PTM_GOV : Nat := 0x10184
def PTM_GOV.engaged : Fld := ⟨PTM_GOV, 8, 8⟩
def PTM_GOV.pct : Fld := ⟨PTM_GOV, 0, 8⟩
/-- Window offset of `PTM_TEMP_SEL` (R663). -/
def PTM_TEMP_SEL : Nat := 0x101a0
def PTM_TEMP_SEL.sensor : Fld := ⟨PTM_TEMP_SEL, 0, 8⟩
/-- Window offset of `PTM_TEMP` (R663). -/
def PTM_TEMP : Nat := 0x101a4
def PTM_TEMP.valid : Fld := ⟨PTM_TEMP, 31, 1⟩
def PTM_TEMP.failed : Fld := ⟨PTM_TEMP, 30, 1⟩
def PTM_TEMP.temp : Fld := ⟨PTM_TEMP, 0, 11⟩
/-- Window offset of `PTM_TJ` (R663). -/
def PTM_TJ (i : Nat) : Nat := 0x101c0 + 4 * i
def PTM_TJ.ok (i : Nat) : Fld := ⟨PTM_TJ i, 27, 5⟩
def PTM_TJ.tj (i : Nat) : Fld := ⟨PTM_TJ i, 0, 11⟩
/-- Window offset of `PTM_VIN` (R663). -/
def PTM_VIN : Nat := 0x101e4
def PTM_VIN.mv : Fld := ⟨PTM_VIN, 16, 16⟩
def PTM_VIN.ma : Fld := ⟨PTM_VIN, 0, 16⟩
/-- Window offset of `PTM_THERM` (R663). -/
def PTM_THERM : Nat := 0x101e8
def PTM_THERM.trip : Fld := ⟨PTM_THERM, 31, 1⟩
def PTM_THERM.overcurrent : Fld := ⟨PTM_THERM, 17, 1⟩
def PTM_THERM.hub_high : Fld := ⟨PTM_THERM, 16, 1⟩
def PTM_THERM.high : Fld := ⟨PTM_THERM, 0, 8⟩
/-- Window offset of `CLK_CTL` (R259). -/
def CLK_CTL : Nat := 0x20000
def CLK_CTL.auto_switch : Fld := ⟨CLK_CTL, 1, 1⟩
def CLK_CTL.switch : Fld := ⟨CLK_CTL, 0, 1⟩
/-- Window offset of `CLK_STAT` (R260). -/
def CLK_STAT : Nat := 0x20004
def CLK_STAT.active : Fld := ⟨CLK_STAT, 31, 1⟩
def CLK_STAT.a_locked : Fld := ⟨CLK_STAT, 30, 1⟩
def CLK_STAT.b_locked : Fld := ⟨CLK_STAT, 29, 1⟩
def CLK_STAT.tracking : Fld := ⟨CLK_STAT, 28, 1⟩
def CLK_STAT.ref_lost : Fld := ⟨CLK_STAT, 24, 4⟩
def CLK_STAT.holdover : Fld := ⟨CLK_STAT, 20, 4⟩
def CLK_STAT.switch_count : Fld := ⟨CLK_STAT, 0, 16⟩
/-- Window offset of `TIME_CTL` (R525). -/
def TIME_CTL : Nat := 0x30000
def TIME_CTL.disc : Fld := ⟨TIME_CTL, 30, 2⟩
def TIME_CTL.soft_state : Fld := ⟨TIME_CTL, 28, 2⟩
def TIME_CTL.step : Fld := ⟨TIME_CTL, 0, 1⟩
/-- Window offset of `TIME_STAT` (R525). -/
def TIME_STAT : Nat := 0x30004
def TIME_STAT.state : Fld := ⟨TIME_STAT, 30, 2⟩
def TIME_STAT.pps_err : Fld := ⟨TIME_STAT, 0, 16⟩
/-- Window offset of `TIME_ADJ` (R525). -/
def TIME_ADJ : Nat := 0x30008
def TIME_ADJ.adj : Fld := ⟨TIME_ADJ, 0, 32⟩
/-- Window offset of `TIME_RATE` (R525). -/
def TIME_RATE : Nat := 0x3000c
def TIME_RATE.rate : Fld := ⟨TIME_RATE, 0, 32⟩
/-- Window offset of `TIME_SET` (R525). -/
def TIME_SET (i : Nat) : Nat := 0x30010 + 4 * i
def TIME_SET.value (i : Nat) : Fld := ⟨TIME_SET i, 0, 32⟩
/-- Window offset of `TIME_NOW` (R525). -/
def TIME_NOW (i : Nat) : Nat := 0x30020 + 4 * i
def TIME_NOW.value (i : Nat) : Fld := ⟨TIME_NOW i, 0, 32⟩
/-- Window offset of `TIME_PPS_CTL` (R525). -/
def TIME_PPS_CTL : Nat := 0x3002c
def TIME_PPS_CTL.out_en : Fld := ⟨TIME_PPS_CTL, 31, 1⟩
def TIME_PPS_CTL.in_en : Fld := ⟨TIME_PPS_CTL, 30, 1⟩
def TIME_PPS_CTL.in_fall : Fld := ⟨TIME_PPS_CTL, 29, 1⟩
def TIME_PPS_CTL.width : Fld := ⟨TIME_PPS_CTL, 0, 20⟩
/-- Window offset of `TIME_PPS_IN` (R525). -/
def TIME_PPS_IN (i : Nat) : Nat := 0x30030 + 4 * i
def TIME_PPS_IN.value (i : Nat) : Fld := ⟨TIME_PPS_IN i, 0, 32⟩
/-- Window offset of `TIME_BEAT_CTL` (R341). -/
def TIME_BEAT_CTL : Nat := 0x30100
def TIME_BEAT_CTL.lead : Fld := ⟨TIME_BEAT_CTL, 16, 10⟩
def TIME_BEAT_CTL.phase : Fld := ⟨TIME_BEAT_CTL, 0, 11⟩
/-- Window offset of `TIME_BEAT_STAT` (R341). -/
def TIME_BEAT_STAT : Nat := 0x30104
def TIME_BEAT_STAT.hot : Fld := ⟨TIME_BEAT_STAT, 31, 1⟩
def TIME_BEAT_STAT.beat : Fld := ⟨TIME_BEAT_STAT, 0, 18⟩
/-- Window offset of `CFG_IDLE_TIMEOUT` (R563). -/
def CFG_IDLE_TIMEOUT : Nat := 0x40000
def CFG_IDLE_TIMEOUT.ms : Fld := ⟨CFG_IDLE_TIMEOUT, 0, 12⟩
/-- Window offset of `CFG_CTL` (R563). -/
def CFG_CTL : Nat := 0x40004
def CFG_CTL.fallback_s : Fld := ⟨CFG_CTL, 0, 8⟩
/-- Window offset of `CFG_STAT` (R564). -/
def CFG_STAT : Nat := 0x40008
def CFG_STAT.last_status : Fld := ⟨CFG_STAT, 24, 8⟩
def CFG_STAT.dev_state : Fld := ⟨CFG_STAT, 21, 3⟩
def CFG_STAT.loading : Fld := ⟨CFG_STAT, 20, 1⟩
def CFG_STAT.fallback_req : Fld := ⟨CFG_STAT, 19, 1⟩
def CFG_STAT.golden_tried : Fld := ⟨CFG_STAT, 18, 1⟩
def CFG_STAT.source : Fld := ⟨CFG_STAT, 16, 2⟩
def CFG_STAT.cfg_mode : Fld := ⟨CFG_STAT, 14, 2⟩
/-- Window offset of `CFG_GOLDEN_ADDR` (R564). -/
def CFG_GOLDEN_ADDR (i : Nat) : Nat := 0x4000c + 4 * i
def CFG_GOLDEN_ADDR.addr (i : Nat) : Fld := ⟨CFG_GOLDEN_ADDR i, 0, 32⟩
/-- Window offset of `CFG_OFFSET` (R564). -/
def CFG_OFFSET (i : Nat) : Nat := 0x40014 + 4 * i
def CFG_OFFSET.offset (i : Nat) : Fld := ⟨CFG_OFFSET i, 0, 32⟩
/-- Window offset of `CFG_IMAGE_VER` (R564). -/
def CFG_IMAGE_VER : Nat := 0x4001c
def CFG_IMAGE_VER.version : Fld := ⟨CFG_IMAGE_VER, 0, 32⟩
/-- Window offset of `CFG_ARV` (R564). -/
def CFG_ARV : Nat := 0x40020
def CFG_ARV.fused : Fld := ⟨CFG_ARV, 0, 7⟩
/-- Window offset of `SEC_LIFECYCLE` (R720). -/
def SEC_LIFECYCLE : Nat := 0x50000
def SEC_LIFECYCLE.lifecycle : Fld := ⟨SEC_LIFECYCLE, 30, 2⟩
def SEC_LIFECYCLE.pending : Fld := ⟨SEC_LIFECYCLE, 28, 2⟩
def SEC_LIFECYCLE.debug : Fld := ⟨SEC_LIFECYCLE, 26, 2⟩
def SEC_LIFECYCLE.trng_ok : Fld := ⟨SEC_LIFECYCLE, 25, 1⟩
def SEC_LIFECYCLE.slot_valid : Fld := ⟨SEC_LIFECYCLE, 16, 4⟩
def SEC_LIFECYCLE.slot_revoked : Fld := ⟨SEC_LIFECYCLE, 12, 4⟩
def SEC_LIFECYCLE.duk_killed : Fld := ⟨SEC_LIFECYCLE, 10, 1⟩
def SEC_LIFECYCLE.img_killed : Fld := ⟨SEC_LIFECYCLE, 9, 1⟩
def SEC_LIFECYCLE.img_key : Fld := ⟨SEC_LIFECYCLE, 8, 1⟩
def SEC_LIFECYCLE.auth_fail : Fld := ⟨SEC_LIFECYCLE, 0, 8⟩
/-- Window offset of `SEC_HALT_CAUSE` (R720). -/
def SEC_HALT_CAUSE : Nat := 0x50010
def SEC_HALT_CAUSE.active : Fld := ⟨SEC_HALT_CAUSE, 31, 1⟩
def SEC_HALT_CAUSE.valid : Fld := ⟨SEC_HALT_CAUSE, 30, 1⟩
def SEC_HALT_CAUSE.cause : Fld := ⟨SEC_HALT_CAUSE, 24, 4⟩
def SEC_HALT_CAUSE.die : Fld := ⟨SEC_HALT_CAUSE, 20, 4⟩
def SEC_HALT_CAUSE.channel : Fld := ⟨SEC_HALT_CAUSE, 16, 4⟩
def SEC_HALT_CAUSE.level : Fld := ⟨SEC_HALT_CAUSE, 14, 2⟩
def SEC_HALT_CAUSE.has_line : Fld := ⟨SEC_HALT_CAUSE, 13, 1⟩
def SEC_HALT_CAUSE.count : Fld := ⟨SEC_HALT_CAUSE, 0, 8⟩
/-- Window offset of `SEC_HALT_ADDR_LO` (R720). -/
def SEC_HALT_ADDR_LO : Nat := 0x50014
def SEC_HALT_ADDR_LO.addr : Fld := ⟨SEC_HALT_ADDR_LO, 0, 32⟩
/-- Window offset of `SEC_HALT_ADDR_HI` (R720). -/
def SEC_HALT_ADDR_HI : Nat := 0x50018
def SEC_HALT_ADDR_HI.addr_hi : Fld := ⟨SEC_HALT_ADDR_HI, 0, 8⟩
/-- Window offset of `SEC_HALT_SEC` (R720). -/
def SEC_HALT_SEC : Nat := 0x5001c
def SEC_HALT_SEC.sec : Fld := ⟨SEC_HALT_SEC, 0, 32⟩
/-- Window offset of `SEC_HALT_NS` (R720). -/
def SEC_HALT_NS : Nat := 0x50020
def SEC_HALT_NS.ns : Fld := ⟨SEC_HALT_NS, 0, 32⟩
/-- Window offset of `SEC_SEAL_CFG` (R395). -/
def SEC_SEAL_CFG : Nat := 0x50200
def SEC_SEAL_CFG.seal_en : Fld := ⟨SEC_SEAL_CFG, 31, 1⟩
def SEC_SEAL_CFG.stores : Fld := ⟨SEC_SEAL_CFG, 16, 5⟩
def SEC_SEAL_CFG.max_stores : Fld := ⟨SEC_SEAL_CFG, 8, 5⟩
def SEC_SEAL_CFG.sealed : Fld := ⟨SEC_SEAL_CFG, 0, 7⟩
/-- Window offset of `SEC_GRAN_SEL` (R395). -/
def SEC_GRAN_SEL : Nat := 0x50204
def SEC_GRAN_SEL.granule : Fld := ⟨SEC_GRAN_SEL, 0, 7⟩
/-- Window offset of `SEC_GRAN_RIGHTS` (R395). -/
def SEC_GRAN_RIGHTS : Nat := 0x50208
def SEC_GRAN_RIGHTS.rights : Fld := ⟨SEC_GRAN_RIGHTS, 0, 32⟩
/-- Window offset of `SEC_GRAN_MODE` (R395). -/
def SEC_GRAN_MODE : Nat := 0x5020c
def SEC_GRAN_MODE.valid : Fld := ⟨SEC_GRAN_MODE, 31, 1⟩
def SEC_GRAN_MODE.state : Fld := ⟨SEC_GRAN_MODE, 28, 3⟩
def SEC_GRAN_MODE.mode : Fld := ⟨SEC_GRAN_MODE, 24, 2⟩
def SEC_GRAN_MODE.slot : Fld := ⟨SEC_GRAN_MODE, 16, 3⟩
def SEC_GRAN_MODE.store : Fld := ⟨SEC_GRAN_MODE, 8, 8⟩
/-- Window offset of `DBG_DTX` (R748). -/
def DBG_DTX : Nat := 0x60010
def DBG_DTX.word : Fld := ⟨DBG_DTX, 0, 32⟩
/-- Window offset of `DBG_DRX` (R748). -/
def DBG_DRX : Nat := 0x60014
def DBG_DRX.word : Fld := ⟨DBG_DRX, 0, 32⟩
/-- Window offset of `DBG_DTERM_STAT` (R748). -/
def DBG_DTERM_STAT : Nat := 0x60018
def DBG_DTERM_STAT.tx_lost : Fld := ⟨DBG_DTERM_STAT, 2, 14⟩
def DBG_DTERM_STAT.rx_full : Fld := ⟨DBG_DTERM_STAT, 1, 1⟩
def DBG_DTERM_STAT.tx_full : Fld := ⟨DBG_DTERM_STAT, 0, 1⟩
/-- Window offset of `DBG_TRACE_CTL` (R748). -/
def DBG_TRACE_CTL : Nat := 0x60020
def DBG_TRACE_CTL.run : Fld := ⟨DBG_TRACE_CTL, 31, 1⟩
def DBG_TRACE_CTL.stop_full : Fld := ⟨DBG_TRACE_CTL, 30, 1⟩
/-- Window offset of `DBG_TRACE_STAT` (R748). -/
def DBG_TRACE_STAT : Nat := 0x60024
def DBG_TRACE_STAT.wrapped : Fld := ⟨DBG_TRACE_STAT, 31, 1⟩
def DBG_TRACE_STAT.lost : Fld := ⟨DBG_TRACE_STAT, 20, 11⟩
def DBG_TRACE_STAT.wp : Fld := ⟨DBG_TRACE_STAT, 0, 20⟩
/-- Window offset of `DBG_TRACE_PORT` (R748). -/
def DBG_TRACE_PORT : Nat := 0x60028
def DBG_TRACE_PORT.enable : Fld := ⟨DBG_TRACE_PORT, 31, 1⟩
def DBG_TRACE_PORT.lane : Fld := ⟨DBG_TRACE_PORT, 0, 5⟩
/-- Window offset of `DBG_TIN_CTL` (R748). -/
def DBG_TIN_CTL : Nat := 0x60030
def DBG_TIN_CTL.go : Fld := ⟨DBG_TIN_CTL, 31, 1⟩
def DBG_TIN_CTL.op : Fld := ⟨DBG_TIN_CTL, 28, 3⟩
def DBG_TIN_CTL.die : Fld := ⟨DBG_TIN_CTL, 25, 3⟩
def DBG_TIN_CTL.role : Fld := ⟨DBG_TIN_CTL, 21, 4⟩
def DBG_TIN_CTL.port : Fld := ⟨DBG_TIN_CTL, 12, 9⟩
/-- Window offset of `DBG_TIN_STAT` (R748). -/
def DBG_TIN_STAT : Nat := 0x60034
def DBG_TIN_STAT.state : Fld := ⟨DBG_TIN_STAT, 29, 3⟩
def DBG_TIN_STAT.status : Fld := ⟨DBG_TIN_STAT, 0, 8⟩
/-- Window offset of `DBG_TIN_BUF` (R748). -/
def DBG_TIN_BUF : Nat := 0x60038
def DBG_TIN_BUF.offset : Fld := ⟨DBG_TIN_BUF, 0, 24⟩
/-- Window offset of `DBG_XT_SRC` (R749). -/
def DBG_XT_SRC (i : Nat) : Nat := 0x60040 + 8 * i
def DBG_XT_SRC.stim (i : Nat) : Fld := ⟨DBG_XT_SRC i, 18, 8⟩
def DBG_XT_SRC.stim_en (i : Nat) : Fld := ⟨DBG_XT_SRC i, 17, 1⟩
def DBG_XT_SRC.second (i : Nat) : Fld := ⟨DBG_XT_SRC i, 16, 1⟩
def DBG_XT_SRC.te_late (i : Nat) : Fld := ⟨DBG_XT_SRC i, 8, 8⟩
def DBG_XT_SRC.watch (i : Nat) : Fld := ⟨DBG_XT_SRC i, 4, 4⟩
def DBG_XT_SRC.halt (i : Nat) : Fld := ⟨DBG_XT_SRC i, 0, 4⟩
/-- Window offset of `DBG_XT_SINK` (R749). -/
def DBG_XT_SINK (i : Nat) : Nat := 0x60044 + 8 * i
def DBG_XT_SINK.enable (i : Nat) : Fld := ⟨DBG_XT_SINK i, 31, 1⟩
def DBG_XT_SINK.pps_mark (i : Nat) : Fld := ⟨DBG_XT_SINK i, 30, 1⟩
def DBG_XT_SINK.trace_stop (i : Nat) : Fld := ⟨DBG_XT_SINK i, 29, 1⟩
def DBG_XT_SINK.trace_start (i : Nat) : Fld := ⟨DBG_XT_SINK i, 28, 1⟩
def DBG_XT_SINK.freeze (i : Nat) : Fld := ⟨DBG_XT_SINK i, 27, 1⟩
def DBG_XT_SINK.die (i : Nat) : Fld := ⟨DBG_XT_SINK i, 24, 3⟩
def DBG_XT_SINK.role (i : Nat) : Fld := ⟨DBG_XT_SINK i, 20, 4⟩
def DBG_XT_SINK.halt (i : Nat) : Fld := ⟨DBG_XT_SINK i, 0, 4⟩
/-- Window offset of `DBG_STIM` (R748). -/
def DBG_STIM (i : Nat) : Nat := 0x60400 + 4 * i
def DBG_STIM.word (i : Nat) : Fld := ⟨DBG_STIM i, 0, 32⟩
/-- Window offset of `MGC_BOOT` (R628). -/
def MGC_BOOT : Nat := 0x70000
def MGC_BOOT.start : Fld := ⟨MGC_BOOT, 31, 1⟩
def MGC_BOOT.offset : Fld := ⟨MGC_BOOT, 12, 15⟩
def MGC_BOOT.state : Fld := ⟨MGC_BOOT, 8, 2⟩
def MGC_BOOT.status : Fld := ⟨MGC_BOOT, 0, 8⟩
/-- Window offset of `MGC_CORE_STAT` (R628). -/
def MGC_CORE_STAT (i : Nat) : Nat := 0x70010 + 4 * i
def MGC_CORE_STAT.core (i : Nat) : Fld := ⟨MGC_CORE_STAT i, 29, 3⟩
def MGC_CORE_STAT.state (i : Nat) : Fld := ⟨MGC_CORE_STAT i, 27, 2⟩
def MGC_CORE_STAT.bites (i : Nat) : Fld := ⟨MGC_CORE_STAT i, 16, 8⟩
def MGC_CORE_STAT.epoch (i : Nat) : Fld := ⟨MGC_CORE_STAT i, 0, 16⟩
/-- Window offset of `MGC_WDG_CTL` (R628). -/
def MGC_WDG_CTL (i : Nat) : Nat := 0x70020 + 4 * i
def MGC_WDG_CTL.enable (i : Nat) : Fld := ⟨MGC_WDG_CTL i, 31, 1⟩
def MGC_WDG_CTL.pause (i : Nat) : Fld := ⟨MGC_WDG_CTL i, 30, 1⟩
def MGC_WDG_CTL.lock (i : Nat) : Fld := ⟨MGC_WDG_CTL i, 29, 1⟩
def MGC_WDG_CTL.timeout (i : Nat) : Fld := ⟨MGC_WDG_CTL i, 0, 16⟩
/-- Window offset of `MGC_WDG_KICK` (R628). -/
def MGC_WDG_KICK (i : Nat) : Nat := 0x70030 + 4 * i
def MGC_WDG_KICK.key (i : Nat) : Fld := ⟨MGC_WDG_KICK i, 0, 32⟩
/-- Window offset of `MGC_WDG_GRACE` (R628). -/
def MGC_WDG_GRACE : Nat := 0x70040
def MGC_WDG_GRACE.ms : Fld := ⟨MGC_WDG_GRACE, 0, 16⟩
/-- Window offset of `MGC_MSIP` (R628). -/
def MGC_MSIP (i : Nat) : Nat := 0x70050 + 4 * i
def MGC_MSIP.msip (i : Nat) : Fld := ⟨MGC_MSIP i, 0, 1⟩
/-- Window offset of `MGC_IRQ_EN` (R628). -/
def MGC_IRQ_EN (i : Nat) : Nat := 0x70060 + 4 * i
def MGC_IRQ_EN.en (i : Nat) : Fld := ⟨MGC_IRQ_EN i, 0, 32⟩
/-- Window offset of `MGC_IRQ_PEND` (R628). -/
def MGC_IRQ_PEND : Nat := 0x70070
def MGC_IRQ_PEND.pend : Fld := ⟨MGC_IRQ_PEND, 0, 32⟩
/-- Window offset of `MGC_MTIME` (R628). -/
def MGC_MTIME (i : Nat) : Nat := 0x70080 + 4 * i
def MGC_MTIME.value (i : Nat) : Fld := ⟨MGC_MTIME i, 0, 32⟩
/-- Window offset of `MGC_MTIMECMP` (R628). -/
def MGC_MTIMECMP (i : Nat) : Nat := 0x70090 + 4 * i
def MGC_MTIMECMP.value (i : Nat) : Fld := ⟨MGC_MTIMECMP i, 0, 32⟩
/-- Window offset of `MGC_L2_CMO_ADDR` (R628). -/
def MGC_L2_CMO_ADDR : Nat := 0x700b0
def MGC_L2_CMO_ADDR.line : Fld := ⟨MGC_L2_CMO_ADDR, 0, 32⟩
/-- Window offset of `MGC_L2_CMO` (R628). -/
def MGC_L2_CMO : Nat := 0x700b8
def MGC_L2_CMO.go : Fld := ⟨MGC_L2_CMO, 31, 1⟩
def MGC_L2_CMO.busy : Fld := ⟨MGC_L2_CMO, 30, 1⟩
def MGC_L2_CMO.op : Fld := ⟨MGC_L2_CMO, 28, 2⟩
def MGC_L2_CMO.line_hi : Fld := ⟨MGC_L2_CMO, 26, 2⟩
def MGC_L2_CMO.lines : Fld := ⟨MGC_L2_CMO, 0, 16⟩
/-- Window offset of `MGC_BUS_ERR_LO` (R628). -/
def MGC_BUS_ERR_LO : Nat := 0x700c0
def MGC_BUS_ERR_LO.addr : Fld := ⟨MGC_BUS_ERR_LO, 0, 32⟩
/-- Window offset of `MGC_BUS_ERR_HI` (R628). -/
def MGC_BUS_ERR_HI : Nat := 0x700c4
def MGC_BUS_ERR_HI.valid : Fld := ⟨MGC_BUS_ERR_HI, 31, 1⟩
def MGC_BUS_ERR_HI.more : Fld := ⟨MGC_BUS_ERR_HI, 16, 8⟩
def MGC_BUS_ERR_HI.status : Fld := ⟨MGC_BUS_ERR_HI, 8, 8⟩
def MGC_BUS_ERR_HI.addr_hi : Fld := ⟨MGC_BUS_ERR_HI, 0, 8⟩
/-- Window offset of `MGC_EVT_CTL` (R628). -/
def MGC_EVT_CTL : Nat := 0x700d0
def MGC_EVT_CTL.enable : Fld := ⟨MGC_EVT_CTL, 31, 1⟩
def MGC_EVT_CTL.offset : Fld := ⟨MGC_EVT_CTL, 15, 12⟩
/-- Window offset of `MGC_EVT_HEAD` (R628). -/
def MGC_EVT_HEAD : Nat := 0x700d4
def MGC_EVT_HEAD.head : Fld := ⟨MGC_EVT_HEAD, 0, 10⟩
/-- Window offset of `MGC_SEC_REQ` (R628). -/
def MGC_SEC_REQ (i : Nat) : Nat := 0x70100 + 4 * i
def MGC_SEC_REQ.value (i : Nat) : Fld := ⟨MGC_SEC_REQ i, 0, 32⟩
/-- Window offset of `MGC_SEC_RSP` (R628). -/
def MGC_SEC_RSP (i : Nat) : Nat := 0x70140 + 4 * i
def MGC_SEC_RSP.value (i : Nat) : Fld := ⟨MGC_SEC_RSP i, 0, 32⟩
/-- Window offset of `MGC_SEC_CTL` (R628). -/
def MGC_SEC_CTL : Nat := 0x70180
def MGC_SEC_CTL.go : Fld := ⟨MGC_SEC_CTL, 31, 1⟩
def MGC_SEC_CTL.busy : Fld := ⟨MGC_SEC_CTL, 30, 1⟩
def MGC_SEC_CTL.status : Fld := ⟨MGC_SEC_CTL, 0, 8⟩
/-- Window offset of `HQE_STAT` (R448). -/
def HQE_STAT : Nat := 0x80004
def HQE_STAT.dev_state : Fld := ⟨HQE_STAT, 29, 3⟩
def HQE_STAT.power : Fld := ⟨HQE_STAT, 26, 3⟩
def HQE_STAT.lifecycle : Fld := ⟨HQE_STAT, 24, 2⟩
def HQE_STAT.dram_ready : Fld := ⟨HQE_STAT, 23, 1⟩
/-- Window offset of `HQE_ASQ_LO` (R449). -/
def HQE_ASQ_LO : Nat := 0x80010
def HQE_ASQ_LO.base_lo : Fld := ⟨HQE_ASQ_LO, 12, 20⟩
/-- Window offset of `HQE_ASQ_HI` (R449). -/
def HQE_ASQ_HI : Nat := 0x80014
def HQE_ASQ_HI.base_hi : Fld := ⟨HQE_ASQ_HI, 0, 32⟩
/-- Window offset of `HQE_ACQ_LO` (R449). -/
def HQE_ACQ_LO : Nat := 0x80018
def HQE_ACQ_LO.base_lo : Fld := ⟨HQE_ACQ_LO, 12, 20⟩
/-- Window offset of `HQE_ACQ_HI` (R449). -/
def HQE_ACQ_HI : Nat := 0x8001c
def HQE_ACQ_HI.base_hi : Fld := ⟨HQE_ACQ_HI, 0, 32⟩
/-- Window offset of `HQE_QCTL` (R450). -/
def HQE_QCTL : Nat := 0x80020
def HQE_QCTL.enable : Fld := ⟨HQE_QCTL, 31, 1⟩
def HQE_QCTL.state : Fld := ⟨HQE_QCTL, 29, 2⟩
def HQE_QCTL.cq_log2 : Fld := ⟨HQE_QCTL, 19, 5⟩
def HQE_QCTL.sq_log2 : Fld := ⟨HQE_QCTL, 14, 5⟩
def HQE_QCTL.irq_en : Fld := ⟨HQE_QCTL, 11, 1⟩
def HQE_QCTL.vector : Fld := ⟨HQE_QCTL, 0, 11⟩
/-- Window offset of `HQE_ERR` (R451). -/
def HQE_ERR : Nat := 0x80040
def HQE_ERR.db_invalid : Fld := ⟨HQE_ERR, 24, 8⟩
def HQE_ERR.db_foreign : Fld := ⟨HQE_ERR, 16, 8⟩
def HQE_ERR.bar_denied : Fld := ⟨HQE_ERR, 8, 8⟩
def HQE_ERR.orphaned : Fld := ⟨HQE_ERR, 0, 8⟩
/-- Window offset of `PCIE_LINK` (R787). -/
def PCIE_LINK (i : Nat) : Nat := 0x90000 + 4 * i
def PCIE_LINK.up (i : Nat) : Fld := ⟨PCIE_LINK i, 31, 1⟩
def PCIE_LINK.flit (i : Nat) : Fld := ⟨PCIE_LINK i, 30, 1⟩
def PCIE_LINK.gen (i : Nat) : Fld := ⟨PCIE_LINK i, 27, 3⟩
def PCIE_LINK.width (i : Nat) : Fld := ⟨PCIE_LINK i, 22, 5⟩
def PCIE_LINK.ltssm (i : Nat) : Fld := ⟨PCIE_LINK i, 19, 3⟩
def PCIE_LINK.recoveries (i : Nat) : Fld := ⟨PCIE_LINK i, 0, 16⟩
/-- Window offset of `PCIE_ERR` (R787). -/
def PCIE_ERR (i : Nat) : Nat := 0x90010 + 4 * i
def PCIE_ERR.corr (i : Nat) : Fld := ⟨PCIE_ERR i, 16, 16⟩
def PCIE_ERR.uncorr (i : Nat) : Fld := ⟨PCIE_ERR i, 0, 16⟩
/-- Window offset of `NOC_TMO` (R297). -/
def NOC_TMO (i : Nat) : Nat := 0xa0000 + 4 * i
def NOC_TMO.us (i : Nat) : Fld := ⟨NOC_TMO i, 0, 20⟩
/-- Window offset of `NOC_ERR` (R298). -/
def NOC_ERR : Nat := 0xa0020
def NOC_ERR.hdr_uncorr : Fld := ⟨NOC_ERR, 24, 8⟩
def NOC_ERR.no_route : Fld := ⟨NOC_ERR, 16, 8⟩
def NOC_ERR.discard : Fld := ⟨NOC_ERR, 0, 16⟩
/-- Window offset of `NOC_LATE` (R298). -/
def NOC_LATE : Nat := 0xa0024
def NOC_LATE.late : Fld := ⟨NOC_LATE, 16, 16⟩
def NOC_LATE.timeouts : Fld := ⟨NOC_LATE, 0, 16⟩
/-- Window offset of `NOC_SPINE` (R298). -/
def NOC_SPINE : Nat := 0xa0028
def NOC_SPINE.spare_used : Fld := ⟨NOC_SPINE, 31, 1⟩
def NOC_SPINE.spare_for : Fld := ⟨NOC_SPINE, 27, 4⟩
def NOC_SPINE.failed : Fld := ⟨NOC_SPINE, 0, 13⟩
/-- Window offset of `LRD_LAYOUT` (R194). -/
def LRD_LAYOUT : Nat := 0xb0000
def LRD_LAYOUT.lock : Fld := ⟨LRD_LAYOUT, 31, 1⟩
def LRD_LAYOUT.trace_mib : Fld := ⟨LRD_LAYOUT, 16, 8⟩
def LRD_LAYOUT.image_mib : Fld := ⟨LRD_LAYOUT, 8, 8⟩
def LRD_LAYOUT.secure_mib : Fld := ⟨LRD_LAYOUT, 0, 8⟩
/-- Window offset of `LRD_RIGHTS` (R195). -/
def LRD_RIGHTS : Nat := 0xb0004
/-- Window offset of `LRD_ERR` (R208). -/
def LRD_ERR : Nat := 0xb000c
def LRD_ERR.uncorr : Fld := ⟨LRD_ERR, 24, 8⟩
def LRD_ERR.denied : Fld := ⟨LRD_ERR, 16, 8⟩
def LRD_ERR.corr : Fld := ⟨LRD_ERR, 0, 16⟩
/-- Window offset of `POOL_STAT` (R208). -/
def POOL_STAT : Nat := 0xb0010
def POOL_STAT.free : Fld := ⟨POOL_STAT, 16, 15⟩
def POOL_STAT.empty_waits : Fld := ⟨POOL_STAT, 8, 8⟩
def POOL_STAT.retired : Fld := ⟨POOL_STAT, 0, 8⟩
/-- Window offset of `SPR_POLICY` (R599). -/
def SPR_POLICY : Nat := 0xc0000
def SPR_POLICY.mem_auto : Fld := ⟨SPR_POLICY, 1, 1⟩
def SPR_POLICY.tin_auto : Fld := ⟨SPR_POLICY, 0, 1⟩
/-- Window offset of `SPR_INV` (R599). -/
def SPR_INV : Nat := 0xc0004
def SPR_INV.tins_spare : Fld := ⟨SPR_INV, 28, 4⟩
def SPR_INV.tins_retired : Fld := ⟨SPR_INV, 21, 7⟩
def SPR_INV.spine_used : Fld := ⟨SPR_INV, 20, 1⟩
def SPR_INV.core_used : Fld := ⟨SPR_INV, 19, 1⟩
def SPR_INV.reserve_used : Fld := ⟨SPR_INV, 18, 1⟩
def SPR_INV.clk_standby : Fld := ⟨SPR_INV, 17, 1⟩
def SPR_INV.knd_single : Fld := ⟨SPR_INV, 9, 8⟩
def SPR_INV.knd_none : Fld := ⟨SPR_INV, 1, 8⟩
/-- Window offset of `SPR_TIN_SEL` (R599). -/
def SPR_TIN_SEL : Nat := 0xc0008
def SPR_TIN_SEL.tin : Fld := ⟨SPR_TIN_SEL, 0, 7⟩
/-- Window offset of `SPR_TIN_DRAIN` (R599). -/
def SPR_TIN_DRAIN : Nat := 0xc000c
def SPR_TIN_DRAIN.count : Fld := ⟨SPR_TIN_DRAIN, 0, 32⟩
/-- Window offset of `SPR_ROLE_LO` (R599). -/
def SPR_ROLE_LO (i : Nat) : Nat := 0xc0040 + 8 * i
def SPR_ROLE_LO.tin_r (i : Nat) : Fld := ⟨SPR_ROLE_LO i, 0, 32⟩
/-- Window offset of `SPR_ROLE_HI` (R599). -/
def SPR_ROLE_HI (i : Nat) : Nat := 0xc0044 + 8 * i
def SPR_ROLE_HI.tin_r (i : Nat) : Fld := ⟨SPR_ROLE_HI i, 0, 20⟩
/-- Window offset of `SPR_EPOCH` (R599). -/
def SPR_EPOCH (i : Nat) : Nat := 0xc0080 + 4 * i
def SPR_EPOCH.epoch (i : Nat) : Fld := ⟨SPR_EPOCH i, 0, 16⟩
/-- Window offset of `DIE_STAT` (R685). -/
def DIE_STAT (d : Nat) : Nat := dieBase d + 0x0
def DIE_STAT.state (d : Nat) : Fld := ⟨DIE_STAT d, 29, 3⟩
def DIE_STAT.last_cause (d : Nat) : Fld := ⟨DIE_STAT d, 26, 3⟩
def DIE_STAT.resets (d : Nat) : Fld := ⟨DIE_STAT d, 8, 8⟩
def DIE_STAT.power_losses (d : Nat) : Fld := ⟨DIE_STAT d, 0, 8⟩
/-- Window offset of `DIE_CLK_STAT` (R261). -/
def DIE_CLK_STAT (d : Nat) : Nat := dieBase d + 0x8
def DIE_CLK_STAT.lost (d : Nat) : Fld := ⟨DIE_CLK_STAT d, 31, 1⟩
def DIE_CLK_STAT.path_other (d : Nat) : Fld := ⟨DIE_CLK_STAT d, 30, 1⟩
def DIE_CLK_STAT.unstable (d : Nat) : Fld := ⟨DIE_CLK_STAT d, 20, 4⟩
def DIE_CLK_STAT.evt_overrun (d : Nat) : Fld := ⟨DIE_CLK_STAT d, 16, 4⟩
def DIE_CLK_STAT.underrun (d : Nat) : Fld := ⟨DIE_CLK_STAT d, 12, 4⟩
def DIE_CLK_STAT.overrun (d : Nat) : Fld := ⟨DIE_CLK_STAT d, 8, 4⟩
def DIE_CLK_STAT.loss_count (d : Nat) : Fld := ⟨DIE_CLK_STAT d, 0, 8⟩
/-- Window offset of `DIE_PORT_ERR` (R786). -/
def DIE_PORT_ERR (d : Nat) : Nat := dieBase d + 0x10
def DIE_PORT_ERR.valid (d : Nat) : Fld := ⟨DIE_PORT_ERR d, 31, 1⟩
def DIE_PORT_ERR.cause (d : Nat) : Fld := ⟨DIE_PORT_ERR d, 28, 3⟩
def DIE_PORT_ERR.domain (d : Nat) : Fld := ⟨DIE_PORT_ERR d, 24, 4⟩
def DIE_PORT_ERR.src (d : Nat) : Fld := ⟨DIE_PORT_ERR d, 12, 12⟩
def DIE_PORT_ERR.more (d : Nat) : Fld := ⟨DIE_PORT_ERR d, 0, 8⟩
/-- Window offset of `DIE_PORT_ADDR` (R786). -/
def DIE_PORT_ADDR (d : Nat) : Nat := dieBase d + 0x14
def DIE_PORT_ADDR.offset (d : Nat) : Fld := ⟨DIE_PORT_ADDR d, 0, 24⟩
/-- Window offset of `DIE_GPIO_CFG` (R759). -/
def DIE_GPIO_CFG (d k : Nat) : Nat := dieBase d + 0x40 + 0x4 * k
def DIE_GPIO_CFG.halt (d k : Nat) : Fld := ⟨DIE_GPIO_CFG d k, 16, 2⟩
def DIE_GPIO_CFG.owner (d k : Nat) : Fld := ⟨DIE_GPIO_CFG d k, 12, 4⟩
def DIE_GPIO_CFG.drive (d k : Nat) : Fld := ⟨DIE_GPIO_CFG d k, 10, 2⟩
def DIE_GPIO_CFG.od (d k : Nat) : Fld := ⟨DIE_GPIO_CFG d k, 9, 1⟩
def DIE_GPIO_CFG.pull (d k : Nat) : Fld := ⟨DIE_GPIO_CFG d k, 6, 2⟩
def DIE_GPIO_CFG.oe (d k : Nat) : Fld := ⟨DIE_GPIO_CFG d k, 0, 1⟩
/-- Window offset of `DIE_GPIO_OUT` (R760). -/
def DIE_GPIO_OUT (d : Nat) : Nat := dieBase d + 0x50
def DIE_GPIO_OUT.out (d : Nat) : Fld := ⟨DIE_GPIO_OUT d, 0, 4⟩
/-- Window offset of `DIE_GPIO_IN` (R760). -/
def DIE_GPIO_IN (d : Nat) : Nat := dieBase d + 0x54
def DIE_GPIO_IN.in_ (d : Nat) : Fld := ⟨DIE_GPIO_IN d, 0, 4⟩
/-- Window offset of `TIN_STAT` (R598). -/
def TIN_STAT (t : Nat) : Nat := dieBase (t / 13) + 0x10000 + 0x100 * (t % 13)
def TIN_STAT.state (t : Nat) : Fld := ⟨TIN_STAT t, 29, 3⟩
def TIN_STAT.role (t : Nat) : Fld := ⟨TIN_STAT t, 25, 4⟩
def TIN_STAT.knead_due (t : Nat) : Fld := ⟨TIN_STAT t, 24, 1⟩
def TIN_STAT.faults (t : Nat) : Fld := ⟨TIN_STAT t, 22, 2⟩
def TIN_STAT.returned (t : Nat) : Fld := ⟨TIN_STAT t, 21, 1⟩
def TIN_STAT.epoch (t : Nat) : Fld := ⟨TIN_STAT t, 0, 16⟩
/-- Window offset of `TIN_PANTRY_ERR` (R207). -/
def TIN_PANTRY_ERR (t : Nat) : Nat := dieBase (t / 13) + 0x10004 + 0x100 * (t % 13)
def TIN_PANTRY_ERR.fifo_fault (t : Nat) : Fld := ⟨TIN_PANTRY_ERR t, 24, 8⟩
def TIN_PANTRY_ERR.uncorr (t : Nat) : Fld := ⟨TIN_PANTRY_ERR t, 16, 8⟩
def TIN_PANTRY_ERR.no_spare (t : Nat) : Fld := ⟨TIN_PANTRY_ERR t, 12, 4⟩
def TIN_PANTRY_ERR.corr (t : Nat) : Fld := ⟨TIN_PANTRY_ERR t, 0, 12⟩
/-- Window offset of `TIN_RATE` (R110). -/
def TIN_RATE (t : Nat) : Nat := dieBase (t / 13) + 0x10008 + 0x100 * (t % 13)
def TIN_RATE.valid (t : Nat) : Fld := ⟨TIN_RATE t, 31, 1⟩
def TIN_RATE.stable (t : Nat) : Fld := ⟨TIN_RATE t, 30, 1⟩
def TIN_RATE.ring_failed (t : Nat) : Fld := ⟨TIN_RATE t, 24, 4⟩
def TIN_RATE.rate_max (t : Nat) : Fld := ⟨TIN_RATE t, 12, 12⟩
def TIN_RATE.rate (t : Nat) : Fld := ⟨TIN_RATE t, 0, 12⟩
/-- Window offset of `TIN_WEAR` (R125). -/
def TIN_WEAR (t : Nat) : Nat := dieBase (t / 13) + 0x1000c + 0x100 * (t % 13)
def TIN_WEAR.due (t : Nat) : Fld := ⟨TIN_WEAR t, 31, 1⟩
def TIN_WEAR.eol (t : Nat) : Fld := ⟨TIN_WEAR t, 30, 1⟩
def TIN_WEAR.cause (t : Nat) : Fld := ⟨TIN_WEAR t, 28, 2⟩
def TIN_WEAR.count (t : Nat) : Fld := ⟨TIN_WEAR t, 24, 4⟩
def TIN_WEAR.baseline (t : Nat) : Fld := ⟨TIN_WEAR t, 12, 12⟩
def TIN_WEAR.norm_rate (t : Nat) : Fld := ⟨TIN_WEAR t, 0, 12⟩
/-- Window offset of `KND_STAT` (R600). -/
def KND_STAT (d : Nat) : Nat := dieBase d + 0x20000
def KND_STAT.active (d : Nat) : Fld := ⟨KND_STAT d, 31, 1⟩
def KND_STAT.checker (d : Nat) : Fld := ⟨KND_STAT d, 30, 1⟩
def KND_STAT.scrubbing (d : Nat) : Fld := ⟨KND_STAT d, 29, 1⟩
def KND_STAT.restarts (d : Nat) : Fld := ⟨KND_STAT d, 16, 8⟩
def KND_STAT.passes (d : Nat) : Fld := ⟨KND_STAT d, 0, 16⟩
/-- Window offset of `KND_CORR` (R600). -/
def KND_CORR (d : Nat) : Nat := dieBase d + 0x20004
def KND_CORR.restored (d : Nat) : Fld := ⟨KND_CORR d, 16, 16⟩
def KND_CORR.corr (d : Nat) : Fld := ⟨KND_CORR d, 0, 16⟩
/-- Window offset of `KND_LAST` (R600). -/
def KND_LAST (d : Nat) : Nat := dieBase d + 0x20008
def KND_LAST.tin (d : Nat) : Fld := ⟨KND_LAST d, 28, 4⟩
def KND_LAST.frame (d : Nat) : Fld := ⟨KND_LAST d, 0, 16⟩
/-- Window offset of `SEAM_CTL` (R159). -/
def SEAM_CTL (d e : Nat) : Nat := dieBase d + 0x30000 + 0x20 * e
def SEAM_CTL.clear_min (d e : Nat) : Fld := ⟨SEAM_CTL d e, 8, 1⟩
def SEAM_CTL.warn (d e : Nat) : Fld := ⟨SEAM_CTL d e, 0, 8⟩
/-- Window offset of `SEAM_STAT` (R160). -/
def SEAM_STAT (d e : Nat) : Nat := dieBase d + 0x30004 + 0x20 * e
def SEAM_STAT.state (d e : Nat) : Fld := ⟨SEAM_STAT d e, 29, 3⟩
def SEAM_STAT.peer_epoch (d e : Nat) : Fld := ⟨SEAM_STAT d e, 0, 16⟩
/-- Window offset of `SEAM_SPARE` (R161). -/
def SEAM_SPARE (d e : Nat) : Nat := dieBase d + 0x30008 + 0x20 * e
def SEAM_SPARE.spare_cw (d e : Nat) : Fld := ⟨SEAM_SPARE d e, 25, 7⟩
def SEAM_SPARE.spare_acw (d e : Nat) : Fld := ⟨SEAM_SPARE d e, 18, 7⟩
def SEAM_SPARE.wires_spared (d e : Nat) : Fld := ⟨SEAM_SPARE d e, 5, 13⟩
/-- Window offset of `SEAM_FOLD` (R162). -/
def SEAM_FOLD (d e : Nat) : Nat := dieBase d + 0x3000c + 0x20 * e
def SEAM_FOLD.folded (d e : Nat) : Fld := ⟨SEAM_FOLD d e, 20, 12⟩
def SEAM_FOLD.lost (d e : Nat) : Fld := ⟨SEAM_FOLD d e, 8, 12⟩
/-- Window offset of `SEAM_SEL` (R163). -/
def SEAM_SEL (d e : Nat) : Nat := dieBase d + 0x30010 + 0x20 * e
def SEAM_SEL.channel (d e : Nat) : Fld := ⟨SEAM_SEL d e, 4, 12⟩
def SEAM_SEL.wire (d e : Nat) : Fld := ⟨SEAM_SEL d e, 0, 4⟩
/-- Window offset of `SEAM_MARGIN` (R164). -/
def SEAM_MARGIN (d e : Nat) : Nat := dieBase d + 0x30014 + 0x20 * e
def SEAM_MARGIN.folded (d e : Nat) : Fld := ⟨SEAM_MARGIN d e, 31, 1⟩
def SEAM_MARGIN.wstate (d e : Nat) : Fld := ⟨SEAM_MARGIN d e, 29, 2⟩
def SEAM_MARGIN.dozen (d e : Nat) : Fld := ⟨SEAM_MARGIN d e, 16, 13⟩
def SEAM_MARGIN.min (d e : Nat) : Fld := ⟨SEAM_MARGIN d e, 8, 8⟩
def SEAM_MARGIN.now (d e : Nat) : Fld := ⟨SEAM_MARGIN d e, 0, 8⟩
/-- Window offset of `SEAM_DISCARD` (R165). -/
def SEAM_DISCARD (d e : Nat) : Nat := dieBase d + 0x30018 + 0x20 * e
def SEAM_DISCARD.count (d e : Nat) : Fld := ⟨SEAM_DISCARD d e, 0, 32⟩
/-- Window offset of `SEAM_LATE` (R166). -/
def SEAM_LATE (d e : Nat) : Nat := dieBase d + 0x3001c + 0x20 * e
def SEAM_LATE.late (d e : Nat) : Fld := ⟨SEAM_LATE d e, 16, 16⟩
def SEAM_LATE.warned (d e : Nat) : Fld := ⟨SEAM_LATE d e, 0, 16⟩
/-- Window offset of `BL_STAT` (R299). -/
def BL_STAT (d k : Nat) : Nat := dieBase d + 0x30040 + 0x4 * k
def BL_STAT.state (d k : Nat) : Fld := ⟨BL_STAT d k, 30, 2⟩
def BL_STAT.spare_out (d k : Nat) : Fld := ⟨BL_STAT d k, 18, 2⟩
def BL_STAT.spare_in (d k : Nat) : Fld := ⟨BL_STAT d k, 16, 2⟩
def BL_STAT.wires_spared (d k : Nat) : Fld := ⟨BL_STAT d k, 0, 16⟩
/-- Window offset of `BL_TMO` (R299). -/
def BL_TMO (d : Nat) : Nat := dieBase d + 0x30050
def BL_TMO.late (d : Nat) : Fld := ⟨BL_TMO d, 16, 16⟩
def BL_TMO.timeouts (d : Nat) : Fld := ⟨BL_TMO d, 0, 16⟩
/-- Window offset of `MEM_CFG` (R338). -/
def MEM_CFG (c : Nat) : Nat := dieBase (c / 2) + 0x40000 + 0x1000 * (c % 2)
def MEM_CFG.lock (c : Nat) : Fld := ⟨MEM_CFG c, 31, 1⟩
def MEM_CFG.reserve (c : Nat) : Fld := ⟨MEM_CFG c, 7, 1⟩
def MEM_CFG.order (c : Nat) : Fld := ⟨MEM_CFG c, 5, 2⟩
def MEM_CFG.density (c : Nat) : Fld := ⟨MEM_CFG c, 3, 2⟩
def MEM_CFG.rate (c : Nat) : Fld := ⟨MEM_CFG c, 0, 3⟩
/-- Window offset of `MEM_STAT` (R339). -/
def MEM_STAT (c : Nat) : Nat := dieBase (c / 2) + 0x40004 + 0x1000 * (c % 2)
def MEM_STAT.state (c : Nat) : Fld := ⟨MEM_STAT c, 28, 4⟩
def MEM_STAT.hot (c : Nat) : Fld := ⟨MEM_STAT c, 27, 1⟩
def MEM_STAT.retrain_fail (c : Nat) : Fld := ⟨MEM_STAT c, 16, 8⟩
def MEM_STAT.progress (c : Nat) : Fld := ⟨MEM_STAT c, 0, 16⟩
/-- Window offset of `MEM_TIMING` (R339). -/
def MEM_TIMING (c : Nat) : Nat := dieBase (c / 2) + 0x40008 + 0x1000 * (c % 2)
def MEM_TIMING.trfcab (c : Nat) : Fld := ⟨MEM_TIMING c, 0, 9⟩
/-- Window offset of `MEM_ERR` (R339). -/
def MEM_ERR (c : Nat) : Nat := dieBase (c / 2) + 0x4000c + 0x1000 * (c % 2)
def MEM_ERR.uncorr (c : Nat) : Fld := ⟨MEM_ERR c, 24, 8⟩
def MEM_ERR.poison_read (c : Nat) : Fld := ⟨MEM_ERR c, 16, 8⟩
def MEM_ERR.corr (c : Nat) : Fld := ⟨MEM_ERR c, 0, 16⟩
/-- Window offset of `MEM_ERR_ADDR` (R340). -/
def MEM_ERR_ADDR (c : Nat) : Nat := dieBase (c / 2) + 0x40010 + 0x1000 * (c % 2)
def MEM_ERR_ADDR.valid (c : Nat) : Fld := ⟨MEM_ERR_ADDR c, 31, 1⟩
def MEM_ERR_ADDR.line (c : Nat) : Fld := ⟨MEM_ERR_ADDR c, 0, 31⟩
/-- Window offset of `MEM_QOS` (R340). -/
def MEM_QOS (c : Nat) : Nat := dieBase (c / 2) + 0x40014 + 0x1000 * (c % 2)
def MEM_QOS.wait_p0 (c : Nat) : Fld := ⟨MEM_QOS c, 16, 16⟩
def MEM_QOS.wait_p1 (c : Nat) : Fld := ⟨MEM_QOS c, 0, 16⟩
/-- Window offset of `MEM_RETIRE` (R340). -/
def MEM_RETIRE (c : Nat) : Nat := dieBase (c / 2) + 0x40018 + 0x1000 * (c % 2)
def MEM_RETIRE.uncorr_limit (c : Nat) : Fld := ⟨MEM_RETIRE c, 8, 8⟩
def MEM_RETIRE.train_limit (c : Nat) : Fld := ⟨MEM_RETIRE c, 0, 8⟩
/-- Window offset of `SEAL_CLOCK_LO` (R396). -/
def SEAL_CLOCK_LO (c : Nat) : Nat := dieBase (c / 2) + 0x4001c + 0x1000 * (c % 2)
def SEAL_CLOCK_LO.clock_lo (c : Nat) : Fld := ⟨SEAL_CLOCK_LO c, 0, 32⟩
/-- Window offset of `SEAL_CLOCK_HI` (R396). -/
def SEAL_CLOCK_HI (c : Nat) : Nat := dieBase (c / 2) + 0x40020 + 0x1000 * (c % 2)
def SEAL_CLOCK_HI.clock_hi (c : Nat) : Fld := ⟨SEAL_CLOCK_HI c, 0, 32⟩
/-- Window offset of `SEAL_CACHE` (R396). -/
def SEAL_CACHE (c : Nat) : Nat := dieBase (c / 2) + 0x40024 + 0x1000 * (c % 2)
def SEAL_CACHE.miss (c : Nat) : Fld := ⟨SEAL_CACHE c, 16, 16⟩
def SEAL_CACHE.dirty (c : Nat) : Fld := ⟨SEAL_CACHE c, 0, 16⟩
/-- Window offset of `SEAL_ERR` (R396). -/
def SEAL_ERR (c : Nat) : Nat := dieBase (c / 2) + 0x40028 + 0x1000 * (c % 2)
def SEAL_ERR.repair (c : Nat) : Fld := ⟨SEAL_ERR c, 24, 8⟩
def SEAL_ERR.subtree (c : Nat) : Fld := ⟨SEAL_ERR c, 16, 8⟩
def SEAL_ERR.denied (c : Nat) : Fld := ⟨SEAL_ERR c, 8, 8⟩
def SEAL_ERR.proof_lost (c : Nat) : Fld := ⟨SEAL_ERR c, 0, 8⟩
/-- Window offset of `LL_CTL` (R478). -/
def LL_CTL (l : Nat) : Nat := dieBase (l / 8) + 0x50000 + 0x100 * (l % 8)
def LL_CTL.req_state (l : Nat) : Fld := ⟨LL_CTL l, 29, 3⟩
def LL_CTL.rate (l : Nat) : Fld := ⟨LL_CTL l, 24, 5⟩
def LL_CTL.loopback (l : Nat) : Fld := ⟨LL_CTL l, 22, 2⟩
def LL_CTL.retrain (l : Nat) : Fld := ⟨LL_CTL l, 21, 1⟩
def LL_CTL.hold_adapt (l : Nat) : Fld := ⟨LL_CTL l, 20, 1⟩
def LL_CTL.gen_pat (l : Nat) : Fld := ⟨LL_CTL l, 16, 4⟩
def LL_CTL.chk_pat (l : Nat) : Fld := ⟨LL_CTL l, 12, 4⟩
def LL_CTL.inj_rate (l : Nat) : Fld := ⟨LL_CTL l, 6, 6⟩
def LL_CTL.inj_once (l : Nat) : Fld := ⟨LL_CTL l, 5, 1⟩
def LL_CTL.chk_clear (l : Nat) : Fld := ⟨LL_CTL l, 4, 1⟩
/-- Window offset of `LL_STAT` (R479). -/
def LL_STAT (l : Nat) : Nat := dieBase (l / 8) + 0x50004 + 0x100 * (l % 8)
def LL_STAT.state (l : Nat) : Fld := ⟨LL_STAT l, 29, 3⟩
def LL_STAT.signal (l : Nat) : Fld := ⟨LL_STAT l, 28, 1⟩
def LL_STAT.locked (l : Nat) : Fld := ⟨LL_STAT l, 27, 1⟩
def LL_STAT.chk_locked (l : Nat) : Fld := ⟨LL_STAT l, 26, 1⟩
def LL_STAT.eye_low (l : Nat) : Fld := ⟨LL_STAT l, 25, 1⟩
def LL_STAT.at_bound (l : Nat) : Fld := ⟨LL_STAT l, 24, 1⟩
def LL_STAT.eye (l : Nat) : Fld := ⟨LL_STAT l, 16, 8⟩
def LL_STAT.train_fail (l : Nat) : Fld := ⟨LL_STAT l, 0, 8⟩
/-- Window offset of `LL_EQ` (R480). -/
def LL_EQ (l : Nat) : Nat := dieBase (l / 8) + 0x50008 + 0x100 * (l % 8)
def LL_EQ.pre2 (l : Nat) : Fld := ⟨LL_EQ l, 28, 4⟩
def LL_EQ.pre1 (l : Nat) : Fld := ⟨LL_EQ l, 22, 6⟩
def LL_EQ.post1 (l : Nat) : Fld := ⟨LL_EQ l, 16, 6⟩
def LL_EQ.ctle (l : Nat) : Fld := ⟨LL_EQ l, 10, 6⟩
/-- Window offset of `LL_ERR` (R481). -/
def LL_ERR (l : Nat) : Nat := dieBase (l / 8) + 0x5000c + 0x100 * (l % 8)
def LL_ERR.count (l : Nat) : Fld := ⟨LL_ERR l, 0, 32⟩
/-- Window offset of `ML_CTL` (R478). -/
def ML_CTL (m : Nat) : Nat := dieBase (m / 4) + 0x60000 + 0x100 * (m % 4)
def ML_CTL.req_state (m : Nat) : Fld := ⟨ML_CTL m, 29, 3⟩
def ML_CTL.rate (m : Nat) : Fld := ⟨ML_CTL m, 24, 5⟩
def ML_CTL.loopback (m : Nat) : Fld := ⟨ML_CTL m, 22, 2⟩
def ML_CTL.retrain (m : Nat) : Fld := ⟨ML_CTL m, 21, 1⟩
def ML_CTL.hold_adapt (m : Nat) : Fld := ⟨ML_CTL m, 20, 1⟩
def ML_CTL.gen_pat (m : Nat) : Fld := ⟨ML_CTL m, 16, 4⟩
def ML_CTL.chk_pat (m : Nat) : Fld := ⟨ML_CTL m, 12, 4⟩
def ML_CTL.inj_rate (m : Nat) : Fld := ⟨ML_CTL m, 6, 6⟩
def ML_CTL.inj_once (m : Nat) : Fld := ⟨ML_CTL m, 5, 1⟩
def ML_CTL.chk_clear (m : Nat) : Fld := ⟨ML_CTL m, 4, 1⟩
/-- Window offset of `ML_STAT` (R479). -/
def ML_STAT (m : Nat) : Nat := dieBase (m / 4) + 0x60004 + 0x100 * (m % 4)
def ML_STAT.state (m : Nat) : Fld := ⟨ML_STAT m, 29, 3⟩
def ML_STAT.signal (m : Nat) : Fld := ⟨ML_STAT m, 28, 1⟩
def ML_STAT.locked (m : Nat) : Fld := ⟨ML_STAT m, 27, 1⟩
def ML_STAT.chk_locked (m : Nat) : Fld := ⟨ML_STAT m, 26, 1⟩
def ML_STAT.eye_low (m : Nat) : Fld := ⟨ML_STAT m, 25, 1⟩
def ML_STAT.at_bound (m : Nat) : Fld := ⟨ML_STAT m, 24, 1⟩
def ML_STAT.eye (m : Nat) : Fld := ⟨ML_STAT m, 16, 8⟩
def ML_STAT.train_fail (m : Nat) : Fld := ⟨ML_STAT m, 0, 8⟩
/-- Window offset of `ML_EQ` (R480). -/
def ML_EQ (m : Nat) : Nat := dieBase (m / 4) + 0x60008 + 0x100 * (m % 4)
def ML_EQ.pre2 (m : Nat) : Fld := ⟨ML_EQ m, 28, 4⟩
def ML_EQ.pre1 (m : Nat) : Fld := ⟨ML_EQ m, 22, 6⟩
def ML_EQ.post1 (m : Nat) : Fld := ⟨ML_EQ m, 16, 6⟩
def ML_EQ.ctle (m : Nat) : Fld := ⟨ML_EQ m, 10, 6⟩
/-- Window offset of `ML_ERR` (R481). -/
def ML_ERR (m : Nat) : Nat := dieBase (m / 4) + 0x6000c + 0x100 * (m % 4)
def ML_ERR.count (m : Nat) : Fld := ⟨ML_ERR m, 0, 32⟩
/-- Window offset of `MAC_PORT_CFG` (R524). -/
def MAC_PORT_CFG (d p : Nat) : Nat := dieBase d + 0x70000 + 0x4 * p
def MAC_PORT_CFG.enable (d p : Nat) : Fld := ⟨MAC_PORT_CFG d p, 31, 1⟩
def MAC_PORT_CFG.up (d p : Nat) : Fld := ⟨MAC_PORT_CFG d p, 30, 1⟩
def MAC_PORT_CFG.mode (d p : Nat) : Fld := ⟨MAC_PORT_CFG d p, 26, 4⟩
def MAC_PORT_CFG.fec (d p : Nat) : Fld := ⟨MAC_PORT_CFG d p, 24, 2⟩
def MAC_PORT_CFG.drop_bad (d p : Nat) : Fld := ⟨MAC_PORT_CFG d p, 23, 1⟩
def MAC_PORT_CFG.chan_base (d p : Nat) : Fld := ⟨MAC_PORT_CFG d p, 14, 8⟩
def MAC_PORT_CFG.max_len (d p : Nat) : Fld := ⟨MAC_PORT_CFG d p, 0, 14⟩
/-- Window offset of `SDI_CFG` (R524). -/
def SDI_CFG (d m : Nat) : Nat := dieBase d + 0x70030 + 0x4 * m
def SDI_CFG.crc_ins (d m : Nat) : Fld := ⟨SDI_CFG d m, 11, 1⟩
def SDI_CFG.ln_ins (d m : Nat) : Fld := ⟨SDI_CFG d m, 10, 1⟩
def SDI_CFG.link (d m : Nat) : Fld := ⟨SDI_CFG d m, 6, 2⟩
def SDI_CFG.std (d m : Nat) : Fld := ⟨SDI_CFG d m, 0, 4⟩
/-- Window offset of `SP_ROUTE` (R524). -/
def SP_ROUTE (d s : Nat) : Nat := dieBase d + 0x70040 + 0x4 * s
def SP_ROUTE.rejected (d s : Nat) : Fld := ⟨SP_ROUTE d s, 24, 8⟩
def SP_ROUTE.valid (d s : Nat) : Fld := ⟨SP_ROUTE d s, 12, 1⟩
def SP_ROUTE.node (d s : Nat) : Fld := ⟨SP_ROUTE d s, 0, 12⟩
/-- Window offset of `TE_CTL` (R524). -/
def TE_CTL (d : Nat) : Nat := dieBase d + 0x70060
def TE_CTL.sp_mask (d : Nat) : Fld := ⟨TE_CTL d, 24, 8⟩
def TE_CTL.lead (d : Nat) : Fld := ⟨TE_CTL d, 16, 8⟩
def TE_CTL.late_tol (d : Nat) : Fld := ⟨TE_CTL d, 0, 16⟩
/-- Window offset of `MAC_MEM_BASE` (R524). -/
def MAC_MEM_BASE (d : Nat) : Nat := dieBase d + 0x70064
def MAC_MEM_BASE.enable (d : Nat) : Fld := ⟨MAC_MEM_BASE d, 31, 1⟩
def MAC_MEM_BASE.block (d : Nat) : Fld := ⟨MAC_MEM_BASE d, 0, 9⟩
/-- Window offset of `MAC_CQ_HEAD` (R524). -/
def MAC_CQ_HEAD (d : Nat) : Nat := dieBase d + 0x70068
def MAC_CQ_HEAD.reset (d : Nat) : Fld := ⟨MAC_CQ_HEAD d, 31, 1⟩
def MAC_CQ_HEAD.queue (d : Nat) : Fld := ⟨MAC_CQ_HEAD d, 16, 4⟩
def MAC_CQ_HEAD.head (d : Nat) : Fld := ⟨MAC_CQ_HEAD d, 0, 6⟩
/-- Window offset of `MAC_CQ_STAT` (R524). -/
def MAC_CQ_STAT (d : Nat) : Nat := dieBase d + 0x7006c
def MAC_CQ_STAT.error (d : Nat) : Fld := ⟨MAC_CQ_STAT d, 16, 13⟩
def MAC_CQ_STAT.lost (d : Nat) : Fld := ⟨MAC_CQ_STAT d, 0, 16⟩
/-- Window offset of `MAC_ERR` (R524). -/
def MAC_ERR (d : Nat) : Nat := dieBase d + 0x70070
def MAC_ERR.bad_record (d : Nat) : Fld := ⟨MAC_ERR d, 24, 8⟩
def MAC_ERR.port_err (d : Nat) : Fld := ⟨MAC_ERR d, 0, 12⟩

/-- The common registers of a block (R783), at offsets 0xFFF0 to 0xFFFC. -/
def commonDefs : List RegDef :=
  [⟨0xFFF0, 1, 4, 1, [⟨24, 8, .ro, 0, 0, 255, 1, 0⟩, ⟨20, 4, .ro, 0, 0, 15, 1, 0⟩, ⟨0, 8, .ro, 0x10, 0, 255, 1, 0⟩]⟩,
   ⟨0xFFF4, 1, 4, 3, [⟨0, 6, .w1c, 0, 0, 63, 1, 0⟩]⟩,
   ⟨0xFFF8, 1, 4, 3, [⟨0, 6, .rw, 0x3C, 0, 63, 1, 0⟩]⟩,
   ⟨0xFFFC, 1, 4, 3, [⟨0, 6, .w1s, 0, 0, 63, 1, 0⟩]⟩]

/-- The registers of sub-block DIE of a fabric die. -/
def defsDieDie : List RegDef :=
  [
   -- DIE_STAT (R685)
   ⟨0x0, 1, 0x4, 1, [⟨29, 3, .ro, 0, 0, 7, 1, 0⟩, ⟨26, 3, .ro, 0, 0, 7, 1, 0⟩, ⟨8, 8, .ro, 0, 0, 255, 1, 0⟩, ⟨0,
     8, .ro, 0, 0, 255, 1, 0⟩]⟩,
   -- DIE_CLK_STAT (R261)
   ⟨0x8, 1, 0x4, 3, [⟨31, 1, .ro, 0, 0, 1, 1, 0⟩, ⟨30, 1, .ro, 0, 0, 1, 1, 2⟩, ⟨20, 4, .w1c, 0, 0, 15, 1, 0⟩,
     ⟨16, 4, .w1c, 0, 0, 15, 1, 0⟩, ⟨12, 4, .w1c, 0, 0, 15, 1, 0⟩, ⟨8, 4, .w1c, 0, 0, 15, 1, 0⟩, ⟨0, 8, .ro, 0,
     0, 255, 1, 0⟩]⟩,
   -- DIE_PORT_ERR (R786)
   ⟨0x10, 1, 0x4, 3, [⟨31, 1, .rc, 0, 0, 1, 1, 0⟩, ⟨28, 3, .ro, 0, 0, 7, 1, 0⟩, ⟨24, 4, .ro, 0, 0, 15, 1, 0⟩,
     ⟨12, 12, .ro, 0, 0, 4095, 1, 0⟩, ⟨0, 8, .rc, 0, 0, 255, 1, 0⟩]⟩,
   -- DIE_PORT_ADDR (R786)
   ⟨0x14, 1, 0x4, 3, [⟨0, 24, .ro, 0, 0, 16777215, 1, 0⟩]⟩,
   -- DIE_GPIO_CFG (R759)
   ⟨0x40, 4, 0x4, 3, [⟨16, 2, .rws, 3, 0, 3, 1, 2⟩, ⟨12, 4, .rw, 12, 0, 15, 1, 0⟩, ⟨10, 2, .rw, 1, 0, 2, 1, 0⟩,
     ⟨9, 1, .rw, 0, 0, 1, 1, 0⟩, ⟨6, 2, .rw, 1, 0, 2, 1, 0⟩, ⟨0, 1, .rw, 0, 0, 1, 1, 0⟩]⟩,
   -- DIE_GPIO_OUT (R760)
   ⟨0x50, 1, 0x4, 3, [⟨0, 4, .rw, 0, 0, 15, 1, 0⟩]⟩,
   -- DIE_GPIO_IN (R760)
   ⟨0x54, 1, 0x4, 3, [⟨0, 4, .ro, 0, 0, 15, 1, 0⟩]⟩]

/-- The registers of sub-block TIN of a fabric die. -/
def defsDieTin : List RegDef :=
  [
   -- TIN_STAT (R598)
   ⟨0x0, 13, 0x100, 1, [⟨29, 3, .ro, 3, 0, 7, 1, 0⟩, ⟨25, 4, .ro, 0, 0, 15, 1, 0⟩, ⟨24, 1, .ro, 0, 0, 1, 1, 0⟩,
     ⟨22, 2, .ro, 0, 0, 3, 1, 0⟩, ⟨21, 1, .ro, 0, 0, 1, 1, 0⟩, ⟨0, 16, .ro, 1, 0, 65535, 1, 0⟩]⟩,
   -- TIN_PANTRY_ERR (R207)
   ⟨0x4, 13, 0x100, 1, [⟨24, 8, .rc, 0, 0, 255, 1, 0⟩, ⟨16, 8, .rc, 0, 0, 255, 1, 0⟩, ⟨12, 4, .rc, 0, 0, 15, 1,
     0⟩, ⟨0, 12, .rc, 0, 0, 4095, 1, 0⟩]⟩,
   -- TIN_RATE (R110)
   ⟨0x8, 13, 0x100, 7, [⟨31, 1, .ro, 0, 0, 1, 1, 0⟩, ⟨30, 1, .ro, 0, 0, 1, 1, 0⟩, ⟨24, 4, .ro, 0, 0, 15, 1, 0⟩,
     ⟨12, 12, .ro, 0, 0, 4095, 1, 0⟩, ⟨0, 12, .ro, 0, 0, 4095, 1, 0⟩]⟩,
   -- TIN_WEAR (R125)
   ⟨0xc, 13, 0x100, 0, [⟨31, 1, .ro, 0, 0, 1, 1, 0⟩, ⟨30, 1, .ro, 0, 0, 1, 1, 0⟩, ⟨28, 2, .ro, 0, 0, 3, 1, 0⟩,
     ⟨24, 4, .ro, 0, 0, 15, 1, 0⟩, ⟨12, 12, .ro, 0, 0, 4095, 1, 0⟩, ⟨0, 12, .ro, 0, 0, 4095, 1, 0⟩]⟩]

/-- The registers of sub-block KND of a fabric die. -/
def defsDieKnd : List RegDef :=
  [
   -- KND_STAT (R600)
   ⟨0x0, 1, 0x4, 3, [⟨31, 1, .ro, 0, 0, 1, 1, 0⟩, ⟨30, 1, .ro, 1, 0, 1, 1, 0⟩, ⟨29, 1, .ro, 0, 0, 1, 1, 0⟩, ⟨16,
     8, .ro, 0, 0, 255, 1, 0⟩, ⟨0, 16, .ro, 0, 0, 65535, 1, 0⟩]⟩,
   -- KND_CORR (R600)
   ⟨0x4, 1, 0x4, 3, [⟨16, 16, .rc, 0, 0, 65535, 1, 0⟩, ⟨0, 16, .rc, 0, 0, 65535, 1, 0⟩]⟩,
   -- KND_LAST (R600)
   ⟨0x8, 1, 0x4, 3, [⟨28, 4, .ro, 0, 0, 15, 1, 0⟩, ⟨0, 16, .ro, 0, 0, 65535, 1, 0⟩]⟩]

/-- The registers of sub-block SEAM of a fabric die. -/
def defsDieSeam : List RegDef :=
  [
   -- SEAM_CTL (R159)
   ⟨0x0, 2, 0x20, 3, [⟨8, 1, .wo, 0, 0, 1, 1, 0⟩, ⟨0, 8, .rw, 25, 16, 60, 1, 0⟩]⟩,
   -- SEAM_STAT (R160)
   ⟨0x4, 2, 0x20, 3, [⟨29, 3, .ro, 0, 0, 7, 1, 0⟩, ⟨0, 16, .ro, 0, 0, 65535, 1, 0⟩]⟩,
   -- SEAM_SPARE (R161)
   ⟨0x8, 2, 0x20, 3, [⟨25, 7, .ro, 0, 0, 127, 1, 0⟩, ⟨18, 7, .ro, 0, 0, 127, 1, 0⟩, ⟨5, 13, .ro, 0, 0, 8191, 1,
     0⟩]⟩,
   -- SEAM_FOLD (R162)
   ⟨0xc, 2, 0x20, 3, [⟨20, 12, .ro, 0, 0, 4095, 1, 0⟩, ⟨8, 12, .ro, 0, 0, 4095, 1, 0⟩]⟩,
   -- SEAM_SEL (R163)
   ⟨0x10, 2, 0x20, 3, [⟨4, 12, .rw, 0, 0, 4095, 1, 0⟩, ⟨0, 4, .rw, 0, 0, 12, 1, 0⟩]⟩,
   -- SEAM_MARGIN (R164)
   ⟨0x14, 2, 0x20, 3, [⟨31, 1, .ro, 0, 0, 1, 1, 0⟩, ⟨29, 2, .ro, 0, 0, 3, 1, 0⟩, ⟨16, 13, .ro, 0, 0, 8191, 1, 0⟩,
     ⟨8, 8, .ro, 255, 0, 255, 1, 0⟩, ⟨0, 8, .ro, 255, 0, 255, 1, 0⟩]⟩,
   -- SEAM_DISCARD (R165)
   ⟨0x18, 2, 0x20, 3, [⟨0, 32, .rc, 0, 0, 4294967295, 1, 0⟩]⟩,
   -- SEAM_LATE (R166)
   ⟨0x1c, 2, 0x20, 3, [⟨16, 16, .rc, 0, 0, 65535, 1, 0⟩, ⟨0, 16, .rc, 0, 0, 65535, 1, 0⟩]⟩,
   -- BL_STAT (R299)
   ⟨0x40, 4, 0x4, 3, [⟨30, 2, .ro, 0, 0, 3, 1, 0⟩, ⟨18, 2, .ro, 0, 0, 3, 1, 0⟩, ⟨16, 2, .ro, 0, 0, 3, 1, 0⟩, ⟨0,
     16, .ro, 0, 0, 65535, 1, 0⟩]⟩,
   -- BL_TMO (R299)
   ⟨0x50, 1, 0x4, 3, [⟨16, 16, .rc, 0, 0, 65535, 1, 0⟩, ⟨0, 16, .rc, 0, 0, 65535, 1, 0⟩]⟩]

/-- The registers of sub-block MEM of a fabric die. -/
def defsDieMem : List RegDef :=
  [
   -- MEM_CFG (R338)
   ⟨0x0, 2, 0x1000, 1, [⟨31, 1, .rwl, 0, 0, 1, 1, 0⟩, ⟨7, 1, .rwl, 0, 0, 1, 1, 0⟩, ⟨5, 2, .rwl, 0, 0, 3, 1, 0⟩,
     ⟨3, 2, .rwl, 0, 0, 2, 1, 0⟩, ⟨0, 3, .rwl, 0, 0, 3, 1, 0⟩]⟩,
   -- MEM_STAT (R339)
   ⟨0x4, 2, 0x1000, 1, [⟨28, 4, .ro, 0, 0, 15, 1, 0⟩, ⟨27, 1, .ro, 0, 0, 1, 1, 0⟩, ⟨16, 8, .ro, 0, 0, 255, 1, 0⟩,
     ⟨0, 16, .ro, 0, 0, 65535, 1, 0⟩]⟩,
   -- MEM_TIMING (R339)
   ⟨0x8, 2, 0x1000, 1, [⟨0, 9, .rwl, 180, 120, 500, 1, 0⟩]⟩,
   -- MEM_ERR (R339)
   ⟨0xc, 2, 0x1000, 1, [⟨24, 8, .rc, 0, 0, 255, 1, 0⟩, ⟨16, 8, .rc, 0, 0, 255, 1, 0⟩, ⟨0, 16, .rc, 0, 0, 65535,
     1, 0⟩]⟩,
   -- MEM_ERR_ADDR (R340)
   ⟨0x10, 2, 0x1000, 1, [⟨31, 1, .rc, 0, 0, 1, 1, 0⟩, ⟨0, 31, .ro, 0, 0, 2147483647, 1, 0⟩]⟩,
   -- MEM_QOS (R340)
   ⟨0x14, 2, 0x1000, 1, [⟨16, 16, .rc, 0, 0, 65535, 1, 0⟩, ⟨0, 16, .rc, 0, 0, 65535, 1, 0⟩]⟩,
   -- MEM_RETIRE (R340)
   ⟨0x18, 2, 0x1000, 1, [⟨8, 8, .rw, 8, 0, 255, 1, 0⟩, ⟨0, 8, .rw, 4, 1, 255, 1, 0⟩]⟩,
   -- SEAL_CLOCK_LO (R396)
   ⟨0x1c, 2, 0x1000, 1, [⟨0, 32, .ro, 0, 0, 4294967295, 1, 0⟩]⟩,
   -- SEAL_CLOCK_HI (R396)
   ⟨0x20, 2, 0x1000, 1, [⟨0, 32, .ro, 0, 0, 4294967295, 1, 0⟩]⟩,
   -- SEAL_CACHE (R396)
   ⟨0x24, 2, 0x1000, 1, [⟨16, 16, .rc, 0, 0, 65535, 1, 0⟩, ⟨0, 16, .ro, 0, 0, 65535, 1, 0⟩]⟩,
   -- SEAL_ERR (R396)
   ⟨0x28, 2, 0x1000, 1, [⟨24, 8, .rc, 0, 0, 255, 1, 0⟩, ⟨16, 8, .rc, 0, 0, 255, 1, 0⟩, ⟨8, 8, .rc, 0, 0, 255, 1,
     0⟩, ⟨0, 8, .rc, 0, 0, 255, 1, 0⟩]⟩]

/-- The registers of sub-block LL of a fabric die. -/
def defsDieLl : List RegDef :=
  [
   -- LL_CTL (R478)
   ⟨0x0, 8, 0x100, 3, [⟨29, 3, .rw, 4, 0, 4, 1, 0⟩, ⟨24, 5, .rw, 0, 0, 31, 1, 0⟩, ⟨22, 2, .rw, 0, 0, 2, 1, 0⟩,
     ⟨21, 1, .wo, 0, 0, 1, 1, 0⟩, ⟨20, 1, .rw, 0, 0, 1, 1, 0⟩, ⟨16, 4, .rw, 0, 0, 15, 1, 0⟩, ⟨12, 4, .rw, 0, 0,
     15, 1, 0⟩, ⟨6, 6, .rw, 0, 0, 63, 1, 0⟩, ⟨5, 1, .wo, 0, 0, 1, 1, 0⟩, ⟨4, 1, .wo, 0, 0, 1, 1, 0⟩]⟩,
   -- LL_STAT (R479)
   ⟨0x4, 8, 0x100, 3, [⟨29, 3, .ro, 4, 0, 7, 1, 0⟩, ⟨28, 1, .ro, 0, 0, 1, 1, 0⟩, ⟨27, 1, .ro, 0, 0, 1, 1, 0⟩,
     ⟨26, 1, .ro, 0, 0, 1, 1, 0⟩, ⟨25, 1, .ro, 0, 0, 1, 1, 0⟩, ⟨24, 1, .ro, 0, 0, 1, 1, 0⟩, ⟨16, 8, .ro, 0, 0,
     255, 1, 0⟩, ⟨0, 8, .ro, 0, 0, 255, 1, 0⟩]⟩,
   -- LL_EQ (R480)
   ⟨0x8, 8, 0x100, 3, [⟨28, 4, .ro, 0, 0, 15, 1, 0⟩, ⟨22, 6, .ro, 0, 0, 63, 1, 0⟩, ⟨16, 6, .ro, 0, 0, 63, 1, 0⟩,
     ⟨10, 6, .ro, 0, 0, 63, 1, 0⟩]⟩,
   -- LL_ERR (R481)
   ⟨0xc, 8, 0x100, 3, [⟨0, 32, .rc, 0, 0, 4294967295, 1, 0⟩]⟩]

/-- The registers of sub-block ML of a fabric die. -/
def defsDieMl : List RegDef :=
  [
   -- ML_CTL (R478)
   ⟨0x0, 4, 0x100, 3, [⟨29, 3, .rw, 4, 0, 4, 1, 0⟩, ⟨24, 5, .rw, 0, 0, 31, 1, 0⟩, ⟨22, 2, .rw, 0, 0, 2, 1, 0⟩,
     ⟨21, 1, .wo, 0, 0, 1, 1, 0⟩, ⟨20, 1, .rw, 0, 0, 1, 1, 0⟩, ⟨16, 4, .rw, 0, 0, 15, 1, 0⟩, ⟨12, 4, .rw, 0, 0,
     15, 1, 0⟩, ⟨6, 6, .rw, 0, 0, 63, 1, 0⟩, ⟨5, 1, .wo, 0, 0, 1, 1, 0⟩, ⟨4, 1, .wo, 0, 0, 1, 1, 0⟩]⟩,
   -- ML_STAT (R479)
   ⟨0x4, 4, 0x100, 3, [⟨29, 3, .ro, 4, 0, 7, 1, 0⟩, ⟨28, 1, .ro, 0, 0, 1, 1, 0⟩, ⟨27, 1, .ro, 0, 0, 1, 1, 0⟩,
     ⟨26, 1, .ro, 0, 0, 1, 1, 0⟩, ⟨25, 1, .ro, 0, 0, 1, 1, 0⟩, ⟨24, 1, .ro, 0, 0, 1, 1, 0⟩, ⟨16, 8, .ro, 0, 0,
     255, 1, 0⟩, ⟨0, 8, .ro, 0, 0, 255, 1, 0⟩]⟩,
   -- ML_EQ (R480)
   ⟨0x8, 4, 0x100, 3, [⟨28, 4, .ro, 0, 0, 15, 1, 0⟩, ⟨22, 6, .ro, 0, 0, 63, 1, 0⟩, ⟨16, 6, .ro, 0, 0, 63, 1, 0⟩,
     ⟨10, 6, .ro, 0, 0, 63, 1, 0⟩]⟩,
   -- ML_ERR (R481)
   ⟨0xc, 4, 0x100, 3, [⟨0, 32, .rc, 0, 0, 4294967295, 1, 0⟩]⟩]

/-- The registers of sub-block MAC of a fabric die. -/
def defsDieMac : List RegDef :=
  [
   -- MAC_PORT_CFG (R524)
   ⟨0x0, 12, 0x4, 3, [⟨31, 1, .rw, 0, 0, 1, 1, 0⟩, ⟨30, 1, .ro, 0, 0, 1, 1, 0⟩, ⟨26, 4, .rw, 0, 0, 15, 1, 0⟩,
     ⟨24, 2, .rw, 0, 0, 2, 1, 0⟩, ⟨23, 1, .rw, 0, 0, 1, 1, 0⟩, ⟨14, 8, .rw, 0, 0, 191, 1, 0⟩, ⟨0, 14, .rw, 1518,
     64, 9600, 1, 0⟩]⟩,
   -- SDI_CFG (R524)
   ⟨0x30, 4, 0x4, 3, [⟨11, 1, .rw, 1, 0, 1, 1, 0⟩, ⟨10, 1, .rw, 1, 0, 1, 1, 0⟩, ⟨6, 2, .rw, 0, 0, 2, 1, 0⟩, ⟨0,
     4, .rw, 0, 0, 4, 1, 0⟩]⟩,
   -- SP_ROUTE (R524)
   ⟨0x40, 8, 0x4, 3, [⟨24, 8, .rc, 0, 0, 255, 1, 0⟩, ⟨12, 1, .rw, 0, 0, 1, 1, 0⟩, ⟨0, 12, .rw, 0, 0, 4095, 1,
     0⟩]⟩,
   -- TE_CTL (R524)
   ⟨0x60, 1, 0x4, 3, [⟨24, 8, .rw, 0, 0, 255, 1, 0⟩, ⟨16, 8, .rw, 5, 1, 255, 1, 0⟩, ⟨0, 16, .rw, 100, 0, 65535,
     1, 0⟩]⟩,
   -- MAC_MEM_BASE (R524)
   ⟨0x64, 1, 0x4, 3, [⟨31, 1, .rw, 0, 0, 1, 1, 0⟩, ⟨0, 9, .rw, 0, 0, 511, 1, 0⟩]⟩,
   -- MAC_CQ_HEAD (R524)
   ⟨0x68, 1, 0x4, 3, [⟨31, 1, .wo, 0, 0, 1, 1, 0⟩, ⟨16, 4, .wo, 0, 0, 15, 1, 0⟩, ⟨0, 6, .wo, 0, 0, 63, 1, 0⟩]⟩,
   -- MAC_CQ_STAT (R524)
   ⟨0x6c, 1, 0x4, 3, [⟨16, 13, .ro, 0, 0, 8191, 1, 0⟩, ⟨0, 16, .rc, 0, 0, 65535, 1, 0⟩]⟩,
   -- MAC_ERR (R524)
   ⟨0x70, 1, 0x4, 3, [⟨24, 8, .rc, 0, 0, 255, 1, 0⟩, ⟨0, 12, .w1c, 0, 0, 4095, 1, 0⟩]⟩]

/-- The registers of hub block GLB. -/
def defsGlb : List RegDef :=
  [
   -- GLB_DEVICE_ID (R785)
   ⟨0x0, 1, 0x4, 1, [⟨0, 32, .ro, 1415055510, 0, 4294967295, 1, 0⟩]⟩,
   -- GLB_REV (R785)
   ⟨0x4, 1, 0x4, 1, [⟨8, 8, .ro, 1, 0, 255, 1, 0⟩, ⟨0, 8, .ro, 0, 0, 255, 1, 0⟩]⟩,
   -- GLB_SERIAL (R785)
   ⟨0x8, 2, 0x4, 1, [⟨0, 32, .ro, 0, 0, 4294967295, 1, 0⟩]⟩,
   -- GLB_ACC_ERR (R785)
   ⟨0x10, 1, 0x4, 1, [⟨31, 1, .rc, 0, 0, 1, 1, 0⟩, ⟨28, 3, .ro, 0, 0, 7, 1, 0⟩, ⟨24, 4, .ro, 0, 0, 15, 1, 0⟩,
     ⟨12, 12, .ro, 0, 0, 4095, 1, 0⟩, ⟨0, 8, .rc, 0, 0, 255, 1, 0⟩]⟩,
   -- GLB_ACC_ADDR (R785)
   ⟨0x14, 1, 0x4, 1, [⟨0, 24, .ro, 0, 0, 16777215, 1, 0⟩]⟩,
   -- GLB_ATTN_SUM (R785)
   ⟨0x18, 1, 0x4, 1, [⟨13, 8, .ro, 0, 0, 255, 1, 0⟩, ⟨0, 13, .ro, 0, 0, 8191, 1, 0⟩]⟩,
   -- GLB_STRAP (R785)
   ⟨0x1c, 1, 0x4, 1, [⟨1, 2, .ro, 0, 0, 3, 1, 0⟩, ⟨0, 1, .ro, 0, 0, 1, 1, 0⟩]⟩,
   -- GLB_SCRATCH (R785)
   ⟨0x20, 4, 0x4, 1, [⟨0, 32, .rw, 0, 0, 4294967295, 1, 0⟩]⟩]

/-- The registers of hub block PTM. -/
def defsPtm : List RegDef :=
  [
   -- PTM_PSTATE (R662)
   ⟨0x0, 1, 0x4, 1, [⟨29, 3, .ro, 0, 0, 7, 1, 0⟩, ⟨26, 3, .ro, 0, 0, 7, 1, 0⟩, ⟨25, 1, .ro, 0, 0, 1, 1, 0⟩, ⟨24,
     1, .ro, 0, 0, 1, 1, 0⟩, ⟨23, 1, .ro, 0, 0, 1, 1, 0⟩, ⟨0, 4, .ro, 0, 0, 15, 1, 0⟩]⟩,
   -- PTM_WAKE_CTL (R662)
   ⟨0x4, 1, 0x4, 1, [⟨31, 1, .wo, 0, 0, 1, 1, 0⟩, ⟨2, 1, .rw, 0, 0, 1, 1, 0⟩, ⟨1, 1, .rw, 0, 0, 1, 1, 0⟩, ⟨0, 1,
     .ro, 1, 0, 1, 1, 0⟩]⟩,
   -- PTM_WAKE_SEC (R662)
   ⟨0x8, 1, 0x4, 1, [⟨0, 32, .rw, 0, 0, 4294967295, 1, 0⟩]⟩,
   -- PTM_WAKE_SEC_HI (R662)
   ⟨0xc, 1, 0x4, 1, [⟨0, 16, .rw, 0, 0, 65535, 1, 0⟩]⟩,
   -- PTM_DOZE (R662)
   ⟨0x10, 1, 0x4, 1, [⟨0, 10, .rw, 600, 550, 650, 5, 0⟩]⟩,
   -- PTM_VETO (R662)
   ⟨0x14, 1, 0x4, 1, [⟨0, 1, .rw, 0, 0, 1, 1, 0⟩]⟩,
   -- PTM_REFUSE_LAST (R662)
   ⟨0x18, 1, 0x4, 1, [⟨28, 4, .ro, 0, 0, 15, 1, 0⟩, ⟨25, 3, .ro, 0, 0, 7, 1, 0⟩, ⟨24, 1, .ro, 0, 0, 1, 1, 0⟩, ⟨0,
     16, .rc, 0, 0, 65535, 1, 0⟩]⟩,
   -- PTM_REFUSE_CNT (R662)
   ⟨0x40, 11, 0x4, 1, [⟨16, 16, .rc, 0, 0, 65535, 1, 0⟩, ⟨0, 16, .rc, 0, 0, 65535, 1, 0⟩]⟩,
   -- PTM_FAB_CTL (R119)
   ⟨0x100, 8, 0x4, 1, [⟨16, 10, .rw, 750, 550, 900, 5, 0⟩, ⟨4, 12, .rw, 3000, 600, 3600, 1, 0⟩, ⟨0, 2, .rw, 0, 0,
     1, 1, 0⟩]⟩,
   -- PTM_FAB_STAT (R120)
   ⟨0x120, 8, 0x4, 1, [⟨31, 1, .ro, 0, 0, 1, 1, 0⟩, ⟨30, 1, .ro, 0, 0, 1, 1, 0⟩, ⟨12, 10, .ro, 0, 0, 1023, 1, 0⟩,
     ⟨0, 12, .ro, 0, 0, 4095, 1, 0⟩]⟩,
   -- PTM_RING_CTL (R111)
   ⟨0x140, 1, 0x4, 1, [⟨16, 4, .rw, 3, 1, 15, 1, 0⟩, ⟨8, 8, .rw, 60, 1, 255, 1, 0⟩, ⟨0, 4, .rw, 6, 0, 10, 1,
     0⟩]⟩,
   -- PTM_HUB_RATE (R112)
   ⟨0x144, 1, 0x4, 1, [⟨31, 1, .ro, 0, 0, 1, 1, 0⟩, ⟨30, 1, .ro, 0, 0, 1, 1, 0⟩, ⟨24, 4, .ro, 0, 0, 15, 1, 0⟩,
     ⟨12, 12, .ro, 0, 0, 4095, 1, 0⟩, ⟨0, 12, .ro, 0, 0, 4095, 1, 0⟩]⟩,
   -- PTM_BOOST_CTL (R663)
   ⟨0x150, 1, 0x4, 1, [⟨0, 8, .rw, 0, 0, 255, 1, 0⟩]⟩,
   -- PTM_BOOST_STAT (R663)
   ⟨0x160, 8, 0x4, 1, [⟨31, 1, .ro, 0, 0, 1, 1, 0⟩, ⟨30, 1, .ro, 0, 0, 1, 1, 0⟩, ⟨27, 3, .ro, 0, 0, 7, 1, 0⟩,
     ⟨26, 1, .ro, 0, 0, 1, 1, 1⟩, ⟨0, 16, .ro, 18000, 0, 65535, 1, 0⟩]⟩,
   -- PTM_PAD_CTL (R663)
   ⟨0x180, 1, 0x4, 1, [⟨8, 8, .wo, 0, 0, 255, 1, 0⟩, ⟨0, 8, .ro, 0, 0, 255, 1, 0⟩]⟩,
   -- PTM_GOV (R663)
   ⟨0x184, 1, 0x4, 1, [⟨8, 8, .ro, 0, 0, 255, 1, 0⟩, ⟨0, 8, .rw, 50, 10, 90, 1, 0⟩]⟩,
   -- PTM_TEMP_SEL (R663)
   ⟨0x1a0, 1, 0x4, 1, [⟨0, 8, .rw, 0, 0, 255, 1, 0⟩]⟩,
   -- PTM_TEMP (R663)
   ⟨0x1a4, 1, 0x4, 1, [⟨31, 1, .ro, 0, 0, 1, 1, 0⟩, ⟨30, 1, .ro, 0, 0, 1, 1, 0⟩, ⟨0, 11, .ro, 0, 0, 2047, 1,
     0⟩]⟩,
   -- PTM_TJ (R663)
   ⟨0x1c0, 9, 0x4, 1, [⟨27, 5, .ro, 0, 0, 31, 1, 0⟩, ⟨0, 11, .ro, 0, 0, 2047, 1, 0⟩]⟩,
   -- PTM_VIN (R663)
   ⟨0x1e4, 1, 0x4, 1, [⟨16, 16, .ro, 0, 0, 65535, 1, 0⟩, ⟨0, 16, .ro, 0, 0, 65535, 1, 0⟩]⟩,
   -- PTM_THERM (R663)
   ⟨0x1e8, 1, 0x4, 1, [⟨31, 1, .ro, 0, 0, 1, 1, 0⟩, ⟨17, 1, .ro, 0, 0, 1, 1, 0⟩, ⟨16, 1, .ro, 0, 0, 1, 1, 0⟩, ⟨0,
     8, .ro, 0, 0, 255, 1, 0⟩]⟩]

/-- The registers of hub block CLK. -/
def defsClk : List RegDef :=
  [
   -- CLK_CTL (R259)
   ⟨0x0, 1, 0x4, 1, [⟨1, 1, .rw, 1, 0, 1, 1, 0⟩, ⟨0, 1, .wo, 0, 0, 1, 1, 0⟩]⟩,
   -- CLK_STAT (R260)
   ⟨0x4, 1, 0x4, 1, [⟨31, 1, .ro, 0, 0, 1, 1, 0⟩, ⟨30, 1, .ro, 0, 0, 1, 1, 0⟩, ⟨29, 1, .ro, 0, 0, 1, 1, 0⟩, ⟨28,
     1, .ro, 0, 0, 1, 1, 0⟩, ⟨24, 4, .ro, 0, 0, 15, 1, 0⟩, ⟨20, 4, .ro, 0, 0, 15, 1, 0⟩, ⟨0, 16, .ro, 0, 0,
     65535, 1, 0⟩]⟩]

/-- The registers of hub block TIME. -/
def defsTime : List RegDef :=
  [
   -- TIME_CTL (R525)
   ⟨0x0, 1, 0x4, 1, [⟨30, 2, .rw, 0, 0, 1, 1, 0⟩, ⟨28, 2, .rw, 0, 0, 3, 1, 0⟩, ⟨0, 1, .wo, 0, 0, 1, 1, 0⟩]⟩,
   -- TIME_STAT (R525)
   ⟨0x4, 1, 0x4, 1, [⟨30, 2, .ro, 0, 0, 3, 1, 0⟩, ⟨0, 16, .ro, 0, 0, 65535, 1, 0⟩]⟩,
   -- TIME_ADJ (R525)
   ⟨0x8, 1, 0x4, 1, [⟨0, 32, .rw, 0, 0, 4294967295, 1, 0⟩]⟩,
   -- TIME_RATE (R525)
   ⟨0xc, 1, 0x4, 1, [⟨0, 32, .rw, 0, 0, 4294967295, 1, 0⟩]⟩,
   -- TIME_SET (R525)
   ⟨0x10, 3, 0x4, 1, [⟨0, 32, .rw, 0, 0, 4294967295, 1, 0⟩]⟩,
   -- TIME_NOW (R525)
   ⟨0x20, 3, 0x4, 1, [⟨0, 32, .ro, 0, 0, 4294967295, 1, 0⟩]⟩,
   -- TIME_PPS_CTL (R525)
   ⟨0x2c, 1, 0x4, 1, [⟨31, 1, .rw, 0, 0, 1, 1, 0⟩, ⟨30, 1, .rw, 0, 0, 1, 1, 0⟩, ⟨29, 1, .rw, 0, 0, 1, 1, 0⟩, ⟨0,
     20, .rw, 100000, 1, 999999, 1, 0⟩]⟩,
   -- TIME_PPS_IN (R525)
   ⟨0x30, 3, 0x4, 1, [⟨0, 32, .ro, 0, 0, 4294967295, 1, 0⟩]⟩,
   -- TIME_BEAT_CTL (R341)
   ⟨0x100, 1, 0x4, 1, [⟨16, 10, .rw, 256, 0, 1000, 1, 0⟩, ⟨0, 11, .rw, 0, 0, 1951, 1, 0⟩]⟩,
   -- TIME_BEAT_STAT (R341)
   ⟨0x104, 1, 0x4, 1, [⟨31, 1, .ro, 0, 0, 1, 1, 0⟩, ⟨0, 18, .ro, 0, 0, 262143, 1, 0⟩]⟩]

/-- The registers of hub block CFG. -/
def defsCfg : List RegDef :=
  [
   -- CFG_IDLE_TIMEOUT (R563)
   ⟨0x0, 1, 0x4, 1, [⟨0, 12, .rw, 1000, 10, 4000, 1, 0⟩]⟩,
   -- CFG_CTL (R563)
   ⟨0x4, 1, 0x4, 1, [⟨0, 8, .rw, 10, 1, 255, 1, 0⟩]⟩,
   -- CFG_STAT (R564)
   ⟨0x8, 1, 0x4, 1, [⟨24, 8, .ro, 0, 0, 255, 1, 0⟩, ⟨21, 3, .ro, 0, 0, 7, 1, 0⟩, ⟨20, 1, .ro, 0, 0, 1, 1, 0⟩,
     ⟨19, 1, .ro, 0, 0, 1, 1, 0⟩, ⟨18, 1, .ro, 0, 0, 1, 1, 0⟩, ⟨16, 2, .ro, 0, 0, 3, 1, 0⟩, ⟨14, 2, .ro, 0, 0, 3,
     1, 0⟩]⟩,
   -- CFG_GOLDEN_ADDR (R564)
   ⟨0xc, 2, 0x4, 1, [⟨0, 32, .ro, 0, 0, 4294967295, 1, 0⟩]⟩,
   -- CFG_OFFSET (R564)
   ⟨0x14, 2, 0x4, 1, [⟨0, 32, .ro, 0, 0, 4294967295, 1, 0⟩]⟩,
   -- CFG_IMAGE_VER (R564)
   ⟨0x1c, 1, 0x4, 1, [⟨0, 32, .ro, 0, 0, 4294967295, 1, 0⟩]⟩,
   -- CFG_ARV (R564)
   ⟨0x20, 1, 0x4, 1, [⟨0, 7, .ro, 0, 0, 127, 1, 0⟩]⟩]

/-- The registers of hub block SEC. -/
def defsSec : List RegDef :=
  [
   -- SEC_LIFECYCLE (R720)
   ⟨0x0, 1, 0x4, 1, [⟨30, 2, .ro, 0, 0, 3, 1, 0⟩, ⟨28, 2, .ro, 0, 0, 3, 1, 0⟩, ⟨26, 2, .ro, 0, 0, 3, 1, 0⟩, ⟨25,
     1, .ro, 0, 0, 1, 1, 0⟩, ⟨16, 4, .ro, 0, 0, 15, 1, 0⟩, ⟨12, 4, .ro, 0, 0, 15, 1, 0⟩, ⟨10, 1, .ro, 0, 0, 1, 1,
     0⟩, ⟨9, 1, .ro, 0, 0, 1, 1, 0⟩, ⟨8, 1, .ro, 0, 0, 1, 1, 0⟩, ⟨0, 8, .ro, 0, 0, 255, 1, 0⟩]⟩,
   -- SEC_HALT_CAUSE (R720)
   ⟨0x10, 1, 0x4, 1, [⟨31, 1, .ro, 0, 0, 1, 1, 0⟩, ⟨30, 1, .ro, 0, 0, 1, 1, 0⟩, ⟨24, 4, .ro, 0, 0, 15, 1, 0⟩,
     ⟨20, 4, .ro, 0, 0, 15, 1, 0⟩, ⟨16, 4, .ro, 0, 0, 15, 1, 0⟩, ⟨14, 2, .ro, 0, 0, 3, 1, 0⟩, ⟨13, 1, .ro, 0, 0,
     1, 1, 0⟩, ⟨0, 8, .ro, 0, 0, 255, 1, 0⟩]⟩,
   -- SEC_HALT_ADDR_LO (R720)
   ⟨0x14, 1, 0x4, 1, [⟨0, 32, .ro, 0, 0, 4294967295, 1, 0⟩]⟩,
   -- SEC_HALT_ADDR_HI (R720)
   ⟨0x18, 1, 0x4, 1, [⟨0, 8, .ro, 0, 0, 255, 1, 0⟩]⟩,
   -- SEC_HALT_SEC (R720)
   ⟨0x1c, 1, 0x4, 1, [⟨0, 32, .ro, 0, 0, 4294967295, 1, 0⟩]⟩,
   -- SEC_HALT_NS (R720)
   ⟨0x20, 1, 0x4, 1, [⟨0, 32, .ro, 0, 0, 4294967295, 1, 0⟩]⟩,
   -- SEC_SEAL_CFG (R395)
   ⟨0x200, 1, 0x4, 1, [⟨31, 1, .ro, 0, 0, 1, 1, 0⟩, ⟨16, 5, .ro, 0, 0, 31, 1, 0⟩, ⟨8, 5, .ro, 0, 0, 31, 1, 0⟩,
     ⟨0, 7, .ro, 0, 0, 127, 1, 0⟩]⟩,
   -- SEC_GRAN_SEL (R395)
   ⟨0x204, 1, 0x4, 1, [⟨0, 7, .rw, 0, 0, 127, 1, 0⟩]⟩,
   -- SEC_GRAN_RIGHTS (R395)
   ⟨0x208, 1, 0x4, 1, [⟨0, 32, .ro, 0, 0, 4294967295, 1, 0⟩]⟩,
   -- SEC_GRAN_MODE (R395)
   ⟨0x20c, 1, 0x4, 1, [⟨31, 1, .ro, 0, 0, 1, 1, 0⟩, ⟨28, 3, .ro, 0, 0, 7, 1, 0⟩, ⟨24, 2, .ro, 1, 0, 3, 1, 0⟩,
     ⟨16, 3, .ro, 0, 0, 7, 1, 0⟩, ⟨8, 8, .ro, 0, 0, 255, 1, 0⟩]⟩]

/-- The registers of hub block DBG. -/
def defsDbg : List RegDef :=
  [
   -- DBG_DTX (R748)
   ⟨0x10, 1, 0x4, 17, [⟨0, 32, .wo, 0, 0, 4294967295, 1, 0⟩]⟩,
   -- DBG_DRX (R748)
   ⟨0x14, 1, 0x4, 17, [⟨0, 32, .rc, 0, 0, 4294967295, 1, 0⟩]⟩,
   -- DBG_DTERM_STAT (R748)
   ⟨0x18, 1, 0x4, 17, [⟨2, 14, .rc, 0, 0, 16383, 1, 0⟩, ⟨1, 1, .ro, 0, 0, 1, 1, 0⟩, ⟨0, 1, .ro, 0, 0, 1, 1, 0⟩]⟩,
   -- DBG_TRACE_CTL (R748)
   ⟨0x20, 1, 0x4, 17, [⟨31, 1, .rw, 0, 0, 1, 1, 0⟩, ⟨30, 1, .rw, 0, 0, 1, 1, 0⟩]⟩,
   -- DBG_TRACE_STAT (R748)
   ⟨0x24, 1, 0x4, 17, [⟨31, 1, .ro, 0, 0, 1, 1, 0⟩, ⟨20, 11, .rc, 0, 0, 2047, 1, 0⟩, ⟨0, 20, .ro, 0, 0, 1048575,
     1, 0⟩]⟩,
   -- DBG_TRACE_PORT (R748)
   ⟨0x28, 1, 0x4, 17, [⟨31, 1, .rw, 0, 0, 1, 1, 0⟩, ⟨0, 5, .rw, 0, 0, 31, 1, 0⟩]⟩,
   -- DBG_TIN_CTL (R748)
   ⟨0x30, 1, 0x4, 17, [⟨31, 1, .wo, 0, 0, 1, 1, 0⟩, ⟨28, 3, .rw, 0, 0, 4, 1, 0⟩, ⟨25, 3, .rw, 0, 0, 7, 1, 0⟩,
     ⟨21, 4, .rw, 0, 0, 11, 1, 0⟩, ⟨12, 9, .rw, 511, 0, 511, 1, 0⟩]⟩,
   -- DBG_TIN_STAT (R748)
   ⟨0x34, 1, 0x4, 17, [⟨29, 3, .ro, 0, 0, 7, 1, 0⟩, ⟨0, 8, .ro, 0, 0, 255, 1, 0⟩]⟩,
   -- DBG_TIN_BUF (R748)
   ⟨0x38, 1, 0x4, 17, [⟨0, 24, .rw, 0, 0, 16777215, 1, 0⟩]⟩,
   -- DBG_XT_SRC (R749)
   ⟨0x40, 8, 0x8, 17, [⟨18, 8, .rw, 0, 0, 255, 1, 0⟩, ⟨17, 1, .rw, 0, 0, 1, 1, 0⟩, ⟨16, 1, .rw, 0, 0, 1, 1, 0⟩,
     ⟨8, 8, .rw, 0, 0, 255, 1, 0⟩, ⟨4, 4, .rw, 0, 0, 15, 1, 0⟩, ⟨0, 4, .rw, 0, 0, 15, 1, 0⟩]⟩,
   -- DBG_XT_SINK (R749)
   ⟨0x44, 8, 0x8, 17, [⟨31, 1, .rw, 0, 0, 1, 1, 0⟩, ⟨30, 1, .rw, 0, 0, 1, 1, 0⟩, ⟨29, 1, .rw, 0, 0, 1, 1, 0⟩,
     ⟨28, 1, .rw, 0, 0, 1, 1, 0⟩, ⟨27, 1, .rw, 0, 0, 1, 1, 0⟩, ⟨24, 3, .rw, 0, 0, 7, 1, 0⟩, ⟨20, 4, .rw, 0, 0,
     11, 1, 0⟩, ⟨0, 4, .rw, 0, 0, 15, 1, 0⟩]⟩,
   -- DBG_STIM (R748)
   ⟨0x400, 256, 0x4, 17, [⟨0, 32, .wo, 0, 0, 4294967295, 1, 0⟩]⟩]

/-- The registers of hub block MGC. -/
def defsMgc : List RegDef :=
  [
   -- MGC_BOOT (R628)
   ⟨0x0, 1, 0x4, 1, [⟨31, 1, .wo, 0, 0, 1, 1, 0⟩, ⟨12, 15, .rw, 0, 0, 32767, 1, 0⟩, ⟨8, 2, .ro, 0, 0, 3, 1, 0⟩,
     ⟨0, 8, .ro, 0, 0, 255, 1, 0⟩]⟩,
   -- MGC_CORE_STAT (R628)
   ⟨0x10, 4, 0x4, 17, [⟨29, 3, .ro, 0, 0, 7, 1, 16⟩, ⟨27, 2, .ro, 1, 0, 3, 1, 0⟩, ⟨16, 8, .ro, 0, 0, 255, 1, 16⟩,
     ⟨0, 16, .ro, 1, 0, 65535, 1, 16⟩]⟩,
   -- MGC_WDG_CTL (R628)
   ⟨0x20, 4, 0x4, 17, [⟨31, 1, .rw, 0, 0, 1, 1, 0⟩, ⟨30, 1, .rw, 1, 0, 1, 1, 0⟩, ⟨29, 1, .rw, 0, 0, 1, 1, 0⟩, ⟨0,
     16, .rw, 1000, 1, 60000, 1, 0⟩]⟩,
   -- MGC_WDG_KICK (R628)
   ⟨0x30, 4, 0x4, 17, [⟨0, 32, .wo, 0, 0, 4294967295, 1, 0⟩]⟩,
   -- MGC_WDG_GRACE (R628)
   ⟨0x40, 1, 0x4, 17, [⟨0, 16, .rw, 100, 1, 60000, 1, 0⟩]⟩,
   -- MGC_MSIP (R628)
   ⟨0x50, 4, 0x4, 17, [⟨0, 1, .rw, 0, 0, 1, 1, 0⟩]⟩,
   -- MGC_IRQ_EN (R628)
   ⟨0x60, 4, 0x4, 17, [⟨0, 32, .rw, 0, 0, 4294967295, 1, 0⟩]⟩,
   -- MGC_IRQ_PEND (R628)
   ⟨0x70, 1, 0x4, 17, [⟨0, 32, .ro, 0, 0, 4294967295, 1, 0⟩]⟩,
   -- MGC_MTIME (R628)
   ⟨0x80, 2, 0x4, 17, [⟨0, 32, .ro, 0, 0, 4294967295, 1, 0⟩]⟩,
   -- MGC_MTIMECMP (R628)
   ⟨0x90, 8, 0x4, 17, [⟨0, 32, .rw, 4294967295, 0, 4294967295, 1, 0⟩]⟩,
   -- MGC_L2_CMO_ADDR (R628)
   ⟨0xb0, 1, 0x4, 17, [⟨0, 32, .rw, 0, 0, 4294967295, 1, 0⟩]⟩,
   -- MGC_L2_CMO (R628)
   ⟨0xb8, 1, 0x4, 17, [⟨31, 1, .wo, 0, 0, 1, 1, 0⟩, ⟨30, 1, .ro, 0, 0, 1, 1, 0⟩, ⟨28, 2, .rw, 0, 0, 2, 1, 0⟩,
     ⟨26, 2, .rw, 0, 0, 3, 1, 0⟩, ⟨0, 16, .rw, 0, 0, 65535, 1, 0⟩]⟩,
   -- MGC_BUS_ERR_LO (R628)
   ⟨0xc0, 1, 0x4, 17, [⟨0, 32, .ro, 0, 0, 4294967295, 1, 0⟩]⟩,
   -- MGC_BUS_ERR_HI (R628)
   ⟨0xc4, 1, 0x4, 17, [⟨31, 1, .rc, 0, 0, 1, 1, 0⟩, ⟨16, 8, .rc, 0, 0, 255, 1, 0⟩, ⟨8, 8, .ro, 0, 0, 255, 1, 0⟩,
     ⟨0, 8, .ro, 0, 0, 255, 1, 0⟩]⟩,
   -- MGC_EVT_CTL (R628)
   ⟨0xd0, 1, 0x4, 1, [⟨31, 1, .rw, 0, 0, 1, 1, 0⟩, ⟨15, 12, .rw, 0, 0, 4095, 1, 0⟩]⟩,
   -- MGC_EVT_HEAD (R628)
   ⟨0xd4, 1, 0x4, 17, [⟨0, 10, .wo, 0, 0, 1023, 1, 0⟩]⟩,
   -- MGC_SEC_REQ (R628)
   ⟨0x100, 16, 0x4, 17, [⟨0, 32, .rw, 0, 0, 4294967295, 1, 0⟩]⟩,
   -- MGC_SEC_RSP (R628)
   ⟨0x140, 16, 0x4, 17, [⟨0, 32, .ro, 0, 0, 4294967295, 1, 0⟩]⟩,
   -- MGC_SEC_CTL (R628)
   ⟨0x180, 1, 0x4, 17, [⟨31, 1, .wo, 0, 0, 1, 1, 0⟩, ⟨30, 1, .ro, 0, 0, 1, 1, 0⟩, ⟨0, 8, .ro, 0, 0, 255, 1, 0⟩]⟩]

/-- The registers of hub block HQE. -/
def defsHqe : List RegDef :=
  [
   -- HQE_STAT (R448)
   ⟨0x4, 1, 0x4, 25, [⟨29, 3, .ro, 0, 0, 7, 1, 0⟩, ⟨26, 3, .ro, 0, 0, 7, 1, 0⟩, ⟨24, 2, .ro, 0, 0, 3, 1, 0⟩, ⟨23,
     1, .ro, 0, 0, 1, 1, 0⟩]⟩,
   -- HQE_ASQ_LO (R449)
   ⟨0x10, 1, 0x4, 25, [⟨12, 20, .rw, 0, 0, 1048575, 1, 0⟩]⟩,
   -- HQE_ASQ_HI (R449)
   ⟨0x14, 1, 0x4, 25, [⟨0, 32, .rw, 0, 0, 4294967295, 1, 0⟩]⟩,
   -- HQE_ACQ_LO (R449)
   ⟨0x18, 1, 0x4, 25, [⟨12, 20, .rw, 0, 0, 1048575, 1, 0⟩]⟩,
   -- HQE_ACQ_HI (R449)
   ⟨0x1c, 1, 0x4, 25, [⟨0, 32, .rw, 0, 0, 4294967295, 1, 0⟩]⟩,
   -- HQE_QCTL (R450)
   ⟨0x20, 1, 0x4, 25, [⟨31, 1, .rw, 0, 0, 1, 1, 0⟩, ⟨29, 2, .ro, 0, 0, 3, 1, 0⟩, ⟨19, 5, .rw, 6, 6, 16, 1, 0⟩,
     ⟨14, 5, .rw, 6, 6, 16, 1, 0⟩, ⟨11, 1, .rw, 0, 0, 1, 1, 0⟩, ⟨0, 11, .rw, 0, 0, 63, 1, 0⟩]⟩,
   -- HQE_ERR (R451)
   ⟨0x40, 1, 0x4, 25, [⟨24, 8, .rc, 0, 0, 255, 1, 0⟩, ⟨16, 8, .rc, 0, 0, 255, 1, 0⟩, ⟨8, 8, .rc, 0, 0, 255, 1,
     0⟩, ⟨0, 8, .rc, 0, 0, 255, 1, 0⟩]⟩]

/-- The registers of hub block PCIE. -/
def defsPcie : List RegDef :=
  [
   -- PCIE_LINK (R787)
   ⟨0x0, 2, 0x4, 9, [⟨31, 1, .ro, 0, 0, 1, 1, 0⟩, ⟨30, 1, .ro, 0, 0, 1, 1, 0⟩, ⟨27, 3, .ro, 0, 0, 7, 1, 0⟩, ⟨22,
     5, .ro, 0, 0, 31, 1, 0⟩, ⟨19, 3, .ro, 0, 0, 7, 1, 0⟩, ⟨0, 16, .rc, 0, 0, 65535, 1, 0⟩]⟩,
   -- PCIE_ERR (R787)
   ⟨0x10, 2, 0x4, 9, [⟨16, 16, .rc, 0, 0, 65535, 1, 0⟩, ⟨0, 16, .rc, 0, 0, 65535, 1, 0⟩]⟩]

/-- The registers of hub block NOC. -/
def defsNoc : List RegDef :=
  [
   -- NOC_TMO (R297)
   ⟨0x0, 5, 0x4, 1, [⟨0, 20, .rw, 100, 1, 1000000, 1, 0⟩]⟩,
   -- NOC_ERR (R298)
   ⟨0x20, 1, 0x4, 1, [⟨24, 8, .rc, 0, 0, 255, 1, 0⟩, ⟨16, 8, .rc, 0, 0, 255, 1, 0⟩, ⟨0, 16, .rc, 0, 0, 65535, 1,
     0⟩]⟩,
   -- NOC_LATE (R298)
   ⟨0x24, 1, 0x4, 1, [⟨16, 16, .rc, 0, 0, 65535, 1, 0⟩, ⟨0, 16, .rc, 0, 0, 65535, 1, 0⟩]⟩,
   -- NOC_SPINE (R298)
   ⟨0x28, 1, 0x4, 1, [⟨31, 1, .ro, 0, 0, 1, 1, 0⟩, ⟨27, 4, .ro, 0, 0, 15, 1, 0⟩, ⟨0, 13, .ro, 0, 0, 8191, 1,
     0⟩]⟩]

/-- The registers of hub block LRD. -/
def defsLrd : List RegDef :=
  [
   -- LRD_LAYOUT (R194)
   ⟨0x0, 1, 0x4, 1, [⟨31, 1, .rwl, 0, 0, 1, 1, 0⟩, ⟨16, 8, .rwl, 16, 0, 16, 1, 0⟩, ⟨8, 8, .rwl, 64, 0, 255, 1,
     0⟩, ⟨0, 8, .rwl, 8, 0, 255, 1, 0⟩]⟩,
   -- LRD_RIGHTS (R195)
   ⟨0x4, 1, 0x4, 1, [⟨0, 2, .rw, 0, 0, 2, 1, 0⟩, ⟨2, 2, .rw, 0, 0, 2, 1, 0⟩, ⟨4, 2, .rw, 0, 0, 2, 1, 0⟩, ⟨6, 2,
     .rw, 0, 0, 2, 1, 0⟩, ⟨8, 2, .rw, 0, 0, 2, 1, 0⟩, ⟨10, 2, .rw, 0, 0, 2, 1, 0⟩, ⟨12, 2, .rw, 0, 0, 2, 1, 0⟩,
     ⟨14, 2, .rw, 0, 0, 2, 1, 0⟩, ⟨16, 2, .rw, 0, 0, 2, 1, 0⟩, ⟨18, 2, .rw, 0, 0, 2, 1, 0⟩, ⟨20, 2, .rw, 0, 0, 2,
     1, 0⟩, ⟨22, 2, .rw, 0, 0, 2, 1, 0⟩, ⟨24, 2, .rw, 0, 0, 2, 1, 0⟩, ⟨26, 2, .rw, 0, 0, 2, 1, 0⟩, ⟨28, 2, .rw,
     0, 0, 2, 1, 0⟩, ⟨30, 2, .rw, 0, 0, 2, 1, 0⟩]⟩,
   -- LRD_ERR (R208)
   ⟨0xc, 1, 0x4, 1, [⟨24, 8, .rc, 0, 0, 255, 1, 0⟩, ⟨16, 8, .rc, 0, 0, 255, 1, 0⟩, ⟨0, 16, .rc, 0, 0, 65535, 1,
     0⟩]⟩,
   -- POOL_STAT (R208)
   ⟨0x10, 1, 0x4, 1, [⟨16, 15, .ro, 16384, 0, 32767, 1, 0⟩, ⟨8, 8, .rc, 0, 0, 255, 1, 0⟩, ⟨0, 8, .ro, 0, 0, 255,
     1, 0⟩]⟩]

/-- The registers of hub block SPR. -/
def defsSpr : List RegDef :=
  [
   -- SPR_POLICY (R599)
   ⟨0x0, 1, 0x4, 1, [⟨1, 1, .ro, 1, 0, 1, 1, 0⟩, ⟨0, 1, .ro, 1, 0, 1, 1, 0⟩]⟩,
   -- SPR_INV (R599)
   ⟨0x4, 1, 0x4, 1, [⟨28, 4, .ro, 0, 0, 15, 1, 0⟩, ⟨21, 7, .ro, 0, 0, 127, 1, 0⟩, ⟨20, 1, .ro, 0, 0, 1, 1, 0⟩,
     ⟨19, 1, .ro, 0, 0, 1, 1, 0⟩, ⟨18, 1, .ro, 0, 0, 1, 1, 0⟩, ⟨17, 1, .ro, 0, 0, 1, 1, 0⟩, ⟨9, 8, .ro, 0, 0,
     255, 1, 0⟩, ⟨1, 8, .ro, 0, 0, 255, 1, 0⟩]⟩,
   -- SPR_TIN_SEL (R599)
   ⟨0x8, 1, 0x4, 1, [⟨0, 7, .rw, 0, 0, 103, 1, 0⟩]⟩,
   -- SPR_TIN_DRAIN (R599)
   ⟨0xc, 1, 0x4, 1, [⟨0, 32, .rc, 0, 0, 4294967295, 1, 0⟩]⟩,
   -- SPR_ROLE_LO (R599)
   ⟨0x40, 8, 0x8, 1, [⟨0, 32, .ro, 1985229328, 0, 4294967295, 1, 0⟩]⟩,
   -- SPR_ROLE_HI (R599)
   ⟨0x44, 8, 0x8, 1, [⟨0, 20, .ro, 834200, 0, 1048575, 1, 0⟩]⟩,
   -- SPR_EPOCH (R599)
   ⟨0x80, 8, 0x4, 1, [⟨0, 16, .ro, 1, 0, 65535, 1, 0⟩]⟩]


/-- The registers of hub block `b`. -/
def hubDefs : Nat → List RegDef
  | 0 => defsGlb
  | 1 => defsPtm
  | 2 => defsClk
  | 3 => defsTime
  | 4 => defsCfg
  | 5 => defsSec
  | 6 => defsDbg
  | 7 => defsMgc
  | 8 => defsHqe
  | 9 => defsPcie
  | 10 => defsNoc
  | 11 => defsLrd
  | 12 => defsSpr
  | _ => []

/-- The registers of sub-block `sub` of a fabric die. -/
def dieDefs : Nat → List RegDef
  | 0 => defsDieDie
  | 1 => defsDieTin
  | 2 => defsDieKnd
  | 3 => defsDieSeam
  | 4 => defsDieMem
  | 5 => defsDieLl
  | 6 => defsDieMl
  | 7 => defsDieMac
  | _ => []

end Sys2Proof.Machine
end

