-- ==== Sys2Proof/Config.lean ====
section
/-! DEFINITION. What the manual leaves free or gives to standards outside it: constants without a body, so that nothing
can be proved of their values (the free values and the algorithms of the assumption log). -/

namespace Sys2Proof.Config

/-- The n-th byte the TRNG delivers (R702): a random value, free (assumption 4). -/
opaque trngByte : Nat → Byte

/-- Bytes whose value the manual leaves open, such as the content of an uncorrectable line: free (assumption 4). -/
opaque freeByte : Nat → Byte

/-- Numbers the manual leaves open: free (assumption 4). -/
opaque freeNat : Nat → Nat

/-- AES-256 of a 128-bit block under a 256-bit key (R360): the block cipher of its own standard. -/
opaque aes256 : Nat → Nat → Nat

/-- XTS-AES-256 of a 64-byte data unit under two keys and a tweak (R362). -/
opaque xtsAes256 : Nat → Nat → Nat → Nat → Nat

/-- The product in GF(2^40) under the engine's fixed field polynomial, which the manual does not give (R361). -/
opaque gf40Mul : Nat → Nat → Nat

/-- SHA-384 of a byte string (R627): the digest of its own standard. -/
opaque sha384 : List Byte → List Byte

/-- The check bits of a configuration frame (R86), whose code the manual does not give. -/
opaque frameCheck : Frame → BitVec 32

/-- The drive that the boundary cells give a user pad (0 none, 2 low, 3 high): the cell order is in the BSDL file (R726). -/
opaque boundaryPad : Nat → Nat → Nat

/-- The bytes a kept copy takes in the IMAGE region, run-encoded and encrypted (R561): the encoder's choice of runs is open, so its length
is free for each content (assumption 4). -/
opaque copySize : List (Nat × Frame) → List (Nat × Nat × Nat) → Nat

end Sys2Proof.Config
end

