-- ==== Sys2Proof/Machine/Tab.lean ====
section
/-! DEFINITION. Sparse tables by number: the one representation of every memory and of every array of units.  A table
lists the entries that differ from the value an unlisted key reads as, keys strictly rising. -/

namespace Sys2Proof.Machine

/-- A sparse table: (key, value) pairs. -/
abbrev Tab (α : Type) := List (Nat × α)

namespace Tab

variable {α : Type}

/-- The value at key `k`; `d` is what an unlisted key reads as. -/
def get (d : α) : Tab α → Nat → α
  | [], _ => d
  | e :: r, k => if e.1 = k then e.2 else get d r k

/-- `t` with an entry for `k` put before the first larger key. -/
def ins (k : Nat) (v : α) : Tab α → Tab α
  | [] => [(k, v)]
  | e :: r => if e.1 < k then e :: ins k v r else (k, v) :: e :: r

/-- `t` without any entry for `k`. -/
def del (k : Nat) : Tab α → Tab α
  | [] => []
  | e :: r => if e.1 = k then del k r else e :: del k r

/-- `t` with an entry for `k` put before the first larger key, unless it would hold the unlisted value `d`. -/
def insUnless [DecidableEq α] (d : α) (k : Nat) (v : α) : Tab α → Tab α
  | [] => if v = d then [] else [(k, v)]
  | e :: r => if e.1 < k then e :: insUnless d k v r else if v = d then e :: r else (k, v) :: e :: r

/-- `t` with the value `v` at key `k`; writing the unlisted value `d` removes the entry. -/
def put [DecidableEq α] (d : α) (t : Tab α) (k : Nat) (v : α) : Tab α := insUnless d k v (del k t)

/-- `t` with `f` applied to the value at key `k`. -/
def mod [DecidableEq α] (d : α) (t : Tab α) (k : Nat) (f : α → α) : Tab α := put d t k (f (get d t k))

/-- `t` without the entries whose key satisfies `p`: those keys read as the unlisted value again. -/
def drop (p : Nat → Bool) (t : Tab α) : Tab α := t.filter (fun e => !p e.1)

/-- `t` with `f` applied to every listed value; `f` must keep the unlisted value. -/
def mapVals [DecidableEq α] (d : α) (f : α → α) : Tab α → Tab α
  | [] => []
  | e :: r => if f e.2 = d then mapVals d f r else (e.1, f e.2) :: mapVals d f r

/-- `t` with `f k` applied to the value listed at every key `k`; `f` must keep the unlisted value. -/
def mapKeys [DecidableEq α] (d : α) (f : Nat → α → α) : Tab α → Tab α
  | [] => []
  | e :: r => if f e.1 e.2 = d then mapKeys d f r else (e.1, f e.1 e.2) :: mapKeys d f r

/-- Every key of `t` is above `k`, the keys strictly rise and no entry holds the unlisted value `d`. -/
def wfFrom [DecidableEq α] (d : α) : Option Nat → Tab α → Bool
  | _, [] => true
  | lo, e :: r => (match lo with | none => true | some k => decide (k < e.1)) && decide (e.2 ≠ d) && wfFrom d (some e.1) r

/-- The canonical form: keys strictly rising, no entry equal to the unlisted value. -/
def wf [DecidableEq α] (d : α) (t : Tab α) : Bool := wfFrom d none t

end Tab

/-- `n` bytes of a byte table from `a` up, `d` where nothing is listed. -/
def readBytes (d : BitVec 8) (t : Tab (BitVec 8)) (a n : Nat) : List (BitVec 8) :=
  (List.range n).map (fun i => Tab.get d t (a + i))

/-- A byte table with the bytes of `l` written from `a` up. -/
def writeBytes (d : BitVec 8) (t : Tab (BitVec 8)) (a : Nat) : List (BitVec 8) → Tab (BitVec 8)
  | [] => t
  | b :: r => writeBytes d (Tab.put d t a b) (a + 1) r

/-- The canonical form of a byte memory whose unlisted bytes read as 0 (the larder, DRAM and the breadbox). -/
def Memory.wf (m : Tab (BitVec 8)) : Bool := Tab.wf 0 m

end Sys2Proof.Machine
end

