-- ==== Sys2Proof/Syntax.lean ====
section
/-! DEFINITION. The syntax of the device's commands: the shared operand types and the one inductive `Instr`, with one
constructor for every row of the operation table.  An operand names the unit a step is about and carries what reaches
the device from outside it: a level on a pin, a measured figure, what an error checker saw, the bytes of an image. -/

namespace Sys2Proof

/-- What the error checker of a memory saw in the word, row or line it decoded (R175, R176, R323, R324). -/
inductive MemErr where
  /-- no error -/
  | clean
  /-- an error that was corrected and is gone once the corrected word is written back -/
  | corrected
  /-- an error that was corrected and is found again after the write-back -/
  | persistent
  /-- an uncorrectable error -/
  | uncorr
deriving DecidableEq, Repr

/-- The commands a packet header carries (R271). -/
inductive PCmd where
  | read | write | writePosted | atomicAdd | atomicSwap | atomicCas | response | message
deriving DecidableEq, Repr

/-- One NoC packet: the fields of its header unit (R269) and its payload bytes (R270).  `unitPoison` says that a data
unit arrived with its unit-poison bit set (R286). -/
structure Packet where
  dst : Nat
  src : Nat
  tag : Nat
  cmd : PCmd
  prio : Nat
  domain : Nat
  addr : Nat
  bytes : Nat
  epoch : Nat
  data : List Byte
  proof : Bool
  poison : Bool
  notice : Bool
  status : Nat
  detail : Nat
deriving DecidableEq, Repr

/-- A submission descriptor: its eight dwords (R419). -/
structure Desc where
  dw0 : Nat
  dw1 : Nat
  dw2 : Nat
  dw3 : Nat
  dw4 : Nat
  dw5 : Nat
  dw6 : Nat
  dw7 : Nat
deriving DecidableEq, Repr

/-- A channel of the two-phase protocol (R130): logical channel `c` of seam `s`, the crust-ring connection of die `d`
that starts at endpoint `e`, or dozen `z` of bench link `k` of die `d`, outward from the die when `out`. -/
inductive ChanRef where
  | seam (s : DieIx) (c : Fin 4096)
  | ring (d : DieIx) (e : Nat)
  | bench (d : DieIx) (k : Fin 4) (out : Bool) (z : Fin 32)
deriving DecidableEq, Repr

/-- One margin the monitors measured: a wire of the channel's dozen and its margin in % of the matched delay (R135);
0 is a transition that came late or not at all (R137). -/
structure Margin where
  wire : Fin 13
  pct : Nat
deriving DecidableEq, Repr

/-- What an access of a hart does. -/
inductive AccKind where
  | fetch | load | store
deriving DecidableEq, Repr

/-- The AMOs of RV64A. -/
inductive AmoOp where
  | swap | add | xor | and | or | min | max | minu | maxu
deriving DecidableEq, Repr

/-- How a read of host memory completes: with data, poisoned (EP set) or not, or with a PCI Express completion status (R424, R426). -/
inductive HostRead where
  | data (bytes : List Byte) (ep : Bool)
  | failed (code : Fin 256)
deriving DecidableEq, Repr

/-- The boot settings SEC writes (R194, R338, R344): transfer rate, density and mapping order of the channels, the channel reserve, and
whether sealing is enabled. -/
structure BootSettings where
  rate : Fin 4
  density : Fin 3
  order : Fin 4
  reserve : Bool
  sealOn : Bool
deriving DecidableEq, Repr

/-- What SEC finds uncorrectable in the fuse array at boot (R698): a key, slot, lifecycle or anti-rollback word, the golden address, the
baselines of some tins. -/
structure FuseRead where
  keyBad : Bool
  goldenBad : Bool
  baseBad : List TinIx
deriving DecidableEq, Repr

/-- The commands of the device: one constructor for every row of the operation table. -/
inductive Instr where
  /-- `REGISTER_WRITE` (R5): A write to a register field that has no row of its own stores, sets, clears or ignores bits as its access code states. -/
  | registerWrite (off : Nat) (value : Word) (dom : Dom) (src : Nat)
  /-- `RC_FIELD_READ` (R5): A consuming read of an RC field returns its value and then clears it, except where a hardware set in the same window wins. -/
  | rcFieldRead (off : Nat) (dom : Dom) (src : Nat) (hwSet : Word)
  /-- `X_ATTN_CLEAR` (R783): A W1C write to a block's X_ATTN clears the chosen severity bits. -/
  | xAttnClear (blk : Fin 24) (value : Word) (hwSet : Word)
  /-- `X_ATTN_SET` (R783): A W1S write to X_ATTN_SET sets severity bits of X_ATTN for testing. -/
  | xAttnSet (blk : Fin 24) (value : Word)
  /-- `TIME_NOW_LATCH` (R525): A read of TIME_NOW_0 latches all three words of the present time. -/
  | timeNowLatch (peek : Bool)
  /-- `MTIME_LATCH` (R628): A read of MGC_MTIME_LO latches MGC_MTIME_HI. -/
  | mtimeLatch (peek : Bool)
  /-- `HOLD_FILL` (R56): A rail sum of an empty hold fires while every receiver's acknowledge is low, and the hold becomes full (t1). -/
  | holdFill (t : TinIx) (b : Fin 2048) (c : Fin 16) (m : Fin 4)
  /-- `HOLD_ACKNOWLEDGE` (R56): A full hold whose used inputs all carry data raises its acknowledge to its sources (t2). -/
  | holdAcknowledge (t : TinIx) (b : Fin 2048) (c : Fin 16) (m : Fin 4)
  /-- `HOLD_EMPTY` (R56): A hold whose inputs are spacers and whose receivers all acknowledge returns its output to spacer and becomes empty (t5). -/
  | holdEmpty (t : TinIx) (b : Fin 2048) (c : Fin 16) (m : Fin 4)
  /-- `HOLD_ACK_FALL` (R56): An emptied hold lowers its acknowledge to its sources (t6). -/
  | holdAckFall (t : TinIx) (b : Fin 2048) (c : Fin 16) (m : Fin 4)
  /-- `TIN_RAIL_FAULT` (R59): Both rails of a used crumb input go high; the crust stalls every port of the tin and the tin stops. -/
  | tinRailFault (t : TinIx) (b : Fin 2048) (c : Fin 16)
  /-- `CRUST_PORT_MODE_CHANGE` (R82): A requested crust-port mode takes effect at the port's next token boundary. -/
  | crustPortModeChange (t : TinIx) (p : Fin 384)
  /-- `CRUST_INBOUND_TOKEN` (R81): A token from the crust ring reaches an inbound crust port and is delivered, stalled or drained and counted according to the port's mode. -/
  | crustInboundToken (t : TinIx) (p : Fin 384) (tok : BitVec 10)
  /-- `CRUST_OUTBOUND_TOKEN` (R81): A token from the tin reaches an outbound crust port and is offered to the ring, stalled or drained according to the port's mode. -/
  | crustOutboundToken (t : TinIx) (p : Fin 384)
  /-- `PROOFING_GATE_RELEASE` (R379): The crust releases an outbound token once every read up to its stamped sequence number has received its proof notice. -/
  | proofingGateRelease (t : TinIx) (p : Fin 385)
  /-- `PROOF_NOTICE` (R285): A proof notice for an unproofed read arrives at a proofing tin's crust and is consumed there. -/
  | proofNotice (t : TinIx) (tag : Nat) (epoch : Nat)
  /-- `RATE_RING_WINDOW` (R108): At the end of a window of 2^w µs, each rate ring's count gives its rate, and TIN_RATE updates. -/
  | rateRingWindow (t : Fin 105) (c0 c1 c2 c3 : Nat) (stable : Bool)
  /-- `WEAR_CHECK` (R123): Every wear_period seconds the PTM computes each tin's mean normalised rate and updates its due count. -/
  | wearCheck (t : TinIx)
  /-- `TELEMETRY_INTERVAL` (R652): Every 100 µs the PTM reads every sensor and rail monitor and acts on voltage, temperature and boost. -/
  | telemetryInterval (temps : List (Nat × Int)) (mv ma : Fin 65536)
  /-- `VFAB_RAMP` (R116): A VFAB change ramps at no more than 10 mV/µs and completes at its new level. -/
  | vfabRamp (d : DieIx)
  /-- `CHANNEL_TOKEN_SEND` (R130): After the bundling delay the sender of a two-phase channel toggles request to pass one token. -/
  | channelTokenSend (r : ChanRef)
  /-- `CHANNEL_TOKEN_CAPTURE` (R130): The receiver captures the data wires at the request toggle and toggles acknowledge once the token is passed on or stored. -/
  | channelTokenCapture (r : ChanRef) (ms : List Margin)
  /-- `CHANNEL_ACK_RECEIVED` (R130): The acknowledge toggle reaches the sender, which may then drive its next token. -/
  | channelAckReceived (r : ChanRef) (ms : List Margin)
  /-- `SWEEP` (R138): The sending end drives the sweep pattern on spare and idle wires, and the receiver checks its margins and order. -/
  | sweep (s : DieIx) (z : Fin 4224) (ms : List Margin)
  /-- `SWEEP_GAP` (R139): A data wire unmeasured for 1 ms makes the sender insert a sweep gap before its next token. -/
  | sweepGap (s : DieIx) (c : Fin 4096)
  /-- `SPARE_WIRE_COPY_START` (R141): At the next token boundary both ends set the spare wire to the failed wire's direction and begin copying. -/
  | spareWireCopyStart (s : DieIx) (z : Fin 4224) (w : Fin 12)
  /-- `SEAM_WIRE_SPARED` (R141): After 16 agreeing comparisons the receiver reads the spare in place of the failed wire. -/
  | seamWireSpared (s : DieIx) (z : Fin 4224) (agree : Bool)
  /-- `CHANNEL_MOVE_HOLD` (R144): The sender holds its next token and both ends record the state of the outstanding token. -/
  | channelMoveHold (s : DieIx) (c : Fin 4096)
  /-- `SEAM_CHANNEL_MOVED` (R144): With both records collected the new dozen is armed, the token is re-sent or dropped, and the channel resumes. -/
  | seamChannelMoved (s : DieIx) (c : Fin 4096)
  /-- `SEAM_FOLD` (R151): Two channels of a fold-map entry resume on one shared dozen with the tag on the spare wire. -/
  | seamFold (s : DieIx) (entry : Nat)
  /-- `SEAM_PEER_LOST` (R156): The hub signals that a neighbouring die is reset or without power, and each seam end applies peer_loss. -/
  | seamPeerLost (e : SeamEndIx)
  /-- `SEAM_TRAINING` (R158): Both ends sweep and train a returning die's seams, discard old tokens and re-arm every channel. -/
  | seamTraining (s : DieIx) (ms : List (Nat × Margin))
  /-- `CLEAR_MIN` (R159): A write of clear_min clears the minimum-margin records and re-enables SEAM_MARGIN_LOW. -/
  | clearMin (e : SeamEndIx)
  /-- `PANTRY_READ` (R171): A READ command token on a pantry port returns the addressed word and its poison bit. -/
  | pantryRead (t : TinIx) (p : PantryIx) (portB : Bool) (err : MemErr)
  /-- `PANTRY_WRITE` (R170): A WRITE command token stores a word, merging lanes of the row where the organisation needs it. -/
  | pantryWrite (t : TinIx) (p : PantryIx) (portB : Bool) (err : MemErr)
  /-- `PANTRY_SWAP` (R171): A SWAP command token writes a word and returns its old value. -/
  | pantrySwap (t : TinIx) (p : PantryIx) (portB : Bool) (err : MemErr)
  /-- `PANTRY_ROW_SPARED` (R177): The copy of a hard-failed row into a spare row completes and the address is remapped. -/
  | pantryRowSpared (t : TinIx) (p : PantryIx) (row : Fin 1024)
  /-- `PANTRY_SCRUB` (R180): At least every 16 µs the pantry scrubs its next row, taking a port B cycle if needed. -/
  | pantryScrub (t : TinIx) (p : PantryIx) (err : MemErr)
  /-- `FIFO_WRITE` (R184): A write token is stored at the write pointer of a FIFO that is not full, and both pointer copies advance. -/
  | fifoWrite (t : TinIx) (p : PantryIx) (upset : Bool)
  /-- `FIFO_READ` (R184): The offered head word of a FIFO is acknowledged by the receiver and both read-pointer copies advance. -/
  | fifoRead (t : TinIx) (p : PantryIx) (upset : Bool) (err : MemErr)
  /-- `FIFO_EVENT_CONSUME` (R187): The fabric design consumes the pending FIFO event token. -/
  | fifoEventConsume (t : TinIx) (p : PantryIx)
  /-- `STALE` (R188): The stale timer of a non-empty FIFO reaches stale_count units and raises STALE once. -/
  | stale (t : TinIx) (p : PantryIx)
  /-- `LARDER_READ` (R190): A larder read of 4–64 aligned bytes returns data, poisoned where the word is poisoned. -/
  | larderRead (addr : Nat) (bytes : Nat) (dom : Dom) (err : MemErr)
  /-- `LARDER_WRITE` (R190): A larder write stores data, read-merging words smaller than 8 bytes and refusing partial writes to poison. -/
  | larderWrite (addr : Nat) (data : List Byte) (dom : Dom) (posted : Bool) (poison : Bool) (err : MemErr)
  /-- `LARDER_SCRUB` (R191): The larder scrubs its next word, completing a pass of every bank within 1 s. -/
  | larderScrub (bank : Fin 16) (err : MemErr)
  /-- `LARDER_CHECKER_TEST` (R196): Each bank's checkers repeat their self-test every second, or at once on a disagreement. -/
  | larderCheckerTest (bank : Fin 16) (activeOk : Bool) (standbyOk : Bool) (disagree : Bool)
  /-- `POOL_PUSH` (R199): A cell is allocated from the free list and pushed onto a pool list, updating both head and tail copies. -/
  | poolPush (list : Nat) (entry : Nat) (upset : Bool) (ownerErr : Bool)
  /-- `POOL_POP` (R199): A cell is popped from a pool list and freed to the tail of the free list. -/
  | poolPop (list : Nat) (upset : Bool) (nextErr : Bool) (ownerErr : Bool)
  /-- `POOL_SWEEP` (R201): A sweep of every cell's owner frees cells of marked lists and completes within 40 µs. -/
  | poolSweep
  /-- `SELF_TEST_AND_FILL` (R206): A die's or the hub's memory checkers pass their self-test and every memory is filled with zero before release. -/
  | selfTestAndFill (die : Option DieIx) (badTins : List (Fin 13)) (badBanks : List (Fin 16)) (poolOk : Fin 3)
  /-- `MEM_CORRECTED` (R209): At most once per second a memory instance reports its count of corrected errors. -/
  | memCorrected (inst : Nat)
  /-- `MIXER_OPERATION` (R217): A mixer consumes one token from every used input, multiplies, accumulates and emits its outputs. -/
  | mixerOperation (t : TinIx) (q : MixerIx) (parity : Nat)
  /-- `MIXER_SEARCH` (R223): In search mode one A0 value is compared with the best so far and a result is emitted on last. -/
  | mixerSearch (t : TinIx) (q : MixerIx) (parity : Bool)
  /-- `CLK_REF_LOST` (R239): A monitor declares a reference lost, and both generators enter holdover on its family. -/
  | clkRefLost (f : Fin 4)
  /-- `CLK_REF_RESTORED` (R239): A reference that passes both checks for 100 ms is present again and the generators slew back into lock. -/
  | clkRefRestored (f : Fin 4)
  /-- `CLK_SWITCHOVER` (R236): The active generator loses lock or an edge, and the tracking standby takes over without a runt pulse. -/
  | clkSwitchover (lostLock : Bool)
  /-- `CLK_CTL_SWITCH` (R236): A write of switch requests a commanded switchover to a tracking standby. -/
  | clkCtlSwitch
  /-- `CLK_GEN_READY` (R237): A faulted generator that has held lock and tracking for 1 s rejoins as standby. -/
  | clkGenReady
  /-- `CLK_GEN_FAULT` (R238): The active generator faults with no standby tracking. -/
  | clkGenFault (lostLock : Bool)
  /-- `CLK_OUTPUT_GATE` (R238): A monitor finds a faulted generator's output wrong, and the generator gates its outputs off. -/
  | clkOutputGate
  /-- `CLK_PATH_SPARED` (R241): A die missing the active generator's copy for 4 periods switches to the other copy. -/
  | clkPathSpared (d : DieIx)
  /-- `CONTROL_CROSSING` (R242): A control level passes its synchroniser chain or mutual-exclusion element to the destination. -/
  | controlCrossing (d : DieIx) (g : Fin 4) (n : Fin 64) (level : Bool)
  /-- `EVENT_CROSSING` (R244): An event crosses as a toggle and is acknowledged by a return toggle. -/
  | eventCrossing (d : DieIx) (g : Fin 4) (n : Fin 64) (clocked : Bool) (ack : Bool)
  /-- `VALUE_PUBLISH` (R245): A source publishes a multi-bit value, at most once per publish interval. -/
  | valuePublish (d : DieIx) (g : Fin 4) (n : Fin 64) (v : Nat)
  /-- `EDGE_UNSTABLE` (R247): Eight consecutive disagreeing sample pairs set the crossing's unstable flag. -/
  | edgeUnstable (d : DieIx) (g : Fin 4) (n : Fin 64)
  /-- `EDGE_FIFO_WRITE` (R248): A writer puts one word into an edge FIFO. -/
  | edgeFifoWrite (d : DieIx) (g : Fin 4) (n : Fin 64) (clocked : Bool) (w : BitVec 64)
  /-- `EDGE_FIFO_READ` (R249): A reader takes one word from an edge FIFO. -/
  | edgeFifoRead (d : DieIx) (g : Fin 4) (n : Fin 64) (reader : Fin 3)
  /-- `DIE_CLK_LOST` (R255): Both copies of a clock family are missing for 4 periods; the die's edges idle and freeze and its channels enter self-refresh. -/
  | dieClkLost (d : DieIx) (fam : Fin 8) (ovr und evt : Fin 16)
  /-- `DIE_CLK_RESTORED` (R257): After 1 ms of stable clock the die re-arms its crossings, retrains its channels and returns its lanes. -/
  | dieClkRestored (d : DieIx)
  /-- `NOC_INJECT` (R277): An initiator's request enters the NoC through its injection interface, which sets src, domain, epoch and dst. -/
  | nocInject (id : Fin 4096) (p : Packet)
  /-- `ROUTER_HOP` (R281): A router decodes, corrects and forwards one unit by one handshake. -/
  | routerHop (f : Nat) (u : Nat) (err : MemErr)
  /-- `READ` (R271): A READ packet reaches its target, which returns the data in a response. -/
  | read (f : Nat) (err : MemErr)
  /-- `WRITE` (R271): A WRITE packet reaches its target, which stores the data and responds. -/
  | write (f : Nat) (err : MemErr)
  /-- `WRITE_POSTED` (R271): A WRITE_POSTED packet reaches its target, which stores the data without a response. -/
  | writePosted (f : Nat) (err : MemErr)
  /-- `ATOMIC_ADD` (R274): The target adds the operand to the old value indivisibly and returns the old value. -/
  | atomicAdd (f : Nat) (err : MemErr)
  /-- `ATOMIC_SWAP` (R274): The target replaces the old value indivisibly and returns the old value. -/
  | atomicSwap (f : Nat) (err : MemErr)
  /-- `ATOMIC_CAS` (R274): The target swaps when the old value equals the compare value and returns the old value. -/
  | atomicCas (f : Nat) (err : MemErr)
  /-- `MESSAGE` (R794): A MESSAGE packet is delivered to a tin role or a stream port, or discarded and counted elsewhere. -/
  | message (f : Nat)
  /-- `RESPONSE` (R289): A response reaches its initiator and completes the outstanding request, or is discarded as late or stale. -/
  | response (f : Nat)
  /-- `NOC_TIMEOUT` (R288): An initiator's timer for a non-posted request expires and it completes the request with TIMEOUT. -/
  | nocTimeout (i : Nat)
  /-- `QUARANTINE_END` (R289): A quarantined tag is released after 1 s without its late response. -/
  | quarantineEnd (i : Nat)
  /-- `BENCH_WIRE_SPARED` (R292): A failed bench-link wire is replaced by its dozen's spare wire. -/
  | benchWireSpared (d : DieIx) (k : Fin 4) (out : Bool) (z : Fin 32) (w : Fin 12)
  /-- `BENCH_DOZEN_SPARED` (R292): A bench-link dozen with two failed wires moves to a spare dozen. -/
  | benchDozenSpared (d : DieIx) (k : Fin 4) (out : Bool) (z : Fin 32)
  /-- `BENCH_LINK_RETIRED` (R293): A bench-link direction needing a dozen with none left retires the link and re-sends its units. -/
  | benchLinkRetired (d : DieIx) (k : Fin 4)
  /-- `REROUTE_STEP` (R294): Injection holds, in-flight packets drain, routers install alternate routes and injection releases. -/
  | rerouteStep
  /-- `SPINE_ROUTER_SPARED` (R295): A spine router failing self-test or parity is replaced by SPINE_12. -/
  | spineRouterSpared (i : Fin 12)
  /-- `SPINE_ROUTER_RETIRED` (R295): A failing spine router with no spare, or a failing SPINE_12, is retired. -/
  | spineRouterRetired (i : SpineIx)
  /-- `MEMORY_REQUEST` (R313): A channel controller takes the next request by priority and flow and performs its DRAM access. -/
  | memoryRequest (c : ChIx) (err : MemErr) (tagOk : Bool)
  /-- `BEAT_WARN` (R318): At lead before a beat, beat_warn rises at the tins. -/
  | beatWarn
  /-- `BEAT_STALL` (R318): At the beat time all channels stop new commands, precharge and issue all-bank refresh. -/
  | beatStall (k : Nat)
  /-- `BEAT_END` (R318): After tRFCab plus 40 ns the beat signals fall and traffic resumes. -/
  | beatEnd
  /-- `SLICE_BEAT_END` (R318): After a slice beat's training slice the beat signals fall and traffic resumes. -/
  | sliceBeatEnd (failed : List ChIx) (hot : List ChIx)
  /-- `DRAM_REFRESH_HOT` (R320): A device's hot refresh-rate indication puts all channels in hot mode at the next odd grid point. -/
  | dramRefreshHot
  /-- `DRAM_REFRESH_NORMAL` (R320): After 16 slice beats of normal indications all channels return to normal mode. -/
  | dramRefreshNormal
  /-- `PATROL_READ` (R326): A channel patrols its next line in a gap left by requests and beats. -/
  | patrolRead (c : ChIx) (err : MemErr)
  /-- `CHANNEL_TRAINED` (R328): A channel completes full training and enters FILLING. -/
  | channelTrained (c : ChIx) (ok : Bool)
  /-- `CHANNEL_FILLED` (R328): A channel's fill completes and it enters READY. -/
  | channelFilled (c : ChIx)
  /-- `SELF_REFRESH_EXIT` (R329): A channel leaves self-refresh, retrains and takes the next beat before READY. -/
  | selfRefreshExit (c : ChIx) (ok : Bool)
  /-- `EVACUATION_LINE_MOVE` (R335): One line of a retired channel is read through its engine and written to its surviving channel. -/
  | evacuationLineMove (err : MemErr)
  /-- `DRAM_EVACUATED` (R336): Evacuation completes; the channel is RETIRED and a reroute installs the remap. -/
  | dramEvacuated
  /-- `COUNTER_REQUEST` (R366): A counter line's home engine serves a counter request from its cache or DRAM. -/
  | counterRequest (c : ChIx) (l : Fin 4) (g : Fin 128) (x : Nat) (err : MemErr) (tagOk : Bool) (mirror : MemErr) (mirrorOk : Bool)
  /-- `SEALED_READ_PROOF` (R369): The tag and counter path of a sealed read check out, and the read becomes proofed. -/
  | sealedReadProof (c : ChIx) (i : Nat) (tagOk : Bool)
  /-- `SECURITY_HALT` (R387): An integrity violation or other cause stalls every tin, stops DMA and lanes, zeroises keys and records the halt. -/
  | securityHalt (cause : Nat) (die : Nat) (chan : Nat) (level : Nat) (addr : Nat) (node : Nat)
  /-- `GRANULE_REFILL_DONE` (R350): A refilling granule is fully rewritten in its new mode and leaves REFILLING. -/
  | granuleRefillDone (g : Fin 128)
  /-- `SEAL_RESEALED` (R386): A reseal rebuilds the counters and zeroes the data of its range and completes. -/
  | sealResealed (g : Fin 128)
  /-- `FLR` (R401): A Function Level Reset disables the function's queues and drops its unstarted descriptors. -/
  | flr (fn : Fin 66)
  /-- `PERST_N` (R402): PERST_N resets the host attachment and HQE only. -/
  | perstN
  /-- `BAR_READ` (R408): A BAR_0 or BAR_4 read is split into NoC reads and returns a completion. -/
  | barRead (fn : Fin 2) (bar4 : Bool) (off n : Nat) (err : MemErr)
  /-- `BAR_WRITE` (R408): A BAR_0 or BAR_4 write is split into NoC writes. -/
  | barWrite (fn : Fin 2) (bar4 : Bool) (off : Nat) (data : List Byte) (ep : Bool) (err : MemErr)
  /-- `BAR_TIMEOUT` (R409): A BAR request unanswered for 50 µs completes with completer abort. -/
  | barTimeout (i : Nat)
  /-- `SQ_DOORBELL` (R417): A write of an SQ doorbell sets the queue's new SQ tail. -/
  | sqDoorbell (fn : Fin 66) (page : QueueIx) (v : Word)
  /-- `CQ_DOORBELL` (R417): A write of a CQ doorbell reports the host's consumed CQ head. -/
  | cqDoorbell (fn : Fin 66) (page : QueueIx) (v : Word)
  /-- `DESCRIPTOR_FETCH` (R416): The HQE fetches and starts the next descriptor of an enabled queue once a CQ entry is reserved. -/
  | descriptorFetch (q : QueueIx) (d : Option Desc)
  /-- `COPY_TO_DEVICE` (R421): A COPY descriptor moves bytes from host memory to a device range. -/
  | copyToDevice (q : QueueIx) (k : Nat) (host : HostRead) (err : MemErr)
  /-- `COPY_FROM_DEVICE` (R421): A COPY descriptor moves bytes from a device range to host memory. -/
  | copyFromDevice (q : QueueIx) (k : Nat) (err : MemErr)
  /-- `COPY_DEVICE` (R421): A COPY descriptor moves bytes between two device ranges. -/
  | copyDevice (q : QueueIx) (k : Nat) (err : MemErr)
  /-- `COPY_COMPLETE` (R423): All requests of a COPY have answered and its completion is written. -/
  | copyComplete (q : QueueIx) (k : Nat) (ok : Bool)
  /-- `STREAM_SEND` (R428): A STREAM_SEND delivers one piece of a record to its stream port. -/
  | streamSend (q : QueueIx) (host : HostRead)
  /-- `STREAM_SEND_TIMEOUT` (R428): A piece not accepted within NOC_TMO_0 is discarded and completes with ABORTED. -/
  | streamSendTimeout (q : QueueIx)
  /-- `STREAM_BUFFER` (R429): A STREAM_BUFFER descriptor provides a host buffer for incoming records. -/
  | streamBuffer (q : QueueIx)
  /-- `STREAM_RECORD` (R429): A record from the fabric is packed as pieces into the queue's buffers. -/
  | streamRecord (q : QueueIx)
  /-- `STREAM_BUFFER_FLUSH` (R443): A STREAM_IN buffer idle for stale_us completes with flushed set. -/
  | streamBufferFlush (q : QueueIx)
  /-- `QUEUE_CREATE` (R436): A queue is created and enters ENABLED. -/
  | queueCreate (q : QueueIx)
  /-- `QUEUE_DELETE` (R436): A queue aborts its unstarted descriptors and enters DISABLED. -/
  | queueDelete (q : QueueIx) (cids : List (Fin 65536))
  /-- `QUEUE_PAUSE` (R431): An ENABLED queue enters PAUSED. -/
  | queuePause (q : QueueIx)
  /-- `QUEUE_RESUME` (R431): A PAUSED queue returns to ENABLED. -/
  | queueResume (q : QueueIx)
  /-- `QUEUE_RESET` (R436): A queue in ERROR returns to ENABLED with indices at 0. -/
  | queueReset (q : QueueIx)
  /-- `QUEUE_ASSIGN` (R436): A disabled queue is assigned to a new owner function. -/
  | queueAssign (q : QueueIx)
  /-- `QUEUE_QUERY` (R436): The state, type, owner, cause and indices of a queue are returned. -/
  | queueQuery (q : QueueIx)
  /-- `INTERRUPT_COALESCE` (R441): An unsignalled CQ entry waits coal_us µs and the queue's vector is sent. -/
  | interruptCoalesce (q : QueueIx)
  /-- `CQ_STALE` (R442): A ring entry unconsumed for stale_us µs re-sends the vector. -/
  | cqStale (q : QueueIx)
  /-- `EVENT_RING_MOVE` (R445): The HQE moves a backlog entry into a PF's event ring. -/
  | eventRingMove (pf : Fin 2)
  /-- `HQE_QCTL_WRITE` (R450): A write of HQE_QCTL enables or disables the admin queue. -/
  | hqeQctlWrite (v : Word) (cids : List (Fin 65536))
  /-- `LOAD_IMAGE` (R536): A LOAD_IMAGE descriptor supplies one piece of an image container chain. -/
  | loadImage (q : QueueIx) (host : HostRead)
  /-- `RELOCATE_TIN` (R572): A command starts the relocation of a role onto its die's spare tin. -/
  | relocateTin (q : QueueIx)
  /-- `SWAP_AT` (R577): A command schedules a hitless swap of a role to the design waiting in the spare tin. -/
  | swapAt (q : QueueIx)
  /-- `SWAP_CANCEL` (R581): A SWAP_AT with cancel ends the role's pending timed operation. -/
  | swapCancel (q : QueueIx)
  /-- `SPARE_POLICY` (R571): A command sets tin_auto and mem_auto. -/
  | sparePolicy (q : QueueIx)
  /-- `RETIRE_TIN` (R583): A tin is retired, its role relocated or exchanged with the spare. -/
  | retireTin (q : QueueIx)
  /-- `RETIRE_CHANNEL` (R583): A DRAM channel is retired and evacuated. -/
  | retireChannel (q : QueueIx)
  /-- `RETIRE_BENCH_LINK` (R583): A bench link is retired unless it is the die's last. -/
  | retireBenchLink (q : QueueIx)
  /-- `RETIRE_CORE` (R583): A core is replaced by CORE_4. -/
  | retireCore (q : QueueIx) (ok4 : Bool)
  /-- `RETIRE_SPINE_ROUTER` (R583): A spine router is retired or replaced. -/
  | retireSpineRouter (q : QueueIx)
  /-- `GRANULE_SET` (R438): A command changes a granule's mode, rights, or both. -/
  | granuleSet (q : QueueIx)
  /-- `STORE_SET` (R439): A command sets the number of store granules. -/
  | storeSet (q : QueueIx)
  /-- `RESEAL_RANGE` (R440): A command starts the reseal of a 32 KiB-aligned range of a SEALED granule. -/
  | resealRange (q : QueueIx)
  /-- `POWER_STATE` (R640): A command starts an entry to a power state or a wake to RUN. -/
  | powerState (q : QueueIx)
  /-- `TIN_RESET` (R683): A role's tin stalls, returns holds, mixers and FIFOs to initial state and takes a new epoch. -/
  | tinReset (q : QueueIx)
  /-- `DIE_RESET` (R677): One fabric die enters RESETTING: its ports stall, neighbours see PEER_LOST and its channels save and self-refresh. -/
  | dieReset (q : QueueIx)
  /-- `HUB_WARM_RESET` (R673): The cores and HQE reset and debug authorisation ends. -/
  | hubWarmReset (q : QueueIx) (ok : Fin 16) (ok4 : Bool)
  /-- `CORE_RESET` (R624): A core abandons its state, self-tests and restarts its hart at the blob entry under a new epoch. -/
  | coreReset (q : QueueIx) (ok ok4 : Bool)
  /-- `LANE_SIGNAL_DETECT` (R463): A training lane detects signal and goes on to lock and adapt. -/
  | laneSignalDetect (l : LaneIx) (locked : Bool)
  /-- `LINK_TRAINING_REQUEST` (R464): A partner's coefficient request is obeyed within the lane's bounds or answered at its limit. -/
  | linkTrainingRequest (l : LaneIx) (tap : Fin 3) (inc : Bool)
  /-- `LANE_UP` (R463): A lane whose eye score meets eye_min enters ACTIVE. -/
  | laneUp (l : LaneIx) (eye : Nat) (ctle : Nat)
  /-- `LANE_ATTEMPT_TIMEOUT` (R465): A training attempt not complete in time fails and the next attempt starts. -/
  | laneAttemptTimeout (l : LaneIx)
  /-- `LANE_SELF_TEST_DONE` (R466): A lane's near-end self-test ends after three failed attempts. -/
  | laneSelfTestDone (l : LaneIx) (pass : Bool)
  /-- `LANE_RETRY` (R466): Every 1 s a lane whose fault is outside the device makes a new attempt. -/
  | laneRetry (l : LaneIx)
  /-- `EYE_MEASUREMENT` (R467): Every 1 ms an ACTIVE lane measures its eye score and adapts one step. -/
  | eyeMeasurement (l : LaneIx) (eye : Nat) (dir : Fin 3)
  /-- `LANE_SIGNAL_LOST` (R469): An ACTIVE lane loses signal or lock and tries to relock. -/
  | laneSignalLost (l : LaneIx)
  /-- `LANE_RELOCK_TIMEOUT` (R469): A lane that has not relocked in 1 ms trains from step 1. -/
  | laneRelockTimeout (l : LaneIx)
  /-- `LANE_STATE_REACHED` (R470): A lane reaches the deepest demanded state within its entry or exit time. -/
  | laneStateReached (l : LaneIx) (pass : Bool)
  /-- `LANE_REQ_STATE` (R471): A write of req_state changes the lane's demanded state. -/
  | laneReqState (l : LaneIx) (v : Fin 5)
  /-- `LANE_RATE_WRITE` (R473): A write of rate takes a running lane through DEEP to training at the new rate. -/
  | laneRateWrite (l : LaneIx) (r : Fin 16)
  /-- `LANE_RETRAIN` (R472): A write of retrain starts training from the table entry, or repeats a STOPPED lane's self-test. -/
  | laneRetrain (l : LaneIx) (pass : Bool)
  /-- `INJ_ONCE` (R476): A write of inj_once inverts one bit of the next word. -/
  | injOnce (l : LaneIx)
  /-- `INJ_RATE` (R476): A write of inj_rate starts or stops periodic bit inversion. -/
  | injRate (l : LaneIx) (k : Fin 64)
  /-- `CHK_CLEAR` (R475): A write of chk_clear zeroes the error count and re-seeds the checker. -/
  | chkClear (l : LaneIx)
  /-- `LOOPBACK_CHANGE` (R477): A change of loopback retrains the lane from its entry. -/
  | loopbackChange (l : LaneIx) (v : Fin 3)
  /-- `PPS_IN_EDGE` (R486): A PPS_IN edge is captured and, in PPS mode, corrects the time keeper's rate and slew or steps it. -/
  | ppsInEdge (fall : Bool)
  /-- `TIME_HOLDOVER` (R487): No PPS edge for 2 s makes the discipline HOLDOVER. -/
  | timeHoldover
  /-- `TIME_STEP` (R488): A write of step sets the time to TIME_SET and clears the remaining slew. -/
  | timeStep (dom : Dom) (src : Fin 4096)
  /-- `TIME_ADJ_WRITE` (R489): A write to TIME_ADJ replaces the remaining slew. -/
  | timeAdjWrite (v : Word)
  /-- `PPS_OUT` (R490): At each second boundary PPS_OUT rises for width µs. -/
  | ppsOut
  /-- `DIE_TIME_ALIGN` (R492): Every 1 ms the hub aligns each die's copy of the time. -/
  | dieTimeAlign (d : DieIx)
  /-- `FRAME_RECEIVE` (R496): The MAC receives, checks, timestamps and delivers a frame as a record. -/
  | frameReceive (d : DieIx) (p : Fin 12) (f : List Byte) (bufErr : Bool) (corr uncorr : Nat)
  /-- `TRANSMIT_RECORD` (R503): A transmit record from the fabric is checked and queued for its port or the time edge. -/
  | transmitRecord (d : DieIx) (src : Fin 20)
  /-- `FRAME_TRANSMIT` (R497): The MAC pads, appends the FCS and sends a frame, timestamping it when asked. -/
  | frameTransmit (d : DieIx) (p : Fin 12) (underrun : Bool)
  /-- `SDI_LOCKED` (R506): TRS at a consistent position on 2 lines locks the SDI receiver. -/
  | sdiLocked (d : DieIx) (m : Fin 4)
  /-- `SDI_UNLOCKED` (R506): An expected TRS is missing and the SDI receiver loses lock. -/
  | sdiUnlocked (d : DieIx) (m : Fin 4)
  /-- `SDI_LINE` (R507): The line CRC of each data stream is checked and mismatches marked and counted. -/
  | sdiLine (d : DieIx) (m : Fin 4) (tx : Bool) (ws : List (List (BitVec 10))) (crcAt bad : Nat)
  /-- `ST352_CHANGE` (R508): A new ST 352 payload seen in two frames is stored and reported. -/
  | st352Change (d : DieIx) (m : Fin 4) (v : Word)
  /-- `RECORD_PRESENTATION` (R512): A record reaching the head of a time-edge stream port has its launch time fixed. -/
  | recordPresentation (d : DieIx) (k : Fin 8)
  /-- `RECORD_ACCEPT` (R512): A presented record whose launch is within 1 ms is accepted into the time-edge buffer. -/
  | recordAccept (d : DieIx) (k : Fin 8)
  /-- `PACKET_LAUNCH` (R515): A record's packet starts on the wire at its launch time, with its duplicate if set. -/
  | packetLaunch (d : DieIx) (p : Fin 12)
  /-- `STATISTICS_WRITE` (R523): Every 1 ms each port's statistics page is written whole. -/
  | statisticsWrite (d : DieIx) (p : Fin 12)
  /-- `MAC_CQ_HEAD` (R522): A write of MAC_CQ_HEAD reports a control queue's consumed head. -/
  | macCqHead (d : DieIx) (k : Fin 13) (head : Fin 64)
  /-- `MAC_CQ_RESET` (R522): A write with reset returns a control queue in ERROR to service. -/
  | macCqReset (d : DieIx) (k : Fin 13)
  /-- `PUSH` (R531): A slave-port session with the PUSH opcode begins an image container. -/
  | push (par : Bool) (bytes : List Byte)
  /-- `STAT` (R532): A slave-port session with the STAT opcode reads the status word. -/
  | stat
  /-- `HEADER_AUTHENTICATED` (R533): The container header passes its checks and the device enters LOADING. -/
  | headerAuthenticated (key : Option (Fin 4)) (sigOk : Bool)
  /-- `IMAGE_SEGMENT` (R548): A segment is decoded, checked and its frames written to unreleased tins. -/
  | imageSegment (plain : List Byte)
  /-- `END_MARKER` (R547): The end marker completes and its hashes and tag are checked before commit. -/
  | endMarker (hashOk tagOk : Bool)
  /-- `FULL_IMAGE_COMMIT` (R553): A full image commits, every die takes a new epoch and the device enters RUNNING. -/
  | fullImageCommit
  /-- `PARTIAL_IMAGE_COMMIT` (R559): A partial image commits into its target tin. -/
  | partialImageCommit
  /-- `EARLY_END` (R554): CFG_CS_N rises or a chain ends before length bytes, failing the load with IMAGE_INCOMPLETE. -/
  | earlyEnd
  /-- `CFG_IDLE_TIMEOUT` (R554): No byte for CFG_IDLE_TIMEOUT.ms ends a load early. -/
  | cfgIdleTimeout
  /-- `FABRIC_WIPE_DONE` (R555): After a failed full image the wipe completes and the device enters FALLBACK or SAFE_SHELL. -/
  | fabricWipeDone
  /-- `FALLBACK_TIMEOUT` (R556): No golden attempt begins within fallback_s, and the device enters SAFE_SHELL. -/
  | fallbackTimeout
  /-- `AUTO_RELOCATION_START` (R571): With tin_auto set, the spare manager starts a relocation of a due tin within 1 s. -/
  | autoRelocationStart (d : DieIx)
  /-- `TARGET_LOADED` (R572): The spare tin is loaded from the kept copy for a relocation. -/
  | targetLoaded (d : DieIx) (r : Fin 12) (ok : Bool)
  /-- `RELOCATION_FREEZE` (R572): At the later of load and T the source's inbound ports stall and it enters FROZEN. -/
  | relocationFreeze (d : DieIx) (r : Fin 12)
  /-- `SOURCE_QUIESCENT` (R572): The frozen source is quiescent with all proofs complete and the state transfer begins. -/
  | sourceQuiescent (d : DieIx) (r : Fin 12)
  /-- `STATE_TRANSFER_DONE` (R572): The hub's state path has copied the source's state into the target. -/
  | stateTransferDone (d : DieIx) (r : Fin 12) (ok : Bool)
  /-- `TIN_RELOCATED` (R572): The tins exchange roles, connections switch and the target is released. -/
  | tinRelocated (d : DieIx) (r : Fin 12)
  /-- `QUIESCENCE_TIMEOUT` (R575): The source is not quiescent 8 µs after freeze and the relocation aborts. -/
  | quiescenceTimeout (d : DieIx) (r : Fin 12)
  /-- `RELOCATION_RETRY` (R576): The spare manager retries an automatically aborted relocation after 1 s. -/
  | relocationRetry (d : DieIx) (r : Fin 12)
  /-- `SWAP_TIME` (R577): At T the old tin's inbound ports stall and its pending outbound tokens are discarded. -/
  | swapTime (d : DieIx) (r : Fin 12)
  /-- `TIN_SWAPPED` (R577): Carried pantries are copied, roles exchange and the new tin is released under a new epoch. -/
  | tinSwapped (d : DieIx) (r : Fin 12)
  /-- `TIN_RESTARTED` (R584): A role with a rail fault or proof-lost read is reloaded from its kept copy and released. -/
  | tinRestarted (d : DieIx) (r : Fin 12) (ok : Bool)
  /-- `RETURN_TEST_DONE` (R587): A tin's return test ends and the tin enters SPARE or RETIRED. -/
  | returnTestDone (t : TinIx) (pass : Bool)
  /-- `KNEADER_FRAME_READ` (R593): The active kneader reads one frame, correcting or restoring it. -/
  | kneaderFrameRead (t : TinIx) (f : Fin 40960) (err : MemErr)
  /-- `HOT_FRAME_INTERVAL` (R594): A 3,600 s interval ends and per-frame correction counts are scored. -/
  | hotFrameInterval (t : TinIx)
  /-- `KNEADER_HEARTBEAT` (R595): Every 100 µs each kneader's heartbeat and pass signatures are checked. -/
  | kneaderHeartbeat (d : DieIx) (beatA beatB sigOk okA okB : Bool)
  /-- `WATCHDOG_KICK` (R617): A write of 0x0000_4B1C to MGC_WDG_KICK restarts the watchdog count. -/
  | watchdogKick (h : HartIx) (key : Word)
  /-- `WATCHDOG_PRE_BITE` (R618): The watchdog count reaches 75 % of timeout and raises its interrupt source. -/
  | watchdogPreBite (h : HartIx)
  /-- `WDG_BITE` (R618): The watchdog count reaches timeout and its core is reset. -/
  | wdgBite (h : HartIx) (ok ok4 : Bool)
  /-- `BOOT_START` (R623): A write of start locks the blob range and begins firmware verification. -/
  | bootStart (offset : Fin 32768)
  /-- `FIRMWARE_VERIFIED` (R623): Verification completes and every hart starts, or the boot is rejected. -/
  | firmwareVerified (key : Option (Fin 4)) (sigOk hashOk : Bool)
  /-- `GET_RANDOM` (R627): The mailbox returns 32 TRNG bytes. -/
  | getRandom
  /-- `HASH_RANGE` (R627): The mailbox returns the SHA-384 of a larder range. -/
  | hashRange
  /-- `VERIFY_BLOB` (R627): The mailbox verifies a firmware blob without locking it. -/
  | verifyBlob (key : Option (Fin 4)) (sigOk hashOk : Bool)
  /-- `DEVICE_INFO` (R627): The mailbox returns lifecycle, debug level and fuse information. -/
  | deviceInfo
  /-- `LIFECYCLE_ADVANCE` (R689): A signed token burns the next lifecycle fuse bit. -/
  | lifecycleAdvance (key : Option (Fin 4)) (sigOk : Bool)
  /-- `KEY_PROGRAM` (R695): A signed token burns a key-hash slot or the image key. -/
  | keyProgram (key : Option (Fin 4)) (sigOk : Bool)
  /-- `KEY_REVOKE` (R696): A signed token revokes a key-hash slot. -/
  | keyRevoke (key : Option (Fin 4)) (sigOk : Bool)
  /-- `FORCE_HALT` (R699): The mailbox starts a security halt with cause 8. -/
  | forceHalt
  /-- `MAILBOX_COMPLETE` (R627): A mailbox command completes, fills its response and raises source 1. -/
  | mailboxComplete
  /-- `SEC_RESPONSE_READ` (R627): A consuming read of MGC_SEC_RSP_0 lowers interrupt source 1. -/
  | secResponseRead
  /-- `L2_CLEAN` (R606): MGC_L2_CMO cleans a range of L2 lines. -/
  | l2Clean
  /-- `L2_INVALIDATE` (R606): MGC_L2_CMO invalidates a range of L2 lines. -/
  | l2Invalidate
  /-- `L2_CLEAN_INVALIDATE` (R606): MGC_L2_CMO cleans and invalidates a range of L2 lines. -/
  | l2CleanInvalidate
  /-- `L2_CMO_DONE` (R606): An L2 maintenance operation completes and busy clears. -/
  | l2CmoDone
  /-- `LOAD_RESERVED` (R610): An LR loads a value and sets the hart's reservation on its line. -/
  | loadReserved (h : HartIx) (a : Nat) (dbl : Bool) (victim : Nat) (err : MemErr)
  /-- `STORE_CONDITIONAL` (R610): An SC writes only with a valid reservation and clears it. -/
  | storeConditional (h : HartIx) (a : Nat) (d : List Byte)
  /-- `AMO` (R612): An AMO executes in the L2 or as a NoC atomic to a tin window, or faults. -/
  | amo (h : HartIx) (op : AmoOp) (a : Nat) (dbl : Bool) (v : BitVec 64) (victim : Nat) (err : MemErr)
  /-- `UNCACHED_STORE` (R609): An uncached store is issued as WRITE without waiting for its response. -/
  | uncachedStore (h : HartIx) (a : Nat) (d : List Byte)
  /-- `MGC_L2_UNCORR` (R607): An uncorrectable L2 line is poisoned and raises source 3. -/
  | mgcL2Uncorr (k : Nat)
  /-- `TIMER_INTERRUPT` (R614): MGC_MTIME reaches a hart's MTIMECMP and its timer interrupt becomes pending. -/
  | timerInterrupt (h : HartIx)
  /-- `CLUSTER_EVENT_MOVE` (R616): The cluster backlog moves an entry into its larder event ring. -/
  | clusterEventMove
  /-- `PWR_RAIL_FAULT` (R632): A VFAB or VLANE excursion of 10 µs shuts off the die's regulator. -/
  | pwrRailFault (d : DieIx) (lane : Bool)
  /-- `HUB_RAIL_FAULT` (R632): A VHUB, VAON or low VIN_12 excursion shuts down every regulator. -/
  | hubRailFault
  /-- `REFUSERS_ANSWERED` (R641): Every refuser has answered a power-state entry; a refusal ends the command. -/
  | refusersAnswered
  /-- `ENTRY_QUIESCENT` (R642): Every tin is quiescent and channels enter self-refresh for the entry. -/
  | entryQuiescent
  /-- `ENTRY_ABORT` (R642): A tin not quiescent 100 µs after t1 aborts the entry. -/
  | entryAbort
  /-- `POINT_OF_NO_RETURN` (R642): Lanes and pads are settled, the save list written, and the rails change. -/
  | pointOfNoReturn
  /-- `PWR_STATE_ENTERED` (R642): The target power state is entered and the command completes. -/
  | pwrStateEntered
  /-- `WAKE_NOW` (R648): A write of wake_now starts a wake. -/
  | wakeNow
  /-- `GPIO_WAKE` (R648): A rising edge on GPIO_0 with gpio_en starts a wake. -/
  | gpioWake
  /-- `TIMER_WAKE` (R648): The seconds reach PTM_WAKE_SEC with timer_en and start a wake. -/
  | timerWake
  /-- `WAKE_STEP` (R649): A wake step starts at its offset or after the previous step's overrun. -/
  | wakeStep (late : Bool) (ok : Fin 16) (ok4 : Bool) (bad : List TinIx)
  /-- `PAD_RELEASE` (R646): A write of release bit d returns a die's pads to the fabric design. -/
  | padRelease (d : DieIx)
  /-- `THERM_TRIP` (R656): A sensor at 158 °C asserts THERM_TRIP_N and collapses the fabric and lane rails. -/
  | thermTrip (k : Fin 136)
  /-- `THERM_TRIP_RELEASE` (R656): Every sensor below 140 °C deasserts THERM_TRIP_N. -/
  | thermTripRelease
  /-- `PWR_OVERCURRENT` (R660): VIN_12 above 28 A for 1 ms ends boost or governs every die. -/
  | pwrOvercurrent
  /-- `OVERCURRENT_RELEASE` (R660): VIN_12 at or below 26 A for 100 ms releases the overcurrent demands. -/
  | overcurrentRelease
  /-- `POWER_ON_RESET` (R666): Power-good absent holds the whole device in power-on reset. -/
  | powerOnReset (good : Bool) (straps : Fin 8)
  /-- `RESET_N` (R667): RESET_N low for 1 µs resets the whole device except the kept breadbox. -/
  | resetN (straps : Fin 8)
  /-- `SEC_BOOT` (R669): SEC boots, reads fuses, writes boot registers and draws channel keys. -/
  | secBoot (b : BootSettings) (fuses : FuseRead) (selfOk trngOk : Bool)
  /-- `CLOCK_LOCK` (R669): Generators lock on every present reference and the fabric and lane rails ramp. -/
  | clockLock (absent : Fin 16)
  /-- `CFG_ERR_N_RELEASE` (R529): After the hub's self-test and fill, CFG_ERR_N is released and images are accepted. -/
  | cfgErrNRelease (badCores : Fin 32)
  /-- `DIE_RESET_RELEASE` (R677): At t0 + 1 ms the die's state is cleared and it is released under a new epoch. -/
  | dieResetRelease (d : DieIx)
  /-- `DIE_RETURNED` (R677): The returning die's roles are reloaded and released and the command completes. -/
  | dieReturned (d : DieIx) (bad : List (Fin 13))
  /-- `DIE_POWER_LOST` (R680): A die loses power; pads latch, neighbours see PEER_LOST and its DRAM content is lost. -/
  | diePowerLost (d : DieIx)
  /-- `DIE_POWER_RETRY` (R681): 100 ms after a rail fault the PTM powers the die once more. -/
  | diePowerRetry (d : DieIx) (holds : Bool)
  /-- `TRNG_HEALTH_FAIL` (R703): A TRNG health test fails after boot. -/
  | trngHealthFail
  /-- `TRNG_RETEST` (R703): Every 1 s a failed TRNG repeats its start-up tests. -/
  | trngRetest (ok : Bool)
  /-- `GLITCH_DETECT` (R704): A glitch detector trips and starts a security halt. -/
  | glitchDetect
  /-- `CHALLENGE_LOCKOUT_END` (R714): The 60 s refusal of new challenges ends. -/
  | challengeLockoutEnd
  /-- `TAP_RESET` (R722): TRST_N or five TMS-high edges reset the TAP alone. -/
  | tapReset
  /-- `EXTEST` (R727): The boundary register drives every covered pad. -/
  | extest (cells : Nat)
  /-- `SAMPLE_PRELOAD` (R724): The boundary register samples or preloads pad values. -/
  | samplePreload (cells : Nat)
  /-- `IDCODE` (R723): The TAP returns the IDCODE. -/
  | idcode
  /-- `CLAMP` (R727): Pads hold boundary values with BYPASS selected. -/
  | clamp
  /-- `HIGHZ` (R727): Pads stop driving with BYPASS selected. -/
  | highz
  /-- `EXTEST_PULSE` (R727): IEEE 1149.6 pulse test of lane pairs. -/
  | extestPulse (cells : Nat)
  /-- `EXTEST_TRAIN` (R727): IEEE 1149.6 train test of lane pairs. -/
  | extestTrain (cells : Nat)
  /-- `BOUNDARY_SCAN_END` (R727): A boundary instruction ends; pads return, channels exit self-refresh and lanes retrain. -/
  | boundaryScanEnd
  /-- `BYPASS` (R724): The one-bit bypass register is selected. -/
  | bypass
  /-- `HALT_CAUSE` (R728): The TAP captures the halt-cause registers. -/
  | haltCause
  /-- `AUTH` (R710): A debug response is checked against its challenge and the level granted or refused. -/
  | auth (resp : Option (List Byte)) (key : Option (Fin 4)) (sigOk : Bool)
  /-- `DAP_READ` (R731): A DAP READ makes a 4-byte NoC read as domain 15, with peek or consume. -/
  | dapRead (a : Fin 1099511627776) (consume inc : Bool) (err : MemErr)
  /-- `DAP_WRITE` (R731): A DAP WRITE makes a 4-byte NoC write as domain 15. -/
  | dapWrite (a : Fin 1099511627776) (w : Word) (inc : Bool) (err : MemErr)
  /-- `DTERM_UPDATE` (R743): A DTERM update clears tx_full or places a word in DBG_DRX. -/
  | dtermUpdate (v : BitVec 34)
  /-- `CFG_LOAD` (R540): Container bytes are shifted in through JTAG. -/
  | cfgLoad (bytes : List Byte)
  /-- `CFG_READBACK` (R729): A configuration frame is selected and captured through JTAG. -/
  | cfgReadback (sel : Option (Fin 128 × Fin 65536))
  /-- `DM_HALT` (R735): A halt request, ebreak or trigger debug-halts a hart and clears its reservation. -/
  | dmHalt (h : HartIx)
  /-- `DM_RESUME` (R736): A debug-halted hart resumes, with its watchdog grace or deferred bite applied. -/
  | dmResume (h : HartIx) (ok ok4 : Bool)
  /-- `ACCESS_REGISTER` (R734): An abstract command reads or writes a hart register. -/
  | accessRegister (h : HartIx) (regno : Fin 65536) (write dbl : Bool)
  /-- `XT_CHANNEL_FIRE` (R737): A cross-trigger source fires its channel and the channel acts on its sinks. -/
  | xtChannelFire (c : Fin 8) (h : HartIx)
  /-- `STIMULUS_WRITE` (R740): A write to DBG_STIM_n emits one trace packet. -/
  | stimulusWrite (n : Fin 256) (w : Word) (src : Fin 4096)
  /-- `TRACE_FRAME_SEND` (R742): Trace packets leave on the trace lane within 2 µs of the first. -/
  | traceFrameSend
  /-- `DTX_WRITE` (R743): Firmware writes a word to DBG_DTX, setting tx_full. -/
  | dtxWrite (w : Word)
  /-- `DRX_CONSUME` (R743): A consume read of DBG_DRX clears rx_full. -/
  | drxConsume
  /-- `TIN_FREEZE` (R744): A debug freeze stalls a role's inbound ports. -/
  | tinFreeze (d : DieIx) (r : Fin 12)
  /-- `DBG_TIN_FROZEN` (R745): A debug-frozen tin reaches quiescence. -/
  | dbgTinFrozen (d : DieIx) (r : Fin 12)
  /-- `TIN_RELEASE` (R744): A debug-frozen tin's ports return to their earlier modes. -/
  | tinRelease (d : DieIx) (r : Fin 12)
  /-- `TOKEN_STEP` (R744): One token passes an inbound port of a frozen tin, which runs to quiescence again. -/
  | tokenStep (d : DieIx) (r : Fin 12) (port : Fin 512)
  /-- `TIN_READBACK` (R744): A frozen tin's holds, pantries and mixers are copied to the TRACE region. -/
  | tinReadback (d : DieIx) (r : Fin 12)
  /-- `TIN_STATE_WRITE` (R744): A frozen tin's state is written back from the TRACE region. -/
  | tinStateWrite (d : DieIx) (r : Fin 12)
  /-- `GPIO_OUT_WRITE` (R760): A write to DIE_GPIO_OUT changes the permitted pad bits. -/
  | gpioOutWrite (d : DieIx) (value : Fin 16) (dom : Dom) (src : Fin 4096) (posted : Bool)
  /-- `PAD_INPUT_CHANGE` (R761): A level change at a user pad appears in DIE_GPIO_IN. -/
  | padInputChange (p : Fin 32) (level : Bool)
  /-- `SMBUS_SET_POINTER` (R788): SMBus command 0x10 sets the address pointer. -/
  | smbusSetPointer (a : Fin 16777216) (pec : Bool)
  /-- `SMBUS_READ` (R788): SMBus command 0x11 peeks the register at the pointer and advances it. -/
  | smbusRead (pec : Bool)
  /-- `SMBUS_WRITE` (R788): SMBus command 0x12 writes a scratch register at the pointer. -/
  | smbusWrite (v : Word) (pec : Bool)
  /-- `SMBUS_WRITE_STATUS` (R788): SMBus command 0x13 returns the status of the last write. -/
  | smbusWriteStatus (pec : Bool)
  /-- `SMBUS_ATTN_SUM` (R788): SMBus command 0x20 returns GLB_ATTN_SUM. -/
  | smbusAttnSum (pec : Bool)
  /-- `SMBUS_TJ` (R788): SMBus command 0x21 returns the highest Tj. -/
  | smbusTj (pec : Bool)
  /-- `SMBUS_CURRENT` (R788): SMBus command 0x22 returns the VIN_12 current. -/
  | smbusCurrent (pec : Bool)
  /-- `FETCH_LOAD_STORE` (R608): A hart fetches, loads or stores through its caches, filling lines from the L2 or the NoC, or takes a precise access fault. -/
  | fetchLoadStore (h : HartIx) (k : AccKind) (a n : Nat) (d : List Byte) (victim : Nat) (err : MemErr)
  /-- `PCIE_LINK_CHANGE` (R787): The PCI Express link of a port trains, comes up, enters RECOVERY or L1, or goes down, updating PCIE_LINK_p. -/
  | pcieLinkChange (p : Fin 2) (up flit : Bool) (gen : Fin 7) (width : Fin 3) (ltssm : Fin 8) (corr uncorr : Nat)
  /-- `HOST_COMPLETION_TIMEOUT` (R426): A host-memory read issued by the HQE receives no completion in time, and its descriptor ends as a failed host read. -/
  | hostCompletionTimeout (q : QueueIx) (k : Nat)
  /-- `PATTERN_CHECKER_LOCK` (R475): The lane pattern checker locks after 64 correct bits or unlocks when more than 64 of 256 bits are in error, then re-seeds. -/
  | patternCheckerLock (l : LaneIx) (locked : Bool) (errors : Nat)
  /-- `OTHER_GENERATOR_LOCKED` (R637): In DEEP, the generator powered after the active one faults has locked within 2 ms and becomes active. -/
  | otherGeneratorLocked
  /-- `STANDBY_GENERATOR_FAULT` (R234): The standby generator loses lock or stops tracking the active one, and CLK_STAT.tracking falls. -/
  | standbyGeneratorFault (lostLock : Bool)
deriving DecidableEq, Repr

end Sys2Proof
end

