-- ==== Sys2Proof/Machine/State.lean ====
section
/-! DEFINITION. The state of the device as plain data, the reasons a step can stop, and the state after reset. -/

namespace Sys2Proof.Machine

/-- No command of this device ends the machine in a fault: every error the manual describes is a status, a count or an
event inside a next state. The type is closed and has this one constructor, which no meaning raises (safe). -/
inductive Fault where
  | none
deriving DecidableEq, Repr

/-- Why a step is refused. `notModelled` names a command that has no meaning yet; only an arm of `exec` raises it (safe). -/
inductive Refusal where
  | notModelled (mnemonic : String)
deriving DecidableEq, Repr

/-! ### Events (R24, R444, R445, R616) -/

/-- One event as posted: code, severity, the die it names, the unit and its two arguments. -/
structure Ev where
  code : Nat
  sev : Nat
  die : Option Nat
  unit : Nat
  arg0 : Nat
  arg1 : Nat
deriving DecidableEq, Repr

/-- One entry of a backlog or of an event ring (R445): `seq` counts the entries of that backlog, `lost` says that entries
were discarded before this one, `time` is the time of posting. -/
structure EvEntry where
  ev : Ev
  seq : Nat
  lost : Bool
  time : Nat
deriving DecidableEq, Repr

/-- An event backlog of 1,024 entries (R444); `minSev` is its ring's `min_sev`, and `lost` waits for the next entry it
delivers. -/
structure Backlog where
  minSev : Nat
  entries : List EvEntry
  seq : Nat
  lost : Bool
deriving DecidableEq, Repr

/-- The attention bits of every block (R783, key: block code 0–12, or 16 + d for the DIE block of `FD_d`), the three
backlogs, and for each report limited to once per second the time of its last post and the count since. -/
structure Events where
  attn : Tab Nat
  pf0 : Backlog
  pf1 : Backlog
  mgc : Backlog
  limited : Tab (Nat × Nat)
deriving DecidableEq, Repr

/-! ### The fabric: crumbs, crust, crust ring (R55–R92) -/

/-- One hold (R56): its output rails carry `value` while `full`, and `ack` is its acknowledge to its sources. -/
structure Hold where
  full : Bool
  value : Bool
  ack : Bool
deriving DecidableEq, Repr

/-- A hold whose output is a spacer and whose acknowledge is low. -/
def Hold.empty : Hold := ⟨false, false, false⟩

/-- The modes of a crust port (R81). -/
inductive PortMode where
  | pass | stall | drain
deriving DecidableEq, Repr

/-- A token held at the proofing gate with the sequence number it was stamped with (R379). -/
structure GateTok where
  tok : Nat
  stamp : Nat
deriving DecidableEq, Repr

/-- A crust port (R80–R83).  `want` is a requested mode that waits for the port's token boundary, `saved` the mode to
return to after a freeze.  An inbound port shows `inTok` to the tin; an outbound port has taken a token from the tin
while `ack` is high, holds tokens at the proofing gate in `gate` and offers `offer` to the ring.  `one` lets one token of a
token step pass a STALL port (R744). -/
structure Port where
  mode : PortMode
  want : Option PortMode
  saved : Option PortMode
  inTok : Option Nat
  ack : Bool
  gate : List GateTok
  offer : Option Nat
  one : Bool
deriving DecidableEq, Repr

/-- A port of a blank tin: STALL, nothing held. -/
def Port.blank : Port := ⟨.stall, none, none, none, false, [], none, false⟩

/-- A channel of the two-phase protocol (R130): the request and acknowledge levels, the acknowledge level the sender has
seen, the data wires, and whether the sender is held by a move, a fold or a training (R144). -/
structure Chan where
  req : Bool
  ack : Bool
  seen : Bool
  data : Nat
  held : Bool
deriving DecidableEq, Repr

/-- A channel at arming: request and acknowledge at 0, nothing outstanding. -/
def Chan.armed : Chan := ⟨false, false, false, 0, false⟩

/-- One crust-ring connection of a die (R84, R546): the inbound endpoint it ends at, its `peer_loss` and its channel. -/
structure RingConn where
  dst : Nat
  peerLoss : Nat
  ch : Chan
deriving DecidableEq, Repr

/-- The states of one output of a pantry or mixer: the token offered to the tapped lines, and whether the receivers'
acknowledges must still fall before the next one (R793). -/
structure BlockOut where
  tok : Option Nat
  wait : Bool
deriving DecidableEq, Repr

def BlockOut.idle : BlockOut := ⟨none, false⟩

/-- A pantry (R168–R188). `rows` holds the 72-bit rows that differ from 0, `poison` the lane poison bits of a row,
`remap` the rows moved to a spare row, `hardFailed` those that wait for it, `noSpare` the rows reported under R178;
`staleSince` is when the stale timer last started. -/
structure Pantry where
  rows : Tab (BitVec 72)
  poison : Tab Nat
  remap : List Nat
  spareUsed : Nat
  noSpare : List Nat
  wpA : Nat
  wpB : Nat
  rpA : Nat
  rpB : Nat
  event : Nat
  ackA : Bool
  ackB : Bool
  outA : BlockOut
  outB : BlockOut
  eventWait : Bool
  staleFired : Bool
  staleSince : Nat
  scrubRow : Nat
  hardFailed : List Nat
  unusable : Bool
deriving DecidableEq, Repr

def Pantry.blank : Pantry :=
  ⟨[], [], [], 0, [], 0, 0, 0, 0, 0, false, false, .idle, .idle, false, false, 0, 0, [], false⟩

/-- The overflow mark of an accumulator and the rail of a stored result (R218, R220). -/
inductive Rail where
  | none | low | high
deriving DecidableEq, Repr

/-- A mixer (R217, R223, R228). -/
structure Mixer where
  acc0 : Int
  acc1 : Int
  ovf0 : Rail
  ovf1 : Rail
  h1 : Int
  h2 : Int
  h3 : Int
  h4 : Int
  counter : Nat
  best : Nat
  bestIdx : Nat
  idx : Nat
  have_ : Bool
  idxSat : Bool
  err0 : Bool
  err1 : Bool
  errS : Bool
  ack : Bool
  z0 : List Nat
  z1 : List Nat
  ax : List Nat
  outWait : Bool
deriving DecidableEq, Repr

/-- The state of a mixer at tin release (R228). -/
def Mixer.released : Mixer :=
  ⟨0, 0, .none, .none, 0, 0, 0, 0, 0, 0, 0, 0, false, false, false, false, false, false, [], [], [], false⟩

/-- One unproofed or outstanding read as the crust of its tin records it (R379). -/
structure CrustRead where
  tag : Nat
  epoch : Nat
  seq : Nat
deriving DecidableEq, Repr

/-- The running state of one physical tin.  `frames` holds the configuration frames that are not all 0, `released`
whether its logic runs, `frozen` whether no hold may start a new t1 (R572), `stopped` whether it has stopped on a rail
fault (R59), `drain` its drain count (R81).  `seq` numbers the reads of a proofing tin and `proofed` the reads proofed
so far (R379).  `design` is the role whose design it holds while it waits as LOADED, `partialImg` whether that design came
with a partial image, `twice` whether it has returned once for that cause (R588). -/
structure Tin where
  frames : Tab Frame
  holds : Tab Hold
  faults : List Nat
  ports : Tab Port
  nocGate : List (Packet × Nat)
  nocIn : List Packet
  pantries : Tab Pantry
  mixers : Tab Mixer
  reads : List CrustRead
  seq : Nat
  released : Bool
  frozen : Bool
  stopped : Bool
  drain : Nat
  design : Option Nat
  partialImg : Bool
  designRing : List (Nat × Nat × Nat)
  goodWindows : List Nat
  skipped : Nat
  dueOrder : Nat
  returnedFor : List Nat
  hot : List (Nat × Nat × Nat)
  unhealthy : Bool
  fuseBase : Nat
  restart : Bool
deriving DecidableEq, Repr

/-- A tin with nothing loaded. -/
def Tin.blank : Tin :=
  ⟨[], [], [], [], [], [], [], [], [], 0, false, false, false, 0, none, false, [], [], 0, 0, [], [], false, 3000, false⟩

/-! ### Seams (R126–R167) -/

/-- What the margin monitors know of one wire of a dozen (R135–R137). -/
structure Wire where
  min : Nat
  now : Nat
  warned : Bool
  failed : Bool
  lastGood : Nat
deriving DecidableEq, Repr

/-- A wire not yet measured: both margins read 0xFF (R164). -/
def Wire.fresh : Wire := ⟨0xFF, 0xFF, false, false, 0⟩

/-- One physical dozen: its 13 wires, the wire its spare replaces, the repair under way (wire, agreeing comparisons) and
whether it is parked out of both pools. -/
structure Dozen where
  wires : Tab Wire
  spareFor : Option Nat
  copying : Option (Nat × Nat)
  parked : Bool
  spareLost : Bool
deriving DecidableEq, Repr

def Dozen.fresh : Dozen := ⟨[], none, none, false, false⟩

/-- One logical seam channel: the dozen a move or fold has given it (none while it lies on its start-up dozen), its wires'
levels, the token waiting at its sender and the one-token receive register, its fold partner and whether it is lost.
`needs` says that it needs a dozen (R147), `recorded` is the record of its outstanding token (R144), `count` its tokens. -/
structure SeamCh where
  dozen : Option Nat
  ch : Chan
  tx : Option Nat
  rx : Option Nat
  partner : Option Nat
  lastTag : Bool
  lost : Bool
  needs : Bool
  recorded : Option Bool
  count : Nat
  gapDue : Bool
deriving DecidableEq, Repr

def SeamCh.fresh : SeamCh :=
  ⟨none, .armed, none, none, none, true, false, false, none, 0, false⟩

/-- One dozen of one direction of a bench link, and the link's units (R268, R292). -/
structure BenchDozen where
  wires : Tab Wire
  spareFor : Option Nat
  ch : Chan
deriving DecidableEq, Repr

def BenchDozen.fresh : BenchDozen := ⟨[], none, .armed⟩

/-! ### The larder and the hub cell pool (R189–R203) -/

/-- One bank of the larder: rows remapped, rows reported without a spare, the checkers out of service, the next row of
the scrub and whether the bank is lost. -/
structure Bank where
  remap : List Nat
  noSpare : List Nat
  activeOk : Bool
  standbyOk : Bool
  lost : Bool
  scrubRow : Nat
deriving DecidableEq, Repr

def Bank.fresh : Bank := ⟨[], [], true, true, false, 0⟩

/-- The larder's bytes, its poisoned 8-byte words (key: word index) and its banks. -/
structure Larder where
  mem : Tab Byte
  poison : Tab Bool
  banks : Tab Bank
deriving DecidableEq, Repr

/-- The hub cell pool (R197–R203): the entries of every list (head first), the lists marked for reclaim, the cells those
lists held, whether the free list's copies disagree, and what checker failures have taken away. `POOL_STAT` holds the
counts of free and retired cells. -/
structure Pool where
  lists : Tab (List Nat)
  marked : List Nat
  markedCells : Nat
  freeBroken : Bool
  checkers : Nat
  lost : Bool
deriving DecidableEq, Repr

/-- The count of corrected errors of one memory instance since its last `MEM_CORRECTED` (R209). -/
abbrev CorrTab := Tab Nat

/-! ### Answers -/

/-- What a command that returns something answers its requester: a status code (R18), bytes and the poison mark. -/
structure Answer where
  status : Nat
  data : List Byte
  poison : Bool
deriving DecidableEq, Repr

/-! ### Kept copies (R561) -/

/-- The kept copy of one role: its frames and its crust-ring connections as (from, to, peer_loss). -/
structure KeptCopy where
  frames : Tab Frame
  ring : List (Nat × Nat × Nat)
deriving DecidableEq, Repr

/-! ### The NoC (R263–R300) -/

/-- A packet under way: the routers its header has visited, for each of its units the place in that trail it has reached,
and how many units of higher priority have gone before it (R282). -/
structure Flight where
  pkt : Packet
  trail : List Nat
  idx : List Nat
  wait : Nat
deriving DecidableEq, Repr

/-- A non-posted request its initiator waits for, or whose tag is quarantined (R288, R289). -/
structure Outst where
  src : Nat
  tag : Nat
  epoch : Nat
  addr : Nat
  cmd : PCmd
  bytes : Nat
deriving DecidableEq, Repr

/-- The NoC: packets under way, requests outstanding, tags in quarantine, the bench links (4d + k) and the spine positions
the installed routes avoid, whether a reroute step is due, the nodes reported unreachable and the epochs of the hub
initiators (node, default 1). -/
structure Noc where
  flights : List Flight
  out : List Outst
  quar : List Outst
  downLinks : List Nat
  downSpines : List Nat
  reroute : Bool
  unreach : List Nat
  hubEpoch : Tab Nat
deriving DecidableEq, Repr

/-! ### DRAM channels and the sealing engines (R301–R397) -/

/-- The proof of one sealed read under way in an engine (R369): the request, whether its data was delivered unproofed and
the response the proof releases. -/
structure Proof where
  req : Packet
  delivered : Bool
  resp : Packet
deriving DecidableEq, Repr

/-- One channel: the queue of its memory port, the page predictor of each bank (history counter and last row + 1), the flows
in the order they were last served, the counter-cache lines newest first with their dirty marks, the write clock, where in
the TRNG stream its keys were drawn (0: none), the copies SEC holds, the proofs under way, the next patrol line, failed full
trainings in a row, the times of its uncorrectable errors of the last hour, whether it is due for retirement, whether its
fill stores poison, its slice beats with a normal refresh report in a row and whether it is in a beat. -/
structure ChanSt where
  queue : List (Packet × Nat)
  hist : Tab (Nat × Nat)
  served : List Nat
  cache : List (Nat × Bool)
  clock : Nat
  key : Nat
  secKey : Nat
  secClock : Nat
  proofs : List Proof
  patrol : Nat
  trainFails : Nat
  errTimes : List Nat
  due : Bool
  fillPoison : Bool
  normals : Nat
  hotReport : Bool
deriving DecidableEq, Repr

def ChanSt.fresh : ChanSt := ⟨[], [], [], [], 0, 0, 0, 0, [], 0, 0, [], false, false, 0, false⟩

/-- One granule (R343–R353): mode code, the 2-bit rights of the 16 domains, its state (0 IDLE, 1 REFILLING, 2 RESEALING), the
mode it refills to, its slot (6i + j) when SEALED, the range being resealed, and the store command or granule command that
waits for it (the queue's waiting list, by number). -/
structure Granule where
  mode : Nat
  rights : Nat
  state : Nat
  toMode : Nat
  slot : Option Nat
  range : Nat × Nat
deriving DecidableEq, Repr

/-- R346: WRAPPED, read-write for domains 0, 12 and 13. -/
def Granule.boot : Granule := ⟨1, 2 + 2 * 2 ^ 24 + 2 * 2 ^ 26, 0, 1, none, (0, 0)⟩

/-- The beat of all channels (R316–R322): whether the three signals are high, the grid index k of the running beat, the time it
started, hot mode, and the value of `TIME_BEAT_CTL` in force: a write takes effect at the next second boundary (R322). -/
structure Beat where
  warn : Bool
  stall : Bool
  slice : Bool
  k : Nat
  start : Nat
  hot : Bool
  ctl : Nat
deriving DecidableEq, Repr

/-- DRAM content by device address, the counters of every sealed granule by
`ctrKey` (unlisted: the counter its granule's refill gave), the granules, the channels, the evacuation under way or ended
(channel, move pointer), the channel whose remap the injection interfaces have installed, and the beat.  `lost` holds, by
16 × granule + channel, the parts last filled with stored poison, and by 2,048 + channel the lines evacuated into a channel so filled;
`poison` the lines whose mark differs from that. -/
structure Dram where
  mem : Tab Byte
  lost : Tab Bool
  poison : Tab Bool
  ctrs : Tab Nat
  gran : Tab Granule
  chans : Tab ChanSt
  evac : Option (Nat × Nat)
  remap : Option Nat
  beat : Beat
deriving DecidableEq, Repr

def Noc.idle : Noc := ⟨[], [], [], [], [], false, [], []⟩
def Beat.none_ : Beat := ⟨false, false, false, 0, 0, false, 256 * 65536⟩
def Dram.empty : Dram := ⟨[], [], [], [], [], [], none, none, .none_⟩

/-- The always-on pad latch and level of one user pad (R646, R757): the latched drive (output enable, level), the drive it had when a
halt began, and the level outside drivers put on the ball. -/
structure Pad where
  latch : Option (Bool × Bool)
  atHalt : Bool × Bool
  ext : Bool
deriving DecidableEq, Repr

def Pad.fresh : Pad := ⟨none, (false, false), false⟩

/-! ### Lanes (R453–R482) -/

/-- One lane: the table entry its settings were started from, whether it holds settings it may use again, a relock under way,
the self-test after three failed attempts, the one attempt each second after it passed and the wait for it, STOPPED under an
OFF demand, consecutive eye measurements below and above `eye_min`, the CTLE before the last step with the score then, a
pending `inj_once`, the checker's consecutive correct bits and errors of its present 256 bits. -/
structure LaneSt where
  entry : Nat
  trained : Bool
  relock : Bool
  testing : Bool
  slow : Bool
  waiting : Bool
  wasStopped : Bool
  low : Nat
  high : Nat
  undo : Option (Nat × Nat)
  inj : Bool
deriving DecidableEq, Repr

/-- The default entry of the board equalisation table (R460). -/
def eqDefault : Nat := 2 ^ 63 + 2 ^ 60 + 4 * 2 ^ 46 + 8 * 2 ^ 40 + 16 * 2 ^ 34 + 16 * 2 ^ 28 + 8 * 2 ^ 22 + 24 * 2 ^ 14

def LaneSt.fresh : LaneSt := ⟨eqDefault, false, false, false, false, false, false, 0, 0, none, false⟩

/-! ### Clocked edges (R231–R262) -/

/-- One crossing group member of a die: the level delivered by its control crossing, the toggles of its event crossing and the
merges counted, the value published and the disagreeing sample pairs, and its edge FIFO with its discard and fill counts. -/
structure Edge where
  level : Bool
  req : Bool
  ack : Bool
  merges : Nat
  value : Nat
  fifo : List Nat
  discards : Nat
  fills : Nat
deriving DecidableEq, Repr

def Edge.fresh : Edge := ⟨false, false, false, 0, 0, [], 0, 0⟩

/-- Clock generation: the generators with a fault not yet cleared (bit 0 A, bit 1 B), whether the faulted generator's outputs are
gated, the families each die has lost (bits as `ref_lost`), and the crossings (key: 64 × (4 × die + group) + number). -/
structure Clk where
  faulted : Nat
  gated : Bool
  lost : Tab Nat
  edges : Tab Edge
deriving DecidableEq, Repr

/-! ### Time (R483–R493) -/

/-- The time keeper beside its registers: consecutive good edges, the latched words of `TIME_NOW` and of
`MGC_MTIME` with the copies kept for domain 15 (R732), the level of `PPS_OUT`, the slew that
remains in 2^-40 ns (R484, R489), and the dies whose copy is not aligned. -/
structure Time where
  good : Nat
  latch : Nat
  latchPeek : Nat
  mLatch : Nat
  mLatchPeek : Nat
  ppsOut : Bool
  slew : Int
  aligned : Tab Bool
deriving DecidableEq, Repr

/-! ### Ethernet, SDI, stream ports, time edge (R494–R526) -/

/-- A stream record: its 256-bit header and body (R502). -/
structure Rec where
  hdr : Nat
  body : List Byte
deriving DecidableEq, Repr

/-- A record the time edge holds: its stream port, its wire port, its launch time in 2^-16 ns (none: ASAP) and whether it is a
copy, and whether it has been counted as a collision (R512–R518). -/
structure Launch where
  sp : Nat
  port : Nat
  at_ : Option Nat
  copy : Bool
  hit : Bool
  r : Rec
deriving DecidableEq, Repr

/-- A stream port of a die: the record being assembled from messages (bytes and poison), whole records toward the edge or the
host, the record presented at its head, and the flow whose
records are dropped up to its next `frame_end` (R504, R516, R655). -/
structure SpSt where
  cur : Option (List Byte × Bool)
  recs : List Rec
  head : Option Launch
  dropFlow : List Nat
  out : List Rec
deriving DecidableEq, Repr

def SpSt.fresh : SpSt := ⟨none, [], none, [], []⟩

/-- One control queue: head, tail and phase of its ring (R521, R522). -/
structure Cq where
  head : Nat
  tail : Nat
  phase : Bool
deriving DecidableEq, Repr

def Cq.fresh : Cq := ⟨0, 0, true⟩

/-- One port of a die: beats waiting for the lane port's receive channels, bytes of a transmit record being gathered, records
waiting for the wire, the statistics counters, whether its SDI input is locked, and the last ST 352 value posted (plus 1). -/
structure PortSt where
  beats : List (List Nat)
  gather : Option (List Byte)
  tx : List Rec
  stats : Tab Nat
  locked : Bool
  st352Posted : Nat
deriving DecidableEq, Repr

def PortSt.fresh : PortSt := ⟨[], none, [], [], false, 0⟩

/-- The MAC block and time edge of every die: ports (key 12d + p), stream ports (8d + s), control queues (16d + k) and the records
the time edge has accepted (by die). -/
structure Mac where
  ports : Tab PortSt
  sps : Tab SpSt
  cqs : Tab Cq
  held : Tab (List Launch)
deriving DecidableEq, Repr

/-! ### Debug and trace (R722–R750) -/

/-- The debug block: the TAP's instruction register, the boundary instruction in force and the boundary cells, the challenge in
issue with its time and whether it was used, refused responses are locked out, the status of the last response, the debug
access port's result and the tag of the request it waits for, the frame selected for readback, the packets since trace started, those lost since the last lost
packet, the packets waiting to leave on a lane with the frame count, the roles under a debug freeze (13d + r), the role a token
step runs on, and the debug module's registers. -/
structure Dbg where
  ir : Nat
  boundary : Option Nat
  cells : Nat
  challenge : Option (List Byte × Nat × Bool)
  lockout : Bool
  authStatus : Nat
  dapStatus : Nat
  dapData : Nat
  dapWait : Option Nat
  readSel : Option (Nat × Nat)
  seq : Nat
  lostNow : Nat
  frames : List Nat
  frameSeq : Nat
  frozen : List Nat
  stepping : Option Nat
  dm : Tab Nat
deriving DecidableEq, Repr

def Dbg.fresh : Dbg := ⟨2, none, 0, none, false, 0, 0, 0, none, none, 0, 0, [], 0, [], none, []⟩

/-! ### Management cluster (R602–R629) -/

/-- One hart: its reservation (line address / 64), whether it is debug-halted, the registers a debugger sees (by abstract register
number), its last trap (cause, value), whether its watchdog has passed the pre-bite point, the count its watchdog stopped at in
ms, a bite deferred to the resume, the address it starts at and whether its timer
interrupt is pending (R614). -/
structure Hart where
  resv : Option Nat
  dbgHalt : Bool
  regs : Tab Nat
  trap : Option (Nat × Nat)
  preBite : Bool
  count : Nat
  biteDue : Bool
  pc : Nat
  mtip : Bool
deriving DecidableEq, Repr

def Hart.fresh : Hart := ⟨none, false, [], none, false, 0, false, 0, false⟩

/-- One line of the L2: its bytes, whether it is dirty and whether it is poisoned. -/
structure L2Line where
  data : List Byte
  dirty : Bool
  poison : Bool
deriving DecidableEq, Repr

/-- The cluster: harts, L2 lines by address / 64, rows of the L2 spared and reported, failed cores, the locked blob range, the
event ring's head, tail and phase, whether a response of SEC waits to be read, and the status and response dwords
of a mailbox command that SEC has carried out. -/
structure Mgc where
  harts : Tab Hart
  l2 : Tab (Option L2Line)
  l2Spared : Nat
  l2NoSpare : List Nat
  failed : List Nat
  blob : Option (Nat × Nat)
  evHead : Nat
  evTail : Nat
  evPhase : Bool
  secRsp : Bool
  mbox : Option (Nat × List Nat)
deriving DecidableEq, Repr

def Clk.fresh : Clk := ⟨0, false, [], []⟩
def Time.fresh : Time := ⟨0, 0, 0, 0, 0, false, 0, []⟩
def Mac.fresh : Mac := ⟨[], [], [], []⟩
def Mgc.fresh : Mgc := ⟨[], [], 0, [], [], none, 0, 0, true, false, none⟩

/-! ### Fuses and SEC (R687–R703) -/

/-- One key-hash slot (R693): the SHA-384 hash, the permission bits, the valid bit and the revoke bit. -/
structure Slot where
  hash : Nat
  perm : Nat
  valid : Bool
  revoked : Bool
deriving DecidableEq, Repr

def Slot.empty : Slot := ⟨0, 0, false, false⟩

/-- The fuse array (R693): serial number, the wrapped image key, the kill bits, the slots, the lifecycle burned, the anti-rollback
count and the golden image address; the device-unique key itself never leaves SEC and is not named. -/
structure Fuses where
  serial : Nat
  imgKey : Option (List Byte)
  imgKill : Bool
  dukKill : Bool
  slots : Tab Slot
  lifecycle : Nat
  arv : Nat
  golden : Nat
deriving DecidableEq, Repr

def Fuses.shipped : Fuses := ⟨0, none, false, false, [], 0, 0, 0⟩

/-! ### The host queue engine (R398–R452) -/

/-- What a started management command waits for: a queue's end, a granule's refill or reseal, the store granules, a role's operation,
a channel's evacuation, a power-state change, a die's return, a hub warm reset or the end of a full image. -/
inductive Wait where
  | queue (q : Nat)
  | refill (g : Nat)
  | store
  | reseal (g : Nat)
  | role (d r : Nat)
  | channel (c : Nat)
  | power
  | die (d : Nat)
  | warm
  | image
deriving DecidableEq, Repr

/-- A descriptor that has started: its SQ head at fetch, the bytes moved (of a stream buffer: used) and its pieces, whether a
request answered `DONE_DEGRADED`, the offset of the first poisoned byte, data read and not yet written (with its poison), the tag of
the request it waits for, how it ended (status, detail, result), what it waits for, whether it is a buffer open for records, and
whether its queue has left it, so that nothing of it reaches the host. -/
structure Job where
  desc : Desc
  head : Nat
  off : Nat
  pieces : Nat
  degraded : Bool
  poisonAt : Option Nat
  buf : Option (List Byte × Bool)
  tag : Option Nat
  fin : Option (Nat × Nat × Nat)
  wait : Option Wait
  opened : Bool
  gone : Bool
deriving DecidableEq, Repr

/-- A queue pair (R410–R419, R431, R436): state and type codes as R431 and R436, owner 0 PF0, 1 PF1, n + 1 VF n, its rings, heads, tails
and phase, the cause of R432, its interrupt and stale settings, its stream port and `unbound`, the doorbells recorded while it was not
ENABLED, its started descriptors, the entries not yet signalled, the `cid`s still to complete of a delete under way, a container chain
open on it, the rest of a record that did not fit a buffer (user, poison, bytes), a record of STREAM_OUT under way, and the
tokens its DRAIN setting discarded. -/
structure Queue where
  state : Nat
  type : Nat
  owner : Nat
  sqBase : Nat
  sqLog2 : Nat
  cqBase : Nat
  cqLog2 : Nat
  sqHead : Nat
  sqTail : Nat
  cqHead : Nat
  cqTail : Nat
  phase : Bool
  cause : Nat
  vector : Nat
  irqEn : Bool
  coalN : Nat
  coalUs : Nat
  staleUs : Nat
  minSev : Nat
  prio : Nat
  port : Option Nat
  unbound : Nat
  heldSq : Option Nat
  heldCq : Option Nat
  run : List Job
  unsig : Nat
  deleting : Option (List Nat)
  chain : Bool
  rest : Option (Nat × Bool × List Byte)
  midRecord : Bool
  drained : Nat
deriving DecidableEq, Repr

/-- Queue `q` as reset leaves it, with its default type and owner (R410). -/
def Queue.reset (q : Nat) : Queue :=
  ⟨0, if q < 8 then 3 else if 1022 ≤ q then 4 else 0, if q = 1023 ∨ (512 ≤ q ∧ q ≤ 1021) then 1 else 0,
   0, 6, 0, 6, 0, 0, 0, 0, true, 0, 0, false, 0, 0, 0, 0, 0, none, 0, none, none, [], 0, none, false, none, false, 0⟩

/-- What the device writes to the host: memory writes and MSI-X messages, with the function they carry. -/
inductive HostOut where
  | write (fn addr : Nat) (data : List Byte)
  | msix (fn vec : Nat)
deriving DecidableEq, Repr

/-- One MSI-X table entry: message address and data, the mask bit, and its pending bit (R407, R441). -/
structure Msix where
  addr : Nat
  data : Nat
  mask : Bool
  pending : Bool
deriving DecidableEq, Repr

def Msix.reset : Msix := ⟨0, 0, true, false⟩

/-- A BAR request that waits for answers of tin windows (R408, R409): its function, whether it is a read, the tags it waits for with the
offset of each, the bytes read so far, and whether a part has failed or was poisoned. -/
structure BarReq where
  fn : Nat
  read : Bool
  waits : List (Nat × Nat)
  data : List Byte
  failed : Bool
  poison : Bool
deriving DecidableEq, Repr

/-- The HQE: its queues (those that differ from `Queue.reset`), what the last command sent the host, the MSI-X tables (key 2,048 ×
function + vector) and the BAR requests under way. -/
structure Hqe where
  queues : Tab (Option Queue)
  out : List HostOut
  msix : Tab Msix
  bars : List BarReq
deriving DecidableEq, Repr

def Hqe.fresh : Hqe := ⟨[], [], [], []⟩

/-! ### Configuration images (R527–R562) -/

/-- An image load under way: its source (0 serial, 1 parallel, 2 HQE, 3 JTAG) and CMD queue, the container bytes received and not yet
consumed with the counts received and consumed, the header once it has passed its checks, the segments left, how far it has come (0
header, 1 body, 2 ready to commit, 3 wiping after a failure), the roles written, the frame ranges given (role, first, count), the
staged equalisation table, fold maps and ring entries (die, from, to, peer_loss), the device state before it, whether it is the golden
attempt, whether a lost role was skipped, whether its source has ended, and its failure (status, detail, offset). -/
structure Load where
  src : Nat
  queue : Nat
  inbox : List Byte
  got : Nat
  used : Nat
  hdr : List Byte
  segs : Nat
  stage : Nat
  roles : List Nat
  given : List (Nat × Nat × Nat)
  eq : Option (List Nat)
  folds : List (Nat × List Nat)
  ring : List (Nat × Nat × Nat × Nat)
  prior : Nat
  golden : Bool
  lost : Bool
  ended : Bool
  fail : Nat × Nat × Nat
deriving DecidableEq, Repr

/-- CFG: the level of `CFG_ERR_N`, whether images are accepted (R529), the load under way, the outcome of a host chain that failed with
pieces still to come (queue, status, detail, offset), and `clear_ok` of the committed full image. -/
structure Cfg where
  errN : Bool
  ready : Bool
  load : Option Load
  chainEnd : Option (Nat × Nat × Nat × Nat)
  clearOk : Bool
deriving DecidableEq, Repr

def Cfg.fresh : Cfg := ⟨false, false, none, none, false⟩

/-! ### The spare manager and the kneaders (R566–R601, R796) -/

/-- What an operation of the spare manager does with its role. -/
inductive SprKind where
  | relocate | swap | restart
deriving DecidableEq, Repr

/-- An operation of the spare manager on a role: its kind; for a restart whether it reloads the role's own tin; whether it ends in a retirement; whether it is automatic; its time T, `late_ok` and carried
pantry mask; how far it has come (0 loading, 1 loaded, 2 frozen, 3 quiescent, 4 state moved) and when it froze. -/
structure SprOp where
  kind : SprKind
  die : Nat
  role : Nat
  inPlace : Bool
  retire : Bool
  auto_ : Bool
  at_ : Option Nat
  lateOk : Bool
  mask : Nat
  stage : Nat
  tf : Nat
deriving DecidableEq, Repr

/-- The kneaders of one die (R593–R596): consecutive heartbeats missed by `KND_A` and `KND_B`, the times of the last restarts, whether
each is retired. -/
structure Knd where
  missA : Nat
  missB : Nat
  restarts : List Nat
  deadA : Bool
  deadB : Bool
deriving DecidableEq, Repr

def Knd.fresh : Knd := ⟨0, 0, [], false, false⟩

/-- The spare manager: operations under way, the automatic aborts of each role (13d + r), the automatic relocations waiting for their
retry, the kept copies that come into force at a swap, and the kneaders.  The breadbox inventory (R796) holds nothing that the states of
the tins, channels, links, routers and cores do not say, so it has no field of its own. -/
structure Spr where
  ops : List SprOp
  aborts : Tab Nat
  retry : List Nat
  waitCopy : Tab (Option KeptCopy)
  knd : Tab Knd
deriving DecidableEq, Repr

def Spr.fresh : Spr := ⟨[], [], [], [], []⟩

/-! ### Power, temperature, resets (R630–R686) -/

/-- One temperature sensor (R652, R653): its last reading in 0.25 °C, whether one exists, whether it is excluded, and the consecutive
intervals it stood more than 25 °C from the median. -/
structure Sensor where
  temp : Int
  valid : Bool
  failed : Bool
  off : Nat
deriving DecidableEq, Repr

def Sensor.fresh : Sensor := ⟨0, false, false, 0⟩

/-- The PTM beside its registers: the sensors (16d + s, hub 128 + s), the boost credit of each die in 1/30,000 s, the dies barred from
boost by temperature, the dies (8: the hub) reported with too few sensors, the consecutive cool intervals of each die or
the hub toward a thermal release, the intervals short of the rate target, the mode in force of each die, the overcurrent demand on
floor voltage, the entry under way (target, stage 1–4) and its refusal, the roles whose ports it stalled, the wake step due and a wake
source met during an entry, the saved registers, the dies shut off by `THERM_TRIP_N`, and the times of the last power-up retries. -/
structure Ptm where
  sensors : Tab Sensor
  credit : Tab Nat
  barred : List Nat
  fewSensors : List Nat
  cool : Tab Nat
  short : Tab Nat
  mode : Tab Nat
  ocFloor : Bool
  entry : Option (Nat × Nat)
  wakeStep : Option Nat
  wakeDue : Nat
  saved : List (Nat × Word)
  tripped : List Nat
  retryAt : Tab Nat
deriving DecidableEq, Repr

/-- The boost credit after power-on reset: 1,800 s (R658). -/
def creditReset : Nat := 54000000

def Ptm.fresh : Ptm := ⟨[], [], [], [], [], [], [], false, none, none, 0, [], [], []⟩

/-- The resets of the fabric dies beside `DIE_STAT`: for a die away, the roles that held a design (a bit each), whether the
wait is after a power loss. -/
structure Away where
  held : Nat
  power : Bool
deriving DecidableEq, Repr

def Away.none_ : Away := ⟨0, false⟩

/-- The SMBus port (R788): the address pointer and the status of the last write. -/
structure Smbus where
  ptr : Nat
  status : Nat
deriving DecidableEq, Repr

/-! ### The whole device -/

/-- The state of the device.  Every register of the register window lives in `regs`, keyed by its window offset and
listing only the registers that differ from their reset value; `pending` is the queue of waiting commands. -/
structure State where
  pending : List Instr
  regs : Tab Word
  events : Events
  now : Nat
  roles : Tab (List Nat)
  tins : Tab Tin
  ring : Tab RingConn
  laneIn : Tab (Option Nat)
  laneOut : Tab (Option Nat)
  seamCh : Tab SeamCh
  dozens : Tab Dozen
  bench : Tab BenchDozen
  foldMap : Tab (List Nat)
  kept : Tab (Option KeptCopy)
  dieCopy : Tab (Option (List (Nat × Nat × Nat)))
  dueSeq : Nat
  vgoal : Tab Nat
  larder : Larder
  pool : Pool
  corr : CorrTab
  noc : Noc
  dram : Dram
  breadbox : Tab Byte
  pads : Tab Pad
  lanes : Tab LaneSt
  eqTable : Tab Nat
  clk : Clk
  time : Time
  mac : Mac
  dbg : Dbg
  mgc : Mgc
  fuses : Fuses
  hqe : Hqe
  cfg : Cfg
  spr : Spr
  ptm : Ptm
  away : Tab Away
  smbus : Smbus
  powerGood : Bool
  straps : Nat
  answer : Option Answer
  free : Nat
deriving DecidableEq, Repr

def Backlog.empty : Backlog := ⟨0, [], 0, false⟩
def Events.quiet : Events := ⟨[], .empty, .empty, .empty, []⟩
def Larder.empty : Larder := ⟨[], [], []⟩
def Pool.fresh : Pool := ⟨[], [], 0, false, 2, false⟩

/-- The device held in power-on reset, before any step of start-up (R669). -/
def State.reset : State where
  pending := []
  regs := []
  events := .quiet
  now := 0
  roles := []
  tins := []
  ring := []
  laneIn := []
  laneOut := []
  seamCh := []
  dozens := []
  bench := []
  foldMap := []
  kept := []
  dieCopy := []
  dueSeq := 0
  vgoal := []
  larder := .empty
  pool := .fresh
  corr := []
  noc := .idle
  dram := .empty
  breadbox := []
  pads := []
  lanes := []
  eqTable := []
  clk := .fresh
  time := .fresh
  mac := .fresh
  dbg := .fresh
  mgc := .fresh
  fuses := .shipped
  hqe := .fresh
  cfg := .fresh
  spr := .fresh
  ptm := .fresh
  away := []
  smbus := ⟨0, 0⟩
  powerGood := false
  straps := 0
  answer := none
  free := 0

end Sys2Proof.Machine
end

