-- ==== Sys2Proof/Machine/Ops.lean ====
section
/-! DEFINITION. The named operations over registers, roles, tins and events that every family of commands shares. -/

namespace Sys2Proof.Machine

/-- What one command answers. -/
abbrev Out := Host.Outcome State Fault Refusal

/-! ### Registers -/

/-- The register of a list of definitions at offset `o`, with its instance number. -/
def findReg (o : Nat) : List RegDef → Option (RegDef × Nat)
  | [] => none
  | r :: rest =>
    if r.off ≤ o ∧ (o - r.off) % r.stride = 0 ∧ (o - r.off) / r.stride < r.count then some (r, (o - r.off) / r.stride)
    else findReg o rest

/-- The fabric die whose window holds offset `off`, if one does (R776). -/
def dieOfOff (off : Nat) : Option Nat :=
  if 0x800000 ≤ off ∧ off < 0xC00000 then some ((off - 0x800000) / 0x80000) else none

/-- The definition of the register at a window offset, with its instance number; none at an undefined offset (R777). -/
def regDefAt (off : Nat) : Option (RegDef × Nat) :=
  if off < 0xD0000 then findReg (off % 0x10000) (hubDefs (off / 0x10000) ++ commonDefs)
  else if (dieOfOff off).isSome then
    findReg (off % 0x10000) (dieDefs (off % 0x80000 / 0x10000) ++ (if off % 0x80000 < 0x10000 then commonDefs else []))
  else none

/-- The word whose fields hold their reset values. -/
def fieldsReset : List FieldDef → Nat
  | [] => 0
  | f :: r => f.rst * 2 ^ f.lo + fieldsReset r

/-- Resets that depend on the instance: `X_ID.block` and `die` (R783), `MGC_CORE_STAT_n.core` (R628) and
`TIN_WEAR.baseline` (assumption 6: the fused baseline of a tin whose value the manual does not give). -/
def idReset (off i : Nat) : Nat :=
  if off % 0x10000 = 0xFFF0 ∧ off < 0xD0000 then off / 0x10000 * 2 ^ 24
  else if off % 0x80000 = 0xFFF0 then 0x10 * 2 ^ 24 + ((dieOfOff off).getD 0 + 1) * 2 ^ 20
  else if 0x70010 ≤ off ∧ off < 0x70020 then i * 2 ^ 29
  else if 0x800000 ≤ off ∧ off % 0x80000 / 0x10000 = 1 ∧ off % 0x100 = 0xC then 3000 * 2 ^ 12
  else 0

/-- The value a register holds after power-on reset. -/
def resetWord (off : Nat) : Word :=
  match regDefAt off with
  | none => 0
  | some (r, i) => BitVec.ofNat 32 (fieldsReset r.fields + idReset off i)

/-- The stored word of the register at a window offset. -/
def State.reg (s : State) (off : Nat) : Word := Tab.get (resetWord off) s.regs off

/-- The state with a register's stored word replaced. -/
def State.setReg (s : State) (off : Nat) (w : Word) : State := { s with regs := Tab.put (resetWord off) s.regs off w }

/-- The value of one register field. -/
def State.fget (s : State) (f : Fld) : Nat := bits (s.reg f.off).toNat f.lo f.len

/-- Whether a one-bit field is 1. -/
def State.fbit (s : State) (f : Fld) : Bool := s.fget f == 1

/-- The state with one register field set to `v` (its low bits). -/
def State.fset (s : State) (f : Fld) (v : Nat) : State :=
  s.setReg f.off (BitVec.ofNat 32 (setBits (s.reg f.off).toNat f.lo f.len v))

/-- The state with `n` added to a saturating counter field. -/
def State.fsat (s : State) (f : Fld) (n : Nat) : State := s.fset f (satAdd f.len (s.fget f) n)

/-- Whether the fields of `r` that keep their value through the resets `scope` include the field at `lo`. -/
def keptWord (scope : Nat) (old rst : Nat) : List FieldDef → Nat
  | [] => rst
  | f :: r =>
    keptWord scope old (if popCount (f.keep &&& scope) 8 > 0 then setBits rst f.lo f.len (bits old f.lo f.len) else rst) r

/-- What a register holds after the resets `scope`: its reset value in the fields the reset acts on. -/
def afterReset (scope off : Nat) (w : Word) : Word :=
  match regDefAt off with
  | none => w
  | some (r, _) =>
    if r.scope &&& scope = 0 then w
    else BitVec.ofNat 32 (keptWord scope w.toNat (resetWord off).toNat r.fields)

/-- The register table after the resets `scope` have acted on every register whose offset satisfies `p`. -/
def resetRegs (scope : Nat) (p : Nat → Bool) : Tab Word → Tab Word
  | [] => []
  | e :: r =>
    if p e.1 then
      let w := afterReset scope e.1 e.2
      if w = resetWord e.1 then resetRegs scope p r else (e.1, w) :: resetRegs scope p r
    else e :: resetRegs scope p r

/-- The registers of one fabric die. -/
def inDie (d off : Nat) : Bool := dieOfOff off == some d

/-- The state with the resets `scope` applied to the registers that satisfy `p`. -/
def State.resetRegs (s : State) (scope : Nat) (p : Nat → Bool) : State :=
  { s with regs := Machine.resetRegs scope p s.regs }

/-! ### Events (R24–R26, R444, R783, R795) -/

/-- The hub block whose attention bit an event sets (R795). -/
def evBlock (code : Nat) : Nat :=
  match code / 256 with
  | 1 =>
    let i := code % 256
    if i = 0 then 12 else if i ≤ 5 then 1
    else if (0xA ≤ i ∧ i ≤ 0xE) ∨ i = 0x11 ∨ (0x13 ≤ i ∧ i ≤ 0x15) then 11
    else if i = 0x16 ∨ i = 0x17 then 7 else 0
  | 2 => 12
  | 3 => 2
  | 4 => 10
  | 6 => 5
  | 7 => 8
  | 9 => 3
  | 0xA => 4
  | 0xB => 12
  | 0xC => 7
  | 0xD => 1
  | 0xF => 5
  | 0x10 => 6
  | _ => 0

/-- A backlog without its oldest entry of the lowest severity present (R444). -/
def dropLowest (l : List EvEntry) : List EvEntry :=
  let low := l.foldl (fun m e => min m e.ev.sev) 7
  l.eraseP (fun e => e.ev.sev == low)

/-- A backlog that a posted event has reached (R444). -/
def Backlog.enter (b : Backlog) (now : Nat) (e : Ev) : Backlog :=
  if e.sev < b.minSev then b
  else
    let en : EvEntry := ⟨e, b.seq, false, now⟩
    if b.entries.length < 1024 then { b with entries := b.entries ++ [en], seq := (b.seq + 1) % 2 ^ 32 }
    else { b with entries := dropLowest b.entries ++ [en], seq := (b.seq + 1) % 2 ^ 32, lost := true }

/-- Attention bit `sev` of block `blk` set. -/
def setAttn (attn : Tab Nat) (blk sev : Nat) : Tab Nat := Tab.mod 0 attn blk (fun v => setBit v sev true)

/-- The event state after an event is posted; `pf1` says that it also concerns a queue of PF1. -/
def Events.post (ev : Events) (now : Nat) (e : Ev) (pf1 : Bool) : Events :=
  let a := setAttn ev.attn (evBlock e.code) e.sev
  { ev with
    attn := match e.die with | none => a | some d => setAttn a (16 + d) e.sev
    pf0 := ev.pf0.enter now e
    pf1 := if pf1 then ev.pf1.enter now e else ev.pf1
    mgc := ev.mgc.enter now e }

/-- The device posts an event. -/
def State.post (s : State) (code sev : Nat) (die : Option Nat) (unit : Nat) (arg0 : Nat := 0) (arg1 : Nat := 0) : State :=
  { s with events := s.events.post s.now ⟨code, sev, die, unit, arg0, arg1⟩ false }

/-- One second of the time keeper, in its unit of 2^-40 ns. -/
def oneSecond : Nat := 1000000000 * 2 ^ 40

/-- The device posts an event at most once per second for the key `k`; `arg0` carries the count since the last post. -/
def State.postLimited (s : State) (k code sev : Nat) (die : Option Nat) (unit n : Nat) : State :=
  let (last, cnt) := Tab.get (0, 0) s.events.limited k
  if last = 0 ∨ last + oneSecond ≤ s.now + 1 then
    let s1 := s.post code sev die unit (cnt + n)
    { s1 with events := { s1.events with limited := Tab.put (0, 0) s1.events.limited k (s.now + 1, 0) } }
  else { s with events := { s.events with limited := Tab.put (0, 0) s.events.limited k (last, cnt + n) } }

/-- A register access error is recorded: the first since `valid` was cleared, the others counted (R785, R786). -/
def State.accErr (s : State) (cause dom src off : Nat) : State :=
  let (e, a) := match dieOfOff off with
    | some d => (DIE_PORT_ERR d, DIE_PORT_ADDR d)
    | none => (GLB_ACC_ERR, GLB_ACC_ADDR)
  if s.fbit ⟨e, 31, 1⟩ then s.fsat ⟨e, 0, 8⟩ 1
  else (s.setReg e (BitVec.ofNat 32
    (2 ^ 31 + cause % 8 * 2 ^ 28 + dom % 16 * 2 ^ 24 + src % 4096 * 2 ^ 12 + bits (s.reg e).toNat 0 8))).setReg a (BitVec.ofNat 32 (off % 2 ^ 24))

/-- One corrected error of a memory instance counts toward its next `MEM_CORRECTED` (R209). -/
def State.countCorr (s : State) (inst : Nat) : State := { s with corr := Tab.mod 0 s.corr inst (· + 1) }

/-! ### Roles and tins (R33, R34) -/

/-- The physical tins of die `d` by role. -/
def State.roleMap (s : State) (d : Nat) : List Nat := Tab.get (List.range 13) s.roles d

/-- The physical tin (0–12) of die `d` that holds role `r`. -/
def State.localTin (s : State) (d r : Nat) : Nat := (s.roleMap d).getD r 0

/-- The global number of the physical tin that holds role `r` of die `d`. -/
def State.tinOf (s : State) (d r : Nat) : Nat := 13 * d + s.localTin d r

/-- The role that physical tin `t` (global) holds. -/
def State.roleOf (s : State) (t : Nat) : Nat := (s.roleMap (t / 13)).idxOf (t % 13)

/-- A role map with the tins of roles `a` and `b` exchanged. -/
def swapRoles (l : List Nat) (a b : Nat) : List Nat := (l.set a (l.getD b 0)).set b (l.getD a 0)

/-- Roles `a` and `b` of die `d` exchange their tins (R34). -/
def State.exchange (s : State) (d a b : Nat) : State :=
  if a < 13 ∧ b < 13 then { s with roles := Tab.put (List.range 13) s.roles d (swapRoles (s.roleMap d) a b) } else s

/-- A physical tin. -/
def State.tin (s : State) (t : Nat) : Tin := Tab.get .blank s.tins t

/-- The state with a physical tin replaced. -/
def State.setTin (s : State) (t : Nat) (x : Tin) : State := { s with tins := Tab.put .blank s.tins t x }

/-- The codes of `TIN_STAT.state` (R566). -/
def tsSpare : Nat := 0
def tsLoading : Nat := 1
def tsLoaded : Nat := 2
def tsInService : Nat := 3
def tsFrozen : Nat := 4
def tsStopped : Nat := 5
def tsTesting : Nat := 6
def tsRetired : Nat := 7

/-- The state of a physical tin (R566). -/
def State.tinState (s : State) (t : Nat) : Nat := s.fget (TIN_STAT.state t)

/-- The tin's configuration frame `f` (R87). -/
def Tin.frame (x : Tin) (f : Nat) : Nat := (Tab.get 0 x.frames f).toNat

/-- A tin role that has no design loaded is blank. -/
def Tin.isBlank (x : Tin) : Bool := x.frames.isEmpty

/-- A crust port of a tin. -/
def Tin.port (x : Tin) (p : Nat) : Port := Tab.get .blank x.ports p

/-- The tin with a crust port replaced. -/
def Tin.setPort (x : Tin) (p : Nat) (v : Port) : Tin := { x with ports := Tab.put .blank x.ports p v }

/-- A unit as events name it: the die, the role and the physical tin of a tin. -/
def tinUnit (role tin : Nat) : Nat := role * 2 ^ 4 + tin

/-- Every crust port of the tin takes mode STALL now (R59, R387). -/
def Tin.stallAll (x : Tin) : Tin :=
  { x with ports := Tab.mapVals .blank (fun v => { v with mode := .stall, want := none }) x.ports }

/-- A fresh index into the free values (assumption 4): the index and the state with the counter advanced by `n`. -/
def State.takeFree (s : State) (n : Nat) : Nat × State := (s.free, { s with free := s.free + n })

end Sys2Proof.Machine
end

