-- ==== Sys2Proof/Machine/Fabric.lean ====
section
/-! DEFINITION. The fabric of one tin: crumb configurations, routing, rails, holds and crust ports (R55–R92, R792, R793). -/

namespace Sys2Proof.Machine

/-! ### Configuration fields -/

/-- Bits [lo + len − 1 : lo] of the logic block of batch `b` (R88); `len` at most 1,024. -/
def Tin.blockBits (x : Tin) (b lo len : Nat) : Nat :=
  bits (x.frame (11 * b + lo / 1024) + x.frame (11 * b + lo / 1024 + 1) * 2 ^ 1024) (lo % 1024) len

/-- The 704-bit configuration of crumb `c` of batch `b` (R72). -/
def Tin.crumb (x : Tin) (b c : Nat) : Nat := x.blockBits b (704 * c) 704

def crumbInputUsed (k i : Nat) : Bool := bit k (687 + i)
def crumbChainTail (k : Nat) : Bool := bit k 686
def crumbChainPos (k : Nat) : Nat := bits k 682 4
def crumbChainEn (k : Nat) : Bool := bit k 681
def crumbMux (k : Nat) : Bool := bit k 680
/-- `hold_init` of macrocell `m` (R64). -/
def crumbHoldInit (k m : Nat) : Nat := bits k (648 + 8 * m + 6) 2
def crumbXorEn (k m : Nat) : Bool := bit k (648 + 8 * m + 5)
def crumbXorTerm (k m : Nat) : Nat := bits k (648 + 8 * m) 5
/-- The macrocell a term is allocated to. -/
def crumbTermCell (k j : Nat) : Nat := bits k (576 + 3 * j + 1) 2
/-- Whether a term feeds the f sum. -/
def crumbTermF (k j : Nat) : Bool := bit k (576 + 3 * j)
/-- The 24-bit mask of a term (R60). -/
def crumbMask (k j : Nat) : Nat := bits k (24 * j) 24

/-- Whether term `j` feeds sum `f` of macrocell `m`, the XOR term of an enabled XOR apart (R61, R69, R73). -/
def termFeeds (k m j : Nat) (f : Bool) : Bool :=
  crumbMask k j != 0 &&
  (if crumbMux k && j < 16 then m == 0 && (j % 2 == 1) == f
   else crumbTermCell k j == m && crumbTermF k j == f && !(crumbXorEn k m && crumbXorTerm k m == j) && !(crumbMux k && m == 0))

/-- A macrocell is used when a term feeds one of its sums, or it is macrocell 0 of a crumb in mux mode (R792). -/
def macroUsed (k m : Nat) : Bool :=
  (crumbMux k && m == 0) || (List.range 24).any (fun j => termFeeds k m j false || termFeeds k m j true)

/-- Whether the hold of macrocell `m` is transparent (R64, R67). -/
def crumbTransparent (k m : Nat) : Bool := crumbHoldInit k m == 0

/-- The 32-bit descriptor of crust port `p` (R80). -/
def Tin.portDesc (x : Tin) (p : Nat) : Nat := bits (x.frame (0x9BE0 + p / 32)) (32 * (p % 32)) 32

def Tin.portWidth (x : Tin) (p : Nat) : Nat := bits (x.portDesc p) 0 4

/-- The mode a port takes at release (R80). -/
def Tin.portInitMode (x : Tin) (p : Nat) : PortMode :=
  match bits (x.portDesc p) 4 2 with
  | 0 => .pass
  | 1 => .stall
  | _ => .drain

/-- The rights domain of a tin (R87). -/
def Tin.domain (x : Tin) : Nat := bits (x.frame 0x9BEC) 0 4
/-- Whether the tin is a proofing tin (R87). -/
def Tin.proofing (x : Tin) : Bool := bit (x.frame 0x9BEC) 4
/-- The initiator timeout of the tin, µs (R280). -/
def Tin.timeout (x : Tin) : Nat := bits (x.frame 0x9BED) 0 20
/-- Whether the tin's design answers atomics (R280). -/
def Tin.acceptAtomic (x : Tin) : Bool := bit (x.frame 0x9BED) 22

/-! ### Routing (R74–R79, R89, R793) -/

/-- A pantry or a mixer beside a batch. -/
inductive Blk where
  | pantry (p : Nat)
  | mixer (q : Nat)
deriving DecidableEq, Repr

/-- What drives a line: a hold, a bit of an inbound crust port, an output bit of a pantry or mixer, or nothing. -/
inductive Src where
  | hold (b c m : Nat)
  | port (p k : Nat)
  | block (blk : Blk) (bit : Nat)
  | none
deriving DecidableEq, Repr

/-- The pantry or mixer beside batch (x, y), given as 64y + x (R77, R793). -/
def adjacentBlock (b : Nat) : Option Blk :=
  let y := b / 64
  match b % 64 with
  | 0 => some (.pantry y)
  | 15 => some (.mixer y)
  | 16 => some (.mixer y)
  | 31 => some (.pantry (32 + y))
  | 32 => some (.pantry (32 + y))
  | 47 => some (.mixer (32 + y))
  | 48 => some (.mixer (32 + y))
  | 63 => some (.pantry (64 + y))
  | _ => Option.none

/-- The batches beside a pantry or mixer (R793), batch (x, y) as 64y + x; `batchAt` gives the manual's number. -/
def adjacentBatches : Blk → List Nat
  | .pantry p =>
    match p / 32 with
    | 0 => [64 * (p % 32)]
    | 1 => [64 * (p % 32) + 31, 64 * (p % 32) + 32]
    | _ => [64 * (p % 32) + 63]
  | .mixer q => if q / 32 = 0 then [64 * (q % 32) + 15, 64 * (q % 32) + 16] else [64 * (q % 32) + 47, 64 * (q % 32) + 48]

/-- Batch (x, y) of batch number b = 32x + y (R77). -/
def batchX (b : Nat) : Nat := b / 32
def batchY (b : Nat) : Nat := b % 32

/-- The manual's number of the batch at (x, y). -/
def batchAt (x y : Nat) : Nat := 32 * x + y

/-- The pantry or mixer beside batch number `b`. -/
def blockBeside (b : Nat) : Option Blk := adjacentBlock (64 * batchY b + batchX b)

/-- The batch numbers beside a pantry or mixer. -/
def batchesBeside (k : Blk) : List Nat := (adjacentBatches k).map (fun n => batchAt (n % 64) (n / 64))

/-- How far track index `j` reaches (R75). -/
def trackLen (j : Nat) : Nat := if j < 8 then 1 else if j < 14 then 4 else 16

/-- The batch `n` positions toward side `d` (0 north, 1 east, 2 south, 3 west), if it is inside the grid (R75, R77). -/
def stepTo (b d n : Nat) : Option Nat :=
  match d with
  | 0 => if n ≤ batchY b then some (b - n) else none
  | 1 => if batchX b + n < 64 then some (b + 32 * n) else none
  | 2 => if batchY b + n < 32 then some (b + n) else none
  | _ => if n ≤ batchX b then some (b - 32 * n) else none

/-- The perimeter position of batch `b` on side `d`, if it lies on that edge (R79). -/
def perimeter (b d : Nat) : Option Nat :=
  match d with
  | 0 => if batchY b = 0 then some (batchX b) else none
  | 1 => if batchX b = 63 then some (64 + batchY b) else none
  | 2 => if batchY b = 31 then some (159 - batchX b) else none
  | _ => if batchX b = 0 then some (191 - batchY b) else none

/-- The batch at a perimeter position and the side it faces (R79). -/
def perimeterBatch (q : Nat) : Nat × Nat :=
  if q < 64 then (batchAt q 0, 0) else if q < 96 then (batchAt 63 (q - 64), 1)
  else if q < 160 then (batchAt (159 - q) 31, 2) else (batchAt 0 (191 - q), 3)

/-- Routing frame `k` of batch `b` (R87). -/
def Tin.routing (x : Tin) (b k : Nat) : Nat := x.frame (0x5800 + 5 * b + k)

/-- The driver field of outgoing endpoint `e` of batch `b` (R76, R89). -/
def Tin.driver (x : Tin) (b e : Nat) : Nat := bits (x.routing b 1) (16 * e) 16

/-- What drives incoming line `n` of batch `b`: a tap of routing frame 3, a bit of an inbound crust port, or the far end
of an endpoint followed back through endpoint drivers (R75, R76, R79, R793). -/
def Tin.incoming (x : Tin) : Nat → Nat → Nat → Src
  | 0, _, _ => .none
  | fuel + 1, b, n =>
    let tap := bits (x.routing b 3) (16 * n) 16
    let d := n / 16
    let j := n % 16
    match blockBeside b, bit tap 15 with
    | some k, true => .block k (bits tap 0 8)
    | _, _ =>
      match perimeter b d with
      | some q => if j < 10 ∧ j < x.portWidth (2 * q) then .port (2 * q) j else .none
      | none =>
        match stepTo b d (trackLen j) with
        | none => .none
        | some b' =>
          let f := x.driver b' (16 * ((d + 2) % 4) + j)
          if bit f 15 then
            if bit f 14 then .hold b' (bits f 0 6 / 4) (bits f 0 6 % 4) else x.incoming fuel b' (bits f 0 6)
          else .none

/-- How far an endpoint chain is followed: every endpoint of a tin once. -/
def trackFuel : Nat := 131072

/-- What drives incoming line or hold line `n` of batch `b`. -/
def Tin.lineSrc (x : Tin) (b : Nat) (hold : Bool) (n : Nat) : Src :=
  if hold then .hold b (n / 4) (n % 4) else x.incoming trackFuel b n

/-- What drives input `i` of crumb `c` of batch `b` (R74). -/
def Tin.inputSrc (x : Tin) (b c i : Nat) : Src :=
  let l := 4 * bits (x.routing b 0) (5 * (12 * c + i)) 5 + (c + i) % 4
  x.lineSrc b (l < 64) (l % 64)

/-- What drives column-select bit `n` of batch `b`; none when it is unconnected (R71, R89). -/
def Tin.colSrc (x : Tin) (b n : Nat) : Option Src :=
  let f := bits (x.routing b 0) (960 + 8 * n) 8
  if bit f 7 then some (x.lineSrc b (bit f 6) (bits f 0 6)) else none

/-! ### Rails and sums -/

/-- The two rails of a bit (R55). -/
structure Rails where
  t : Bool
  f : Bool
deriving DecidableEq, Repr

def Rails.spacer : Rails := ⟨false, false⟩
def Rails.ofBit (b : Bool) : Rails := ⟨b, !b⟩
/-- Exactly one rail is high. -/
def Rails.isData (r : Rails) : Bool := r.t != r.f
def Rails.isSpacer (r : Rails) : Bool := !r.t && !r.f

/-- Whether a term with this mask fires on these inputs (R60). -/
def termFires (mask : Nat) (inp : Nat → Rails) : Bool :=
  mask != 0 && (List.range 12).all (fun i => (!bit mask (2 * i) || (inp i).t) && (!bit mask (2 * i + 1) || (inp i).f))

/-- The sums of a macrocell after its XOR (R61, R63). -/
def macroSums (k m : Nat) (inp : Nat → Rails) : Rails :=
  let sum := fun f => (List.range 24).any (fun j => termFeeds k m j f && termFires (crumbMask k j) inp)
  let st := sum false
  let sf := sum true
  if crumbXorEn k m && !(crumbMux k && m == 0) then
    let mask := crumbMask k (crumbXorTerm k m)
    let xt := termFires mask inp
    let xf := (List.range 12).any (fun i => (bit mask (2 * i) && (inp i).f) || (bit mask (2 * i + 1) && (inp i).t))
    ⟨(st && xf) || (sf && xt), (st && xt) || (sf && xf)⟩
  else ⟨st, sf⟩

/-- The number of crumbs in the chain of batch `b`; 0 without one (R70, R71). -/
def Tin.chainLen (x : Tin) (b : Nat) : Nat :=
  ((List.range 16).find? (fun c => crumbChainTail (x.crumb b c))).elim 0 (· + 1)

/-- How many column-select bits a chain of `l` crumbs uses: ⌈log₂ l⌉. -/
def colBits (l : Nat) : Nat := if l ≤ 2 then 1 else if l ≤ 4 then 2 else if l ≤ 8 then 3 else 4

/-- Whether macrocell `m` of crumb `c` is the output of the batch's chain. -/
def Tin.chainOut (x : Tin) (b c m : Nat) : Bool := m == 0 && crumbChainEn (x.crumb b c) && crumbChainTail (x.crumb b c)

/-- The sums of macrocell `m` of crumb `c`: its own, or for a chain's tail the sums of the crumb that the column-select
bits name, value 0 beyond the chain (R70, R71).  `inp c i` and `col n` are the rails of inputs and column selects. -/
def Tin.sums (x : Tin) (b c m : Nat) (inp : Nat → Nat → Rails) (col : Nat → Rails) : Rails :=
  if x.chainOut b c m then
    let l := x.chainLen b
    let n := colBits l
    if (List.range n).all (fun i => (col i).isData) then
      let v := (List.range n).foldl (fun a i => a + (if (col i).t then 2 ^ i else 0)) 0
      if v < l then macroSums (x.crumb b v) 0 (inp v) else ⟨false, true⟩
    else .spacer
  else macroSums (x.crumb b c) m (inp c)

/-- The hold of macrocell `m` of crumb `c` of batch `b`. -/
def holdKey (b c m : Nat) : Nat := 64 * b + 4 * c + m
def Tin.hold (x : Tin) (b c m : Nat) : Hold := Tab.get .empty x.holds (holdKey b c m)
def Tin.setHold (x : Tin) (b c m : Nat) (h : Hold) : Tin := { x with holds := Tab.put .empty x.holds (holdKey b c m) h }
/-- A pantry and a mixer of a tin. -/
def Tin.pantry (x : Tin) (p : Nat) : Pantry := Tab.get .blank x.pantries p
def Tin.setPantry (x : Tin) (p : Nat) (v : Pantry) : Tin := { x with pantries := Tab.put .blank x.pantries p v }
def Tin.mixer (x : Tin) (q : Nat) : Mixer := Tab.get .released x.mixers q
def Tin.setMixer (x : Tin) (q : Nat) (v : Mixer) : Tin := { x with mixers := Tab.put .released x.mixers q v }

/-- The token an output bit of a pantry or mixer belongs to and the bit's place in it (R793). -/
def Tin.blockOutTok (x : Tin) (k : Blk) (n : Nat) : Option Nat × Nat :=
  match k with
  | .pantry p =>
    let v := x.pantry p
    if n < 73 then (if v.outA.wait then none else v.outA.tok, n)
    else if n < 146 then (if v.outB.wait then none else v.outB.tok, n - 73)
    else (if v.event = 0 || v.eventWait then none else some v.event, n - 146)
  | .mixer q =>
    let v := x.mixer q
    if v.outWait then (none, 0)
    else if n < 59 then (v.z0.head?, n) else if n < 118 then (v.z1.head?, n - 59) else (v.ax.head?, n - 118)

/-- The rails a source shows; `fuel` bounds a path through transparent holds (R67, R68). -/
def Tin.rails (x : Tin) : Nat → Src → Rails
  | 0, _ => .spacer
  | _ + 1, .none => .spacer
  | _ + 1, .port p k => match (x.port p).inTok with | some v => .ofBit (bit v k) | none => .spacer
  | _ + 1, .block k n => match x.blockOutTok k n with | (some v, i) => .ofBit (bit v i) | (none, _) => .spacer
  | fuel + 1, .hold b c m =>
    if crumbTransparent (x.crumb b c) m then
      if macroUsed (x.crumb b c) m then
        x.sums b c m (fun c' i => x.rails fuel (x.inputSrc b c' i))
          (fun n => match x.colSrc b n with | some sr => x.rails fuel sr | none => .ofBit false)
      else .spacer
    else
      let h := x.hold b c m
      if h.full then .ofBit h.value else .spacer

/-- Every macrocell of a tin once. -/
def macroFuel : Nat := 131072

/-- The rails of a source. -/
def Tin.railsOf (x : Tin) (sr : Src) : Rails := x.rails macroFuel sr

/-- The sources whose tokens a macrocell consumes, transparent holds replaced by the used inputs of their crumbs
(R57, R67, R70); `fuel` bounds a path through transparent holds. -/
def Tin.origins (x : Tin) : Nat → Nat → Nat → Nat → List Src
  | 0, _, _, _ => []
  | fuel + 1, b, c, m =>
    if macroUsed (x.crumb b c) m then
      let crumbs := if x.chainOut b c m then List.range (x.chainLen b) else [c]
      let direct := crumbs.flatMap (fun c' =>
        ((List.range 12).filter (fun i => crumbInputUsed (x.crumb b c') i)).map (fun i => x.inputSrc b c' i))
      let cols := if x.chainOut b c m then (List.range (colBits (x.chainLen b))).filterMap (fun n => x.colSrc b n) else []
      (direct ++ cols).flatMap (fun sr =>
        match sr with
        | .hold b' c' m' => if crumbTransparent (x.crumb b' c') m' then x.origins fuel b' c' m' else [sr]
        | _ => [sr])
    else []

/-- The sources of the hold of macrocell `m` of crumb `c`. -/
def Tin.holdSources (x : Tin) (b c m : Nat) : List Src := x.origins macroFuel b c m

/-- The sources behind one line. -/
def Tin.behind (x : Tin) (sr : Src) : List Src :=
  match sr with
  | .hold b c m => if crumbTransparent (x.crumb b c) m then x.holdSources b c m else [sr]
  | _ => [sr]

/-! ### Block inputs (R793) -/

/-- The used entries of routing frame 2 of the batches beside a block: (input bit, source). -/
def Tin.blockInputs (x : Tin) (k : Blk) : List (Nat × Src) :=
  (batchesBeside k).flatMap (fun b => (List.range 64).filterMap (fun i =>
    let f := bits (x.routing b 2) (16 * i) 16
    if bit f 15 then some (bits f 0 8, x.lineSrc b (bit f 14) (bits f 8 6)) else none))

/-- The used entries of routing frame 2 that name input bits lo to lo + n − 1. -/
def Tin.groupInputs (x : Tin) (k : Blk) (lo n : Nat) : List (Nat × Src) :=
  (x.blockInputs k).filter (fun e => lo ≤ e.1 && e.1 < lo + n)

/-- The token on input bits lo to lo + n − 1: none while a named bit carries no data; unnamed bits read 0 (R793). -/
def Tin.groupToken (x : Tin) (k : Blk) (lo n : Nat) : Option Nat :=
  let l := x.groupInputs k lo n
  if l.isEmpty then none
  else if l.all (fun e => (x.railsOf e.2).isData) then
    some (l.foldl (fun a e => setBit a (e.1 - lo) (x.railsOf e.2).t) 0)
  else none

/-- Whether every named bit of the group is a spacer. -/
def Tin.groupSpacer (x : Tin) (k : Blk) (lo n : Nat) : Bool := (x.groupInputs k lo n).all (fun e => (x.railsOf e.2).isSpacer)

/-- The control frame of a pantry (R181): organisation, FIFO mode, read-only ports, stale count and exponent. -/
def Tin.pantryCtl (x : Tin) (p : Nat) : Nat := x.frame (0x9B00 + p)
def pantryOrg (k : Nat) : Nat := bits k 0 2
def pantryFifo (k : Nat) : Bool := bit k 2
def pantryRo (k : Nat) (portB : Bool) : Bool := bit k (if portB then 5 else 4)
def pantryStaleCount (k : Nat) : Nat := bits k 20 16
def pantryStaleExp (k : Nat) : Nat := bits k 36 4
/-- The word width of an organisation (R168). -/
def orgWidth (o : Nat) : Nat := 72 / 2 ^ o

/-- The input group of a pantry port: its lowest bit and its width (R170, R793). -/
def pantryGroup (ctl : Nat) (portB : Bool) : Nat × Nat :=
  let w := orgWidth (pantryOrg ctl)
  if pantryFifo ctl then (0, w)
  else (if portB then 87 else 0, if pantryRo ctl portB then 15 else w + 15)

/-- The input ports of a mixer: lowest bit, width and port index (R210, R793). -/
def mixerGroups : List (Nat × Nat × Nat) :=
  [(0, 24, 0), (24, 24, 1), (48, 24, 2), (72, 24, 3), (96, 24, 4), (120, 24, 5), (144, 6, 6), (150, 56, 7)]

/-- The control frame 0 of a mixer (R225) and whether port `i` is used. -/
def Tin.mixerCtl (x : Tin) (q : Nat) : Nat := x.frame (0x9B60 + 2 * q)
def mixerUses (ctl i : Nat) : Bool := bit ctl (15 + i)

/-! ### Receivers and acknowledges -/

/-- The batches of a tin whose logic frames are not all 0. -/
def Tin.batches (x : Tin) : List Nat := ((x.frames.filter (fun e => e.1 < 0x5800)).map (fun e => e.1 / 11)).eraseDups

/-- The used, non-transparent holds of a tin. -/
def Tin.usedHolds (x : Tin) : List (Nat × Nat × Nat) :=
  x.batches.flatMap (fun b => (List.range 16).flatMap (fun c => (List.range 4).filterMap (fun m =>
    if macroUsed (x.crumb b c) m && !crumbTransparent (x.crumb b c) m then some (b, c, m) else none)))

/-- The crust ports with a width. -/
def Tin.usedPorts (x : Tin) : List Nat :=
  ((x.frames.filter (fun e => 0x9BE0 ≤ e.1 && e.1 < 0x9BEC)).flatMap (fun e => (List.range 32).map (fun i => 32 * (e.1 - 0x9BE0) + i))).filter
    (fun p => 0 < x.portWidth p)

/-- What drives bit `k` of outbound crust port `p` (R79). -/
def Tin.portBitSrc (x : Tin) (p k : Nat) : Src :=
  let (b, d) := perimeterBatch (p / 2)
  let f := x.driver b (16 * d + k)
  if bit f 15 then x.lineSrc b (bit f 14) (bits f 0 6) else .none

/-- The sources of an outbound crust port. -/
def Tin.portSources (x : Tin) (p : Nat) : List Src :=
  (List.range (x.portWidth p)).flatMap (fun k => x.behind (x.portBitSrc p k))

/-- The pantries and mixers that some batch names. -/
def Tin.usedBlocks (x : Tin) : List Blk :=
  ((x.frames.filter (fun e => 0x5800 ≤ e.1 && e.1 < 0x8000)).filterMap (fun e => blockBeside ((e.1 - 0x5800) / 5))).eraseDups

/-- The acknowledges that a source waits for: those of every hold, outbound crust port, pantry port and mixer that
takes its tokens (R57, R58, R67). -/
def Tin.receiverAcks (x : Tin) (sr : Src) : List Bool :=
  ((x.usedHolds.filter (fun h => (x.holdSources h.1 h.2.1 h.2.2).contains sr)).map (fun h => (x.hold h.1 h.2.1 h.2.2).ack)) ++
  ((x.usedPorts.filter (fun p => p % 2 == 1 && (x.portSources p).contains sr)).map (fun p => (x.port p).ack)) ++
  (x.usedBlocks.flatMap (fun k =>
    let takes := fun lo n => (x.groupInputs k lo n).any (fun e => (x.behind e.2).contains sr)
    match k with
    | .pantry p =>
      let c := x.pantryCtl p
      let a := pantryGroup c false
      let b := pantryGroup c true
      (if takes a.1 a.2 then [(x.pantry p).ackA] else []) ++
      (if !pantryFifo c && takes b.1 b.2 then [(x.pantry p).ackB] else [])
    | .mixer q => if takes 0 206 then [(x.mixer q).ack] else []))

/-- The output groups of a block: lowest bit and width (R793). -/
def blockOutGroups : Blk → List (Nat × Nat)
  | .pantry _ => [(0, 73), (73, 73), (146, 3)]
  | .mixer _ => [(0, 59), (59, 59), (118, 24)]

/-- The acknowledges of every receiver of the tapped bits lo to lo + n − 1 of a block (R793). -/
def Tin.outAcks (x : Tin) (k : Blk) (lo n : Nat) : List Bool :=
  (batchesBeside k).flatMap (fun b => (List.range 64).flatMap (fun i =>
    let tap := bits (x.routing b 3) (16 * i) 16
    if bit tap 15 && lo ≤ bits tap 0 8 && bits tap 0 8 < lo + n then x.receiverAcks (.block k (bits tap 0 8)) else []))

/-- Whether a used entry of routing frame 3 taps one of these output bits. -/
def Tin.outTapped (x : Tin) (k : Blk) (lo n : Nat) : Bool :=
  (batchesBeside k).any (fun b => (List.range 64).any (fun i =>
    let tap := bits (x.routing b 3) (16 * i) 16
    bit tap 15 && lo ≤ bits tap 0 8 && bits tap 0 8 < lo + n))

/-- One output after its receivers' acknowledges have been seen: ready for its next token once all are low again; a token
is taken when all are high, and one that nobody taps is discarded (R793).  `keep` marks a FIFO's read side, whose token
`FIFO_READ` takes. -/
def BlockOut.settle (o : BlockOut) (keep tapped : Bool) (acks : List Bool) : BlockOut :=
  if o.wait then { o with wait := acks.any id }
  else match o.tok with
    | some _ => if keep then o else if !tapped then .idle else if acks.all id then ⟨none, true⟩ else o
    | none => o

/-! ### The steps of a hold (R56) -/

/-- The logic of a tin runs while its design is released and it has not stopped. -/
def Tin.running (x : Tin) : Bool := x.released && !x.stopped

/-- The crust, pantry and mixer sides follow the holds at once (assumption 20): an outbound port, a pantry port or a
mixer whose inputs have returned to spacer lowers its acknowledge, and an inbound port or a block output whose token every
receiver has taken returns to spacer. -/
def Tin.settlePort (x : Tin) (p : Nat) : Tin :=
  let v := x.port p
  if p % 2 = 1 then
    if v.ack && (List.range (x.portWidth p)).all (fun k => (x.railsOf (x.portBitSrc p k)).isSpacer) then
      x.setPort p { v with ack := false }
    else x
  else
    let acks := (List.range (x.portWidth p)).flatMap (fun k => x.receiverAcks (.port p k))
    match v.inTok with
    | some _ => if acks.all id then x.setPort p { v with inTok := none, ack := true } else x
    | none => if v.ack && !acks.any id then x.setPort p { v with ack := false } else x

/-- The same for a pantry or mixer. -/
def Tin.settleBlock (x : Tin) (k : Blk) : Tin :=
  match k with
  | .pantry p =>
    let v := x.pantry p
    let c := x.pantryCtl p
    let a := pantryGroup c false
    let b := pantryGroup c true
    x.setPantry p { v with
      ackA := v.ackA && !x.groupSpacer k a.1 a.2
      ackB := v.ackB && (pantryFifo c || !x.groupSpacer k b.1 b.2)
      outA := v.outA.settle false (x.outTapped k 0 73) (x.outAcks k 0 73)
      outB := v.outB.settle (pantryFifo c) (x.outTapped k 73 73) (x.outAcks k 73 73)
      eventWait := v.eventWait && (x.outAcks k 146 3).any id }
  | .mixer q =>
    let v := x.mixer q
    let acks := x.outAcks k 0 142
    let taken := (if v.z0.isEmpty then true else (x.outAcks k 0 59).all id) && (if v.z1.isEmpty then true else (x.outAcks k 59 59).all id) &&
      (if v.ax.isEmpty then true else (x.outAcks k 118 24).all id)
    let v1 := { v with ack := v.ack && !x.groupSpacer k 0 206 }
    if v.outWait then x.setMixer q { v1 with outWait := acks.any id }
    else if (!v.z0.isEmpty || !v.z1.isEmpty || !v.ax.isEmpty) && taken then
      x.setMixer q { v1 with z0 := v.z0.drop 1, z1 := v.z1.drop 1, ax := v.ax.drop 1, outWait := acks.any id }
    else x.setMixer q v1

/-- Every port and block of the tin settled once. -/
def Tin.settle (x : Tin) : Tin :=
  let x1 := x.usedPorts.foldl (fun y p => y.settlePort p) x
  x.usedBlocks.foldl (fun y k => y.settleBlock k) x1

/-- What t1 makes of a hold: none while it may not fire; otherwise the rails of its sums (R56, R62). -/
def Tin.fireRails (x : Tin) (b c m : Nat) : Option Rails :=
  let k := x.crumb b c
  if x.running && !x.frozen && macroUsed k m && !crumbTransparent k m && !(x.hold b c m).full && !(x.hold b c m).ack &&
     (x.receiverAcks (.hold b c m)).all (! ·) then
    let r := x.sums b c m (fun c' i => x.railsOf (x.inputSrc b c' i))
      (fun n => match x.colSrc b n with | some sr => x.railsOf sr | none => .ofBit false)
    if r.isSpacer then none else some r
  else none

/-- t1: the hold takes the data value and is full (R56). -/
def Tin.fill (x : Tin) (b c m : Nat) (v : Bool) : Tin := x.setHold b c m { x.hold b c m with full := true, value := v }

/-- t2 may occur: the hold is full and every source it consumes from carries data (R56, R57). -/
def Tin.canAck (x : Tin) (b c m : Nat) : Bool :=
  x.running && macroUsed (x.crumb b c) m && !crumbTransparent (x.crumb b c) m && (x.hold b c m).full && !(x.hold b c m).ack &&
    (x.holdSources b c m).all (fun sr => (x.railsOf sr).isData)

/-- t5 may occur: every source is a spacer and every receiver acknowledges (R56, R58); an unused macrocell's initial token
leaves without waiting for inputs (R792). -/
def Tin.canEmpty (x : Tin) (b c m : Nat) : Bool :=
  x.running && !crumbTransparent (x.crumb b c) m && (x.hold b c m).full &&
    (if macroUsed (x.crumb b c) m then
       (x.hold b c m).ack && (x.holdSources b c m).all (fun sr => (x.railsOf sr).isSpacer)
     else true) &&
    (x.receiverAcks (.hold b c m)).all id

/-- t6 may occur: the hold has emptied and still acknowledges (R56). -/
def Tin.canAckFall (x : Tin) (b c m : Nat) : Bool :=
  x.running && !(x.hold b c m).full && (x.hold b c m).ack

/-- Every hold takes its `hold_init` state (R64, R65).  A used hold that starts full has taken its token: its acknowledge
is high, so a full hold that drives it loses its own initial token at its first t5 (R66). -/
def Tin.initHolds (x : Tin) : Tab Hold :=
  x.batches.foldl (fun l b => (List.range 64).foldl (fun l n =>
    let k := x.crumb b (n / 4)
    match crumbHoldInit k (n % 4) with
    | 2 => Tab.put .empty l (64 * b + n) ⟨true, false, macroUsed k (n % 4)⟩
    | 3 => Tab.put .empty l (64 * b + n) ⟨true, true, macroUsed k (n % 4)⟩
    | _ => l) l) []

/-- Quiescent (R91): every hold and every crust port is empty with its acknowledge low, or full with no receiver
acknowledging; every pantry and mixer operation has ended and no proof is awaited (R381). -/
def Tin.quiescent (x : Tin) : Bool :=
  x.usedHolds.all (fun h =>
    let v := x.hold h.1 h.2.1 h.2.2
    if v.full then (x.receiverAcks (.hold h.1 h.2.1 h.2.2)).all (! ·) else !v.ack) &&
  x.usedPorts.all (fun p => !(x.port p).ack && (p % 2 == 1 || (x.port p).inTok.isNone ||
    (List.range (x.portWidth p)).all (fun k => (x.receiverAcks (.port p k)).all (! ·)))) && x.reads.isEmpty

/-! ### The meanings -/

/-- `HOLD_ACKNOWLEDGE`: t2 (R56). -/
def execHoldAcknowledge (t : TinIx) (b : Fin 2048) (c : Fin 16) (m : Fin 4) (s : State) : Out :=
  let x := s.tin t.val
  if x.canAck b.val c.val m.val then
    .next (s.setTin t.val (x.setHold b.val c.val m.val { x.hold b.val c.val m.val with ack := true }).settle)
  else .next s

/-- `HOLD_EMPTY`: t5 (R56, R792). -/
def execHoldEmpty (t : TinIx) (b : Fin 2048) (c : Fin 16) (m : Fin 4) (s : State) : Out :=
  let x := s.tin t.val
  if x.canEmpty b.val c.val m.val then
    .next (s.setTin t.val (x.setHold b.val c.val m.val { x.hold b.val c.val m.val with full := false, value := false }).settle)
  else .next s

/-- `HOLD_ACK_FALL`: t6 (R56). -/
def execHoldAckFall (t : TinIx) (b : Fin 2048) (c : Fin 16) (m : Fin 4) (s : State) : Out :=
  let x := s.tin t.val
  if x.canAckFall b.val c.val m.val then
    .next (s.setTin t.val (x.setHold b.val c.val m.val { x.hold b.val c.val m.val with ack := false }).settle)
  else .next s

end Sys2Proof.Machine
end

