-- ==== Sys2Proof/Machine/Mixer.lean ====
section
/-! DEFINITION. Mixers: multiply, accumulate, store and search (R210–R230). -/

namespace Sys2Proof.Machine

/-- The fields of a mixer's control frame 0 (R225). -/
def mixMode (c : Nat) : Nat := bits c 0 2
def mixSum (c : Nat) : Bool := bit c 2
def mixOutW (c : Nat) : Nat := bits c 3 3
def mixUnsigned (c : Nat) : Bool := bit c 6
def mixShift (c : Nat) : Nat := bits c 7 6
def mixSearchMax (c : Nat) : Bool := bit c 13
def mixCmpUnsigned (c : Nat) : Bool := bit c 14
def mixPorts (c : Nat) : Nat := bits c 15 11
def mixOpDefault (c : Nat) : Nat := bits c 26 6

/-- The output width of an `out_w` code; 0 is raw (R220, R225). -/
def outWidth (w : Nat) : Nat :=
  match w with
  | 0 => 24
  | 1 => 18
  | 2 => 16
  | 3 => 12
  | _ => 0

/-- `clamp56` (R218). -/
def clamp56 (t : Int) (o : Rail) : Int × Rail :=
  if t > 2 ^ 55 - 1 then (2 ^ 55 - 1, .high)
  else if t < -(2 ^ 55) then (-(2 ^ 55), .low)
  else (t, o)

/-- Division by 2^s rounded half to even (R220). -/
def roundShift (acc : Int) (s : Nat) : Int :=
  let q := acc / 2 ^ s
  let rem := acc - q * 2 ^ s
  if s = 0 then q
  else if rem > 2 ^ (s - 1) then q + 1
  else if rem = 2 ^ (s - 1) then q + q % 2
  else q

/-- `store(acc, ovf)` outside raw output: the result and the rail it stands at (R220). -/
def storeValue (w s : Nat) (unsig : Bool) (acc : Int) (ovf : Rail) : Int × Rail :=
  let q := roundShift acc s
  let lo : Int := if unsig then 0 else -(2 ^ (w - 1))
  let hi : Int := if unsig then 2 ^ w - 1 else 2 ^ (w - 1) - 1
  let rail := if ovf = .none then (if q > hi then .high else if q < lo then .low else .none) else ovf
  (match rail with | .high => hi | .low => lo | .none => q, rail)

/-- The `sat` code of a rail (R221). -/
def satCode : Rail → Nat
  | .none => 0
  | .low => 1
  | .high => 2

/-- The `Z` token of a stored result and the rail it stands at (R220, R221). -/
def storeToken (c : Nat) (acc : Int) (ovf : Rail) (err : Bool) : Nat × Rail :=
  let w := outWidth (mixOutW c)
  if w = 0 then (ofSigned acc 56 + satCode ovf * 2 ^ 56 + (if err then 2 ^ 58 else 0), ovf)
  else
    let r := storeValue w (mixShift c) (mixUnsigned c) acc ovf
    (ofSigned r.1 24 + satCode r.2 * 2 ^ 24 + (if err then 2 ^ 26 else 0), r.2)

/-- The status token: the counter, `sat` 0b11 (R221). -/
def statusToken (c counter : Nat) : Nat := counter + (if outWidth (mixOutW c) = 0 then 3 * 2 ^ 56 else 3 * 2 ^ 24)

/-- The operands of one operation: A0, A1, B0–B3, the operation token and C (R210, R211). -/
structure MixIn where
  a0 : Int
  a1 : Int
  b0 : Int
  b1 : Int
  b2 : Int
  b3 : Int
  op : Nat
  c : Int
deriving DecidableEq, Repr

/-- One operation of a mixer outside search mode (R217), on the state after the parity checks. -/
def Mixer.operate (v : Mixer) (ctl : Nat) (i : MixIn) : Mixer :=
  let broadcast := mixMode ctl == 0
  let zh := broadcast && bit i.op 4
  let h1 := if zh then 0 else v.h1
  let h2 := if zh then 0 else v.h2
  let h3 := if zh then 0 else v.h3
  let h4 := if zh then 0 else v.h4
  let p0 := i.a0 * i.b0
  let p1 := (if broadcast then h1 else i.a1) * i.b1
  let p2 := if broadcast then h2 * i.b2 else if mixMode ctl = 1 then i.a0 * i.b2 else i.a0 * i.b1
  let p3 := if broadcast then h3 * i.b3 else if mixMode ctl = 1 then i.a1 * i.b3 else i.a1 * i.b0
  let clr := bit i.op 0
  let a0 := if clr then 0 else v.acc0
  let a1 := if clr then 0 else v.acc1
  let o0 := if clr then Rail.none else v.ovf0
  let o1 := if clr then Rail.none else v.ovf1
  let t0 := if mixMode ctl = 2 then a0 + p0 - p1 + i.c else if !mixSum ctl then a0 + p0 + p1 + p2 + p3 + i.c else a0 + p0 + p1 + i.c
  let t1 := if mixMode ctl = 2 then a1 + p2 + p3 else if !mixSum ctl then a1 else a1 + p2 + p3
  let r0 := clamp56 t0 o0
  let r1 := clamp56 t1 o1
  let store := bit i.op 1
  let k0 := storeToken ctl r0.1 r0.2 v.err0
  let k1 := storeToken ctl r1.1 r1.2 v.err1
  let two := store && mixSum ctl
  let cnt0 := if store && k0.2 != .none then min (v.counter + 1) 0xFFFF else v.counter
  let cnt1 := if two && k1.2 != .none then min (cnt0 + 1) 0xFFFF else cnt0
  let rd := bit i.op 5
  { v with
    acc0 := r0.1, acc1 := r1.1, ovf0 := r0.2, ovf1 := r1.2
    h1 := if broadcast then i.a0 else v.h1
    h2 := if broadcast then h1 else v.h2
    h3 := if broadcast then h2 else v.h3
    h4 := if broadcast then h3 else v.h4
    counter := if rd then 0 else cnt1
    err0 := v.err0 && !store
    err1 := v.err1 && !two
    ack := true
    z0 := if mixerUses ctl 8 then (if store then [k0.1] else []) ++ (if rd then [statusToken ctl cnt1] else []) else []
    z1 := if mixerUses ctl 9 && two then [k1.1] else []
    ax := if mixerUses ctl 10 && broadcast then [ofSigned h4 24] else [] }

/-- The parity checks of one operation (R230): bits 0 and 1 of `parity` the accumulators, bits 2–5 the chain registers. -/
def Mixer.parityFail (v : Mixer) (parity : Nat) : Mixer :=
  { v with
    acc0 := if bit parity 0 then 0 else v.acc0, ovf0 := if bit parity 0 then .none else v.ovf0
    acc1 := if bit parity 1 then 0 else v.acc1, ovf1 := if bit parity 1 then .none else v.ovf1
    h1 := if bit parity 2 then 0 else v.h1, h2 := if bit parity 3 then 0 else v.h2
    h3 := if bit parity 4 then 0 else v.h3, h4 := if bit parity 5 then 0 else v.h4
    err0 := v.err0 || bit parity 0 || bits parity 2 4 != 0, err1 := v.err1 || bit parity 1 }

/-- One operation in search mode (R223, R224). -/
def Mixer.search (v : Mixer) (ctl a0 op : Nat) : Mixer :=
  let clr := bit op 0
  let hv := v.have_ && !clr
  let idx := if clr then 0 else v.idx
  let isat := v.idxSat && !clr
  let key := fun (n : Nat) => if mixCmpUnsigned ctl then (n : Int) else toSigned n 24
  let better := if mixSearchMax ctl then decide (key a0 > key v.best) else decide (key a0 < key v.best)
  let take := !hv || better
  let best := if take then a0 else v.best
  let bidx := if take then idx else v.bestIdx
  let isat1 := isat || idx == 0xFFFFFFFF
  let idx1 := if idx = 0xFFFFFFFF then idx else idx + 1
  let last := bit op 2
  { v with
    best := best, bestIdx := bidx
    have_ := !last, idx := if last then 0 else idx1, idxSat := isat1 && !last
    errS := v.errS && !last, ack := true
    z0 := if last && mixerUses ctl 8 then
        [best + bidx * 2 ^ 24 + (if isat1 then 2 ^ 56 else 0) + (if v.errS then 2 ^ 57 else 0)] else []
    z1 := [], ax := [] }

/-- The token on input port `i` of a mixer, 0 when the port is unused; none while a used port has no token (R211, R212). -/
def Tin.mixPort (x : Tin) (q ctl i : Nat) : Option Nat :=
  match mixerGroups[i]? with
  | some g => if mixerUses ctl i then x.groupToken (.mixer q) g.1 g.2.1 else some 0
  | none => some 0

/-- The mixer may start an operation: used, its last one fully acknowledged (R212). -/
def Tin.mixReady (x : Tin) (q : Nat) : Bool :=
  let v := x.mixer q
  x.running && mixPorts (x.mixerCtl q) != 0 && !v.ack && v.z0.isEmpty && v.z1.isEmpty && v.ax.isEmpty && !v.outWait

/-- The operands of the next operation, once every used input port shows a token. -/
def Tin.mixInputs (x : Tin) (q : Nat) : Option MixIn :=
  let ctl := x.mixerCtl q
  let k := x.frame (0x9B60 + 2 * q + 1)
  match x.mixPort q ctl 0, x.mixPort q ctl 1, x.mixPort q ctl 2, x.mixPort q ctl 3, x.mixPort q ctl 4, x.mixPort q ctl 5,
        x.mixPort q ctl 6, x.mixPort q ctl 7 with
  | some a0, some a1, some b0, some b1, some b2, some b3, some op, some c =>
    let o := if mixerUses ctl 6 then op else mixOpDefault ctl
    let bank := if bit o 3 then 96 else 0
    let co := fun (i : Nat) (b : Nat) => toSigned (if mixerUses ctl (2 + i) then b else bits k (bank + 24 * i) 24) 24
    some ⟨toSigned a0 24, toSigned a1 24, co 0 b0, co 1 b1, co 2 b2, co 3 b3, o, toSigned c 56⟩
  | _, _, _, _, _, _, _, _ => none

def mixerUnit (role tin q : Nat) : Nat := tinUnit role tin * 2 ^ 8 + q

/-- `MIXER_OPERATION` (R217, R230); `parity` names the parity checks that failed. -/
def execMixerOperation (t : TinIx) (q : MixerIx) (parity : Nat) (s : State) : Out :=
  let x := s.tin t.val
  let ctl := x.mixerCtl q.val
  if x.mixReady q.val && mixMode ctl != 3 then
    match x.mixInputs q.val with
    | none => .next s
    | some i =>
      let v := ((x.mixer q.val).parityFail parity).operate ctl i
      let s1 := s.setTin t.val (x.setMixer q.val v).settle
      .next (if bits parity 0 6 = 0 then s1
        else s1.post 0x0110 3 (some (t.val / 13)) (mixerUnit (s.roleOf t.val) (t.val % 13) q.val) parity)
  else .next s

/-- `MIXER_SEARCH` (R223, R230). -/
def execMixerSearch (t : TinIx) (q : MixerIx) (parity : Bool) (s : State) : Out :=
  let x := s.tin t.val
  let ctl := x.mixerCtl q.val
  if x.mixReady q.val && mixMode ctl == 3 then
    match x.mixPort q.val ctl 0, x.mixPort q.val ctl 6 with
    | some a0, some op =>
      let v := x.mixer q.val
      let v1 := if parity then { v with have_ := false, idx := 0, idxSat := false, errS := true } else v
      let v2 := v1.search ctl a0 (if mixerUses ctl 6 then op else mixOpDefault ctl)
      let s1 := s.setTin t.val (x.setMixer q.val v2).settle
      .next (if parity then s1.post 0x0110 3 (some (t.val / 13)) (mixerUnit (s.roleOf t.val) (t.val % 13) q.val) 64 else s1)
    | _, _ => .next s
  else .next s

end Sys2Proof.Machine
end

