-- ==== Sys2Proof/Machine/Pantry.lean ====
section
/-! DEFINITION. Pantries: words, ports, errors and spare rows, FIFO mode (R168–R188, R207). -/

namespace Sys2Proof.Machine

/-- The row a word address lies in (R168). -/
def wordRow (org a : Nat) : Nat := a % (1024 * 2 ^ org) / 2 ^ org
/-- The first lane of the word at an address (R168). -/
def wordLane (org a : Nat) : Nat := a % 2 ^ org * (8 / 2 ^ org)
/-- How many lanes a word has (R168). -/
def wordLanes (org : Nat) : Nat := 8 / 2 ^ org

def Pantry.row (v : Pantry) (r : Nat) : Nat := (Tab.get (0 : BitVec 72) v.rows r).toNat
def Pantry.setRow (v : Pantry) (r n : Nat) : Pantry := { v with rows := Tab.put (0 : BitVec 72) v.rows r (BitVec.ofNat 72 n) }
def Pantry.rowPoison (v : Pantry) (r : Nat) : Nat := Tab.get 0 v.poison r
def Pantry.setPoison (v : Pantry) (r n : Nat) : Pantry := { v with poison := Tab.put 0 v.poison r n }

/-- The word at address `a`. -/
def Pantry.word (v : Pantry) (org a : Nat) : Nat := bits (v.row (wordRow org a)) (9 * wordLane org a) (orgWidth org)
/-- Whether the word at `a` contains a poisoned lane (R176). -/
def Pantry.wordPoison (v : Pantry) (org a : Nat) : Bool := bits (v.rowPoison (wordRow org a)) (wordLane org a) (wordLanes org) != 0
/-- The word at `a` stored, its lanes' poison cleared and the row's other lanes as they were (R169, R176). -/
def Pantry.setWord (v : Pantry) (org a w : Nat) : Pantry :=
  let r := wordRow org a
  (v.setRow r (setBits (v.row r) (9 * wordLane org a) (orgWidth org) w)).setPoison r
    (setBits (v.rowPoison r) (wordLane org a) (wordLanes org) 0)

/-- The response token of a read: the word and its poison bit above it (R171). -/
def Pantry.response (v : Pantry) (org a : Nat) : Nat := v.word org a + (if v.wordPoison org a then 2 ^ orgWidth org else 0)

/-- How a pantry is named: tin role, physical tin and pantry. -/
def pantryUnit (role tin p : Nat) : Nat := tinUnit role tin * 2 ^ 8 + p
/-- The memory instance number of a pantry for R209. -/
def pantryInst (t p : Nat) : Nat := 96 * t + p

/-- What the decode of a row does (R175–R178): counts and writes back a correction, poisons every lane of an uncorrectable
row, whose bits are from then on free (assumption 4), and marks a hard-failed row for a spare row or reports that none is free. -/
def State.pantryDecode (s : State) (t p r : Nat) (err : MemErr) : State :=
  let x := s.tin t
  let v := x.pantry p
  let u := pantryUnit (s.roleOf t) (t % 13) p
  let fails := fun (s : State) (v : Pantry) =>
    if v.hardFailed.contains r || v.noSpare.contains r then s.setTin t (x.setPantry p v)
    else if v.spareUsed + v.hardFailed.length < 8 then s.setTin t (x.setPantry p { v with hardFailed := r :: v.hardFailed })
    else
      let s1 := s.setTin t (x.setPantry p { v with noSpare := r :: v.noSpare })
      (if v.noSpare.isEmpty then s1.fsat (TIN_PANTRY_ERR.no_spare t) 1 else s1).post 0x0108 2 (some (t / 13)) u r
  match err with
  | .clean => s
  | .corrected => (s.fsat (TIN_PANTRY_ERR.corr t) 1).countCorr (pantryInst t p)
  | .persistent => fails ((s.fsat (TIN_PANTRY_ERR.corr t) 1).countCorr (pantryInst t p)) v
  | .uncorr => 
    let f := s.takeFree 1
    fails ((f.2.fsat (TIN_PANTRY_ERR.uncorr t) 1).post 0x0106 3 (some (t / 13)) u r) ((v.setRow r (Config.freeNat f.1)).setPoison r 0xFF)

/-- The command token waiting on a port of a RAM-mode pantry, once the port is free to take it (R170–R172). -/
def Tin.pantryCmd (x : Tin) (p : Nat) (portB : Bool) : Option Nat :=
  let c := x.pantryCtl p
  let v := x.pantry p
  let g := pantryGroup c portB
  let o := if portB then v.outB else v.outA
  if x.running && !pantryFifo c && !v.unusable && !(if portB then v.ackB else v.ackA) && o.tok.isNone && !o.wait then
    match x.groupToken (.pantry p) g.1 g.2 with
    | some k => if v.hardFailed.contains (wordRow (pantryOrg c) (bits k 2 13)) then none else some k
    | none => none
  else none

/-- The operation a command token asks of a port: 0 READ, 1 WRITE, 2 SWAP (R170). -/
def pantryOp (ctl : Nat) (portB : Bool) (k : Nat) : Nat :=
  if pantryRo ctl portB || bits k 0 2 = 3 then 0 else bits k 0 2

/-- The port's acknowledge raised and its response token, if any, shown. -/
def Pantry.answer (v : Pantry) (portB : Bool) (resp : Option Nat) : Pantry :=
  let o : BlockOut := ⟨resp, false⟩
  if portB then { v with ackB := true, outB := if resp.isSome then o else v.outB }
  else { v with ackA := true, outA := if resp.isSome then o else v.outA }

/-- One access of a pantry port: the row decoded where it is read, the response formed before the write (R171, R175). -/
def State.pantryAccess (s : State) (t p : Nat) (portB : Bool) (want : Nat) (err : MemErr) : State :=
  let x := s.tin t
  let c := x.pantryCtl p
  let org := pantryOrg c
  match x.pantryCmd p portB with
  | none => s
  | some k =>
    if pantryOp c portB k ≠ want then s
    else
      let a := bits k 2 13
      let reads := want ≠ 1 ∨ org ≠ 0
      let s1 := if reads then s.pantryDecode t p (wordRow org a) err else s
      let x1 := s1.tin t
      let v := x1.pantry p
      let resp := if want = 1 then none else some (v.response org a)
      let v1 := if want = 0 then v else v.setWord org a (bits k 15 (orgWidth org))
      s1.setTin t (x1.setPantry p (v1.answer portB resp)).settle

/-- `PANTRY_READ` (R171). -/
def execPantryRead (t : TinIx) (p : PantryIx) (portB : Bool) (err : MemErr) (s : State) : Out :=
  .next (s.pantryAccess t.val p.val portB 0 err)

/-- `PANTRY_WRITE` (R170). -/
def execPantryWrite (t : TinIx) (p : PantryIx) (portB : Bool) (err : MemErr) (s : State) : Out :=
  .next (s.pantryAccess t.val p.val portB 1 err)

/-- `PANTRY_SWAP` (R171). -/
def execPantrySwap (t : TinIx) (p : PantryIx) (portB : Bool) (err : MemErr) (s : State) : Out :=
  .next (s.pantryAccess t.val p.val portB 2 err)

/-- `PANTRY_ROW_SPARED` (R177): the copy of a hard-failed row into the lowest free spare row completes. -/
def execPantryRowSpared (t : TinIx) (p : PantryIx) (row : Fin 1024) (s : State) : Out :=
  let x := s.tin t.val
  let v := x.pantry p.val
  if v.hardFailed.contains row.val && v.spareUsed < 8 then
    .next ((s.setTin t.val (x.setPantry p.val { v with
      hardFailed := v.hardFailed.filter (· != row.val), remap := row.val :: v.remap.filter (· != row.val), spareUsed := v.spareUsed + 1 })).post
      0x0107 2 (some (t.val / 13)) (pantryUnit (s.roleOf t.val) (t.val % 13) p.val) row.val)
  else .next s

/-- `PANTRY_SCRUB` (R180): the next row is decoded. -/
def execPantryScrub (t : TinIx) (p : PantryIx) (err : MemErr) (s : State) : Out :=
  let r := ((s.tin t.val).pantry p.val).scrubRow
  let s1 := s.pantryDecode t.val p.val r err
  let x := s1.tin t.val
  .next (s1.setTin t.val (x.setPantry p.val { x.pantry p.val with scrubRow := (r + 1) % 1024 }))

/-! ### FIFO mode (R184–R188) -/

/-- The depth of a FIFO (R184). -/
def fifoDepth (org : Nat) : Nat := 1024 * 2 ^ org
/-- The words a FIFO holds by its first pointer copies. -/
def Pantry.fifoCount (v : Pantry) (org : Nat) : Nat := (v.wpA + 2 * fifoDepth org - v.rpA) % (2 * fifoDepth org)

/-- An event on the event channel: its bit, and `merged` when a token was pending (R187). -/
def Pantry.raise (v : Pantry) (b : Nat) : Pantry :=
  if v.event = 0 then { v with event := 2 ^ b } else { v with event := setBit (setBit v.event b true) 2 true }

/-- A flush (R186): every pointer copy 0, every word discarded, ERROR raised.  A token that the read side is offering completes;
`ackB`, which a FIFO does not use otherwise, marks it. -/
def Pantry.flush (v : Pantry) : Pantry :=
  let left := v.outB.tok.isSome && !v.outB.wait
  { (v.raise 1) with wpA := 0, wpB := 0, rpA := 0, rpB := 0, staleFired := false, ackB := left
                     outB := if left then v.outB else ⟨none, v.outB.wait⟩ }

/-- The flush of a FIFO whose pointer copies disagree, counted and posted with both copies of both pointers (R186). -/
def State.fifoFault (s : State) (t p : Nat) (v : Pantry) : State :=
  let x := s.tin t
  ((s.setTin t (x.setPantry p v.flush).settle).fsat (TIN_PANTRY_ERR.fifo_fault t) 1).post 0x0109 3 (some (t / 13))
    (pantryUnit (s.roleOf t) (t % 13) p) (v.wpB * 2 ^ 16 + v.wpA) (v.rpB * 2 ^ 16 + v.rpA)

/-- The head word of a FIFO offered on its read side, while it holds one (R184). -/
def Pantry.offerHead (v : Pantry) (org : Nat) : Pantry :=
  { v with outB := ⟨if v.wpA = v.rpA then none else some (v.response org (v.rpA % fifoDepth org)), v.outB.wait⟩ }

/-- `FIFO_WRITE` (R184, R186): `upset` says that a bit of the pointer's second copy has flipped. -/
def execFifoWrite (t : TinIx) (p : PantryIx) (upset : Bool) (s : State) : Out :=
  let x := s.tin t.val
  let c := x.pantryCtl p.val
  let org := pantryOrg c
  let v := x.pantry p.val
  if x.running && pantryFifo c && !v.unusable && !v.ackA && v.fifoCount org < fifoDepth org then
    match x.groupToken (.pantry p.val) 0 (orgWidth org) with
    | none => .next s
    | some w =>
      let m := 2 * fifoDepth org
      let v1 : Pantry := { v.setWord org (v.wpA % fifoDepth org) w with
        wpA := (v.wpA + 1) % m, wpB := ((if upset then v.wpB ^^^ 1 else v.wpB) + 1) % m, ackA := true
        staleSince := if v.wpA = v.rpA then s.now else v.staleSince
        staleFired := if v.wpA = v.rpA then false else v.staleFired }
      if v1.wpA ≠ v1.wpB ∨ v1.rpA ≠ v1.rpB then .next (s.fifoFault t.val p.val v1)
      else .next (s.setTin t.val (x.setPantry p.val (if v.wpA = v.rpA && !v.ackB then v1.offerHead org else v1)).settle)
  else .next s

/-- `FIFO_READ` (R184, R186, R188): every receiver of the read side has acknowledged the offered word; the next head word is
decoded (`err`) and offered.  A token left over from a flush only leaves. -/
def execFifoRead (t : TinIx) (p : PantryIx) (upset : Bool) (err : MemErr) (s : State) : Out :=
  let x := s.tin t.val
  let c := x.pantryCtl p.val
  let org := pantryOrg c
  let v := x.pantry p.val
  if x.running && pantryFifo c && !v.outB.wait && (v.ackB || v.wpA != v.rpA) && v.outB.tok.isSome &&
     x.outTapped (.pantry p.val) 73 73 && (x.outAcks (.pantry p.val) 73 73).all id then
    if v.ackB then .next (s.setTin t.val (x.setPantry p.val ({ v with ackB := false, outB := ⟨none, true⟩ }.offerHead org)).settle)
    else
    let m := 2 * fifoDepth org
    let v1 : Pantry := { v with rpA := (v.rpA + 1) % m, rpB := ((if upset then v.rpB ^^^ 1 else v.rpB) + 1) % m,
                                outB := ⟨none, true⟩, staleSince := s.now, staleFired := false }
    if v1.wpA ≠ v1.wpB ∨ v1.rpA ≠ v1.rpB then .next (s.fifoFault t.val p.val v1)
    else
      let s1 := s.setTin t.val (x.setPantry p.val v1)
      let s2 := if v1.wpA = v1.rpA then s1 else s1.pantryDecode t.val p.val (wordRow org (v1.rpA % fifoDepth org)) err
      let x2 := s2.tin t.val
      .next (s2.setTin t.val (x2.setPantry p.val ((x2.pantry p.val).offerHead org)).settle)
  else .next s

/-- `FIFO_EVENT_CONSUME` (R187): every receiver of the event channel has acknowledged the pending event token. -/
def execFifoEventConsume (t : TinIx) (p : PantryIx) (s : State) : Out :=
  let x := s.tin t.val
  let v := x.pantry p.val
  if v.event ≠ 0 ∧ v.eventWait = false ∧ x.outTapped (.pantry p.val) 146 3 = true ∧ (x.outAcks (.pantry p.val) 146 3).all id = true then
    .next (s.setTin t.val (x.setPantry p.val { v with event := 0, eventWait := true }).settle)
  else .next s

/-- The stale time of a pantry in the unit of the time keeper: 10 ns × 2^`stale_exp` each (R181). -/
def staleTime (c : Nat) : Nat := pantryStaleCount c * (10 * 2 ^ pantryStaleExp c) * 2 ^ 40

/-- `STALE` (R188): raised once when the timer reaches its count with at least one word held. -/
def execStale (t : TinIx) (p : PantryIx) (s : State) : Out :=
  let x := s.tin t.val
  let c := x.pantryCtl p.val
  let v := x.pantry p.val
  if pantryFifo c && pantryStaleCount c != 0 && v.wpA != v.rpA && !v.staleFired && v.staleSince + staleTime c ≤ s.now then
    .next (s.setTin t.val (x.setPantry p.val { v.raise 0 with staleFired := true }))
  else .next s

/-- The rows of pantry `p` as its content frames give them (R182). -/
def Tin.contentRows (x : Tin) (p : Nat) : Tab (BitVec 72) :=
  let ks := (x.frames.filter (fun e => 0x8000 + 72 * p ≤ e.1 && e.1 < 0x8000 + 72 * p + 72)).map (fun e => e.1 - 0x8000 - 72 * p)
  ks.foldl (fun l k => (List.range 16).foldl (fun l i =>
    let r := 1024 * k / 72 + i
    let lo := 72 * r
    if r < 1024 then
      let f := 0x8000 + 72 * p + lo / 1024
      Tab.put (0 : BitVec 72) l r (BitVec.ofNat 72 (bits (x.frame f + x.frame (f + 1) % 2 ^ (if lo / 1024 < 71 then 1024 else 0) * 2 ^ 1024) (lo % 1024) 72))
    else l) l) []

/-- A pantry at tin release: rows from the content frames, no poison, FIFO empty; remaps stay (R179, R182). -/
def Tin.releasedPantry (x : Tin) (p : Nat) : Pantry :=
  let v := x.pantry p
  { Pantry.blank with rows := x.contentRows p, remap := v.remap, spareUsed := v.spareUsed, noSpare := v.noSpare,
                            hardFailed := v.hardFailed, unusable := v.unusable, scrubRow := v.scrubRow }

end Sys2Proof.Machine
end

