-- ==== Sys2Proof/Machine/Readback.lean ====
section
/-! DEFINITION. The state of a tin as readback words, pantry records and mixer blocks (R90–R92, R183, R229). -/

namespace Sys2Proof.Machine

/-! ### Holds (R90–R92) -/

/-- The 3 bits of one hold in its crumb's word. -/
def Tin.holdBits (x : Tin) (b c m : Nat) : Nat :=
  let h := x.hold b c m
  b2n (h.full && h.value) + b2n h.full * 2 + b2n (crumbTransparent (x.crumb b c) m) * 4

/-- The readback word of a crumb (R90). -/
def Tin.holdWord (x : Tin) (b c : Nat) : Nat :=
  2 ^ 31 + b2n (x.faults.contains (16 * b + c)) * 2 ^ 30 + b * 2 ^ 19 + c * 2 ^ 15 +
    ((List.range 4).map (fun m => x.holdBits b c m * 8 ^ m)).sum

/-- The 32,768 words of a tin, batch by batch (R91). -/
def Tin.holdBytes (x : Tin) : List Byte := (List.range 32768).flatMap (fun i => leBytes 4 (x.holdWord (i / 16) (i % 16)))

/-- Whether a word is right for crumb `i` of a state write (R92). -/
def holdWordOk (i w : Nat) : Bool :=
  bit w 31 && bits w 19 11 == i / 16 && bits w 15 4 == i % 16 && (List.range 4).all (fun m => !(bits w (3 * m) 2 == 1))

/-- The holds of crumb `i` taken from a word: `full` and `value` of every hold that is not transparent. -/
def Tin.writeHolds (x : Tin) (i w : Nat) : Tin :=
  (List.range 4).foldl (fun y m =>
    if crumbTransparent (x.crumb (i / 16) (i % 16)) m then y
    else y.setHold (i / 16) (i % 16) m { y.hold (i / 16) (i % 16) m with full := bit w (3 * m + 1), value := bit w (3 * m) }) x

/-! ### Pantries (R183) -/

/-- The width of a FIFO pointer of an organisation: n + 1. -/
def ptrWidth (org : Nat) : Nat := 11 + org

/-- Block 80 of a pantry's record. -/
def fifoBlock (ctl : Nat) (v : Pantry) : Nat := if pantryFifo ctl then v.wpA + v.rpA * 2 ^ 16 + v.event % 8 * 2 ^ 32 else 0

/-- The state record of a pantry: 81 blocks of 128 bytes. -/
def pantryBytes (ctl : Nat) (v : Pantry) : List Byte :=
  let rows := (List.range 1024).foldr (fun r acc => v.row r + acc * 2 ^ 72) 0
  let poison := (List.range 1024).foldr (fun r acc => v.rowPoison r % 256 + acc * 256) 0
  leBytes 9216 rows ++ leBytes 1024 poison ++ leBytes 128 (fifoBlock ctl v)

/-- Whether the FIFO block of a state write sets no reserved bit and no impossible pointers. -/
def fifoBlockOk (ctl w : Nat) : Bool :=
  if pantryFifo ctl then
    let n := ptrWidth (pantryOrg ctl)
    let wp := bits w 0 14
    let rp := bits w 16 14
    bits w 14 2 == 0 && bits w 30 2 == 0 && w / 2 ^ 35 == 0 && wp / 2 ^ n == 0 && rp / 2 ^ n == 0 &&
      decide ((wp + 2 ^ n - rp) % 2 ^ n ≤ fifoDepth (pantryOrg ctl))
  else w == 0

/-- A pantry with the rows, poison and FIFO state of a record. -/
def Pantry.load (v : Pantry) (ctl : Nat) (l : List Byte) : Pantry :=
  let rows := leAt l 0 9216
  let poison := leAt l 9216 1024
  let w := leAt l 10240 128
  let v1 := { v with
    rows := (List.range 1024).foldl (fun t r => Tab.put (0 : BitVec 72) t r (BitVec.ofNat 72 (bits rows (72 * r) 72))) []
    poison := (List.range 1024).foldl (fun t r => Tab.put 0 t r (bits poison (8 * r) 8)) [] }
  if pantryFifo ctl then { v1 with wpA := bits w 0 14, wpB := bits w 0 14, rpA := bits w 16 14, rpB := bits w 16 14, event := bits w 32 3 } else v1

/-! ### Mixers (R229) -/

def railCode : Rail → Nat
  | .none => 0 | .low => 1 | .high => 2
def railOf (n : Nat) : Rail := if n = 1 then .low else if n = 2 then .high else .none

/-- The 1,024-bit block of a mixer. -/
def mixerBlock (v : Mixer) : Nat :=
  ofSigned v.acc0 56 + ofSigned v.acc1 56 * 2 ^ 56 + railCode v.ovf0 * 2 ^ 112 + railCode v.ovf1 * 2 ^ 114 + ofSigned v.h1 24 * 2 ^ 116 +
    ofSigned v.h2 24 * 2 ^ 140 + ofSigned v.h3 24 * 2 ^ 164 + ofSigned v.h4 24 * 2 ^ 188 + v.counter % 2 ^ 16 * 2 ^ 212 + v.best % 2 ^ 24 * 2 ^ 228 +
    v.bestIdx % 2 ^ 32 * 2 ^ 252 + v.idx % 2 ^ 32 * 2 ^ 284 + b2n v.have_ * 2 ^ 316 + b2n v.idxSat * 2 ^ 317

def mixerBlockOk (w : Nat) : Bool := w / 2 ^ 318 == 0 && bits w 112 2 != 3 && bits w 114 2 != 3

def Mixer.load (v : Mixer) (w : Nat) : Mixer :=
  { v with
    acc0 := toSigned (bits w 0 56) 56, acc1 := toSigned (bits w 56 56) 56, ovf0 := railOf (bits w 112 2), ovf1 := railOf (bits w 114 2),
    h1 := toSigned (bits w 116 24) 24, h2 := toSigned (bits w 140 24) 24, h3 := toSigned (bits w 164 24) 24, h4 := toSigned (bits w 188 24) 24,
    counter := bits w 212 16, best := bits w 228 24, bestIdx := bits w 252 32, idx := bits w 284 32, have_ := bit w 316, idxSat := bit w 317 }

/-! ### A whole tin (R744 op 3 and 4) -/

/-- The bytes a readback of a tin takes: holds, 96 pantry records, 64 mixer blocks. -/
def readbackLen : Nat := 1134592

def Tin.readback (x : Tin) : List Byte :=
  x.holdBytes ++ (List.range 96).flatMap (fun p => pantryBytes (x.pantryCtl p) (x.pantry p)) ++
    (List.range 64).flatMap (fun q => leBytes 128 (mixerBlock (x.mixer q)))

/-- Whether every word of a state write is right. -/
def Tin.stateOk (x : Tin) (l : List Byte) : Bool :=
  (List.range 32768).all (fun i => holdWordOk i (leAt l (4 * i) 4)) &&
    (List.range 96).all (fun p => fifoBlockOk (x.pantryCtl p) (leAt l (131072 + 10368 * p + 10240) 128)) &&
    (List.range 64).all (fun q => mixerBlockOk (leAt l (1126400 + 128 * q) 128))

/-- The tin with the state of a readback's layout. -/
def Tin.loadState (x : Tin) (l : List Byte) : Tin :=
  let x1 := (List.range 32768).foldl (fun y i => y.writeHolds i (leAt l (4 * i) 4)) x
  let x2 := (List.range 96).foldl (fun y p => y.setPantry p ((y.pantry p).load (x.pantryCtl p) (slice l (131072 + 10368 * p) 10368))) x1
  (List.range 64).foldl (fun y q => y.setMixer q ((y.mixer q).load (leAt l (1126400 + 128 * q) 128))) x2

end Sys2Proof.Machine
end

