-- ==== Sys2Proof/Machine/Larder.lean ====
section
/-! DEFINITION. The larder, the hub cell pool, memory self-test and fill (R189–R209). -/

namespace Sys2Proof.Machine

/-! ### Status codes (R18) -/

def stDone : Nat := 0x00
def stDegraded : Nat := 0x01
def stBadOpcode : Nat := 0x10
def stBadField : Nat := 0x11
def stWrongState : Nat := 0x12
def stNoRights : Nat := 0x13
def stBusy : Nat := 0x14
def stRefused : Nat := 0x15
def stTimeout : Nat := 0x20
def stPoisoned : Nat := 0x21
def stAborted : Nat := 0x22
def stDebugUnsafe : Nat := 0x23
def stImageWrongDevice : Nat := 0x30
def stImageAuthFail : Nat := 0x31
def stImageIncomplete : Nat := 0x32
def stImageCorrupt : Nat := 0x33
def stImageRollback : Nat := 0x34
def stNoSpare : Nat := 0x40
def stInternal : Nat := 0xFF

/-! ### The larder -/

/-- The larder's place in the device address map (R189). -/
def larderBase : Nat := 0x2000000000
def larderSize : Nat := 0x8000000

/-- The regions of the larder (R192). -/
inductive Region where
  | secure | image | trace | general
deriving DecidableEq, Repr

/-- Where the regions IMAGE, TRACE and GENERAL begin, as offsets (R192, R194). -/
def State.imageBase (s : State) : Nat := s.fget LRD_LAYOUT.secure_mib * 0x100000
def State.traceBase (s : State) : Nat := s.imageBase + s.fget LRD_LAYOUT.image_mib * 0x100000
def State.generalBase (s : State) : Nat := s.traceBase + s.fget LRD_LAYOUT.trace_mib * 0x100000

def State.region (s : State) (off : Nat) : Region :=
  if off < s.imageBase then .secure else if off < s.traceBase then .image else if off < s.generalBase then .trace else .general

/-- Whether offset `off` lies in the range of a locked firmware blob, which takes writes of domain 12 only (R623). -/
def Mgc.inBlob (m : Mgc) (off : Nat) : Bool := m.blob.any (fun b => decide (b.1 ≤ off ∧ off < b.1 + b.2))

/-- Whether domain `k` may read (or write) a region of the larder whose right in `LRD_RIGHTS` is `right` (R192, R195); `blob` says
that the offset lies in a locked firmware blob. -/
def Region.may (right k : Nat) (write blob : Bool) : Region → Bool
  | .secure => false
  | .image => k == 13 || (k == 12 && !write)
  | .trace => (k == 12 || k == 15) && !write
  | .general => !(write && k != 12 && blob) && (if write then right == 2 else right == 1 || right == 2)

/-- Whether domain `k` may read (or write) offset `off` of the larder (R192, R195, R623). -/
def State.larderMay (s : State) (k off : Nat) (write : Bool) : Bool :=
  (s.region off).may (s.fget (LRD_RIGHTS.dom k)) k write (s.mgc.inBlob off)

/-- The sizes and alignment of a larder access (R190). -/
def larderShape (off n : Nat) : Bool := (n == 4 || n == 8 || n == 16 || n == 32 || n == 64) && off % n == 0

def larderBank (off : Nat) : Nat := off / 64 % 16
def larderRow (off : Nat) : Nat := off / 16384

def State.bank (s : State) (b : Nat) : Bank := Tab.get .fresh s.larder.banks b
def State.setBank (s : State) (b : Nat) (v : Bank) : State :=
  { s with larder := { s.larder with banks := Tab.put .fresh s.larder.banks b v } }

/-- The poison mark of the 8-byte word at an offset, and the mark set. -/
def Larder.poisoned (l : Larder) (off : Nat) : Bool := Tab.get false l.poison (off / 8)
def Larder.setPoison (l : Larder) (off : Nat) (p : Bool) : Larder := { l with poison := Tab.put false l.poison (off / 8) p }

/-- Every word of [off, off + n) marked. -/
def Larder.markWords (l : Larder) (off n : Nat) (p : Bool) : Larder :=
  (List.range (ceilDiv n 8)).foldl (fun a i => a.setPoison (off + 8 * i) p) l

/-- Whether some word of [off, off + n) is poisoned. -/
def Larder.anyPoison (l : Larder) (off n : Nat) : Bool :=
  (List.range (ceilDiv n 8)).any (fun i => l.poisoned (off + 8 * i))

def Larder.read (l : Larder) (off n : Nat) : List Byte := readBytes 0 l.mem off n
def Larder.write (l : Larder) (off : Nat) (d : List Byte) : Larder := { l with mem := writeBytes 0 l.mem off d }

/-- The memory instances of R209 beside the pantries. -/
def instBank (b : Nat) : Nat := 10000 + b
def instPool : Nat := 10100
def instRouter (r : Nat) : Nat := 10200 + r
def instChannel (c : Nat) : Nat := 10400 + c

/-- What the decode of a larder word does (R175–R178 as R191 applies them): a persistent or uncorrectable error spares the
word's row while one of the bank's 32 spare rows is free; the bits of an uncorrectable word are from then on free (assumption 4). -/
def State.larderDecode (s : State) (off : Nat) (err : MemErr) : State :=
  let b := larderBank off
  let r := larderRow off
  let k := s.bank b
  let fails := fun (s : State) =>
    if k.noSpare.contains r then s
    else if k.remap.length < 32 then (s.setBank b { k with remap := r :: k.remap }).post 0x0114 2 none b r
    else (s.setBank b { k with noSpare := r :: k.noSpare }).post 0x0115 2 none b r
  match err with
  | .clean => s
  | .corrected => (s.fsat LRD_ERR.corr 1).countCorr (instBank b)
  | .persistent => fails ((s.fsat LRD_ERR.corr 1).countCorr (instBank b))
  | .uncorr =>
    let f := s.takeFree 8
    fails ((({ f.2 with larder := (s.larder.write (off / 8 * 8) ((List.range 8).map (fun i => Config.freeByte (f.1 + i)))).setPoison off true }).fsat
      LRD_ERR.uncorr 1).post 0x0113 3 none b r)

/-- A larder read by a domain (R190, R193, R196): the answer and the state. -/
def State.larderRead (s : State) (off n k : Nat) (err : MemErr) : Answer × State :=
  if !larderShape off n then (⟨stBadField, [], false⟩, s)
  else if !s.larderMay k off false then (⟨stNoRights, List.replicate n 0, false⟩, s.fsat LRD_ERR.denied 1)
  else if (s.bank (larderBank off)).lost then
    (⟨stDone, (List.range n).map (fun i => Config.freeByte (s.free + i)), true⟩, (s.takeFree n).2)
  else
    let s1 := s.larderDecode off err
    (⟨stDone, s1.larder.read off n, s1.larder.anyPoison off n⟩, s1)

/-- A larder write by a domain (R190, R193, R196, R286). -/
def State.larderWrite (s : State) (off k : Nat) (d : List Byte) (poison : Bool) (err : MemErr) : Nat × State :=
  let n := d.length
  if !larderShape off n then (stBadField, s)
  else if !s.larderMay k off true then (stNoRights, s.fsat LRD_ERR.denied 1)
  else if (s.bank (larderBank off)).lost then (stPoisoned, s)
  else
    let s1 := if n < 8 then s.larderDecode off err else s
    if n < 8 && s1.larder.poisoned off then (stPoisoned, s1)
    else (stDone, { s1 with larder := (s1.larder.write off d).markWords off n poison })

/-- `LARDER_READ` (R190). -/
def execLarderRead (addr bytes : Nat) (dom : Dom) (err : MemErr) (s : State) : Out :=
  if larderBase ≤ addr ∧ addr < larderBase + larderSize then
    let r := s.larderRead (addr - larderBase) bytes dom.val err
    .next { r.2 with answer := some r.1 }
  else .next { s with answer := some ⟨stBadField, [], false⟩ }

/-- `LARDER_WRITE` (R190). -/
def execLarderWrite (addr : Nat) (data : List Byte) (dom : Dom) (posted : Bool) (poison : Bool) (err : MemErr) (s : State) : Out :=
  if larderBase ≤ addr ∧ addr < larderBase + larderSize then
    let r := s.larderWrite (addr - larderBase) dom.val data poison err
    .next { r.2 with answer := if posted then none else some ⟨r.1, [], false⟩ }
  else .next { s with answer := if posted then none else some ⟨stBadField, [], false⟩ }

/-- `LARDER_SCRUB` (R191): the bank's next 64-byte line is decoded. -/
def execLarderScrub (bank : Fin 16) (err : MemErr) (s : State) : Out :=
  let k := s.bank bank.val
  let s1 := s.larderDecode (k.scrubRow * 1024 + bank.val * 64) err
  .next (s1.setBank bank.val { s1.bank bank.val with scrubRow := (k.scrubRow + 1) % 131072 })

/-- `LARDER_CHECKER_TEST` (R196): what the self-tests of the bank's two checkers find. -/
def State.checkerTest (s : State) (b : Nat) (activeOk standbyOk disagree : Bool) : State :=
  let k := s.bank b
  let a := k.activeOk && activeOk
  let y := k.standbyOk && standbyOk
  if k.lost then s
  else if !a && !y then (s.setBank b { k with activeOk := false, standbyOk := false, lost := true }).post 0x010B 4 none b
  else if !a then (s.setBank b { k with activeOk := true, standbyOk := false }).post 0x010A 2 none b 0
  else if k.standbyOk && !y then (s.setBank b { k with standbyOk := false }).post 0x010A 2 none b 1
  else if disagree then (s.fsat LRD_ERR.corr 1).countCorr (instBank b)
  else s

def execLarderCheckerTest (bank : Fin 16) (activeOk standbyOk disagree : Bool) (s : State) : Out :=
  .next (s.checkerTest bank.val activeOk standbyOk disagree)

/-! ### The hub cell pool (R197–R203) -/

/-- Whether a list id is one of R198, the free list apart. -/
def poolListOk (l : Nat) : Bool := l < 2048 + 128

def Pool.entries (p : Pool) (l : Nat) : List Nat := Tab.get [] p.lists l

/-- A list fault (R200): emptied, reported and marked for reclaim; the owning queue's error is the caller's. -/
def State.poolFault (s : State) (l : Nat) : State :=
  let n := (s.pool.entries l).length
  ({ s with pool := { s.pool with lists := Tab.put [] s.pool.lists l [], marked := l :: s.pool.marked, markedCells := s.pool.markedCells + n } }).post
    0x010C 3 none l

/-- The cell at the head of the free list is retired (R203). -/
def State.retireCell (s : State) : State :=
  ((s.fset POOL_STAT.free (s.fget POOL_STAT.free - 1)).fsat POOL_STAT.retired 1).post 0x010E 2 none 0xFFF

/-- A push (R199–R203): allocate from the free list, waiting while it is empty or being rebuilt; `upset` says that the list's
two copies disagree, `ownerErr` that the allocated cell's owner is uncorrectable. -/
def State.poolPush (s : State) (l e : Nat) (upset ownerErr : Bool) : State :=
  if l = 0xFFF then (if upset then { s with pool := { s.pool with freeBroken := true } } else s)
  else if !poolListOk l || s.pool.lost || s.pool.freeBroken then s
  else
    let s1 := if ownerErr && s.fget POOL_STAT.free != 0 then s.retireCell else s
    if s1.fget POOL_STAT.free = 0 then s1.fsat POOL_STAT.empty_waits 1
    else if upset then s1.poolFault l
    else
      ({ s1 with pool := { s1.pool with lists := Tab.put [] s1.pool.lists l (s1.pool.entries l ++ [e]) } }).fset
        POOL_STAT.free (s1.fget POOL_STAT.free - 1)

/-- A pop (R199, R200, R203): the head leaves the list and its cell returns to the tail of the free list, unless its owner is
uncorrectable, when the cell is retired. -/
def State.poolPop (s : State) (l : Nat) (upset nextErr ownerErr : Bool) : State :=
  if !poolListOk l || s.pool.lost then s
  else if upset || nextErr then s.poolFault l
  else
    match s.pool.entries l with
    | [] => s
    | _ :: r =>
      let s1 := { s with pool := { s.pool with lists := Tab.put [] s.pool.lists l r } }
      if ownerErr then (s1.fsat POOL_STAT.retired 1).post 0x010E 2 none l
      else s1.fset POOL_STAT.free (s.fget POOL_STAT.free + 1)

/-- `POOL_SWEEP` (R201, R202): the cells of marked lists are freed and the marks cleared; a broken free list is rebuilt. -/
def execPoolSweep (s : State) : Out :=
  let s1 := ({ s with pool := { s.pool with marked := [], markedCells := 0, freeBroken := false } }).fset POOL_STAT.free
    (s.fget POOL_STAT.free + s.pool.markedCells)
  .next (if s.pool.freeBroken then s1.post 0x010D 1 none 0xFFF else s1)

/-! ### Self-test, fill, corrected errors (R204–R206, R209) -/

/-- A memory instance's corrected errors since its last report are posted, at most once per second (R209). -/
def execMemCorrected (inst : Nat) (s : State) : Out :=
  let n := Tab.get 0 s.corr inst
  let last := (Tab.get (0, 0) s.events.limited (0x10000 + inst)).1
  if n ≠ 0 ∧ (last = 0 ∨ last + oneSecond ≤ s.now + 1) then
    let s1 := ({ s with corr := Tab.put 0 s.corr inst 0 }).post 0x010F 1 (if inst < 9984 then some (inst / 96 / 13) else none) inst n
    .next { s1 with events := { s1.events with limited := Tab.put (0, 0) s1.events.limited (0x10000 + inst) (s.now + 1, 0) } }
  else .next s

/-- A tin after the self-test and fill of its memories; `bad` says that a checker of its pantries failed. -/
def Tin.filled (x : Tin) (bad : Bool) : Tin :=
  { x with
    pantries := Tab.mapVals .blank (fun v => { Pantry.blank with
      remap := v.remap, spareUsed := v.spareUsed, noSpare := v.noSpare, hardFailed := v.hardFailed }) x.pantries
    mixers := [], holds := [], unhealthy := x.unhealthy || bad }

/-- Every tin of a die after the self-test and fill (R204–R206); a tin with a failed pantry checker is reported to the spare manager. -/
def State.fillTins (s : State) (d : Nat) (bad : List (Fin 13)) : State :=
  (List.range 13).foldl (fun a t => a.setTin (13 * d + t) ((a.tin (13 * d + t)).filled (bad.any (fun b => b.val == t)))) s

/-- The bench links of a die that has come up read TRAINING. -/
def State.trainLinks (s : State) (d : Nat) : State :=
  (List.range 4).foldl (fun a k => if a.fget (BL_STAT.state d k) = 0 then a.fset (BL_STAT.state d k) 1 else a) s

/-- Both ends of seam `k` read TRAINING (R160). -/
def State.trainSeam (s : State) (k : Nat) : State := (s.fset (SEAM_STAT.state k 0) 1).fset (SEAM_STAT.state ((k + 1) % 8) 1) 1

/-- A die that has come up trains its seams to the dies that have completed theirs (R160). -/
def State.trainSeams (s : State) (d : Nat) : State :=
  let up := fun (k : Nat) => s.fget (DIE_STAT.state k) == 2 || s.fget (DIE_STAT.state k) == 4
  let s1 := if up ((d + 1) % 8) then s.trainSeam d else s
  if up ((d + 7) % 8) then s1.trainSeam ((d + 7) % 8) else s1

/-- A die after the self-test and fill of its memories: a starting die runs. -/
def State.fillDie (s : State) (d : Nat) (bad : List (Fin 13)) : State :=
  let s1 := s.fillTins d bad
  let s2 := if s1.fget (DIE_STAT.state d) = 1 then s1.fset (DIE_STAT.state d) 2 else s1
  (s2.trainLinks d).trainSeams d

/-- The hub's memories after self-test and fill: the larder zero, each bank with the checkers that passed, the pool fresh with
`poolOk` working checkers; with none, every queue stays DISABLED (R205, R206). -/
def State.fillHub (s : State) (badBanks : List (Fin 16)) (poolOk : Fin 3) : State :=
  let s1 := { s with larder := { Larder.empty with banks := s.larder.banks }, pool := { Pool.fresh with checkers := poolOk.val, lost := poolOk.val == 0 } }
  let s2 := badBanks.foldl (fun a b => a.checkerTest b.val false true false) s1
  let s3 := (s2.fset POOL_STAT.free 16384).fset POOL_STAT.retired 0
  if poolOk.val = 0 then s3.post 0x0111 4 none 0 else s3

/-- `SELF_TEST_AND_FILL` (R204–R206): of a fabric die that starts or returns, or of the hub at start-up. -/
def execSelfTestAndFill (die : Option DieIx) (badTins : List (Fin 13)) (badBanks : List (Fin 16)) (poolOk : Fin 3) (s : State) : Out :=
  match die with
  | some d => if s.fget (DIE_STAT.state d.val) = 1 ∨ s.fget (DIE_STAT.state d.val) = 4 then .next (s.fillDie d.val badTins) else .next s
  | none => if s.powerGood && s.fbit CLK_STAT.a_locked && !s.cfg.ready then .next (s.fillHub badBanks poolOk) else .next s

end Sys2Proof.Machine
end

