-- ==== Sys2Proof/Machine/Operands.lean ====
section
/-! DEFINITION. The device address map, node ids and the shapes of requests (R39–R46, R269–R277, R308, R309, R334). -/

namespace Sys2Proof.Machine

/-! ### Node ids (R39–R41) -/

/-- The node of tin role `r` on die `d`. -/
def roleNode (d r : Nat) : Nat := (d + 1) * 256 + r
/-- The memory port of channel `c`. -/
def memNode (c : Nat) : Nat := (c / 2 + 1) * 256 + 0x10 + c % 2
/-- The register port of die `d`. -/
def dieRegNode (d : Nat) : Nat := (d + 1) * 256 + 0x40
def nodeHubReg : Nat := 0
def nodeLarder : Nat := 1
def nodeHqe : Nat := 2
def nodeMgc : Nat := 3
def nodeSec : Nat := 4
def nodeDbg : Nat := 5
def nodeCfg : Nat := 6

/-- What a node id names; none for a reserved die code or local node (R39–R42). -/
inductive Node where
  | role (d r : Nat)
  | mem (c : Nat)
  | mac (d : Nat)
  | stream (d p : Nat)
  | dieReg (d : Nat)
  | hub (n : Nat)
deriving DecidableEq, Repr

def nodeOf (id : Nat) : Option Node :=
  let l := id % 256
  match id / 256 with
  | 0 => if l ≤ 6 then some (.hub l) else none
  | k + 1 =>
    if 8 ≤ k then none
    else if l ≤ 12 then some (.role k l)
    else if l = 0x10 ∨ l = 0x11 then some (.mem (2 * k + (l - 0x10)))
    else if l = 0x20 then some (.mac k)
    else if 0x28 ≤ l ∧ l ≤ 0x2F then some (.stream k (l - 0x28))
    else if l = 0x40 then some (.dieReg k)
    else none

/-! ### DRAM addresses (R303, R308, R309, R332, R334) -/

/-- The place of a line in a channel. -/
structure LinePos where
  ch : Nat
  bank : Nat
  col : Nat
  row : Nat
deriving DecidableEq, Repr

/-- R308: the split of a device address under mapping order `o`. -/
def mapAddr (o a : Nat) : LinePos :=
  match o with
  | 0 => ⟨bits a 6 4, bits a 16 4, bits a 10 6, a / 2 ^ 20⟩
  | 1 => ⟨bits a 10 4, bits a 16 4, bits a 14 2 * 16 + bits a 6 4, a / 2 ^ 20⟩
  | 2 => ⟨bits a 6 4, bits a 10 4, bits a 14 6, a / 2 ^ 20⟩
  | _ => ⟨bits a 10 4 ^^^ bits a 20 4, bits a 16 4 ^^^ bits a 24 4, bits a 14 2 * 16 + bits a 6 4, a / 2 ^ 20⟩

/-- R309: the local line index. -/
def LinePos.index (p : LinePos) : Nat := p.row * 1024 + p.bank * 64 + p.col

/-- The line of channel `c` with local index `i` under mapping order `o`: the device address it has (the inverse of R308). -/
def addrOf (o c i : Nat) : Nat :=
  let row := i / 1024
  let bank := i / 64 % 16
  let col := i % 64
  match o with
  | 0 => row * 2 ^ 20 + bank * 2 ^ 16 + col * 2 ^ 10 + c * 64
  | 1 => row * 2 ^ 20 + bank * 2 ^ 16 + col / 16 * 2 ^ 14 + c * 2 ^ 10 + col % 16 * 64
  | 2 => row * 2 ^ 20 + col * 2 ^ 14 + bank * 2 ^ 10 + c * 64
  | _ => row * 2 ^ 20 + (bank ^^^ (row / 16 % 16)) * 2 ^ 16 + col / 16 * 2 ^ 14 + (c ^^^ (row % 16)) * 2 ^ 10 + col % 16 * 64

/-- The address width A of R308: 35, 36 or 37 for 2, 4 or 8 GiB per channel. -/
def State.addrWidth (s : State) : Nat := 35 + s.fget (MEM_CFG.density 0)
def State.mapOrder (s : State) : Nat := s.fget (MEM_CFG.order 0)
def State.reserveOn (s : State) : Bool := s.fbit (MEM_CFG.reserve 0)

/-- The usable DRAM range (R44, R332): 2^A, less 1/16 when the reserve is enabled. -/
def State.usable (s : State) : Nat := if s.reserveOn then 15 * 2 ^ (s.addrWidth - 4) else 2 ^ s.addrWidth

/-- The number of usable granules. -/
def State.granules (s : State) : Nat := s.usable / 2 ^ 30

/-- The state of a channel (R327). -/
def State.chState (s : State) (c : Nat) : Nat := s.fget (MEM_STAT.state c)
def State.chan (s : State) (c : Nat) : ChanSt := Tab.get .fresh s.dram.chans c
def State.setChan (s : State) (c : Nat) (v : ChanSt) : State :=
  { s with dram := { s.dram with chans := Tab.put .fresh s.dram.chans c v } }

/-- The survivor and the local index that an evacuated line of channel `c` with local index `i` moves to (R334). -/
def evacTo (A c i : Nat) : Nat × Nat :=
  let k := i % 15
  (if k < c then k else k + 1, 15 * 2 ^ (A - 14) + i / 15)

/-- The channel that now holds the line at address `a`, with its local index there (R327, R334, R335). -/
def State.holder (s : State) (a : Nat) : Nat × Nat :=
  let p := mapAddr s.mapOrder a
  match s.dram.evac with
  | some (c, ptr) => if p.ch = c ∧ p.index < ptr then evacTo s.addrWidth c p.index else (p.ch, p.index)
  | none => (p.ch, p.index)

/-- The channel whose memory port an injection interface names for address `a` (R277, R336). -/
def State.portOf (s : State) (a : Nat) : Nat :=
  let p := mapAddr s.mapOrder a
  match s.dram.remap with
  | some c => if p.ch = c then (evacTo s.addrWidth c p.index).1 else p.ch
  | none => p.ch

/-! ### The device address map (R43, R46, R277) -/

/-- What a device address names. -/
inductive Place where
  | dram
  | larder (off : Nat)
  | tin (d r : Nat)
  | reg (off : Nat)
deriving DecidableEq, Repr

def State.place (s : State) (a : Nat) : Option Place :=
  if a < 0x2000000000 then (if a < s.usable then some .dram else none)
  else if a < larderBase + larderSize then some (.larder (a - larderBase))
  else if 0x3000000000 ≤ a ∧ a < 0x3080000000 then
    (if a % 0x10000000 / 0x1000000 ≤ 12 then some (.tin ((a - 0x3000000000) / 0x10000000) (a % 0x10000000 / 0x1000000)) else none)
  else if 0x4000000000 ≤ a ∧ a < 0x4001000000 then
    (if a - 0x4000000000 < 0xD0000 ∨ (0x4000800000 ≤ a ∧ a < 0x4000C00000) then some (.reg (a - 0x4000000000)) else none)
  else none

/-- The node an injection interface sets `dst` to (R277). -/
def State.dstOf (s : State) (a : Nat) : Option Nat :=
  match s.place a with
  | some .dram => some (memNode (s.portOf a))
  | some (.larder _) => some nodeLarder
  | some (.tin d r) => some (roleNode d r)
  | some (.reg off) => some (match dieOfOff off with | some d => dieRegNode d | none => nodeHubReg)
  | none => none

end Sys2Proof.Machine

namespace Sys2Proof

open Machine

/-! ### Requests (R271, R272) -/

def PCmd.posted : PCmd → Bool
  | .writePosted | .message | .response => true
  | _ => false

def PCmd.atomic : PCmd → Bool
  | .atomicAdd | .atomicSwap | .atomicCas => true
  | _ => false

/-- Data units of a request (R271). -/
def Packet.units (p : Packet) : Nat :=
  match p.cmd with
  | .read => 0
  | .atomicAdd | .atomicSwap | .atomicCas => 1
  | .write | .writePosted | .message => ceilDiv p.bytes 32
  | .response => ceilDiv p.data.length 32

/-- The size and alignment rules of R272; `data` holds the payload the `units` of the request carry. -/
def Packet.shapeOk (p : Packet) : Bool :=
  match p.cmd with
  | .read => 1 ≤ p.bytes && p.bytes ≤ 512 && p.addr % 512 + p.bytes ≤ 512 && p.data.isEmpty
  | .write | .writePosted => 1 ≤ p.bytes && p.bytes ≤ 512 && p.addr % 512 + p.bytes ≤ 512 && p.data.length == p.bytes
  | .atomicAdd | .atomicSwap => (p.bytes == 4 || p.bytes == 8) && p.addr % p.bytes == 0 && p.data.length == p.bytes
  | .atomicCas => (p.bytes == 4 || p.bytes == 8) && p.addr % p.bytes == 0 && p.data.length == 8 + p.bytes
  | .message => p.bytes ≤ 512 && p.data.length == p.bytes
  | .response => true

/-- The data bytes a response to `p` carries (R271). -/
def Packet.respBytes (p : Packet) : Nat :=
  match p.cmd with
  | .read => p.bytes
  | .atomicAdd | .atomicSwap | .atomicCas => p.bytes
  | _ => 0

/-- R274: the new value an atomic stores over `old`. -/
def Machine.atomicNew (cmd : PCmd) (bytes : Nat) (data : List Byte) (old : Nat) : Nat :=
  let v := leAt data 0 bytes
  match cmd with
  | .atomicAdd => (old + v) % 2 ^ (8 * bytes)
  | .atomicSwap => v
  | .atomicCas => if old = v then leAt data 8 bytes else old
  | _ => old

/-- R273: the response of node `src` to request `p`. -/
def Packet.reply (p : Packet) (src status detail : Nat) (data : List Byte) (poison proof : Bool) : Packet :=
  { dst := p.src, src := src, tag := p.tag, cmd := .response, prio := p.prio, domain := p.domain, addr := p.addr,
    bytes := p.bytes, epoch := p.epoch, data := data, proof := proof, poison := poison, notice := false,
    status := status, detail := detail }

/-- The reply that carries no effect: zero data that is not poisoned where data is expected (R46, R348). -/
def Packet.refuse (p : Packet) (src status detail : Nat) : Packet :=
  p.reply src status detail (List.replicate p.respBytes 0) false true

/-- R269: the header unit of a packet. -/
def Machine.pcmdCode : PCmd → Nat
  | .read => 0 | .write => 1 | .writePosted => 2 | .atomicAdd => 3 | .atomicSwap => 4 | .atomicCas => 5
  | .response => 6 | .message => 7

def Packet.header (p : Packet) : BitVec 256 :=
  BitVec.ofNat 256 (p.dst % 2 ^ 12 + p.src % 2 ^ 12 * 2 ^ 12 + p.tag % 2 ^ 12 * 2 ^ 24 + pcmdCode p.cmd * 2 ^ 36
    + p.units % 2 ^ 5 * 2 ^ 40 + p.prio % 4 * 2 ^ 45 + p.domain % 16 * 2 ^ 47 + b2n p.proof * 2 ^ 51 + b2n p.poison * 2 ^ 52
    + b2n p.notice * 2 ^ 53 + p.addr % 2 ^ 40 * 2 ^ 56 + p.bytes % 2 ^ 10 * 2 ^ 96 + p.status % 2 ^ 8 * 2 ^ 112
    + p.epoch % 2 ^ 16 * 2 ^ 120 + p.detail % 2 ^ 16 * 2 ^ 136)

/-- R270: data unit `u` of a packet, byte j at bits [8j + 7 : 8j]. -/
def Packet.unit (p : Packet) (u : Nat) : BitVec 256 := BitVec.ofNat 256 (leAt p.data (32 * u) 32)

end Sys2Proof
end

