-- ==== Sys2Proof/Machine/Times.lean ====
section
/-! DEFINITION. CRC-32, time values (R14), and the status register of a lane. -/

namespace Sys2Proof.Machine

/-- The CRC-32 of IEEE 802.3, bit-reflected, one byte at a time. -/
def crcBit : Nat → Nat → Nat
  | 0, c => c
  | n + 1, c => crcBit n (if c % 2 = 1 then c / 2 ^^^ 0xEDB88320 else c / 2)

def crc32 (l : List Byte) : Nat := l.foldl (fun c b => crcBit 8 (c ^^^ b.toNat)) 0xFFFFFFFF ^^^ 0xFFFFFFFF

/-! ### Time (R14): `now` counts 2^-40 ns -/

def timeSec (t : Nat) : Nat := t / oneSecond
def timeNs (t : Nat) : Nat := t / 2 ^ 40 % 1000000000
def timeFrac (t : Nat) : Nat := t % 2 ^ 40 / 2 ^ 24
/-- The 96-bit word of a time value. -/
def timeWord (t : Nat) : Nat := timeFrac t + timeNs t * 2 ^ 16 + timeSec t % 2 ^ 48 * 2 ^ 48
/-- The internal time a 96-bit word names. -/
def timeOf (w : Nat) : Nat := (bits w 48 48 * 1000000000 + bits w 16 32) * 2 ^ 40 + bits w 0 16 * 2 ^ 24

/-- A lane's status register: lanes 0–63 long, 64–95 media. -/
def laneState (l : Nat) : Fld := if l < 64 then LL_STAT.state l else ML_STAT.state (l - 64)

end Sys2Proof.Machine
end

