-- ==== Sys2Proof/Machine/Macq.lean ====
section
/-! DEFINITION. MAC ports over their lanes, counters, and the MAC control queues (R495, R505, R509, R511, R520–R524). -/

namespace Sys2Proof.Machine

/-! ### Registers of a lane -/

/-- The die of a lane: lanes 0–63 long, 64–95 media (R453). -/
def laneDie (l : Nat) : Nat := if l < 64 then l / 8 else (l - 64) / 4

/-- The control register of a lane and its three followers (R478–R481). -/
def laneBase (l : Nat) : Nat := if l < 64 then LL_CTL l else ML_CTL (l - 64)
def laneReqState (l : Nat) : Fld := ⟨laneBase l, 29, 3⟩
def laneRate (l : Nat) : Fld := ⟨laneBase l, 24, 5⟩
def laneLoopback (l : Nat) : Fld := ⟨laneBase l, 22, 2⟩
def laneHold (l : Nat) : Fld := ⟨laneBase l, 20, 1⟩
def laneGen (l : Nat) : Fld := ⟨laneBase l, 16, 4⟩
def laneChk (l : Nat) : Fld := ⟨laneBase l, 12, 4⟩
def laneInjRate (l : Nat) : Fld := ⟨laneBase l, 6, 6⟩
def laneSignal (l : Nat) : Fld := ⟨laneBase l + 4, 28, 1⟩
def laneLocked (l : Nat) : Fld := ⟨laneBase l + 4, 27, 1⟩
def laneChkLocked (l : Nat) : Fld := ⟨laneBase l + 4, 26, 1⟩
def laneEyeLow (l : Nat) : Fld := ⟨laneBase l + 4, 25, 1⟩
def laneAtBound (l : Nat) : Fld := ⟨laneBase l + 4, 24, 1⟩
def laneEye (l : Nat) : Fld := ⟨laneBase l + 4, 16, 8⟩
def laneFails (l : Nat) : Fld := ⟨laneBase l + 4, 0, 8⟩
def lanePre2 (l : Nat) : Fld := ⟨laneBase l + 8, 28, 4⟩
def lanePre1 (l : Nat) : Fld := ⟨laneBase l + 8, 22, 6⟩
def lanePost1 (l : Nat) : Fld := ⟨laneBase l + 8, 16, 6⟩
def laneCtle (l : Nat) : Fld := ⟨laneBase l + 8, 10, 6⟩
def laneErrs (l : Nat) : Fld := ⟨laneBase l + 12, 0, 32⟩

/-! ### Ports and their lanes (R495, R505, R509, R511) -/

/-- A row of R495: lanes, rate, the ports that may take the mode, the `fec` codes allowed and the channels g. -/
structure MacMode where
  lanes : Nat
  rate : Nat
  ports : List Nat
  fec : List Nat
  g : Nat
deriving DecidableEq, Repr

def macMode : Nat → Option MacMode
  | 1 => some ⟨1, 0, List.range 12, [0], 2⟩
  | 2 => some ⟨1, 1, List.range 12, [0, 1], 5⟩
  | 3 => some ⟨1, 2, List.range 8, [2], 12⟩
  | 4 => some ⟨4, 1, [0, 4], [1], 24⟩
  | 5 => some ⟨2, 2, [0, 2, 4, 6], [2], 24⟩
  | 6 => some ⟨1, 3, List.range 8, [2], 24⟩
  | 7 => some ⟨4, 2, [0, 4], [2], 48⟩
  | 8 => some ⟨2, 3, [0, 2, 4, 6], [2], 48⟩
  | 9 => some ⟨8, 2, [0], [2], 96⟩
  | 10 => some ⟨4, 3, [0, 4], [2], 96⟩
  | 11 => some ⟨8, 3, [0], [2], 192⟩
  | 12 => some ⟨1, 4, List.range 8, [0], 24⟩
  | _ => none

/-- Data streams and rate codes of an SDI standard (R505). -/
def sdiStreams (std : Nat) : Nat := [2, 2, 4, 8, 16].getD std 0
def sdiRates (std : Nat) : List Nat := ([[8, 9], [10, 11], [10, 11], [12, 13], [14, 15]] : List (List Nat)).getD std []

/-- Links of the SDI interface that port 8 + m leads (R509). -/
def sdiLinks (link : Nat) : Nat := match link with | 0 => 1 | 1 => 2 | _ => 4

/-- The lanes, allowed rates, allowed FEC and channels that a value of a port's mode, with its SDI configuration, asks for. -/
def portNeeds (d p mode std link : Nat) : Option (List Nat × List Nat × List Nat × Nat) :=
  if mode = 13 then
    if 8 ≤ p ∧ p < 12 then
      let n := sdiLinks link
      some ((List.range n).map (fun i => 64 + 4 * d + (p - 8) + i), sdiRates std, [0], n * sdiStreams std + 1)
    else none
  else
    match macMode mode with
    | some m =>
      if m.ports.contains p then
        some (if p < 8 then (List.range m.lanes).map (fun i => 8 * d + p + i) else [64 + 4 * d + (p - 8)], [m.rate], m.fec, m.g)
      else none
    | none => none

def State.portMode (s : State) (d p : Nat) : Nat := s.fget (MAC_PORT_CFG.mode d p)

/-- What port p of a die needs as it is configured. -/
def State.portUses (s : State) (d p : Nat) : Option (List Nat × List Nat × List Nat × Nat) :=
  portNeeds d p (s.portMode d p) (if 8 ≤ p then s.fget (SDI_CFG.std d (p - 8)) else 0) (if 8 ≤ p then s.fget (SDI_CFG.link d (p - 8)) else 0)

def State.portLanes (s : State) (d p : Nat) : List Nat := match s.portUses d p with | some u => u.1 | none => []
def State.portChans (s : State) (d p : Nat) : Nat := match s.portUses d p with | some u => u.2.2.2 | none => 0

/-- Every lane ACTIVE at the mode's rate and carrying mission data (R474, R495, R505). -/
def State.portReady (s : State) (d p : Nat) : Bool :=
  s.fbit (MAC_PORT_CFG.enable d p) &&
    match s.portUses d p with
    | some (ls, rates, _, _) => ls.all (fun l => s.fget (laneState l) == 0 && rates.contains (s.fget (laneRate l)) && s.fget (laneGen l) == 0)
    | none => false

def State.portUp (s : State) (d p : Nat) : Bool := s.fbit (MAC_PORT_CFG.up d p)

/-! ### Counters (R523, R524) -/

def State.mport (s : State) (d p : Nat) : PortSt := Tab.get .fresh s.mac.ports (12 * d + p)
def State.setMport (s : State) (d p : Nat) (v : PortSt) : State := { s with mac := { s.mac with ports := Tab.put .fresh s.mac.ports (12 * d + p) v } }

/-- Counters whose count is an error or a drop (R524). -/
def statIsErr (p i : Nat) : Bool := if p < 8 then [2, 3, 4, 5, 8, 9, 11, 12, 14, 16].contains i else [2, 3, 4, 5, 8, 9, 11, 12, 14, 16].contains i

/-- `n` added to counter `i` of a port's statistics. -/
def State.stat (s : State) (d p i n : Nat) : State :=
  let v := s.mport d p
  let s1 := s.setMport d p { v with stats := Tab.mod 0 v.stats i (fun x => (x + n) % 2 ^ 64) }
  if statIsErr p i && n != 0 then s1.fset (MAC_ERR.port_err d) (setBit (s1.fget (MAC_ERR.port_err d)) p true) else s1

/-! ### Control queues (R520–R522) -/

/-- The larder offset of the block of a die's MAC (R520). -/
def State.macBlock (s : State) (d : Nat) : Nat := s.fget (MAC_MEM_BASE.block d) * 2 ^ 18
def State.macOn (s : State) (d : Nat) : Bool := s.fbit (MAC_MEM_BASE.enable d)

/-- The pool list of a control queue (R198). -/
def cqList (d k : Nat) : Nat := 2048 + 16 * d + k

def State.cq (s : State) (d k : Nat) : Cq := Tab.get .fresh s.mac.cqs (16 * d + k)
def State.setCq (s : State) (d k : Nat) (v : Cq) : State := { s with mac := { s.mac with cqs := Tab.put .fresh s.mac.cqs (16 * d + k) v } }
def State.cqError (s : State) (d k : Nat) : Bool := bit (s.fget (MAC_CQ_STAT.error d)) k

/-- An entry of a control queue without its phase bit (R521). -/
def cqEntry (type port tag arg time : Nat) : Nat :=
  arg % 2 ^ 32 * 2 ^ 128 + tag % 2 ^ 16 * 2 ^ 112 + port % 256 * 2 ^ 104 + type % 256 * 2 ^ 96 + time % 2 ^ 96

/-- An entry written at the tail of the ring; the phase turns over when the tail returns to entry 0 (R414). -/
def State.cqWrite (s : State) (d k e : Nat) : State :=
  let q := s.cq d k
  let s1 := (s.larderWrite (s.macBlock d + 0x1000 + 0x1000 * k + 64 * q.tail) 12 (leBytes 64 (e + b2n q.phase * 2 ^ 160)) false .clean).2
  s1.setCq d k { q with tail := (q.tail + 1) % 64, phase := if q.tail = 63 then !q.phase else q.phase }

/-- Whether the ring has room and the block is in use. -/
def State.cqRoom (s : State) (d k : Nat) : Bool := s.macOn d && (s.cq d k).head != ((s.cq d k).tail + 1) % 64

/-- Entries waiting in the pool list move to the ring while it has room. -/
def State.cqDrain (d k : Nat) : Nat → State → State
  | 0, s => s
  | n + 1, s =>
    match s.pool.entries (cqList d k) with
    | e :: _ => if s.cqRoom d k then State.cqDrain d k n ((s.poolPop (cqList d k) false false false).cqWrite d k e) else s
    | [] => s

/-- An entry discarded (R522). -/
def State.cqLost (s : State) (d : Nat) : State := (s.fsat (MAC_CQ_STAT.lost d) 1).postLimited (0x40000 + d) 0x0906 3 (some d) d 1

/-- A new entry: written while the ring has room, else kept in the pool list up to 256, else discarded (R522). -/
def State.cqPush (s : State) (d k e : Nat) : State :=
  let l := cqList d k
  if s.cqError d k || s.pool.lost then s.cqLost d
  else if s.cqRoom d k && (s.pool.entries l).isEmpty then s.cqWrite d k e
  else if (s.pool.entries l).length < 256 ∧ s.fget POOL_STAT.free ≠ 0 ∧ ¬ s.pool.freeBroken then s.poolPush l e false false
  else s.cqLost d

/-- A port comes up or goes down (R495, R526): event and control-queue entry. -/
def State.updatePort (s : State) (d p : Nat) : State :=
  let up := s.portReady d p
  if up == s.portUp d p then s
  else ((s.fset (MAC_PORT_CFG.up d p) (b2n up)).post (if up then 0x0900 else 0x0901) 0 (some d) p).cqPush d p
    (cqEntry 1 p 0 (b2n up) (timeWord s.now))

def State.updateLinks (s : State) (d : Nat) : State := (List.range 12).foldl (fun a p => a.updatePort d p) s

/-! ### `MAC_CQ_HEAD` -/

/-- `MAC_CQ_HEAD` (R522): the consumer's new head. -/
def execMacCqHead (d : DieIx) (k : Fin 13) (head : Fin 64) (s : State) : Out :=
  .next ((s.setCq d.val k.val { s.cq d.val k.val with head := head.val }).cqDrain d.val k.val 256)

/-- A queue returned to service: head, tail and pool list empty, phase 1; no effect while its list is marked (R201, R522). -/
def State.cqReset (s : State) (d k : Nat) : State :=
  let l := cqList d k
  if s.pool.marked.contains l then s
  else
    let n := (s.pool.entries l).length
    let s1 := { s with pool := { s.pool with lists := Tab.put [] s.pool.lists l [] } }
    ((s1.fset POOL_STAT.free (s1.fget POOL_STAT.free + n)).setCq d k .fresh).fset (MAC_CQ_STAT.error d)
      (setBit (s1.fget (MAC_CQ_STAT.error d)) k false)

/-- `MAC_CQ_RESET` (R522). -/
def execMacCqReset (d : DieIx) (k : Fin 13) (s : State) : Out := .next (s.cqReset d.val k.val)

end Sys2Proof.Machine
end

