-- ==== Sys2Proof/Machine/Halt.lean ====
section
/-! DEFINITION. The security halt and its record, user pad levels (R387, R704–R706, R757, R758). -/

namespace Sys2Proof.Machine

/-! ### User pads (R756–R758).  Pad i is `GPIO_i`, bit i mod 4 of die i / 4 -/

def State.pad (s : State) (i : Nat) : Pad := Tab.get .fresh s.pads i
def State.setPad (s : State) (i : Nat) (v : Pad) : State := { s with pads := Tab.put .fresh s.pads i v }

/-- The drive (output enable, level) that the configuration of a pad calls for; open drain drives low only. -/
def State.padConfig (s : State) (i : Nat) : Bool × Bool :=
  let d := i / 4
  let k := i % 4
  let out := bit (s.fget (DIE_GPIO_OUT.out d)) k
  (s.fbit (DIE_GPIO_CFG.oe d k) && !(s.fbit (DIE_GPIO_CFG.od d k) && out), out)

/-- Whether a security halt is in progress. -/
def State.halted (s : State) : Bool := s.fbit SEC_HALT_CAUSE.active

/-- Whether the device state is RUNNING (R433, `HQE_STAT`). -/
def State.running (s : State) : Bool := s.fget HQE_STAT.dev_state == 3

/-- The drive of a pad outside a security halt: latch, safe state, configuration (R757 rules 2–4). -/
def State.padNormal (s : State) (i : Nat) : Bool × Bool :=
  match (s.pad i).latch with
  | some v => v
  | none => if s.running then s.padConfig i else (false, false)

/-- The drive the boundary cells give a pad while a boundary instruction is in force (R727). -/
def State.padBoundary (s : State) (i code : Nat) : Bool × Bool :=
  if code = 4 then (false, false)
  else match Config.boundaryPad i s.dbg.cells with
    | 2 => (true, false)
    | 3 => (true, true)
    | _ => (false, false)

/-- The drive of a pad (R727, R757, R758). -/
def State.padDrive (s : State) (i : Nat) : Bool × Bool :=
  if s.halted then
    match s.fget (DIE_GPIO_CFG.halt (i / 4) (i % 4)) with
    | 0 => (s.pad i).atHalt
    | 1 => (true, false)
    | 2 => (true, true)
    | _ => (false, false)
  else match s.dbg.boundary with
    | some code => s.padBoundary i code
    | none => s.padNormal i

/-- The level at the ball: driven, or what the board puts on it. -/
def State.padLevel (s : State) (i : Nat) : Bool := if (s.padDrive i).1 then (s.padDrive i).2 else (s.pad i).ext

/-! ### The halt (R387, R704–R706) -/

/-- The halt count the breadbox record holds. -/
def State.haltCount (s : State) : Nat := leVal (readBytes 0 s.breadbox 8 4)

/-- The 40 signed bytes of the halt record (R706). -/
def State.haltBytes (s : State) (cause die chan level addr node : Nat) : List Byte :=
  [0x42, 0x4C, 0x56, 0x48, 0x41, 0x4C, 0x54, 0x38] ++ leBytes 4 (satAdd 32 s.haltCount 1) ++ leBytes 1 cause ++ leBytes 1 die ++
    leBytes 1 chan ++ leBytes 1 level ++ leBytes 8 (addr / 64 * 64) ++ leBytes 2 node ++
    leBytes 1 (s.fget SEC_LIFECYCLE.lifecycle + s.fget SEC_LIFECYCLE.debug * 4 + s.fget PTM_PSTATE.state * 16) ++ [0] ++
    leBytes 12 (timeWord s.now)

/-- The halt registers loaded from the record in the breadbox (R707, R720). -/
def State.loadHaltRegs (s : State) (active : Bool) : State :=
  let b := fun o n => leVal (readBytes 0 s.breadbox o n)
  let chan := b 0x0E 1
  let level := b 0x0F 1
  let t := b 0x1C 12
  let w := b2n active * 2 ^ 31 + 2 ^ 30 + b 0x0C 1 % 16 * 2 ^ 24 + b 0x0D 1 % 16 * 2 ^ 20 +
    (if chan = 0xFF then 0 else chan % 16) * 2 ^ 16 + (if level = 0xFF then 0 else level % 4) * 2 ^ 14 +
    b2n (level != 0xFF) * 2 ^ 13 + min (b 8 4) 255
  ((((s.setReg SEC_HALT_CAUSE (BitVec.ofNat 32 w)).setReg SEC_HALT_ADDR_LO (BitVec.ofNat 32 (b 0x10 8))).setReg SEC_HALT_ADDR_HI
    (BitVec.ofNat 32 (b 0x10 8 / 2 ^ 32 % 256))).setReg SEC_HALT_SEC (BitVec.ofNat 32 (bits t 48 32))).setReg SEC_HALT_NS (BitVec.ofNat 32 (bits t 16 32))

/-- A security halt starts (R387): every tin frozen with its ports in STALL, every lane transmitter idle, pads at their halt state,
every key and counter cache zeroised, the debug level NONE (R715), a load abandoned without an outcome (R562), and the record written.  A cause that arrives during a
halt adds nothing (R705). -/
def State.securityHalt (s : State) (cause die chan level addr node : Nat) : State :=
  if s.halted then s
  else
    let s1 := { s with
      pads := (List.range 32).foldl (fun t i => Tab.put Pad.fresh t i { Tab.get Pad.fresh t i with atHalt := s.padNormal i }) s.pads
      tins := Tab.mapVals Tin.blank (fun x => if x = Tin.blank then x else { x.stallAll with frozen := true }) s.tins
      dram := { s.dram with chans := Tab.mapVals ChanSt.fresh (fun c => { c with key := 0, secKey := 0, cache := [] }) s.dram.chans }
      breadbox := (let l := s.haltBytes cause die chan level addr node
                   writeBytes 0 s.breadbox 0 (l ++ leBytes 4 (crc32 l))) }
    let s2 := (List.range 96).foldl (fun a l => if a.fget (laneState l) = 0 ∨ a.fget (laneState l) = 5 then a.fset (laneState l) 1 else a) s1
    let s3 := ({ ((s2.loadHaltRegs true).fset SEC_LIFECYCLE.debug 0).fset CFG_STAT.loading 0 with cfg := { s2.cfg with load := none, chainEnd := none } })
    (List.range 8).foldl (fun a d => a.updateLinks d) s3

end Sys2Proof.Machine
end

