-- ==== Sys2Proof/Machine/Seam.lean ====
section
/-! DEFINITION. Crust ports on the ring, the crust ring, and the seams between fabric dies (R79–R85, R126–R167). -/

namespace Sys2Proof.Machine

/-! ### Crust ports (R80–R83) -/

/-- A mode is requested of a crust port; it takes effect at the port's next token boundary (R82). -/
def Tin.askMode (x : Tin) (p : Nat) (m : PortMode) : Tin := x.setPort p { x.port p with want := some m }

/-- Whether a crust port stands at a token boundary: no token's handshake has begun there (R82). -/
def Tin.atBoundary (x : Tin) (p : Nat) : Bool := (x.port p).inTok.isNone && !(x.port p).ack

/-- A token reaches an inbound crust port from the ring: the tin once it is accepted, none while it must wait (R81).  A STALL
port takes the one token of a token step (R744). -/
def Tin.deliver (x : Tin) (p tok : Nat) : Option Tin :=
  let v := x.port p
  match v.mode with
  | .pass => if v.inTok.isNone && !v.ack then some (x.setPort p { v with inTok := some (tok % 2 ^ x.portWidth p) }) else none
  | .stall =>
    if v.one && v.inTok.isNone && !v.ack then
      some ({ x with ports := Tab.mapVals .blank (fun q => { q with one := false }) x.ports }.setPort p
        { v with one := false, inTok := some (tok % 2 ^ x.portWidth p) })
    else none
  | .drain => some { x with drain := min (x.drain + 1) (2 ^ 32 - 1) }

/-- The token a tin shows at an outbound crust port: all used bits carry data (R80). -/
def Tin.outToken (x : Tin) (p : Nat) : Option Nat :=
  let w := x.portWidth p
  if w = 0 then none
  else if (List.range w).all (fun k => (x.railsOf (x.portBitSrc p k)).isData) then
    some ((List.range w).foldl (fun a k => setBit a k (x.railsOf (x.portBitSrc p k)).t) 0)
  else none

/-- An outbound port takes a complete token from the tin: to the proofing gate in PASS, stamped with the last sequence
number issued (R83, R379), discarded and counted in DRAIN (R81). -/
def Tin.takeOut (x : Tin) (p : Nat) : Option Tin :=
  let v := x.port p
  match x.outToken p with
  | none => none
  | some tok =>
    if v.ack || !x.running then none
    else match v.mode with
      | .pass => if v.gate.isEmpty then some (x.setPort p { v with ack := true, gate := [⟨tok, x.seq⟩] }) else none
      | .stall => none
      | .drain => some { x.setPort p { v with ack := true } with drain := min (x.drain + 1) (2 ^ 32 - 1) }

/-- Every read up to sequence number `n` has received its proof notice (R379). -/
def Tin.proofedUpTo (x : Tin) (n : Nat) : Bool := x.reads.all (fun r => n < r.seq)

/-! ### Ring endpoints (R84, R546) -/

def epKind (e : Nat) : Nat := bits e 13 3
def epRole (e : Nat) : Nat := bits e 9 4
def epPort (e : Nat) : Nat := bits e 0 9
def epChan (e : Nat) : Nat := bits e 0 12
def epLane (e : Nat) : Nat := bits e 0 8

/-- The seam that a seam endpoint of die `d` lies on. -/
def epSeam (d e : Nat) : Nat := if epKind e = 1 then d else (d + 7) % 8

/-- Where seam channel `c` of seam `s` is kept. -/
def seamKey (s c : Nat) : Nat := 4096 * s + c
/-- Where dozen `z` of seam `s` is kept. -/
def dozenKey (s z : Nat) : Nat := 4224 * s + z
/-- Where the connection of die `d` that starts at endpoint `e` is kept. -/
def ringKey (d e : Nat) : Nat := 65536 * d + e
/-- Where lane-port channel `c` of die `d` is kept. -/
def laneKey (d c : Nat) : Nat := 256 * d + c

def State.seamChan (s : State) (sm c : Nat) : SeamCh := Tab.get .fresh s.seamCh (seamKey sm c)
def State.setSeamChan (s : State) (sm c : Nat) (v : SeamCh) : State := { s with seamCh := Tab.put .fresh s.seamCh (seamKey sm c) v }
def State.dozen (s : State) (sm z : Nat) : Dozen := Tab.get .fresh s.dozens (dozenKey sm z)
def State.setDozen (s : State) (sm z : Nat) (v : Dozen) : State := { s with dozens := Tab.put .fresh s.dozens (dozenKey sm z) v }

/-- A connection table entry that joins nothing. -/
def RingConn.none : RingConn := ⟨0xFFFF, 0, .armed⟩
def State.conn (s : State) (d e : Nat) : RingConn := Tab.get .none s.ring (ringKey d e)
def State.setConn (s : State) (d e : Nat) (v : RingConn) : State := { s with ring := Tab.put .none s.ring (ringKey d e) v }

/-- The connection of die `d` that ends at endpoint `e`, by its start. -/
def State.connTo (s : State) (d e : Nat) : Option Nat :=
  ((s.ring.find? (fun c => c.1 / 65536 == d && c.2.dst == e)).map (fun c => c.1 % 65536))

/-- The crust endpoint of port `p` of role `r`. -/
def crustEp (r p : Nat) : Nat := 512 * r + p

/-- The token waiting at an outbound endpoint of die `d` (R84). -/
def State.epToken (s : State) (d e : Nat) : Option Nat :=
  match epKind e with
  | 0 => ((s.tin (s.tinOf d (epRole e))).port (epPort e)).offer
  | 3 => Tab.get none s.laneIn (laneKey d (epLane e))
  | _ => (s.seamChan (epSeam d e) (epChan e)).rx

/-- The state once the token waiting at an outbound endpoint is on its connection. -/
def State.epTake (s : State) (d e : Nat) : State :=
  match epKind e with
  | 0 =>
    let t := s.tinOf d (epRole e)
    s.setTin t ((s.tin t).setPort (epPort e) { (s.tin t).port (epPort e) with offer := none })
  | 3 => { s with laneIn := Tab.put none s.laneIn (laneKey d (epLane e)) none }
  | _ => s.setSeamChan (epSeam d e) (epChan e) { s.seamChan (epSeam d e) (epChan e) with rx := none }

/-! ### Seam ends (R127, R159–R166) -/

/-- The die a channel of seam `s` is sent from and the end number it leaves by: clockwise channels are 0–2,047 (R127, R128). -/
def seamSender (s c : Nat) : Nat × Nat := if c < 2048 then (s, 0) else ((s + 1) % 8, 1)
/-- The die a channel of seam `s` arrives at and its end number. -/
def seamReceiver (s c : Nat) : Nat × Nat := if c < 2048 then ((s + 1) % 8, 1) else (s, 0)

/-- The codes of `SEAM_STAT_e.state` (R160). -/
def seDown : Nat := 0
def seTraining : Nat := 1
def seArmed : Nat := 2
def sePeerLost : Nat := 3

/-- The dozen a logical channel lies on at start-up (R128). -/
def homeDozen (c : Nat) : Nat := if c < 2048 then c else c + 64

/-- The dozen now carrying channel `c`. -/
def State.dozenOf (s : State) (sm c : Nat) : Nat := ((s.seamChan sm c).dozen).getD (homeDozen c)

/-- A token reaches the sending end of a seam channel from the crust ring of die `d`: none while it must wait.  At an end
in PEER_LOST, `peer_loss` holds the sender or discards and counts (R156); a lost channel takes nothing (R153). -/
def State.seamAccept (s : State) (d e tok peerLoss : Nat) : Option State :=
  let sm := epSeam d e
  let c := epChan e
  let v := s.seamChan sm c
  let (sd, se) := seamSender sm c
  if sd ≠ d ∨ v.lost then none
  else if s.fget (SEAM_STAT.state sd se) = sePeerLost then
    if peerLoss = 1 then some (s.fsat (SEAM_DISCARD.count sd se) 1) else none
  else if v.tx.isNone then some (s.setSeamChan sm c { v with tx := some tok }) else none

/-- A token reaches the inbound endpoint of a connection of die `d`. -/
def State.epDeliver (s : State) (d e tok peerLoss : Nat) : Option State :=
  match epKind e with
  | 0 =>
    let t := s.tinOf d (epRole e)
    ((s.tin t).deliver (epPort e) tok).map (fun x => s.setTin t x.settle)
  | 3 =>
    if (Tab.get none s.laneOut (laneKey d (epLane e))).isNone then
      some { s with laneOut := Tab.put none s.laneOut (laneKey d (epLane e)) (some tok) }
    else none
  | _ => s.seamAccept d e tok peerLoss

/-! ### Dozens: free spares, folds, losses (R141–R153) -/

/-- Whether some channel of seam `sm` lies on dozen `z`. -/
def State.dozenUsed (s : State) (sm z : Nat) : Bool :=
  s.seamCh.any (fun e => e.1 / 4096 == sm && e.2.dozen == some z) ||
  (if z < 2048 then (s.seamChan sm z).dozen.isNone && !(s.seamChan sm z).lost
   else if 2112 ≤ z && z < 4160 then (s.seamChan sm (z - 64)).dozen.isNone && !(s.seamChan sm (z - 64)).lost else false)

/-- Whether a dozen can take a channel: out of use, not parked, not lost to a sweep. -/
def State.dozenFree (s : State) (sm z : Nat) : Bool :=
  !s.dozenUsed sm z && !(s.dozen sm z).parked && !(s.dozen sm z).spareLost

/-- The dozens a channel's direction may take: those that folds have freed and its 64 spare channels (R128, R129). -/
def dirSpares (cw : Bool) : List Nat :=
  if cw then (List.range 64).map (· + 2048) else (List.range 64).map (· + 4160)

/-- The lowest-numbered free spare channel of a direction, or a dozen that a fold has just freed (R144, R147). -/
def State.freeDozen (s : State) (sm : Nat) (cw : Bool) : Option Nat :=
  match (dirSpares cw).find? (fun z => s.dozenFree sm z) with
  | some z => some z
  | none =>
    let freed := (s.seamCh.filter (fun e => e.1 / 4096 == sm && (e.1 % 4096 < 2048) == cw && e.2.partner.isSome)).map (fun e => homeDozen (e.1 % 4096))
    freed.find? (fun z => s.dozenFree sm z)

/-- A dozen is healthy when no unreplaced wire of it has failed. -/
def Dozen.healthy (z : Dozen) : Bool := z.wires.all (fun w => !w.2.failed || z.spareFor == some w.1)
/-- The spare wire is free to replace a wire or to carry a tag: healthy and unused. -/
def Dozen.spareFree (z : Dozen) : Bool := z.spareFor.isNone && z.copying.isNone && !(Tab.get .fresh z.wires 12).failed

/-- The fields of a fold-map entry (R145). -/
def foldA (e : Nat) : Nat := bits e 12 12
def foldB (e : Nat) : Nat := bits e 0 12
def foldPriority (e : Nat) : Nat := bits e 26 2

def State.foldEntries (s : State) (sm : Nat) : List Nat := Tab.get [] s.foldMap sm

/-- Entry `i` of the fold map of a seam is eligible: both channels unfolded and not lost (R147). -/
def State.foldEligible (s : State) (sm i : Nat) : Bool :=
  match (s.foldEntries sm)[i]? with
  | none => false
  | some e =>
    let a := s.seamChan sm (foldA e)
    let b := s.seamChan sm (foldB e)
    a.partner.isNone && b.partner.isNone && !a.lost && !b.lost

/-- The entries of a fold map in rank order: by priority, then by index (R147). -/
def State.foldRank (s : State) (sm : Nat) : List Nat :=
  let n := (s.foldEntries sm).length
  (List.range 4).flatMap (fun p => (List.range n).filter (fun i => foldPriority ((s.foldEntries sm).getD i 0) == p))

/-- What R147 decides for channel `c` when it needs a dozen: a free spare dozen, a fold by entry `i` of channel `other` onto
the dozen of channel `keep`, or loss. -/
inductive Serve where
  | move (z : Nat)
  | fold (i keep other : Nat)
  | lost
deriving DecidableEq, Repr

/-- The fold that entry `i` allows for channel `c`, if any (R147). -/
def State.foldFor (s : State) (sm c i : Nat) : Option Serve :=
  match (s.foldEntries sm)[i]? with
  | none => none
  | some e =>
    let a := foldA e
    let b := foldB e
    let free := fun x => (s.dozen sm (s.dozenOf sm x)).spareFree
    let good := fun x => (s.dozen sm (s.dozenOf sm x)).healthy
    if !s.foldEligible sm i || (a < 2048) != (c < 2048) then none
    else if (s.seamChan sm c).partner.isNone && (a == c || b == c) then
      let p := if a = c then b else a
      if free p then some (.fold i p c) else none
    else if a != c && b != c && good a && good b then
      let k := if free b then b else a
      if free k then some (.fold i k (if k = b then a else b)) else none
    else none

/-- How a channel that needs a dozen is served (R147). -/
def State.serve (s : State) (sm c : Nat) : Serve :=
  match s.freeDozen sm (decide (c < 2048)) with
  | some z => .move z
  | none => ((s.foldRank sm).findSome? (fun i => s.foldFor sm c i)).getD .lost

/-- The counts of `SEAM_FOLD_e` and `SEAM_SPARE_e` at both ends of a seam. -/
def State.seamBoth (s : State) (sm : Nat) (f : Nat → Nat → Fld) (n : Nat) : State :=
  (s.fsat (f sm 0) n).fsat (f ((sm + 1) % 8) 1) n

/-- The unit of a seam event: seam, end and channel (R167). -/
def seamUnit (sm e c : Nat) : Nat := sm * 2 ^ 16 + e * 2 ^ 13 + c

/-- A channel is lost: disconnected at both ends and reported (R153); a folded partner is lost with it (R147). -/
def State.loseOne (s : State) (sm c : Nat) : State :=
  let v := s.seamChan sm c
  ((s.setSeamChan sm c { v with lost := true, needs := false, tx := none, ch := .armed }).seamBoth sm SEAM_FOLD.lost 1).post
    0x0206 4 (some sm) (seamUnit sm 0 c)

def State.loseChannel (s : State) (sm c : Nat) : State :=
  match (s.seamChan sm c).partner with
  | some p => (s.loseOne sm c).loseOne sm p
  | none => s.loseOne sm c

/-- A channel needs a dozen: it stops at once when a failed wire has margin 0, and is lost when neither a dozen nor a fold
can serve it (R143, R147, R153). -/
def State.needDozen (s : State) (sm c : Nat) (stop : Bool) : State :=
  if (s.seamChan sm c).lost then s
  else if s.serve sm c = .lost then s.loseChannel sm c
  else
    let v := s.seamChan sm c
    s.setSeamChan sm c { v with needs := true, ch := { v.ch with held := v.ch.held || stop } }

/-- The channel that a dozen carries, if one does. -/
def State.channelOn (s : State) (sm z : Nat) : Option Nat :=
  match s.seamCh.find? (fun e => e.1 / 4096 == sm && e.2.dozen == some z) with
  | some e => some (e.1 % 4096)
  | none => if s.dozenUsed sm z then some (if z < 2048 then z else z - 64) else none

/-- The failed wires of a dozen, replaced or not, its spare wire among them (R142, R143). -/
def Dozen.failures (z : Dozen) : Nat := (z.wires.filter (fun w => w.2.failed)).length

/-- A wire in use has failed with margin 0, which stops the dozen's channel at once (R143). -/
def Dozen.broken (z : Dozen) (folded : Bool) : Bool :=
  z.wires.any (fun w => w.2.failed && w.2.now == 0 && z.spareFor != some w.1 && (w.1 != 12 || z.spareFor.isSome || folded))

/-- The end that measures a wire of a dozen: the sender the acknowledge wire, the receiver every other (R135). -/
def measureEnd (sm z wire : Nat) : Nat × Nat :=
  if wire = 11 then seamSender sm (if z < 2112 then 0 else 2048) else seamReceiver sm (if z < 2112 then 0 else 2048)

/-- Whether dozen `z` is one of the 64 spare channels of its direction (R128). -/
def spareDozen (z : Nat) : Bool := (2048 ≤ z && z < 2112) || 4160 ≤ z

/-- A wire of a dozen that carries no channel fails: the dozen leaves the inventory, and a spare channel is reported (R140). -/
def State.loseDozen (s : State) (sm z wire : Nat) : State :=
  let d := s.dozen sm z
  if d.parked || d.spareLost then s
  else
    let s1 := s.setDozen sm z { d with spareLost := true }
    let (md, me) := measureEnd sm z wire
    if spareDozen z then
      (s1.seamBoth sm (if z < 2112 then SEAM_SPARE.spare_cw else SEAM_SPARE.spare_acw) 1).post 0x0202 2 (some md) (seamUnit sm me 0) wire z
    else s1

/-- One margin measured on a wire of a dozen (R135–R137, R140, R142, R143, R152): the record, `SEAM_MARGIN_LOW` below `warn`, failure
below 15 %, `SEAM_LATE_EDGE` at 0; a failed spare leaves the inventory, and a dozen with two failed wires, or a folded one
with one, makes its channel need a dozen. -/
def State.measure (s : State) (sm z : Nat) (m : Margin) : State :=
  let d := s.dozen sm z
  let w := Tab.get .fresh d.wires m.wire.val
  let c := s.channelOn sm z
  let cNo := c.getD 0
  let (md, me) := measureEnd sm z m.wire.val
  let low := decide (m.pct < s.fget (SEAM_CTL.warn md me)) && !w.warned
  let fails := decide (m.pct < 15) && !w.failed
  let late := m.pct == 0 && !(w.failed && w.now == 0)
  let cnt := (s.seamChan sm cNo).count
  let w1 : Wire := ⟨min w.min m.pct, m.pct, w.warned || low, w.failed || fails, if m.pct < 15 then w.lastGood else cnt⟩
  let s1 := s.setDozen sm z { d with wires := Tab.put .fresh d.wires m.wire.val w1 }
  let s2 := if low then (s1.fsat (SEAM_LATE.warned md me) 1).post 0x0200 0 (some md) (seamUnit sm me cNo) m.wire.val z else s1
  let s3 := if late then
      (s2.fsat (SEAM_LATE.late md me) 1).post 0x0205 3 (some md) (seamUnit sm me cNo) m.wire.val (cnt - w.lastGood)
    else s2
  if !fails && !late then s3
  else
    match c with
    | none => s3.loseDozen sm z m.wire.val
    | some ch =>
      let folded := (s3.seamChan sm ch).partner.isSome
      let s4 := if fails && m.wire.val == 12 && d.spareFor.isNone && !folded then s3.post 0x0202 2 (some md) (seamUnit sm me ch) 12 z else s3
      let x := s4.dozen sm z
      if folded || x.failures ≥ 2 then s4.needDozen sm ch (x.broken folded) else s4

/-- Every margin of a list measured in order. -/
def State.measureAll (s : State) (sm z : Nat) (ms : List Margin) : State := ms.foldl (fun a m => a.measure sm z m) s

/-! ### The two-phase protocol (R130, R131, R148, R149) -/

/-- The sender may toggle request: levels equal, not held. -/
def Chan.canSend (c : Chan) : Bool := c.req == c.seen && !c.held
/-- t2: the data wires carry `tok` and request has toggled. -/
def Chan.send (c : Chan) (tok : Nat) : Chan := { c with req := !c.req, data := tok }
/-- t3 may occur: request has toggled and acknowledge has not. -/
def Chan.canCapture (c : Chan) : Bool := c.req != c.ack
/-- t4: acknowledge toggles. -/
def Chan.capture (c : Chan) : Chan := { c with ack := !c.ack }
/-- t5 may occur: acknowledge has toggled and the sender has not seen it. -/
def Chan.canSee (c : Chan) : Bool := c.req == c.ack && c.seen != c.ack
/-- t5: the sender has seen the acknowledge. -/
def Chan.see (c : Chan) : Chan := { c with seen := c.ack }

/-- Whether the fold lets channel `c` send now: the partner has nothing outstanding, and when both have a token ready the
one that did not send last goes first (R148). -/
def State.foldTurn (s : State) (sm c : Nat) : Bool :=
  let v := s.seamChan sm c
  match v.partner with
  | none => true
  | some p =>
    let q := s.seamChan sm p
    q.ch.req == q.ch.seen && (q.tx.isNone || !v.lastTag)

/-- Both ends of the fold remember that channel `c` sent last. -/
def State.foldSent (s : State) (sm c : Nat) : State :=
  match (s.seamChan sm c).partner with
  | none => s
  | some p =>
    let s1 := s.setSeamChan sm c { s.seamChan sm c with lastTag := true }
    s1.setSeamChan sm p { s1.seamChan sm p with lastTag := false }

/-- The receiving end of a seam channel is ARMED: it captures tokens (R156). -/
def State.seamHears (s : State) (sm c : Nat) : Bool :=
  let (d, e) := seamReceiver sm c
  s.fget (SEAM_STAT.state d e) == seArmed

/-- The sending end of a seam channel is ARMED. -/
def State.seamArmed (s : State) (sm c : Nat) : Bool :=
  let (d, e) := seamSender sm c
  s.fget (SEAM_STAT.state d e) == seArmed

/-! ### Record and resend (R144, R151) -/

/-- A channel's record of its outstanding token: true when there is none or the receiver captured it. -/
def Chan.record (c : Chan) : Bool := c.req == c.seen || c.req == c.ack

/-- The wires of a channel re-armed at 0; a token that was not captured is re-sent (R144 steps 3 and 4). -/
def Chan.rearm (c : Chan) : Chan := if c.record then .armed else { Chan.armed with req := true, data := c.data }

/-- Channel `c` resumes on dozen `z`. -/
def State.resumeOn (s : State) (sm c z : Nat) : State :=
  let v := s.seamChan sm c
  s.setSeamChan sm c { v with dozen := if z = homeDozen c then none else some z, ch := v.ch.rearm, needs := false, recorded := none }

/-- The old dozen of a move joins neither pool (R144). -/
def State.park (s : State) (sm z : Nat) : State := s.setDozen sm z { s.dozen sm z with parked := true }

/-! ### The meanings -/

/-- `CRUST_PORT_MODE_CHANGE` (R82). -/
def execCrustPortModeChange (t : TinIx) (p : Fin 384) (s : State) : Out :=
  let x := s.tin t.val
  match (x.port p.val).want with
  | some m => if x.atBoundary p.val then .next (s.setTin t.val (x.setPort p.val { x.port p.val with mode := m, want := none })) else .next s
  | none => .next s

/-- `CRUST_INBOUND_TOKEN` (R81): an inbound port that the ring connects; a port in PASS without a connection acts as STALL. -/
def execCrustInboundToken (t : TinIx) (p : Fin 384) (tok : BitVec 10) (s : State) : Out :=
  if p.val % 2 = 0 ∧ (s.connTo (t.val / 13) (crustEp (s.roleOf t.val) p.val)).isSome then
    match (s.tin t.val).deliver p.val tok.toNat with
    | some x => .next (s.setTin t.val x.settle)
    | none => .next s
  else .next s

/-- `CRUST_OUTBOUND_TOKEN` (R81, R83). -/
def execCrustOutboundToken (t : TinIx) (p : Fin 384) (s : State) : Out :=
  if p.val % 2 = 1 then
    match (s.tin t.val).takeOut p.val with
    | some x => .next (s.setTin t.val x.settle)
    | none => .next s
  else .next s

/-- `PROOF_NOTICE` (R285, R379): consumed at the crust; a notice that matches no unproofed read is discarded. -/
def execProofNotice (t : TinIx) (tag epoch : Nat) (s : State) : Out :=
  let x := s.tin t.val
  .next (s.setTin t.val { x with reads := x.reads.eraseP (fun r => r.tag == tag && r.epoch == epoch) })

/-- `CHANNEL_TOKEN_SEND` for a seam channel or a crust-ring connection (R130 t1–t2); the units of a bench link are moved
by `ROUTER_HOP`, and here a dozen's own request copy toggles with them (R268). -/
def execChannelTokenSend (r : ChanRef) (s : State) : Out :=
  match r with
  | .seam sm c =>
    let v := s.seamChan sm.val c.val
    match v.tx with
    | some tok =>
      if v.ch.canSend && !v.lost && !v.gapDue && s.seamArmed sm.val c.val && s.foldTurn sm.val c.val then
        .next ((s.setSeamChan sm.val c.val { v with ch := v.ch.send tok, tx := none }).foldSent sm.val c.val)
      else .next s
    | none => .next s
  | .ring d e =>
    let v := s.conn d.val e
    match s.epToken d.val e with
    | some tok =>
      if v.ch.canSend && v.dst != 0xFFFF then .next ((s.epTake d.val e).setConn d.val e { v with ch := v.ch.send tok }) else .next s
    | none => .next s
  | .bench d k out z =>
    let i := 256 * d.val + 64 * k.val + (if out then 32 else 0) + z.val
    let v := Tab.get .fresh s.bench i
    if v.ch.canSend then .next { s with bench := Tab.put .fresh s.bench i { v with ch := v.ch.send 0 } } else .next s

/-- `CHANNEL_TOKEN_CAPTURE` (R130 t3–t4, R135, R136): the token enters the receive register or the endpoint, acknowledge
toggles, and the margins seen at the capture are judged. -/
def execChannelTokenCapture (r : ChanRef) (ms : List Margin) (s : State) : Out :=
  match r with
  | .seam sm c =>
    let v := s.seamChan sm.val c.val
    if v.ch.canCapture && v.rx.isNone && !v.lost && s.seamHears sm.val c.val then
      .next ((s.setSeamChan sm.val c.val { v with ch := v.ch.capture, rx := some v.ch.data, count := v.count + 1 }).measureAll
        sm.val (s.dozenOf sm.val c.val) (ms.filter (fun m => m.wire.val != 11)))
    else .next s
  | .ring d e =>
    let v := s.conn d.val e
    if v.ch.canCapture then
      match s.epDeliver d.val v.dst v.ch.data v.peerLoss with
      | some s1 => .next (s1.setConn d.val e { v with ch := v.ch.capture })
      | none => .next s
    else .next s
  | .bench d k out z =>
    let i := 256 * d.val + 64 * k.val + (if out then 32 else 0) + z.val
    let v := Tab.get .fresh s.bench i
    if v.ch.canCapture then
      .next { s with bench := Tab.put .fresh s.bench i { v with ch := v.ch.capture, wires := ms.foldl (fun w m =>
        let o := Tab.get .fresh w m.wire.val
        Tab.put .fresh w m.wire.val ⟨min o.min m.pct, m.pct, o.warned, o.failed || decide (m.pct < 15), o.lastGood⟩) v.wires } }
    else .next s

/-- `CHANNEL_ACK_RECEIVED` (R130 t5): the sender may drive its next token; the acknowledge wire is measured there (R135). -/
def execChannelAckReceived (r : ChanRef) (ms : List Margin) (s : State) : Out :=
  match r with
  | .seam sm c =>
    let v := s.seamChan sm.val c.val
    if v.ch.canSee then
      .next ((s.setSeamChan sm.val c.val { v with ch := v.ch.see }).measureAll sm.val (s.dozenOf sm.val c.val)
        (ms.filter (fun m => 11 ≤ m.wire.val)))
    else .next s
  | .ring d e =>
    let v := s.conn d.val e
    if v.ch.canSee then .next (s.setConn d.val e { v with ch := v.ch.see }) else .next s
  | .bench d k out z =>
    let i := 256 * d.val + 64 * k.val + (if out then 32 else 0) + z.val
    let v := Tab.get .fresh s.bench i
    if v.ch.canSee then .next { s with bench := Tab.put .fresh s.bench i { v with ch := v.ch.see } } else .next s

/-- `SWEEP` (R138–R140): the margins of one dozen, of which an in-use one has its request and acknowledge wires left alone; a sweep measures
every data wire, so a due gap is served. -/
def execSweep (sm : DieIx) (z : Fin 4224) (ms : List Margin) (s : State) : Out :=
  let used := (s.channelOn sm.val z.val).isSome
  let s1 := s.measureAll sm.val z.val (ms.filter (fun m => !used || (m.wire.val != 10 && m.wire.val != 11)))
  match s1.channelOn sm.val z.val with
  | some c => .next (s1.setSeamChan sm.val c { s1.seamChan sm.val c with gapDue := false })
  | none => .next s1

/-- `SWEEP_GAP` (R139): the sender holds its next token for the gap in which the wires are measured. -/
def execSweepGap (sm : DieIx) (c : Fin 4096) (s : State) : Out :=
  .next (s.setSeamChan sm.val c.val { s.seamChan sm.val c.val with gapDue := true })

/-- `SPARE_WIRE_COPY_START` (R141 t1, R142): a failed wire of an in-use dozen whose spare wire is free and healthy; a wire
that failed with margin 0 is replaced from here on without comparison. -/
def execSpareWireCopyStart (sm : DieIx) (z : Fin 4224) (w : Fin 12) (s : State) : Out :=
  let d := s.dozen sm.val z.val
  let wi := Tab.get .fresh d.wires w.val
  match s.channelOn sm.val z.val with
  | some c =>
    if wi.failed && d.spareFree && (s.seamChan sm.val c).partner.isNone then
      .next (s.setDozen sm.val z.val { d with copying := some (w.val, if wi.now = 0 then 16 else 0) })
    else .next s
  | none => .next s

/-- `SEAM_WIRE_SPARED` (R141 t3–t4, R142): 16 agreeing comparisons put the spare in the wire's place; a comparison that
fails marks the spare wire failed as well, and the channel needs a dozen. -/
def execSeamWireSpared (sm : DieIx) (z : Fin 4224) (agree : Bool) (s : State) : Out :=
  let d := s.dozen sm.val z.val
  match d.copying with
  | some (w, n) =>
    let c := (s.channelOn sm.val z.val).getD 0
    if agree || n = 16 then
      .next (((s.setDozen sm.val z.val { d with copying := none, spareFor := some w }).seamBoth sm.val SEAM_SPARE.wires_spared 1).post
        0x0201 2 (some sm.val) (seamUnit sm.val 0 c) w z.val)
    else
      let sp := Tab.get .fresh d.wires 12
      .next ((s.setDozen sm.val z.val { d with copying := none, wires := Tab.put .fresh d.wires 12 { sp with failed := true } }).needDozen sm.val c false)
  | none => .next s

/-- `CHANNEL_MOVE_HOLD` (R144 steps 1–2): a channel that needs a dozen and has one to move to. -/
def execChannelMoveHold (sm : DieIx) (c : Fin 4096) (s : State) : Out :=
  let v := s.seamChan sm.val c.val
  if v.needs && (s.freeDozen sm.val (decide (c.val < 2048))).isSome then
    .next (s.setSeamChan sm.val c.val { v with ch := { v.ch with held := true }, recorded := some v.ch.record })
  else .next s

/-- Channel `c`, or the folded pair it belongs to, resumes on dozen `z` (R144 steps 3–5). -/
def State.moveTo (s : State) (sm c z : Nat) : State :=
  let old := s.dozenOf sm c
  let s1 := (s.resumeOn sm c z).park sm old
  let s2 := match (s.seamChan sm c).partner with | some p => s1.resumeOn sm p z | none => s1
  let s3 := if spareDozen z then s2.seamBoth sm (if z < 2112 then SEAM_SPARE.spare_cw else SEAM_SPARE.spare_acw) 1 else s2
  s3.post 0x0203 2 (some sm) (seamUnit sm 0 c) old z

/-- Channel `other` is folded onto the dozen of `keep` for the needs of channel `c` (R147, R148, R151). -/
def State.foldOnto (s : State) (sm c keep other : Nat) : State :=
  let old := s.dozenOf sm other
  let z := s.dozenOf sm keep
  let s1 := s.resumeOn sm other z
  let s2 := s1.setSeamChan sm other { s1.seamChan sm other with partner := some keep, lastTag := false }
  let s3 := s2.setSeamChan sm keep { s2.seamChan sm keep with partner := some other, ch := (s2.seamChan sm keep).ch.rearm, lastTag := true }
  let s4 := if other = c then s3.park sm old else s3
  ((s4.seamBoth sm SEAM_FOLD.folded 2).post 0x0204 2 (some sm) (seamUnit sm 0 keep) other z).post 0x0204 2 (some sm) (seamUnit sm 0 other) keep z

/-- The channels of a seam that need a dozen. -/
def State.needy (s : State) (sm : Nat) : List Nat :=
  (s.seamCh.filter (fun e => e.1 / 4096 == sm && e.2.needs)).map (fun e => e.1 % 4096)

/-- The channels in need that neither a dozen nor a fold can serve any more are lost (R147). -/
def State.loseStranded (s : State) (sm : Nat) : State :=
  (s.needy sm).foldl (fun a c => if (a.seamChan sm c).needs && a.serve sm c == .lost then a.loseChannel sm c else a) s

/-- Every channel in need served at once, as a training does (R158). -/
def State.serveAll (s : State) (sm : Nat) : State :=
  (s.needy sm).foldl (fun a c =>
    if (a.seamChan sm c).needs then
      match a.serve sm c with
      | .move z => a.moveTo sm c z
      | .fold _ keep other =>
        let b := a.foldOnto sm c keep other
        if other = c then b else match b.freeDozen sm (decide (c < 2048)) with | some z => b.moveTo sm c z | none => b.loseChannel sm c
      | .lost => a.loseChannel sm c
    else a) s

/-- `SEAM_CHANNEL_MOVED` (R144 steps 3–5); a folded pair moves as one group. -/
def execSeamChannelMoved (sm : DieIx) (c : Fin 4096) (s : State) : Out :=
  match (s.seamChan sm.val c.val).recorded, s.freeDozen sm.val (decide (c.val < 2048)) with
  | some _, some z => .next ((s.moveTo sm.val c.val z).loseStranded sm.val)
  | _, _ => .next s

/-- `SEAM_FOLD` (R147, R148, R151): the fold that R147 selects for a channel in need, by this entry of the fold map. -/
def execSeamFold (sm : DieIx) (entry : Nat) (s : State) : Out :=
  match (s.needy sm.val).find? (fun c => match s.serve sm.val c with | .fold i _ _ => i == entry | _ => false) with
  | some c =>
    match s.serve sm.val c with
    | .fold _ keep other => .next ((s.foldOnto sm.val c keep other).loseStranded sm.val)
    | _ => .next s
  | none => .next s

/-- A surviving seam end enters PEER_LOST (R156): tokens waiting to leave are held, or discarded and counted where their
connection's `peer_loss` is DRAIN; a token sent by the lost die and not yet captured is lost with it. -/
def State.seamPeerLost (s : State) (d e : Nat) : State :=
  let sm := if e = 0 then d else (d + 7) % 8
  let outs := s.seamCh.filter (fun c => c.1 / 4096 == sm && c.2.tx.isSome && (seamSender sm (c.1 % 4096)) == (d, e) &&
    (match s.connTo d (2 ^ 13 * (if e = 0 then 1 else 2) + c.1 % 4096) with
     | some f => (s.conn d f).peerLoss == 1 | none => false))
  let s0 := outs.foldl (fun a c => a.setSeamChan sm (c.1 % 4096) { a.seamChan sm (c.1 % 4096) with tx := none }) s
  let ins := s.seamCh.filter (fun c => c.1 / 4096 == sm && (seamReceiver sm (c.1 % 4096)) == (d, e))
  let s1 := ins.foldl (fun a c => a.setSeamChan sm (c.1 % 4096) { a.seamChan sm (c.1 % 4096) with
    tx := none
    ch := { Chan.armed with held := (a.seamChan sm (c.1 % 4096)).ch.held } }) s0
  ((s1.fsat (SEAM_DISCARD.count d e) outs.length).fset (SEAM_STAT.state d e) sePeerLost).post 0x0207 0 (some d) (seamUnit sm e 0)

/-- `SEAM_PEER_LOST` (R156). -/
def execSeamPeerLost (e : SeamEndIx) (s : State) : Out := .next (s.seamPeerLost (e.val / 2) (e.val % 2))

/-- The tokens a seam holds: on wires and not captured, or in receive registers. -/
def State.seamHeld (s : State) (sm : Nat) : Nat :=
  (s.seamCh.filter (fun c => c.1 / 4096 == sm)).foldl (fun n c =>
    n + (if c.2.rx.isSome then 1 else 0) + (if c.2.ch.req != c.2.ch.ack then 1 else 0)) 0

/-- Training of a seam (R158): the swept margins are judged, every token of the old epoch is discarded and counted, every
channel is re-armed empty, and both ends are ARMED under the neighbour's present epoch.  The bench links of die `sm` that train complete with it (R299). -/
def State.seamTrain (s : State) (sm : Nat) (ms : List (Nat × Margin)) : State :=
  let s1 := (ms.foldl (fun a m => a.measure sm m.1 m.2) s).serveAll sm
  let n := s1.seamHeld sm
  let s3 := (s1.seamCh.filter (fun c => c.1 / 4096 == sm)).foldl (fun a c =>
    a.setSeamChan sm (c.1 % 4096) { c.2 with ch := .armed, rx := none, recorded := none, gapDue := false }) s1
  let d2 := (sm + 1) % 8
  let s4 := (s3.fset (SEAM_STAT.state sm 0) seArmed).fset (SEAM_STAT.state d2 1) seArmed
  let s5 := (s4.fset (SEAM_STAT.peer_epoch sm 0) (s.fget (SPR_EPOCH.epoch d2))).fset (SEAM_STAT.peer_epoch d2 1) (s.fget (SPR_EPOCH.epoch sm))
  let s6 := (s5.fsat (SEAM_DISCARD.count sm 0) n).fsat (SEAM_DISCARD.count d2 1) n
  let s7 := (List.range 4).foldl (fun a k => if a.fget (BL_STAT.state sm k) = 1 then a.fset (BL_STAT.state sm k) 2 else a) s6
  s7.post 0x0208 0 (some sm) (seamUnit sm 0 0) n

/-- A die has power and is out of reset. -/
def State.dieUp (s : State) (d : Nat) : Bool := s.fget (DIE_STAT.state d) == 2 || s.fget (DIE_STAT.state d) == 4

/-- `SEAM_TRAINING` (R158): once both dies are there (R684). -/
def execSeamTraining (sm : DieIx) (ms : List (Nat × Margin)) (s : State) : Out :=
  if s.dieUp sm.val && s.dieUp ((sm.val + 1) % 8) then .next (s.seamTrain sm.val ms) else .next s

/-- The minimum-margin records of one end cleared (R159): the wires this end measures, acknowledge wires of the channels
it sends and every other wire of those it receives (R135). -/
def clearMinOf (sm : Nat) (d e : Nat) (k : Nat) (z : Dozen) : Dozen :=
  if k / 4224 ≠ sm then z
  else
    let recv := seamReceiver sm (if k % 4224 < 2112 then 0 else 2048) == (d, e)
    { z with wires := Tab.mapKeys .fresh (fun i w => if recv == (i != 11) then { w with min := 0xFF, warned := false } else w) z.wires }

def State.clearMin (s : State) (d e : Nat) : State :=
  let sm := if e = 0 then d else (d + 7) % 8
  { s with dozens := Tab.mapKeys .fresh (clearMinOf sm d e) s.dozens }

/-- `CLEAR_MIN` (R159). -/
def execClearMin (e : SeamEndIx) (s : State) : Out := .next (s.clearMin (e.val / 2) (e.val % 2))

/-- What `SEAM_MARGIN_e` reports of the selected wire (R163, R164). -/
def State.seamMargin (s : State) (d e : Nat) : Nat :=
  let sm := if e = 0 then d else (d + 7) % 8
  let c := s.fget (SEAM_SEL.channel d e)
  let w := s.fget (SEAM_SEL.wire d e)
  let z := s.dozenOf sm c
  let dz := s.dozen sm z
  let wi := Tab.get .fresh dz.wires w
  let st := if dz.spareFor = some w then 3 else if wi.failed then 2 else if wi.warned then 1 else 0
  (if (s.seamChan sm c).partner.isSome then 2 ^ 31 else 0) + st * 2 ^ 29 + z * 2 ^ 16 + wi.min * 2 ^ 8 + wi.now

end Sys2Proof.Machine
end

