-- ==== Sys2Proof/Machine/Noc.lean ====
section
/-! DEFINITION. The network on chip: topology, routes, injection, hops, timeouts, sparing and retirement (R263–R300). -/

namespace Sys2Proof.Machine

/-! ### Topology (R263, R264).  A location is 18d + position on a die ring, or 144 + i for spine position i -/

/-- The ring position of the router of physical tin `t` of a die. -/
def tinPos (t : Nat) : Nat := [1, 2, 3, 5, 6, 7, 9, 10, 11, 13, 14, 15, 16].getD t 0

/-- Where the router that serves a node lies: the die and ring position, or the spine positions of a hub node's ports. -/
inductive Site where
  | ring (d pos : Nat)
  | spine (ports : List Nat)
deriving DecidableEq, Repr

def State.site (s : State) : Node → Site
  | .role d r => .ring d (tinPos (s.localTin d r))
  | .mem c => .ring (c / 2) (if c % 2 = 0 then 0 else 12)
  | .mac d => .ring d 4
  | .stream d _ => .ring d 8
  | .dieReg d => .ring d 17
  | .hub n => if n = 1 then .spine (List.range 12) else if n = 0 then .spine [0, 6] else .spine [n - 1, n + 5]

/-- Ring hops between two positions of a die. -/
def ringHops (a b : Nat) : Nat := let x := (b + 18 - a) % 18; min x (18 - x)

/-- The next position from `a` toward `b`, the rising direction on a tie (assumption 10). -/
def ringStep (a b : Nat) : Nat := if (b + 18 - a) % 18 ≤ 9 then (a + 1) % 18 else (a + 17) % 18

/-- The neighbours of a spine position: its chord, then its ring neighbours (R264; the order is assumption 10). -/
def spineNbrs (i : Nat) : List Nat := [(i + 6) % 12, (i + 1) % 12, (i + 11) % 12]

/-- The positions within `n` spine hops of `i`, around the positions in `dead`. -/
def spineBall (dead : List Nat) (i : Nat) : Nat → List Nat
  | 0 => if dead.contains i then [] else [i]
  | n + 1 =>
    let b := spineBall dead i n
    (List.range 12).filter (fun j => b.contains j || (!dead.contains j && (spineNbrs j).any (fun k => b.contains k)))

/-- Spine hops between two positions. -/
def spineDist (dead : List Nat) (i j : Nat) : Option Nat := (List.range 12).find? (fun n => (spineBall dead i n).contains j)

/-- The spine position at which bench link `BL_d_k` ends. -/
def benchSlot (d k : Nat) : Nat := (3 * d + k) % 12

/-- Whether the installed routes use bench link `BL_d_k`. -/
def Noc.linkUp (n : Noc) (d k : Nat) : Bool := !n.downLinks.contains (4 * d + k) && !n.downSpines.contains (benchSlot d k)

/-- The least candidate by cost, the first on a tie. -/
def leastOf (l : List (Nat × Nat)) : Option (Nat × Nat) :=
  l.foldl (fun (m : Option (Nat × Nat)) e => match m with | none => some e | some x => if e.1 < x.1 then some e else some x) none

/-- From spine position `i` to die `d` at ring position `pos`: the cost and the bench link by which the far die is entered
(R284: ties to the lower k at the destination die). -/
def Noc.fromSpine (n : Noc) (i d pos : Nat) : Option (Nat × Nat) :=
  leastOf ((List.range 4).filterMap (fun k =>
    if n.linkUp d k then (spineDist n.downSpines i (benchSlot d k)).map (fun x => (x + ringHops (4 * k) pos, k)) else none))

/-- From spine position `i` to the nearest of a hub node's ports. -/
def Noc.toPort (n : Noc) (i : Nat) (ports : List Nat) : Option (Nat × Nat) :=
  leastOf (ports.filterMap (fun p => (spineDist n.downSpines i p).map (fun x => (x, p))))

/-- From spine position `i` to a site. -/
def Noc.fromSlot (n : Noc) (i : Nat) (t : Site) : Option (Nat × Nat) :=
  match t with
  | .ring e q => n.fromSpine i e q
  | .spine ps => n.toPort i ps

/-- From ring position `pos` of die `d` to a site off the die: the cost and the bench link to leave by (R284). -/
def Noc.leave (n : Noc) (d pos : Nat) (t : Site) : Option (Nat × Nat) :=
  leastOf ((List.range 4).filterMap (fun k =>
    if n.linkUp d k then
      (n.fromSlot (benchSlot d k) t).map (fun x => (ringHops pos (4 * k) + x.1, k))
    else none))

/-- One spine hop from `i` toward `j`. -/
def Noc.spineHop (n : Noc) (i j : Nat) : Option Nat :=
  match spineDist n.downSpines i j with
  | none => none
  | some x => ((spineNbrs i).find? (fun m => !n.downSpines.contains m && spineDist n.downSpines m j == some (x - 1))).map (144 + ·)

/-- The next location of a packet at `loc` for a site; none where no route remains (R281, R284, R296). -/
def Noc.nextHop (n : Noc) (loc : Nat) (t : Site) : Option Nat :=
  if loc < 144 then
    let d := loc / 18
    let pos := loc % 18
    let out := fun _ : Unit => (n.leave d pos t).map (fun x => if pos = 4 * x.2 then 144 + benchSlot d x.2 else 18 * d + ringStep pos (4 * x.2))
    match t with
    | .ring e q => if e = d then some (18 * d + ringStep pos q) else out ()
    | .spine _ => out ()
  else
    let i := loc - 144
    match t with
    | .ring e q => match n.fromSpine i e q with
      | none => none
      | some x => if benchSlot e x.2 = i then some (18 * e + 4 * x.2) else n.spineHop i (benchSlot e x.2)
    | .spine ps => match n.toPort i ps with
      | none => none
      | some x => n.spineHop i x.2

/-- Whether a location is the router that serves the site. -/
def Site.here (t : Site) (loc : Nat) : Bool :=
  match t with
  | .ring d q => loc == 18 * d + q
  | .spine ps => 144 ≤ loc && ps.contains (loc - 144)

/-- The router at which a node's packets enter the NoC for destination site `t` (R264). -/
def State.entry (s : State) (src : Node) (t : Option Site) : Nat :=
  match s.site src with
  | .ring d q => 18 * d + q
  | .spine ps =>
    let cost := fun p => match t with
      | some (.ring e q) => (s.noc.fromSpine p e q).map (fun x => (x.1, p))
      | some (.spine qs) => (s.noc.toPort p qs).map (fun x => (x.1, p))
      | none => some (0, p)
    144 + (((leastOf ((ps.filter (fun p => !s.noc.downSpines.contains p)).filterMap cost)).map (·.2)).getD (ps.getD 0 0))

/-! ### Links and routers out of service -/

/-- Whether spine position `i` has a working router (R295). -/
def State.spineUp (s : State) (i : Nat) : Bool :=
  !bit (s.fget NOC_SPINE.failed) i ||
    (s.fbit NOC_SPINE.spare_used && s.fget NOC_SPINE.spare_for == i && !bit (s.fget NOC_SPINE.failed) 12)

/-- Whether the link between two neighbouring locations can carry a unit now. -/
def State.edgeUp (s : State) (a b : Nat) : Bool :=
  let slotOk := fun x => x < 144 || s.spineUp (x - 144)
  let bench := fun d k => s.fget (BL_STAT.state d k) != 3
  slotOk a && slotOk b &&
    (if a < 144 ∧ 144 ≤ b then bench (a / 18) (a % 18 / 4)
     else if 144 ≤ a ∧ b < 144 then bench (b / 18) (b % 18 / 4) else true)

/-- Whether the link between two neighbouring locations has been retired and the alternate routes are installed: units of a packet whose
header crossed it are re-sent by them and keep their place in the packet's trail (R293, R294). -/
def Noc.resent (n : Noc) (a b : Nat) : Bool :=
  let slot := fun x => 144 ≤ x && n.downSpines.contains (x - 144)
  !n.reroute && (slot a || slot b ||
    (if a < 144 ∧ 144 ≤ b then n.downLinks.contains (4 * (a / 18) + a % 18 / 4)
     else if 144 ≤ a ∧ b < 144 then n.downLinks.contains (4 * (b / 18) + b % 18 / 4) else false))

/-- Whether a fabric die is in die reset or without power (R291). -/
def State.dieAway (s : State) (d : Nat) : Bool :=
  let st := s.fget (DIE_STAT.state d)
  st == 0 || st == 3 || st == 5

/-! ### Discards and responses -/

/-- A posted packet discarded in the NoC is counted by its counter and reported at most once per second for it (R290). -/
def State.lostPosted (s : State) (f : Fld) (key : Nat) (node : Nat) : State :=
  (s.fsat f 1).postLimited (0x20000 + key) 0x0402 3 none node 1

def State.discard (s : State) (node : Nat) : State := s.lostPosted NOC_ERR.discard 0 node

/-- A packet at location `loc` with its first unit there. -/
def Packet.flightAt (p : Packet) (loc : Nat) : Flight := ⟨p, [loc], List.replicate (p.units + 1) 0, 0⟩

def State.launch (s : State) (p : Packet) (loc : Nat) : State :=
  { s with noc := { s.noc with flights := s.noc.flights ++ [Packet.flightAt p loc] } }

def State.dropFlight (s : State) (f : Nat) : State := { s with noc := { s.noc with flights := s.noc.flights.eraseIdx f } }

/-- Flight `f` ends at a router or target: a non-posted request is answered from there, a posted one discarded by `lost`. -/
def State.answerAt (s : State) (f : Nat) (p : Packet) (loc src status detail : Nat) (lost : State → State) : State :=
  let s1 := s.dropFlight f
  if p.cmd.posted then lost s1 else s1.launch (p.refuse src status detail) loc

/-! ### Injection (R276–R280, R288) -/

/-- The domain the injection interface of a node sets (R276). -/
def State.nodeDomain (s : State) (n : Node) (asked : Nat) : Nat :=
  match n with
  | .role d r => (s.tin (s.tinOf d r)).domain
  | .hub 2 => if asked = 0 ∨ asked = 1 ∨ asked = 14 then asked else 0
  | .hub 3 => 12
  | .hub 5 => 15
  | _ => 13

/-- The epoch of an initiating node. -/
def State.nodeEpoch (s : State) (n : Node) : Nat :=
  match n with
  | .role d r => s.fget (TIN_STAT.epoch (s.tinOf d r))
  | .hub k => Tab.get 1 s.noc.hubEpoch k
  | _ => 0

/-- Whether a node is an initiator. -/
def Node.initiates : Node → Bool
  | .role _ _ => true
  | .hub n => 2 ≤ n
  | _ => false

def State.tagBusy (s : State) (src tag : Nat) : Bool :=
  s.noc.out.any (fun o => o.src == src && o.tag == tag) || s.noc.quar.any (fun o => o.src == src && o.tag == tag)

/-- Whether the injection interface holds packets to a site because its route is being changed (R294 step 1). -/
def State.held (s : State) (loc : Nat) (t : Site) : Nat → Bool
  | 0 => false
  | n + 1 =>
    s.noc.reroute && !t.here loc &&
      (match s.noc.nextHop loc t with
       | none => false
       | some x => !s.edgeUp loc x || s.held x t n)

/-- The request as its injection interface sends it: `src`, `domain`, `epoch`, and `dst` from the address (R276, R277). -/
def State.stamp (s : State) (id : Nat) (n : Node) (p : Packet) (dst : Nat) : Packet :=
  { p with
      src := id, domain := s.nodeDomain n p.domain, epoch := s.nodeEpoch n, dst := dst, proof := false, notice := false,
      status := 0, detail := 0, prio := p.prio % 4, poison := p.poison && !p.data.isEmpty }

/-- A request of node `id` enters the NoC (R272, R276–R279, R46, R288); `answer` is what the interface itself completes. -/
def State.injectReq (s : State) (id : Nat) (n : Node) (p : Packet) : State :=
  let refuse := fun (st : Nat) => { s with answer := if p.cmd.posted then none else some ⟨st, List.replicate p.respBytes 0, false⟩ }
  if !p.shapeOk then { s with answer := some ⟨stBadField, [], false⟩ }
  else if !p.cmd.posted && s.tagBusy id p.tag then refuse stBusy
  else
    match (if p.cmd = .message then some p.dst else s.dstOf p.addr) with
    | none => if p.cmd.posted then s.discard id else refuse stBadField
    | some dst =>
      let t := (nodeOf dst).map s.site
      let loc := s.entry n t
      if t.any (fun x => s.held loc x 40) then s
      else
        let q := s.stamp id n p dst
        let s1 := s.launch q loc
        if p.cmd.posted then s1
        else { s1 with noc := { s1.noc with out := s1.noc.out ++ [⟨id, q.tag, q.epoch, q.addr, q.cmd, q.bytes⟩] } }

/-- A design's answer to a request that came through its tin window: exactly one for each (R279). -/
def State.injectResp (s : State) (id d r : Nat) (p : Packet) : State :=
  let g := s.tinOf d r
  let x := s.tin g
  match x.nocIn.find? (fun q => q.tag == p.tag && q.src == p.dst) with
  | none => s
  | some q =>
    (s.setTin g { x with nocIn := x.nocIn.erase q }).launch (q.reply id p.status p.detail (slice p.data 0 q.respBytes) p.poison true)
      (18 * d + tinPos (s.localTin d r))

def State.inject (s : State) (id : Nat) (p : Packet) : State :=
  match nodeOf id with
  | none => s
  | some n =>
    match n, p.cmd with
    | .role d r, .response => s.injectResp id d r p
    | _, .response => s
    | _, _ => if n.initiates then s.injectReq id n p else s

/-- `NOC_INJECT` (R276): a tin's units pass its proofing gate first (R83, R379); a tin that does not run, is frozen or whose
crust is stalled sends nothing. -/
def execNocInject (id : Fin 4096) (p : Packet) (s : State) : Out :=
  match nodeOf id.val with
  | some (.role d r) =>
    let g := s.tinOf d r
    let x := s.tin g
    if !x.released || x.frozen || x.stopped then .next s
    else if x.nocGate.isEmpty && x.proofedUpTo x.seq then .next (s.inject id.val p)
    else .next (s.setTin g { x with nocGate := x.nocGate ++ [(p, x.seq)] })
  | _ => .next (s.inject id.val p)

/-- `PROOFING_GATE_RELEASE` (R379): the token at the head of a port's gate leaves once every read up to its stamp is proofed;
port 384 is the NoC crust port. -/
def execProofingGateRelease (t : TinIx) (p : Fin 385) (s : State) : Out :=
  let x := s.tin t.val
  if p.val < 384 then
    let v := x.port p.val
    match v.gate, v.offer with
    | e :: r, none => if v.mode = .pass ∧ x.proofedUpTo e.stamp then .next (s.setTin t.val (x.setPort p.val { v with gate := r, offer := some e.tok }).settle) else .next s
    | _, _ => .next s
  else
    match x.nocGate with
    | e :: r =>
      if x.proofedUpTo e.2 && x.released && !x.frozen && !x.stopped then
        .next ((s.setTin t.val { x with nocGate := r }).inject (roleNode (t.val / 13) (s.roleOf t.val)) e.1)
      else .next s
    | [] => .next s

/-! ### Hops (R281–R287, R291, R296, R635) -/

/-- The class and priority of a packet: its virtual channel (R282). -/
def Packet.vc (p : Packet) : Nat := (if p.cmd = .response then 4 else 0) + p.prio

/-- The location unit `u` of a flight has reached. -/
def Flight.locOf (f : Flight) (u : Nat) : Nat := f.trail.getD (f.idx.getD u 0) 0

/-- The link unit `u` would take next, for a unit that follows its header. -/
def Flight.nextOf (f : Flight) (u : Nat) : Option Nat :=
  if f.idx.getD u 0 + 1 < f.trail.length ∧ (u = 0 ∨ f.idx.getD u 0 < f.idx.getD (u - 1) 0) then f.trail[f.idx.getD u 0 + 1]? else none

/-- Whether a flight holds its virtual channel on the link from `a` to `b`: header across, last unit not. -/
def Flight.holds (f : Flight) (a b : Nat) : Bool :=
  (List.range (f.trail.length - 1)).any (fun k => f.trail.getD k 0 == a && f.trail.getD (k + 1) 0 == b &&
    f.idx.any (fun i => i ≤ k))

/-- The flights, by place in the list, with a unit ready for the link from `a` to `b` (R282). -/
def State.ready (s : State) (a b : Nat) : List (Nat × Flight) :=
  ((List.range s.noc.flights.length).zip s.noc.flights).filter (fun e =>
    (List.range e.2.idx.length).any (fun u => e.2.locOf u == a &&
      (if u = 0 ∧ e.2.idx.getD 0 0 + 1 = e.2.trail.length then
        (match nodeOf e.2.pkt.dst with | none => false | some n => s.noc.nextHop a (s.site n) == some b && !(s.site n).here a)
       else e.2.nextOf u == some b)))

/-- Whether flight `f` may send on the link from `a` to `b` now: the highest priority with a unit ready, a lower one first when it
has waited through 64 units (R282), and never before an earlier packet of its flow that waits at the same router (R283). -/
def State.mayGo (s : State) (f : Nat) (p : Packet) (wait a b : Nat) : Bool :=
  let l := (s.ready a b).filter (fun e => e.1 != f)
  let starved := l.any (fun e => 64 ≤ e.2.wait && e.2.pkt.prio < p.prio)
  (64 ≤ wait || (!starved && l.all (fun e => e.2.pkt.prio ≤ p.prio))) &&
    l.all (fun e => !(e.1 < f && e.2.pkt.src == p.src && e.2.pkt.dst == p.dst && Packet.vc e.2.pkt == Packet.vc p))

/-- Every packet of lower priority that was ready for the link has waited through one more unit. -/
def State.countWait (s : State) (f : Nat) (p : Packet) (a b : Nat) : State :=
  let r := (s.ready a b).filter (fun e => e.1 != f && e.2.pkt.prio < p.prio)
  { s with noc := { s.noc with flights := r.foldl (fun l e => l.set e.1 { e.2 with wait := e.2.wait + 1 }) s.noc.flights } }

/-- Unit `u` of flight `f` moves on to location `b`. -/
def State.moveUnit (s : State) (f u b : Nat) (v : Flight) : State :=
  let i := v.idx.getD u 0
  let tr := if u = 0 ∧ i + 1 = v.trail.length then v.trail ++ [b] else v.trail
  let s1 := s.countWait f v.pkt (v.locOf u) b
  { s1 with noc := { s1.noc with flights := s1.noc.flights.set f { v with trail := tr, idx := v.idx.set u (i + 1), wait := 0 } } }

/-- No route remains to a node: the non-posted request is answered `ABORTED`, a posted packet counted, and the node reported
once (R296). -/
def State.noRoute (s : State) (f : Nat) (p : Packet) (loc : Nat) : State :=
  let s1 := s.answerAt f p loc p.dst stAborted 0x0001 (fun x => x.lostPosted NOC_ERR.no_route 1 p.dst)
  if s1.noc.unreach.contains p.dst then s1
  else ({ s1 with noc := { s1.noc with unreach := p.dst :: s1.noc.unreach } }).post 0x0409 4
    (if p.dst / 256 = 0 then none else some (p.dst / 256 - 1)) p.dst

/-- The header of flight `f` is decoded at the router where it stands. -/
def State.hopHeader (s : State) (f : Nat) (v : Flight) : State :=
  let loc := v.locOf 0
  let p := v.pkt
  match nodeOf p.dst with
  | none => s.answerAt f p loc p.dst stBadField 0 (fun x => if p.cmd = .response then x else x.discard p.dst)
  | some n =>
    let t := s.site n
    let ps := s.fget PTM_PSTATE.state
    let away := match t with | .ring d _ => 144 ≤ loc && s.dieAway d | .spine _ => false
    let asleep := match t with | .ring _ _ => 144 ≤ loc && (ps == 2 || ps == 3) | .spine _ => false
    if t.here loc then s
    else if asleep then s.answerAt f p loc p.dst stWrongState (0x0100 + ps) (fun x => if p.cmd = .response then x else x.discard p.dst)
    else if away then (if p.cmd.posted ∧ p.cmd ≠ .response then (s.dropFlight f).discard p.dst else s.dropFlight f)
    else
      match s.noc.nextHop loc t with
      | none => s.noRoute f p loc
      | some b =>
        if s.edgeUp loc b && s.mayGo f p v.wait loc b &&
            !((List.range s.noc.flights.length).zip s.noc.flights).any (fun e => e.1 != f && Packet.vc e.2.pkt == Packet.vc p && e.2.holds loc b) then
          s.moveUnit f 0 b v
        else s

/-- `ROUTER_HOP`: one unit of a packet under way (R267, R281, R286, R287). -/
def execRouterHop (f u : Nat) (err : MemErr) (s : State) : Out :=
  match s.noc.flights[f]? with
  | none => .next s
  | some v =>
    if v.idx.length ≤ u then .next s
    else
      let loc := v.locOf u
      let s1 := if err = .corrected ∨ err = .persistent then s.countCorr (instRouter loc) else s
      if u = 0 then
        if err = .uncorr then
          .next (((s.dropFlight f).fsat NOC_ERR.hdr_uncorr 1).post 0x0401 3 (if loc < 144 then some (loc / 18) else none) loc)
        else if v.idx.getD 0 0 + 1 = v.trail.length then .next (s1.hopHeader f v)
        else .next s1
      else
        match v.nextOf u with
        | none => .next s1
        | some b =>
          let v1 := if err = .uncorr then { v with pkt := { v.pkt with poison := true } } else v
          if (s.edgeUp loc b || s.noc.resent loc b) && s.mayGo f v.pkt v.wait loc b then .next (s1.moveUnit f u b v1) else .next s1

/-- A flight all of whose units stand at the router of its destination node. -/
def State.arrived (s : State) (v : Flight) : Bool :=
  match nodeOf v.pkt.dst with
  | none => false
  | some n => v.idx.all (fun i => i + 1 == v.trail.length) && (s.site n).here (v.locOf 0)

/-- A packet under way that has wholly reached its target, if it is one. -/
def State.atTarget (s : State) (f : Nat) : Option (Packet × Nat) :=
  match s.noc.flights[f]? with
  | some v => if s.arrived v then some (v.pkt, v.locOf 0) else none
  | none => none

/-- The hub register that holds the late and timeout counts of an initiator: `BL_TMO` of a tin's die, else `NOC_LATE`. -/
def lateFld (src : Nat) : Fld := if src / 256 = 0 then NOC_LATE.late else BL_TMO.late (src / 256 - 1)
def timeoutsFld (src : Nat) : Fld := if src / 256 = 0 then NOC_LATE.timeouts else BL_TMO.timeouts (src / 256 - 1)

/-- `QUARANTINE_END` (R289): one second has passed for the i-th quarantined tag. -/
def execQuarantineEnd (i : Nat) (s : State) : Out := .next { s with noc := { s.noc with quar := s.noc.quar.eraseIdx i } }

/-! ### Sparing, retirement and reroute (R292–R296) -/

/-- `BENCH_WIRE_SPARED` (R292 as R141, R142): the dozen's spare wire replaces the failed wire. -/
def execBenchWireSpared (d : DieIx) (k : Fin 4) (out : Bool) (z : Fin 32) (w : Fin 12) (s : State) : Out :=
  let i := 256 * d.val + 64 * k.val + (if out then 32 else 0) + z.val
  let v := Tab.get .fresh s.bench i
  if (Tab.get .fresh v.wires w.val).failed && v.spareFor.isNone && !(Tab.get .fresh v.wires 12).failed then
    .next ((({ s with bench := Tab.put .fresh s.bench i { v with spareFor := some w.val } }).fsat (BL_STAT.wires_spared d.val k.val) 1).post 0x0404 2
      (some d.val) (4 * d.val + k.val) z.val w.val)
  else .next s

/-- A bench link is retired in both directions (R293). -/
def State.retireBench (s : State) (d k : Nat) : State :=
  if s.fget (BL_STAT.state d k) = 3 then s
  else
    let s1 := (s.fset (BL_STAT.state d k) 3).post 0x0406 2 (some d) (4 * d + k)
    { s1 with noc := { s1.noc with reroute := true } }

/-- `BENCH_DOZEN_SPARED` (R292 as R143, R144): a dozen with two failed wires moves to a spare dozen of its direction. -/
def execBenchDozenSpared (d : DieIx) (k : Fin 4) (out : Bool) (z : Fin 32) (s : State) : Out :=
  let i := 256 * d.val + 64 * k.val + (if out then 32 else 0) + z.val
  let v := Tab.get .fresh s.bench i
  let f := if out then BL_STAT.spare_out d.val k.val else BL_STAT.spare_in d.val k.val
  if 2 ≤ (v.wires.filter (fun w => w.2.failed)).length ∧ s.fget f < 2 ∧ s.fget (BL_STAT.state d.val k.val) ≠ 3 then
    .next ((({ s with bench := Tab.put .fresh s.bench i .fresh }).fset f (s.fget f + 1)).post 0x0405 2 (some d.val) (4 * d.val + k.val) z.val)
  else .next s

/-- A direction of a bench link has a dozen with two failed wires and no spare dozen left (R293). -/
def State.benchNeeds (s : State) (d k : Nat) (out : Bool) : Bool :=
  s.fget (if out then BL_STAT.spare_out d k else BL_STAT.spare_in d k) == 2 &&
    s.bench.any (fun e => e.1 / 32 == 8 * d + 2 * k + b2n out && decide (2 ≤ (e.2.wires.filter (fun w => w.2.failed)).length))

/-- `BENCH_LINK_RETIRED` (R293): a direction needs a dozen and has no spare one. -/
def execBenchLinkRetired (d : DieIx) (k : Fin 4) (s : State) : Out :=
  if s.benchNeeds d.val k.val true || s.benchNeeds d.val k.val false then .next (s.retireBench d.val k.val) else .next s

/-- `REROUTE_STEP` (R294): every router installs its alternate routes; nodes then without a route are reported (R296). -/
def State.rerouteStep (s : State) : State :=
  let links := (List.range 32).filter (fun i => s.fget (BL_STAT.state (i / 4) (i % 4)) == 3)
  let spines := (List.range 12).filter (fun i => !s.spineUp i)
  let remap := match s.dram.evac with | some (c, _) => if s.chState c = 6 then some c else none | none => none
  ({ s with noc := { s.noc with downLinks := links, downSpines := spines, reroute := false }
            dram := { s.dram with remap := remap } }).post 0x0403 0 none 0

def execRerouteStep (s : State) : Out := if s.noc.reroute then .next s.rerouteStep else .next s

/-- The packets inside the router at spine position `i` are lost (R295). -/
def State.loseRouter (s : State) (i : Nat) : State :=
  let gone := s.noc.flights.filter (fun v => (List.range v.idx.length).any (fun u => v.locOf u == 144 + i))
  let s1 := { s with noc := { s.noc with flights := s.noc.flights.filter (fun v => !(List.range v.idx.length).any (fun u => v.locOf u == 144 + i)) } }
  gone.foldl (fun a v => if v.pkt.cmd.posted && v.pkt.cmd != .response then a.discard v.pkt.dst else a) s1

def State.markSpine (s : State) (i : Nat) : State := s.fset NOC_SPINE.failed (setBit (s.fget NOC_SPINE.failed) i true)

/-- A spine router fails or is retired (R295): `SPINE_12` takes over, or its bench links are retired with it. -/
def State.failSpine (s : State) (i : Nat) : State :=
  let used := s.fbit NOC_SPINE.spare_used
  let spareBad := bit (s.fget NOC_SPINE.failed) 12
  let out := fun (s : State) (slot name : Nat) =>
    let s1 := ((s.markSpine name).loseRouter slot).post 0x0408 2 none name
    let s2 := { s1 with noc := { s1.noc with reroute := true } }
    (List.range 32).foldl (fun a l => if benchSlot (l / 4) (l % 4) = slot then a.retireBench (l / 4) (l % 4) else a) s2
  if bit (s.fget NOC_SPINE.failed) i then s
  else if i = 12 then
    if used then out s (s.fget NOC_SPINE.spare_for) 12 else (s.markSpine 12).post 0x0408 2 none 12
  else if !used && !spareBad then
    let s1 := ((((s.markSpine i).fset NOC_SPINE.spare_used 1).fset NOC_SPINE.spare_for i).loseRouter i).post 0x0407 2 none i
    { s1 with noc := { s1.noc with reroute := true } }
  else out s i i

/-- `SPINE_ROUTER_SPARED` (R295). -/
def execSpineRouterSpared (i : Fin 12) (s : State) : Out :=
  if !s.fbit NOC_SPINE.spare_used && !bit (s.fget NOC_SPINE.failed) 12 then .next (s.failSpine i.val) else .next s

/-- `SPINE_ROUTER_RETIRED` (R295). -/
def execSpineRouterRetired (i : SpineIx) (s : State) : Out :=
  if i.val = 12 ∨ s.fbit NOC_SPINE.spare_used ∨ bit (s.fget NOC_SPINE.failed) 12 then .next (s.failSpine i.val) else .next s

end Sys2Proof.Machine
end

