-- ==== Sys2Proof/Machine/Seal.lean ====
section
/-! DEFINITION. The sealing engines: granules and rights, keys and ciphers, the counter tree and its caches, proofs
(R343–R397). -/

namespace Sys2Proof.Machine

/-! ### Granules and rights (R343–R349, R355, R692, R717) -/

def State.gran (s : State) (g : Nat) : Granule := Tab.get .boot s.dram.gran g
def State.setGran (s : State) (g : Nat) (v : Granule) : State := { s with dram := { s.dram with gran := Tab.put .boot s.dram.gran g v } }

def State.lifecycle (s : State) : Nat := s.fget SEC_LIFECYCLE.lifecycle
def State.debugLevel (s : State) : Nat := s.fget SEC_LIFECYCLE.debug

/-- The 2-bit right of a domain to a granule: none to a STORE granule and none in RETIRED (R355, R692). -/
def State.right (s : State) (g dom : Nat) : Nat :=
  let v := s.gran g
  if v.mode = 3 ∨ s.lifecycle = 3 then 0 else bits v.rights (2 * dom) 2

/-- The limits the combination table sets on the debugger's memory accesses (R717). -/
def State.dbgMemOk (s : State) (g : Nat) (write : Bool) : Bool :=
  (if write then s.debugLevel == 3 else 2 ≤ s.debugLevel) && !(s.lifecycle == 2 && (s.gran g).mode == 2)

/-- Whether a domain may read (write) a granule (R347). -/
def State.granMay (s : State) (g dom : Nat) (write : Bool) : Bool :=
  (if write then s.right g dom == 2 else s.right g dom == 1 || s.right g dom == 2) && (dom != 15 || s.dbgMemOk g write)

/-! ### Keys and ciphers (R357–R362) -/

/-- `n` bytes of the TRNG stream from place `base` up, as a number. -/
def trngNat (base n : Nat) : Nat := leVal ((List.range n).map (fun i => Config.trngByte (base + i)))

/-- The keys of a channel whose keys were drawn at place `base` of the TRNG stream. -/
def ctrKeyOf (base : Nat) : Nat := trngNat base 32
def xtsKeysOf (base : Nat) : Nat × Nat := (trngNat (base + 32) 32, trngNat (base + 64) 32)
def hashKeyOf (base : Nat) : Nat := if trngNat (base + 96) 5 = 0 then 1 else trngNat (base + 96) 5

/-- SEC draws fresh keys for a channel; its write clock starts at 0 (R357, R358). -/
def State.drawKeys (s : State) (c : Nat) : State :=
  let r := s.takeFree 101
  r.2.setChan c { r.2.chan c with key := r.1 + 1, secKey := r.1 + 1, clock := 0, secClock := 0 }

/-- R360: the pad of block `b` of a line written with counter `v`. -/
def sealPad (key v b : Nat) : Nat := Config.aes256 key (v * 2 ^ 64 + b)

/-- R360: a SEALED or STORE line of 64 bytes encrypted (and, the cipher being its own inverse, decrypted). -/
def sealCipher (key v : Nat) (d : List Byte) : List Byte :=
  (List.range 4).flatMap (fun b => leBytes 16 (leAt d (16 * b) 16 ^^^ sealPad key v b))

/-- R361: the 40-bit tag of a line's ciphertext `d` at address `a` under counter `v`. -/
def sealTag (key hash v a : Nat) (d : List Byte) : Nat :=
  let blocks := (List.range 13).map (fun i => bits (leVal d) (40 * i) 40) ++ [a / 64 % 2 ^ 34, v % 2 ^ 40, v / 2 ^ 40 % 2 ^ 24]
  blocks.foldl (fun acc m => Config.gf40Mul (acc ^^^ m) hash) 0 ^^^ sealPad key v 4 % 2 ^ 40

/-- R362: a WRAPPED line as it lies in DRAM. -/
def wrapCipher (k1 k2 a : Nat) (d : List Byte) : List Byte := leBytes 64 (Config.xtsAes256 k1 k2 (a / 64 % 2 ^ 34) (leVal d))

/-! ### Stored poison (R307, R331) -/

/-- Whether the channel that holds the line at an address was last filled with stored poison: the part of the line's granule on its own
channel, or the lines evacuated into another. -/
def State.lostFill (s : State) (a : Nat) : Bool :=
  let c := (mapAddr s.mapOrder a).ch
  let h := (s.holder a).1
  Tab.get false s.dram.lost (if h = c then 16 * (a / 2 ^ 30) + c else 2048 + h)

/-- Whether the line at an address is stored as poison. -/
def State.linePoison (s : State) (a : Nat) : Bool := Bool.xor (s.lostFill a) (Tab.get false s.dram.poison (a / 64))

def State.setLinePoison (s : State) (a : Nat) (p : Bool) : State :=
  { s with dram := { s.dram with poison := Tab.put false s.dram.poison (a / 64) (Bool.xor p (s.lostFill a)) } }

/-! ### The counter tree (R363–R368) -/

/-- The poison counter (R359). -/
def poisonCtr : Nat := 2 ^ 64 - 1

/-- Counter-table key: the counter of level-`l` line `x` of granule `g` (level 0: data line `x`). -/
def ctrKey (l g x : Nat) : Nat := (l * 128 + g) * 2 ^ 24 + x

def State.ctr (s : State) (l g x : Nat) : Nat := Tab.get 0 s.dram.ctrs (ctrKey l g x)
def State.setCtr (s : State) (l g x v : Nat) : State := { s with dram := { s.dram with ctrs := Tab.put 0 s.dram.ctrs (ctrKey l g x) v } }

/-- R364: the address of level-`l` line `x` (1–3) of the granule in slot `k` = 6i + j. -/
def State.ctrAddr (s : State) (l k x : Nat) : Nat :=
  let mib := 2 ^ 20
  let base := (s.granules - 1 - k / 6) * 2 ^ 30
  let j := k % 6
  base + 64 * x + (match l with | 1 => j * 128 * mib | 2 => 768 * mib + j * 16 * mib | _ => 864 * mib + j * 2 * mib)

/-- R364: the address of the mirror of a level-2 or level-3 line. -/
def State.mirrorAddr (s : State) (l k x : Nat) : Nat :=
  let mib := 2 ^ 20
  let m := if s.mapOrder = 2 then 2 ^ 10 else 2 ^ 16
  let base := (s.granules - 1 - k / 6) * 2 ^ 30
  let j := k % 6
  base + ((64 * x) ^^^ m) + (if l = 2 then 876 * mib + j * 16 * mib else 972 * mib + j * 2 * mib)

/-- The counter line (level, granule, line) whose primary copy lies at an address of a STORE granule; none for a mirror, the unused part
or a free slot (R364). -/
def State.ctrLineOf (s : State) (a : Nat) : Option (Nat × Nat × Nat) :=
  let mib := 2 ^ 20
  let o := a % 2 ^ 30
  let (l, j, x) := if o < 768 * mib then (1, o / (128 * mib), o % (128 * mib) / 64)
    else if o < 864 * mib then (2, (o - 768 * mib) / (16 * mib), (o - 768 * mib) % (16 * mib) / 64)
    else (3, (o - 864 * mib) / (2 * mib), (o - 864 * mib) % (2 * mib) / 64)
  let k := 6 * (s.granules - 1 - a / 2 ^ 30) + j
  if 876 * mib ≤ o then none
  else ((List.range 128).find? (fun g => (s.gran g).mode == 2 && (s.gran g).slot == some k)).map (fun g => (l, g, x))

/-- R365: the larder offset of the level-4 word that holds the counter of level-3 line `x`. -/
def level4Off (k x : Nat) : Nat := k * 262144 + x / 8 * 64 + x % 8 * 8

/-- The home engine of a counter line (R366, R389). -/
def State.home (s : State) (l g x : Nat) : Nat := (s.holder (s.ctrAddr l (((s.gran g).slot).getD 0) x)).1

/-- The level-`l` ancestor of data line `n`. -/
def ancestor (l n : Nat) : Nat := n / 8 ^ l

/-- Whether a data line lies under a poison counter (R370, R384). -/
def State.pathPoisoned (s : State) (g n : Nat) : Bool := (List.range 4).any (fun l => s.ctr l g (ancestor l n) == poisonCtr)

/-- A fresh counter of a channel (R358); none when the clock has reached its end (R359). -/
def State.takeCounter (s : State) (c : Nat) : Option (Nat × State) :=
  let v := s.chan c
  if v.clock = 2 ^ 64 - 2 then none
  else
    let n := v.clock + 1
    some (n, s.setChan c { v with clock := n, due := v.due || n == 2 ^ 64 - 2 })

/-- A level-`l` counter line becomes the newest of its home's cache, dirty when its slots changed; the oldest line beyond 4,096
is written back with a fresh counter, and its parent updated the same way (R367, R377). -/
def State.touch : Nat → State → Nat → Nat → Nat → Bool → State
  | 0, s, _, _, _, _ => s
  | fuel + 1, s, l, g, x, dirty =>
    let h := s.home l g x
    let v := s.chan h
    let key := ctrKey l g x
    let old := v.cache.find? (fun e => e.1 == key)
    let s0 := if old.isSome then s else s.fsat (SEAL_CACHE.miss h) 1
    let c1 := (key, dirty || (old.map (·.2)).getD false) :: v.cache.filter (fun e => e.1 != key)
    let s1 := s0.setChan h { s0.chan h with cache := c1.take 4096 }
    match c1[4096]? with
    | some (k, true) =>
      let lv := k / 2 ^ 24 / 128
      let gv := k / 2 ^ 24 % 128
      let xv := k % 2 ^ 24
      match s1.takeCounter h with
      | none => s1
      | some (n, s2) =>
        let s3 := if lv = 1 then s2 else ((s2.takeCounter h).map (·.2)).getD s2
        let s4 := s3.setCtr lv gv xv n
        if lv < 3 then touch fuel s4 (lv + 1) gv (xv / 8) true else s4
    | _ => s1

def touchFuel : Nat := 131072

/-- The counter path of a data line is held by its homes: levels 3, 2, 1 in turn. -/
def State.touchPath (s : State) (g n : Nat) (dirty : Bool) : State :=
  ((s.touch touchFuel 3 g (ancestor 3 n) false).touch touchFuel 2 g (ancestor 2 n) false).touch touchFuel 1 g (ancestor 1 n) dirty

/-- What the counter path of a data line allows (R373). -/
inductive PathRes where
  | ok
  | away (detail : Nat)
  | lost (level : Nat)
deriving DecidableEq, Repr

def State.cached (s : State) (l g x : Nat) : Bool := (s.chan (s.home l g x)).cache.any (fun e => e.1 == ctrKey l g x)

/-- R373, R391: the first home on the path that is away, or the highest level whose line is gone. -/
def State.path (s : State) (g n : Nat) : PathRes :=
  let at_ := fun l =>
    let x := ancestor l n
    let h := s.home l g x
    let st := s.chState h
    let k := ((s.gran g).slot).getD 0
    if st = 7 then PathRes.lost l
    else if st ≠ 3 ∧ st ≠ 5 ∧ st ≠ 6 then .away (16 * h + st)
    else if !s.cached l g x && s.linePoison (s.ctrAddr l k x) && (l == 1 || s.linePoison (s.mirrorAddr l k x)) then .lost l
    else if l = 3 ∧ s.larder.poisoned (level4Off k x) then .lost 3
    else .ok
  match at_ 3 with
  | .ok => (match at_ 2 with | .ok => at_ 1 | r => r)
  | r => r

/-- The subtree under level-`l` line `x` is poisoned (R383, R384). -/
def State.poisonSubtree (s : State) (l g x : Nat) : State :=
  let h := s.home l g x
  let k := ((s.gran g).slot).getD 0
  let s1 := s.setCtr l g x poisonCtr
  let s2 := if l = 3 then { s1 with larder := s1.larder.setPoison (level4Off k x) false } else s1
  let wrote := fun (a : State) => ((a.takeCounter h).map (·.2)).getD a
  let s3 := if s.chState h = 7 then s2
    else wrote <| (if l = 1 then id else wrote) <| (List.range 8).foldl (fun a i => a.setCtr (l - 1) g (8 * x + i) poisonCtr)
      ((s2.setLinePoison (s.ctrAddr l k x) false).setLinePoison (if l = 1 then s.ctrAddr l k x else s.mirrorAddr l k x) false)
  (s3.fsat (SEAL_ERR.subtree h) 1).post 0x0603 3 (some (h / 2)) h (s.ctrAddr l k x) (16 * g + l)

/-- `COUNTER_REQUEST` (R366, R367, R383–R385): the home `c` of a counter line serves it from its cache, or reads it: `err` is what the
line's decode found, `tagOk` whether its tag matches its parent, `mirror` and `mirrorOk` the same of its mirror. -/
def State.counterRequest (s : State) (c l g x : Nat) (err : MemErr) (tagOk : Bool) (mirror : MemErr) (mirrorOk : Bool) : State :=
  let k := ((s.gran g).slot).getD 0
  let a := s.ctrAddr l k x
  let st := s.chState c
  if s.halted || (s.gran g).mode != 2 || (s.gran g).slot.isNone || l == 0 || 3 < l || 2 ^ 24 / 8 ^ l ≤ x || s.home l g x != c then s
  else if st = 7 then s.poisonSubtree l g x
  else if st ≠ 3 ∧ st ≠ 5 then s
  else if s.cached l g x then s.touch touchFuel l g x false
  else if l = 3 ∧ s.larder.poisoned (level4Off k x) then s.poisonSubtree 3 g x
  else
    let bad := err = .uncorr ∨ s.linePoison a
    let s1 := if err = .corrected ∨ err = .persistent then (s.fsat (MEM_ERR.corr c) 1).countCorr (instChannel c) else s
    if bad then
      if l = 1 ∨ mirror = .uncorr ∨ s.linePoison (s.mirrorAddr l k x) then s1.poisonSubtree l g x
      else if !mirrorOk then s1.securityHalt 3 (c / 2 + 1) c l (s.mirrorAddr l k x) 0
      else
        match s1.takeCounter c with
        | none => s1
        | some (n, s2) =>
          let s3 := (((s2.takeCounter c).map (·.2)).getD s2).setCtr l g x n
          let s4 := if l < 3 then s3.touch touchFuel (l + 1) g (x / 8) true else s3
          (((s4.setLinePoison a false).touch touchFuel l g x false).fsat (SEAL_ERR.repair c) 1).post 0x0602 1 (some (c / 2)) c a (16 * g + l)
    else if !tagOk then s1.securityHalt 2 (c / 2 + 1) c l a 0
    else s1.touch touchFuel l g x false

def execCounterRequest (c : ChIx) (l : Fin 4) (g : Fin 128) (x : Nat) (err : MemErr) (tagOk : Bool) (mirror : MemErr) (mirrorOk : Bool) (s : State) : Out :=
  .next (s.counterRequest c.val l.val g.val x err tagOk mirror mirrorOk)

/-! ### Proofs (R369–R373, R382, R392) -/

/-- The granule and line indices of the lines a request covers. -/
def linesOf (a n : Nat) : List Nat := (List.range ((a % 64 + max n 1 + 63) / 64)).map (fun i => a / 64 * 64 + 64 * i)

def granOf (a : Nat) : Nat := a / 2 ^ 30
def lineOf (a : Nat) : Nat := a / 64 % 2 ^ 24

/-- A response or notice leaves the memory port of channel `c`. -/
def State.fromPort (s : State) (c : Nat) (p : Packet) : State := s.launch p (18 * (c / 2) + (if c % 2 = 0 then 0 else 12))

/-- A delivered read whose proof can no longer complete (R392): its tin's ports stall, and the spare manager restarts the role. -/
def State.proofLost (s : State) (c : Nat) (req : Packet) : State :=
  let s1 := s.fsat (SEAL_ERR.proof_lost c) 1
  match nodeOf req.src with
  | some (.role d r) =>
    let t := s1.tinOf d r
    (s1.setTin t { (s1.tin t).stallAll with restart := true }).post 0x0604 3 (some d) r req.addr
  | _ => s1

/-- The tags and counter path of the proof `i` of channel `c` have been checked; `tagOk` is what the tag check found (R369 step 5). -/
def State.sealedReadProof (s : State) (c i : Nat) (tagOk : Bool) : State :=
  match (s.chan c).proofs[i]? with
  | none => s
  | some v =>
    let lines := linesOf v.req.addr v.req.bytes
    let drop := fun (s : State) => s.setChan c { s.chan c with proofs := (s.chan c).proofs.eraseIdx i }
    let away := lines.findSome? (fun a => match s.path (granOf a) (lineOf a) with | .away d => some d | _ => none)
    let lost := lines.findSome? (fun a => match s.path (granOf a) (lineOf a) with | .lost l => some (l, a) | _ => none)
    if s.halted || (s.chState c != 3 && s.chState c != 5) then s
    else
      match away, lost with
      | some d, _ => if v.delivered then s else (drop s).fromPort c (v.req.refuse (memNode c) stWrongState d)
      | none, some (l, a) =>
        let s1 := (drop s).poisonSubtree l (granOf a) (ancestor l (lineOf a))
        if v.delivered then s1.proofLost c v.req
        else s1.fromPort c (v.req.reply (memNode c) stDone 0 (List.replicate v.req.respBytes 0) true true)
      | none, none =>
        if lines.any (fun a => s.pathPoisoned (granOf a) (lineOf a)) then
          if v.delivered then (drop s).proofLost c v.req
          else (drop s).fromPort c (v.req.reply (memNode c) stDone 0 (List.replicate v.req.respBytes 0) true true)
        else if !tagOk then s.securityHalt 1 (c / 2 + 1) c 0 v.req.addr v.req.src
        else
          let s1 := lines.foldl (fun a x => a.touchPath (granOf x) (lineOf x) false) (drop s)
          if v.delivered then s1.fromPort c { v.req.reply (memNode c) stDone 0 [] false true with notice := true }
          else s1.fromPort c v.resp

def execSealedReadProof (c : ChIx) (i : Nat) (tagOk : Bool) (s : State) : Out := .next (s.sealedReadProof c.val i tagOk)

/-! ### Mode changes and reseals (R350–R354, R386, R438–R440, R797) -/

/-- The content of [a, a + n) becomes zero data that is not poisoned. -/
def State.zeroRange (s : State) (a n : Nat) : State :=
  let lines := n / 64
  let s1 := { s with dram := { s.dram with
    mem := Tab.drop (fun k => decide (a ≤ k ∧ k < a + n)) s.dram.mem
    poison := Tab.drop (fun k => decide (a / 64 ≤ k ∧ k < a / 64 + lines)) s.dram.poison } }
  if s.dram.lost.isEmpty then s1
  else (List.range lines).foldl (fun y i => if y.lostFill (a + 64 * i) then y.setLinePoison (a + 64 * i) false else y) s1

/-- The content of a whole granule becomes zero data. -/
def State.zeroGranule (s : State) (g : Nat) : State :=
  ({ s with dram := { s.dram with lost := Tab.drop (fun k => k / 16 == g) s.dram.lost } }).zeroRange (g * 2 ^ 30) (2 ^ 30)

/-- The counter lines wholly under data lines [lo, lo + n) of granule `g`, in slot `k`, are rebuilt: none is stored as poison. -/
def State.rebuildTree (s : State) (g k lo n : Nat) : State :=
  if s.dram.lost.isEmpty && s.dram.poison.isEmpty then s
  else [1, 2, 3].foldl (fun a l => (List.range (n / 8 ^ l)).foldl (fun b i =>
    let x := lo / 8 ^ l + i
    let c := if b.linePoison (b.ctrAddr l k x) then b.setLinePoison (b.ctrAddr l k x) false else b
    if l ≠ 1 ∧ c.linePoison (c.mirrorAddr l k x) = true then c.setLinePoison (c.mirrorAddr l k x) false else c) a) s

/-- The counters of a granule as its refill gives them. -/
def State.dropCtrs (s : State) (g : Nat) : State :=
  { s with dram := { s.dram with ctrs := Tab.drop (fun k => k / 2 ^ 24 % 128 == g) s.dram.ctrs } }

/-- Every channel that serves has written `n` lines under fresh counters, and its counter caches have written back some more,
whose number the manual leaves open (R358, assumption 15). -/
def State.bulkClock (s : State) (n : Nat) : State :=
  let r := s.takeFree 16
  (List.range 16).foldl (fun a c =>
    if a.chState c = 3 ∨ a.chState c = 5 then a.setChan c { a.chan c with clock := (a.chan c).clock + n + Config.freeNat (r.1 + c) } else a) r.2

/-- The lowest free slot, first of store granule 0 (R352). -/
def State.freeSlot (s : State) : Option Nat :=
  (List.range (6 * s.fget SEC_SEAL_CFG.stores)).find? (fun k => !(List.range 128).any (fun g => (s.gran g).slot == some k))

/-- A granule enters REFILLING toward a mode (R350 step 1); a new SEALED granule holds its slot from here. -/
def State.startRefill (s : State) (g mode : Nat) (slot : Option Nat) : State :=
  s.setGran g { s.gran g with state := 1, toMode := mode, slot := if slot.isSome then slot else (s.gran g).slot }

/-- A granule leaves REFILLING in its new mode (R350 steps 2–4, R353, R797). -/
def State.refillDone (s : State) (g : Nat) : State :=
  let v := s.gran g
  let s1 := (s.zeroGranule g).dropCtrs g
  let rights := if v.toMode = 3 then 0 else if v.mode = 3 then Granule.boot.rights else v.rights
  let s2 := s1.setGran g { v with state := 0, mode := v.toMode, rights := rights, slot := if v.toMode = 2 then v.slot else none }
  let s3 := if v.toMode = 2 then s2.rebuildTree g (v.slot.getD 0) 0 (2 ^ 24) else s2
  let s4 := if v.toMode = 2 ∨ v.toMode = 3 then s3.bulkClock (2 ^ 20) else s3
  s4.post 0x0600 0 none g v.toMode

/-- The reseal of a range ends (R386): its data zero under fresh counters, and every counter line wholly under it rebuilt. -/
def State.resealDone (s : State) (g : Nat) : State :=
  let v := s.gran g
  let a := v.range.1
  let n := v.range.2
  let lo := lineOf a
  let s1 := s.zeroRange a n
  let under := fun k =>
    let l := k / 2 ^ 24 / 128
    let x := k % 2 ^ 24
    k / 2 ^ 24 % 128 == g && decide (lo ≤ x * 8 ^ l ∧ x * 8 ^ l + 8 ^ l ≤ lo + n / 64)
  let s2 := { s1 with dram := { s1.dram with ctrs := Tab.drop under s1.dram.ctrs } }
  let s3 := (s2.setGran g { v with state := 0, range := (0, 0) }).rebuildTree g (v.slot.getD 0) lo (n / 64)
  (s3.bulkClock (n / 64 / 16)).post 0x0601 0 none g a n

end Sys2Proof.Machine
end

