-- ==== Sys2Proof/Machine/Dram.lean ====
section
/-! DEFINITION. The LPDDR-6 controllers: memory ports, scheduling, page predictor, refresh beat, errors, training, reserve and
evacuation (R301–R342, R369–R376). -/

namespace Sys2Proof.Machine

/-! ### Metadata and symbols (R305–R307) -/

/-- R305: subchannel, pin and beats of symbol `j`. -/
def symbolPlace (j : Nat) : Nat × Nat × Nat := (j / 36, j % 36 / 3, 8 * (j % 3))

/-- R307: the check symbols of a line stored as poisoned. -/
def poisonCheck (check : List Byte) : List Byte := check.map (fun b => b ^^^ 0xFF)

/-! ### Channel retirement (R333, R337) -/

def State.chPost (s : State) (c code sev : Nat) (arg0 : Nat := 0) : State := s.post code sev (some (c / 2)) c arg0
def State.setChState (s : State) (c st : Nat) : State := s.fset (MEM_STAT.state c) st

/-- Every line that channel `c` holds, lines evacuated into it among them, reads as stored poison. -/
def State.poisonChannel (s : State) (c : Nat) : State :=
  let l := (List.range 128).foldl (fun t g => Tab.put false t (16 * g + c) true) s.dram.lost
  { s with dram := { s.dram with
      lost := Tab.put false l (2048 + c) true
      poison := Tab.drop (fun k => (s.holder (64 * k)).1 == c) s.dram.poison } }

/-- `HQE_STAT.dram_ready` once every channel has reached READY, RETIRED or LOST (R433). -/
def State.checkReady (s : State) : State :=
  if (List.range 16).all (fun c => s.chState c == 3 || s.chState c == 6 || s.chState c == 7) then s.fset HQE_STAT.dram_ready 1 else s

/-- A channel enters LOST (R328, R337). -/
def State.loseMem (s : State) (c : Nat) (lines : Bool) : State :=
  let s1 := (s.setChState c 7).chPost c 0x0505 4
  (if lines then s1.chPost c 0x0504 3 else s1).checkReady

/-- The reserve is enabled and no channel is RETIRED or LOST (R337). -/
def State.reserveFree (s : State) : Bool :=
  s.reserveOn && s.dram.evac.isNone && (List.range 16).all (fun c => s.chState c != 6 && s.chState c != 7)

/-- A channel is retired: evacuated into the reserve, or lost without it; one that becomes due while an evacuation runs goes
on serving (R333, R334, R337). -/
def State.retireChannel (s : State) (c : Nat) : State :=
  if s.chState c ≠ 3 then s
  else if (match s.dram.evac with | some (k, _) => s.chState k != 6 && s.chState k != 7 | none => false) then s
  else if s.reserveFree then
    let s1 := s.setChan c { s.chan c with due := false }
    { ((s1.setChState c 5).fset (MEM_STAT.progress c) 0) with dram := { s1.dram with evac := some (c, 0) } }
  else (s.setChan c { s.chan c with due := false }).loseMem c true

/-- The spare manager retires a due channel when its policy lets it (R333, R571). -/
def State.dueChannel (s : State) (c : Nat) : State :=
  if (s.chan c).due && s.fbit SPR_POLICY.mem_auto then s.retireChannel c else s

/-! ### Line errors (R323, R324, R333) -/

/-- An uncorrectable line: its content becomes open, it is stored as poison, recorded, reported and counted toward retirement. -/
def State.dramUncorr (s : State) (c a : Nat) : State :=
  let r := s.takeFree 64
  let d := (List.range 64).map (fun i => Config.freeByte (r.1 + i))
  let s1 := { r.2 with dram := { r.2.dram with mem := writeBytes 0 r.2.dram.mem (a / 64 * 64) d } }
  let s2 := ((s1.setLinePoison a true).fsat (MEM_ERR.uncorr c) 1).setReg (MEM_ERR_ADDR c) (BitVec.ofNat 32 (2 ^ 31 + a / 64 % 2 ^ 31))
  let v := s2.chan c
  let times := s.now :: v.errTimes.filter (fun t => s.now < t + 3600 * oneSecond)
  let lim := s.fget (MEM_RETIRE.uncorr_limit c)
  (s2.setChan c { v with errTimes := times, due := v.due || (lim != 0 && decide (lim ≤ times.length)) }).chPost c 0x0502 3 (a / 64 * 64)

/-- What reading one line finds: the line poisoned or not, with the errors it counts (R323, R324). -/
def State.lineRead (s : State) (c a : Nat) (err : MemErr) : Bool × State :=
  if s.linePoison a then (true, s.fsat (MEM_ERR.poison_read c) 1)
  else
    match err with
    | .clean => (false, s)
    | .uncorr => (true, s.dramUncorr c a)
    | _ => (false, (s.fsat (MEM_ERR.corr c) 1).countCorr (instChannel c))

/-! ### Reads, writes, atomics of the engine and controller (R325, R369–R376) -/

/-- Every line a request covers is read; `err` is what the first one's decode found. -/
def State.linesRead (s : State) (c : Nat) : List Nat → MemErr → Bool × State
  | [], _ => (false, s)
  | a :: r, err =>
    let x := s.lineRead c a err
    let y := x.2.linesRead c r .clean
    (x.1 || y.1, y.2)

def State.isProofing (s : State) (node : Nat) : Bool :=
  match nodeOf node with
  | some (.role d r) => (s.tin (s.tinOf d r)).proofing
  | _ => false

/-- Why a sealed line's counter path refuses a request, if it does: a status and detail (R373). -/
def State.pathStop (s : State) (lines : List Nat) : Option (Nat × Nat) :=
  lines.findSome? (fun a => match s.path (granOf a) (lineOf a) with | .away d => some (stWrongState, d) | _ => none)

/-- Lines whose counter path is gone have it poisoned first (R373, R391). -/
def State.poisonLost (s : State) (lines : List Nat) : State :=
  lines.foldl (fun x a => match x.path (granOf a) (lineOf a) with | .lost l => x.poisonSubtree l (granOf a) (ancestor l (lineOf a)) | _ => x) s

/-- A read at channel `c` (R324, R369–R371): answered, delivered unproofed with its proof under way, or held for its proof. -/
def State.memRead (s : State) (c : Nat) (p : Packet) (err : MemErr) : State :=
  let lines := linesOf p.addr p.bytes
  let me := memNode c
  if (s.gran (granOf p.addr)).mode = 2 then
    match s.pathStop lines with
    | some (st, d) => s.fromPort c (p.refuse me st d)
    | none =>
      let s1 := s.poisonLost lines
      let r := s1.linesRead c lines err
      if r.1 || lines.any (fun a => r.2.pathPoisoned (granOf a) (lineOf a)) then
        r.2.fromPort c (p.reply me stDone 0 (List.replicate p.bytes 0) true true)
      else
        let d := readBytes 0 r.2.dram.mem p.addr p.bytes
        let early := s.isProofing p.src
        let s2 := r.2.setChan c { r.2.chan c with proofs := (r.2.chan c).proofs ++ [⟨p, early, p.reply me stDone 0 d false true⟩] }
        if early then s2.fromPort c (p.reply me stDone 0 d false false) else s2
  else
    let r := s.linesRead c lines err
    r.2.fromPort c (p.reply me stDone 0 (readBytes 0 r.2.dram.mem p.addr p.bytes) r.1 true)

/-- The line as a write finds it: read and corrected, unless the write covers all of it. -/
def State.lineOld (s : State) (c a : Nat) (full : Bool) (err : MemErr) : Bool × State := if full then (false, s) else s.lineRead c a err

/-- Bytes stored at address `a`, all within one line. -/
def State.lineStore (s : State) (a : Nat) (d : List Byte) (poison : Bool) : State :=
  ({ s with dram := { s.dram with mem := writeBytes 0 s.dram.mem a d } }).setLinePoison a poison

/-- One line of a write: `d` at address `a`, all within the line. Answers the status (R325, R375, R376, R286). -/
def State.lineWrite (s : State) (c a : Nat) (d : List Byte) (poison : Bool) (err : MemErr) (tagOk : Bool) (node : Nat) : Nat × State :=
  let full := d.length == 64
  let g := granOf a
  if (s.gran g).mode = 2 then
    let s1 := s.poisonLost [a]
    let r := s1.lineOld c a full err
    if r.2.pathPoisoned g (lineOf a) || r.1 then (stPoisoned, r.2)
    else if !full && !tagOk then (stInternal, r.2.securityHalt 1 (c / 2 + 1) c 0 a node)
    else
      match r.2.takeCounter c with
      | none => (stInternal, r.2)
      | some (n, s2) => (stDone, ((s2.setCtr 0 g (lineOf a) n).touchPath g (lineOf a) true).lineStore a d poison)
  else
    let r := s.lineOld c a full err
    if r.1 then (stPoisoned, r.2) else (stDone, r.2.lineStore a d poison)

/-- The lines of a write in turn; the worst status is the answer. -/
def State.linesWrite (s : State) (c a : Nat) (d : List Byte) (poison : Bool) (err : MemErr) (tagOk : Bool) (node : Nat) : List Nat → Nat × State
  | [] => (stDone, s)
  | l :: r =>
    let lo := max a l
    let hi := min (a + d.length) (l + 64)
    let x := s.lineWrite c lo (slice d (lo - a) (hi - lo)) poison err tagOk node
    let y := x.2.linesWrite c a d poison .clean tagOk node r
    (max x.1 y.1, y.2)

/-- A write at channel `c`; a posted write that is refused is discarded and counted (R286, R290, R348). -/
def State.memWrite (s : State) (c : Nat) (p : Packet) (err : MemErr) (tagOk : Bool) : State :=
  let lines := linesOf p.addr p.bytes
  let done := fun (s : State) (st d : Nat) =>
    if s.halted then s
    else if p.cmd.posted then (if st = stDone then s else s.postLimited (0x20100 + c) 0x0402 3 (some (c / 2)) (memNode c) 1)
    else s.fromPort c (p.refuse (memNode c) st d)
  match (if (s.gran (granOf p.addr)).mode = 2 then s.pathStop lines else none) with
  | some (st, d) => done s st d
  | none =>
    let r := s.linesWrite c p.addr p.data p.poison err tagOk p.src lines
    done r.2 r.1 0

/-- An atomic at channel `c`: a partial write that answers the old value (R274, R275, R376). -/
def State.memAtomic (s : State) (c : Nat) (p : Packet) (err : MemErr) (tagOk : Bool) : State :=
  let me := memNode c
  match (if (s.gran (granOf p.addr)).mode = 2 then s.pathStop [p.addr / 64 * 64] else none) with
  | some (st, d) => s.fromPort c (p.refuse me st d)
  | none =>
    let old := leVal (readBytes 0 s.dram.mem p.addr p.bytes)
    if p.poison then s.fromPort c (p.refuse me stPoisoned 0)
    else
      let r := s.lineWrite c p.addr (leBytes p.bytes (atomicNew p.cmd p.bytes p.data old)) false err tagOk p.src
      if r.2.halted then r.2
      else if r.1 = stDone then r.2.fromPort c (p.reply me stDone 0 (leBytes p.bytes old) false true)
      else r.2.fromPort c (p.refuse me r.1 0)

/-! ### The memory port (R312, R327, R335, R347, R348, R350) -/

/-- What the memory port of channel `c` refuses at once, by the channel's state and the engine's checks: status, detail and
whether the zero data is poisoned. -/
def State.portStop (s : State) (c : Nat) (p : Packet) : Option (Nat × Nat × Bool) :=
  let st := s.chState c
  let g := granOf p.addr
  let v := s.gran g
  if st = 7 then some (stPoisoned, 0, p.cmd == .read)
  else if st ≠ 3 ∧ st ≠ 5 ∧ st ≠ 6 then some (stWrongState, st, false)
  else if !s.granMay g p.domain (p.cmd != .read) then some (stNoRights, 0, false)
  else if v.state = 1 then some (stBusy, 0, false)
  else if v.state = 2 ∧ p.addr < v.range.1 + v.range.2 ∧ v.range.1 < p.addr + p.bytes then some (stBusy, 0, false)
  else none

/-- A request that has arrived at the port of channel `c` is refused, forwarded to the channel that holds its line, whose port may refuse
it too, or queued. -/
def State.memArrive (s : State) (f : Nat) (c : Nat) (p : Packet) : State :=
  if s.halted then s
  else
    let h := (s.holder p.addr).1
    let refuse := fun (c st d : Nat) (poison : Bool) =>
      let s1 := s.dropFlight f
      if p.cmd.posted then
        (if st = stNoRights then s1.fsat (SEAL_ERR.denied c) 1 else s1).postLimited (0x20100 + c) 0x0402 3 (some (c / 2)) (memNode c) 1
      else
        let s2 := if st = stNoRights then s1.fsat (SEAL_ERR.denied c) 1 else s1
        s2.fromPort c (p.reply (memNode c) st d (List.replicate p.respBytes 0) poison true)
    match s.portStop c p, s.portStop h p with
    | some (st, d, poison), _ => refuse c st d poison
    | none, some (st, d, poison) => refuse h st d poison
    | none, none =>
      if ((s.chan h).queue.filter (fun q => q.1.prio == p.prio)).length < 32 then
        let s1 := s.dropFlight f
        s1.setChan h { s1.chan h with queue := (s1.chan h).queue ++ [(p, s.now)] }
      else s

/-! ### Scheduling (R310, R311, R313, R374) -/

/-- Whether two requests touch one line. -/
def Packet.overlaps (p q : Packet) : Bool := (linesOf p.addr p.bytes).any (fun a => (linesOf q.addr q.bytes).contains a)

/-- The request the controller takes next: of the highest priority with a request ready, the flow served longest ago, its oldest
request; a request is ready when no earlier one for the same line waits and its channel is the one that holds its line. -/
def ChanSt.pick (v : ChanSt) : Option (Nat × Packet) :=
  let q := (List.range v.queue.length).zip (v.queue.map (·.1))
  let ready := q.filter (fun e => q.all (fun o => !(o.1 < e.1 && Packet.overlaps o.2 e.2)) &&
    q.all (fun o => !(o.1 < e.1 && o.2.src == e.2.src && o.2.prio == e.2.prio)))
  let top := ready.foldl (fun m e => max m e.2.prio) 0
  let cands := ready.filter (fun e => e.2.prio == top)
  let rank := fun (e : Nat × Packet) => if v.served.contains e.2.src then v.served.length - v.served.idxOf e.2.src else 0
  cands.foldl (fun (m : Option (Nat × Packet)) e => match m with | none => some e | some x => if rank e < rank x then some e else some x) none

/-- R311: the history counter of a bank after an access to `row`. -/
def histNext (h : Nat) (hit : Bool) : Nat :=
  if hit then (if h = 3 then 3 else h + 1) else (if h = 3 then 2 else if h = 2 then 1 else 0)

/-- R310: whether the row is kept open after a column command. -/
def keepOpen (h : Nat) (sameRowQueued otherRowQueued : Bool) : Bool :=
  if sameRowQueued then true else if otherRowQueued then false else decide (2 ≤ h)

/-- The predictor of a channel after an access (R311): counters start at 2. -/
def ChanSt.access (v : ChanSt) (bank row : Nat) : ChanSt :=
  let e := Tab.get (2, 0) v.hist bank
  { v with hist := Tab.put (2, 0) v.hist bank (if e.2 = 0 then e.1 else histNext e.1 (e.2 == row + 1), row + 1) }

/-- `MEM_QOS` records the longest wait of priorities 0 and 1 (R314, R340). -/
def State.recordWait (s : State) (c prio since : Nat) : State :=
  let us := min ((s.now - since) / (1000 * 2 ^ 40)) 0xFFFF
  let f := if prio = 0 then MEM_QOS.wait_p0 c else MEM_QOS.wait_p1 c
  if prio ≤ 1 ∧ s.fget f < us then s.fset f us else s

/-- `MEMORY_REQUEST` (R313): outside a beat the controller performs the next request of its queue; `err` is what the decode of the
first line read finds and `tagOk` what the tag check of a partial sealed write finds. -/
def State.memRequest (s : State) (c : Nat) (err : MemErr) (tagOk : Bool) : State :=
  let v := s.chan c
  if s.halted || s.dram.beat.stall || (s.chState c != 3 && s.chState c != 5) then s
  else
    match v.pick with
    | none => s
    | some (i, p) =>
      let since := ((v.queue.getD i (p, 0)).2)
      let h := (s.holder p.addr).1
      if h ≠ c then
        let s1 := s.setChan c { v with queue := v.queue.eraseIdx i }
        s1.setChan h { s1.chan h with queue := (s1.chan h).queue ++ [(p, since)] }
      else
        let q := mapAddr s.mapOrder p.addr
        let v1 := (ChanSt.access { v with queue := v.queue.eraseIdx i, served := p.src :: v.served.filter (· != p.src) } q.bank q.row)
        let s1 := (s.setChan c v1).recordWait c p.prio since
        let g := granOf p.addr
        let s2 :=
          if (s1.gran g).state = 1 then
            (if p.cmd.posted then s1.postLimited (0x20100 + c) 0x0402 3 (some (c / 2)) (memNode c) 1 else s1.fromPort c (p.refuse (memNode c) stBusy 0))
          else if p.cmd = .read then s1.memRead c p err
          else if p.cmd.atomic then s1.memAtomic c p err tagOk
          else s1.memWrite c p err tagOk
        s2.dueChannel c

def execMemoryRequest (c : ChIx) (err : MemErr) (tagOk : Bool) (s : State) : Out := .next (s.memRequest c.val err tagOk)

/-- The device address of the line at local index `j` of channel `c` (R326, R334): in the reserve rows the line evacuated there, if one is;
none for a line that has moved away. -/
def State.patrolAddr (s : State) (c j : Nat) : Option Nat :=
  let a := addrOf s.mapOrder c j
  let base := 15 * 2 ^ (s.addrWidth - 14)
  match s.dram.evac with
  | none => some a
  | some (e, ptr) =>
    if e = c then (if j < ptr then none else some a)
    else if j < base then some a
    else
      let i := 15 * (j - base) + (if c < e then c else c - 1)
      some (if i < ptr then addrOf s.mapOrder e i else a)

/-- `PATROL_READ` (R326): the channel's next line is decoded in a gap. -/
def execPatrolRead (c : ChIx) (err : MemErr) (s : State) : Out :=
  let v := s.chan c.val
  if s.halted || s.dram.beat.stall || !v.queue.isEmpty || (s.chState c.val != 3 && s.chState c.val != 5) then .next s
  else
    let s1 := match s.patrolAddr c.val v.patrol with | some a => (s.lineRead c.val a err).2 | none => s
    let s2 := s1.setChan c.val { s1.chan c.val with patrol := (v.patrol + 1) % 2 ^ (s.addrWidth - 10) }
    .next (s2.dueChannel c.val)

/-! ### The refresh beat (R316–R322, R330) -/

def State.setBeat (s : State) (b : Beat) : State := { s with dram := { s.dram with beat := b } }

/-- Whether grid point `k` carries a beat in a mode (R316). -/
def beatAt (hot : Bool) (k : Nat) : Bool := (hot || k % 2 == 0) && decide (1952 * k + 976 ≤ 1000000000)

/-- Whether a beat at grid point `k` is a slice beat (R317). -/
def sliceBeat (k : Nat) : Bool := k % 2 == 0 && k / 2 % 256 == 255

/-- The stall of a beat in ns (R318, R319). -/
def stallNs (trfcab : Nat) (slice : Bool) : Nat := if slice then 240 + trfcab else 40 + trfcab

/-- `BEAT_WARN` (R318): `beat_warn` rises when a lead is set. -/
def execBeatWarn (s : State) : Out :=
  if bits s.dram.beat.ctl 16 10 = 0 ∨ s.dram.beat.stall then .next s else .next (s.setBeat { s.dram.beat with warn := true })

/-- `BEAT_STALL` (R318): the beat at grid point `k` starts; in each channel that takes it all banks are precharged and refreshed.  It
falls at least 976 ns after the start of the previous beat (R321). -/
def execBeatStall (k : Nat) (s : State) : Out :=
  let b := s.dram.beat
  if b.stall || !beatAt b.hot k || (b.start != 0 && decide (s.now < b.start + 976 * 2 ^ 40)) then .next s
  else .next ((s.setBeat { b with stall := true, k := k, start := s.now }).fset TIME_BEAT_STAT.beat (k / 2))

/-- `BEAT_END` (R318): after tRFCab + 40 ns the signals fall, or a slice beat's slice begins. -/
def execBeatEnd (s : State) : Out :=
  let b := s.dram.beat
  if !b.stall || b.slice then .next s
  else if sliceBeat b.k then .next (s.setBeat { b with slice := true })
  else .next (s.setBeat { b with stall := false, warn := false })

/-- One channel's training slice (R330): its failure is counted toward retirement; `hot` is its devices' report (R320). -/
def State.trainSlice (s : State) (c : Nat) (failed hot : Bool) : State :=
  if s.chState c ≠ 3 ∧ s.chState c ≠ 5 then s
  else
    let v := s.chan c
    let s1 := s.setChan c { v with normals := if hot then 0 else v.normals + 1, hotReport := hot }
    if failed then
      let n := satAdd 8 (s.fget (MEM_STAT.retrain_fail c)) 1
      let s2 := s1.fset (MEM_STAT.retrain_fail c) n
      if s.fget (MEM_RETIRE.train_limit c) ≤ n then (s2.setChan c { s2.chan c with due := true }).dueChannel c else s2
    else s1.fset (MEM_STAT.retrain_fail c) 0

/-- `SLICE_BEAT_END` (R318): the slice ends; the channels in `failed` failed their training step and those in `hot` report a hot device. -/
def execSliceBeatEnd (failed hot : List ChIx) (s : State) : Out :=
  let b := s.dram.beat
  if !b.slice then .next s
  else
    let s1 := s.setBeat { b with stall := false, warn := false, slice := false }
    .next ((List.range 16).foldl (fun a c => a.trainSlice c (failed.any (fun x => x.val == c)) (hot.any (fun x => x.val == c))) s1)

/-- Hot mode set or cleared on every channel (R320). -/
def State.setHot (s : State) (h : Bool) : State :=
  let s1 := (s.setBeat { s.dram.beat with hot := h }).fset TIME_BEAT_STAT.hot (b2n h)
  (List.range 16).foldl (fun a c => a.fset (MEM_STAT.hot c) (b2n h)) s1

/-- `DRAM_REFRESH_HOT` (R320). -/
def execDramRefreshHot (s : State) : Out :=
  if !s.dram.beat.hot && (List.range 16).any (fun c => (s.chan c).hotReport) then .next ((s.setHot true).post 0x0500 0 none 0) else .next s

/-- `DRAM_REFRESH_NORMAL` (R320): every device has reported the normal indication at 16 consecutive slice beats. -/
def execDramRefreshNormal (s : State) : Out :=
  if s.dram.beat.hot && (List.range 16).all (fun c => decide (16 ≤ (s.chan c).normals) || (s.chState c != 3 && s.chState c != 5)) then
    .next ((s.setHot false).post 0x0501 0 none 0)
  else .next s

/-! ### Training, fill, self-refresh (R328–R331) -/

/-- Lines of a channel in the usable range. -/
def State.usableLines (s : State) : Nat := s.usable / 64 / 16

/-- The channel's page predictor after training (R311). -/
def State.trained (s : State) (c : Nat) : State := s.setChan c { s.chan c with hist := [], trainFails := 0 }

/-- A failed full training: three in a row lose the channel (R328). -/
def State.trainFail (s : State) (c : Nat) : State :=
  let v := s.chan c
  if 2 ≤ v.trainFails then (s.setChan c { v with trainFails := 0 }).loseMem c false
  else s.setChan c { v with trainFails := v.trainFails + 1 }

/-- The die of channel `c` runs or returns, with its MAIN clock, in a power state whose channels run (R257, R642, R649, R671). -/
def State.chanClocked (s : State) (c : Nat) : Bool :=
  (s.fget (DIE_STAT.state (c / 2)) == 2 || s.fget (DIE_STAT.state (c / 2)) == 4) && !bit (Tab.get 0 s.clk.lost (c / 2)) 0 &&
    (match s.ptm.wakeStep with
     | some n => decide (2 ≤ n)
     | none => decide (s.fget PTM_PSTATE.state < 2) && (match s.ptm.entry with | some (t, k) => t < 2 || decide (k < 3) | none => true))

/-- `CHANNEL_TRAINED` (R328): a channel in OFF or TRAINING completes (or fails) its full training and enters FILLING. -/
def execChannelTrained (c : ChIx) (ok : Bool) (s : State) : Out :=
  if s.chState c.val ≠ 0 ∧ s.chState c.val ≠ 1 ∨ !s.chanClocked c.val then .next s
  else if ok then .next (((s.trained c.val).setChState c.val 2).fset (MEM_STAT.progress c.val) 0)
  else .next ((s.setChState c.val 1).trainFail c.val)

/-- `CHANNEL_FILLED` (R328, R331, R346): every line holds zero data, or stored poison after a power loss; the channel is READY. -/
def execChannelFilled (c : ChIx) (s : State) : Out :=
  if s.chState c.val ≠ 2 then .next s
  else
    let v := s.chan c.val
    let hit := fun k => (mapAddr s.mapOrder (64 * k)).ch == c.val
    let s1 := if v.fillPoison then s.poisonChannel c.val
      else { s with dram := { s.dram with
        mem := Tab.drop (fun k => hit (k / 64)) s.dram.mem
        poison := Tab.drop hit s.dram.poison
        lost := Tab.drop (fun k => k % 16 == c.val) s.dram.lost } }
    let st := match s.dram.evac with | some (k, i) => if k = c.val ∧ i < s.usableLines then 5 else 3 | none => 3
    .next (((s1.setChan c.val { s1.chan c.val with fillPoison := false }).setChState c.val st).checkReady)

/-- A channel enters self-refresh (R329). -/
def State.selfRefresh (s : State) (c : Nat) : State :=
  if s.chState c = 3 ∨ s.chState c = 5 then s.setChState c 4 else s

/-- `SELF_REFRESH_EXIT` (R329, R390): the channel retrains, its keys and write clock come back from SEC, and it is READY; an
evacuation goes on where it paused (R678). -/
def execSelfRefreshExit (c : ChIx) (ok : Bool) (s : State) : Out :=
  if s.chState c.val ≠ 4 ∨ !s.chanClocked c.val ∨ s.dbg.boundary.isSome then .next s
  else if !ok then .next (s.trainFail c.val)
  else
    let s1 := s.trained c.val
    let v := s1.chan c.val
    let s2 := s1.setChan c.val (if v.key = 0 then { v with key := v.secKey, clock := v.secClock } else v)
    let st := match s.dram.evac with | some (k, _) => if k = c.val then 5 else 3 | none => 3
    .next (s2.setChState c.val st)

/-! ### Evacuation (R334–R337) -/

/-- A moved counter line or STORE line takes the fresh counter `n` of its new channel, and its new home updates the parent (R389). -/
def State.movedCtr (s : State) (a n : Nat) : State :=
  match s.ctrLineOf a with
  | some (l, g, x) =>
    if s.ctr l g x = poisonCtr then s
    else
      let s1 := s.setCtr l g x n
      if l < 3 then s1.touch touchFuel (l + 1) g (x / 8) true else s1
  | none => s

/-- `EVACUATION_LINE_MOVE` (R335, R389): the line at the move pointer goes to its surviving channel under a fresh counter where it is
sealed; one that cannot be corrected is written as stored poison. -/
def execEvacuationLineMove (err : MemErr) (s : State) : Out :=
  match s.dram.evac with
  | none => .next s
  | some (c, i) =>
    let t := evacTo s.addrWidth c i
    if s.halted || s.dram.beat.stall || s.chState c != 5 || s.chState t.1 != 3 || s.usableLines ≤ i then .next s
    else
      let a := addrOf s.mapOrder c i
      let p := s.linePoison a
      let s1 := if err = .uncorr ∧ !p then s.dramUncorr c a
        else if p then s.fsat (MEM_ERR.poison_read c) 1
        else if err = .clean then s else (s.fsat (MEM_ERR.corr c) 1).countCorr (instChannel c)
      let m := (s1.gran (granOf a)).mode
      let s2 := if m = 2 ∨ m = 3 then
          (match s1.takeCounter t.1 with
           | none => s1
           | some (n, x) =>
             if m = 3 then x.movedCtr a n
             else if !s1.pathPoisoned (granOf a) (lineOf a) then (x.setCtr 0 (granOf a) (lineOf a) n).touchPath (granOf a) (lineOf a) true else x)
        else s1
      let q := s2.linePoison a
      .next (({ s2 with dram := { s2.dram with evac := some (c, i + 1) } }.setLinePoison a q).fset (MEM_STAT.progress c)
        (min ((i + 1) * 65536 / s.usableLines) 0xFFFF))

end Sys2Proof.Machine
end

