-- ==== Sys2Proof/Machine/Lane.lean ====
section
/-! DEFINITION. Long lanes and media lanes: training, adaptation, states, patterns and injection (R453–R482). -/

namespace Sys2Proof.Machine

def State.lane (s : State) (l : Nat) : LaneSt := Tab.get .fresh s.lanes l
def State.setLane (s : State) (l : Nat) (v : LaneSt) : State := { s with lanes := Tab.put .fresh s.lanes l v }

/-! ### Table entries (R457–R460) -/

def eqValid (e : Nat) : Bool := bit e 63
def eqPre2 (e : Nat) : Nat := bits e 52 4
def eqPre1 (e : Nat) : Nat := bits e 46 6
def eqPost1 (e : Nat) : Nat := bits e 40 6
def eqCtle (e : Nat) : Nat := bits e 34 6
def eqCtleBound (e : Nat) : Nat := bits e 28 6
def eqFirBound (e : Nat) : Nat := bits e 22 6
def eqEyeMin (e : Nat) : Nat := bits e 14 8
/-- The main cursor of three taps (R458). -/
def eqMain (pre2 pre1 post1 : Nat) : Int := 64 - (pre2 : Int) - pre1 - post1

/-- Whether an entry passes the checks at commit (R459). -/
def eqOk (l e : Nat) : Bool :=
  bits e 56 4 == 0 && bits e 0 14 == 0 && decide (32 ≤ eqMain (eqPre2 e) (eqPre1 e) (eqPost1 e)) &&
    eqCtleBound e ≤ eqCtle e && eqCtle e + eqCtleBound e ≤ 63 && 1 ≤ eqEyeMin e && eqEyeMin e ≤ 128 && (l < 64 || eqPre2 e == 0)

/-- The committed entry of a lane. -/
def State.eqEntry (s : State) (l : Nat) : Nat := Tab.get eqDefault s.eqTable l

/-- Whether a rate code is one of R454 for the lane's type. -/
def laneRateOk (l r : Nat) : Bool := if l < 64 then r ≤ 4 else r ≤ 1 || (8 ≤ r && r ≤ 15)

/-- The clock family of a lane (R453, R454): bit 0 MAIN, 1 MEDIA_A, 2 MEDIA_B of the losses. -/
def State.laneFamily (s : State) (l : Nat) : Nat :=
  if l < 64 then 0 else if 9 ≤ s.fget (laneRate l) ∧ s.fget (laneRate l) % 2 = 1 then 2 else 1

/-! ### Demands (R471) -/

/-- The deepest state any demand names. -/
def State.laneDemand (s : State) (l : Nat) : Nat :=
  let d := laneDie l
  let power := match (match s.ptm.entry with | some (t, 4) => t | _ => s.fget PTM_PSTATE.state) with | 2 => 3 | 3 => 4 | 4 => 4 | _ => 0
  max (max (s.fget (laneReqState l)) (if eqValid (s.eqEntry l) then 0 else 4))
    (max (max power (if bit (Tab.get 0 s.clk.lost d) (s.laneFamily l) then 3 else 0)) (max (if s.dieAway d || s.fget (DIE_STAT.state d) == 4 then 4 else 0) (b2n s.halted)))

def State.setLaneState (s : State) (l st : Nat) : State := (s.fset (laneState l) st).updateLinks (laneDie l)

def State.lanePost (s : State) (l code sev : Nat) : State :=
  s.post code sev (some (laneDie l)) l (s.fget (laneEye l)) (s.fget (laneFails l))

/-- The settings in force replaced (R480). -/
def State.setEq (s : State) (l pre2 pre1 post1 ctle : Nat) : State :=
  (((s.fset (lanePre2 l) pre2).fset (lanePre1 l) pre1).fset (lanePost1 l) post1).fset (laneCtle l) ctle

/-- Training starts from the table entry (R463 step 1, R472). -/
def State.laneTrain (s : State) (l : Nat) : State :=
  let e := s.eqEntry l
  let v := { s.lane l with entry := e, trained := false, relock := false, testing := false, waiting := false, undo := none }
  (((((s.setLane l v).setEq l (eqPre2 e) (eqPre1 e) (eqPost1 e) (eqCtle e)).fset (laneSignal l) 0).fset (laneLocked l) 0).fset (laneAtBound l) 0).setLaneState l 5

/-- The lane goes to DEEP or OFF and discards its settings (R470, R472). -/
def State.laneDrop (s : State) (l st : Nat) : State :=
  let v := { s.lane l with trained := false, relock := false, testing := false, slow := false, waiting := false, undo := none,
                           wasStopped := s.fget (laneState l) == 6 || (s.lane l).wasStopped }
  let s1 := (((s.setLane l v).setEq l 0 0 0 0).fset (laneLocked l) 0).fset (laneAtBound l) 0
  (if st = 4 then s1.fset (laneSignal l) 0 else s1).setLaneState l st

/-- STOPPED, with the event of a failed self-test (R466). -/
def State.laneStop (s : State) (l : Nat) : State :=
  let v := { s.lane l with testing := false, slow := false, waiting := false, relock := false, wasStopped := false }
  ((s.setLane l v).setLaneState l 6).lanePost l 0x0804 4

/-- The lane reaches the state demanded (R470, R471); `pass` is the self-test of a lane that was STOPPED when its OFF demand
began. -/
def State.laneReach (s : State) (l : Nat) (pass : Bool) : State :=
  let st := s.fget (laneState l)
  let want := s.laneDemand l
  if st = 6 then (if want = 4 then s.laneDrop l 4 else s)
  else if st = 4 then
    if want = 4 then s
    else if (s.lane l).wasStopped && !pass then s.laneStop l
    else
      let s1 := s.setLane l { s.lane l with wasStopped := false }
      if want = 3 then s1.setLaneState l 3 else s1.laneTrain l
  else if st = 3 then (if want = 4 then s.laneDrop l 4 else if want = 3 then s else s.laneTrain l)
  else if 3 ≤ want then s.laneDrop l want
  else if st = 5 then s
  else if st = 2 ∧ want < 2 then (s.setLane l { s.lane l with relock := true }).setLaneState l 5
  else if want = 2 then ((s.fset (laneLocked l) 0).setLaneState l 2)
  else if st = 1 ∧ want = 0 then (s.setLaneState l 0).lanePost l 0x0800 0
  else s.setLaneState l want

/-- `LANE_STATE_REACHED` (R470). -/
def execLaneStateReached (l : LaneIx) (pass : Bool) (s : State) : Out := .next (s.laneReach l.val pass)

/-! ### Training (R463–R466) -/

/-- An attempt under way: training, not the self-test, not waiting for its next second. -/
def State.attempting (s : State) (l : Nat) : Bool := s.fget (laneState l) == 5 && !(s.lane l).testing && !(s.lane l).waiting

/-- `LANE_SIGNAL_DETECT` (R463): signal is detected and the receiver locks if it can. -/
def execLaneSignalDetect (l : LaneIx) (locked : Bool) (s : State) : Out :=
  if s.attempting l.val then .next ((s.fset (laneSignal l.val) 1).fset (laneLocked l.val) (b2n locked)) else .next s

/-- A failed attempt (R466): the next one, the self-test after three, or the wait for the next second. -/
def State.attemptFailed (s : State) (l : Nat) : State :=
  let s1 := s.fsat (laneFails l) 1
  if (s1.lane l).slow then s1.setLane l { s1.lane l with waiting := true }
  else if 3 ≤ s1.fget (laneFails l) then s1.setLane l { s1.lane l with testing := true }
  else s1.laneTrain l

/-- `LANE_ATTEMPT_TIMEOUT` (R465). -/
def execLaneAttemptTimeout (l : LaneIx) (s : State) : Out :=
  if s.attempting l.val && !(s.lane l.val).relock && s.fbit (laneSignal l.val) then .next (s.attemptFailed l.val) else .next s

/-- Whether the CTLE stands at a bound of the entry. -/
def ctleAtBound (e c : Nat) : Bool := c == eqCtle e + eqCtleBound e || c + eqCtleBound e == eqCtle e
/-- Whether a transmitter tap has been moved to its bound. -/
def tapAtBound (e start v : Nat) : Bool := v != start && (v == start + eqFirBound e || v + eqFirBound e == start)

/-- `at_bound` of the settings in force (R467). -/
def State.setAtBound (s : State) (l : Nat) : State :=
  let e := (s.lane l).entry
  s.fset (laneAtBound l) (b2n (ctleAtBound e (s.fget (laneCtle l)) || tapAtBound e (eqPre2 e) (s.fget (lanePre2 l)) ||
    tapAtBound e (eqPre1 e) (s.fget (lanePre1 l)) || tapAtBound e (eqPost1 e) (s.fget (lanePost1 l))))

/-- A CTLE value held within the entry's bounds. -/
def clampCtle (e c : Nat) : Nat := min (max c (eqCtle e - eqCtleBound e)) (eqCtle e + eqCtleBound e)

/-- The lane enters ACTIVE (R463 step 6, R482). -/
def State.laneActive (s : State) (l : Nat) : State :=
  ((((s.setLane l { s.lane l with trained := true, relock := false, slow := false, waiting := false }).fset (laneSignal l) 1).fset
    (laneLocked l) 1).setLaneState l 0).lanePost l 0x0800 0

/-- `LANE_UP` (R463, R469): the end of an attempt with its eye score and the CTLE it settled at; a relocking lane returns with its
present settings. -/
def execLaneUp (l : LaneIx) (eye ctle : Nat) (s : State) : Out :=
  let e := (s.lane l.val).entry
  if !s.attempting l.val then .next s
  else if (s.lane l.val).relock then .next (s.laneActive l.val)
  else
    let s1 := (((s.fset (laneCtle l.val) (clampCtle e ctle)).fset (laneEye l.val) (min eye 128)).setAtBound l.val)
    if eqEyeMin e ≤ eye then .next ((s1.laneActive l.val).fset (laneFails l.val) 0) else .next (s1.attemptFailed l.val)

/-- `LANE_SELF_TEST_DONE` (R466). -/
def execLaneSelfTestDone (l : LaneIx) (pass : Bool) (s : State) : Out :=
  let v := s.lane l.val
  if s.fget (laneState l.val) = 5 ∧ v.testing then
    if pass then .next ((s.setLane l.val { v with testing := false, slow := true, waiting := true }).lanePost l.val 0x0802 0)
    else .next (s.laneStop l.val)
  else .next s

/-- `LANE_RETRY` (R466): the attempt of this second. -/
def execLaneRetry (l : LaneIx) (s : State) : Out :=
  if s.fget (laneState l.val) = 5 ∧ (s.lane l.val).waiting then .next (s.laneTrain l.val) else .next s

/-- A tap of the transmitter: its field, its start value and its top. -/
def txTap (l e : Nat) : Fin 3 → Fld × Nat × Nat
  | 0 => (lanePre2 l, eqPre2 e, 15)
  | 1 => (lanePre1 l, eqPre1 e, 63)
  | 2 => (lanePost1 l, eqPost1 e, 63)

/-- Whether an enabled port's mode has the lane run link training (R463 step 4). -/
def State.linkTrains (s : State) (l : Nat) : Bool :=
  [0, 2, 3].contains (s.fget (laneRate l)) &&
    (List.range 12).any (fun p => s.fbit (MAC_PORT_CFG.enable (laneDie l) p) && (s.portLanes (laneDie l) p).contains l)

/-- `LINK_TRAINING_REQUEST` (R464): the partner asks for one step of a tap.  The answer's status is the 802.3 coefficient status:
1 updated, 2 minimum, 3 maximum. -/
def execLinkTrainingRequest (l : LaneIx) (tap : Fin 3) (inc : Bool) (s : State) : Out :=
  let e := (s.lane l.val).entry
  if s.attempting l.val && !(s.lane l.val).relock && s.linkTrains l.val then
    let (f, start, top) := txTap l.val e tap
    let v := s.fget f
    let sum := s.fget (lanePre2 l.val) + s.fget (lanePre1 l.val) + s.fget (lanePost1 l.val)
    let ok := if inc then v + 1 ≤ top && v + 1 ≤ start + eqFirBound e && sum + 1 ≤ 32 else 1 ≤ v && start ≤ v - 1 + eqFirBound e
    if ok then .next { (s.fset f (if inc then v + 1 else v - 1)).setAtBound l.val with answer := some ⟨1, [], false⟩ }
    else .next { s with answer := some ⟨if inc then 3 else 2, [], false⟩ }
  else .next s

/-! ### In service (R467–R469) -/

/-- One CTLE step of this measurement, or the undoing of the last (R467). -/
def State.adapt (s : State) (l eye : Nat) (dir : Fin 3) : State :=
  let v := s.lane l
  let e := v.entry
  let c := s.fget (laneCtle l)
  let drop := fun (s : State) => s.setLane l { s.lane l with undo := none }
  match v.undo with
  | some (old, score) =>
    if eye < score then ((drop s).fset (laneCtle l) old).setAtBound l else drop s
  | none =>
    if s.fbit (laneHold l) || dir == 0 then s
    else
      let n := clampCtle e (if dir = 1 then c + 1 else c - 1)
      if n = c then s.setAtBound l else ((s.setLane l { v with undo := some (c, eye) }).fset (laneCtle l) n).setAtBound l

/-- Consecutive low and good measurements (R468). -/
def State.eyeCount (s : State) (l eye : Nat) : State :=
  let v := s.lane l
  if eye < eqEyeMin v.entry then
    let s1 := s.setLane l { v with low := min (v.low + 1) 10, high := 0 }
    if 10 ≤ v.low + 1 ∧ ¬ s.fbit (laneEyeLow l) then (s1.fset (laneEyeLow l) 1).lanePost l 0x0803 0 else s1
  else
    let s1 := s.setLane l { v with high := min (v.high + 1) 10, low := 0 }
    if 10 ≤ v.high + 1 then s1.fset (laneEyeLow l) 0 else s1

/-- `EYE_MEASUREMENT` (R462, R467, R468): the score of an ACTIVE lane, and the CTLE step the adaptation takes (0 none, 1 up, 2 down). -/
def execEyeMeasurement (l : LaneIx) (eye : Nat) (dir : Fin 3) (s : State) : Out :=
  if s.fget (laneState l.val) = 0 then
    .next (((s.fset (laneEye l.val) (min eye 128)).adapt l.val (min eye 128) dir).eyeCount l.val (min eye 128))
  else .next s

/-- `LANE_SIGNAL_LOST` (R469): the lane tries to relock with its present settings. -/
def execLaneSignalLost (l : LaneIx) (s : State) : Out :=
  if s.fget (laneState l.val) = 0 then
    .next (((((s.fset (laneSignal l.val) 0).fset (laneLocked l.val) 0).setLane l.val { s.lane l.val with relock := true }).setLaneState l.val 5).lanePost
      l.val 0x0801 0)
  else .next s

/-- `LANE_RELOCK_TIMEOUT` (R469). -/
def execLaneRelockTimeout (l : LaneIx) (s : State) : Out :=
  if s.fget (laneState l.val) = 5 ∧ (s.lane l.val).relock then .next (s.laneTrain l.val) else .next s

/-! ### Control (R471–R477) -/

/-- A lane that holds a state its new demand must change does so at its next `LANE_STATE_REACHED`; the write sets the demand. -/
def execLaneReqState (l : LaneIx) (v : Fin 5) (s : State) : Out := .next (s.fset (laneReqState l.val) v.val)

/-- Whether the lane is OFF, DEEP or STOPPED. -/
def State.laneParked (s : State) (l : Nat) : Bool := s.fget (laneState l) == 3 || s.fget (laneState l) == 4 || s.fget (laneState l) == 6

/-- A change of `rate` (R472, R473): through DEEP to training at the new rate. -/
def State.setRate (s : State) (l r : Nat) : State :=
  if !laneRateOk l r || s.fget (laneRate l) == r then s
  else
    let s1 := s.fset (laneRate l) r
    if s.laneParked l then s1.updateLinks (laneDie l) else (s1.laneDrop l 3).laneTrain l

/-- `LANE_RATE_WRITE` (R473). -/
def execLaneRateWrite (l : LaneIx) (r : Fin 16) (s : State) : Out := .next (s.setRate l.val r.val)

/-- A write of `retrain` (R466, R472); `pass` is the self-test that a STOPPED lane repeats. -/
def State.retrain (s : State) (l : Nat) (pass : Bool) : State :=
  match s.fget (laneState l) with
  | 6 => if pass then (s.setLane l { s.lane l with slow := false }).laneTrain l else s.laneStop l
  | 3 => s
  | 4 => s
  | _ => (s.setLane l { s.lane l with slow := false }).laneTrain l

/-- `LANE_RETRAIN` (R472). -/
def execLaneRetrain (l : LaneIx) (pass : Bool) (s : State) : Out := .next (s.retrain l.val pass)

/-- A write of `inj_once` (R476): one bit of the next word; a locked checker on the same lane's near-end loopback counts it. -/
def State.injOnce (s : State) (l : Nat) : State :=
  if s.fget (laneLoopback l) = 1 ∧ s.fbit (laneChkLocked l) ∧ s.fget (laneChk l) ≠ 0 then s.fsat (laneErrs l) 1
  else s.setLane l { s.lane l with inj := true }

/-- `INJ_ONCE` (R476). -/
def execInjOnce (l : LaneIx) (s : State) : Out := .next (s.injOnce l.val)

/-- `INJ_RATE` (R476): 0, or one bit in every 2^k. -/
def execInjRate (l : LaneIx) (k : Fin 64) (s : State) : Out :=
  if k.val = 0 ∨ (10 ≤ k.val ∧ k.val ≤ 40) then .next (s.fset (laneInjRate l.val) k.val) else .next s

/-- A write of `chk_clear` (R475). -/
def State.chkClear (s : State) (l : Nat) : State := (s.fset (laneErrs l) 0).fset (laneChkLocked l) 0

/-- `CHK_CLEAR` (R475). -/
def execChkClear (l : LaneIx) (s : State) : Out := .next (s.chkClear l.val)

/-- `PATTERN_CHECKER_LOCK` (R475): `errors` counted while it was locked, then locked or unlocked and seeded again. -/
def execPatternCheckerLock (l : LaneIx) (locked : Bool) (errors : Nat) (s : State) : Out :=
  if s.fget (laneChk l.val) = 0 then .next (s.fset (laneChkLocked l.val) 0)
  else
    let s1 := if s.fbit (laneChkLocked l.val) then s.fsat (laneErrs l.val) errors else s
    .next (s1.fset (laneChkLocked l.val) (b2n locked))

/-- A change of `loopback` (R477). -/
def State.setLoopback (s : State) (l v : Nat) : State :=
  if s.fget (laneLoopback l) = v then s
  else
    let s1 := s.fset (laneLoopback l) v
    if s.laneParked l then s1 else s1.laneTrain l

/-- `LOOPBACK_CHANGE` (R477). -/
def execLoopbackChange (l : LaneIx) (v : Fin 3) (s : State) : Out := .next (s.setLoopback l.val v.val)

/-- The patterns of R474 that a value may select: the generator, and the checker. -/
def genPatOk (rate v : Nat) : Bool := v ≤ 6 || v == 8 || (v == 7 && 2 ≤ rate && rate ≤ 4)
def chkPatOk (rate v : Nat) : Bool := v ≤ 6 || (v == 7 && 2 ≤ rate && rate ≤ 4)

end Sys2Proof.Machine
end

