-- ==== Sys2Proof/Machine/Clock.lean ====
section
/-! DEFINITION. Clock generation, crossings, edge FIFOs and the loss of a die's interface clock (R231–R262). -/

namespace Sys2Proof.Machine

/-! ### References and generators (R233–R239) -/

/-- The active generator: 0 A, 1 B. -/
def State.genActive (s : State) : Nat := s.fget CLK_STAT.active
/-- The lock bit of a generator. -/
def genLocked (g : Nat) : Fld := if g = 0 then CLK_STAT.a_locked else CLK_STAT.b_locked
def State.genFaulted (s : State) (g : Nat) : Bool := bit s.clk.faulted g
def State.setFaulted (s : State) (g : Nat) (b : Bool) : State := { s with clk := { s.clk with faulted := setBit s.clk.faulted g b } }

/-- The standby is locked and tracks the active generator (R234). -/
def State.standbyReady (s : State) : Bool := s.fbit (genLocked (1 - s.genActive)) && s.fbit CLK_STAT.tracking

/-- The other generator becomes active (R235, R236). -/
def State.switchover (s : State) (sev : Nat) : State :=
  let n := 1 - s.genActive
  ((s.fset CLK_STAT.active n).fsat CLK_STAT.switch_count 1).post 0x0300 sev none n

/-- `CLK_REF_LOST` (R233, R239): reference `f` is declared lost; both generators hold over on its family. -/
def execClkRefLost (f : Fin 4) (s : State) : Out :=
  if bit (s.fget CLK_STAT.ref_lost) f.val then .next s
  else .next (((s.fset CLK_STAT.ref_lost (setBit (s.fget CLK_STAT.ref_lost) f.val true)).fset CLK_STAT.holdover
    (setBit (s.fget CLK_STAT.holdover) f.val true)).post 0x0303 2 none f.val)

/-- `CLK_REF_RESTORED` (R239). -/
def execClkRefRestored (f : Fin 4) (s : State) : Out :=
  if bit (s.fget CLK_STAT.ref_lost) f.val then
    .next (((s.fset CLK_STAT.ref_lost (setBit (s.fget CLK_STAT.ref_lost) f.val false)).fset CLK_STAT.holdover
      (setBit (s.fget CLK_STAT.holdover) f.val false)).post 0x0304 0 none f.val)
  else .next s

/-- `CLK_SWITCHOVER` (R236): the active generator faults while the standby tracks and `auto_switch` is 1; `lostLock` says that it lost
lock rather than an edge. -/
def execClkSwitchover (lostLock : Bool) (s : State) : Out :=
  if s.fbit CLK_CTL.auto_switch && s.standbyReady then
    let g := s.genActive
    let s1 := (s.switchover 2).setFaulted g true
    .next ((if lostLock then s1.fset (genLocked g) 0 else s1).fset CLK_STAT.tracking 0)
  else .next s

/-- A write of `switch` (R236): no effect unless the standby is locked and tracking.  A generator that stands faulted as it hands
over waits for `CLK_GEN_READY`. -/
def State.clkSwitch (s : State) : State :=
  if s.standbyReady then
    let s1 := s.switchover 0
    if s.genFaulted s.genActive then s1.fset CLK_STAT.tracking 0 else s1
  else s

/-- `CLK_CTL_SWITCH` (R236). -/
def execClkCtlSwitch (s : State) : Out := .next s.clkSwitch

/-- `CLK_GEN_READY` (R237): the faulted standby has held lock and tracking for 1 s. -/
def execClkGenReady (s : State) : Out :=
  let g := 1 - s.genActive
  if s.genFaulted g ∧ (s.fget PTM_PSTATE.state ≠ 3 ∨ s.fbit PTM_PSTATE.emulated) then .next ((((s.setFaulted g false).fset (genLocked g) 1).fset CLK_STAT.tracking 1).post 0x0301 0 none g)
  else .next s

/-- `CLK_GEN_FAULT` (R236, R238): the active generator faults and no switchover follows.  With no standby tracking that is reported; with one,
`auto_switch` is 0 and a write of `switch` may follow. -/
def execClkGenFault (lostLock : Bool) (s : State) : Out :=
  let g := s.genActive
  if s.standbyReady && s.fbit CLK_CTL.auto_switch then .next s
  else
    let s1 := s.setFaulted g true
    let s2 := if lostLock then s1.fset (genLocked g) 0 else s1
    .next (if s.standbyReady then s2 else s2.post 0x0302 4 none g)

/-- `CLK_OUTPUT_GATE` (R238): the faulted active generator gates its outputs off. -/
def execClkOutputGate (s : State) : Out :=
  if s.genFaulted s.genActive then .next { s with clk := { s.clk with gated := true } } else .next s

/-- `STANDBY_GENERATOR_FAULT` (R234): the standby loses lock or stops tracking. -/
def execStandbyGeneratorFault (lostLock : Bool) (s : State) : Out :=
  let g := 1 - s.genActive
  let s1 := (s.setFaulted g true).fset CLK_STAT.tracking 0
  .next (if lostLock then s1.fset (genLocked g) 0 else s1)

/-- `OTHER_GENERATOR_LOCKED` (R637): in DEEP the generator powered after the active one faulted takes over, by a switchover while the
faulted outputs still run, afresh once they are gated. -/
def execOtherGeneratorLocked (s : State) : Out :=
  let g := s.genActive
  if s.fget PTM_PSTATE.state = 3 ∧ s.genFaulted g then
    let s1 := (s.setFaulted (1 - g) false).fset (genLocked (1 - g)) 1
    if s.clk.gated then
      .next { ((s1.fset CLK_STAT.active (1 - g)).post 0x0300 2 none (1 - g)) with clk := { s1.clk with gated := false } }
    else .next (s1.switchover 2)
  else .next s

/-- `CLK_PATH_SPARED` (R241): a die uses its other copy from then on. -/
def execClkPathSpared (d : DieIx) (s : State) : Out :=
  if s.dieAway d.val ∨ s.fbit (DIE_CLK_STAT.path_other d.val) then .next s
  else .next ((s.fset (DIE_CLK_STAT.path_other d.val) 1).post 0x0305 2 (some d.val) d.val)

/-! ### Crossings (R242–R247).  Groups: 0 long-lane PCS and MAC, 1 media lanes, 2 DRAM channels, 3 time edge (R261) -/

def edgeKey (d g n : Nat) : Nat := 64 * (4 * d + g) + n
def State.edge (s : State) (d g n : Nat) : Edge := Tab.get .fresh s.clk.edges (edgeKey d g n)
def State.setEdge (s : State) (d g n : Nat) (v : Edge) : State :=
  { s with clk := { s.clk with edges := Tab.put .fresh s.clk.edges (edgeKey d g n) v } }

/-- A crossing freezes while its die has lost its family (R255); crossing `n` of the media group belongs to lane n mod 4. -/
def State.frozenEdge (s : State) (d g n : Nat) : Bool :=
  bit (Tab.get 0 s.clk.lost d) (if g = 1 then s.laneFamily (64 + 4 * d + n % 4) else 0)

/-- A group's sticky flag set; it posts on the transition from clear to set (R253). -/
def State.setFlag (s : State) (f : Fld) (d g n code sev : Nat) : State :=
  if bit (s.fget f) g then s else (s.fset f (setBit (s.fget f) g true)).post code sev (some d) (64 * g + n)

/-- `CONTROL_CROSSING` (R242, R243): the level arrives. -/
def execControlCrossing (d : DieIx) (g : Fin 4) (n : Fin 64) (level : Bool) (s : State) : Out :=
  if s.frozenEdge d.val g.val n.val then .next s
  else .next (s.setEdge d.val g.val n.val { s.edge d.val g.val n.val with level := level })

/-- `EVENT_CROSSING` (R244): the acknowledge toggle returns (`ack`), or the source's next event occurs.  Before its acknowledge a
clockless source waits and a clocked one merges. -/
def execEventCrossing (d : DieIx) (g : Fin 4) (n : Fin 64) (clocked : Bool) (ack : Bool) (s : State) : Out :=
  let v := s.edge d.val g.val n.val
  if s.frozenEdge d.val g.val n.val then .next s
  else if ack then .next (s.setEdge d.val g.val n.val { v with ack := v.req })
  else if v.req = v.ack then .next (s.setEdge d.val g.val n.val { v with req := !v.req })
  else if clocked then
    let f := DIE_CLK_STAT.evt_overrun d.val
    .next (((s.setEdge d.val g.val n.val { v with merges := v.merges + 1 }).fset f (setBit (s.fget f) g.val true)).postLimited
      (0x50000 + edgeKey d.val g.val n.val) 0x030A 3 (some d.val) (64 * g.val + n.val) 1)
  else .next s

/-- `VALUE_PUBLISH` (R245, R246): the value published is accepted at the destination once two samples agree. -/
def execValuePublish (d : DieIx) (g : Fin 4) (n : Fin 64) (v : Nat) (s : State) : Out :=
  if s.frozenEdge d.val g.val n.val then .next s
  else .next (s.setEdge d.val g.val n.val { s.edge d.val g.val n.val with value := v })

/-- `EDGE_UNSTABLE` (R247): the last accepted value is kept. -/
def execEdgeUnstable (d : DieIx) (g : Fin 4) (n : Fin 64) (s : State) : Out :=
  .next (s.setFlag (DIE_CLK_STAT.unstable d.val) d.val g.val n.val 0x030B 0)

/-- `EDGE_FIFO_WRITE` (R248–R250): a clockless writer waits while the FIFO is full or frozen, a clocked one discards. -/
def execEdgeFifoWrite (d : DieIx) (g : Fin 4) (n : Fin 64) (clocked : Bool) (w : BitVec 64) (s : State) : Out :=
  let v := s.edge d.val g.val n.val
  if s.frozenEdge d.val g.val n.val then .next s
  else if v.fifo.length < 16 then .next (s.setEdge d.val g.val n.val { v with fifo := v.fifo ++ [w.toNat] })
  else if clocked then
    .next ((s.setEdge d.val g.val n.val { v with discards := v.discards + 1 }).setFlag (DIE_CLK_STAT.overrun d.val) d.val g.val n.val 0x0308 3)
  else .next s

/-- `EDGE_FIFO_READ` (R249, R251, R252): by a clockless reader (0), a clocked one that takes a word in every period (1) or one that
qualifies its words (2).  A word taken is the answer. -/
def execEdgeFifoRead (d : DieIx) (g : Fin 4) (n : Fin 64) (reader : Fin 3) (s : State) : Out :=
  let v := s.edge d.val g.val n.val
  if s.frozenEdge d.val g.val n.val then .next s
  else
    match v.fifo with
    | w :: r => .next { s.setEdge d.val g.val n.val { v with fifo := r } with answer := some ⟨0, leBytes 8 w, false⟩ }
    | [] =>
      if reader = 1 then
        .next ((s.setEdge d.val g.val n.val { v with fills := v.fills + 1 }).setFlag (DIE_CLK_STAT.underrun d.val) d.val g.val n.val 0x0309 3)
      else .next s

/-! ### The loss of an interface clock (R255–R257) -/

/-- The lanes of a die. -/
def dieLanes (d : Nat) : List Nat := (List.range 8).map (fun i => 8 * d + i) ++ (List.range 4).map (fun i => 64 + 4 * d + i)

/-- The groups whose crossings freeze with the families in `fam`. -/
def groupsOf (fam : Nat) : Nat := (if bit fam 0 then 0xD else 0) + (if bit fam 1 || bit fam 2 then 2 else 0)

/-- The flags of `mask` set in a group field, each posting on its transition. -/
def State.setFlags (s : State) (f : Fld) (d mask code sev : Nat) : State :=
  (List.range 4).foldl (fun a g => if bit mask g then a.setFlag f d g 0 code sev else a) s

/-- `DIE_CLK_LOST` (R255, R256): the die loses the families in `fam` (bits as `ref_lost`); the masks name the groups in which the stop
causes an overrun, underrun or event-overrun flag.  During a die reset the loss only holds the release back (R258). -/
def execDieClkLost (d : DieIx) (fam : Fin 8) (ovr und evt : Fin 16) (s : State) : Out :=
  let old := Tab.get 0 s.clk.lost d.val
  if fam.val = 0 ∨ old ||| fam.val = old then .next s
  else if s.dieAway d.val then
    .next (if s.fget (DIE_STAT.state d.val) = 3 then { s with clk := { s.clk with lost := Tab.put 0 s.clk.lost d.val (old ||| fam.val) } } else s)
  else
    let s1 := { s with clk := { s.clk with lost := Tab.put 0 s.clk.lost d.val (old ||| fam.val) } }
    let s2 := ((s1.fset (DIE_CLK_STAT.lost d.val) 1).fsat (DIE_CLK_STAT.loss_count d.val) 1).setFlags (DIE_CLK_STAT.unstable d.val) d.val (groupsOf fam.val) 0x030B 0
    let s3 := ((s2.setFlags (DIE_CLK_STAT.overrun d.val) d.val ovr.val 0x0308 3).setFlags (DIE_CLK_STAT.underrun d.val) d.val und.val 0x0309 3).setFlags
      (DIE_CLK_STAT.evt_overrun d.val) d.val evt.val 0x030A 3
    let s4 := if bit fam.val 0 then
        let a := (s3.selfRefresh (2 * d.val)).selfRefresh (2 * d.val + 1)
        { a with time := { a.time with aligned := Tab.put true a.time.aligned d.val false } }
      else s3
    .next (((dieLanes d.val).foldl (fun a l => if a.fget (laneState l) ≤ 2 ∨ a.fget (laneState l) = 5 then a.laneReach l false else a) s4).post
      0x0306 4 (some d.val) d.val fam.val)

/-- `DIE_CLK_RESTORED` (R257): crossings and FIFOs empty and re-armed with their flags kept, the lanes' demand ended, the die's time
aligned; the channels leave self-refresh by their own step. -/
def execDieClkRestored (d : DieIx) (s : State) : Out :=
  if s.fbit (DIE_CLK_STAT.lost d.val) && !s.clk.gated && !s.dieAway d.val then
    let s1 := { s with
      clk := { s.clk with lost := Tab.put 0 s.clk.lost d.val 0, edges := Tab.drop (fun k => k / 256 == d.val) s.clk.edges }
      time := { s.time with aligned := Tab.put true s.time.aligned d.val true } }
    let s2 := (dieLanes d.val).foldl (fun a l => if a.fget (laneState l) = 3 then a.laneReach l false else a) s1
    .next ((s2.fset (DIE_CLK_STAT.lost d.val) 0).post 0x0307 0 (some d.val) d.val)
  else if s.fget (DIE_STAT.state d.val) = 3 ∧ s.clk.gated = false then .next { s with clk := { s.clk with lost := Tab.put 0 s.clk.lost d.val 0 } }
  else .next s

end Sys2Proof.Machine
end

