-- ==== Sys2Proof/Machine/Sys.lean ====
section
/-! DEFINITION. Accesses that a hub unit makes inside one of its own commands: the request is answered by the memory port or the
larder within the step (a choice of the assumption log; packets of other initiators travel by the NoC commands). -/

namespace Sys2Proof.Machine

/-- The response a step has just launched, taken out of the NoC again. -/
def State.takeResp (s : State) (before : Nat) : Option Packet × State :=
  if before < s.noc.flights.length then
    ((s.noc.flights.getLast?).map (·.pkt), { s with noc := { s.noc with flights := s.noc.flights.dropLast } })
  else (none, s)

/-- A request of a hub unit: `bytes` and `data` as R271 has them. -/
def hubReq (node : Nat) (cmd : PCmd) (dom prio a n : Nat) (data : List Byte) (poison : Bool) : Packet :=
  { dst := 0, src := node, tag := 0, cmd := cmd, prio := prio, domain := dom, addr := a, bytes := n, epoch := 0, data := data,
    proof := false, poison := poison, notice := false, status := 0, detail := 0 }

/-- One request to DRAM, checked by its memory port and carried out by the channel that holds its line. -/
def State.dramAccess (s : State) (p : Packet) (err : MemErr) : Option Packet × State :=
  let c := s.portOf p.addr
  match s.portStop c p with
  | some (st, d, poison) =>
    (some (p.reply (memNode c) st d (List.replicate p.respBytes 0) poison true), if st = stNoRights then s.fsat (SEAL_ERR.denied c) 1 else s)
  | none =>
    let h := (s.holder p.addr).1
    let n := s.noc.flights.length
    let m := (s.chan h).proofs.length
    let s1 := if p.cmd = .read then s.memRead h p err else if p.cmd.atomic then s.memAtomic h p err true else s.memWrite h p err true
    let s2 := if m < (s1.chan h).proofs.length then s1.sealedReadProof h m true else s1
    s2.takeResp n

/-- One request to the larder (R190), atomics included. -/
def State.larderAccess (s : State) (p : Packet) (err : MemErr) : Option Packet × State :=
  let off := p.addr - larderBase
  match p.cmd with
  | .read =>
    let r := s.larderRead off p.bytes p.domain err
    (some (p.reply nodeLarder r.1.status 0 (if r.1.data.isEmpty then List.replicate p.bytes 0 else r.1.data) r.1.poison true), r.2)
  | .write =>
    let r := s.larderWrite off p.domain p.data p.poison err
    (some (p.refuse nodeLarder r.1 0), r.2)
  | .writePosted =>
    let r := s.larderWrite off p.domain p.data p.poison err
    (none, if r.1 = stDone then r.2 else r.2.postLimited 0x20001 0x0402 3 none nodeLarder 1)
  | .atomicAdd | .atomicSwap | .atomicCas =>
    if !s.larderMay p.domain off true then (some (p.refuse nodeLarder stNoRights 0), s.fsat LRD_ERR.denied 1)
    else
      let r := s.larderRead off p.bytes p.domain err
      if r.1.status ≠ stDone ∨ r.1.poison ∨ p.poison then (some (p.refuse nodeLarder (if r.1.status ≠ stDone then r.1.status else stPoisoned) 0), r.2)
      else
        let w := r.2.larderWrite off p.domain (leBytes p.bytes (atomicNew p.cmd p.bytes p.data (leVal r.1.data))) false .clean
        (some (p.reply nodeLarder w.1 0 r.1.data false true), w.2)
  | _ => (none, s)

/-- One request to memory that domain rights and channel states govern; none elsewhere. -/
def State.memAccess (s : State) (p : Packet) (err : MemErr) : Option Packet × State :=
  match s.place p.addr with
  | some .dram => s.dramAccess p err
  | some (.larder _) => s.larderAccess p err
  | _ => (some (p.refuse p.src stBadField 0), s)

/-- The size of the next request of a range: the largest of 64, 32, 16, 8, 4 bytes that is aligned and fits, else one byte. -/
def pieceLen (a n : Nat) : Nat :=
  if a % 64 = 0 ∧ 64 ≤ n then 64 else if a % 32 = 0 ∧ 32 ≤ n then 32 else if a % 16 = 0 ∧ 16 ≤ n then 16
  else if a % 8 = 0 ∧ 8 ≤ n then 8 else if a % 4 = 0 ∧ 4 ≤ n then 4 else 1

/-- Bytes read from a range, request by request: the first status that is not a success ends the reading. -/
structure Got where
  status : Nat
  detail : Nat
  at_ : Nat
  data : List Byte
  poison : Bool
deriving DecidableEq, Repr

def stOk (st : Nat) : Bool := st == stDone || st == stDegraded

def readRange (acc : State → Packet → MemErr → Option Packet × State) (node dom prio : Nat) :
    Nat → State → Nat → Nat → MemErr → Got × State
  | 0, s, a, _, _ => (⟨stDone, 0, a, [], false⟩, s)
  | k + 1, s, a, n, err =>
    if n = 0 then (⟨stDone, 0, a, [], false⟩, s)
    else
      let l := pieceLen a n
      let r := acc s (hubReq node .read dom prio a l [] false) err
      match r.1 with
      | none => (⟨stTimeout, 0, a, [], false⟩, r.2)
      | some q =>
        if !stOk q.status then (⟨q.status, q.detail, a, [], q.poison⟩, r.2)
        else
          let y := readRange acc node dom prio k r.2 (a + l) (n - l) .clean
          (⟨y.1.status, y.1.detail, y.1.at_, q.data ++ y.1.data, q.poison || y.1.poison⟩, y.2)

/-- Bytes written to a range, request by request. -/
def writeRange (acc : State → Packet → MemErr → Option Packet × State) (node dom prio : Nat) (poison : Bool) :
    Nat → State → Nat → List Byte → MemErr → Got × State
  | 0, s, a, _, _ => (⟨stDone, 0, a, [], false⟩, s)
  | k + 1, s, a, d, err =>
    if d.isEmpty then (⟨stDone, 0, a, [], false⟩, s)
    else
      let l := pieceLen a d.length
      let r := acc s (hubReq node .write dom prio a l (d.take l) poison) err
      match r.1 with
      | none => (⟨stTimeout, 0, a, [], false⟩, r.2)
      | some q => if !stOk q.status then (⟨q.status, q.detail, a, [], false⟩, r.2) else writeRange acc node dom prio poison k r.2 (a + l) (d.drop l) .clean

/-- A range of memory read, or written, by a hub node. -/
def State.sysRead (s : State) (node dom prio a n : Nat) (err : MemErr) : Got × State := readRange State.memAccess node dom prio n s a n err
def State.sysWrite (s : State) (node dom prio a : Nat) (d : List Byte) (poison : Bool) (err : MemErr) : Got × State :=
  writeRange State.memAccess node dom prio poison d.length s a d err

end Sys2Proof.Machine
end

