-- ==== Sys2Proof/Machine/Trace.lean ====
section
/-! DEFINITION. Debug halts, debug freezes, trace packets and cross-triggers (R716–R719, R735–R746), which other families raise. -/

namespace Sys2Proof.Machine

/-! ### Harts (R610, R735, R736) -/

def State.hart (s : State) (h : Nat) : Hart := Tab.get .fresh s.mgc.harts h
def State.setHart (s : State) (h : Nat) (v : Hart) : State := { s with mgc := { s.mgc with harts := Tab.put .fresh s.mgc.harts h v } }

/-- Three quarters of a watchdog's timeout in ms: its pre-bite point (R618). -/
def State.preBitePoint (s : State) (h : Nat) : Nat := ceilDiv (3 * s.fget (MGC_WDG_CTL.timeout h)) 4

/-- The count at which a watchdog stops: free within what its pre-bite source says (R617, R736). -/
def State.stopCount (s : State) (h : Nat) : Nat × State :=
  let r := s.takeFree 1
  let t := s.fget (MGC_WDG_CTL.timeout h)
  let lo := if (s.hart h).preBite then s.preBitePoint h else 0
  let hi := if (s.hart h).preBite then t else s.preBitePoint h
  (lo + Config.freeNat r.1 % max (hi - lo) 1, r.2)

/-- A hart halts for debug: its reservation clears, and a pausing watchdog stops (R735, R736). -/
def State.haltHart (s : State) (h : Nat) : State :=
  if (s.hart h).dbgHalt || s.fget (MGC_CORE_STAT.state h) != 0 then s
  else
    let pausing := s.fbit (MGC_WDG_CTL.enable h) && s.fbit (MGC_WDG_CTL.pause h)
    let r := if pausing then s.stopCount h else (0, s)
    r.2.setHart h { r.2.hart h with dbgHalt := true, resv := none, count := r.1 }

/-! ### Debug freezes (R744, R745) -/

/-- The inbound crust ports in use. -/
def Tin.inboundPorts (x : Tin) : List Nat := x.usedPorts.filter (fun p => p % 2 == 0)

/-- Every inbound port asked to STALL, its present mode kept. -/
def Tin.askStall (x : Tin) : Tin :=
  x.inboundPorts.foldl (fun y p => y.setPort p { y.port p with saved := some ((y.port p).saved.getD (y.port p).mode), want := some .stall }) x

/-- Every port back in the mode it had. -/
def Tin.unstall (x : Tin) : Tin :=
  { x with ports := Tab.mapVals .blank (fun v => { v with mode := v.saved.getD v.mode, want := none, saved := none, one := false }) x.ports }

def State.dbgFrozen (s : State) (d r : Nat) : Bool := s.dbg.frozen.contains (13 * d + r)

/-- A debug freeze starts (R744 op 0): the outcome is a status. -/
def State.freezeRole (s : State) (d r : Nat) : Nat × State :=
  let t := s.tinOf d r
  if s.tinState t ≠ tsInService ∨ s.dbgFrozen d r then (stWrongState, s)
  else
    let s1 := s.setTin t (s.tin t).askStall
    (stDone, { (s1.fset DBG_TIN_STAT.state 1) with dbg := { s1.dbg with frozen := s1.dbg.frozen ++ [13 * d + r] } })

/-- A debug freeze ends (R744 op 1). -/
def State.releaseRole (s : State) (d r : Nat) : State :=
  let t := s.tinOf d r
  let s1 := s.setTin t (s.tin t).unstall.settle
  let s2 := if s1.tinState t = tsFrozen then s1.fset (TIN_STAT.state t) tsInService else s1
  { (s2.fset DBG_TIN_STAT.state 0) with dbg := { s2.dbg with
      frozen := s2.dbg.frozen.filter (· != 13 * d + r), stepping := if s2.dbg.stepping = some (13 * d + r) then none else s2.dbg.stepping } }

/-! ### Trace packets (R740, R741) -/

/-- Packet slots of the TRACE region. -/
def State.traceSlots (s : State) : Nat := s.fget LRD_LAYOUT.trace_mib * 32768

/-- A trace packet (R740). -/
def tracePkt (time data src type index seq : Nat) : Nat :=
  time % 2 ^ 96 * 2 ^ 160 + data % 2 ^ 64 * 2 ^ 96 + src % 2 ^ 12 * 2 ^ 84 + type % 256 * 2 ^ 64 + index % 2 ^ 16 * 2 ^ 48 + seq % 2 ^ 24

/-- One packet written at the next slot; the region wraps, or stops trace when it is full (R741). -/
def State.writePkt (s : State) (data src type index : Nat) : State :=
  let wp := s.fget DBG_TRACE_STAT.wp
  let p := tracePkt (timeWord s.now) data src type index s.dbg.seq
  let s1 := { s with
    larder := (s.larder.write (s.traceBase + 32 * wp) (leBytes 32 p)).markWords (s.traceBase + 32 * wp) 32 false
    dbg := { s.dbg with seq := (s.dbg.seq + 1) % 2 ^ 24,
                        frames := if s.fbit DBG_TRACE_PORT.enable then s.dbg.frames ++ [p] else s.dbg.frames } }
  if wp + 1 < s.traceSlots then s1.fset DBG_TRACE_STAT.wp (wp + 1)
  else if s.fbit DBG_TRACE_CTL.stop_full then ((s1.fset DBG_TRACE_STAT.wp (wp + 1)).fset DBG_TRACE_CTL.run 0).post 0x1002 0 none 0
  else (s1.fset DBG_TRACE_STAT.wp 0).fset DBG_TRACE_STAT.wrapped 1

/-- A packet offered to the trace store (R741): after losses, the lost packet goes first. -/
def State.trace (s : State) (data src type index : Nat) : State :=
  if !s.fbit DBG_TRACE_CTL.run then s
  else if s.traceSlots = 0 then { (s.fsat DBG_TRACE_STAT.lost 1) with dbg := { s.dbg with lostNow := s.dbg.lostNow + 1 } }
  else if s.dbg.lostNow = 0 then s.writePkt data src type index
  else
    let s1 := { s.writePkt s.dbg.lostNow nodeDbg 5 0 with dbg := { (s.writePkt s.dbg.lostNow nodeDbg 5 0).dbg with lostNow := 0 } }
    if s1.fbit DBG_TRACE_CTL.run then s1.writePkt data src type index else s1

/-- Trace starts: its packet count and its writing begin again at the base of the region. -/
def State.traceStart (s : State) : State :=
  if s.fbit DBG_TRACE_CTL.run then s
  else
    let s1 := ((s.fset DBG_TRACE_CTL.run 1).fset DBG_TRACE_STAT.wp 0).fset DBG_TRACE_STAT.wrapped 0
    { s1 with dbg := { s1.dbg with seq := 0 } }.trace 0 nodeDbg 3 0

def State.traceStop (s : State) : State := if s.fbit DBG_TRACE_CTL.run then (s.trace 0 nodeDbg 4 0).fset DBG_TRACE_CTL.run 0 else s

/-! ### Cross-triggers (R737–R739) -/

/-- A source of a cross-trigger channel (R749). -/
inductive XtSrc where
  | stim (n : Nat)
  | second
  | late (d : Nat)
  | watch (h : Nat)
  | halt (h : Nat)
deriving DecidableEq, Repr

/-- Whether channel `c` enables a source. -/
def State.xtEnabled (s : State) (c : Nat) : XtSrc → Bool
  | .stim n => s.fbit (DBG_XT_SRC.stim_en c) && s.fget (DBG_XT_SRC.stim c) == n
  | .second => s.fbit (DBG_XT_SRC.second c)
  | .late d => bit (s.fget (DBG_XT_SRC.te_late c)) d
  | .watch h => bit (s.fget (DBG_XT_SRC.watch c)) h
  | .halt h => bit (s.fget (DBG_XT_SRC.halt c)) h

/-- The sinks of an armed channel (R737, R738); halts and freezes act only at FULL.  The harts that halt are returned as further
sources. -/
def State.xtSinks (s : State) (c : Nat) : State × List Nat :=
  let s1 := if s.fbit (DBG_XT_SINK.trace_start c) then s.traceStart else s
  let s2 := s1.trace 0 nodeDbg 2 c
  let s3 := if s2.fbit (DBG_XT_SINK.trace_stop c) then s2.traceStop else s2
  if s3.debugLevel = 3 then
    let s4 := if s3.fbit (DBG_XT_SINK.freeze c) && decide (s3.fget (DBG_XT_SINK.role c) < 12) then
        (s3.freezeRole (s3.fget (DBG_XT_SINK.die c)) (s3.fget (DBG_XT_SINK.role c))).2 else s3
    let hs := (List.range 4).filter (fun h => bit (s4.fget (DBG_XT_SINK.halt c)) h && !(s4.hart h).dbgHalt && s4.fget (MGC_CORE_STAT.state h) == 0)
    (hs.foldl (fun a h => a.haltHart h) s4, hs)
  else (s3, [])

/-- A channel fires (R737, R750). -/
def State.xtFire (s : State) (c : Nat) : State × List Nat :=
  if s.fbit (DBG_XT_SINK.enable c) then (s.postLimited (0x60000 + c) 0x1001 0 none c 1).xtSinks c else (s, [])

/-- Every channel that enables the source fires; harts that its sinks halt are sources in turn, until no further hart halts. -/
def State.xtSource : Nat → State → XtSrc → State
  | 0, s, _ => s
  | n + 1, s, src =>
    (List.range 8).foldl (fun a c =>
      if a.xtEnabled c src then
        let r := a.xtFire c
        r.2.foldl (fun b h => State.xtSource n b (.halt h)) r.1
      else a) s

/-- A source occurs; four harts can halt at most. -/
def State.xt (s : State) (src : XtSrc) : State := State.xtSource 5 s src

/-- `XT_CHANNEL_FIRE` (R737): a trigger match on hart `h` that channel `c` watches. -/
def execXtChannelFire (c : Fin 8) (h : HartIx) (s : State) : Out :=
  if s.xtEnabled c.val (.watch h.val) then
    let r := s.xtFire c.val
    .next (r.2.foldl (fun b k => b.xt (.halt k)) r.1)
  else .next s

/-- `DM_HALT` (R735): a halt request, an `ebreak` or a trigger halts a running hart. -/
def execDmHalt (h : HartIx) (s : State) : Out :=
  if (s.hart h.val).dbgHalt || s.fget (MGC_CORE_STAT.state h.val) != 0 || s.halted then .next s
  else .next ((s.haltHart h.val).xt (.halt h.val))

/-- A stimulus word (R739, R740): one trace packet, and the channels that watch the port fire. -/
def State.stimulus (s : State) (n w src : Nat) : State := (s.trace w src 1 n).xt (.stim n)

end Sys2Proof.Machine
end

