-- ==== Sys2Proof/Machine/TimeKeeper.lean ====
section
/-! DEFINITION. The time keeper and its copies on the dies (R483–R493), timer interrupts (R613, R614). -/

namespace Sys2Proof.Machine

/-! ### The count (R484) -/

/-- The most slew one period applies: 10^-4 ns, in 2^-40 ns. -/
def slewStep : Int := 109951162

/-- What one 1 ns period adds beside the slew, in 2^-40 ns. -/
def State.periodStep (s : State) : Int := 2 ^ 40 + toSigned (s.fget TIME_RATE.rate) 32

/-- The part of the remaining slew that one period applies. -/
def slewPart (slew : Int) : Int := max (-slewStep) (min slewStep slew)

/-- `MGC_MTIME` (R613). -/
def State.mtime (s : State) : Nat := (timeSec s.now * 1000000000 + timeNs s.now) % 2 ^ 64
/-- `MGC_MTIMECMP_n`. -/
def State.mtimecmp (s : State) (h : Nat) : Nat := s.fget (MGC_MTIMECMP.value (2 * h)) + s.fget (MGC_MTIMECMP.value (2 * h + 1)) * 2 ^ 32

/-- Whether hart `h`'s timer interrupt is pending (R614). -/
def State.timerDue (s : State) (h : Nat) : Bool := decide (s.mtimecmp h ≤ s.mtime)

def State.setMtip (s : State) (h : Nat) : State := s.setHart h { s.hart h with mtip := s.timerDue h }

/-- `TIMER_INTERRUPT` (R614). -/
def execTimerInterrupt (h : HartIx) (s : State) : Out := .next (s.setMtip h.val)

/-- Whether the time keeper's clock runs: the MAIN family of a locked generator, in holdover or with its reference (R239, R637, R671). -/
def State.timeRuns (s : State) : Bool :=
  s.powerGood && s.fget PTM_PSTATE.state != 4 && (s.fbit CLK_STAT.a_locked || s.fbit CLK_STAT.b_locked) &&
    (!bit (s.fget CLK_STAT.ref_lost) 0 || bit (s.fget CLK_STAT.holdover) 0)

/-- One period of the time keeper (R484); `PPS_OUT` falls after its width, and timer interrupts follow the time. -/
def State.tickTime (s : State) : State :=
  if !s.timeRuns then s
  else
    let part := slewPart s.time.slew
    let now := (((s.now : Int) + s.periodStep + part).toNat)
    let pps := s.time.ppsOut && decide (now % oneSecond < s.fget TIME_PPS_CTL.width * 1000 * 2 ^ 40)
    let b := s.dram.beat
    let ctl := if now / oneSecond = s.now / oneSecond then b.ctl else (s.reg TIME_BEAT_CTL).toNat
    let s1 := { s with
      now := now
      time := { s.time with slew := s.time.slew - part, ppsOut := pps }
      dram := { s.dram with beat := { b with ctl := ctl } } }
    (List.range 4).foldl (fun a h => if (a.hart h).mtip == a.timerDue h then a else a.setMtip h) s1

/-! ### Steps (R321, R488, R519) -/

/-- Records the time edge holds whose launch time is more than 1 s ahead of the present time. -/
def Launch.early (l : Launch) (now : Nat) : Bool := match l.at_ with | some t => decide (now + oneSecond < t * 2 ^ 24) | none => false

/-- The time steps to `t`: slew cleared, the beat's start carried over, launch times already fixed compared with the 1 s limit. -/
def State.timeStep (s : State) (t : Nat) : State :=
  let b := s.dram.beat
  let s1 := { s with
    now := t
    time := { s.time with slew := 0 }
    dram := { s.dram with beat := { b with start := if b.start = 0 then 0 else t - (s.now - b.start) } } }
  let s2 := (List.range 8).foldl (fun a d =>
    let held := Tab.get [] a.mac.held d
    let gone := held.filter (fun l => l.early t)
    let a1 := { a with mac := { a.mac with held := Tab.put [] a.mac.held d (held.filter (fun l => !l.early t)) } }
    gone.foldl (fun b l => b.stat d l.port 12 1) a1) s1
  let s3 := (List.range 64).foldl (fun a k =>
    let v := Tab.get .fresh a.mac.sps k
    match v.head with
    | some l => if l.early t then { a with mac := { a.mac with sps := Tab.put .fresh a.mac.sps k { v with head := none } } }.stat (k / 8) l.port 12 1 else a
    | none => a) s2
  s3.post 0x0909 0 none 0

/-- `TIME_STEP` (R488): to the value in `TIME_SET`; nanoseconds of 10^9 or more are refused as a reserved encoding. -/
def State.timeSet (s : State) (dom src : Nat) : State :=
  let w := s.fget (TIME_SET.value 0) + s.fget (TIME_SET.value 1) * 2 ^ 32 + s.fget (TIME_SET.value 2) * 2 ^ 64
  if 1000000000 ≤ bits w 16 32 then s.accErr 1 dom src TIME_CTL else s.timeStep (timeOf w)

def execTimeStep (dom : Dom) (src : Fin 4096) (s : State) : Out := .next (s.timeSet dom.val src.val)

/-- `TIME_ADJ_WRITE` (R489): the remaining slew, in 2^-8 ns. -/
def State.setSlew (s : State) (v : Nat) : State := { s with time := { s.time with slew := toSigned v 32 * 2 ^ 32 } }

def execTimeAdjWrite (v : Word) (s : State) : Out := .next (s.setSlew v.toNat)

/-- The slew that remains, as `TIME_ADJ` reads (R489). -/
def State.adjView (s : State) : Nat := ofSigned (Int.tdiv s.time.slew (2 ^ 32)) 32

/-! ### PPS (R486, R487, R490, R491) -/

/-- The error of an edge against the nearest whole second, in 2^-40 ns (R486). -/
def ppsError (now : Nat) : Int :=
  let r := now % oneSecond
  if 2 * r ≤ oneSecond then (r : Int) else (r : Int) - oneSecond

/-- a / b rounded to the nearest integer. -/
def roundDiv (a : Int) (b : Nat) : Int := (2 * a + b) / (2 * b : Nat)

/-- A signed value saturated to 16 bits. -/
def sat16 (x : Int) : Int := max (-32768) (min 32767 x)

/-- The state of the discipline replaced, with its event (R487, R526). -/
def State.setDisc (s : State) (st : Nat) : State :=
  if s.fget TIME_STAT.state = st then s
  else
    let s1 := s.fset TIME_STAT.state st
    if st = 2 then s1.post 0x0907 0 none 0 else if st = 3 then s1.post 0x0908 2 none 0 else s1

/-- `PPS_IN_EDGE` (R486, R487, R491): an edge of the sense that `in_fall` selects is captured; in PPS mode it corrects the time. -/
def execPpsInEdge (fall : Bool) (s : State) : Out :=
  if s.fbit TIME_PPS_CTL.in_en && s.fbit TIME_PPS_CTL.in_fall == fall then
    let w := timeWord s.now
    let s1 := ((s.fset (TIME_PPS_IN.value 0) w).fset (TIME_PPS_IN.value 1) (w / 2 ^ 32)).fset (TIME_PPS_IN.value 2) (w / 2 ^ 64)
    if s.fget TIME_CTL.disc ≠ 1 then .next s1
    else
      let e := ppsError s.now
      let near := decide (e.natAbs < 10 * 2 ^ 40)
      let good := if near then min (s.time.good + 1) 8 else 0
      let s2 := (s1.fset TIME_STAT.pps_err (ofSigned (sat16 (Int.tdiv e (2 ^ 40))) 16))
      let s3 := { s2 with time := { s2.time with good := good } }.setDisc (if 8 ≤ good then 2 else 1)
      if e.natAbs ≤ 1000000 * 2 ^ 40 then
        .next ((s3.fset TIME_RATE.rate (ofSigned (toSigned (s3.fget TIME_RATE.rate) 32 - roundDiv e 8000000000) 32)).setSlew
          (ofSigned (Int.tdiv (-e) (2 * 2 ^ 32)) 32))
      else .next (s3.timeStep (timeSec s.now * oneSecond))
  else .next s

/-- `TIME_HOLDOVER` (R487): no edge for 2 s in PPS mode; the rate is kept. -/
def execTimeHoldover (s : State) : Out :=
  if s.fget TIME_CTL.disc = 1 then .next ({ s with time := { s.time with good := 0 } }.setDisc 3) else .next s

/-- `PPS_OUT` (R490, R739): at a second boundary the pulse rises, and channels with `second` fire. -/
def execPpsOut (s : State) : Out :=
  .next ({ s with time := { s.time with ppsOut := s.fbit TIME_PPS_CTL.out_en } }.xt .second)

/-- `DIE_TIME_ALIGN` (R492): the die's copy is aligned while its MAIN family runs. -/
def execDieTimeAlign (d : DieIx) (s : State) : Out :=
  if bit (Tab.get 0 s.clk.lost d.val) 0 ∨ s.dieAway d.val then .next s
  else .next { s with time := { s.time with aligned := Tab.put true s.time.aligned d.val true } }

end Sys2Proof.Machine
end

