-- ==== Sys2Proof/Machine/Mac.lean ====
section
/-! DEFINITION. MAC ports, stream records, the SDI PCS and the time edge (R494–R523). -/

namespace Sys2Proof.Machine

/-! ### Stream headers (R502) -/

def Rec.tag (r : Rec) : Nat := bits r.hdr 192 16
def Rec.user (r : Rec) : Nat := bits r.hdr 160 32
def Rec.flow (r : Rec) : Nat := bits r.hdr 136 12
def Rec.flowField (r : Rec) : Nat := bits r.hdr 136 16
def Rec.dupPort (r : Rec) : Nat := bits r.hdr 132 4
def Rec.late (r : Rec) : Nat := bits r.hdr 130 2
def Rec.policy (r : Rec) : Nat := bits r.hdr 128 2
def Rec.poison (r : Rec) : Bool := bit r.hdr 125
def Rec.frameEnd (r : Rec) : Bool := bit r.hdr 124
def Rec.frameStart (r : Rec) : Bool := bit r.hdr 123
def Rec.dup (r : Rec) : Bool := bit r.hdr 122
def Rec.oneStep (r : Rec) : Bool := bit r.hdr 121
def Rec.tsReq (r : Rec) : Bool := bit r.hdr 120
def Rec.port (r : Rec) : Nat := bits r.hdr 112 8
def Rec.length (r : Rec) : Nat := bits r.hdr 96 16
def Rec.time (r : Rec) : Nat := bits r.hdr 0 96

/-- The header of a received frame. -/
def rxHeader (tsValid ptp trunc fcsErr poison : Bool) (port len time : Nat) : Nat :=
  b2n poison * 2 ^ 125 + b2n tsValid * 2 ^ 123 + b2n ptp * 2 ^ 122 + b2n trunc * 2 ^ 121 + b2n fcsErr * 2 ^ 120 + port % 256 * 2 ^ 112 +
    len % 2 ^ 16 * 2 ^ 96 + time % 2 ^ 96

/-- A record from its bytes: 32 header bytes and the body. -/
def recOf (l : List Byte) : Rec := ⟨leAt l 0 32, l.drop 32⟩
def Rec.bytes (r : Rec) : List Byte := leBytes 32 r.hdr ++ r.body

/-! ### Frames (R496, R497, R499) -/

/-- A big-endian number in a frame. -/
def beAt (l : List Byte) (lo n : Nat) : Nat := (slice l lo n).foldl (fun a b => a * 256 + b.toNat) 0
def beBytes (n v : Nat) : List Byte := (leBytes n v).reverse

/-- Where the type field of a frame lies, past its VLAN tags. -/
def typeAt (l : List Byte) : Nat :=
  if beAt l 12 2 = 0x8100 ∨ beAt l 12 2 = 0x88A8 then (if beAt l 16 2 = 0x8100 then 20 else 16) else 12

/-- The PTP event message in a frame (R499): the transport (4 UDP/IPv4, 6 UDP/IPv6, 2 IEEE 802.3), the place of the message and
its type. -/
def ptpOf (l : List Byte) : Option (Nat × Nat × Nat) :=
  let t := typeAt l
  let msg := fun k o => let m := leAt l o 1 % 16; if m ≤ 3 ∧ o < l.length then some (k, o, m) else none
  match beAt l t 2 with
  | 0x88F7 => msg 2 (t + 2)
  | 0x0800 =>
    let o := t + 2 + leAt l (t + 2) 1 % 16 * 4
    if leAt l (t + 11) 1 = 17 ∧ beAt l (o + 2) 2 = 319 then msg 4 (o + 8) else none
  | 0x86DD => if leAt l (t + 8) 1 = 17 ∧ beAt l (t + 44) 2 = 319 then msg 6 (t + 50) else none
  | _ => none

/-- A list with `d` written over it from `o`. -/
def patch (l : List Byte) (o : Nat) (d : List Byte) : List Byte := l.take o ++ d ++ l.drop (o + d.length)

/-- A Sync frame of a one-step clock (R499): the time goes into originTimestamp, and over IPv4 the UDP checksum is cleared. -/
def oneStepFrame (l : List Byte) (now : Nat) : Option (List Byte) :=
  match ptpOf l with
  | some (k, o, 0) =>
    if k = 6 then none
    else
      let x := patch l (o + 34) (beBytes 6 (timeSec now) ++ beBytes 4 (timeNs now))
      some (if k = 4 then patch x (o - 2) [0, 0] else x)
  | _ => none

/-- The FCS of a frame body, in the order it is sent. -/
def fcsOf (l : List Byte) : List Byte := leBytes 4 (crc32 l)

/-- A body padded to 60 bytes (R497). -/
def padFrame (l : List Byte) : List Byte := l ++ List.replicate (60 - l.length) 0

/-! ### The lane port (R500) -/

/-- The beats of a record on `g` channels. -/
def beatsOf (g : Nat) (l : List Byte) (raw : Bool) : List (List Nat) :=
  let n := ceilDiv l.length (max g 1)
  (List.range n).map (fun i => (List.range g).map (fun c =>
    let k := g * i + c
    if k < l.length then
      leAt l k 1 + 256 + (if raw then 0 else if (c = 0 ∧ i = 0) ∨ (c = 1 ∧ i + 1 = n) then 512 else 0)
    else if c = 1 ∧ i + 1 = n ∧ !raw then 512 else 0))

/-- The receive channels of a port, as keys of `laneIn`. -/
def State.portKeys (s : State) (d p : Nat) : List Nat := (List.range (s.portChans d p)).map (fun i => laneKey d (s.fget (MAC_PORT_CFG.chan_base d p) + i))

/-- The next beat of a port goes out on its channels once all of them are free. -/
def State.pumpIn (s : State) (d p : Nat) : State :=
  let ks := s.portKeys d p
  match (s.mport d p).beats with
  | b :: r =>
    if ks.all (fun k => (Tab.get none s.laneIn k).isNone) then
      { s.setMport d p { s.mport d p with beats := r } with
        laneIn := (ks.zip b).foldl (fun t e => Tab.put none t e.1 (some e.2)) s.laneIn }
    else s
  | [] => s

/-- The bytes of a receive buffer (R498). -/
def rxBuffer : Nat := 262144

/-- Whether bytes or frames pass a port now. -/
def State.portLive (s : State) (d p : Nat) : Bool := s.portUp d p && s.dbg.boundary.isNone && !s.halted

/-! ### Receive (R494, R496, R498) -/

/-- `FRAME_RECEIVE` (R496): a frame from its destination address to its FCS, or the bytes of a RAW line; `bufErr` says that it passed an
uncorrectable buffer word, and the last two count FEC codewords. -/
def State.frameReceive (s : State) (d p : Nat) (f : List Byte) (bufErr : Bool) (corr uncorr : Nat) : State :=
  let s0 := (s.stat d p 15 corr).stat d p 16 uncorr
  let queued := ((s0.mport d p).beats.map List.length).sum
  let add := fun (s : State) (bs : List (List Nat)) => (s.setMport d p { s.mport d p with beats := (s.mport d p).beats ++ bs }).pumpIn d p
  let drop := fun (s : State) => (s.stat d p 5 1).postLimited (0x70000 + 12 * d + p) 0x0902 3 (some d) p 1
  let g := s.portChans d p
  if s.portMode d p = 12 then (if rxBuffer < queued + f.length then drop s0 else add s0 (beatsOf g f true))
  else if f.length < 64 then s0.stat d p 3 1
  else
    let body := f.take (f.length - 4)
    let bad := fcsOf body != f.drop (f.length - 4)
    let s1 := if bad then s0.stat d p 2 1 else s0
    if bad && s.fbit (MAC_PORT_CFG.drop_bad d p) then s1
    else
      let maxLen := s.fget (MAC_PORT_CFG.max_len d p)
      let trunc := decide (maxLen < f.length)
      let b := if trunc then body.take (maxLen - 4) else body
      let s2 := if trunc then s1.stat d p 4 1 else s1
      if rxBuffer < queued + 32 + b.length then drop s2
      else
        let h := rxHeader (Tab.get true s.time.aligned d) (ptpOf body).isSome trunc bad bufErr p b.length (timeWord s.now)
        add ((s2.stat d p 0 1).stat d p 1 f.length) (beatsOf g (leBytes 32 h ++ b) false)

def execFrameReceive (d : DieIx) (p : Fin 12) (f : List Byte) (bufErr : Bool) (corr uncorr : Nat) (s : State) : Out :=
  if s.portLive d.val p.val && s.portMode d.val p.val != 13 then .next (s.frameReceive d.val p.val f bufErr corr uncorr) else .next s

/-! ### Transmit records (R500, R503) -/

/-- The outbound beat of a port, once every channel holds a token. -/
def State.beatOut (s : State) (ks : List Nat) : Option (List Nat) :=
  let ts := ks.filterMap (fun k => Tab.get none s.laneOut k)
  if ts.length = ks.length ∧ !ks.isEmpty then some ts else none

def State.takeBeat (s : State) (ks : List Nat) : State := { s with laneOut := ks.foldl (fun t k => Tab.put none t k none) s.laneOut }

/-- The valid bytes of a beat. -/
def beatBytes (b : List Nat) : List Byte := (b.filter (fun t => bit t 8)).map (fun t => BitVec.ofNat 8 t)

/-- A record of the lane port is complete and right: its `length` is 0 or its body's (R503). -/
def Rec.lengthOk (r : Rec) : Bool := r.length == 0 || r.length == r.body.length

/-- A record of a stream port holds no reserved encoding (R502, R503). -/
def Rec.streamOk (r : Rec) : Bool := r.lengthOk && r.late != 3 && r.policy != 3 && decide (r.port ≤ 11) && (!r.dup || decide (r.dupPort ≤ 11))

def State.badRecord (s : State) (d : Nat) : State := s.fsat (MAC_ERR.bad_record d) 1

/-- A beat of a lane port: it opens, continues or ends the record gathered. -/
def State.gatherBeat (s : State) (d p : Nat) (b : List Nat) : State :=
  let v := s.mport d p
  let first := bit (b.getD 0 0) 9
  let last := bit (b.getD 1 0) 9
  let s1 := if first && v.gather.isSome || (!first && v.gather.isNone) then s.badRecord d else s
  match (if first then some (beatBytes b) else v.gather.map (· ++ beatBytes b)) with
  | none => s1
  | some l =>
    if last then
      let r := recOf l
      let s2 := s1.setMport d p { v with gather := none }
      if 32 ≤ l.length && r.lengthOk then s2.setMport d p { s2.mport d p with tx := (s2.mport d p).tx ++ [r] } else s2.badRecord d
    else s1.setMport d p { v with gather := some l }

def State.sp (s : State) (d k : Nat) : SpSt := Tab.get .fresh s.mac.sps (8 * d + k)
def State.setSp (s : State) (d k : Nat) (v : SpSt) : State := { s with mac := { s.mac with sps := Tab.put .fresh s.mac.sps (8 * d + k) v } }

/-- The next beat of lane port `p` is taken: a record gathered, a RAW line's bytes sent, SDI words for the next line. -/
def State.laneRecord (s : State) (d p : Nat) : State :=
  match s.beatOut (s.portKeys d p) with
  | none => s
  | some b =>
    let s1 := s.takeBeat (s.portKeys d p)
    if s.portMode d p = 12 then { s1.stat d p 7 b.length with answer := some ⟨0, beatBytes b, false⟩ }
    else if s.portMode d p = 13 then
      s1.setMport d p { s1.mport d p with gather := some (((s1.mport d p).gather.getD []) ++ b.flatMap (fun t => leBytes 2 (t % 1024))) }
    else s1.gatherBeat d p b

/-- The next whole record of stream port `k` is checked and queued for the time edge. -/
def State.streamRecord (s : State) (d k : Nat) : State :=
  let v := s.sp d k
  match v.recs with
  | r :: rest =>
    if !bit (s.fget (TE_CTL.sp_mask d)) k then s
    else
      let s1 := s.setSp d k { v with recs := rest }
      if r.streamOk then s1.setSp d k { s1.sp d k with out := (s1.sp d k).out ++ [r] } else s1.badRecord d
  | [] => s

/-- `TRANSMIT_RECORD` (R503): sources 0–11 are the lane port's ports, 12–19 the stream ports. -/
def execTransmitRecord (d : DieIx) (src : Fin 20) (s : State) : Out :=
  if src.val < 12 then .next (if s.portLive d.val src.val then s.laneRecord d.val src.val else s)
  else .next (s.streamRecord d.val (src.val - 12))

/-! ### Transmit (R494, R497, R499, R517) -/

/-- A frame of `r` leaves port `p`: the wire's bytes are the answer. -/
def State.sendFrame (s : State) (d p : Nat) (r : Rec) (underrun : Bool) : State :=
  let patched := if r.oneStep then oneStepFrame r.body s.now else none
  let body := padFrame (patched.getD r.body)
  let fcs := if r.poison || underrun then (fcsOf body).map (fun b => b ^^^ 0xFF) else fcsOf body
  let s1 := ((s.stat d p 6 1).stat d p 7 (body.length + 4)).stat d p 8 (b2n underrun)
  let s2 := s1.stat d p 9 (b2n r.poison)
  let s3 := if r.tsReq || (r.oneStep && patched.isNone) then s2.cqPush d p (cqEntry 0 p r.tag 0 (timeWord s.now)) else s2
  let s4 := (s.portLanes d p).foldl (fun a l => if (a.lane l).inj then a.setLane l { a.lane l with inj := false } else a) s3
  { s4 with answer := some ⟨0, body ++ fcs, false⟩ }

/-- The MAC rate of a mode in Gbit/s. -/
def macGbit (mode : Nat) : Nat := [1, 10, 25, 50, 100, 100, 100, 200, 200, 400, 400, 800, 112].getD mode 1

/-- The time a body of `n` bytes and its gap occupy the wire, in 2^-40 ns (R497: preamble, FCS and 12 bytes of gap). -/
def wireTime (mode n : Nat) : Nat := (max n 60 + 4 + 8 + 12) * 8 * 2 ^ 40 / macGbit mode

/-- A launch time in 2^-16 ns as a time of the keeper. -/
def launchNow (t : Nat) : Nat := t * 2 ^ 24

/-- The next launch time already presented for a port. -/
def State.nextLaunch (s : State) (d p : Nat) : Option Nat :=
  let all := (Tab.get [] s.mac.held d) ++ (List.range 8).filterMap (fun k => (s.sp d k).head)
  (all.filter (fun l => l.port == p)).foldl (fun m l => match l.at_, m with | some t, some x => some (min t x) | some t, none => some t | none, x => x) none

/-- The guard rule: the frame and its gap end no later than that launch time (R517). -/
def State.guardOk (s : State) (d p n : Nat) : Bool :=
  match s.nextLaunch d p with
  | none => true
  | some t => decide (s.now + wireTime (s.portMode d p) n ≤ launchNow t)

/-- `FRAME_TRANSMIT` (R497): the next record of the lane port leaves, unless it would run into a launch. -/
def execFrameTransmit (d : DieIx) (p : Fin 12) (underrun : Bool) (s : State) : Out :=
  match (s.mport d.val p.val).tx with
  | r :: rest =>
    if s.portLive d.val p.val && s.guardOk d.val p.val r.body.length then
      .next ((s.setMport d.val p.val { s.mport d.val p.val with tx := rest }).sendFrame d.val p.val r underrun)
    else .next s
  | [] => .next s

/-! ### SDI (R506–R509, R511) -/

/-- `SDI_LOCKED`, `SDI_UNLOCKED` (R506): the receiver of the interface led by media lane m. -/
def State.sdiLock (s : State) (d m : Nat) (lock : Bool) : State :=
  let v := s.mport d (8 + m)
  if v.locked == lock then s
  else
    let s1 := (s.setMport d (8 + m) { v with locked := lock }).post (if lock then 0x0903 else 0x0904) 0 (some d) (8 + m)
    let s2 := if lock then s1 else s1.stat d (8 + m) 3 1
    s2.cqPush d (8 + m) (cqEntry 2 (8 + m) 0 (b2n lock) (timeWord s.now))

def execSdiLocked (d : DieIx) (m : Fin 4) (s : State) : Out :=
  if s.portUp d.val (8 + m.val) && s.portMode d.val (8 + m.val) == 13 then .next (s.sdiLock d.val m.val true) else .next s

def execSdiUnlocked (d : DieIx) (m : Fin 4) (s : State) : Out := .next (s.sdiLock d.val m.val false)

/-- Whether word i of a stream starts a timing reference: 0x3FF, 0x000, 0x000. -/
def trsAt (ws : List (List Nat)) (i : Nat) : Bool :=
  (ws.getD i []).getD 0 0 == 0x3FF && (ws.getD (i + 1) []).getD 0 1 == 0 && (ws.getD (i + 2) []).getD 0 1 == 0

/-- `SDI_LINE` (R507, R511): a received line's words by period, with the streams whose CRC is wrong at period `crcAt`; or a line
sent from the words the fabric has driven. -/
def execSdiLine (d : DieIx) (m : Fin 4) (tx : Bool) (ws : List (List (BitVec 10))) (crcAt bad : Nat) (s : State) : Out :=
  let p := 8 + m.val
  if !(s.portLive d.val p && s.portMode d.val p == 13) then .next s
  else if tx then .next ((s.setMport d.val p { s.mport d.val p with gather := none }).stat d.val p 6 1)
  else
    let n := s.portChans d.val p - 1
    let w := ws.map (fun b => b.map (·.toNat))
    let beats := (List.range w.length).map (fun i =>
      (List.range n).map (fun c => (w.getD i []).getD c 0) ++
        [b2n (trsAt w i) + (if i = crcAt ∧ bad % 2 ^ n ≠ 0 then 2 else 0) + b2n (s.mport d.val p).locked * 4])
    let s1 := (s.stat d.val p 0 1).stat d.val p 2 (popCount bad n)
    .next ((s1.setMport d.val p { s1.mport d.val p with beats := (s1.mport d.val p).beats ++ beats }).pumpIn d.val p)

/-- `ST352_CHANGE` (R508): a payload seen in two frames in a row. -/
def execSt352Change (d : DieIx) (m : Fin 4) (v : Word) (s : State) : Out :=
  let p := 8 + m.val
  let q := s.mport d.val p
  if s.portMode d.val p ≠ 13 then .next s
  else
    let s1 := s.setMport d.val p { q with stats := Tab.put 0 q.stats 17 v.toNat, st352Posted := v.toNat + 1 }
    if q.st352Posted = v.toNat + 1 then .next s1
    else .next (s1.cqPush d.val p (cqEntry 3 p 0 v.toNat (timeWord s.now)))

/-! ### Flow table (R513, R514) -/

structure Flow where
  num : Nat
  den : Nat
  tro : Nat
  trs : Nat
  f : Nat
  k : Nat
  valid : Bool
deriving DecidableEq, Repr

def flowOf (w : Nat) : Flow := ⟨bits w 0 48, bits w 48 16, bits w 64 32, bits w 96 32, bits w 128 64, bits w 192 24, bit w 216⟩
def Flow.word (e : Flow) : Nat :=
  e.num + e.den * 2 ^ 48 + e.tro * 2 ^ 64 + e.trs * 2 ^ 96 + e.f % 2 ^ 64 * 2 ^ 128 + e.k % 2 ^ 24 * 2 ^ 192 + b2n e.valid * 2 ^ 216

/-- The first frame whose packet 0 launches no earlier than now + lead; `now` in 2^-40 ns, `lead` in µs. -/
def Flow.firstFrame (e : Flow) (now lead : Nat) : Nat := ceilDiv ((now + lead * 1000 * 2 ^ 40 - e.tro * 2 ^ 40) * e.den) (e.num * 2 ^ 40)

/-- The launch time, truncated to 2^-16 ns. -/
def Flow.launch (e : Flow) : Nat := e.f * e.num * 65536 / e.den + e.tro * 65536 + e.k * e.trs

/-- The entry at a record of frame `f`, the first of its frame when `start`. -/
def Flow.at_ (e : Flow) (start : Bool) (f : Nat) : Flow := { e with f := f % 2 ^ 64, k := if start then 0 else e.k }

/-- The entry as it is written back for the next record. -/
def Flow.after (e : Flow) : Flow := { e with k := (e.k + 1) % 2 ^ 24 }

/-- The launch time of a FLOW_PACED record, with the entry written back (R513); none when the record is dropped. -/
def State.pace (s : State) (d : Nat) (r : Rec) : Option Nat × State :=
  let off := s.macBlock d + 0x20000 + 32 * r.flow
  let got := s.larderRead off 32 12 .clean
  let e := flowOf (leVal got.1.data)
  if !s.macOn d || got.1.status != stDone || got.1.poison || !e.valid || e.den == 0 then (none, s)
  else
    let s1 := if e.num = 0 then (s.takeFree 1).2 else s
    let f := if r.frameStart then (if e.num = 0 then Config.freeNat s.free else e.firstFrame s.now (s.fget (TE_CTL.lead d))) else e.f
    let e1 := e.at_ r.frameStart f
    (some e1.launch, (s1.larderWrite off 12 (leBytes 32 e1.after.word) false .clean).2)

/-! ### The time edge (R512–R518) -/

/-- A record of a flow whose frame is being dropped (R516): discarded and counted; `frame_end` ends the drop. -/
def State.dropRest (s : State) (d k p : Nat) (r : Rec) : State :=
  let s1 := s.stat d p 11 1
  if r.frameEnd then s1.setSp d k { s1.sp d k with dropFlow := (s1.sp d k).dropFlow.filter (· != r.flow) } else s1

/-- `RECORD_PRESENTATION` (R512, R513): the record at the head of a stream port has its launch time fixed. -/
def State.present (s : State) (d k : Nat) : State :=
  let v := s.sp d k
  match v.head, v.out with
  | none, r :: rest =>
    if !bit (s.fget (TE_CTL.sp_mask d)) k then s
    else
      let s1 := s.setSp d k { v with out := rest }
      let put := fun (s : State) (t : Option Nat) =>
        let l : Launch := ⟨k, r.port, t, false, false, r⟩
        if l.early s.now then s.stat d r.port 12 1 else s.setSp d k { s.sp d k with head := some l }
      if v.dropFlow.contains r.flow then s1.dropRest d k r.port r
      else
        match r.policy with
        | 0 => put s1 none
        | 1 => put s1 (some (timeOf r.time / 2 ^ 24))
        | _ =>
          let y := s1.pace d r
          match y.1 with
          | some t => put y.2 (some t)
          | none => y.2.badRecord d
  | _, _ => s

def execRecordPresentation (d : DieIx) (k : Fin 8) (s : State) : Out := .next (s.present d.val k.val)

/-- The bytes the time edge of a die holds. -/
def State.heldBytes (s : State) (d : Nat) : Nat := ((Tab.get [] s.mac.held d).map (fun l => 32 + l.r.body.length)).sum

/-- `RECORD_ACCEPT` (R512, R518): the record is accepted once its launch is no more than 1 ms ahead and the buffer has room, with a
copy when `dup` names another port. -/
def execRecordAccept (d : DieIx) (k : Fin 8) (s : State) : Out :=
  let v := s.sp d.val k.val
  match v.head with
  | none => .next s
  | some l =>
    let near := match l.at_ with | none => true | some t => decide (launchNow t ≤ s.now + 1000000 * 2 ^ 40)
    let copies := if l.r.dup && l.r.dupPort != l.port then [{ l with port := l.r.dupPort, copy := true }] else []
    if near && decide (s.heldBytes d.val + 32 + l.r.body.length ≤ 4194304) then
      let s1 := s.setSp d.val k.val { v with head := none }
      .next { s1 with mac := { s1.mac with held := Tab.put [] s1.mac.held d.val ((Tab.get [] s1.mac.held d.val) ++ (l :: copies)) } }
    else .next s

/-- Among the records held for port `p`, the one the wire takes next (R517): the earliest launch time due, on a tie the lower stream
port; an ASAP record when no launch is due. -/
def pickLaunch (now p : Nat) (l : List Launch) : Option (Nat × Launch) :=
  let q := ((List.range l.length).zip l).filter (fun e => e.2.port == p)
  let due := q.filterMap (fun e => match e.2.at_ with | some t => if launchNow t ≤ now then some (t, e) else none | none => none)
  match due.foldl (fun (m : Option (Nat × Nat × Launch)) e => match m with
      | none => some e
      | some x => if e.1 < x.1 ∨ (e.1 = x.1 ∧ e.2.2.sp < x.2.2.sp) then some e else some x) none with
  | some x => some x.2
  | none => q.find? (fun e => e.2.at_.isNone)

/-- A late packet (R516): counted, reported at most once per second for its port, and a source of cross-triggers. -/
def State.latePkt (s : State) (d p ctr : Nat) : State :=
  let s1 := s.stat d p ctr 1
  let key := 0x80000 + 12 * d + p
  let last := (Tab.get (0, 0) s1.events.limited key).1
  let st := (s1.mport d p).stats
  let s2 := if last = 0 ∨ last + oneSecond ≤ s1.now + 1 then
      let a := s1.post 0x0905 0 (some d) p (Tab.get 0 st 10) (Tab.get 0 st 11)
      { a with events := { a.events with limited := Tab.put (0, 0) a.events.limited key (a.now + 1, 0) } }
    else s1
  s2.xt (.late d)

/-- The other records due on the port are delayed behind this one (R517): each counts once. -/
def State.collide (s : State) (d p : Nat) : State :=
  let l := Tab.get [] s.mac.held d
  let hit := fun (x : Launch) => x.port == p && !x.hit && (match x.at_ with | some t => decide (launchNow t ≤ s.now) | none => false)
  let n := (l.filter hit).length
  let s1 := { s with mac := { s.mac with held := Tab.put [] s.mac.held d (l.map (fun x => if hit x then { x with hit := true } else x)) } }
  s1.stat d p 13 n

/-- `PACKET_LAUNCH` (R515–R518): the next record held for port `p` starts on the wire, late or not. -/
def State.packetLaunch (s : State) (d p : Nat) : State :=
  let l := Tab.get [] s.mac.held d
  match pickLaunch s.now p l with
  | none => s
  | some (i, x) =>
    let s1 := { s with mac := { s.mac with held := Tab.put [] s.mac.held d (l.eraseIdx i) } }
    let live := s.portLive d p
    let late := match x.at_ with | some t => decide (launchNow t + s.fget (TE_CTL.late_tol d) * 2 ^ 40 < s.now) | none => false
    if x.copy && !live then s1.stat d x.r.port 14 1
    else if !live then s
    else if !x.copy && (s1.sp d x.sp).dropFlow.contains x.r.flow then s1.dropRest d x.sp p x.r
    else if x.at_.isNone && !s1.guardOk d p x.r.body.length then s
    else if late && x.r.late == 1 then s1.latePkt d p 11
    else if late && x.r.late == 2 then
      let s2 := s1.latePkt d p 11
      if x.r.frameEnd || x.copy then s2 else s2.setSp d x.sp { s2.sp d x.sp with dropFlow := (s2.sp d x.sp).dropFlow ++ [x.r.flow] }
    else
      let s2 := if late then s1.latePkt d p 10 else s1
      (s2.collide d p).sendFrame d p x.r false

def execPacketLaunch (d : DieIx) (p : Fin 12) (s : State) : Out := .next (s.packetLaunch d.val p.val)

/-! ### Statistics (R523) -/

/-- The 256 bytes of a statistics page. -/
def pageBytes (t : Tab Nat) : List Byte := (List.range 32).flatMap (fun i => leBytes 8 (Tab.get 0 t i))

/-- `STATISTICS_WRITE` (R523): a port's page is written whole while the block is in use. -/
def execStatisticsWrite (d : DieIx) (p : Fin 12) (s : State) : Out :=
  if s.macOn d.val then
    let b := pageBytes (s.mport d.val p.val).stats
    .next ((List.range 4).foldl (fun a i => (a.larderWrite (s.macBlock d.val + 256 * p.val + 64 * i) 12 (slice b (64 * i) 64) false .clean).2) s)
  else .next s

/-- What the ports do as time passes: beats move onto free receive channels. -/
def State.pumpAll (s : State) : State :=
  s.mac.ports.foldl (fun a e => if e.2.beats.isEmpty then a else a.pumpIn (e.1 / 12) (e.1 % 12)) s

end Sys2Proof.Machine
end

