-- ==== Sys2Proof/Machine/Mgc.lean ====
section
/-! DEFINITION. The management cluster: harts, caches, reservations, watchdogs, firmware start and the spare core (R602–R626). -/

namespace Sys2Proof.Machine

/-- A hart that executes: its core runs, no debugger holds it, and in DEEP only hart 0 is powered (R637). -/
def State.hartRuns (s : State) (h : Nat) : Bool :=
  s.fget (MGC_CORE_STAT.state h) == 0 && !(s.hart h).dbgHalt && (h == 0 || s.fget PTM_PSTATE.state < 3)

def State.coreOf (s : State) (h : Nat) : Nat := s.fget (MGC_CORE_STAT.core h)

/-- An event of the cluster names the hart and the physical core (R629). -/
def State.hartPost (s : State) (h code sev : Nat) (arg1 : Nat := 0) : State := s.post code sev none h (s.coreOf h) arg1

/-! ### The larder's blob (R622, R623) -/

/-- The fields of a blob header at a larder offset. -/
def State.blobAt (s : State) (off o n : Nat) : Nat := leVal (s.larder.read (off + o) n)

/-- The header's own checks (R622, R623 step 2). -/
def State.blobHeaderOk (s : State) (off : Nat) : Bool :=
  let len := s.blobAt off 8 4
  let entry := s.blobAt off 12 4
  (s.larder.read off 8 == ([0x42, 0x4C, 0x56, 0x46, 0x57, 0x30, 0x30, 0x38] : List Byte)) && len % 64 == 0 && 576 ≤ len && len ≤ 16777216 &&
    entry % 4 == 0 && 0x200 ≤ entry && s.blobAt off 0x11 15 == 0 && s.blobAt off 0x110 240 == 0

/-- A fused slot (R693, R694): usable for purpose bit `p` when valid, unrevoked and permitted. -/
def State.slot (s : State) (k : Nat) : Slot := Tab.get .empty s.fuses.slots k
def Slot.damaged (x : Slot) : Bool := !x.valid && (x.hash != 0 || x.perm != 0)
def Slot.may (x : Slot) (p : Nat) : Bool := x.valid && !x.revoked && bit x.perm p
/-- The key checks for purpose `p` (R548 steps 4 and 5): `key` is the slot whose hash matches, `sigOk` the signature's check; BLANK
asks neither for a key. -/
def State.keyOk (s : State) (p : Nat) (key : Option (Fin 4)) : Bool :=
  s.lifecycle == 0 || (match key with | some k => (s.slot k.val).may p | none => false)

/-- The status of verifying a blob: the header, the checks of R548 steps 4–6 and the body hash (R623 step 2). -/
def State.blobStatus (s : State) (off : Nat) (key : Option (Fin 4)) (sigOk hashOk : Bool) : Nat :=
  if !s.blobHeaderOk off then stImageCorrupt
  else if !s.keyOk 0 key || !sigOk || decide (s.lifecycle < s.blobAt off 0x10 1) then stImageAuthFail
  else if !hashOk then stImageCorrupt else stDone

/-- `BOOT_START` (R623 step 1): the blob's range locks and verification begins. -/
def State.bootStart (s : State) : State :=
  let st := s.fget MGC_BOOT.state
  if st = 0 ∨ st = 3 then
    let off := s.fget MGC_BOOT.offset * 4096
    { (s.fset MGC_BOOT.state 1) with mgc := { s.mgc with blob := some (off, min (s.blobAt off 8 4) 16777216) } }
  else s

def execBootStart (offset : Fin 32768) (s : State) : Out := .next (s.fset MGC_BOOT.offset offset.val).bootStart

/-- The address of the first instruction of the locked blob. -/
def State.entryPc (s : State) : Nat := match s.mgc.blob with | some b => larderBase + b.1 + s.blobAt b.1 12 4 | none => 0

/-- A hart starts in machine mode at the entry. -/
def State.startHart (s : State) (h : Nat) : State :=
  if s.fget (MGC_CORE_STAT.state h) = 3 then s
  else (s.setHart h { s.hart h with pc := s.entryPc, dbgHalt := false }).fset (MGC_CORE_STAT.state h) 0

/-- `FIRMWARE_VERIFIED` (R623 steps 2–4). -/
def execFirmwareVerified (key : Option (Fin 4)) (sigOk hashOk : Bool) (s : State) : Out :=
  if s.fget MGC_BOOT.state ≠ 1 then .next s
  else
    let st := s.blobStatus (s.fget MGC_BOOT.offset * 4096) key sigOk hashOk
    let s1 := s.fset MGC_BOOT.status st
    if st = stDone then .next (((List.range 4).foldl (fun a h => a.startHart h) (s1.fset MGC_BOOT.state 2)).hartPost 0 0x0C00 0)
    else .next ({ (s1.fset MGC_BOOT.state 3) with mgc := { s1.mgc with blob := none } }.hartPost 0 0x0C01 0)

/-! ### Core reset, the spare core (R621, R624–R626) -/

/-- `CORE_4` runs no hart and has not failed. -/
def State.spareCoreFree (s : State) : Bool := !(List.range 4).any (fun h => s.coreOf h == 4 && s.fget (MGC_CORE_STAT.state h) != 3) && !s.mgc.failed.contains 4

/-- A hart abandons its state and restarts under a new epoch at the entry of the locked blob, or stays held without one. -/
def State.restartHart (s : State) (h : Nat) : State :=
  let s1 := s.setHart h { Hart.fresh with mtip := (s.hart h).mtip }
  let e := s1.fget (MGC_CORE_STAT.epoch h) + 1
  let s2 := ((s1.fset (MGC_CORE_STAT.epoch h) (if e % 65536 = 0 then 1 else e)).fset (MGC_WDG_CTL.enable h) 0).fset (MGC_WDG_CTL.lock h) 0
  if s.fget MGC_BOOT.state = 2 then (s2.fset (MGC_CORE_STAT.state h) 0).setHart h { s2.hart h with pc := s2.entryPc }
  else s2.fset (MGC_CORE_STAT.state h) 1

/-- The core of hart `h` is failed: `CORE_4` takes the hart when it is free and passes its self-test, else the hart is lost. -/
def State.failCore (s : State) (h : Nat) (ok4 : Bool) : State :=
  let s1 := { s with mgc := { s.mgc with failed := s.coreOf h :: s.mgc.failed } }
  if s1.spareCoreFree && ok4 then ((s1.fset (MGC_CORE_STAT.core h) 4).restartHart h).hartPost h 0x0C04 2
  else
    let s2 := if s1.spareCoreFree then { s1 with mgc := { s1.mgc with failed := 4 :: s1.mgc.failed } } else s1
    ((s2.setHart h { Hart.fresh with mtip := (s2.hart h).mtip }).fset (MGC_CORE_STAT.state h) 3).hartPost h 0x0C05 4

/-- A core reset (R624): `ok` says that the core passes its self-test within two runs, `ok4` that `CORE_4` does if it is promoted. -/
def State.coreReset (s : State) (h : Nat) (ok ok4 : Bool) : State :=
  if s.fget (MGC_CORE_STAT.state h) = 3 then s
  else if ok then s.restartHart h else s.failCore h ok4

/-! ### Watchdogs (R617–R620, R736) -/

/-- A watchdog that counts now. -/
def State.wdgCounts (s : State) (h : Nat) : Bool :=
  s.fbit (MGC_WDG_CTL.enable h) && !((s.hart h).dbgHalt && s.fbit (MGC_WDG_CTL.pause h))

/-- A write of `MGC_WDG_KICK` (R617, R618). -/
def State.kick (s : State) (h key : Nat) : State :=
  if key = 0x4B1C ∧ s.fbit (MGC_WDG_CTL.enable h) then s.setHart h { s.hart h with preBite := false, count := 0 } else s

def execWatchdogKick (h : HartIx) (key : Word) (s : State) : Out := .next (s.kick h.val key.toNat)

/-- `WATCHDOG_PRE_BITE` (R618). -/
def execWatchdogPreBite (h : HartIx) (s : State) : Out :=
  if s.wdgCounts h.val then .next (s.setHart h.val { s.hart h.val with preBite := true }) else .next s

/-- `WDG_BITE` (R618, R736): the core resets; while a debugger holds the hart, at its resume. -/
def execWdgBite (h : HartIx) (ok ok4 : Bool) (s : State) : Out :=
  if s.wdgCounts h.val && s.fget (MGC_CORE_STAT.state h.val) != 3 then
    let s1 := s.fsat (MGC_CORE_STAT.bites h.val) 1
    if (s.hart h.val).dbgHalt then .next ((s1.setHart h.val { s1.hart h.val with biteDue := true }).hartPost h.val 0x0C02 3 1)
    else .next ((s1.hartPost h.val 0x0C02 3).coreReset h.val ok ok4)
  else .next s

/-- A debug-halted hart resumes (R736): a bite deferred resets its core instead; a paused watchdog is given its grace. -/
def State.resumeHart (s : State) (h : Nat) (ok ok4 : Bool) : State :=
  let v := s.hart h
  if !v.dbgHalt then s
  else if v.biteDue then (s.setHart h { v with dbgHalt := false, biteDue := false }).coreReset h ok ok4
  else if s.fbit (MGC_WDG_CTL.enable h) && s.fbit (MGC_WDG_CTL.pause h) then
    let t := s.fget (MGC_WDG_CTL.timeout h)
    let g := s.fget MGC_WDG_GRACE.ms
    let n := if t - v.count < g then t - g else v.count
    s.setHart h { v with dbgHalt := false, count := n, preBite := decide (s.preBitePoint h ≤ n) }
  else s.setHart h { v with dbgHalt := false }

/-- `DM_RESUME` (R736). -/
def execDmResume (h : HartIx) (ok ok4 : Bool) (s : State) : Out := .next (s.resumeHart h.val ok ok4)

/-! ### The L2 (R606–R609) -/

def State.l2 (s : State) (k : Nat) : Option L2Line := Tab.get none s.mgc.l2 k
def State.setL2 (s : State) (k : Nat) (v : Option L2Line) : State := { s with mgc := { s.mgc with l2 := Tab.put none s.mgc.l2 k v } }

/-- Reservations on line `k` cleared, of every hart but `keep` (R610). -/
def State.clearResv (s : State) (k : Nat) (keep : Option Nat) : State :=
  { s with mgc := { s.mgc with harts := (List.range 4).foldl (fun t h =>
    if (Tab.get Hart.fresh t h).resv = some k ∧ keep ≠ some h then Tab.put Hart.fresh t h { Tab.get Hart.fresh t h with resv := none } else t) s.mgc.harts } }

/-- A failing store or write-back is recorded (R609). -/
def State.busErr (s : State) (a st : Nat) : State :=
  if s.fbit MGC_BUS_ERR_HI.valid then s.fsat MGC_BUS_ERR_HI.more 1
  else (((s.fset MGC_BUS_ERR_LO.addr a).fset MGC_BUS_ERR_HI.addr_hi (a / 2 ^ 32)).fset MGC_BUS_ERR_HI.status st).fset MGC_BUS_ERR_HI.valid 1

/-- Domain and priority of the cluster's requests (R276). -/
def mgcDom : Nat := 12

/-- A dirty line written back. -/
def State.l2Clean (s : State) (k : Nat) : State :=
  match s.l2 k with
  | some v =>
    if v.dirty then
      let r := s.sysWrite nodeMgc mgcDom 1 (64 * k) v.data false .clean
      let s1 := r.2.setL2 k (some { v with dirty := false })
      if stOk r.1.status then s1 else s1.busErr (64 * k) r.1.status
    else s
  | none => s

/-- A line leaves the L2: its reservations clear (R610). -/
def State.l2Drop (s : State) (k : Nat) : State := (s.setL2 k none).clearResv k none

/-- Sets and ways of the L2 (R606): 4 MiB, 16-way, 64-byte lines. -/
def l2Sets : Nat := 4096

/-- Room made for line `k`: when its set is full one line of the set is written back and evicted, `victim` if it is one. -/
def State.l2Room (s : State) (k victim : Nat) : State :=
  let set := s.mgc.l2.filter (fun e => e.1 % l2Sets == k % l2Sets && e.2.isSome)
  if set.length < 16 then s
  else
    let v := if set.any (fun e => e.1 == victim) then victim else (set.headD (0, none)).1
    (s.l2Clean v).l2Drop v

/-- What an access of a hart comes to: its answer's bytes, or an access fault. -/
inductive LineAcc where
  | ok
  | fault
deriving DecidableEq, Repr

/-- Line `k` present and readable, filled if it is absent (R608): a failing or poisoned fill is a fault and fills nothing. -/
def State.l2Fetch (s : State) (k victim : Nat) (err : MemErr) : LineAcc × State :=
  match s.l2 k with
  | some v => (if v.poison then .fault else .ok, s)
  | none =>
    let r := s.sysRead nodeMgc mgcDom 1 (64 * k) 64 err
    if stOk r.1.status && !r.1.poison then (.ok, (r.2.l2Room k victim).setL2 k (some ⟨r.1.data, false, false⟩)) else (.fault, r.2)

/-- The bytes of a present line from `a`. -/
def State.l2Bytes (s : State) (a n : Nat) : List Byte := match s.l2 (a / 64) with | some v => slice v.data (a % 64) n | none => List.replicate n 0

/-- Bytes stored into a present line: it is dirty, and other harts' reservations on it clear. -/
def State.l2Store (s : State) (h a : Nat) (d : List Byte) : State :=
  match s.l2 (a / 64) with
  | some v =>
    (s.setL2 (a / 64) (some { v with data := v.data.take (a % 64) ++ d ++ v.data.drop (a % 64 + d.length), dirty := true })).clearResv (a / 64) (some h)
  | none => s

/-- How the device address map behaves for the cores (R604). -/
inductive CoreRegion where
  | cached | tin | reg | none
deriving DecidableEq, Repr

def State.coreRegion (s : State) (a : Nat) : CoreRegion :=
  match s.place a with
  | some .dram => .cached
  | some (.larder off) => if s.larderMay mgcDom off false then .cached else .none
  | some (.tin _ _) => .tin
  | some (.reg _) => .reg
  | none => .none

/-- A precise access fault (R608): cause 1 instruction, 5 load, 7 store/AMO, `mtval` the address; any trap clears the reservation. -/
def State.trap (s : State) (h cause a : Nat) : State := s.setHart h { s.hart h with trap := some (cause, a), resv := none }

/-- A tag for a request of the cluster: harts' reads and AMOs take their own number, stores the least free tag from 16. -/
def State.storeTag (s : State) : Nat := ((List.range 4080).find? (fun i => !s.tagBusy nodeMgc (16 + i))).getD 4080 + 16

def mgcReq (cmd : PCmd) (tag a n : Nat) (d : List Byte) : Packet := { hubReq nodeMgc cmd mgcDom 1 a n d false with tag := tag }

def accCause : AccKind → Nat
  | .fetch => 1 | .load => 5 | .store => 7

/-- An uncached store (R609): a WRITE the core does not wait for. -/
def State.uncachedStore (s : State) (h a : Nat) (d : List Byte) : State :=
  match s.coreRegion a with
  | .tin => s.inject nodeMgc (mgcReq .write s.storeTag a d.length d)
  | .reg => s.inject nodeMgc (mgcReq .write s.storeTag a d.length d)
  | .none => s.trap h 7 a
  | .cached => s

/-- `UNCACHED_STORE` (R609). -/
def execUncachedStore (h : HartIx) (a : Nat) (d : List Byte) (s : State) : Out :=
  if s.hartRuns h.val then .next (s.uncachedStore h.val a d) else .next s

/-- A fetch, load or store of hart `h` (R604, R605, R608): cached lines through the L2, other places as requests whose response ends
the access.  `victim` is the line the replacement evicts and `err` what a fill's decode finds. -/
def State.access (s : State) (h : Nat) (k : AccKind) (a n : Nat) (d : List Byte) (victim : Nat) (err : MemErr) : State :=
  match s.coreRegion a with
  | .none => s.trap h (accCause k) a
  | .cached =>
    let r := s.l2Fetch (a / 64) victim err
    match r.1 with
    | .fault => r.2.trap h (accCause k) a
    | .ok => if k = .store then r.2.l2Store h a d else { r.2 with answer := some ⟨stDone, r.2.l2Bytes a n, false⟩ }
  | _ => if k = .store then s.uncachedStore h a d else s.inject nodeMgc (mgcReq .read h a n [])

/-- `FETCH_LOAD_STORE` (R608). -/
def execFetchLoadStore (h : HartIx) (k : AccKind) (a n : Nat) (d : List Byte) (victim : Nat) (err : MemErr) (s : State) : Out :=
  if s.hartRuns h.val then .next (s.access h.val k a n d victim err) else .next s

/-- `LOAD_RESERVED` (R610): the value loaded is the answer. -/
def execLoadReserved (h : HartIx) (a : Nat) (dbl : Bool) (victim : Nat) (err : MemErr) (s : State) : Out :=
  if !s.hartRuns h.val then .next s
  else if s.coreRegion a != .cached then .next (s.trap h.val 5 a)
  else
    let r := s.l2Fetch (a / 64) victim err
    match r.1 with
    | .fault => .next (r.2.trap h.val 5 a)
    | .ok =>
      .next { r.2.setHart h.val { r.2.hart h.val with resv := some (a / 64) } with
        answer := some ⟨stDone, r.2.l2Bytes a (if dbl then 8 else 4), false⟩ }

/-- `STORE_CONDITIONAL` (R610): the answer is 0 when it wrote, 1 when it did not. -/
def execStoreConditional (h : HartIx) (a : Nat) (d : List Byte) (s : State) : Out :=
  if !s.hartRuns h.val then .next s
  else if s.coreRegion a != .cached then .next (s.trap h.val 7 a)
  else
    let ok := (s.hart h.val).resv == some (a / 64) && (s.l2 (a / 64)).isSome
    let s1 := if ok then s.l2Store h.val a d else s
    .next { s1.setHart h.val { s1.hart h.val with resv := none } with answer := some ⟨if ok then 0 else 1, [], false⟩ }

def amoNew (op : AmoOp) (w old v : Nat) : Nat :=
  match op with
  | .swap => v
  | .add => (old + v) % 2 ^ w
  | .xor => old ^^^ v
  | .and => old &&& v
  | .or => old ||| v
  | .min => if toSigned old w ≤ toSigned v w then old else v
  | .max => if toSigned v w ≤ toSigned old w then old else v
  | .minu => min old v
  | .maxu => max old v

/-- `AMO` (R612): in the L2, as a NoC atomic to a tin window, or a store/AMO access fault. -/
def execAmo (h : HartIx) (op : AmoOp) (a : Nat) (dbl : Bool) (v : BitVec 64) (victim : Nat) (err : MemErr) (s : State) : Out :=
  let n := if dbl then 8 else 4
  if !s.hartRuns h.val then .next s
  else
    match s.coreRegion a with
    | .cached =>
      let r := s.l2Fetch (a / 64) victim err
      match r.1 with
      | .fault => .next (r.2.trap h.val 7 a)
      | .ok =>
        let old := leVal (r.2.l2Bytes a n)
        .next { r.2.l2Store h.val a (leBytes n (amoNew op (8 * n) old (v.toNat % 2 ^ (8 * n)))) with answer := some ⟨stDone, leBytes n old, false⟩ }
    | .tin =>
      match op with
      | .swap => .next (s.inject nodeMgc (mgcReq .atomicSwap h.val a n (leBytes n v.toNat)))
      | .add => .next (s.inject nodeMgc (mgcReq .atomicAdd h.val a n (leBytes n v.toNat)))
      | _ => .next (s.trap h.val 7 a)
    | _ => .next (s.trap h.val 7 a)

/-- An L2 line found uncorrectable (R606, R607): poisoned, its dirty data lost, its row spared while one of 32 is free. -/
def State.l2Uncorr (s : State) (k : Nat) : State :=
  match s.l2 k with
  | none => s
  | some v =>
    let s1 := (s.setL2 k (some { v with dirty := false, poison := true })).post 0x0C03 3 none k
    if s1.mgc.l2Spared < 32 then { s1 with mgc := { s1.mgc with l2Spared := s1.mgc.l2Spared + 1 } }.post 0x0116 2 none k
    else if s1.mgc.l2NoSpare.contains k then s1
    else { s1 with mgc := { s1.mgc with l2NoSpare := k :: s1.mgc.l2NoSpare } }.post 0x0117 2 none k

/-- `MGC_L2_UNCORR` (R607). -/
def execMgcL2Uncorr (k : Nat) (s : State) : Out := .next (s.l2Uncorr k)

/-- The lines of the maintenance range that the L2 holds (R628). -/
def State.cmoLines (s : State) : List Nat :=
  let k0 := s.fget MGC_L2_CMO_ADDR.line + s.fget MGC_L2_CMO.line_hi * 2 ^ 32
  (s.mgc.l2.filter (fun e => decide (k0 ≤ e.1 ∧ e.1 ≤ k0 + s.fget MGC_L2_CMO.lines) && e.2.isSome)).map (·.1)

/-- A maintenance operation over the range of the registers: 0 clean, 1 invalidate, 2 both. -/
def State.cmo (s : State) (op : Nat) : State :=
  if s.fbit MGC_L2_CMO.busy then s
  else
    let s1 := (s.fset MGC_L2_CMO.op op).fset MGC_L2_CMO.busy 1
    s.cmoLines.foldl (fun a k =>
      let a1 := if op = 1 then a else a.l2Clean k
      if op = 0 then a1 else a1.l2Drop k) s1

/-- `L2_CLEAN` (R606). -/
def execL2Clean (s : State) : Out := .next (s.cmo 0)
/-- `L2_INVALIDATE` (R606). -/
def execL2Invalidate (s : State) : Out := .next (s.cmo 1)
/-- `L2_CLEAN_INVALIDATE` (R606). -/
def execL2CleanInvalidate (s : State) : Out := .next (s.cmo 2)
/-- `L2_CMO_DONE` (R606). -/
def execL2CmoDone (s : State) : Out := .next (s.fset MGC_L2_CMO.busy 0)

/-! ### Interrupt sources (R615) -/

def State.irqPend (s : State) : Nat :=
  b2n (s.mgc.evHead != s.mgc.evTail) + b2n s.mgc.secRsp * 2 + b2n (s.fbit MGC_BUS_ERR_HI.valid) * 4 +
    b2n (s.mgc.l2.any (fun e => match e.2 with | some v => v.poison | none => false)) * 8 +
    b2n (s.hart 0).preBite * 16 + b2n (s.hart 1).preBite * 32 + b2n (s.hart 2).preBite * 64 + b2n (s.hart 3).preBite * 128

/-- A hart's machine external and software interrupts (R614, R615). -/
def State.meip (s : State) (h : Nat) : Bool := s.irqPend &&& s.fget (MGC_IRQ_EN.en h) != 0
def State.msip (s : State) (h : Nat) : Bool := s.fbit (MGC_MSIP.msip h)

end Sys2Proof.Machine
end

