-- ==== Sys2Proof/Machine/Sec.lean ====
section
/-! DEFINITION. SEC: the mailbox, lifecycle and keys, the TRNG, security halts, debug authorisation and what the combination table
permits (R627, R687–R719). -/

namespace Sys2Proof.Machine

/-! ### Registers that show fuses (R720) -/

/-- The fuse fields of `SEC_LIFECYCLE`. -/
def State.showFuses (s : State) : State :=
  let mask := fun (f : Slot → Bool) => ((List.range 4).map (fun k => b2n (f (s.slot k)) * 2 ^ k)).sum
  (((((s.fset SEC_LIFECYCLE.slot_valid (mask (·.valid))).fset SEC_LIFECYCLE.slot_revoked (mask (fun x => x.revoked || x.damaged))).fset
    SEC_LIFECYCLE.duk_killed (b2n s.fuses.dukKill)).fset SEC_LIFECYCLE.img_killed (b2n s.fuses.imgKill)).fset SEC_LIFECYCLE.img_key
    (b2n s.fuses.imgKey.isSome)).fset SEC_LIFECYCLE.pending s.fuses.lifecycle

/-- `SECURITY_HALT` (R387, R704). -/
def execSecurityHalt (cause die chan level addr node : Nat) (s : State) : Out :=
  if 1 ≤ cause ∧ cause ≤ 8 then .next { s.securityHalt cause die chan level addr node with mgc := { (s.securityHalt cause die chan level addr node).mgc with mbox := none } }
  else .next s

/-- `GLITCH_DETECT` (R704 cause 6). -/
def execGlitchDetect (s : State) : Out :=
  let s1 := s.securityHalt 6 0 0xFF 0xFF 0 0
  .next { s1 with mgc := { s1.mgc with mbox := none } }

/-! ### The mailbox (R627, R699) -/

def secOpcodes : List Nat := [0x01, 0x02, 0x03, 0x04, 0x10, 0x11, 0x12, 0x13]

/-- A write of `go` (R627): an undefined opcode ends with `BAD_OPCODE`. -/
def State.secGo (s : State) : State :=
  if s.fbit MGC_SEC_CTL.busy then s
  else
    let s1 := s.fset MGC_SEC_CTL.busy 1
    if secOpcodes.contains (s.fget (MGC_SEC_REQ.value 0) % 256) then s1 else { s1 with mgc := { s1.mgc with mbox := some (stBadOpcode, []) } }

/-- The mailbox holds command `op`, not yet carried out. -/
def State.secReady (s : State) (op : Nat) : Bool :=
  s.fbit MGC_SEC_CTL.busy && s.mgc.mbox.isNone && s.fget (MGC_SEC_REQ.value 0) % 256 == op && !s.halted

def State.secDone (s : State) (st : Nat) (rsp : List Nat) : State := { s with mgc := { s.mgc with mbox := some (st, rsp) } }

/-- `GET_RANDOM` (R627, R703). -/
def execGetRandom (s : State) : Out :=
  if !s.secReady 1 then .next s
  else if !s.fbit SEC_LIFECYCLE.trng_ok then .next (s.secDone stInternal [])
  else
    let r := s.takeFree 32
    .next (r.2.secDone stDone ((List.range 8).map (fun i => leVal ((List.range 4).map (fun k => Config.trngByte (r.1 + 4 * i + k))))))

/-- A range of the larder that domain 12 may read. -/
def State.mgcMayRead (s : State) (off n : Nat) : Bool := (List.range (ceilDiv n 64)).all (fun i => s.larderMay 12 (off + 64 * i) false)

/-- `HASH_RANGE` (R627). -/
def execHashRange (s : State) : Out :=
  let off := s.fget (MGC_SEC_REQ.value 1)
  let n := s.fget (MGC_SEC_REQ.value 2)
  if !s.secReady 2 then .next s
  else if off % 64 ≠ 0 ∨ n % 64 ≠ 0 ∨ n < 64 ∨ 16777216 < n ∨ larderSize < off + n then .next (s.secDone stBadField [])
  else if !s.mgcMayRead off n then .next (s.secDone stNoRights [])
  else
    let h := slice (Config.sha384 (s.larder.read off n)) 0 48
    .next (s.secDone stDone ((List.range 12).map (fun i => leAt h (4 * i) 4)))

/-- `VERIFY_BLOB` (R627). -/
def execVerifyBlob (key : Option (Fin 4)) (sigOk hashOk : Bool) (s : State) : Out :=
  let off := s.fget (MGC_SEC_REQ.value 1)
  if !s.secReady 3 then .next s
  else if larderSize < off + 512 ∨ off % 4096 ≠ 0 then .next (s.secDone stBadField [])
  else if !s.mgcMayRead off 512 then .next (s.secDone stNoRights [])
  else .next (s.secDone (s.blobStatus off key sigOk hashOk) [])

/-- `DEVICE_INFO` (R627). -/
def execDeviceInfo (s : State) : Out :=
  if !s.secReady 4 then .next s
  else .next (s.secDone stDone [s.lifecycle + s.debugLevel * 4 + b2n (s.fbit SEC_SEAL_CFG.seal_en) * 16 +
    s.fget SEC_LIFECYCLE.slot_revoked * 2 ^ 8 + s.fget SEC_LIFECYCLE.slot_valid * 2 ^ 12 + s.fuses.arv % 128 * 2 ^ 16])

/-! ### Tokens (R699–R701) -/

/-- The token of a lifecycle or key command: its bytes. -/
def State.token (s : State) : List Byte := s.larder.read (s.fget (MGC_SEC_REQ.value 1)) 320
def tokOp (t : List Byte) : Nat := leAt t 8 1
def tokArg (t : List Byte) : Nat := leAt t 9 1
def tokPerm (t : List Byte) : Nat := leAt t 10 1
def tokPayload (t : List Byte) : Nat := leAt t 0x18 48

/-- What refuses a token before its command is looked at: its place, its own fields, its signer. -/
def State.tokenStop (s : State) (op : Nat) (key : Option (Fin 4)) (sigOk : Bool) : Option Nat :=
  let off := s.fget (MGC_SEC_REQ.value 1)
  let t := s.token
  if larderSize < off + 320 then some stBadField
  else if !s.mgcMayRead off 320 then some stNoRights
  else if t.take 8 ≠ ([0x42, 0x4C, 0x56, 0x54, 0x4F, 0x4B, 0x30, 0x38] : List Byte) ∨ tokOp t ≠ op ∨ leAt t 11 5 ≠ 0 ∨ leAt t 0x108 56 ≠ 0 ∨ leAt t 16 8 ≠ s.fuses.serial
      ∨ (if op = 2 then 16 ≤ tokPerm t else tokPerm t ≠ 0 ∨ tokPayload t ≠ 0) then some stBadField
  else if !s.keyOk 3 key || (s.lifecycle != 0 && !sigOk) then some stImageAuthFail
  else none

/-- Whether some unrevoked slot has permission `p`. -/
def State.anySlot (s : State) (p : Nat) : Bool := (List.range 4).any (fun k => (s.slot k).may p)

/-- R689: whether a transition is allowed. -/
def State.mayAdvance (s : State) (goal : Nat) : Bool :=
  match s.lifecycle, goal with
  | 0, 1 => (s.slot 0).may 3
  | 0, 3 => true
  | 1, 2 => s.anySlot 0
  | 1, 3 => true
  | 2, 3 => true
  | _, _ => false

/-- `LIFECYCLE_ADVANCE` (R689, R690, R699). -/
def execLifecycleAdvance (key : Option (Fin 4)) (sigOk : Bool) (s : State) : Out :=
  if !s.secReady 0x10 then .next s
  else
    match s.tokenStop 1 key sigOk with
    | some st => .next (s.secDone st [])
    | none =>
      let goal := tokArg s.token
      if s.mayAdvance goal then
        .next ((({ s with fuses := { s.fuses with lifecycle := max s.fuses.lifecycle goal } }.showFuses).post 0x0F00 0 none 0 (max s.fuses.lifecycle goal)).secDone stDone [])
      else .next (s.secDone stWrongState [])

def State.setSlot (s : State) (k : Nat) (x : Slot) : State :=
  { s with fuses := { s.fuses with slots := Tab.put .empty s.fuses.slots k x } }.showFuses

/-- `KEY_PROGRAM` (R695, R699). -/
def execKeyProgram (key : Option (Fin 4)) (sigOk : Bool) (s : State) : Out :=
  if !s.secReady 0x11 then .next s
  else
    match s.tokenStop 2 key sigOk with
    | some st => .next (s.secDone st [])
    | none =>
      let t := s.token
      let k := tokArg t
      if 4 < k then .next (s.secDone stBadField [])
      else if k = 4 then
        if s.fuses.imgKey.isSome ∨ s.fuses.imgKill then .next (s.secDone stWrongState [])
        else .next ((({ s with fuses := { s.fuses with imgKey := some (Machine.slice t 0x18 40) } }.showFuses).post 0x0F01 0 none 4 4).secDone stDone [])
      else if (s.slot k).valid ∨ (s.slot k).damaged then .next (s.secDone stWrongState [])
      else .next (((s.setSlot k ⟨tokPayload t, tokPerm t, true, (s.slot k).revoked⟩).post 0x0F01 0 none k k).secDone stDone [])

/-- `KEY_REVOKE` (R696, R699). -/
def execKeyRevoke (key : Option (Fin 4)) (sigOk : Bool) (s : State) : Out :=
  if !s.secReady 0x12 then .next s
  else
    match s.tokenStop 3 key sigOk with
    | some st => .next (s.secDone st [])
    | none =>
      let k := tokArg s.token
      if 3 < k then .next (s.secDone stBadField [])
      else if (s.slot k).revoked then .next (s.secDone stDone [])
      else
        let s1 := s.setSlot k { s.slot k with revoked := true }
        if s.lifecycle = 2 ∧ ¬ s1.anySlot 3 then .next (s.secDone stRefused [1])
        else if s.lifecycle = 2 ∧ ¬ s1.anySlot 0 then .next (s.secDone stRefused [2])
        else .next ((s1.post 0x0F02 0 none k k).secDone stDone [])

/-- `FORCE_HALT` (R699). -/
def execForceHalt (s : State) : Out :=
  if !s.secReady 0x13 then .next s
  else if s.fget (MGC_SEC_REQ.value 1) = 0x48414C54 then .next (s.securityHalt 8 0 0xFF 0xFF 0 0)
  else .next (s.secDone stBadField [])

/-- `MAILBOX_COMPLETE` (R627): status, response dwords, interrupt source 1. -/
def execMailboxComplete (s : State) : Out :=
  match s.mgc.mbox with
  | none => .next s
  | some (st, rsp) =>
    let s1 := ((List.range 16).zip rsp).foldl (fun a e => a.fset (MGC_SEC_RSP.value e.1) e.2) ((s.fset MGC_SEC_CTL.busy 0).fset MGC_SEC_CTL.status st)
    .next { s1 with mgc := { s1.mgc with mbox := none, secRsp := true } }

/-- `SEC_RESPONSE_READ` (R627). -/
def execSecResponseRead (s : State) : Out :=
  .next { s with mgc := { s.mgc with secRsp := false }, answer := some ⟨stDone, leBytes 4 (s.fget (MGC_SEC_RSP.value 0)), false⟩ }

/-! ### The TRNG (R703) -/

/-- `TRNG_HEALTH_FAIL`: after boot. -/
def execTrngHealthFail (s : State) : Out :=
  if s.fbit SEC_LIFECYCLE.trng_ok then .next ((s.fset SEC_LIFECYCLE.trng_ok 0).post 0x0F05 2 none 0) else .next s

/-- `TRNG_RETEST`: the start-up tests repeated. -/
def execTrngRetest (ok : Bool) (s : State) : Out :=
  if s.fbit SEC_LIFECYCLE.trng_ok || !ok then .next s else .next ((s.fset SEC_LIFECYCLE.trng_ok 1).post 0x0F06 0 none 0)

/-! ### Debug levels (R709–R715, R746) -/

/-- Below FULL every debug freeze is released and every halted hart resumes, or resets if a bite was deferred (R746). -/
def State.endDebug (s : State) : State :=
  let s1 := s.dbg.frozen.foldl (fun a k => a.releaseRole (k / 13) (k % 13)) s
  (List.range 4).foldl (fun a h => a.resumeHart h true true) s1

/-- The debug level set. -/
def State.setLevel (s : State) (l : Nat) : State :=
  let s1 := s.fset SEC_LIFECYCLE.debug l
  if s.debugLevel = 3 ∧ l < 3 then s1.endDebug else s1

/-- Challenges are refused (R714). -/
def State.challengeRefused (s : State) : Bool := s.dbg.lockout || !s.fbit SEC_LIFECYCLE.trng_ok || s.halted

/-- The 48 bytes of a fresh challenge (R710). -/
def State.newChallenge (s : State) : List Byte × State :=
  let r := s.takeFree 32
  ((List.range 32).map (fun i => Config.trngByte (r.1 + i)) ++ leBytes 8 s.fuses.serial ++ leBytes 1 s.lifecycle ++ leBytes 1 s.debugLevel ++ leBytes 6 0, r.2)

/-- A challenge that may still be answered: not used, within its 60 s. -/
def State.challengeLive (s : State) : Bool :=
  match s.dbg.challenge with | some (_, t, used) => !used && decide (s.now ≤ t + 60 * oneSecond) | none => false

/-- The status of a response of 200 bytes (R710–R714). -/
def State.responseStatus (s : State) (r : List Byte) (key : Option (Fin 4)) (sigOk : Bool) : Nat :=
  let want := leAt r 0 1
  if 3 < want ∨ leAt r 1 7 ≠ 0 then stBadField
  else if want ≤ s.debugLevel then stDone
  else if s.challengeRefused then stBusy
  else if !s.challengeLive then stTimeout
  else if s.lifecycle = 0 ∨ s.lifecycle = 3 then stDone
  else if (match key with | some k => (s.slot k.val).may (if want = 3 then 2 else 1) | none => false) && sigOk then stDone
  else stNoRights

/-- A response applied: a grant or a refusal, with its event; the eighth refusal in a row starts the lockout. -/
def State.respond (s : State) (r : List Byte) (key : Option (Fin 4)) (sigOk : Bool) : State :=
  let st := s.responseStatus r key sigOk
  let used := match s.dbg.challenge with | some (c, t, _) => some (c, t, true) | none => none
  let s1 := { s with dbg := { s.dbg with authStatus := st, challenge := if leAt r 0 1 ≤ s.debugLevel then s.dbg.challenge else used } }
  if st = stDone then ((s1.fset SEC_LIFECYCLE.auth_fail 0).setLevel (leAt r 0 1)).post 0x0F03 0 none 0 (leAt r 0 1)
  else
    let s2 := (s1.fsat SEC_LIFECYCLE.auth_fail 1).post 0x0F04 0 none 0 st
    if 8 ≤ s2.fget SEC_LIFECYCLE.auth_fail then { s2 with dbg := { s2.dbg with lockout := true } } else s2

/-- `CHALLENGE_LOCKOUT_END` (R714). -/
def execChallengeLockoutEnd (s : State) : Out := .next { s with dbg := { s.dbg with lockout := false } }

/-! ### The combination table (R716–R719) -/

/-- The TAP is powered (last row of R717). -/
def State.tapOn (s : State) : Bool := s.fget PTM_PSTATE.state != 4
/-- J0 with its challenge exchange. -/
def State.mayAuth (s : State) : Bool := s.tapOn && !s.halted
/-- JT: trace level or above. -/
def State.mayJt (s : State) : Bool := s.tapOn && !s.halted && decide (1 ≤ s.debugLevel)
/-- Rows that list EXTEST and image loading: BLANK at every level, elsewhere FULL. -/
def State.mayExtest (s : State) : Bool := s.tapOn && !s.halted && (s.lifecycle == 0 || s.debugLevel == 3)
/-- Rows that list configuration frame readback. -/
def State.mayFrames (s : State) : Bool := s.tapOn && !s.halted && s.debugLevel == 3 && s.lifecycle != 2
/-- An entry to NAP or DEEP is emulated (R716). -/
def State.emulates (s : State) : Bool := decide (2 ≤ s.debugLevel)

end Sys2Proof.Machine
end

