-- ==== Sys2Proof/Machine/Dbg.lean ====
section
/-! DEFINITION. The JTAG TAP, boundary scan, the terminal, abstract commands, trace frames and the debug operations on tins
(R722–R748). -/

namespace Sys2Proof.Machine

/-! ### The TAP (R722–R728).  The answer of a TAP command is the byte loaded at Capture-IR, then the captured data register -/

/-- R723: what Capture-IR loads. -/
def State.irCapture (s : State) : Nat := 1 + s.debugLevel * 4 + b2n s.halted * 16

/-- The boundary instruction in force ends (R727): the pads return, and every lane in use trains from its table entry; the channels
leave self-refresh by their own commands. -/
def State.endBoundary (s : State) : State :=
  if s.dbg.boundary.isNone then s
  else
    (List.range 96).foldl (fun a l => if [3, 4, 6].contains (a.fget (laneState l)) then a else a.laneTrain l)
      { s with dbg := { s.dbg with boundary := none } }

/-- An instruction other than a boundary instruction is selected; its captured data is answered. -/
def State.selectIr (s : State) (code status : Nat) (dr : List Byte) : State :=
  let c := leBytes 1 s.irCapture
  let s1 := s.endBoundary
  { s1 with dbg := { s1.dbg with ir := code }, answer := some ⟨status, c ++ dr, false⟩ }

/-- The TAP acts as BYPASS: its one-bit register captures 0 (R724). -/
def State.bypassIr (s : State) : State := s.selectIr 0xFF stDone [0]

/-- `TAP_RESET` (R722, R723): the TAP alone returns to IDCODE. -/
def execTapReset (s : State) : Out :=
  let s1 := s.endBoundary
  .next { s1 with dbg := { s1.dbg with ir := 2 } }

/-- `IDCODE` (R723). -/
def execIdcode (s : State) : Out := if s.tapOn then .next (s.selectIr 2 stDone (leBytes 4 0x1580834F)) else .next s

/-- `BYPASS` (R724). -/
def execBypass (s : State) : Out := if s.tapOn then .next s.bypassIr else .next s

/-- The boundary register as it is captured: the preloaded cells (R726 gives their order to the BSDL file). -/
def State.boundaryBytes (s : State) : List Byte := leBytes 512 s.dbg.cells

/-- `SAMPLE_PRELOAD` (R724): the cells are captured and preloaded; no pad changes. -/
def execSamplePreload (cells : Nat) (s : State) : Out :=
  if s.tapOn then
    let s1 := s.selectIr 1 stDone s.boundaryBytes
    .next { s1 with dbg := { s1.dbg with cells := cells } }
  else .next s

/-- A boundary instruction comes into force (R727): the pads follow the cells and every channel enters self-refresh; BYPASS where
the combination table does not permit it. -/
def State.boundaryIr (s : State) (code : Nat) (cells : Option Nat) : State :=
  if !s.tapOn then s
  else if !s.mayExtest then s.bypassIr
  else
    let s1 := (List.range 16).foldl (fun a c => a.selfRefresh c) s
    { s1 with
        dbg := { s1.dbg with ir := code, boundary := some code, cells := cells.getD s1.dbg.cells }
        answer := some ⟨stDone, leBytes 1 s.irCapture ++ (if cells.isSome then s.boundaryBytes else [0]), false⟩ }

/-- `EXTEST`. -/
def execExtest (cells : Nat) (s : State) : Out := .next (s.boundaryIr 0 (some cells))
/-- `CLAMP`: BYPASS is its data register. -/
def execClamp (s : State) : Out := .next (s.boundaryIr 3 none)
/-- `HIGHZ`: BYPASS is its data register. -/
def execHighz (s : State) : Out := .next (s.boundaryIr 4 none)
/-- `EXTEST_PULSE`. -/
def execExtestPulse (cells : Nat) (s : State) : Out := .next (s.boundaryIr 5 (some cells))
/-- `EXTEST_TRAIN`. -/
def execExtestTrain (cells : Nat) (s : State) : Out := .next (s.boundaryIr 6 (some cells))

/-- `BOUNDARY_SCAN_END` (R727). -/
def execBoundaryScanEnd (s : State) : Out := .next s.endBoundary

/-- The five halt registers as HALT_CAUSE captures them (R728). -/
def State.haltRegs (s : State) : List Byte :=
  [SEC_HALT_CAUSE, SEC_HALT_ADDR_LO, SEC_HALT_ADDR_HI, SEC_HALT_SEC, SEC_HALT_NS].flatMap (fun o => leBytes 4 (s.reg o).toNat)

/-- `HALT_CAUSE` (R724, R728): permitted at every level and during a halt. -/
def execHaltCause (s : State) : Out := if s.tapOn then .next (s.selectIr 0x10 stDone s.haltRegs) else .next s

/-- The challenge that AUTH captures: a fresh one when the last was used or has expired (R728), none while challenges are refused. -/
def State.captureChallenge (s : State) : List Byte × State :=
  if s.challengeLive || s.challengeRefused then ((match s.dbg.challenge with | some c => c.1 | none => List.replicate 48 0), s)
  else
    let n := s.newChallenge
    (n.1, { n.2 with dbg := { n.2.dbg with challenge := some (n.1, n.2.now, false) } })

/-- `AUTH` (R710–R714, R728): the status of the last response and the challenge are captured; the response shifted in, if there is
one, is judged against the challenge that stood when it was made. -/
def execAuth (resp : Option (List Byte)) (key : Option (Fin 4)) (sigOk : Bool) (s : State) : Out :=
  if !s.tapOn then .next s
  else if !s.mayAuth then .next s.bypassIr
  else
    let s0 := s.endBoundary
    let c := s0.captureChallenge
    let dr := leBytes 1 s0.dbg.authStatus ++ Machine.slice c.1 0 48 ++ List.replicate 152 0
    let a := some ⟨stDone, leBytes 1 s.irCapture ++ dr, false⟩
    match resp with
    | none => .next { c.2 with dbg := { c.2.dbg with ir := 0x11 }, answer := a }
    | some r =>
      let l := Machine.slice r 0 200
      let s1 := ({ c.2 with dbg := { c.2.dbg with challenge := s0.dbg.challenge } }).respond l key sigOk
      let s2 := if s0.challengeLive then s1 else { s1 with dbg := { s1.dbg with challenge := c.2.dbg.challenge } }
      .next { s2 with dbg := { s2.dbg with ir := 0x11 }, answer := a }

/-! ### The terminal (R743) -/

/-- `DTERM_UPDATE`: `v` is what is shifted in. -/
def execDtermUpdate (v : BitVec 34) (s : State) : Out :=
  if !s.tapOn then .next s
  else if !s.mayJt then .next s.bypassIr
  else
    let cap := s.fget DBG_DTX.word + s.fget DBG_DTERM_STAT.rx_full * 2 ^ 32 + s.fget DBG_DTERM_STAT.tx_full * 2 ^ 33
    let s1 := s.selectIr 0x13 stDone (leBytes 5 cap)
    let s2 := if bit v.toNat 32 then s1.fset DBG_DTERM_STAT.tx_full 0 else s1
    .next (if bit v.toNat 33 && !s2.fbit DBG_DTERM_STAT.rx_full && s2.debugLevel == 3 then
      (s2.fset DBG_DRX.word (bits v.toNat 0 32)).fset DBG_DTERM_STAT.rx_full 1 else s2)

/-- A word written to `DBG_DTX`. -/
def State.dtx (s : State) (w : Nat) : State :=
  if s.fbit DBG_DTERM_STAT.tx_full then s.fsat DBG_DTERM_STAT.tx_lost 1 else (s.fset DBG_DTX.word w).fset DBG_DTERM_STAT.tx_full 1

/-- `DTX_WRITE`. -/
def execDtxWrite (w : Word) (s : State) : Out := .next (s.dtx w.toNat)

/-- `DRX_CONSUME`: the word is answered and `rx_full` clears. -/
def execDrxConsume (s : State) : Out :=
  .next { s.fset DBG_DTERM_STAT.rx_full 0 with answer := some ⟨stDone, leBytes 4 (s.fget DBG_DRX.word), false⟩ }

/-! ### Configuration frame readback (R728, R729) -/

/-- What CFG_READBACK captures for a selection: status, then data and check bits; frames that do not exist give `BAD_FIELD`, a tin
in LOADING `BUSY`. -/
def State.frameCapture (s : State) : List Byte :=
  match s.dbg.readSel with
  | none => leBytes 1 stDone ++ List.replicate 132 0
  | some (t, f) =>
    if 104 ≤ t ∨ 0xA000 ≤ f then leBytes 1 stBadField ++ List.replicate 132 0
    else if s.tinState t = tsLoading then leBytes 1 stBusy ++ List.replicate 132 0
    else
      let v := (s.tin t).frame f
      leBytes 1 stDone ++ leBytes 128 v ++ leBytes 4 (Config.frameCheck (BitVec.ofNat 1024 v)).toNat

/-- `CFG_READBACK`: the frame selected at the previous Update-DR is captured, then `sel` selects the next. -/
def execCfgReadback (sel : Option (Fin 128 × Fin 65536)) (s : State) : Out :=
  if !s.tapOn then .next s
  else if !s.mayFrames then .next s.bypassIr
  else
    let s1 := s.selectIr 0x15 stDone s.frameCapture
    .next (match sel with | some (t, f) => { s1 with dbg := { s1.dbg with readSel := some (t.val, f.val) } } | none => s1)

/-! ### The debug module (R734) -/

def dmData0 : Nat := 0x04
def dmData1 : Nat := 0x05
def dmAbstractcs : Nat := 0x16

def State.dmReg (s : State) (a : Nat) : Nat := Tab.get 0 s.dbg.dm a
def State.setDm (s : State) (a v : Nat) : State := { s with dbg := { s.dbg with dm := Tab.put 0 s.dbg.dm a (v % 2 ^ 32) } }

/-- `cmderr` of `abstractcs`: the first error stays until it is cleared. -/
def State.cmdErr (s : State) (e : Nat) : State :=
  if bits (s.dmReg dmAbstractcs) 8 3 = 0 then s.setDm dmAbstractcs (setBits (s.dmReg dmAbstractcs) 8 3 e) else s

/-- Whether the Access Register command covers an abstract register number: CSRs, GPRs and FPRs. -/
def regnoOk (n : Nat) : Bool := n < 0x1000 || (0x1000 ≤ n && n < 0x1040)

/-- An Access Register command: `write` moves data to the register, `dbl` takes 64 bits (else 32). -/
def State.accessRegister (s : State) (h regno : Nat) (write dbl : Bool) : State :=
  let v := s.hart h
  if bits (s.dmReg dmAbstractcs) 8 3 ≠ 0 then s
  else if !regnoOk regno then s.cmdErr 2
  else if !v.dbgHalt then s.cmdErr 4
  else if write then
    let d := s.dmReg dmData0 + (if dbl then s.dmReg dmData1 * 2 ^ 32 else 0)
    if regno = 0x1000 then s
    else
      let w := if dbl then d else setBits (Tab.get 0 v.regs regno) 0 32 d
      s.setHart h { v with regs := Tab.put 0 v.regs regno w }
  else
    let d := Tab.get 0 v.regs regno
    let s1 := s.setDm dmData0 (d % 2 ^ 32)
    if dbl then s1.setDm dmData1 (d / 2 ^ 32) else s1

/-- `ACCESS_REGISTER`: a command is a write of the debug module, which needs FULL. -/
def execAccessRegister (h : HartIx) (regno : Fin 65536) (write dbl : Bool) (s : State) : Out :=
  if s.debugLevel = 3 ∧ s.fget (MGC_CORE_STAT.state h.val) ≠ 3 then .next (s.accessRegister h.val regno.val write dbl) else .next s

/-! ### Trace frames and stimulus (R740, R742) -/

/-- The frame that carries packets `l` from media lane `lane`: broadcast, 02-00-00-00-00-mm, 0x88B5, header, packets. -/
def traceFrame (lane sq : Nat) (l : List Nat) : List Byte :=
  List.replicate 6 0xFF ++ [0x02, 0x00, 0x00, 0x00, 0x00] ++ leBytes 1 lane ++ [0x88, 0xB5] ++
    leBytes 4 (sq % 2 ^ 16 + l.length * 2 ^ 16) ++ l.flatMap (leBytes 32)

/-- `TRACE_FRAME_SEND`: up to 32 packets leave as one frame. -/
def execTraceFrameSend (s : State) : Out :=
  if s.dbg.frames.isEmpty || !s.fbit DBG_TRACE_PORT.enable then .next s
  else
    let l := s.dbg.frames.take 32
    .next { s with
      dbg := { s.dbg with frames := s.dbg.frames.drop 32, frameSeq := (s.dbg.frameSeq + 1) % 2 ^ 16 }
      answer := some ⟨stDone, traceFrame (s.fget DBG_TRACE_PORT.lane) s.dbg.frameSeq l, false⟩ }

/-- `STIMULUS_WRITE` (R740): port `n` takes a word from node `src`. -/
def execStimulusWrite (n : Fin 256) (w : Word) (src : Fin 4096) (s : State) : Out := .next (s.stimulus n.val w.toNat src.val)

/-! ### Debug operations on tins (R744–R746) -/

def dsIdle : Nat := 0
def dsFreezing : Nat := 1
def dsFrozen : Nat := 2
def dsStepping : Nat := 3

/-- `DBG_TIN_CTL` as a write with `go` leaves it. -/
def State.tinCtl (s : State) (op d r port : Nat) : State :=
  (((s.fset DBG_TIN_CTL.op op).fset DBG_TIN_CTL.die d).fset DBG_TIN_CTL.role r).fset DBG_TIN_CTL.port port

def State.tinOpEnd (s : State) (st : Nat) : State := s.fset DBG_TIN_STAT.status st

/-- A role debug-frozen and quiescent. -/
def State.dbgQuiet (s : State) (d r : Nat) : Bool :=
  let t := s.tinOf d r
  s.dbgFrozen d r && s.tinState t == tsFrozen && (s.tin t).quiescent && s.dbg.stepping != some (13 * d + r)

def State.opFreeze (s : State) (d r : Nat) : State := let x := s.freezeRole d r; x.2.tinOpEnd x.1

def State.opRelease (s : State) (d r : Nat) : State :=
  if s.dbgFrozen d r then (s.releaseRole d r).tinOpEnd stDone else s.tinOpEnd stWrongState

/-- The inbound ports a step may use: the named one, or all. -/
def Tin.stepPorts (x : Tin) (port : Nat) : List Nat := x.inboundPorts.filter (fun p => port == 0x1FF || port == p)

/-- The connection that holds a token for inbound port `p` of role `r` of die `d`. -/
def State.tokenFor (s : State) (d r p : Nat) : Option Nat :=
  match s.connTo d (crustEp r p) with
  | some e => if (s.conn d e).ch.canCapture then some e else none
  | none => none

/-- Step: the ports that may take the token are marked, and a token that already waits at the lowest of them passes at once. -/
def State.opStep (s : State) (d r port : Nat) : State :=
  if !s.dbgQuiet d r then s.tinOpEnd stWrongState
  else
    let t := s.tinOf d r
    let ps := (s.tin t).stepPorts port
    let x := ps.foldl (fun y p => y.setPort p { y.port p with one := true }) (s.tin t)
    let s1 := (s.setTin t x).fset DBG_TIN_STAT.state dsStepping
    let s2 := ({ s1 with dbg := { s1.dbg with stepping := some (13 * d + r) } }).tinOpEnd stDone
    match ps.find? (fun p => (s.tokenFor d r p).isSome) with
    | none => s2
    | some p =>
      let e := (s.tokenFor d r p).getD 0
      let v := s2.conn d e
      match s2.epDeliver d v.dst v.ch.data v.peerLoss with
      | some s3 => s3.setConn d e { v with ch := v.ch.capture }
      | none => s2

/-- The place of the copy of a tin's state in the larder, if it fits in TRACE. -/
def State.tinBuf (s : State) : Option Nat :=
  let o := s.fget DBG_TIN_BUF.offset
  if s.fget LRD_LAYOUT.trace_mib * 0x100000 < o + readbackLen then none else some (s.traceBase + o)

def State.opReadback (s : State) (d r : Nat) : State :=
  if !s.dbgQuiet d r || s.fbit DBG_TRACE_CTL.run then s.tinOpEnd stWrongState
  else
    match s.tinBuf with
    | none => s.tinOpEnd stBadField
    | some b => ({ s with larder := (s.larder.write b (s.tin (s.tinOf d r)).readback).markWords b readbackLen false }).tinOpEnd stDone

def State.opStateWrite (s : State) (d r : Nat) : State :=
  if !s.dbgQuiet d r || s.fbit DBG_TRACE_CTL.run then s.tinOpEnd stWrongState
  else
    match s.tinBuf with
    | none => s.tinOpEnd stBadField
    | some b =>
      let l := s.larder.read b readbackLen
      let t := s.tinOf d r
      if !(s.tin t).stateOk l then s.tinOpEnd stBadField else (s.setTin t ((s.tin t).loadState l)).tinOpEnd stDone

/-- One operation of `DBG_TIN_CTL`; only domain 15 at FULL may write it. -/
def State.tinOp (s : State) (op d r port : Nat) : State :=
  if s.debugLevel ≠ 3 then { s with answer := some ⟨stNoRights, [], false⟩ }
  else
    let s1 := s.tinCtl op d r port
    match op with
    | 0 => s1.opFreeze d r
    | 1 => s1.opRelease d r
    | 2 => s1.opStep d r port
    | 3 => s1.opReadback d r
    | 4 => s1.opStateWrite d r
    | _ => s

/-- `TIN_FREEZE`. -/
def execTinFreeze (d : DieIx) (r : Fin 12) (s : State) : Out := .next (s.tinOp 0 d.val r.val (s.fget DBG_TIN_CTL.port))
/-- `TIN_RELEASE`. -/
def execTinRelease (d : DieIx) (r : Fin 12) (s : State) : Out := .next (s.tinOp 1 d.val r.val (s.fget DBG_TIN_CTL.port))
/-- `TOKEN_STEP`. -/
def execTokenStep (d : DieIx) (r : Fin 12) (port : Fin 512) (s : State) : Out := .next (s.tinOp 2 d.val r.val port.val)
/-- `TIN_READBACK`. -/
def execTinReadback (d : DieIx) (r : Fin 12) (s : State) : Out := .next (s.tinOp 3 d.val r.val (s.fget DBG_TIN_CTL.port))
/-- `TIN_STATE_WRITE`. -/
def execTinStateWrite (d : DieIx) (r : Fin 12) (s : State) : Out := .next (s.tinOp 4 d.val r.val (s.fget DBG_TIN_CTL.port))

/-- Every inbound port of the tin stands in STALL with no request waiting, and no step token is still to come. -/
def Tin.stalled (x : Tin) : Bool := x.inboundPorts.all (fun p => (x.port p).mode == .stall && (x.port p).want.isNone && !(x.port p).one)

/-- `DBG_TIN_FROZEN` (R744, R745): a debug-frozen tin is quiescent, every proof it awaits complete; after a step it is FROZEN again. -/
def execDbgTinFrozen (d : DieIx) (r : Fin 12) (s : State) : Out :=
  let t := s.tinOf d.val r.val
  let x := s.tin t
  if !s.dbgFrozen d.val r.val || !x.stalled || !x.quiescent then .next s
  else if s.dbg.stepping = some (13 * d.val + r.val) then
    .next { s.fset DBG_TIN_STAT.state dsFrozen with dbg := { s.dbg with stepping := none } }
  else if s.tinState t = tsInService then
    .next (((s.fset (TIN_STAT.state t) tsFrozen).fset DBG_TIN_STAT.state dsFrozen).post 0x1000 0 (some d.val) (tinUnit r.val (t % 13)))
  else .next s

end Sys2Proof.Machine
end

