-- ==== Sys2Proof/Machine/Hqe.lean ====
section
/-! DEFINITION. The host queue engine: rings, completions, doorbells, descriptor fetch, COPY and STREAM descriptors, interrupts and
event rings (R410–R432, R441–R445), and the pool operations that can put a queue in ERROR (R199–R203). -/

namespace Sys2Proof.Machine

/-! ### Queues -/

def State.queue (s : State) (q : Nat) : Queue := (Tab.get none s.hqe.queues q).getD (Queue.reset q)
def State.setQueue (s : State) (q : Nat) (v : Queue) : State :=
  { s with hqe := { s.hqe with queues := Tab.put none s.hqe.queues q (if v = Queue.reset q then none else some v) } }

def qDisabled : Nat := 0
def qEnabled : Nat := 1
def qPaused : Nat := 2
def qError : Nat := 3

/-- The started descriptors that still belong to the queue. -/
def Queue.live (v : Queue) : List Job := v.run.filter (fun j => !j.gone)
/-- Entries of the completion-side ring that the host has not reported consumed (R413). -/
def Queue.used (v : Queue) : Nat := (v.cqTail + 2 ^ v.cqLog2 - v.cqHead) % 2 ^ v.cqLog2
/-- Whether one more entry can be reserved (R415). -/
def Queue.room (v : Queue) : Bool := decide (v.used + v.live.length < 2 ^ v.cqLog2 - 1)
/-- The rights domain of the queue's device accesses (R411). -/
def Queue.dom (v : Queue) : Nat := if v.owner = 0 then 0 else 1

/-- The fields of a descriptor (R420). -/
def Desc.op (d : Desc) : Nat := d.dw0 % 256
def Desc.fence (d : Desc) : Bool := bit d.dw0 8
def Desc.rsv (d : Desc) : Nat := bits d.dw0 9 7
def Desc.cid (d : Desc) : Nat := bits d.dw0 16 16
def Desc.w1 (d : Desc) : Nat := d.dw1 % 2 ^ 32
def Desc.addrA (d : Desc) : Nat := d.dw2 % 2 ^ 32 + d.dw3 % 2 ^ 32 * 2 ^ 32
def Desc.addrB (d : Desc) : Nat := d.dw4 % 2 ^ 32 + d.dw5 % 2 ^ 32 * 2 ^ 32
def Desc.len (d : Desc) : Nat := d.dw6 % 2 ^ 32
def Desc.w7 (d : Desc) : Nat := d.dw7 % 2 ^ 32

def State.job (s : State) (q k : Nat) : Option Job := (s.queue q).run[k]?
def State.setJob (s : State) (q k : Nat) (j : Job) : State := s.setQueue q { s.queue q with run := (s.queue q).run.set k j }

/-! ### What reaches the host -/

/-- A new command: nothing written to the host yet. -/
def State.clearOut (s : State) : State := { s with hqe := { s.hqe with out := [] } }

def State.hostOut (s : State) (o : HostOut) : State := { s with hqe := { s.hqe with out := s.hqe.out ++ [o] } }

def msixKey (fn vec : Nat) : Nat := 2048 * fn + vec

/-- A vector is sent, or its pending bit set while it is masked (R441). -/
def State.sendVector (s : State) (fn vec : Nat) : State :=
  let e := Tab.get Msix.reset s.hqe.msix (msixKey fn vec)
  if e.mask then { s with hqe := { s.hqe with msix := Tab.put Msix.reset s.hqe.msix (msixKey fn vec) { e with pending := true } } }
  else s.hostOut (.msix fn vec)

/-- The queue's vector, with nothing left unsignalled. -/
def State.signal (s : State) (q : Nat) : State :=
  let v := s.queue q
  (s.setQueue q { v with unsig := 0 }).sendVector v.owner v.vector

/-- One entry of the completion-side ring: the phase flips at the wrap (R414), and enough unsignalled entries send the vector (R441). -/
def State.ringPut (s : State) (q : Nat) (entry : List Byte) : State :=
  let v := s.queue q
  let t := (v.cqTail + 1) % 2 ^ v.cqLog2
  let s1 := s.hostOut (.write v.owner (v.cqBase + entry.length * v.cqTail) entry)
  let s2 := s1.setQueue q { v with cqTail := t, phase := if t = 0 then !v.phase else v.phase, unsig := v.unsig + 1 }
  if v.irqEn && decide (max v.coalN 1 ≤ v.unsig + 1) then s2.signal q else s2

/-- A CQ entry (R425). -/
def cqBytes (phase : Bool) (cid head status detail result : Nat) : List Byte :=
  leBytes 16 (cid % 2 ^ 16 + head % 2 ^ 16 * 2 ^ 16 + status % 256 * 2 ^ 32 + b2n phase * 2 ^ 40 + detail % 2 ^ 16 * 2 ^ 48 + result % 2 ^ 64 * 2 ^ 64)

def State.cqEntryOut (s : State) (q cid head status detail result : Nat) : State :=
  s.ringPut q (cqBytes (s.queue q).phase cid head status detail result)

/-! ### The end of descriptors, deletions (R403, R431, R432, R436) -/

/-- An event about a queue; PF1's backlog takes those of queues of PF1 and its VFs (R444). -/
def State.postQueue (s : State) (q code sev arg0 arg1 : Nat) : State :=
  { s with events := s.events.post s.now ⟨code, sev, none, q, arg0, arg1⟩ (decide (1 ≤ (s.queue q).owner)) }

/-- A management command that no queue receives any more (R403). -/
def State.orphan (s : State) (q : Nat) (d : Desc) (status : Nat) : State :=
  (s.fsat HQE_ERR.orphaned 1).postQueue q 0x0701 0 (Desc.op d + Desc.cid d * 2 ^ 16) status

/-- Job `k` of queue `q` leaves the queue with its completion. -/
def State.dropJob (s : State) (q k status detail result : Nat) : State :=
  match s.job q k with
  | none => s
  | some j =>
    let v := s.queue q
    let s1 := s.setQueue q { v with run := v.run.eraseIdx k }
    if j.gone then (if 0x40 ≤ Desc.op j.desc then s1.orphan q j.desc status else s1)
    else if v.state = qEnabled ∨ v.state = qPaused then s1.cqEntryOut q (Desc.cid j.desc) j.head status detail result
    else s1

/-- The place of the job that waits for `w`. -/
def State.waiter (s : State) (w : Wait) : Option (Nat × Nat) :=
  s.hqe.queues.findSome? (fun e => match e.2 with
    | some v => if v.run.any (fun j => j.wait == some w) then some (e.1, v.run.findIdx (fun j => j.wait == some w)) else none
    | none => none)

/-- A delete under way goes on: descriptors not started complete with `ABORTED` as the CQ has room, and once nothing of the queue runs
it is DISABLED, its binding released and the delete command done (R436). -/
def State.settleQueue : Nat → State → Nat → State
  | 0, s, _ => s
  | n + 1, s, q =>
    let v := s.queue q
    match v.deleting with
    | none => s
    | some (c :: rest) =>
      if v.state ≠ qEnabled ∧ v.state ≠ qPaused then (s.setQueue q { v with deleting := some [] }).settleQueue n q
      else if !v.room then s
      else
        let h := (v.sqHead + 1) % 2 ^ v.sqLog2
        ((s.setQueue q { v with sqHead := h, deleting := some rest }).cqEntryOut q c h stAborted 0x0200 0).settleQueue n q
    | some [] =>
      if !v.run.isEmpty then s
      else
        let s1 := s.setQueue q { v with state := qDisabled, deleting := none, port := none, heldSq := none, heldCq := none, rest := none,
                                        midRecord := false, sqHead := v.sqTail }
        let s2 := if q = 0 then s1.fset HQE_QCTL.enable 0 else s1
        match s2.waiter (.queue q) with
        | none => s2
        | some (p, k) => (s2.dropJob p k stDone 0 0).settleQueue n p

/-- A delete completes every entry of one ring at most, and deletes chain through at most eight CMD queues. -/
def settleFuel : Nat := 1048576

/-- Job `k` of queue `q` ends. -/
def State.endJob (s : State) (q k status detail result : Nat) : State := (s.dropJob q k status detail result).settleQueue settleFuel q

/-- The command that waits for `w` ends. -/
def State.finishWait (s : State) (w : Wait) (status detail result : Nat) : State :=
  match s.waiter w with
  | some (q, k) => s.endJob q k status detail result
  | none => s

/-- What of the started descriptors goes on when a queue leaves its function's hands or enters ERROR: their device side (R401, R431),
which an open receive buffer has none of. -/
def Queue.goneRun (v : Queue) : List Job := if v.type = 1 then [] else v.run.map (fun j => { j with gone := true })

/-- The queue enters ERROR (R432): nothing of what it started reaches the host any more. -/
def State.queueError (s : State) (q cause : Nat) : State :=
  let v := s.queue q
  if v.state ≠ qEnabled ∧ v.state ≠ qPaused then s
  else
    ((s.setQueue q { v with state := qError, cause := cause, run := v.goneRun }).postQueue q 0x0700 3 q cause).settleQueue settleFuel q

/-! ### Doorbells (R417–R419) -/

/-- An SQ doorbell in force. -/
def State.applySq (s : State) (q v : Nat) : State :=
  if v / 2 ^ 17 ≠ 0 ∨ 2 ^ (s.queue q).sqLog2 ≤ v % 2 ^ 16 then s.queueError q 3 else s.setQueue q { s.queue q with sqTail := v % 2 ^ 16 }

/-- A CQ doorbell in force. -/
def State.applyCq (s : State) (q v : Nat) : State :=
  let r := s.queue q
  let size := 2 ^ r.cqLog2
  if size ≤ v ∨ r.used < (v + size - r.cqHead) % size then s.queueError q 4
  else (s.setQueue q { r with cqHead := v, unsig := min r.unsig ((r.cqTail + size - v) % size) }).settleQueue settleFuel q

/-- The doorbells recorded while the queue was not ENABLED take effect (R418). -/
def State.heldBells (s : State) (q : Nat) : State :=
  let v := s.queue q
  let s0 := s.setQueue q { v with heldSq := none, heldCq := none }
  let s1 := match v.heldSq with | some x => s0.applySq q x | none => s0
  match v.heldCq with | some x => if (s1.queue q).state = qEnabled then s1.applyCq q x else s1 | none => s1

/-- Whether a doorbell page of a PF is covered by its MSI-X structures (R407). -/
def msixPage (fn page : Nat) : Bool := (fn == 0 && page == 1023) || (fn == 1 && page ≤ 4)

/-- The queue behind doorbell page `page` of function `fn` (R405, R406): a VF's i-th queue in ascending number. -/
def State.pageQueue (s : State) (fn page : Nat) : Option Nat :=
  if fn ≤ 1 then some page
  else ((List.range 1022).filter (fun q => (s.queue q).owner == fn))[page]?

/-- A doorbell write (R417, R418); in NAP and DEEP those of other than CMD queues are recorded until the wake (R636). -/
def State.doorbell (s : State) (fn page v : Nat) (sq : Bool) : State :=
  if msixPage fn page || (2 ≤ fn && 15 ≤ page) || s.halted then s
  else
    match s.pageQueue fn page with
    | none => s.fsat HQE_ERR.db_invalid 1
    | some q =>
      let r := s.queue q
      if r.owner ≠ fn then s.fsat HQE_ERR.db_foreign 1
      else if r.state = qDisabled ∨ (sq ∧ r.type = 4) then s.fsat HQE_ERR.db_invalid 1
      else if r.state ≠ qEnabled ∨ (r.type ≠ 3 ∧ 2 ≤ s.fget PTM_PSTATE.state) then s.setQueue q (if sq then { r with heldSq := some v } else { r with heldCq := some v })
      else if sq then s.applySq q v else s.applyCq q v

/-- `SQ_DOORBELL`. -/
def execSqDoorbell (fn : Fin 66) (page : QueueIx) (v : Word) (s : State) : Out := .next (s.clearOut.doorbell fn.val page.val v.toNat true)
/-- `CQ_DOORBELL`. -/
def execCqDoorbell (fn : Fin 66) (page : QueueIx) (v : Word) (s : State) : Out := .next (s.clearOut.doorbell fn.val page.val v.toNat false)

/-! ### Descriptor fetch (R415, R416) -/

/-- The opcodes that a queue's type defines (R421, R434). -/
def opKnown (type op : Nat) : Bool :=
  match type with
  | 0 => op == 1 || op == 2 || op == 3
  | 1 => op == 0x11
  | 2 => op == 0x10
  | 3 => [0x40, 0x41, 0x42, 0x43, 0x44, 0x45, 0x46, 0x50, 0x51, 0x52, 0x53, 0x54, 0x58, 0x59, 0x5A, 0x60, 0x61].contains op
  | _ => false

def Job.start (d : Desc) (head : Nat) : Job := ⟨d, head, 0, 0, false, none, none, none, none, none, false, false⟩

/-- Whether queue `q` may fetch its next descriptor; from t1 of a power-state entry to the wake only CMD queues do (R636, R642). -/
def State.mayFetch (s : State) (q : Nat) : Bool :=
  let v := s.queue q
  v.state == qEnabled && v.deleting.isNone && v.type != 4 && v.sqHead != v.sqTail && v.room && !s.halted &&
    (v.type == 3 || (decide (s.fget PTM_PSTATE.state < 2) && !s.fbit PTM_PSTATE.entering)) &&
    (if v.type = 0 then decide (v.live.length < 64) else v.live.isEmpty)

/-- `DESCRIPTOR_FETCH`: `d` is what host memory gave, none for an error or poisoned data. -/
def execDescriptorFetch (q : QueueIx) (d : Option Desc) (s : State) : Out :=
  let v := s.queue q.val
  let s0 := s.clearOut
  if !s.mayFetch q.val then .next s
  else
    match d with
    | none => .next (s0.queueError q.val 1)
    | some d =>
      if Desc.fence d && !v.live.isEmpty then .next s
      else
        let h := (v.sqHead + 1) % 2 ^ v.sqLog2
        let s1 := s0.setQueue q.val { v with sqHead := h, run := v.run ++ [Job.start d h] }
        .next (if opKnown v.type (Desc.op d) then s1 else s1.endJob q.val v.run.length stBadOpcode 0 0)

/-! ### COPY (R421–R424) -/

/-- Whether a device range lies in usable DRAM, the larder (on 4-byte boundaries) or one tin window (R422). -/
def State.copyRange (s : State) (a n : Nat) : Bool :=
  match s.place a with
  | some .dram => decide (a + n ≤ s.usable)
  | some (.larder o) => decide (o + n ≤ larderSize) && a % 4 == 0 && n % 4 == 0
  | some (.tin _ _) => decide (a % 0x1000000 + n ≤ 0x1000000)
  | _ => false

/-- What makes a COPY descriptor a `BAD_FIELD` (R420, R422). -/
def State.copyBad (s : State) (d : Desc) : Bool :=
  Desc.rsv d != 0 || 4 ≤ Desc.w1 d || Desc.w7 d != 0 || Desc.len d == 0 || 2 ^ 40 ≤ Desc.addrB d || !s.copyRange (Desc.addrB d) (Desc.len d) ||
    (Desc.op d == 3 && (2 ^ 40 ≤ Desc.addrA d || !s.copyRange (Desc.addrA d) (Desc.len d)))

/-- The next request of a range of `n` bytes at `a` (R408): up to the next 512-byte boundary, in the larder the largest naturally
aligned access. -/
def reqLen (a n : Nat) : Nat :=
  if larderBase ≤ a ∧ a < larderBase + larderSize then pieceLen a n else min n (512 - a % 512)

/-- The next request of a COPY. -/
def copyLen (d : Desc) (off : Nat) : Nat :=
  let b := Desc.addrB d + off
  let n := Desc.len d - off
  if Desc.op d = 3 then reqLen b (reqLen (Desc.addrA d + off) (reqLen b n)) else reqLen b n

/-- A free tag of the HQE. -/
def State.hqeTag (s : State) : Nat := ((List.range 4096).find? (fun i => !s.tagBusy nodeHqe i)).getD 0

/-- A request of the HQE: memory answers at once, a tin window later by its tag (none while the injection interface holds it). -/
def State.hqeReq (s : State) (p : Packet) (err : MemErr) : Option Packet × Option Nat × State :=
  match s.place p.addr with
  | some (.tin _ _) =>
    let t := s.hqeTag
    let s1 := s.inject nodeHqe { p with tag := t }
    if s.noc.out.length < s1.noc.out.length then (none, some t, s1) else (none, none, s)
  | _ => let r := s.memAccess p err; (r.1, none, r.2)

/-- A COPY ends with a failure (R423): `result` is the number of bytes moved. -/
def State.copyFail (s : State) (q k detail : Nat) (j : Job) : State :=
  s.setJob q k { j with fin := some (stAborted, detail, j.off), tag := none, buf := none }

/-- `n` bytes have been moved; the last of them ends the COPY (R423, R424). -/
def State.copyMoved (s : State) (q k : Nat) (j : Job) (status n : Nat) (poison : Bool) : State :=
  let j1 := { j with off := j.off + n, degraded := j.degraded || status == stDegraded, tag := none, buf := none,
                     poisonAt := if poison && j.poisonAt.isNone then some j.off else j.poisonAt }
  let f := if j1.off < Desc.len j.desc then none
    else some (match j1.poisonAt with | some o => (stPoisoned, 0, o) | none => (if j1.degraded then stDegraded else stDone, 0, 0))
  s.setJob q k { j1 with fin := f }

/-- The answer to a COPY's present request. -/
def State.copyReply (s : State) (q k : Nat) (status : Nat) (data : List Byte) (poison : Bool) : State :=
  match s.job q k with
  | none => s
  | some j =>
    let n := copyLen j.desc j.off
    let bad := poison || status == stPoisoned
    if !stOk status && status != stPoisoned then s.copyFail q k status j
    else
      match Desc.op j.desc, j.buf with
      | 1, _ => s.copyMoved q k j status n bad
      | 2, _ =>
        let s1 := if j.gone then s
          else s.hostOut (.write (s.queue q).owner (Desc.addrA j.desc + j.off) (if bad then List.replicate n 0 else slice data 0 n))
        s1.copyMoved q k j status n bad
      | _, none => s.setJob q k { j with buf := some (if bad then List.replicate n 0 else slice data 0 n, bad), degraded := j.degraded || status == stDegraded, tag := none }
      | _, some b => s.copyMoved q k j status n (bad || b.2)

/-- A request of a COPY goes out. -/
def State.copyIssue (s : State) (q k : Nat) (j : Job) (cmd : PCmd) (a : Nat) (data : List Byte) (poison : Bool) (err : MemErr) : State :=
  let r := s.hqeReq (hubReq nodeHqe cmd (s.queue q).dom (Desc.w1 j.desc % 4) a (copyLen j.desc j.off) data poison) err
  match r.1, r.2.1 with
  | some p, _ => r.2.2.copyReply q k p.status p.data p.poison
  | none, some t => r.2.2.setJob q k { j with tag := some t }
  | none, none => s

/-- Whether job `k` of queue `q` is a COPY of opcode `op` that runs. -/
def State.copyJob (s : State) (q k op : Nat) : Option Job :=
  match s.job q k with
  | some j => if (s.queue q).type = 0 ∧ Desc.op j.desc = op ∧ j.fin.isNone ∧ !s.halted then some j else none
  | none => none

/-- What every COPY step does first: refuse a bad descriptor, or meet the timeout of the request it waits for (R297). -/
def State.copyStep (s : State) (q k : Nat) (j : Job) (go : State → State) : State :=
  if j.off = 0 && j.tag.isNone && s.copyBad j.desc then s.endJob q k stBadField 0 0
  else
    match j.tag with
    | some t => if s.noc.out.any (fun o => o.src == nodeHqe && o.tag == t) then s else s.copyFail q k stTimeout j
    | none => go s

/-- `COPY_TO_DEVICE`: the next request of the descriptor, with what host memory gave for it. -/
def State.copyToDevice (s : State) (q : QueueIx) (k : Nat) (host : HostRead) (err : MemErr) : State :=
  match s.copyJob q.val k 1 with
  | none => s
  | some j => (s.clearOut.copyStep q.val k j (fun s =>
      match host with
      | .failed c => s.copyFail q.val k (0x0100 + c.val) j
      | .data l ep =>
        let j1 := { j with poisonAt := if ep && j.poisonAt.isNone then some j.off else j.poisonAt }
        (s.setJob q.val k j1).copyIssue q.val k j1 .write (Desc.addrB j.desc + j.off) (slice l 0 (copyLen j.desc j.off)) ep err))

def execCopyToDevice (q : QueueIx) (k : Nat) (host : HostRead) (err : MemErr) (s : State) : Out := .next (s.copyToDevice q k host err)

/-- `COPY_FROM_DEVICE`. -/
def execCopyFromDevice (q : QueueIx) (k : Nat) (err : MemErr) (s : State) : Out :=
  match s.copyJob q.val k 2 with
  | none => .next s
  | some j => .next (s.clearOut.copyStep q.val k j (fun s => s.copyIssue q.val k j .read (Desc.addrB j.desc + j.off) [] false err))

/-- The write of what a device-to-device COPY has read. -/
def State.copyWrite (s : State) (q k : Nat) (err : MemErr) : State :=
  match s.job q k with
  | some j => match j.buf with
    | some b => s.copyIssue q k j .write (Desc.addrB j.desc + j.off) b.1 b.2 err
    | none => s
  | none => s

/-- `COPY_DEVICE`: the next request reads, and its data is written. -/
def execCopyDevice (q : QueueIx) (k : Nat) (err : MemErr) (s : State) : Out :=
  match s.copyJob q.val k 3 with
  | none => .next s
  | some j => .next (s.clearOut.copyStep q.val k j (fun s =>
      if j.buf.isSome then s.copyWrite q.val k err
      else (s.copyIssue q.val k j .read (Desc.addrA j.desc + j.off) [] false err).copyWrite q.val k .clean))

/-- `COPY_COMPLETE` (R423): the completion of a COPY all of whose requests have answered; `ok` says that its write could be issued
(R432 cause 2). -/
def execCopyComplete (q : QueueIx) (k : Nat) (ok : Bool) (s : State) : Out :=
  match s.job q.val k with
  | some j => match j.fin with
    | some (st, d, r) =>
      if s.halted then .next s
      else if !ok && !j.gone then .next ((s.clearOut.queueError q.val 2).endJob q.val k st d r)
      else .next (s.clearOut.endJob q.val k st d r)
    | none => .next s
  | none => .next s

/-! ### Streams (R427–R430, R504) -/

/-- The running descriptor with opcode `op` of a stream queue; the device side of a piece goes on after its queue has failed (R401, R431). -/
def State.streamJob (s : State) (q op : Nat) : Option (Nat × Job) :=
  let v := s.queue q
  let k := v.run.findIdx (fun j => Desc.op j.desc == op && (op == 0x10 || !j.gone))
  match v.run[k]? with
  | some j => if !s.halted then some (k, j) else none
  | none => none

/-- A list cut into parts of 512 bytes; one part when it is empty. -/
def cut512 : Nat → List Byte → List (List Byte)
  | 0, _ => []
  | n + 1, l => if l.length ≤ 512 then [l] else l.take 512 :: cut512 n (l.drop 512)

/-- The messages that carry a piece to the node of stream port `gp` = 8d + s (R504). -/
def streamMsgs (gp node dom prio : Nat) (l : List Byte) (first last poison : Bool) : List Packet :=
  let ps := cut512 (l.length + 1) l
  (List.range ps.length).map (fun i =>
    { hubReq ((gp / 8 + 1) * 256 + 0x28 + gp % 8) .message dom prio (b2n (first && i == 0) + b2n (last && i + 1 == ps.length) * 2)
        (ps.getD i []).length (ps.getD i []) poison with dst := node })

/-- The router of a die's stream ports. -/
def streamLoc (d : Nat) : Nat := 18 * d + 8

/-- `STREAM_SEND` (R428): the port accepts the whole piece once its node is set and its die runs. -/
def State.streamSend (s : State) (q : QueueIx) (host : HostRead) : State :=
  let v := s.queue q.val
  match s.streamJob q.val 0x10, v.port with
  | some (k, j), some gp =>
    let d := j.desc
    let s0 := s.clearOut
    if v.type ≠ 2 then s
    else if Desc.rsv d ≠ 0 ∨ 2 ≤ Desc.w1 d ∨ Desc.addrB d ≠ 0 ∨ Desc.len d = 0 ∨ 65535 < Desc.len d then (s0.endJob q.val k stBadField 0 0)
    else if !s.fbit (SP_ROUTE.valid (gp / 8) (gp % 8)) || s.dieAway (gp / 8) then s
    else
      match host with
      | .failed c => (s0.endJob q.val k stAborted (0x0100 + c.val) 0)
      | .data l ep =>
        let body := slice l 0 (Desc.len d)
        let l1 := if v.midRecord then body else leBytes 32 (Desc.w7 d * 2 ^ 160) ++ body
        let last := !bit (Desc.w1 d) 0
        let s1 := (streamMsgs gp (s.fget (SP_ROUTE.node (gp / 8) (gp % 8))) v.dom v.prio l1 (!v.midRecord) last ep).foldl
          (fun a p => a.launch p (streamLoc (gp / 8))) s0
        ((s1.setQueue q.val { v with midRecord := !last }).endJob q.val k stDone 0 0)
  | _, _ => s

def execStreamSend (q : QueueIx) (host : HostRead) (s : State) : Out := .next (s.streamSend q host)

/-- `STREAM_SEND_TIMEOUT` (R428). -/
def execStreamSendTimeout (q : QueueIx) (s : State) : Out :=
  match s.streamJob q.val 0x10 with
  | some (k, _) => if (s.queue q.val).type = 2 then .next (s.clearOut.endJob q.val k stAborted 0x0020 0) else .next s
  | none => .next s

/-- `STREAM_BUFFER` (R421, R429): the buffer is opened for records. -/
def execStreamBuffer (q : QueueIx) (s : State) : Out :=
  match s.streamJob q.val 0x11 with
  | some (k, j) =>
    let d := j.desc
    if (s.queue q.val).type ≠ 1 ∨ j.opened then .next s
    else if Desc.rsv d ≠ 0 ∨ Desc.w1 d ≠ 0 ∨ Desc.addrB d ≠ 0 ∨ Desc.w7 d ≠ 0 ∨ Desc.addrA d % 8 ≠ 0 ∨ Desc.len d % 8 ≠ 0 ∨ Desc.len d < 64 ∨ 0x1000000 < Desc.len d then
      .next (s.clearOut.endJob q.val k stBadField 0 0)
    else .next (s.setJob q.val k { j with opened := true })
  | none => .next s

/-- The result of a completed buffer (R429). -/
def bufResult (j : Job) (flushed : Bool) : Nat := j.off % 2 ^ 32 + j.pieces % 2 ^ 16 * 2 ^ 32 + b2n flushed * 2 ^ 48

/-- One piece: its header, its data and the padding (R429). -/
def pieceBytes (user : Nat) (poison cont first : Bool) (l : List Byte) : List Byte :=
  leBytes 8 (l.length + b2n first * 2 ^ 16 + b2n cont * 2 ^ 17 + b2n poison * 2 ^ 18 + user % 2 ^ 32 * 2 ^ 32) ++ l ++
    List.replicate (8 * ceilDiv l.length 8 - l.length) 0

/-- A piece of record (user, poison, bytes) goes into the open buffer `k`. -/
def State.putPiece (s : State) (q k : Nat) (j : Job) (user : Nat) (poison first : Bool) (l : List Byte) : State :=
  let free := Desc.len j.desc - j.off
  let n := min l.length (min (free - 8) 65535)
  let more := decide (n < l.length)
  let b := pieceBytes user poison more first (l.take n)
  let j1 := { j with off := j.off + b.length, pieces := j.pieces + 1 }
  let s1 := (s.hostOut (.write (s.queue q).owner (Desc.addrA j.desc + j.off) b)).setJob q k j1
  let s2 := s1.setQueue q { s1.queue q with rest := if more then some (user, poison, l.drop n) else none }
  if Desc.len j.desc < j1.off + 16 then s2.endJob q k stDone 0 (bufResult j1 false) else s2

/-- The next record of stream port `gp`, taken from it. -/
def State.takeRecord (s : State) (gp : Nat) : Option (Rec × State) :=
  let v := s.sp (gp / 8) (gp % 8)
  match v.recs with
  | r :: rest => some (r, s.setSp (gp / 8) (gp % 8) { v with recs := rest })
  | [] => none

/-- `STREAM_RECORD` (R429, R430): the next piece of the record under way, or of the port's next record, is packed into the open
buffer; while the queue is not ENABLED a DRAIN setting discards the record. -/
def execStreamRecord (q : QueueIx) (s : State) : Out :=
  let v := s.queue q.val
  match v.type, v.port with
  | 1, some gp =>
    if s.halted then .next s
    else if v.state ≠ qEnabled then
      if v.unbound = 1 then
        match s.takeRecord gp with
        | some (_, s1) => .next (s1.setQueue q.val { v with drained := v.drained + 1 })
        | none => .next s
      else .next s
    else
      match s.streamJob q.val 0x11 with
      | none => .next s
      | some (k, j) =>
        if !j.opened then .next s
        else
          match v.rest with
          | some (u, p, l) => .next (s.clearOut.putPiece q.val k j u p false l)
          | none =>
            match s.takeRecord gp with
            | some (r, s1) => .next (s1.clearOut.putPiece q.val k j (Rec.user r) (Rec.poison r) true r.body)
            | none => .next s
  | _, _ => .next s

/-- `STREAM_BUFFER_FLUSH` (R443). -/
def execStreamBufferFlush (q : QueueIx) (s : State) : Out :=
  match s.streamJob q.val 0x11 with
  | some (k, j) =>
    if (s.queue q.val).type = 1 ∧ (s.queue q.val).staleUs ≠ 0 ∧ j.opened ∧ j.pieces ≠ 0 then .next (s.clearOut.endJob q.val k stDone 0 (bufResult j true))
    else .next s
  | none => .next s

/-! ### Interrupts and event rings (R441, R442, R444, R445) -/

/-- `INTERRUPT_COALESCE` (R441): the oldest unsignalled entry has waited `coal_us`. -/
def execInterruptCoalesce (q : QueueIx) (s : State) : Out :=
  let v := s.queue q.val
  if v.irqEn ∧ v.coalUs ≠ 0 ∧ v.unsig ≠ 0 ∧ v.state ≠ qDisabled ∧ !s.halted then .next (s.clearOut.signal q.val) else .next s

/-- `CQ_STALE` (R442): an entry has stayed unconsumed for `stale_us`. -/
def execCqStale (q : QueueIx) (s : State) : Out :=
  let v := s.queue q.val
  if v.irqEn ∧ v.staleUs ≠ 0 ∧ v.used ≠ 0 ∧ v.state ≠ qDisabled ∧ !s.halted then .next (s.clearOut.sendVector v.owner v.vector) else .next s

/-- An event ring entry (R445). -/
def evBytes (e : EvEntry) (lost phase : Bool) : List Byte :=
  leBytes 32 (e.ev.code % 2 ^ 16 + e.ev.sev % 8 * 2 ^ 16 + b2n phase * 2 ^ 19 + b2n (e.lost || lost) * 2 ^ 20 + e.seq % 2 ^ 32 * 2 ^ 32 +
    (e.ev.unit % 2 ^ 28 + (match e.ev.die with | some d => d + 1 | none => 0) % 16 * 2 ^ 28) * 2 ^ 64 + e.ev.arg0 % 2 ^ 32 * 2 ^ 96 +
    e.ev.arg1 % 2 ^ 32 * 2 ^ 128 + timeWord e.time * 2 ^ 160)

/-- The oldest entry of a backlog taken, with its `lost` mark. -/
def Backlog.take (b : Backlog) : Option (EvEntry × Bool × Backlog) :=
  match b.entries with
  | e :: r => some (e, b.lost, { b with entries := r, lost := false })
  | [] => none

/-- `EVENT_RING_MOVE` (R445). -/
def execEventRingMove (pf : Fin 2) (s : State) : Out :=
  let q := 1022 + pf.val
  let v := s.queue q
  let b := if pf.val = 0 then s.events.pf0 else s.events.pf1
  if v.state ≠ qEnabled ∨ 2 ^ v.cqLog2 - 1 ≤ v.used ∨ s.halted then .next s
  else
    match Backlog.take b with
    | none => .next s
    | some (e, lost, b1) =>
      let s1 := { s.clearOut with events := if pf.val = 0 then { s.events with pf0 := b1 } else { s.events with pf1 := b1 } }
      .next (s1.ringPut q (evBytes e lost v.phase))

/-! ### The cell pool's lists and their owners (R198–R200) -/

/-- The queue that owns a list which has just been emptied by a fault enters ERROR (R200). -/
def State.poolOwner (s : State) (before l : Nat) : State :=
  if s.pool.marked.length = before then s
  else if l < 2048 then s.queueError (l / 2) 5
  else
    let f := MAC_CQ_STAT.error ((l - 2048) / 16)
    if (l - 2048) % 16 < 13 then s.fset f (setBit (s.fget f) ((l - 2048) % 16) true) else s

/-- `POOL_PUSH`. -/
def execPoolPush (list entry : Nat) (upset ownerErr : Bool) (s : State) : Out :=
  .next ((s.poolPush list entry upset ownerErr).poolOwner s.pool.marked.length list)

/-- `POOL_POP`. -/
def execPoolPop (list : Nat) (upset nextErr ownerErr : Bool) (s : State) : Out :=
  .next ((s.poolPop list upset nextErr ownerErr).poolOwner s.pool.marked.length list)

end Sys2Proof.Machine
end

