-- ==== Sys2Proof/Machine/Mgmt.lean ====
section
/-! DEFINITION. What every management command shares: the running command of a CMD queue and the checks of its fields and of the
device's state (R20, R426, R434, R435). -/

namespace Sys2Proof.Machine

/-- The management command with opcode `op` that CMD queue `q` has started and that has had no effect yet (R416, R434). -/
def State.mgmtJob (s : State) (q op : Nat) : Option (Nat × Job) :=
  if s.halted then none
  else
    let l := (s.queue q).run
    let k := l.findIdx (fun j => Desc.op j.desc == op && j.wait.isNone && j.fin.isNone)
    (l[k]?).map (fun j => (k, j))

/-- The reserved bits of dw0 and of the fields the command does not use (R420). -/
def Desc.clear (d : Desc) (a b len w7 : Bool) : Bool :=
  Desc.rsv d == 0 && (a || Desc.addrA d == 0) && (b || Desc.addrB d == 0) && (len || Desc.len d == 0) && (w7 || Desc.w7 d == 0)

/-- The detail of `WRONG_STATE` under the first layout of R426; `qs` is the state of the target or issuing queue. -/
def State.stateDetail (s : State) (qs : Nat) : Nat :=
  0x8000 + s.fget HQE_STAT.dev_state * 2 ^ 12 + s.fget PTM_PSTATE.state * 2 ^ 9 + s.lifecycle * 2 ^ 7 +
    s.fget HQE_STAT.dram_ready * 2 ^ 6 + qs * 2 ^ 4

/-- Whether a command is legal in the device state and power state (R434). -/
def State.legalState (s : State) (op : Nat) : Bool :=
  let d := s.fget HQE_STAT.dev_state
  let p := s.fget PTM_PSTATE.state
  let devs : List Nat := if op < 0x50 ∨ op = 0x53 then [0, 1, 2, 3, 4] else if op = 0x50 then [0, 2, 3, 4]
    else if op = 0x51 ∨ op = 0x52 then [3] else if op = 0x54 then [0, 3] else if op = 0x60 then [0, 3, 4] else [0, 2, 3, 4]
  let pws : List Nat := if op < 0x50 ∨ op = 0x60 then [0, 1, 2, 3] else if op = 0x53 ∨ (0x58 ≤ op ∧ op ≤ 0x5A) then [0, 1] else [0]
  devs.contains d && pws.contains p && (!(0x58 ≤ op && op ≤ 0x5A) || s.fbit HQE_STAT.dram_ready)

/-- A management command ends at once: job `k` of queue `q` completes. -/
def State.mgmtEnd (s : State) (q k status detail : Nat) : State := s.clearOut.endJob q k status detail 0

/-- A management command goes on until `w` happens. -/
def State.mgmtWait (s : State) (q k : Nat) (j : Job) (w : Wait) : State := s.setJob q k { j with wait := some w }

/-- A management command without a target queue: its field check, the check of R434, then what it does.  `go` answers the status
and detail with which the command has no effect, or its effect. -/
def State.command (s : State) (q op : Nat) (fields : Desc → Bool) (go : State → Nat → Job → State) : State :=
  match s.mgmtJob q op with
  | none => s
  | some (k, j) =>
    if !fields j.desc then s.mgmtEnd q k stBadField 0
    else if !s.legalState op then s.mgmtEnd q k stWrongState (s.stateDetail (s.queue q).state)
    else go s.clearOut k j

end Sys2Proof.Machine
end

