-- ==== Sys2Proof/Machine/Legal.lean ====
section
/-! DEFINITION. The checks that a tin's frames pass at commit (R73, R78, R80, R87, R181, R227, R280, R793). -/

namespace Sys2Proof.Machine

/-! ### Crumbs (R60, R69–R73) -/

/-- The rails that term 2k (rail 0) or 2k + 1 (rail 1) of a multiplexer selects (R69). -/
def muxMask (k rail : Nat) : Nat :=
  2 ^ (2 * k + rail) + ((List.range 3).map (fun b => 2 ^ (2 * (8 + b) + (if bit k b then 0 else 1)))).sum

/-- Rules 1 and 2 of one mask (R73). -/
def maskOk (k mask : Nat) : Bool :=
  (List.range 12).all (fun i => !(bit mask (2 * i) && bit mask (2 * i + 1)) && ((!bit mask (2 * i) && !bit mask (2 * i + 1)) || crumbInputUsed k i))

/-- Terms with a mask that are allocated to macrocell `m`. -/
def termsOf (k m : Nat) : Nat := ((List.range 24).filter (fun j => crumbMask k j != 0 && crumbTermCell k j == m)).length

/-- Rule 4: the XOR term of macrocell `m` (R73); in mux mode terms 0–15 belong to the multiplexer (R69). -/
def xorOk (k m : Nat) : Bool :=
  !crumbXorEn k m ||
    (let j := crumbXorTerm k m
     j ≤ 23 && crumbMask k j != 0 && crumbTermCell k j == m && !crumbTermF k j && (!crumbMux k || 16 ≤ j))

/-- The rules of R73 that concern one crumb, chains apart. -/
def crumbOk (k : Nat) : Bool :=
  bits k 699 5 == 0 && (List.range 24).all (fun j => maskOk k (crumbMask k j)) && (List.range 4).all (fun m => xorOk k m) &&
    (if crumbMux k then
       (List.range 8).all (fun n => crumbMask k (2 * n) == muxMask n 0 && crumbMask k (2 * n + 1) == muxMask n 1) &&
         (List.range 11).all (fun i => crumbInputUsed k i) && !crumbXorEn k 0
     else (List.range 4).all (fun m => termsOf k m ≤ 12))

/-- The chain rule of a batch (R70, R73 rule 6). -/
def Tin.chainOk (x : Tin) (b : Nat) : Bool :=
  let plain := fun c => !crumbChainEn (x.crumb b c) && crumbChainPos (x.crumb b c) == 0 && !crumbChainTail (x.crumb b c)
  if (List.range 16).all plain then true
  else
    let l := x.chainLen b
    2 ≤ l && (List.range 16).all (fun c =>
      let k := x.crumb b c
      if c < l then
        crumbChainEn k && crumbMux k && crumbChainPos k == c && crumbChainTail k == (c + 1 == l) && (c + 1 == l || crumbTransparent k 0)
      else plain c)

/-! ### Routing (R75, R76, R78, R79, R89) -/

/-- An enabled outgoing endpoint has a far end, or a used bit of the outbound crust port at the edge. -/
def Tin.endpointOk (x : Tin) (b e : Nat) : Bool :=
  let f := x.driver b e
  bits f 6 8 == 0 &&
    (!bit f 15 ||
      (match perimeter b (e / 16) with
       | some q => e % 16 < 10 && e % 16 < x.portWidth (2 * q + 1)
       | none => (stepTo b (e / 16) (trackLen (e % 16))).isSome))

/-- Whether an incoming line has a driver. -/
def Tin.driven (x : Tin) (b n : Nat) : Bool := x.incoming trackFuel b n != .none

/-- A used crumb input or column-select bit selects a driven line. -/
def Tin.inputsOk (x : Tin) (b : Nat) : Bool :=
  (List.range 16).all (fun c => (List.range 12).all (fun i =>
    !crumbInputUsed (x.crumb b c) i ||
      (let l := 4 * bits (x.routing b 0) (5 * (12 * c + i)) 5 + (c + i) % 4
       l < 64 || x.driven b (l % 64)))) &&
  (List.range 4).all (fun n =>
    let f := bits (x.routing b 0) (960 + 8 * n) 8
    !bit f 7 || bit f 6 || x.driven b (bits f 0 6))

/-- The reserved bits of the routing frames (R76, R89, R793). -/
def Tin.routeReservedOk (x : Tin) (b : Nat) : Bool :=
  bits (x.routing b 0) 992 32 == 0 && x.routing b 4 == 0 &&
    (if (blockBeside b).isSome then (List.range 64).all (fun n => bits (x.routing b 3) (16 * n + 8) 7 == 0)
     else x.routing b 2 == 0 && x.routing b 3 == 0)

/-! ### Pantries, mixers and their connections (R168, R181, R210, R215, R225–R227, R793) -/

/-- R181. -/
def pantryCtlOk (c : Nat) : Bool :=
  bits c 40 984 == 0 && bits c 6 14 == 0 && !bit c 3 && (pantryFifo c || pantryStaleCount c == 0) &&
    !(pantryFifo c && (pantryRo c false || pantryRo c true))

/-- The ports a mixer mode allows (R227 rule 5). -/
def mixAllowed : Nat → List Nat
  | 0 => [0, 2, 3, 4, 5, 6, 7, 8, 9, 10]
  | 1 => [0, 1, 2, 3, 4, 5, 6, 7, 8, 9]
  | 2 => [0, 1, 2, 3, 6, 7, 8, 9]
  | _ => [0, 6, 8]

/-- Rules 1–7 of R227 for a mixer's control frame. -/
def mixerCtlOk (c : Nat) : Bool :=
  bits c 32 992 == 0 &&
    (mixPorts c == 0 ||
      (mixOutW c ≤ 4 && mixShift c ≤ 55 && !(mixOutW c == 4 && mixShift c != 0) && !(mixMode c == 2 && !mixSum c) && mixerUses c 0 &&
        (List.range 11).all (fun i => !mixerUses c i || (mixAllowed (mixMode c)).contains i) && !(mixerUses c 9 && !mixSum c) &&
        !(mixMode c == 3 && (mixSum c || mixOutW c != 0 || mixUnsigned c || mixShift c != 0))))

/-- The width of a mixer's result ports (R210). -/
def mixOutBits (c : Nat) : Nat := if mixOutW c = 4 ∨ mixMode c = 3 then 59 else 27

/-- Whether input bit `n` of a block exists in its mode (R793, R227 rule 8). -/
def Tin.inBitOk (x : Tin) (k : Blk) (n : Nat) : Bool :=
  match k with
  | .pantry p =>
    let c := x.pantryCtl p
    let a := pantryGroup c false
    let b := pantryGroup c true
    (a.1 ≤ n && n < a.1 + a.2) || (!pantryFifo c && b.1 ≤ n && n < b.1 + b.2)
  | .mixer q => mixerGroups.any (fun g => g.1 ≤ n && n < g.1 + g.2.1 && mixerUses (x.mixerCtl q) g.2.2)

/-- Whether output bit `n` of a block exists in its mode. -/
def Tin.outBitOk (x : Tin) (k : Blk) (n : Nat) : Bool :=
  match k with
  | .pantry p =>
    let c := x.pantryCtl p
    let w := orgWidth (pantryOrg c)
    (!pantryFifo c && n ≤ w) || (73 ≤ n && n ≤ 73 + w) || (pantryFifo c && 146 ≤ n && n ≤ 148)
  | .mixer q =>
    let c := x.mixerCtl q
    let w := mixOutBits c
    (n < w && mixerUses c 8) || (59 ≤ n && n < 59 + w && mixerUses c 9) || (118 ≤ n && n < 142 && mixerUses c 10)

/-- The output bits that used entries of routing frame 3 tap, over the batches beside a block. -/
def Tin.tappedBits (x : Tin) (k : Blk) : List Nat :=
  (batchesBeside k).flatMap (fun b => (List.range 64).filterMap (fun n =>
    let t := bits (x.routing b 3) (16 * n) 16
    if bit t 15 then some (bits t 0 8) else none))

/-- The entries that join batches to a block (R793), and every bit of a mixer's used input ports named (R227 rule 8). -/
def Tin.blockOk (x : Tin) (k : Blk) : Bool :=
  let ins := (x.blockInputs k).map (·.1)
  let outs := x.tappedBits k
  ins.all (fun n => x.inBitOk k n) && outs.all (fun n => x.outBitOk k n) && decide ins.Nodup && decide outs.Nodup &&
    (match k with
     | .mixer q => mixerGroups.all (fun g => !mixerUses (x.mixerCtl q) g.2.2 || (List.range g.2.1).all (fun i => ins.contains (g.1 + i)))
     | .pantry _ => true)

/-- An incoming line that routing frame 3 taps has no other driver (R793). -/
def Tin.tapsOk (x : Tin) (b : Nat) : Bool :=
  (blockBeside b).isNone || (List.range 64).all (fun n =>
    !bit (bits (x.routing b 3) (16 * n) 16) 15 ||
      (match perimeter b (n / 16) with
       | some q => !(n % 16 < 10 && n % 16 < x.portWidth (2 * q))
       | none => match stepTo b (n / 16) (trackLen (n % 16)) with
         | some b' => !bit (x.driver b' (16 * ((n / 16 + 2) % 4) + n % 16)) 15
         | none => true))

/-! ### A whole tin -/

/-- R80. -/
def portDescOk (f : Nat) : Bool := bits f 6 26 == 0 && bits f 4 2 != 3 && bits f 0 4 ≤ 10

/-- R87: the tin control frame. -/
def tinCtlOk (f : Nat) : Bool := 2 ≤ bits f 0 4 && bits f 0 4 ≤ 11 && bits f 5 1019 == 0

/-- R280: the NoC crust port control frame. -/
def nocCtlOk (f : Nat) : Bool := 1 ≤ bits f 0 20 && bits f 0 20 ≤ 1000000 && bits f 20 2 == 0 && bits f 23 1001 == 0

/-- The batches that some logic or routing frame names. -/
def Tin.usedBatches (x : Tin) : List Nat :=
  (x.batches ++ (x.frames.filter (fun (e : Nat × Frame) => 0x5800 ≤ e.1 && e.1 < 0x8000)).map
    (fun (e : Nat × Frame) => (e.1 - 0x5800) / 5)).eraseDups

/-- Every commit check on the frames of one tin. -/
def Tin.legal (x : Tin) : Bool :=
  x.usedBatches.all (fun b =>
    (List.range 16).all (fun c => crumbOk (x.crumb b c)) && x.chainOk b && x.routeReservedOk b && (List.range 64).all (fun e => x.endpointOk b e) &&
      x.inputsOk b && x.tapsOk b) &&
  (List.range 384).all (fun p => portDescOk (x.portDesc p)) && tinCtlOk (x.frame 0x9BEC) && nocCtlOk (x.frame 0x9BED) &&
  x.frames.all (fun e => e.1 < 0x9BEE) && (List.range 96).all (fun p => pantryCtlOk (x.pantryCtl p)) &&
  (List.range 64).all (fun q => mixerCtlOk (x.mixerCtl q) && bits (x.frame (0x9B60 + 2 * q + 1)) 192 832 == 0) &&
  (List.range 96).all (fun p => x.blockOk (.pantry p)) && (List.range 64).all (fun q => x.blockOk (.mixer q))

/-! ### Release and wipe (R65, R80, R182, R183, R228) -/

/-- A tin released: every hold in its `hold_init` state, pantries with their content frames, mixers as released, ports in their
descriptor modes. -/
def Tin.release (x : Tin) : Tin :=
  { x with
      holds := x.initHolds
      ports := x.usedPorts.foldl (fun t p => Tab.put .blank t p { Port.blank with mode := x.portInitMode p }) []
      pantries := (List.range 96).foldl (fun t p => Tab.put .blank t p (x.releasedPantry p)) []
      mixers := [], faults := [], nocGate := [], nocIn := [], reads := [], seq := 0
      released := true, frozen := false, stopped := false, restart := false, design := none, partialImg := false, designRing := [] }

/-- The blank pattern: every frame zero, nothing running; what the tin knows of its own hardware stays. -/
def Tin.wipe (x : Tin) : Tin :=
  { Tin.blank with
      pantries := Tab.mapVals .blank (fun v => { Pantry.blank with
        remap := v.remap, spareUsed := v.spareUsed, noSpare := v.noSpare, hardFailed := v.hardFailed, unusable := v.unusable }) x.pantries
      drain := x.drain, goodWindows := x.goodWindows, skipped := x.skipped, dueOrder := x.dueOrder, returnedFor := x.returnedFor,
      unhealthy := x.unhealthy, fuseBase := x.fuseBase }

end Sys2Proof.Machine
end

