-- ==== Sys2Proof/Machine/Roles.lean ====
section
/-! DEFINITION. Operations on roles that images, the spare manager, resets and power states share: epochs, wiping and releasing tins,
crust-ring connections of a role, kept copies. -/

namespace Sys2Proof.Machine

/-! ### Epochs (R590) -/

/-- The next epoch of die `d`: the counter goes on, 0 is never used. -/
def State.nextEpoch (s : State) (d : Nat) : State :=
  let e := (s.fget (SPR_EPOCH.epoch d) + 1) % 2 ^ 16
  s.fset (SPR_EPOCH.epoch d) (if e = 0 then 1 else e)

/-- Physical tin `t` (of die `d`, holding role `r`) takes the die's present epoch: what its crust waited for under the old one is
forgotten, so those responses are late when they come (R289). -/
def State.takeEpoch (s : State) (t : Nat) : State :=
  let node := roleNode (t / 13) (s.roleOf t)
  let s1 := s.fset (TIN_STAT.epoch t) (s.fget (SPR_EPOCH.epoch (t / 13)))
  { s1 with noc := { s1.noc with out := s1.noc.out.filter (fun o => o.src != node), quar := s1.noc.quar.filter (fun o => o.src != node) } }

/-- Role `r` of die `d` takes a new epoch. -/
def State.newEpoch (s : State) (d r : Nat) : State := (s.nextEpoch d).takeEpoch (s.tinOf d r)

/-! ### Wiping, loading and releasing tins (R65, R552, R555, R589) -/

/-- The tin's state code set. -/
def State.setTinState (s : State) (t st : Nat) : State := s.fset (TIN_STAT.state t) st

/-- Every frame of tin `t` blank, nothing of its design left. -/
def State.wipeTin (s : State) (t : Nat) : State := s.setTin t (s.tin t).wipe

/-- Tin `t` loaded with the frames of a kept copy, unreleased with every crust port in STALL. -/
def State.loadCopy (s : State) (t : Nat) (c : KeptCopy) : State := s.setTin t { (s.tin t).wipe with frames := c.frames }

/-- Tin `t` released: every hold in its `hold_init` state, its ports in their descriptor modes, its hot-frame record empty. -/
def State.releaseTin (s : State) (t : Nat) : State :=
  s.setTin t { (s.tin t).release with hot := [] }.settle

/-- Every crust port of a tin takes mode `m`, at once where the port stands at its token boundary or the tin does not run, else at its
next boundary (R82). -/
def Tin.allPorts (x : Tin) (m : PortMode) : Tin :=
  (List.range 384).foldl (fun y p =>
    let v := y.port p
    if v.mode = m then y.setPort p { v with want := none }
    else if !y.running || y.atBoundary p then y.setPort p { v with mode := m, want := none }
    else y.setPort p { v with want := some m }) x

/-- Whether no port of the tin still waits for a change of mode. -/
def Tin.portsSettled (x : Tin) : Bool := x.ports.all (fun e => e.2.want.isNone)

/-! ### Crust-ring connections of a role (R84, R85, R546) -/

/-- Whether endpoint `e` is a crust port of role `r`. -/
def epOfRole (r e : Nat) : Bool := epKind e == 0 && epRole e == r && e < 0x2000

/-- Whether the connection (from, to) names a crust port of role `r`. -/
def entryOfRole (r : Nat) (x : Nat × Nat × Nat) : Bool := epOfRole r x.1 || epOfRole r x.2.1

/-- Whether the entry names a crust port at all. -/
def entryCrust (x : Nat × Nat × Nat) : Bool := epKind x.1 == 0 || epKind x.2.1 == 0

/-- The connections of die `d` as entries (from, to, peer_loss). -/
def State.entriesOf (s : State) (d : Nat) : List (Nat × Nat × Nat) :=
  (s.ring.filter (fun c => c.1 / 65536 == d)).map (fun c => (c.1 % 65536, c.2.dst, c.2.peerLoss))

/-- The connections of role `r` of die `d`. -/
def State.roleEntries (s : State) (d r : Nat) : List (Nat × Nat × Nat) := (s.entriesOf d).filter (entryOfRole r)

/-- Connections put on die `d`, each with its channel armed. -/
def State.addEntries (s : State) (d : Nat) (l : List (Nat × Nat × Nat)) : State :=
  l.foldl (fun a x => a.setConn d x.1 ⟨x.2.1, x.2.2, .armed⟩) s

/-- The connections of role `r` of die `d` taken away. -/
def State.dropEntries (s : State) (d r : Nat) : State :=
  (s.roleEntries d r).foldl (fun a x => a.setConn d x.1 .none) s

/-- The connections of role `r` replaced. -/
def State.replaceEntries (s : State) (d r : Nat) (l : List (Nat × Nat × Nat)) : State := (s.dropEntries d r).addEntries d l

/-- Whether an endpoint lies on a folded seam channel (R154). -/
def State.epFolded (s : State) (d e : Nat) : Bool :=
  (epKind e == 1 || epKind e == 2) && (s.seamChan (epSeam d e) (epChan e)).partner.isSome

/-- Whether some connection of the list lies on a folded seam channel. -/
def State.anyFolded (s : State) (d : Nat) (l : List (Nat × Nat × Nat)) : Bool := l.any (fun x => s.epFolded d x.1 || s.epFolded d x.2.1)

/-! ### Kept copies (R561) -/

def State.keptOf (s : State) (d r : Nat) : Option KeptCopy := Tab.get none s.kept (13 * d + r)

def KeptCopy.size (c : KeptCopy) : Nat := Config.copySize c.frames c.ring

/-- The bytes of the IMAGE region that copies take. -/
def State.copyBytes (s : State) : Nat :=
  ((s.dieCopy.map (fun e => match e.2 with | some l => Config.copySize [] l | none => 0)).sum) +
    ((s.kept.map (fun e => match e.2 with | some c => c.size | none => 0)).sum) +
    ((s.spr.waitCopy.map (fun e => match e.2 with | some c => c.size | none => 0)).sum)

def State.copyRoom (s : State) : Nat := s.fget LRD_LAYOUT.image_mib * 0x100000 - s.copyBytes

/-- A role kept without its copy is reported; the offset of the load is `off`. -/
def State.copyNoRoom (s : State) (d unit off : Nat) : State := s.post 0x0A05 2 (some d) unit stDone (off % 2 ^ 32)

/-- The kept copy of role `r` of die `d` replaced, if the new one fits. -/
def State.keepCopy (s : State) (d r off : Nat) (c : KeptCopy) : State :=
  let s0 := { s with kept := Tab.put none s.kept (13 * d + r) none }
  if c.size ≤ s0.copyRoom then { s0 with kept := Tab.put none s0.kept (13 * d + r) (some c) }
  else s0.copyNoRoom d (tinUnit r (s.localTin d r)) off

/-- The die copy of die `d`: its connections that name no crust port. -/
def State.keepDie (s : State) (d off : Nat) (l : List (Nat × Nat × Nat)) : State :=
  if l.isEmpty then s
  else if Config.copySize [] l ≤ s.copyRoom then { s with dieCopy := Tab.put none s.dieCopy d (some l) }
  else s.copyNoRoom d 0 off

/-- A role whose tin is RETIRED is lost, and so is one of a die that is LOST (R569, R681). -/
def State.roleLost (s : State) (d r : Nat) : Bool := s.tinState (s.tinOf d r) == tsRetired || s.fget (DIE_STAT.state d) == 5

/-- An operation of the spare manager is under way on the role. -/
def State.roleOp (s : State) (d r : Nat) : Option SprOp := s.spr.ops.find? (fun o => o.die == d && o.role == r)

/-- The golden address: the breadbox value when it is valid, else the fused one (R555). -/
def State.goldenAddr (s : State) : Nat :=
  let b := leVal (readBytes 0 s.breadbox 0x2000 8)
  if b ≠ 0 then b else s.fuses.golden

end Sys2Proof.Machine
end

