-- ==== Sys2Proof/Machine/Cfg.lean ====
section
/-! DEFINITION. Configuration images (chapter 14): the sources, the checks of a container in their order, staging, commit, fallback and
kept copies. -/

namespace Sys2Proof.Machine

/-! ### The container (R541–R547) -/

/-- The two magics, as little-endian numbers: "BLVTYRV8" and "BLVEND08". -/
def hdrMagic : Nat := 0x3856525954564C42
def endMagic : Nat := 0x3830444E45564C42

def hdrKind (h : List Byte) : Nat := leAt h 0x0A 2
def hdrPartial (h : List Byte) : Bool := hdrKind h == 2
def hdrKeySrc (h : List Byte) : Nat := leAt h 0x11 1
def hdrFlag (h : List Byte) (i : Nat) : Bool := bit (leAt h 0x12 2) i
def hdrLength (h : List Byte) : Nat := leAt h 0x20 8
def hdrDie (h : List Byte) : Nat := leAt h 0x104 1
def hdrRole (h : List Byte) : Nat := leAt h 0x105 1
def hdrInPlace (h : List Byte) : Bool := leAt h 0x106 1 == 1
def hdrHold (h : List Byte) : PortMode := if leAt h 0x107 1 = 2 then .drain else .stall

/-- The first failing check of a list of (failure, status, offset). -/
def firstBad (l : List (Bool × Nat × Nat)) : Option (Nat × Nat) := (l.find? (·.1)).map (·.2)

/-- Steps 1 and 2 of R548. -/
def hdrStop12 (h : List Byte) : Option (Nat × Nat) :=
  firstBad [(leAt h 0 8 != hdrMagic, stImageCorrupt, 0), (leAt h 8 2 != 1, stImageCorrupt, 8),
    (hdrKind h != 1 && hdrKind h != 2, stImageCorrupt, 0x0A), (leAt h 0x0C 4 != 0x54580896, stImageWrongDevice, 0x0C)]

/-- Step 3 of R548: the length, the reserved bytes and the fields of a partial image. -/
def hdrStop3 (h : List Byte) : Option (Nat × Nat) :=
  let p := hdrPartial h
  let n := hdrLength h
  firstBad [(leAt h 0x12 2 / 8 != 0, stImageCorrupt, 0x12), (leAt h 0x19 7 != 0, stImageCorrupt, 0x19),
    (n % 32 != 0 || n < 4256 || 0x40000000 < n, stImageCorrupt, 0x20), (hdrKeySrc h == 0 && leAt h 0x30 12 != 0, stImageCorrupt, 0x30),
    (leAt h 0x3C 4 != 0, stImageCorrupt, 0x3C), (hdrKeySrc h != 2 && leAt h 0x70 40 != 0, stImageCorrupt, 0x70),
    (leAt h 0x98 8 != 0, stImageCorrupt, 0x98), (leAt h 0x100 4 == 0 || 65535 < leAt h 0x100 4, stImageCorrupt, 0x100),
    ((if p then 7 < hdrDie h else hdrDie h ≠ 0), stImageCorrupt, 0x104), ((if p then 11 < hdrRole h else hdrRole h ≠ 0), stImageCorrupt, 0x105),
    ((if p then 1 < leAt h 0x106 1 else leAt h 0x106 1 ≠ 0), stImageCorrupt, 0x106),
    ((if p ∧ hdrInPlace h = true then leAt h 0x107 1 ≠ 1 ∧ leAt h 0x107 1 ≠ 2 else leAt h 0x107 1 ≠ 0), stImageCorrupt, 0x107),
    (leAt h 0x108 760 != 0, stImageCorrupt, 0x108), (leAt h 0x460 2976 != 0, stImageCorrupt, 0x460)]

/-- Steps 4–7 of R548: `key` is the slot whose hash the public key has, `sigOk` whether the signature verifies. -/
def State.hdrStop47 (s : State) (h : List Byte) (key : Option (Fin 4)) (sigOk : Bool) : Option (Nat × Nat) :=
  let lc := s.lifecycle
  let usable := if hdrKeySrc h = 0 then lc != 2 else if hdrKeySrc h ≤ 2 then lc != 3 else false
  firstBad [(!s.keyOk 0 key, stImageAuthFail, 0xA0), (!sigOk, stImageAuthFail, 0x400), (decide (lc < leAt h 0x10 1), stImageAuthFail, 0x10),
    (!usable, stImageAuthFail, 0x11), (decide (leAt h 0x18 1 < s.fuses.arv), stImageRollback, 0x18)]

/-- The role's own tin can be taken out of service (R539). -/
def State.canTakeOut (s : State) (d r : Nat) : Bool :=
  let st := s.tinState (s.tinOf d r)
  (st == tsInService || st == tsStopped) && (s.roleOp d r).isNone

/-- Step 8 of R548 (R539), and the state of the spare tin a partial image needs (R558): status, detail. -/
def State.hdrStop8 (s : State) (h : List Byte) : Option (Nat × Nat) :=
  let dev := s.fget HQE_STAT.dev_state
  let d := hdrDie h
  if !hdrPartial h then (if dev = 3 then some (stWrongState, 1) else none)
  else if dev ≠ 3 then some (stWrongState, 2)
  else if hdrInPlace h then (if s.canTakeOut d (hdrRole h) then none else some (stWrongState, 3))
  else
    let st := s.tinState (s.tinOf d 12)
    let restarting := s.spr.ops.any (fun o => o.die == d && o.kind == .restart)
    if st = tsRetired then some (stNoSpare, 0)
    else if st = tsTesting ∨ ((st = tsLoading ∨ st = tsLoaded) ∧ restarting = true) then some (stBusy, 0)
    else if st = tsSpare then none
    else some (stNoSpare, 0)

/-! ### The start of a load (R528, R531, R536, R540) -/

def Load.start (src q : Nat) (bytes : List Byte) (prior : Nat) : Load :=
  ⟨src, q, bytes, bytes.length, 0, [], 0, 0, [], [], none, [], [], prior, false, false, false, (0, 0, 0)⟩

def State.setLoad (s : State) (l : Option Load) : State :=
  { (s.fset CFG_STAT.loading (b2n l.isSome)) with cfg := { s.cfg with load := l } }

/-- A load begins; a slave-port session or host chain releases `CFG_ERR_N`. -/
def State.beginLoad (s : State) (src q : Nat) (bytes : List Byte) : State :=
  let s1 := (s.fset CFG_STAT.source src).setLoad (some (Load.start src q bytes (s.fget HQE_STAT.dev_state)))
  if src = 3 then s1 else { s1 with cfg := { s1.cfg with errN := true } }

/-- The device state of R433 changes; `CFG_DONE` follows it (R530). -/
def State.setDev (s : State) (n : Nat) : State := (s.fset HQE_STAT.dev_state n).fset CFG_STAT.dev_state n

/-- The header of the load as far as it has come. -/
def Load.head (l : Load) : List Byte := if l.hdr.isEmpty then l.inbox.take 4096 else l.hdr

/-- The declared length, when the header has come far enough to give it. -/
def Load.length (l : Load) : Option Nat := if 40 ≤ l.head.length then some (hdrLength l.head) else none

/-- Whether the source may still have to deliver bytes of the container. -/
def Load.short (l : Load) : Bool := l.stage ≤ 1 && (match l.length with | some n => decide (l.got < n) || decide (l.got < 4096) | none => true)

/-- The clocked units of CFG run: images are accepted (R529) and the block has power (R637). -/
def State.cfgOn (s : State) : Bool := s.cfg.ready && decide (s.fget PTM_PSTATE.state ≤ 2) && !s.halted

/-- The 32-byte status word (R532). -/
def State.statusWord (s : State) : List Byte :=
  let off := s.fget (CFG_OFFSET.offset 0) + s.fget (CFG_OFFSET.offset 1) * 2 ^ 32
  let got := match s.cfg.load with | some l => if l.stage < 3 then l.got else off | none => off
  leBytes 1 (s.fget CFG_STAT.last_status) ++
    leBytes 1 (s.fget HQE_STAT.dev_state + b2n s.cfg.load.isSome * 8 + s.fget CFG_STAT.fallback_req * 16 + s.fget CFG_STAT.golden_tried * 32) ++
    leBytes 2 0 ++ leBytes 8 got ++ leBytes 4 0 ++ leBytes 8 s.goldenAddr ++ leBytes 8 0

/-- `PUSH`: a session of the slave port the strap selects; `bytes` is the container as far as the session brings it. -/
def execPush (par : Bool) (bytes : List Byte) (s : State) : Out :=
  if !s.cfgOn || s.fget CFG_STAT.cfg_mode != b2n par then .next s
  else if s.cfg.load.isSome || s.cfg.chainEnd.isSome then .next { s with answer := some ⟨stBusy, [], false⟩ }
  else .next (s.beginLoad (b2n par) 0 bytes)

/-- `STAT` (R532). -/
def execStat (s : State) : Out :=
  if !s.cfgOn || decide (2 ≤ s.fget CFG_STAT.cfg_mode) then .next s else .next { s with answer := some ⟨stDone, s.statusWord, false⟩ }

/-- `CFG_LOAD` (R540, R725, R728): container bytes shifted in through the TAP. -/
def execCfgLoad (bytes : List Byte) (s : State) : Out :=
  if !s.mayExtest then .next s.bypassIr
  else if !s.cfgOn then .next (s.selectIr 0x14 stBusy s.statusWord)
  else
    match s.cfg.load with
    | none =>
      if s.cfg.chainEnd.isSome then .next (s.selectIr 0x14 stBusy s.statusWord)
      else .next ((s.beginLoad 3 0 bytes).selectIr 0x14 stDone s.statusWord)
    | some l =>
      if l.src = 3 ∧ l.stage < 3 then
        .next ((s.setLoad (some { l with inbox := l.inbox ++ bytes, got := l.got + bytes.length })).selectIr 0x14 stDone s.statusWord)
      else .next (s.selectIr 0x14 stBusy s.statusWord)

/-! ### Outcomes (R533, R538, R554–R557, R560) -/

/-- The outcome reaches the status word, the pin, and the last descriptor of a host chain. -/
def State.loadOutcome (s : State) (l : Load) (st detail off : Nat) : State :=
  let s1 := (((s.fset CFG_STAT.last_status st).fset (CFG_OFFSET.offset 0) (off % 2 ^ 32)).fset (CFG_OFFSET.offset 1) (off / 2 ^ 32)).setLoad none
  let s2 := { s1 with cfg := { s1.cfg with errN := stOk st } }
  if l.src ≠ 2 then s2
  else if (s2.waiter .image).isSome then s2.finishWait .image st detail off
  else if (s2.queue l.queue).chain then { s2 with cfg := { s2.cfg with chainEnd := some (l.queue, st, detail, off) } }
  else s2

/-- A partial load's target tin. -/
def State.partialTin (s : State) (h : List Byte) : Nat := s.tinOf (hdrDie h) (if hdrInPlace h then hdrRole h else 12)

/-- A failed partial load wipes its target and nothing else (R560). -/
def State.dropPartial (s : State) (h : List Byte) : State :=
  let t := s.partialTin h
  if hdrInPlace h then
    ((s.setTin t ((s.tin t).wipe.allPorts (hdrHold h))).setTinState t tsInService)
  else (s.wipeTin t).setTinState t tsSpare

/-- A load fails (R548, R554, R556, R560). -/
def State.loadFail (s : State) (l : Load) (st detail off : Nat) : State :=
  let h := l.head
  let s1 := s.post 0x0A01 0 none 0 st (off % 2 ^ 32)
  if hdrKind h = 2 then
    (if l.hdr.isEmpty then s1 else s1.dropPartial h).loadOutcome l st detail off
  else if st = stImageWrongDevice ∨ st = stWrongState ∨ (l.prior = 2 ∧ l.golden = false) then s1.loadOutcome l st detail off
  else s1.setLoad (some { l with stage := 3, fail := (st, detail, off) })

/-- The device enters SAFE_SHELL (R557). -/
def State.enterSafeShell (s : State) : State :=
  let s1 := s.fset CFG_STAT.fallback_req 0
  if s1.fget HQE_STAT.dev_state = 4 then s1
  else { (s1.setDev 4) with cfg := { s1.cfg with errN := false } }.post 0x0A03 4 none 0 (s.fget CFG_STAT.last_status) (s.fget (CFG_OFFSET.offset 0))

/-- The whole fabric wiped to the blank pattern, with the connections and copies of the design it held (R555). -/
def State.wipeFabric (s : State) : State :=
  let s1 := (List.range 104).foldl (fun a t =>
    let b := if a.tin t = Tin.blank then a else a.wipeTin t
    if b.tinState t = tsStopped ∨ b.tinState t = tsFrozen then b.setTinState t tsInService
    else if b.tinState t = tsLoading ∨ b.tinState t = tsLoaded then b.setTinState t (if b.roleOf t = 12 then tsSpare else tsInService) else b) s
  { s1 with ring := [], kept := [], dieCopy := [], spr := { s1.spr with ops := [], retry := [], waitCopy := [] } }

/-- `FABRIC_WIPE_DONE` (R555–R557). -/
def execFabricWipeDone (s : State) : Out :=
  match s.cfg.load with
  | none => .next s
  | some l =>
    if l.stage ≠ 3 ∨ s.halted then .next s
    else
      let (st, detail, off) := l.fail
      let s0 := s.clearOut
      let s1 := s0.wipeFabric.loadOutcome l st detail off
      let g := s1.goldenAddr
      if l.golden ∨ l.prior = 4 ∨ g = 0 then
        .next (if l.prior = 4 then (s1.setDev 4).fset CFG_STAT.fallback_req 0 else s1.enterSafeShell)
      else
        .next ((((s1.setDev 2).fset CFG_STAT.fallback_req 1).fset CFG_STAT.golden_tried 0).post 0x0A02 0 none 0 (g % 2 ^ 32) (g / 2 ^ 32 % 2 ^ 32))

/-- `FALLBACK_TIMEOUT` (R556). -/
def execFallbackTimeout (s : State) : Out :=
  if s.fget HQE_STAT.dev_state = 2 && !s.fbit CFG_STAT.golden_tried && s.cfg.load.isNone && !s.halted then .next s.enterSafeShell else .next s

/-- An early end (R554): the header bytes that came are judged as far as steps 1 and 2 need them. -/
def State.earlyEnd (s : State) : State :=
  match s.cfg.load with
  | none => s
  | some l =>
    if !l.short || s.halted then s
    else
      match (if l.stage = 0 ∧ 16 ≤ l.inbox.length then hdrStop12 l.inbox else none) with
      | some (st, off) => s.clearOut.loadFail l st 0 off
      | none => s.clearOut.loadFail l stImageIncomplete 0 l.got

/-- `EARLY_END`: the session, the chain or the TAP instruction ends before `length` bytes.  A host chain ends with its last piece. -/
def execEarlyEnd (s : State) : Out :=
  match s.cfg.load with
  | some l => if l.src = 2 && !l.ended then .next s else .next s.earlyEnd
  | none => .next s

/-- `CFG_IDLE_TIMEOUT` (R554). -/
def execCfgIdleTimeout (s : State) : Out :=
  match s.cfg.load with
  | some l => if l.src = 3 then .next s else .next s.earlyEnd
  | none => .next s

/-! ### The header and the segments (R548–R552) -/

/-- What passing the header starts: a full image puts the device in LOADING, a partial one takes its target out of service (R533, R558,
R559). -/
def State.beginBody (s : State) (l : Load) (h : List Byte) : State :=
  let l1 := { l with hdr := h, inbox := l.inbox.drop 4096, used := 4096, segs := leAt h 0x100 4, stage := 1 }
  if hdrPartial h then
    let t := s.partialTin h
    let s1 := if hdrInPlace h then s.setTin t ((s.tin t).allPorts (hdrHold h)) else s.wipeTin t
    (s1.setTinState t tsLoading).setLoad (some l1)
  else (s.setDev 1).setLoad (some l1)

/-- `HEADER_AUTHENTICATED` (R533, R548): the checks of the header, in their order. -/
def execHeaderAuthenticated (key : Option (Fin 4)) (sigOk : Bool) (s : State) : Out :=
  match s.cfg.load with
  | none => .next s
  | some l =>
    if l.stage ≠ 0 ∨ s.halted ∨ l.inbox.length < 16 then .next s
    else
      let s0 := s.clearOut
      let h := l.inbox.take 4096
      match hdrStop12 h with
      | some (st, off) => .next (s0.loadFail l st 0 off)
      | none =>
        if h.length < 4096 then .next s
        else
          match hdrStop3 h with
          | some (st, off) => .next (s0.loadFail l st 0 off)
          | none =>
            let gold := l.prior == 2 && !hdrPartial h
            let l1 := { l with golden := gold }
            let s1 := if gold then s0.fset CFG_STAT.golden_tried 1 else s0
            match s1.hdrStop47 h key sigOk with
            | some (st, off) => .next (s1.loadFail l1 st 0 off)
            | none =>
              match s1.hdrStop8 h with
              | some (st, detail) => .next (s1.loadFail l1 st detail (if hdrPartial h then 0x106 else 0x0A))
              | none => .next (s1.beginBody l1 h)

/-- The run decoding of R545 over 4-byte words; `room` is the most bytes the payload may still give. -/
def unrun : Nat → Nat → List Byte → Option (List Byte)
  | 0, _, l => if l.isEmpty then some [] else none
  | k + 1, room, l =>
    if l.isEmpty then some []
    else if l.length < 8 then none
    else
      let c := leAt l 0 4
      let n := c % 2 ^ 31
      if n = 0 ∨ room < 4 * n then none
      else if bit c 31 then (unrun k (room - 4 * n) (l.drop 8)).map (fun r => (List.replicate n (l.drop 4 |>.take 4)).flatten ++ r)
      else if l.length < 4 + 4 * n then none
      else (unrun k (room - 4 * n) (l.drop (4 + 4 * n))).map (fun r => (l.drop 4).take (4 * n) ++ r)

def segEntry (type : Nat) : Nat := match type with | 1 => 128 | 3 => 4 | _ => 8

/-- The fields of a segment header that do not depend on its payload (R543, R550). -/
def segFieldsOk (h : List Byte) (l : Load) (x : List Byte) : Bool :=
  let type := leAt x 0 2
  let die := leAt x 2 1
  let role := leAt x 3 1
  let first := leAt x 4 4
  let count := leAt x 8 4
  let p := hdrPartial h
  (leAt x 0xC 1 < 2 && leAt x 0xD 3 == 0 && leAt x 0x14 12 == 0) &&
  (match type with
   | 1 => die < 8 && role < 12 && first + count ≤ 40960 && (!p || (die == hdrDie h && role == hdrRole h)) &&
          !l.given.any (fun g => g.1 == 13 * die + role && first < g.2.1 + g.2.2 && g.2.1 < first + count)
   | 2 => !p && die == 0 && role == 0 && first == 0 && count == 96 && l.eq.isNone
   | 3 => !p && die < 8 && role == 0 && first == 0 && count ≤ 2048 && !l.folds.any (fun f => f.1 == die)
   | 4 => die < 8 && role == 0 && first == 0 && (!p || die == hdrDie h)
   | _ => false) &&
  (if leAt x 0xC 1 = 1 then leAt x 0x10 4 % 4 == 0 else leAt x 0x10 4 == count * segEntry type)

/-- The payload of a segment: exactly `count` entries, or none. -/
def segData (x : List Byte) : Option (List Byte) :=
  let n := leAt x 8 4 * segEntry (leAt x 0 2)
  let raw := (x.drop 32).take (leAt x 0x10 4)
  if leAt x 0xC 1 = 1 then
    match unrun (raw.length + 1) n raw with
    | some d => if d.length = n then some d else none
    | none => none
  else some raw

/-- A ring entry of a payload (R546): from, to and the upper half. -/
def ringWord (w : Nat) : Nat × Nat × Nat := (bits w 0 16, bits w 16 16, bits w 32 32)

/-- Frames of a segment written into a tin. -/
def Tin.writeFrames (x : Tin) (first : Nat) (d : List Byte) : Tin :=
  { x with frames := (List.range (d.length / 128)).foldl (fun t i => Tab.put 0 t (first + i) (BitVec.ofNat 1024 (leAt d (128 * i) 128))) x.frames }

/-- A segment's payload taken (R548 step 9, R552): none when a channel is given twice. -/
def State.takeSegment (s : State) (l : Load) (x d : List Byte) : Option (State × Load) :=
  let h := l.hdr
  let die := leAt x 2 1
  let role := leAt x 3 1
  let first := leAt x 4 4
  let words := fun n => (List.range (d.length / n)).map (fun i => leAt d (n * i) n)
  match leAt x 0 2 with
  | 1 =>
    let r := 13 * die + role
    let l1 := { l with roles := (if l.roles.contains r then l.roles else l.roles ++ [r]), given := l.given ++ [(r, first, leAt x 8 4)] }
    if hdrPartial h then
      let t := s.partialTin h
      let t0 := if hdrInPlace h ∧ l.roles = [] then (s.tin t).wipe.allPorts (hdrHold h) else s.tin t
      some (s.setTin t (t0.writeFrames first d), l1)
    else if s.roleLost die role then some (s, { l1 with lost := true })
    else some (s.setTin (s.tinOf die role) ((s.tin (s.tinOf die role)).writeFrames first d), l1)
  | 2 => some (s, { l with eq := some (words 8) })
  | 3 => some (s, { l with folds := l.folds ++ [(die, words 4)] })
  | _ =>
    let es := (words 8).map ringWord
    let chan := fun e => 0x2000 ≤ e
    let old := l.ring.filter (fun e => e.1 == die)
    let froms := (old.map (fun e => e.2.1) ++ es.map (·.1)).filter chan
    let tos := (old.map (fun e => e.2.2.1) ++ es.map (·.2.1)).filter chan
    if froms.Nodup ∧ tos.Nodup then some (s, { l with ring := l.ring ++ es.map (fun e => (die, e.1, e.2.1, e.2.2)) }) else none

/-- `IMAGE_SEGMENT`: the next segment of the body; `plain` is its plaintext when the body is encrypted. -/
def execImageSegment (plain : List Byte) (s : State) : Out :=
  match s.cfg.load with
  | none => .next s
  | some l =>
    let h := l.hdr
    let x := if hdrKeySrc h = 0 then l.inbox else plain
    let bodyEnd := hdrLength h - 128
    let size := 32 + (leAt x 0x10 4 + 31) / 32 * 32
    let s0 := s.clearOut
    if l.stage ≠ 1 ∨ l.segs = 0 ∨ s.halted then .next s
    else if hdrPartial h && hdrInPlace h && !(s.tin (s.partialTin h)).portsSettled then .next s
    else if bodyEnd < l.used + 32 then .next (s0.loadFail l stImageCorrupt 0 l.used)
    else if x.length < 32 ∨ l.inbox.length < 32 then .next s
    else if bodyEnd < l.used + size ∨ !segFieldsOk h l x then .next (s0.loadFail l stImageCorrupt 0 l.used)
    else if x.length < size ∨ l.inbox.length < size then .next s
    else if leAt x 0 2 = 1 ∧ s.dieAway (leAt x 2 1) ∧ s.fget (DIE_STAT.state (leAt x 2 1)) ≠ 5 then .next (s0.loadFail l stAborted 0 l.used)
    else if ((x.drop (32 + leAt x 0x10 4)).take (size - 32 - leAt x 0x10 4)).any (· != 0) then .next (s0.loadFail l stImageCorrupt 0 l.used)
    else
      match (segData x).bind (s0.takeSegment l x) with
      | none => .next (s0.loadFail l stImageCorrupt 0 l.used)
      | some (s1, l1) => .next (s1.setLoad (some { l1 with inbox := l.inbox.drop size, used := l.used + size, segs := l.segs - 1 }))

/-- `END_MARKER` (R547, R548 steps 10 and 11): whether the body's hash is the one both fields give, and whether the GCM tag verifies. -/
def execEndMarker (hashOk tagOk : Bool) (s : State) : Out :=
  match s.cfg.load with
  | none => .next s
  | some l =>
    let h := l.hdr
    let m := l.inbox
    let s0 := s.clearOut
    if l.stage ≠ 1 ∨ l.segs ≠ 0 ∨ s.halted then .next s
    else if l.used ≠ hdrLength h - 128 then .next (s0.loadFail l stImageCorrupt 0 l.used)
    else if m.length < 128 then .next s
    else
      match firstBad [(leAt m 0 8 != endMagic, stImageCorrupt, 0), (leAt m 8 8 != hdrLength h - 4224, stImageCorrupt, 8),
          (leAt m 0x10 48 != leAt h 0x40 48 || !hashOk, stImageCorrupt, 0x10), (leAt m 0x50 48 != 0, stImageCorrupt, 0x50),
          ((if hdrKeySrc h = 0 then leAt m 0x40 16 ≠ 0 else tagOk = false), stImageAuthFail, 0x40)] with
      | some (st, off) => .next (s0.loadFail l st 0 (l.used + off))
      | none => .next (s.setLoad (some { l with stage := 2, inbox := [], used := hdrLength h }))

/-! ### Commit checks (R146, R459, R546, R551) -/

/-- An endpoint with a defined kind and legal bits (R546). -/
def epOk (e : Nat) : Bool :=
  match epKind e with
  | 0 => epRole e < 12 && epPort e < 384
  | 1 | 2 => bits e 12 1 == 0
  | 3 => e % 0x2000 < 192
  | _ => false

/-- Whether the endpoint delivers tokens to the crust ring of its die, or takes them from it (R84). -/
def epGives (e : Nat) : Bool :=
  match epKind e with
  | 0 => epPort e % 2 == 1
  | 1 => 2048 ≤ epChan e
  | 2 => epChan e < 2048
  | _ => true

def epTakes (e : Nat) : Bool := epKind e == 3 || !epGives e

def epSeamKind (e : Nat) : Bool := epKind e == 1 || epKind e == 2

/-- One ring entry (R84, R155, R546). -/
def ringEntryOk (f t u : Nat) : Bool :=
  epOk f && epOk t && epGives f && epTakes t && u < 2 && (u == 0 || epSeamKind f || epSeamKind t) &&
  (match epKind f, epKind t with
   | 0, 0 => epRole f != epRole t
   | 1, 1 => false
   | 2, 2 => false
   | 3, 3 => false
   | _, _ => true)

/-- The ring entries of an image (R551): `have_` are the roles of the die that hold or get a design. -/
def ringOk (l : List (Nat × Nat × Nat × Nat)) (have_ : Nat → Nat → Bool) : Bool :=
  l.all (fun e => ringEntryOk e.2.1 e.2.2.1 e.2.2.2) &&
  decide ((l.map (fun e => ringKey e.1 e.2.1)).Nodup) && decide ((l.map (fun e => ringKey e.1 e.2.2.1)).Nodup) &&
  l.all (fun e => (epKind e.2.1 != 0 || have_ e.1 (epRole e.2.1)) && (epKind e.2.2.1 != 0 || have_ e.1 (epRole e.2.2.1)))

/-- One fold map (R146). -/
def foldOk (l : List Nat) : Bool :=
  l.all (fun e => bits e 28 4 == 0 && bits e 24 2 == 0 && foldA e != foldB e && (foldA e < 2048) == (foldB e < 2048)) &&
  decide ((l.flatMap (fun e => [foldA e, foldB e])).Nodup)

/-- The commit checks of a full image. -/
def State.fullOk (s : State) (l : Load) : Bool :=
  l.roles.all (fun r => s.roleLost (r / 13) (r % 13) || (s.tin (s.tinOf (r / 13) (r % 13))).legal) &&
  ringOk l.ring (fun d r => l.roles.contains (13 * d + r)) && l.folds.all (fun f => foldOk f.2) &&
  (match l.eq with | some es => (List.range 96).all (fun i => eqOk i (es.getD i 0)) | none => true)

/-- The commit checks of a partial image. -/
def State.partialOk (s : State) (l : Load) : Bool :=
  let h := l.hdr
  let d := hdrDie h
  let r := hdrRole h
  let others := (s.entriesOf d).filter (fun x => !entryOfRole r x)
  (s.tin (s.partialTin h)).legal && l.ring.all (fun e => entryOfRole r (e.2.1, e.2.2.1, e.2.2.2)) &&
  ringOk l.ring (fun d' r' => (d' == d && r' == r) || !(s.tin (s.tinOf d' r')).isBlank) &&
  l.ring.all (fun e => !others.any (fun x => x.1 == e.2.1 || x.2.1 == e.2.2.1))

/-! ### Commit (R553, R558, R559, R561) -/

/-- The connections an image carries for die `d`. -/
def Load.entries (l : Load) (d : Nat) : List (Nat × Nat × Nat) := (l.ring.filter (fun e => e.1 == d)).map (fun e => e.2)

/-- The fold map an image carries for seam `d`. -/
def Load.foldOf (l : Load) (d : Nat) : List Nat := ((l.folds.find? (fun f => f.1 == d)).map (fun f => f.2)).getD []

/-- The load commits with status `st`. -/
def State.loadDone (s : State) (l : Load) (st : Nat) : State :=
  (s.post 0x0A00 0 none 0 st (l.used % 2 ^ 32)).loadOutcome l st 0 l.used

/-- Step 1 of R553: the table is the committed one; a lane whose entry is not valid goes to OFF (R461). -/
def State.commitEq (s : State) (eq : Option (List Nat)) : State :=
  let es := eq.getD []
  let s1 := { s with eqTable := (List.range 96).foldl (fun t i => Tab.put eqDefault t i (es.getD i eqDefault)) [] }
  (List.range 96).foldl (fun a i => if eqValid (es.getD i eqDefault) then a else a.laneDrop i 4) s1

/-- Step 4 of R553: die copies first, then role copies in ascending role order (R561). -/
def State.commitCopies (s : State) (l : Load) : State :=
  let s0 := { s with kept := [], dieCopy := [], spr := { s.spr with waitCopy := [] } }
  let s1 := (List.range 8).foldl (fun a d => a.keepDie d l.used ((l.entries d).filter (fun x => !entryCrust x))) s0
  if hdrFlag l.hdr 2 then
    (List.range 104).foldl (fun a i =>
      let d := i / 13
      let r := i % 13
      if l.roles.contains i && !a.roleLost d r then a.keepCopy d r l.used ⟨(a.tin (a.tinOf d r)).frames, (l.entries d).filter (entryOfRole r)⟩ else a) s1
  else s1

/-- Step 5 of R553. -/
def State.commitArv (s : State) (l : Load) : State :=
  let v := min (leAt l.hdr 0x18 1) 64
  if hdrFlag l.hdr 1 ∧ s.fuses.arv < v then
    ({ s with fuses := { s.fuses with arv := v } }.showFuses).post 0x0A04 0 none 0 stDone (l.used % 2 ^ 32)
  else s

/-- Step 6 of R553. -/
def State.commitGolden (s : State) (h : List Byte) : State :=
  let g := leAt h 0x28 8
  if g = 0 then s else { s with breadbox := writeBytes 0 s.breadbox 0x2000 (leBytes 8 g) }

/-- Step 7 of R553: every die takes a new epoch and every loaded role is released under it. -/
def State.commitRelease (s : State) (l : Load) : State :=
  let s1 := (List.range 8).foldl (fun a d => a.nextEpoch d) s
  l.roles.foldl (fun a i =>
    if a.roleLost (i / 13) (i % 13) then a
    else
      let t := a.tinOf (i / 13) (i % 13)
      ((a.takeEpoch t).releaseTin t).setTinState t tsInService) s1

/-- `FULL_IMAGE_COMMIT` (R548 step 12, R553). -/
def execFullImageCommit (s : State) : Out :=
  match s.cfg.load with
  | none => .next s
  | some l =>
    let s0 := s.clearOut
    if l.stage ≠ 2 ∨ hdrPartial l.hdr ∨ s.halted then .next s
    else if !s.fullOk l then .next (s0.loadFail l stImageCorrupt 0 l.used)
    else
      let s1 := s0.commitEq l.eq
      let s2 : State := { s1 with foldMap := (List.range 8).foldl (fun t d => Tab.put [] t d (l.foldOf d)) [], ring := [] }
      let s3 := (List.range 8).foldl (fun a d => a.addEntries d (l.entries d)) s2
      let s4 := (((s3.commitCopies l).commitArv l).commitGolden l.hdr).commitRelease l
      let s5 := ((s4.setDev 3).fset CFG_STAT.fallback_req 0).fset (CFG_IMAGE_VER.version) (leAt l.hdr 0x14 4)
      let s6 := { s5 with cfg := { s5.cfg with clearOk := hdrFlag l.hdr 0 } }
      let folded := (List.range 8).any (fun d => s6.anyFolded d (l.entries d))
      .next (s6.loadDone l (if l.lost || folded then stDegraded else stDone))

/-- `PARTIAL_IMAGE_COMMIT` (R558, R559, R561). -/
def execPartialImageCommit (s : State) : Out :=
  match s.cfg.load with
  | none => .next s
  | some l =>
    let h := l.hdr
    let d := hdrDie h
    let r := hdrRole h
    let t := s.partialTin h
    let es := l.entries d
    let s0 := s.clearOut
    if l.stage ≠ 2 || !hdrPartial h || s.halted then .next s
    else if !s.partialOk l then .next (s0.loadFail l stImageCorrupt 0 l.used)
    else
      let c : KeptCopy := ⟨(s0.tin t).frames, es⟩
      let st := if s0.anyFolded d es then stDegraded else stDone
      if hdrInPlace h then
        let s1 := { s0 with kept := Tab.put none s0.kept (13 * d + r) none }
        let s2 := if hdrFlag h 2 then s1.keepCopy d r l.used c else s1
        .next (((((s2.replaceEntries d r es).newEpoch d r).releaseTin t).setTinState t tsInService).loadDone l st)
      else
        let s1 := { s0 with spr := { s0.spr with waitCopy := Tab.put none s0.spr.waitCopy (13 * d + r) none } }
        let s2 := if !hdrFlag h 2 then s1
          else if c.size ≤ s1.copyRoom then { s1 with spr := { s1.spr with waitCopy := Tab.put none s1.spr.waitCopy (13 * d + r) (some c) } }
          else s1.copyNoRoom d (tinUnit r (t % 13)) l.used
        .next (((s2.setTin t { s2.tin t with design := some r, partialImg := true, designRing := es }).setTinState t tsLoaded).loadDone l st)

/-! ### The host chain (R536–R538, R562) -/

/-- A descriptor of the chain gives its bytes; the last one waits for the outcome. -/
def State.chainPiece (s : State) (q k : Nat) (j : Job) (bytes : List Byte) : State :=
  let cont := bit (Desc.w1 j.desc) 0
  let s1 := s.setQueue q { s.queue q with chain := cont }
  match s.cfg.chainEnd with
  | some (_, st, detail, off) =>
    if cont then s1.endJob q k stDone 0 0 else ({ s1 with cfg := { s1.cfg with chainEnd := none } }).endJob q k st detail off
  | none =>
    match s1.cfg.load with
    | none => s1.endJob q k stDone 0 0
    | some l =>
      let s2 := s1.setLoad (some { l with inbox := (if l.stage ≤ 1 then l.inbox ++ bytes else l.inbox), got := l.got + bytes.length, ended := !cont })
      if cont then s2.endJob q k stDone 0 0 else s2.mgmtWait q k j .image

/-- The chain of queue `q` ends early; the descriptor that ends it completes with `st`. -/
def State.chainBreak (s : State) (q : Nat) : State :=
  let s1 := s.setQueue q { s.queue q with chain := false }
  match s1.cfg.load with
  | some l =>
    if l.src = 2 ∧ l.queue = q ∧ l.stage ≤ 2 then
      (if l.short then s1.loadFail { l with ended := true } stImageIncomplete 0 l.got else s1.setLoad (some { l with ended := true }))
    else s1
  | none => match s1.cfg.chainEnd with
    | some (p, _) => if p = q then { s1 with cfg := { s1.cfg with chainEnd := none } } else s1
    | none => s1

/-- `LOAD_IMAGE`: the piece the running descriptor of queue `q` names, as host memory gave it. -/
def State.loadImage (s : State) (q : QueueIx) (host : HostRead) : State :=
  match s.mgmtJob q.val 0x50 with
  | none => s
  | some (k, j) =>
    let d := j.desc
    let open_ := (s.queue q.val).chain
    let s0 := s.clearOut
    if !(Desc.clear d true false true false && Desc.w1 d < 2 && decide (1 ≤ Desc.len d)) then (s.mgmtEnd q.val k stBadField 0)
    else if !open_ && !s.legalState 0x50 then (s.mgmtEnd q.val k stWrongState (s.stateDetail (s.queue q.val).state))
    else if !open_ && (s.cfg.load.isSome || s.cfg.chainEnd.isSome) then (s.mgmtEnd q.val k stBusy 0)
    else if !open_ && (s.fget CFG_STAT.cfg_mode == 3 || !s.cfgOn) then (s.mgmtEnd q.val k stRefused 0)
    else
      match host with
      | .failed c => ((s0.chainBreak q.val).endJob q.val k stAborted (0x0100 + c.val) 0)
      | .data b _ =>
        if b.length ≠ Desc.len d then s
        else ((if open_ then s0 else s0.beginLoad 2 q.val []).chainPiece q.val k j b)

def execLoadImage (q : QueueIx) (host : HostRead) (s : State) : Out := .next (s.loadImage q host)

/-- A die reset or power loss meets a load that writes the die (R562). -/
def State.loadDieLost (s : State) (d : Nat) : State :=
  match s.cfg.load with
  | none => s
  | some l =>
    if 1 ≤ l.stage ∧ l.stage ≤ 2 ∧ (if hdrPartial l.hdr then hdrDie l.hdr = d else l.roles.any (fun r => r / 13 == d) = true) then
      s.loadFail l stAborted 0 l.got
    else s

end Sys2Proof.Machine
end

