-- ==== Sys2Proof/Machine/HqeCmd.lean ====
section
/-! DEFINITION. The management commands on queues and granules (R431–R440, R797), the admin queue's control (R450), the resets of the
HQE's functions (R401–R403), host reads without a completion (R426), and the cluster's event ring (R616). -/

namespace Sys2Proof.Machine

/-! ### Queue commands (R434–R437) -/

/-- The queue a queue command names (R436). -/
def Desc.target (d : Desc) : Nat := Desc.w1 d % 1024

/-- A transition of queue `t` is under way (R435): a delete, or a reclaim of its lists that keeps it in ERROR (R201). -/
def State.queueBusy (s : State) (t op : Nat) : Bool :=
  (s.queue t).deleting.isSome ||
    ((op == 0x41 || op == 0x44) && (s.queue t).state == qError && (s.pool.marked.contains (2 * t) || s.pool.marked.contains (2 * t + 1)))

/-- A queue command: its fields, the check of R434 with the target's state, R435, then its effect on queue `t`. -/
def State.queueCommand (s : State) (q op : Nat) (states : List Nat) (fields : Nat → Desc → Bool) (go : State → Nat → Job → Nat → State) : State :=
  match s.mgmtJob q op with
  | none => s
  | some (k, j) =>
    let t := Desc.target j.desc
    if !fields t j.desc then s.mgmtEnd q k stBadField 0
    else if !(s.legalState op && states.contains (s.queue t).state) then s.mgmtEnd q k stWrongState (s.stateDetail (s.queue t).state)
    else if s.queueBusy t op then s.mgmtEnd q k stBusy 0
    else go s.clearOut k j t

/-- A queue command without operands beyond its target; `self` says whether it may name the queue that carries it (R435). -/
def plainTarget (q : Nat) (self : Bool) (t : Nat) (d : Desc) : Bool :=
  Desc.clear d false false false false && Desc.w1 d < 1024 && (self || t != q)

/-- The queue types of R410 that `QUEUE_CREATE` may give a queue. -/
def typeFor (t : Nat) : List Nat := if t = 0 then [] else if t < 8 then [3] else if t < 1022 then [0, 1, 2] else [4]

/-- The MSI-X table size of a function (R400). -/
def vectorsOf (owner : Nat) : Nat := if owner = 0 then 64 else if owner = 1 then 1024 else 15

/-- The type a `QUEUE_CREATE` descriptor gives. -/
def Desc.newType (d : Desc) : Nat := bits (Desc.w1 d) 10 3

/-- The operands of `QUEUE_CREATE` (R436, R437). -/
def State.createFields (s : State) (t : Nat) (d : Desc) : Bool :=
  let w := Desc.w1 d
  let ty := Desc.newType d
  let stream := ty == 1 || ty == 2
  let sq := bits w 14 5
  let cq := bits w 19 5
  let x := Desc.w7 d
  Desc.clear d true true true true && (typeFor t).contains ty && !bit w 13 &&
    (if ty = 4 then sq == 0 && Desc.addrA d == 0 else decide (6 ≤ sq ∧ sq ≤ 16) && Desc.addrA d % 4096 == 0) &&
    decide (6 ≤ cq ∧ cq ≤ 16) && Desc.addrB d % 4096 == 0 &&
    (if stream then decide (bits w 30 2 ≤ 1) else bits w 24 8 == 0) &&
    decide (Desc.len d % 2048 < vectorsOf (s.queue t).owner) && bits x 19 3 == 0 && bits x 24 8 == 0 &&
    (if ty = 4 then decide (bits x 16 3 ≤ 5) else bits x 16 3 == 0) && (stream || bits x 22 2 == 0)

/-- Whether the direction of stream port `gp` that type `ty` takes is held by another queue or, toward the host, by the time edge (R427). -/
def State.portHeld (s : State) (t ty gp : Nat) : Bool :=
  s.hqe.queues.any (fun e => match e.2 with | some v => e.1 != t && v.type == ty && v.port == some gp | none => false) ||
    (ty == 1 && bit (s.fget (TE_CTL.sp_mask (gp / 8))) (gp % 8))

/-- A queue as `QUEUE_RESET` and a creation leave its rings: empty, phase 1, nothing to signal. -/
def Queue.restart (v : Queue) : Queue :=
  { v with state := qEnabled, sqHead := 0, sqTail := 0, cqHead := 0, cqTail := 0, phase := true, cause := 0, unsig := 0 }

/-- The queue a `QUEUE_CREATE` descriptor makes of `v`. -/
def Queue.create (v : Queue) (d : Desc) : Queue :=
  let w := Desc.w1 d
  let x := Desc.w7 d
  let stream := Desc.newType d == 1 || Desc.newType d == 2
  { v.restart with
    type := Desc.newType d
    sqBase := Desc.addrA d
    sqLog2 := bits w 14 5
    cqBase := Desc.addrB d
    cqLog2 := bits w 19 5
    vector := Desc.len d % 2048
    irqEn := bit (Desc.len d) 11
    coalN := bits (Desc.len d) 12 8
    coalUs := bits (Desc.len d) 20 12
    staleUs := x % 2 ^ 16
    minSev := bits x 16 3
    prio := bits x 22 2
    port := if stream then some (bits w 24 6) else none
    unbound := bits w 30 2
    heldSq := none
    heldCq := none
    chain := false
    rest := none
    midRecord := false
    run := v.run.filter (fun j => Desc.op j.desc != 0x10)
    drained := 0 }

/-- The least severity that the backlog behind EVENT queue `t` takes in (R444). -/
def State.setMinSev (s : State) (t sev : Nat) : State :=
  if t = 1022 then { s with events := { s.events with pf0 := { s.events.pf0 with minSev := sev } } }
  else if t = 1023 then { s with events := { s.events with pf1 := { s.events.pf1 with minSev := sev } } }
  else s

/-- `QUEUE_CREATE`. -/
def execQueueCreate (q : QueueIx) (s : State) : Out :=
  .next (s.queueCommand q.val 0x40 [qDisabled] s.createFields (fun s k j t =>
    let d := j.desc
    let ty := Desc.newType d
    if (ty = 1 ∨ ty = 2) ∧ s.portHeld t ty (bits (Desc.w1 d) 24 6) = true then s.mgmtEnd q.val k stBusy 0
    else if s.pool.lost then s.mgmtEnd q.val k stRefused 0
    else ((s.setQueue t ((s.queue t).create d)).setMinSev t (bits (Desc.w7 d) 16 3)).endJob q.val k stDone 0 0))

/-- The descriptors of queue `t` that have not started. -/
def State.unstarted (s : State) (t : Nat) : Nat :=
  let v := s.queue t
  (v.sqTail + 2 ^ v.sqLog2 - v.sqHead) % 2 ^ v.sqLog2

/-- A delete of queue `t` begins; `cids` are those of its descriptors that have not started, in ring order. -/
def State.beginDelete (s : State) (t : Nat) (cids : List Nat) : State :=
  let s1 := if (s.queue t).chain then s.chainBreak t else s
  s1.setQueue t { s1.queue t with deleting := some cids, heldSq := none }

/-- `QUEUE_DELETE`: `cids` is what host memory holds for the descriptors not started. -/
def execQueueDelete (q : QueueIx) (cids : List (Fin 65536)) (s : State) : Out :=
  .next (s.queueCommand q.val 0x41 [qEnabled, qPaused, qError] (plainTarget q.val false) (fun s k j t =>
    if cids.length ≠ s.unstarted t then s
    else ((s.mgmtWait q.val k j (.queue t)).beginDelete t (cids.map (·.val))).settleQueue settleFuel t))

/-- `QUEUE_PAUSE`. -/
def execQueuePause (q : QueueIx) (s : State) : Out :=
  .next (s.queueCommand q.val 0x42 [qEnabled] (plainTarget q.val false) (fun s k _ t =>
    (s.setQueue t { s.queue t with state := qPaused }).endJob q.val k stDone 0 0))

/-- `QUEUE_RESUME`: the doorbells recorded meanwhile take effect (R418). -/
def execQueueResume (q : QueueIx) (s : State) : Out :=
  .next (s.queueCommand q.val 0x43 [qPaused] (plainTarget q.val true) (fun s k _ t =>
    ((s.setQueue t { s.queue t with state := qEnabled }).heldBells t).endJob q.val k stDone 0 0))

/-- `QUEUE_RESET`. -/
def execQueueReset (q : QueueIx) (s : State) : Out :=
  .next (s.queueCommand q.val 0x44 [qError] (plainTarget q.val false) (fun s k _ t =>
    ((s.setQueue t (s.queue t).restart).heldBells t).endJob q.val k stDone 0 0))

/-- The number of queues a function owns. -/
def State.owned (s : State) (fn : Nat) : Nat := ((List.range 1022).filter (fun t => (s.queue t).owner == fn)).length

/-- `QUEUE_ASSIGN`. -/
def execQueueAssign (q : QueueIx) (s : State) : Out :=
  .next (s.queueCommand q.val 0x45 [qDisabled]
    (fun t d => Desc.clear d false false false false && bits (Desc.w1 d) 10 22 ≤ 65 && decide (8 ≤ t ∧ t ≤ 1021)) (fun s k j t =>
    let o := bits (Desc.w1 j.desc) 10 8
    if 2 ≤ o ∧ 15 ≤ s.owned o then s.mgmtEnd q.val k stRefused 0x000F
    else (s.setQueue t { s.queue t with owner := o }).endJob q.val k stDone 0 0))

/-- The result of `QUEUE_QUERY` (R436). -/
def Queue.queryResult (v : Queue) : Nat :=
  v.state % 4 + v.type % 8 * 2 ^ 2 + v.owner % 256 * 2 ^ 5 + v.cause % 8 * 2 ^ 13 + v.sqHead % 2 ^ 16 * 2 ^ 16 + v.cqTail % 2 ^ 16 * 2 ^ 32

/-- `QUEUE_QUERY`. -/
def execQueueQuery (q : QueueIx) (s : State) : Out :=
  .next (s.queueCommand q.val 0x46 [qDisabled, qEnabled, qPaused, qError] (plainTarget q.val true) (fun s k _ t =>
    s.endJob q.val k stDone 0 (s.queue t).queryResult))

/-! ### The admin queue (R450) -/

/-- Queue 0 as its registers describe it. -/
def State.adminEnable (s : State) : State :=
  if (s.queue 0).state ≠ qDisabled then s
  else
    s.setQueue 0 { (s.queue 0).restart with
      sqBase := s.fget HQE_ASQ_LO.base_lo * 4096 + s.fget HQE_ASQ_HI.base_hi * 2 ^ 32
      sqLog2 := s.fget HQE_QCTL.sq_log2
      cqBase := s.fget HQE_ACQ_LO.base_lo * 4096 + s.fget HQE_ACQ_HI.base_hi * 2 ^ 32
      cqLog2 := s.fget HQE_QCTL.cq_log2
      vector := s.fget HQE_QCTL.vector
      irqEn := s.fbit HQE_QCTL.irq_en
      coalN := 1
      coalUs := 0
      staleUs := 1000 }

/-- `enable` = 0: queue 0 ends as a delete ends it; `enable` reads 1 until it is DISABLED. -/
def State.adminDisable (s : State) (cids : List Nat) : State :=
  if (s.queue 0).state = qDisabled ∨ (s.queue 0).deleting.isSome ∨ cids.length ≠ s.unstarted 0 then s
  else (s.beginDelete 0 cids).settleQueue settleFuel 0

/-! ### Granules (R343–R356, R386, R438–R440, R692, R797) -/

/-- Whether some right of a rights word is 0b11. -/
def badRights (r : Nat) : Bool := (List.range 16).any (fun k => bits r (2 * k) 2 == 3)

/-- The mode checks of a granule command (R344, R345, R438, R692): the detail of `WRONG_STATE`. -/
def State.granWrong (s : State) (g mode : Nat) (setMode : Bool) : Option Nat :=
  if s.lifecycle = 3 then some 3
  else if (s.gran g).mode = 3 then some 2
  else if setMode ∧ mode = 2 ∧ s.fbit SEC_SEAL_CFG.seal_en = false then some 1
  else if setMode ∧ mode = 0 ∧ s.lifecycle = 2 ∧ s.cfg.clearOk = false then some 2
  else none

/-- `GRANULE_SET` (R438). -/
def execGranuleSet (q : QueueIx) (s : State) : Out :=
  .next (s.command q.val 0x58
    (fun d => Desc.clear d true false false false && Desc.w1 d < 4096 && !bit (Desc.w1 d) 7 && decide (Desc.w1 d % 128 < s.granules) &&
      bits (Desc.w1 d) 8 2 != 3 && decide (Desc.addrA d < 2 ^ 32) && !badRights (Desc.addrA d))
    (fun s k j =>
      let g := Desc.w1 j.desc % 128
      let mode := bits (Desc.w1 j.desc) 8 2
      let setMode := bit (Desc.w1 j.desc) 10
      let v := s.gran g
      match s.granWrong g mode setMode with
      | some d => s.mgmtEnd q.val k stWrongState d
      | none =>
        if v.state ≠ 0 then s.mgmtEnd q.val k stBusy 0
        else if setMode then
          let slot := if mode ≠ 2 then none else if v.mode = 2 then v.slot else s.freeSlot
          if mode = 2 ∧ slot.isNone then s.mgmtEnd q.val k stRefused 0
          else (s.startRefill g mode slot).mgmtWait q.val k j (.refill g)
        else
          (if bit (Desc.w1 j.desc) 11 then s.setGran g { v with rights := Desc.addrA j.desc } else s).endJob q.val k stDone 0 0))

/-- The granules that become STORE or leave STORE when S goes from `a` to `b` (R351). -/
def State.storeRange (s : State) (a b : Nat) : List Nat := (List.range (max a b - min a b)).map (fun i => s.granules - 1 - (min a b + i))

/-- `STORE_SET` (R439, R354). -/
def execStoreSet (q : QueueIx) (s : State) : Out :=
  .next (s.command q.val 0x59
    (fun d => Desc.clear d false false false false && Desc.w1 d < 32 && decide (Desc.w1 d ≤ s.granules / 7))
    (fun s k j =>
      let n := Desc.w1 j.desc
      let now := s.fget SEC_SEAL_CFG.stores
      let l := s.storeRange now n
      let sealed := l.find? (fun g => (s.gran g).mode == 2)
      if s.lifecycle = 3 then s.mgmtEnd q.val k stWrongState 3
      else if !s.fbit SEC_SEAL_CFG.seal_en then (if n = 0 then s.endJob q.val k stDone 0 0 else s.mgmtEnd q.val k stWrongState 1)
      else if now < n ∧ sealed.isSome then s.mgmtEnd q.val k stWrongState (0x0100 + sealed.getD 0)
      else if n < now ∧ (List.range 128).any (fun g => match (s.gran g).slot with | some x => decide (6 * n ≤ x) | none => false) then
        s.mgmtEnd q.val k stWrongState now
      else if l.any (fun g => (s.gran g).state != 0) ∨ (s.waiter .store).isSome then s.mgmtEnd q.val k stBusy 0
      else if n = now then s.endJob q.val k stDone 0 0
      else
        let s1 := l.foldl (fun a g => a.startRefill g (if now < n then 3 else 1) none) s
        (if n < now then s1.fset SEC_SEAL_CFG.stores n else s1).mgmtWait q.val k j .store))

/-- `RESEAL_RANGE` (R386, R440). -/
def execResealRange (q : QueueIx) (s : State) : Out :=
  .next (s.command q.val 0x5A
    (fun d => Desc.clear d false true true false && Desc.w1 d == 0 && Desc.addrB d % 32768 == 0 && Desc.len d % 32768 == 0 && Desc.len d != 0 &&
      decide (Desc.addrB d + Desc.len d ≤ (granOf (Desc.addrB d) + 1) * 2 ^ 30) && decide (granOf (Desc.addrB d) < s.granules))
    (fun s k j =>
      let g := granOf (Desc.addrB j.desc)
      let v := s.gran g
      if v.mode ≠ 2 then s.mgmtEnd q.val k stWrongState (0x0010 + v.mode)
      else if v.state ≠ 0 then s.mgmtEnd q.val k stBusy 0
      else (s.setGran g { v with state := 2, range := (Desc.addrB j.desc, Desc.len j.desc) }).mgmtWait q.val k j (.reseal g)))

/-- The granule command that waits for granule `g` ends: its rights apply now (R438). -/
def State.granuleEnd (s : State) (g : Nat) : State :=
  match s.waiter (.refill g) with
  | none => s
  | some (q, k) =>
    match s.job q k with
    | none => s
    | some j =>
      let s1 := if bit (Desc.w1 j.desc) 11 then s.setGran g { s.gran g with rights := Desc.addrA j.desc } else s
      s1.endJob q k stDone 0 0

/-- The store command ends once no granule enters or leaves STORE any more (R797). -/
def State.storeEnd (s : State) : State :=
  match s.waiter .store with
  | none => s
  | some (q, k) =>
    match s.job q k with
    | none => s
    | some j =>
      if (List.range 128).any (fun g => (s.gran g).state == 1 && ((s.gran g).mode == 3 || (s.gran g).toMode == 3)) then s
      else (s.fset SEC_SEAL_CFG.stores (Desc.w1 j.desc)).endJob q k stDone 0 0

/-- `GRANULE_REFILL_DONE` (R350 steps 3 and 4, R797). -/
def execGranuleRefillDone (g : Fin 128) (s : State) : Out :=
  if (s.gran g.val).state ≠ 1 ∨ s.halted then .next s
  else .next ((s.clearOut.refillDone g.val).granuleEnd g.val).storeEnd

/-- `SEAL_RESEALED` (R386). -/
def execSealResealed (g : Fin 128) (s : State) : Out :=
  if (s.gran g.val).state ≠ 2 ∨ s.halted then .next s
  else .next ((s.clearOut.resealDone g.val).finishWait (.reseal g.val) stDone 0 0)

/-! ### Function level resets and `PERST_N` (R401–R403) -/

/-- The queue leaves its functions' hands: DISABLED, nothing of what it started reaches the host; its binding and owner stay. -/
def State.disableQueue (s : State) (t : Nat) : State :=
  let v := s.queue t
  let s1 := if v.chain then s.chainBreak t else s
  let s2 := s1.setQueue t { s1.queue t with
    state := qDisabled, deleting := none, heldSq := none, heldCq := none, chain := false, rest := none, midRecord := false,
    sqHead := v.sqTail, unsig := 0,
    run := v.goneRun }
  if t = 0 then s2.fset HQE_QCTL.enable 0 else s2

/-- The queues of the functions `p`, all of them DISABLED, and then the deletes that waited for them done. -/
def State.disableQueues (s : State) (p : Nat → Bool) : State :=
  let l := (List.range 1024).filter (fun t => p (s.queue t).owner && (s.queue t).state != qDisabled)
  let s1 := l.foldl (fun a t => a.disableQueue t) s
  l.foldl (fun a t => a.finishWait (.queue t) stDone 0 0) s1

/-- The MSI-X tables of the functions `p` as a function level reset leaves them. -/
def State.clearMsix (s : State) (p : Nat → Bool) : State :=
  { s with hqe := { s.hqe with msix := Tab.drop (fun k => p (k / 2048)) s.hqe.msix } }

/-- `FLR` (R401): an FLR of PF1 covers its VFs. -/
def execFlr (fn : Fin 66) (s : State) : Out :=
  if s.powerGood then
    let p := fun (o : Nat) => if fn.val = 1 then decide (1 ≤ o) else o == fn.val
    let s1 := (s.clearOut.disableQueues p).clearMsix p
    .next { s1 with events := s1.events.post s1.now ⟨0x0702, 0, none, fn.val, 0, 0⟩ (decide (1 ≤ fn.val)) }
  else .next s

/-- The default owner of a queue (R410). -/
def defaultOwner (t : Nat) : Nat := (Queue.reset t).owner

/-- The host attachment and the HQE reset, the device state kept (R402, R448); `scope` names the reset. -/
def State.resetHqe (s : State) (scope : Nat) : State :=
  let dev := s.fget HQE_STAT.dev_state
  let ready := s.fget HQE_STAT.dram_ready
  let s1 := (s.disableQueues (fun _ => true)).clearMsix (fun _ => true)
  let s2 := (List.range 1024).foldl (fun a t =>
    if (a.queue t).owner = defaultOwner t then a else a.setQueue t { a.queue t with owner := defaultOwner t }) s1
  let s3 := { s2 with hqe := { s2.hqe with bars := [] } }
  ((s3.resetRegs scope (fun o => o / 0x10000 == 8 || (o / 0x10000 == 9 && scope == scopePerst))).fset HQE_STAT.dev_state dev).fset HQE_STAT.dram_ready ready

/-- `PERST_N`. -/
def execPerstN (s : State) : Out := if s.powerGood then .next (s.clearOut.resetHqe scopePerst) else .next s

/-! ### Host reads without a completion (R426) -/

/-- `HOST_COMPLETION_TIMEOUT`: the read of the descriptor `k` of queue `q` ends as a failed host read with code 0xFF. -/
def execHostCompletionTimeout (q : QueueIx) (k : Nat) (s : State) : Out :=
  match s.job q.val k with
  | none => .next s
  | some j =>
    match (s.queue q.val).type, Desc.op j.desc with
    | 0, 1 => .next (s.copyToDevice q k (.failed 0xFF) .clean)
    | 2, 0x10 => .next (s.streamSend q (.failed 0xFF))
    | 3, 0x50 => .next (s.loadImage q (.failed 0xFF))
    | _, _ => .next s

/-! ### The cluster's event ring (R616) -/

/-- `CLUSTER_EVENT_MOVE`. -/
def execClusterEventMove (s : State) : Out :=
  let m := s.mgc
  let t := (m.evTail + 1) % 1024
  if !s.fbit MGC_EVT_CTL.enable || t == m.evHead || s.halted then .next s
  else
    match Backlog.take s.events.mgc with
    | none => .next s
    | some (e, lost, b) =>
      let off := s.fget MGC_EVT_CTL.offset * 0x8000 + 32 * m.evTail
      .next { s with
        events := { s.events with mgc := b }
        larder := (s.larder.write off (evBytes e lost m.evPhase)).markWords off 32 false
        mgc := { m with evTail := t, evPhase := if t = 0 then !m.evPhase else m.evPhase } }

end Sys2Proof.Machine
end

