-- ==== Sys2Proof/Machine/Rates.lean ====
section
/-! DEFINITION. Stage rate, its table, rate rings and wear (R93–R125).  Rates are in 0.001 Gtok/s, voltages in mV and
temperatures in 0.25 °C; a fraction is a pair (numerator, denominator). -/

namespace Sys2Proof.Machine

/-- The columns of the rate table, °C (R94). -/
def rateTemps : List Int := [-40, 0, 25, 85, 125, 150]
/-- The rows of the rate table: VFAB in mV and the minimum stage rates in 0.01 Gtok/s (R94). -/
def rateRows : List (Nat × List Nat) :=
  [(550, [110, 130, 142, 160, 166, 168]), (650, [200, 215, 224, 238, 242, 240]), (750, [280, 290, 295, 300, 296, 290]),
   (850, [350, 346, 342, 332, 324, 316]), (900, [382, 378, 374, 366, 358, 350])]

/-- The two columns around a temperature (0.25 °C): index, and the fraction of the way from the first to the second. -/
def tempSpan (tj : Int) : Nat → List Int → Nat × Int × Int
  | i, a :: b :: r => if tj ≤ 4 * b ∨ r.isEmpty then (i, tj - 4 * a, 4 * b - 4 * a) else tempSpan tj (i + 1) (b :: r)
  | i, _ => (i, 0, 1)

/-- A row of the table at a temperature, by linear interpolation (R95): numerator over the denominator of `tempSpan`,
in 0.01 Gtok/s. -/
def rowAt (row : List Nat) (tj : Int) : Int × Int :=
  let (i, x, d) := tempSpan tj 0 rateTemps
  (((row.getD i 0 : Nat) : Int) * (d - x) + ((row.getD (i + 1) 0 : Nat) : Int) * x, d)

/-- The guaranteed minimum stage rate of a new tin at VFAB `v` and Tj (R94, R95): between two rows, the lower row's. -/
def minRate (v : Nat) (tj : Int) : Int × Int :=
  match (rateRows.filter (fun r => r.1 ≤ v)).getLast? with
  | some r => rowAt r.2 tj
  | none => (0, 1)

/-- The rate table evaluated by bilinear interpolation (R122), in 0.01 Gtok/s. -/
def tableAt (v : Nat) (tj : Int) : Int × Int :=
  match (rateRows.filter (fun r => r.1 ≤ v)).getLast?, rateRows.find? (fun r => v < r.1) with
  | some a, some b =>
    let (na, d) := rowAt a.2 tj
    let (nb, _) := rowAt b.2 tj
    (na * ((b.1 : Int) - v) + nb * ((v : Int) - a.1), d * ((b.1 : Int) - a.1))
  | some a, none => rowAt a.2 tj
  | none, _ => (0, 1)

/-- The normalised rate of a measured rate, truncated to 0.001 Gtok/s (R122). -/
def normRate (rate v : Nat) (tj : Int) : Nat :=
  let (n, d) := tableAt v tj
  if n ≤ 0 then 0 else ((rate : Int) * 300 * d / n).toNat

/-- The guaranteed rate of an element with figures floor, nominal and boost at stage rate `r` (R99): a fraction. -/
def elementRate (floor nominal boost r : Nat) : Nat × Nat :=
  if r < 1800 then (floor * r, 1800)
  else if r ≤ 3000 then (floor * (3000 - r) + nominal * (r - 1800), 1200)
  else if r ≤ 3600 then (nominal * (3600 - r) + boost * (r - 3000), 600)
  else (boost, 1)

/-- The rows of one-crumb stages: cycle time, forward and backward latency of a stage of depth `d` at stage rate `r`, each as
a fraction of ns with `r` in 0.001 Gtok/s (R100). -/
def stageCycle (d r : Nat) : Nat × Nat := (1000 * (d + 1), 2 * r)
def stageForward (d r : Nat) : Nat × Nat := (1000 * d, 4 * r)
def stageBackward (r : Nat) : Nat × Nat := (1000, 2 * r)

/-- The lesser of two fractions. -/
def fracMin (a b : Nat × Nat) : Nat × Nat := if a.1 * b.2 ≤ b.1 * a.2 then a else b

/-- The loop throughput (R102): `cmax`, `f` and `b` are fractions of ns. -/
def loopThroughput (n k : Nat) (cmax f b : Nat × Nat) : Nat × Nat :=
  fracMin (cmax.2, cmax.1) (fracMin (k * f.2, f.1) ((n - 2 * k) * b.2, b.1))

/-! ### Rate rings (R107–R112) -/

/-- The middle of three numbers. -/
def median3 (a b c : Nat) : Nat := max (min a b) (min (max a b) c)

/-- A ring's rate against the other three: 0, or more than 15 % from their median (R109). -/
def ringFails (r a b c : Nat) : Bool :=
  let m := median3 a b c
  r == 0 || decide (100 * r > 115 * m) || decide (100 * r < 85 * m)

/-- The rings failed after a window: those failed before and those that fail in it. -/
def ringsFailed (old : Nat) (r : List Nat) : Nat :=
  let g := fun i => r.getD i 0
  let f := fun i a b c => bit old i || ringFails (g i) (g a) (g b) (g c)
  b2n (f 0 1 2 3) + 2 * b2n (f 1 0 2 3) + 4 * b2n (f 2 0 1 3) + 8 * b2n (f 3 0 1 2)

/-- The rates of the in-service rings. -/
def ringsLeft (failed : Nat) (r : List Nat) : List Nat := ((List.range 4).filter (fun i => !bit failed i)).map (fun i => r.getD i 0)

/-- A spare is available on die `d`: the tin of role 12 is in SPARE (R567). -/
def State.spareAvail (s : State) (d : Nat) : Bool := s.tinState (s.tinOf d 12) == tsSpare

/-- Whether a role has a kept copy (R561). -/
def State.hasKept (s : State) (d r : Nat) : Bool := (Tab.get none s.kept (13 * d + r)).isSome

/-- A tin becomes due (R124, R571, R591): the order is noted, the spare itself is tested at once, and a tin that no spare can
replace is reported as running on. -/
def State.becameDue (s : State) (t n : Nat) : State :=
  let d := t / 13
  let r := s.roleOf t
  let s1 := { s.setTin t { s.tin t with dueOrder := if (s.tin t).dueOrder = 0 then s.dueSeq + 1 else (s.tin t).dueOrder } with dueSeq := s.dueSeq + 1 }
  if r = 12 then (if s.tinState t = tsSpare then s1.fset (TIN_STAT.state t) tsTesting else s1)
  else if s.tinState (s.tinOf d 12) = tsRetired ∨ s.hasKept d r = false then
    s1.post 0x0B04 2 (some d) (tinUnit r (t % 13)) n (b2n (decide (2700 ≤ n)) + 2 * b2n (!s.hasKept d r))
  else s1

/-- A retirement condition with its cause is met (R124): `due` and `cause` as the order of the causes gives them. -/
def State.wearDue (s : State) (t cause n : Nat) : State :=
  let old := s.fget (TIN_WEAR.cause t)
  if s.fbit (TIN_WEAR.due t) && (old == 3 || cause ≤ old) then s
  else
    let s1 := ((s.fset (TIN_WEAR.due t) 1).fset (TIN_WEAR.cause t) cause).post 0x0102 2 (some (t / 13)) (tinUnit (s.roleOf t) (t % 13)) n cause
    if s.fbit (TIN_WEAR.due t) then s1 else s1.becameDue t n

/-- Tj that the PTM attributes to the tins of a die, in 0.25 °C. -/
def State.dieTj (s : State) (d : Nat) : Int := toSigned (s.fget (PTM_TJ.tj d)) 11

/-- A temperature sensor: 16d + s of die `d`, 128 + s of the hub (R652). -/
def State.sensor (s : State) (k : Nat) : Sensor := Tab.get .fresh s.ptm.sensors k

/-- The temperature attributed to tin `t` (R652): its own sensor, or the die's Tj when that has failed. -/
def State.tinTj (s : State) (t : Nat) : Int :=
  let v := s.sensor (16 * (t / 13) + t % 13)
  if v.valid && !v.failed then v.temp else s.dieTj (t / 13)

/-- A completed window of one tin's rings (R108–R110, R122). -/
def State.tinWindow (s : State) (t : Nat) (counts : List Nat) (stable : Bool) : State :=
  let w := s.fget PTM_RING_CTL.window
  let rates := counts.map (fun c => c / 2 ^ w)
  let old := s.fget (TIN_RATE.ring_failed t)
  let failed := ringsFailed old rates
  let left := ringsLeft failed rates
  let rate := left.foldl min (left.headD 0)
  let valid := decide (popCount failed 4 < 2)
  let s1 := (((((s.fset (TIN_RATE.valid t) (b2n valid)).fset (TIN_RATE.stable t) (b2n stable)).fset (TIN_RATE.ring_failed t) failed).fset
    (TIN_RATE.rate_max t) (left.foldl max 0)).fset (TIN_RATE.rate t) rate)
  let u := tinUnit (s.roleOf t) (t % 13)
  let s2 := (List.range 4).foldl (fun a i => if bit failed i && !bit old i then a.post 0x0101 0 (some (t / 13)) u i else a) s1
  let v := s.fget (PTM_FAB_STAT.vnow (t / 13))
  let tj := s.tinTj t
  let x := s2.tin t
  let s3 := if stable ∧ valid = true ∧ 650 ≤ v ∧ v ≤ 900 ∧ -160 ≤ tj ∧ tj ≤ 600 then
      s2.setTin t { x with goodWindows := (normRate rate v tj :: x.goodWindows).take 16 }
    else s2
  if valid then s3 else s3.wearDue t 3 (s3.fget (TIN_WEAR.norm_rate t))

/-- A completed window of the hub's rings (R112). -/
def State.hubWindow (s : State) (counts : List Nat) (stable : Bool) : State :=
  let w := s.fget PTM_RING_CTL.window
  let rates := counts.map (fun c => c / 2 ^ w)
  let old := s.fget PTM_HUB_RATE.ring_failed
  let failed := ringsFailed old rates
  let left := ringsLeft failed rates
  let s1 := ((((s.fset PTM_HUB_RATE.valid (b2n (decide (popCount failed 4 < 2)))).fset PTM_HUB_RATE.stable (b2n stable)).fset
    PTM_HUB_RATE.ring_failed failed).fset PTM_HUB_RATE.rate_max (left.foldl max 0)).fset PTM_HUB_RATE.rate (left.foldl min (left.headD 0))
  (List.range 4).foldl (fun a i => if bit failed i && !bit old i then a.post 0x0101 0 none i else a) s1

/-- `RATE_RING_WINDOW` (R108, R109): `t` is a physical tin, 104 the hub; the counts are those of rings 0–3. -/
def execRateRingWindow (t : Fin 105) (c0 c1 c2 c3 : Nat) (stable : Bool) (s : State) : Out :=
  if t.val = 104 then .next (s.hubWindow [c0, c1, c2, c3] stable) else .next (s.tinWindow t.val [c0, c1, c2, c3] stable)

/-- The die rate (R113): the lowest valid rate of the tins that hold user roles; 0 when none qualifies. -/
def State.dieRate (s : State) (d : Nat) : Nat :=
  let l := ((List.range 12).map (fun r => s.tinOf d r)).filter (fun t => s.fbit (TIN_RATE.valid t))
  (l.map (fun t => s.fget (TIN_RATE.rate t))).foldl min ((l.map (fun t => s.fget (TIN_RATE.rate t))).headD 0)

/-! ### Wear (R121–R125) -/

/-- A wear check of one tin (R123, R124): skipped with fewer than 16 qualifying windows, and in FROZEN, LOADING and TESTING
(R597). -/
def State.wearCheck (s : State) (t : Nat) : State :=
  let l := (s.tin t).goodWindows
  let st := s.tinState t
  if l.length < 16 ∨ st = tsFrozen ∨ st = tsLoading ∨ st = tsTesting then s
  else
    let n := l.foldl (· + ·) 0 / 16
    let b := s.fget (TIN_WEAR.baseline t)
    let slow := decide (100 * n ≤ 92 * b)
    let cnt := if slow then min (s.fget (TIN_WEAR.count t) + 1) 15 else 0
    let s1 := (s.fset (TIN_WEAR.norm_rate t) n).fset (TIN_WEAR.count t) cnt
    let s2 := if n < 2700 && !s.fbit (TIN_WEAR.eol t) then
        let a := (s1.fset (TIN_WEAR.eol t) 1).post 0x0103 2 (some (t / 13)) (tinUnit (s.roleOf t) (t % 13)) n
        if s.fbit (TIN_WEAR.due t) then a.becameDue t n else a
      else s1
    if n < 2700 then s2.wearDue t 2 n
    else if slow && s.fget PTM_RING_CTL.confirm ≤ cnt then s2.wearDue t 1 n
    else s2

/-- `WEAR_CHECK` (R123). -/
def execWearCheck (t : TinIx) (s : State) : Out := .next (s.wearCheck t.val)

/-- `VFAB_RAMP` (R116): the ramp of a die's VFAB ends at the level demanded. -/
def execVfabRamp (d : DieIx) (s : State) : Out :=
  .next (s.fset (PTM_FAB_STAT.vnow d.val) (Tab.get 0 s.vgoal d.val))

end Sys2Proof.Machine
end

