-- ==== Sys2Proof/Machine/Spr.lean ====
section
/-! DEFINITION. The spare manager (chapter 15): live relocation, hitless swap, restarts, return tests, retirement of tins, and the
kneaders. -/

namespace Sys2Proof.Machine

/-! ### Small operations -/

/-- The tin a spare-manager event names (R601). -/
def State.tinPost (s : State) (t code sev : Nat) (arg0 : Nat := 0) (arg1 : Nat := 0) : State :=
  s.post code sev (some (t / 13)) (tinUnit (s.roleOf t) (t % 13)) arg0 arg1

def State.setOps (s : State) (l : List SprOp) : State := { s with spr := { s.spr with ops := l } }

/-- The operation on role `r` of die `d` replaced. -/
def State.setOp (s : State) (d r : Nat) (o : SprOp) : State :=
  s.setOps (s.spr.ops.map (fun x => if x.die = d ∧ x.role = r then o else x))

def State.dropOp (s : State) (d r : Nat) : State := s.setOps (s.spr.ops.filter (fun x => !(x.die == d && x.role == r)))

def SprOp.new (kind : SprKind) (d r : Nat) : SprOp := ⟨kind, d, r, false, false, false, none, false, 0, 0, 0⟩

/-- A tin enters RETIRED (R587, R796). -/
def State.retireTin (s : State) (t : Nat) : State := ((s.wipeTin t).setTinState t tsRetired).tinPost t 0x0B03 2

/-- A role without a kept copy is stopped (R585). -/
def State.stopRole (s : State) (d r : Nat) : State :=
  let t := s.tinOf d r
  ((s.setTin t { (s.tin t).stallAll with stopped := true, restart := false }).setTinState t tsStopped).tinPost t 0x0B06 4

/-- A tin is due for replacement (R124, R594). -/
def State.tinDue (s : State) (t : Nat) : Bool := s.fbit (TIN_WEAR.due t) || s.fbit (TIN_STAT.knead_due t)

/-- The causes a tin is due for: those of R124, and 4 for the kneaders. -/
def State.dueCauses (s : State) (t : Nat) : List Nat :=
  (if s.fbit (TIN_WEAR.due t) then [s.fget (TIN_WEAR.cause t)] else []) ++ (if s.fbit (TIN_STAT.knead_due t) then [4] else [])

/-- The crust ports of a frozen tin return to their modes and it runs again. -/
def State.unfreeze (s : State) (t : Nat) : State := (s.setTin t { (s.tin t).unstall with frozen := false }.settle).setTinState t tsInService

/-- The tin of role 12 is wiped and tested. -/
def State.testSpare (s : State) (d : Nat) : State := let t := s.tinOf d 12; (s.wipeTin t).setTinState t tsTesting

/-- A relocation or swap ends with `ABORTED` and its reason (R575, R581): the command completes, an automatic one is retried after 1 s
up to three failures (R576). -/
def State.abortOp (s : State) (o : SprOp) (reason : Nat) : State :=
  let d := o.die
  let r := o.role
  let t := s.tinOf d r
  let s1 := s.dropOp d r
  let s2 := if o.stage = 0 ∨ reason = 0x51 then s1.testSpare d else s1
  let s3 := if 2 ≤ o.stage ∧ reason ≠ 0x50 ∧ reason ≠ 0x52 ∧ reason ≠ 0x40 then s2.unfreeze t else s2
  let s4 := (s3.tinPost t 0x0B09 0 reason).finishWait (.role d r) stAborted (0x0300 + reason) 0
  if !o.auto_ then s4
  else
    let n := Tab.get 0 s4.spr.aborts (13 * d + r) + 1
    let s5 := { s4 with spr := { s4.spr with aborts := Tab.put 0 s4.spr.aborts (13 * d + r) n, retry := if n < 3 then s4.spr.retry ++ [13 * d + r] else s4.spr.retry } }
    if n < 3 then s5
    else
      let w := s5.fget (TIN_WEAR.norm_rate t)
      s5.tinPost t 0x0B04 2 w (b2n (decide (2700 ≤ w)) + 2)

/-- The result of a relocation or swap: the pause in ns and the nanoseconds of tf (R581). -/
def State.opResult (s : State) (o : SprOp) : Nat := (s.now - o.tf) / 2 ^ 40 % 2 ^ 32 + timeNs o.tf * 2 ^ 32

/-! ### Starting a relocation (R571, R572) -/

/-- The spare tin is taken for a relocation of role `r`; `loaded` says that it holds the design already. -/
def State.startReloc (s : State) (d r : Nat) (o : SprOp) : State :=
  let s1 := s.setOps (s.spr.ops ++ [o])
  if o.stage = 0 then s1.setTinState (s.tinOf d 12) tsLoading else s1

/-- The tin of role 12 is LOADED for role `r`. -/
def State.loadedFor (s : State) (d r : Nat) : Bool :=
  let t := s.tinOf d 12
  s.tinState t == tsLoaded && (s.tin t).design == some r

/-- A tin that the spare manager may relocate by itself. -/
def State.mayAuto (s : State) (t : Nat) : Bool :=
  let d := t / 13
  let r := s.roleOf t
  r != 12 && s.tinDue t && s.tinState t == tsInService && !(s.tin t).isBlank && s.hasKept d r && (s.roleOp d r).isNone &&
    decide (Tab.get 0 s.spr.aborts (13 * d + r) < 3) && !s.spr.retry.contains (13 * d + r) && !s.dbgFrozen d r

/-- The due tin of die `d` that comes first: the one due longest, ties to the lower tin (R592). -/
def State.nextDue (s : State) (d : Nat) : Option Nat :=
  ((List.range 13).map (fun i => 13 * d + i)).foldl (fun best t =>
    if !s.mayAuto t then best
    else match best with
      | none => some t
      | some b => if (s.tin t).dueOrder < (s.tin b).dueOrder then some t else some b) none

/-- The spare manager works under its policy: RUN, a committed image, no halt (R434, R571, R634). -/
def State.sprActive (s : State) : Bool := s.running && s.fget PTM_PSTATE.state == 0 && !s.halted && !s.fbit PTM_PSTATE.entering

/-- `AUTO_RELOCATION_START` (R571, R592). -/
def execAutoRelocationStart (d : DieIx) (s : State) : Out :=
  if s.sprActive && s.fbit SPR_POLICY.tin_auto && s.spareAvail d.val then
    match s.nextDue d.val with
    | none => .next s
    | some t => .next (s.startReloc d.val (s.roleOf t) { SprOp.new .relocate d.val (s.roleOf t) with auto_ := true })
  else .next s

/-- `RELOCATION_RETRY` (R576): one second after an automatic abort; a target still LOADED from the kept copy is used as it stands. -/
def execRelocationRetry (d : DieIx) (r : Fin 12) (s : State) : Out :=
  let k := 13 * d.val + r.val
  if s.spr.retry.contains k && s.sprActive && s.fbit SPR_POLICY.tin_auto && s.tinState (s.tinOf d.val r.val) == tsInService &&
      (s.spareAvail d.val || s.loadedFor d.val r.val) && (s.roleOp d.val r.val).isNone && s.hasKept d.val r.val then
    let s1 := { s with spr := { s.spr with retry := s.spr.retry.filter (· != k) } }
    .next (s1.startReloc d.val r.val { SprOp.new .relocate d.val r.val with
      auto_ := true, stage := b2n (s.loadedFor d.val r.val) })
  else .next s

/-- T has passed when the operation is ready to freeze, and `late_ok` is 0 (R581). -/
def State.tooLate (s : State) (o : SprOp) : Bool := match o.at_ with | some t => decide (t < s.now) && !o.lateOk | none => false

/-- The operation `r` of die `d` of a kind at a stage. -/
def State.opAt (s : State) (d r : Nat) (kind : SprKind) (stage : Nat) : Option SprOp :=
  s.spr.ops.find? (fun o => o.die == d && o.role == r && o.kind == kind && o.stage == stage && !s.halted)

/-- A source whose held read became proof-lost ends its relocation or swap (R575). -/
def State.lostSource (s : State) (o : SprOp) : Bool := (s.tin (s.tinOf o.die o.role)).restart

/-- `TARGET_LOADED` (R572, R575): `ok` says that the kept copy read clean and the target took it. -/
def execTargetLoaded (d : DieIx) (r : Fin 12) (ok : Bool) (s : State) : Out :=
  match s.opAt d.val r.val .relocate 0 with
  | none => .next s
  | some o =>
    let t := s.tinOf d.val 12
    let s0 := s.clearOut
    match s.keptOf d.val r.val with
    | none => .next (s0.abortOp o 0x10)
    | some c =>
      if !ok then .next (s0.abortOp o 0x10)
      else
        let s1 := s0.loadCopy t c
        let s2 := (s1.setTin t { s1.tin t with design := some r.val, partialImg := false }).setTinState t tsLoaded
        .next (if s.tooLate o then s2.abortOp { o with stage := 1 } 0x60 else s2.setOp d.val r.val { o with stage := 1 })

/-- The inbound ports of the source stall and no hold starts a new t1; the tin enters FROZEN. -/
def State.freezeTin (s : State) (t : Nat) : State := (s.setTin t { (s.tin t).askStall with frozen := true }).setTinState t tsFrozen

/-- `RELOCATION_FREEZE` (R572): tf. -/
def execRelocationFreeze (d : DieIx) (r : Fin 12) (s : State) : Out :=
  match s.opAt d.val r.val .relocate 1 with
  | none => .next s
  | some o =>
    if (match o.at_ with | some t => decide (s.now < t) | none => false) then .next s
    else if s.lostSource o then .next (s.clearOut.abortOp o 0x52)
    else .next ((s.freezeTin (s.tinOf d.val r.val)).setOp d.val r.val { o with stage := 2, tf := s.now })

/-- `SOURCE_QUIESCENT` (R91, R381, R572). -/
def execSourceQuiescent (d : DieIx) (r : Fin 12) (s : State) : Out :=
  match s.opAt d.val r.val .relocate 2 with
  | none => .next s
  | some o =>
    let x := s.tin (s.tinOf d.val r.val)
    if s.lostSource o then .next (s.clearOut.abortOp o 0x52)
    else if x.portsSettled && x.quiescent then .next (s.setOp d.val r.val { o with stage := 3 }) else .next s

/-- `QUIESCENCE_TIMEOUT` (R575): 8 µs after tf the source is not quiescent; a swap's tin still awaits a proof 2 µs after T. -/
def execQuiescenceTimeout (d : DieIx) (r : Fin 12) (s : State) : Out :=
  let go := fun (o : SprOp) => s.clearOut.abortOp o (if s.lostSource o then 0x52 else 0x20)
  match s.opAt d.val r.val .relocate 2 with
  | some o => .next (go o)
  | none =>
    match s.opAt d.val r.val .swap 2 with
    | some o => if o.mask ≠ 0 ∧ (s.tin (s.tinOf d.val r.val)).reads ≠ [] then .next (go o) else .next s
    | none => .next s

/-- What a pantry keeps of its own silicon when its content comes from another tin. -/
def Pantry.onto (v own : Pantry) : Pantry :=
  { v with remap := own.remap, spareUsed := own.spareUsed, noSpare := own.noSpare, hardFailed := own.hardFailed, unusable := own.unusable }

/-- The state of the source in the target (R573): holds, pantries and mixers in use, and the crust record. -/
def Tin.moveState (src tgt : Tin) : Tin :=
  let used := src.usedBlocks
  let base := tgt.release
  { base with
      holds := src.holds, ports := src.ports, reads := src.reads, seq := src.seq, nocGate := src.nocGate, nocIn := src.nocIn,
      pantries := (List.range 96).foldl (fun t p => if used.contains (.pantry p) then Tab.put .blank t p ((src.pantry p).onto (tgt.pantry p)) else t) base.pantries,
      mixers := (List.range 64).foldl (fun t q => if mixPorts (src.mixerCtl q) ≠ 0 then Tab.put .released t q (src.mixer q) else t) [],
      released := false, frozen := true }

/-- `STATE_TRANSFER_DONE` (R572, R573): `ok` is false when a block fails its check twice. -/
def execStateTransferDone (d : DieIx) (r : Fin 12) (ok : Bool) (s : State) : Out :=
  match s.opAt d.val r.val .relocate 3 with
  | none => .next s
  | some o =>
    let t := s.tinOf d.val 12
    if s.lostSource o then .next (s.clearOut.abortOp o 0x52)
    else if !ok then .next (s.clearOut.abortOp o 0x30)
    else .next ((s.setTin t ((s.tin (s.tinOf d.val r.val)).moveState (s.tin t))).setOp d.val r.val { o with stage := 4 })

/-- The connections of a role on their channels armed afresh, each token still in flight re-sent (R144, R572). -/
def State.rearmRole (s : State) (d r : Nat) : State :=
  (s.roleEntries d r).foldl (fun a x => a.setConn d x.1 { a.conn d x.1 with ch := (a.conn d x.1).ch.rearm }) s

/-- The kept copy that came with a waiting design becomes the role's. -/
def State.adoptCopy (s : State) (d r : Nat) : State :=
  let c := Tab.get none s.spr.waitCopy (13 * d + r)
  { s with kept := Tab.put none s.kept (13 * d + r) c, spr := { s.spr with waitCopy := Tab.put none s.spr.waitCopy (13 * d + r) none } }

/-- `TIN_RELOCATED` (R572, R574, R576): the tins exchange roles and the target is released; the source is tested, or retired. -/
def execTinRelocated (d : DieIx) (r : Fin 12) (s : State) : Out :=
  match s.opAt d.val r.val .relocate 4 with
  | none => .next s
  | some o =>
    let src := s.tinOf d.val r.val
    let tgt := s.tinOf d.val 12
    let s0 := s.clearOut
    if s.lostSource o then .next (s0.abortOp o 0x52)
    else
      let x := s0.tin tgt
      let part := x.partialImg
      let s1 := ((s0.exchange d.val r.val 12).fset (TIN_STAT.epoch tgt) (s.fget (TIN_STAT.epoch src))).rearmRole d.val r.val
      let s2 := (s1.setTin tgt { x.unstall with frozen := false, released := true, design := none, partialImg := false, designRing := [] }.settle).setTinState tgt tsInService
      let s3 := if part then s2.adoptCopy d.val r.val else s2
      let s4 := { (s3.dropOp d.val r.val) with spr := { (s3.dropOp d.val r.val).spr with aborts := Tab.put 0 s3.spr.aborts (13 * d.val + r.val) 0 } }
      let s5 := if o.retire then s4.retireTin src else s4.testSpare d.val
      let st := if s5.anyFolded d.val (s5.roleEntries d.val r.val) then stDegraded else stDone
      .next ((s5.tinPost tgt 0x0B00 2).finishWait (.role d.val r.val) st 0 (s.opResult o))

/-! ### Hitless swap (R577–R579) -/

/-- The tokens an outbound port holds that have not begun their handshake on the ring are discarded and counted; so are requests held
at the NoC gate. -/
def Tin.discardOut (x : Tin) : Tin :=
  let outs := x.usedPorts.filter (fun p => p % 2 == 1)
  let n := (outs.map (fun p => (x.port p).gate.length + b2n (x.port p).offer.isSome)).sum + (x.nocGate.map (fun g => g.1.units + 1)).sum
  let y := outs.foldl (fun y p => y.setPort p { y.port p with gate := [], offer := none }) x
  { y with nocGate := [], drain := satAdd 32 x.drain n }

/-- `SWAP_TIME` (R577): time T. -/
def execSwapTime (d : DieIx) (r : Fin 12) (s : State) : Out :=
  match s.opAt d.val r.val .swap 1 with
  | none => .next s
  | some o =>
    if (match o.at_ with | some t => decide (s.now < t) | none => false) then .next s
    else if s.lostSource o then .next (s.clearOut.abortOp o 0x52)
    else
      let t := s.tinOf d.val r.val
      let s1 := s.freezeTin t
      .next ((s1.setTin t (s1.tin t).discardOut).setOp d.val r.val { o with stage := 2, tf := s.now })

/-- `TIN_SWAPPED` (R577, R578). -/
def execTinSwapped (d : DieIx) (r : Fin 12) (s : State) : Out :=
  match s.opAt d.val r.val .swap 2 with
  | none => .next s
  | some o =>
    let old := s.tinOf d.val r.val
    let new := s.tinOf d.val 12
    let x := s.tin old
    let s0 := s.clearOut
    if s.lostSource o then .next (s0.abortOp o 0x52)
    else if !x.portsSettled || (o.mask != 0 && !x.reads.isEmpty) then .next s
    else
      let s1 := (s0.exchange d.val r.val 12).replaceEntries d.val r.val (s.tin new).designRing
      let s2 := (s1.newEpoch d.val r.val).releaseTin new
      let y := s2.tin new
      let z := { y with pantries := (List.range 96).foldl (fun t p => if bit o.mask p then Tab.put .blank t p ((x.pantry p).onto (y.pantry p)) else t) y.pantries }
      let s3 := ((s2.setTin new z.settle).setTinState new tsInService).adoptCopy d.val r.val
      let s4 := (s3.dropOp d.val r.val).testSpare d.val
      let st := if s4.anyFolded d.val (s4.roleEntries d.val r.val) then stDegraded else stDone
      .next ((s4.tinPost new 0x0B01 0).finishWait (.role d.val r.val) st 0 (s.opResult o))

/-! ### Restarts (R584–R586) -/

/-- A debug freeze of the role ends (R746). -/
def State.endFreeze (s : State) (d r : Nat) : State := if s.dbgFrozen d r then s.releaseRole d r else s

/-- A role's tin has had a rail fault, or holds a proof-lost read: what it was in the middle of ends, and the restart begins. -/
def State.beginRestart (s : State) (d r : Nat) (proof : Bool) : State :=
  let t := s.tinOf d r
  let s0 := (match s.roleOp d r with | some o => if o.kind = SprKind.restart then s.dropOp d r else s.abortOp o (if proof then 0x52 else 0x50) | none => s).endFreeze d r
  let o := SprOp.new .restart d r
  if !proof ∧ 2 ≤ s0.fget (TIN_STAT.faults t) ∧ s0.spareAvail d = false then (s0.retireTin t).tinPost t 0x0B07 4
  else if !s0.hasKept d r then (if !proof ∧ 2 ≤ s0.fget (TIN_STAT.faults t) then (s0.retireTin t).tinPost t 0x0B07 4 else s0.stopRole d r)
  else if proof then (s0.setTinState t tsLoading).setOps (s0.spr.ops ++ [{ o with inPlace := true, stage := 1 }])
  else if s0.spareAvail d then
    ((s0.setTinState (s0.tinOf d 12) tsLoading).setTinState t tsStopped).setOps (s0.spr.ops ++ [{ o with retire := decide (2 ≤ s0.fget (TIN_STAT.faults t)), stage := 1 }])
  else (s0.setTinState t tsTesting).setOps (s0.spr.ops ++ [{ o with inPlace := true }])

/-- The role comes back under a new epoch from its kept copy in tin `t`. -/
def State.restartOn (s : State) (d r t : Nat) (c : KeptCopy) : State :=
  ((((s.loadCopy t c).newEpoch d r).releaseTin t).setTinState t tsInService).tinPost t 0x0B05 3

/-- `TIN_RESTARTED` (R584, R585): `ok` says that the kept copy read clean. -/
def execTinRestarted (d : DieIx) (r : Fin 12) (ok : Bool) (s : State) : Out :=
  let t := s.tinOf d.val r.val
  let s0 := s.clearOut
  let s1 := if (s.tin t).restart && (s.opAt d.val r.val .restart 1).isNone && !s.halted then s0.beginRestart d.val r.val true else s0
  match s1.opAt d.val r.val .restart 1 with
  | none => .next (if (s.tin t).restart && !s.halted then s1 else s)
  | some o =>
    let s2 := s1.dropOp d.val r.val
    match (if ok then s2.keptOf d.val r.val else none) with
    | none => .next ((if o.inPlace then s2 else s2.testSpare d.val).stopRole d.val r.val)
    | some c =>
      if o.inPlace then .next (s2.restartOn d.val r.val t c)
      else
        let new := s2.tinOf d.val 12
        let s3 := (s2.exchange d.val r.val 12).restartOn d.val r.val new c
        .next (if o.retire then s3.retireTin t else s3.testSpare d.val)

/-! ### Return tests (R568, R587, R588) -/

/-- A tin that has passed: blank and, holding role 12, SPARE again with its records cleared (R125, R587). -/
def State.readmit (s : State) (t : Nat) : State :=
  let c := s.dueCauses t
  let s1 := ((((s.fset (TIN_WEAR.due t) 0).fset (TIN_WEAR.eol t) 0).fset (TIN_WEAR.cause t) 0).fset (TIN_WEAR.count t) 0).fset (TIN_STAT.knead_due t) 0
  s1.setTin t { (s1.tin t).wipe with returnedFor := (s1.tin t).returnedFor ++ c.filter (fun x => !(s1.tin t).returnedFor.contains x), dueOrder := 0 }

/-- `RETURN_TEST_DONE`: `pass` is what steps 2–4 of R587 found. -/
def execReturnTestDone (t : TinIx) (pass : Bool) (s : State) : Out :=
  let d := t.val / 13
  let r := s.roleOf t.val
  let x := s.tin t.val
  let good := pass && !x.unhealthy
  let s0 := s.clearOut
  if s.tinState t.val ≠ tsTesting ∨ s.halted then .next s
  else if !s.cfg.ready then
    .next (if good then (s0.wipeTin t.val).setTinState t.val tsInService else s0.retireTin t.val)
  else if r = 12 then
    if good ∧ !(s.dueCauses t.val).any (fun c => x.returnedFor.contains c) then
      .next ((((s0.readmit t.val).setTinState t.val tsSpare).fset (TIN_STAT.returned t.val) 1).tinPost t.val 0x0B02 0)
    else .next (s0.retireTin t.val)
  else
    match s.opAt d r .restart 0 with
    | none => .next s
    | some o =>
      if good then .next (((s0.wipeTin t.val).setTinState t.val tsLoading).setOp d r { o with stage := 1 })
      else .next ((((s0.dropOp d r).retireTin t.val).tinPost t.val 0x0B07 4))

/-! ### Retirement of DRAM channels ends (R336, R337) -/

/-- `DRAM_EVACUATED` (R336): the channel is RETIRED, a reroute step installs the remap, the command that asked for it ends, and a
channel that became due meanwhile is retired in turn (R337). -/
def execDramEvacuated (s : State) : Out :=
  match s.dram.evac with
  | some (c, i) =>
    if s.chState c = 5 ∧ s.usableLines ≤ i ∧ s.halted = false then
      let s1 := (((s.clearOut.setChState c 6).rerouteStep).chPost c 0x0503 2).finishWait (.channel c) stDone 0 0
      .next ((List.range 16).foldl (fun a k => a.dueChannel k) s1)
    else .next s
  | none => .next s

/-! ### Kneaders (R593–R596) -/

def State.knd (s : State) (d : Nat) : Knd := Tab.get .fresh s.spr.knd d
def State.setKnd (s : State) (d : Nat) (v : Knd) : State := { s with spr := { s.spr with knd := Tab.put .fresh s.spr.knd d v } }

/-- Whether scrubbing runs on die `d`. -/
def State.scrubs (s : State) (d : Nat) : Bool :=
  s.fget (DIE_STAT.state d) == 2 && decide (s.fget PTM_PSTATE.state ≤ 1) && !((s.knd d).deadA && (s.knd d).deadB) && !s.halted

/-- A tin switched off in DOZE (R633). -/
def State.dozeOff (s : State) (t : Nat) : Bool :=
  s.fget PTM_PSTATE.state == 1 && (s.tinState t == tsSpare || s.tinState t == tsRetired || (s.tin t).isBlank)

/-- Whether the kneaders read the tin (R593). -/
def State.kneaded (s : State) (t : Nat) : Bool := s.tinState t != tsLoading && s.tinState t != tsRetired && !s.dozeOff t

/-- A correction enters the hot-frame record: 16 frames, the least recently corrected one replaced (R594). -/
def hotRecord (l : List (Nat × Nat × Nat)) (f : Nat) : List (Nat × Nat × Nat) :=
  match l.find? (fun e => e.1 == f) with
  | some e => l.filter (fun x => x.1 != f) ++ [(f, e.2.1 + 1, e.2.2)]
  | none => (if l.length < 16 then l else l.drop 1) ++ [(f, 1, 0)]

/-- The kneaders make a tin due (R594). -/
def State.kneadDue (s : State) (t : Nat) : State :=
  if s.fbit (TIN_STAT.knead_due t) then s
  else
    let s1 := (s.fset (TIN_STAT.knead_due t) 1).tinPost t 0x0B08 2
    if s.fbit (TIN_WEAR.due t) then s1 else s1.becameDue t (s.fget (TIN_WEAR.norm_rate t))

/-- The last frame a pass reads: the last one of the highest physical tin it reads. -/
def State.passEnd (s : State) (t f : Nat) : Bool :=
  f == 0x9FFF && (List.range 13).all (fun i => i ≤ t % 13 || !s.kneaded (13 * (t / 13) + i))

/-- A frame of a tin replaced. -/
def Tin.setFrame (x : Tin) (f : Nat) (w : Frame) : Tin := { x with frames := Tab.put 0 x.frames f w }

/-- A frame with two erroneous symbols (R593): rewritten from the copy of the design the tin holds, else the role stops. -/
def State.frameLost (s : State) (t f : Nat) : State :=
  let d := t / 13
  let r := s.roleOf t
  let x := s.tin t
  let copy := if r = 12 then (match x.design with | some k => if x.partialImg then Tab.get none s.spr.waitCopy (13 * d + k) else s.keptOf d k | none => none)
    else s.keptOf d r
  let s1 := s.fsat (KND_CORR.restored d) 1
  if x.isBlank then (s1.setTin t (x.setFrame f 0)).tinPost t 0x0B0A 3 f
  else
    match copy with
    | some c => (s1.setTin t (x.setFrame f (Tab.get 0 c.frames f))).tinPost t 0x0B0A 3 f
    | none => if r = 12 then (s1.tinPost t 0x0B0B 4 f).testSpare d else (s1.tinPost t 0x0B0B 4 f).stopRole d r

/-- `KNEADER_FRAME_READ` (R593): what the check of the frame found. -/
def execKneaderFrameRead (t : TinIx) (f : Fin 40960) (err : MemErr) (s : State) : Out :=
  let d := t.val / 13
  let x := s.tin t.val
  let skip := x.released && decide (0x8000 ≤ f.val) && decide (f.val < 0x9B00)
  if !s.scrubs d || !s.kneaded t.val then .next s
  else
    let mark := fun (a : State) => (a.fset (KND_LAST.tin d) (t.val % 13)).fset (KND_LAST.frame d) f.val
    let s1 := if skip then s else
      match err with
      | .clean => s
      | .uncorr => mark (s.frameLost t.val f.val)
      | e =>
        let a := mark ((s.fsat (KND_CORR.corr d) 1).setTin t.val { x with hot := hotRecord x.hot f.val })
        if e = .persistent then a.kneadDue t.val else a
    .next (if s.passEnd t.val f.val then s1.fset (KND_STAT.passes d) (s1.fget (KND_STAT.passes d) + 1) else s1)

/-- `HOT_FRAME_INTERVAL` (R594): 3,600 s of the tin have passed; a frame corrected more than 16 times scores. -/
def execHotFrameInterval (t : TinIx) (s : State) : Out :=
  let x := s.tin t.val
  let l := x.hot.map (fun e => (e.1, 0, e.2.2 + b2n (decide (16 < e.2.1))))
  if !x.released || s.halted then .next s
  else
    let s1 := s.setTin t.val { x with hot := l }
    .next (if l.any (fun e => decide (2 ≤ e.2.2)) then s1.kneadDue t.val else s1)

/-- `KNEADER_HEARTBEAT` (R595, R596): which heartbeats came, whether the pass signatures agree, and what the self-tests would find. -/
def execKneaderHeartbeat (d : DieIx) (beatA beatB sigOk okA okB : Bool) (s : State) : Out :=
  let k := s.knd d.val
  let a := if beatA then 0 else k.missA + 1
  let b := if beatB then 0 else k.missB + 1
  if !s.scrubs d.val || k.deadA || k.deadB then .next s
  else if sigOk ∧ a < 2 ∧ b < 2 then .next (s.setKnd d.val { k with missA := a, missB := b })
  else
    let l := (s.now :: k.restarts).filter (fun t => s.now < t + oneSecond)
    let s1 := (s.fsat (KND_STAT.restarts d.val) 1).post 0x0B0C 1 (some d.val) 0
    if l.length < 3 then .next (s1.setKnd d.val { k with missA := 0, missB := 0, restarts := l })
    else
      let k1 := { k with missA := 0, missB := 0, restarts := [], deadA := !okA, deadB := !okB }
      let s2 := s1.setKnd d.val k1
      if okA ∧ okB then .next s2
      else
        let s3 := (s2.fset (KND_STAT.checker d.val) 0).fset (KND_STAT.active d.val) (if okA then 0 else if okB then 1 else s2.fget (KND_STAT.active d.val))
        if okA ∨ okB then .next (s3.post 0x0B0D 2 (some d.val) (b2n okA))
        else .next (s3.post 0x0B0E 4 (some d.val) 0)

end Sys2Proof.Machine
end

