-- ==== Sys2Proof/Machine/SprCmd.lean ====
section
/-! DEFINITION. The management commands of the spare manager (R580–R583). -/

namespace Sys2Proof.Machine

/-! ### Operands (R580) -/

def Desc.die (d : Desc) : Nat := bits (Desc.w1 d) 0 3
def Desc.role (d : Desc) : Nat := bits (Desc.w1 d) 3 4
def Desc.timed (d : Desc) : Bool := bit (Desc.w1 d) 8
def Desc.lateOk (d : Desc) : Bool := bit (Desc.w1 d) 9

/-- T in 2^-40 ns: seconds in `addr_a`, nanoseconds in `addr_b` [29:0]. -/
def Desc.time (d : Desc) : Nat := (Desc.addrA d * 1000000000 + bits (Desc.addrB d) 0 30) * 2 ^ 40

/-- The carried pantry mask. -/
def Desc.mask (d : Desc) : Nat := bits (Desc.addrB d) 32 32 + Desc.len d * 2 ^ 32 + Desc.w7 d * 2 ^ 64

/-- Seconds and nanoseconds lie in their ranges. -/
def Desc.timeOk (d : Desc) : Bool := decide (Desc.addrA d < 2 ^ 48) && decide (bits (Desc.addrB d) 0 30 < 1000000000) && bits (Desc.addrB d) 30 2 == 0

/-- T lies no more than 60 s ahead (R581). -/
def State.timeNear (s : State) (d : Desc) : Bool := decide (Desc.time d ≤ s.now + 60 * oneSecond)

/-! ### RELOCATE_TIN and SWAP_AT (R572, R577, R581, R582) -/

def relocFields (d : Desc) : Bool :=
  Desc.clear d true true false false && Desc.w1 d < 1024 && Desc.role d ≤ 11 &&
    (if Desc.timed d then Desc.timeOk d && bits (Desc.addrB d) 32 32 == 0 else Desc.addrA d == 0 && Desc.addrB d == 0 && !Desc.lateOk d)

/-- The role's tin runs no design that an operation could move (R582, 0x0001). -/
def State.roleIdle (s : State) (d r : Nat) : Bool := s.tinState (s.tinOf d r) == tsStopped || (s.tin (s.tinOf d r)).isBlank

/-- The role is held by another happening. -/
def State.roleBusy (s : State) (d r : Nat) : Bool :=
  (s.roleOp d r).isSome || s.dbgFrozen d r || s.tinState (s.tinOf d r) != tsInService

/-- The outcome of R582 for `RELOCATE_TIN`: status, detail; none to go on. -/
def State.relocStop (s : State) (d r : Nat) (src : Bool) : Option (Nat × Nat) :=
  let st := s.tinState (s.tinOf d 12)
  if s.roleIdle d r then some (stWrongState, 1)
  else if !src && !s.hasKept d r then some (stWrongState, 2)
  else if src && !s.loadedFor d r then some (stWrongState, 3)
  else if s.roleBusy d r || st == tsLoading || st == tsTesting || (st == tsLoaded && !(s.loadedFor d r && (src || !(s.tin (s.tinOf d 12)).partialImg)))
    then some (stBusy, 0)
  else if st = tsRetired then some (stNoSpare, 0)
  else none

/-- `RELOCATE_TIN` (R572). -/
def execRelocateTin (q : QueueIx) (s : State) : Out :=
  .next (s.command q.val 0x51 (fun d => relocFields d && (!Desc.timed d || s.timeNear d)) (fun a k j =>
    let d := Desc.die j.desc
    let r := Desc.role j.desc
    let src := bit (Desc.w1 j.desc) 7
    match a.relocStop d r src with
    | some (st, detail) => a.endJob q.val k st detail 0
    | none =>
      let o := { SprOp.new .relocate d r with
        at_ := if Desc.timed j.desc then some (Desc.time j.desc) else none, lateOk := Desc.lateOk j.desc, stage := b2n src }
      if src ∧ a.tooLate o then a.endJob q.val k stAborted 0x0360 0
      else (a.mgmtWait q.val k j (.role d r)).startReloc d r o))

def swapFields (d : Desc) : Bool :=
  Desc.clear d true true true true && Desc.w1 d < 2048 && Desc.role d ≤ 11 && !bit (Desc.w1 d) 7 && bit (Desc.w1 d) 8

/-- Every carried pantry has the same `org` and `fifo` in the role's design and in the waiting one (R579). -/
def State.carriedOk (s : State) (d r mask : Nat) : Bool :=
  !s.loadedFor d r || (List.range 96).all (fun p =>
    !bit mask p ||
      (pantryOrg ((s.tin (s.tinOf d r)).pantryCtl p) == pantryOrg ((s.tin (s.tinOf d 12)).pantryCtl p) &&
       pantryFifo ((s.tin (s.tinOf d r)).pantryCtl p) == pantryFifo ((s.tin (s.tinOf d 12)).pantryCtl p)))

def State.swapStop (s : State) (d r : Nat) : Option (Nat × Nat) :=
  let st := s.tinState (s.tinOf d 12)
  if s.roleIdle d r then some (stWrongState, 1)
  else if !(s.loadedFor d r && (s.tin (s.tinOf d 12)).partialImg) then some (stWrongState, 3)
  else if s.roleBusy d r then some (stBusy, 0)
  else if st = tsRetired then some (stNoSpare, 0)
  else none

/-- `SWAP_AT` (R577): a descriptor with `cancel` 0. -/
def execSwapAt (q : QueueIx) (s : State) : Out :=
  match s.mgmtJob q.val 0x52 with
  | none => .next s
  | some (_, j0) =>
    if bit (Desc.w1 j0.desc) 10 then .next s
    else .next (s.command q.val 0x52
      (fun d => swapFields d && Desc.timeOk d && s.timeNear d && s.carriedOk (Desc.die d) (Desc.role d) (Desc.mask d)) (fun a k j =>
        let d := Desc.die j.desc
        let r := Desc.role j.desc
        match a.swapStop d r with
        | some (st, detail) => a.endJob q.val k st detail 0
        | none =>
          let o := { SprOp.new .swap d r with at_ := some (Desc.time j.desc), lateOk := Desc.lateOk j.desc, mask := Desc.mask j.desc, stage := 1 }
          if a.tooLate o then a.endJob q.val k stAborted 0x0360 0
          else (a.mgmtWait q.val k j (.role d r)).setOps (a.spr.ops ++ [o])))

/-- `SWAP_CANCEL` (R581): a descriptor with `cancel` 1. -/
def execSwapCancel (q : QueueIx) (s : State) : Out :=
  match s.mgmtJob q.val 0x52 with
  | none => .next s
  | some (_, j0) =>
    if !bit (Desc.w1 j0.desc) 10 then .next s
    else .next (s.command q.val 0x52
      (fun d => swapFields d && !Desc.lateOk d && Desc.clear d false false false false) (fun a k j =>
        let d := Desc.die j.desc
        let r := Desc.role j.desc
        match a.spr.ops.find? (fun o => o.die == d && o.role == r && o.at_.isSome && decide (o.stage ≤ 1)) with
        | none => a.endJob q.val k stWrongState 4 0
        | some o => (a.endJob q.val k stDone 0 0).abortOp o 0x61))

/-! ### SPARE_POLICY (R571) -/

/-- `SPARE_POLICY`: channels already due are retired when `mem_auto` becomes 1. -/
def execSparePolicy (q : QueueIx) (s : State) : Out :=
  .next (s.command q.val 0x53 (fun d => Desc.clear d false false false false && Desc.w1 d < 4) (fun a k j =>
    let s1 := (a.fset SPR_POLICY.tin_auto (bits (Desc.w1 j.desc) 0 1)).fset SPR_POLICY.mem_auto (bits (Desc.w1 j.desc) 1 1)
    ((List.range 16).foldl (fun b c => b.dueChannel c) s1).endJob q.val k stDone 0 0))

/-! ### RETIRE_UNIT (R580, R582, R583) -/

def Desc.kind (d : Desc) : Nat := bits (Desc.w1 d) 0 4
def Desc.retDie (d : Desc) : Nat := bits (Desc.w1 d) 4 4
def Desc.unit (d : Desc) : Nat := bits (Desc.w1 d) 8 4

/-- The fields of a `RETIRE_UNIT` of a kind with units below `units` on `dies` dies. -/
def retireFields (dies units : Nat) (d : Desc) : Bool :=
  Desc.clear d false false false false && Desc.w1 d < 4096 && Desc.retDie d < dies && Desc.unit d < units

/-- A `RETIRE_UNIT` of the kinds `kinds`. -/
def State.retireUnit (s : State) (q : Nat) (kinds : Nat → Bool) (fields : Desc → Bool) (go : State → Nat → Job → State) : State :=
  match s.mgmtJob q 0x54 with
  | none => s
  | some (_, j) => if kinds (Desc.kind j.desc) then s.command q 0x54 fields go else s

/-- A tin moves its role to the SPARE tin of its die and enters RETIRED. -/
def State.retireSwap (s : State) (d r : Nat) : State :=
  let t := s.tinOf d r
  let n := s.tinOf d 12
  (((s.exchange d r 12).fset (TIN_STAT.epoch n) (s.fget (TIN_STAT.epoch t))).setTinState n tsInService).retireTin t

/-- `RETIRE_TIN`: kind 0; the reserved kinds end here too. -/
def execRetireTin (q : QueueIx) (s : State) : Out :=
  .next (s.retireUnit q.val (fun k => k == 0 || decide (5 ≤ k)) (fun d => retireFields 8 13 d && Desc.kind d == 0) (fun a k j =>
    let d := Desc.retDie j.desc
    let t := 13 * d + Desc.unit j.desc
    let r := a.roleOf t
    let st := a.tinState t
    let running := a.running
    let design := !(a.tin t).isBlank
    let sp := a.tinState (a.tinOf d 12)
    let fin := fun (b : State) (x y : Nat) => b.endJob q.val k x y 0
    if st = tsRetired then fin a stDone 0
    else if running && st == tsInService && design && r != 12 && !a.hasKept d r then fin a stWrongState 2
    else if st = tsLoading ∨ st = tsLoaded ∨ st = tsFrozen ∨ st = tsTesting ∨ (a.roleOp d r).isSome = true ∨ a.dbgFrozen d r = true then fin a stBusy 0
    else if r = 12 then fin (a.retireTin t) stDone 0
    else if running && (sp == tsLoading || sp == tsLoaded || sp == tsTesting) then fin a stBusy 0
    else if running && sp == tsRetired then fin a stNoSpare 0
    else if running && st == tsInService && design then
      (a.mgmtWait q.val k j (.role d r)).startReloc d r { SprOp.new .relocate d r with retire := true }
    else if sp = tsSpare then fin (a.retireSwap d r) stDone 0
    else fin ((a.retireTin t).tinPost t 0x0B07 4) stDone 0))

/-- `RETIRE_CHANNEL`: kind 1 (R334). -/
def execRetireChannel (q : QueueIx) (s : State) : Out :=
  .next (s.retireUnit q.val (· == 1) (retireFields 8 2) (fun a k j =>
    let c := 2 * Desc.retDie j.desc + Desc.unit j.desc
    let st := a.chState c
    if st = 6 ∨ st = 7 then a.endJob q.val k stDone 0 0
    else if st ≠ 3 then a.endJob q.val k stBusy 0 0
    else if !a.reserveFree then a.endJob q.val k stNoSpare 0 0
    else (a.mgmtWait q.val k j (.channel c)).retireChannel c))

/-- `RETIRE_BENCH_LINK`: kind 2 (R293). -/
def execRetireBenchLink (q : QueueIx) (s : State) : Out :=
  .next (s.retireUnit q.val (· == 2) (retireFields 8 4) (fun a k j =>
    let d := Desc.retDie j.desc
    let l := Desc.unit j.desc
    if a.fget (BL_STAT.state d l) = 3 then a.endJob q.val k stDone 0 0
    else if (List.range 4).all (fun i => i == l || a.fget (BL_STAT.state d i) == 3) then a.endJob q.val k stRefused 1 0
    else (a.retireBench d l).endJob q.val k stDone 0 0))

/-- `RETIRE_CORE`: kind 3; `ok4` is what the self-test of `CORE_4` finds when it takes over (R625). -/
def execRetireCore (q : QueueIx) (ok4 : Bool) (s : State) : Out :=
  .next (s.retireUnit q.val (· == 3) (retireFields 1 5) (fun a k j =>
    let c := Desc.unit j.desc
    let used := (List.range 4).any (fun h => a.coreOf h == 4 && a.fget (MGC_CORE_STAT.state h) != 3)
    if a.mgc.failed.contains c then a.endJob q.val k stDone 0 0
    else if c = 4 then
      (if used then a.endJob q.val k stNoSpare 0 0
       else { a with mgc := { a.mgc with failed := 4 :: a.mgc.failed } }.endJob q.val k stDone 0 0)
    else if !a.spareCoreFree then a.endJob q.val k stNoSpare 0 0
    else
      match (List.range 4).find? (fun h => a.coreOf h == c) with
      | none => a.endJob q.val k stDone 0 0
      | some h => (a.failCore h ok4).endJob q.val k stDone 0 0))

/-- `RETIRE_SPINE_ROUTER`: kind 4 (R295). -/
def execRetireSpineRouter (q : QueueIx) (s : State) : Out :=
  .next (s.retireUnit q.val (· == 4) (retireFields 1 13) (fun a k j =>
    let i := Desc.unit j.desc
    if bit (a.fget NOC_SPINE.failed) i then a.endJob q.val k stDone 0 0 else (a.failSpine i).endJob q.val k stDone 0 0))

end Sys2Proof.Machine
end

