-- ==== Sys2Proof/Machine/Dies.lean ====
section
/-! DEFINITION. What takes a fabric die away and brings it back, shared by die resets, power losses and power states (R156, R390–R392,
R568, R638, R646, R677–R682), and the reset of the whole device (R665–R668). -/

namespace Sys2Proof.Machine

/-! ### A die goes away (R156, R646, R677, R680) -/

/-- The user pads of die `d` latch their drive (R646). -/
def State.latchPads (s : State) (d : Nat) : State :=
  let s1 := (List.range 4).foldl (fun a k => a.setPad (4 * d + k) { a.pad (4 * d + k) with latch := some (s.padNormal (4 * d + k)) }) s
  s1.fset PTM_PAD_CTL.latched (setBit (s.fget PTM_PAD_CTL.latched) d true)

/-- The user roles of die `d` that hold a design, one bit each. -/
def State.heldRoles (s : State) (d : Nat) : Nat :=
  ((List.range 12).map (fun r => b2n (!(s.tin (s.tinOf d r)).isBlank && !s.roleLost d r) * 2 ^ r)).sum

/-- The seam ends that face die `d` enter PEER_LOST, where their own die is there (R156). -/
def State.facesLost (s : State) (d : Nat) : State :=
  let s1 := if s.dieUp ((d + 1) % 8) then s.seamPeerLost ((d + 1) % 8) 1 else s
  if s1.dieUp ((d + 7) % 8) then s1.seamPeerLost ((d + 7) % 8) 0 else s1

/-- The operations of the spare manager on die `d` end with reason 0x40 (R597). -/
def State.abortDie (s : State) (d : Nat) : State :=
  let s1 := (s.spr.ops.filter (fun o => o.die == d)).foldl (fun a o =>
    if o.kind = SprKind.restart then a.dropOp o.die o.role else a.abortOp o 0x40) s
  { s1 with spr := { s1.spr with retry := s1.spr.retry.filter (fun k => k / 13 != d) } }

/-- Die `d` goes away in state `st` with its cause: what it was doing ends, its ports stall, its pads latch, its neighbours see it lost,
its lanes take the OFF demand. -/
def State.takeAway (s : State) (d st cause : Nat) : State :=
  let old := Tab.get Away.none_ s.away d
  let held := if s.dieUp d then s.heldRoles d else old.held
  let s1 := (((s.loadDieLost d).abortDie d).latchPads d).facesLost d
  let s2 := (s1.fset (DIE_STAT.state d) st).fset (DIE_STAT.last_cause d) cause
  let s3 := (List.range 13).foldl (fun a i => let x := a.tin (13 * d + i); if x = Tin.blank then a else a.setTin (13 * d + i) x.stallAll) s2
  let s4 := { s3 with
    away := Tab.put Away.none_ s3.away d { old with held := held }
    time := { s3.time with aligned := Tab.put true s3.time.aligned d false } }
  (dieLanes d).foldl (fun a l => a.laneReach l false) s4

/-! ### The channels of a die (R329, R390, R391) -/

/-- Every proof the engine of channel `c` has started completes (R390 step 1). -/
def State.finishProofs (s : State) (c : Nat) : State :=
  let n := (s.chan c).proofs.length
  (List.range n).foldl (fun a i => a.sealedReadProof c (n - 1 - i) true) s

/-- A dirty counter line leaves the cache: it takes a fresh counter, and its parent is updated (R367). -/
def State.writeBack (s : State) (c key : Nat) : State :=
  let l := key / 2 ^ 24 / 128
  let g := key / 2 ^ 24 % 128
  let x := key % 2 ^ 24
  match s.takeCounter c with
  | none => s
  | some (n, s1) =>
    let s2 := if l = 1 then s1 else ((s1.takeCounter c).map (·.2)).getD s1
    let s3 := s2.setCtr l g x n
    if l < 3 then s3.touch touchFuel (l + 1) g (x / 8) true else s3

/-- The dirty lines of level `l` in the cache of channel `c` written back. -/
def State.flushLevel (s : State) (c l : Nat) : State :=
  ((s.chan c).cache.filter (fun e => e.2 && e.1 / 2 ^ 24 / 128 == l)).foldl (fun a e => a.writeBack c e.1) s

/-- Steps 1–3 of R390: proofs complete, every dirty counter line written back, the write clock handed to SEC. -/
def State.sealSave (s : State) (c : Nat) : State :=
  if s.chState c = 3 ∨ s.chState c = 5 then
    let s1 := (((s.finishProofs c).flushLevel c 1).flushLevel c 2).flushLevel c 3
    s1.setChan c { s1.chan c with secKey := (s1.chan c).key, secClock := (s1.chan c).clock, cache := [] }
  else s

/-- The engine of channel `c` has lost its keys and caches; SEC keeps its copies. -/
def State.engineOff (s : State) (c : Nat) : State := s.setChan c { s.chan c with key := 0, clock := 0, cache := [], proofs := [], queue := [] }

/-- A channel of a die in reset: saved, in self-refresh; one that was training or filling starts again at the die's return. -/
def State.channelSave (s : State) (c : Nat) : State :=
  let s1 := ((s.sealSave c).selfRefresh c).engineOff c
  if s1.chState c = 2 then s1.setChState c 1 else s1

/-- The proofs that can no longer complete when die `d` loses power (R392): those of its own engines and the delivered reads whose
counter path has a home on it. -/
def State.dropProofs (s : State) (d : Nat) : State :=
  (List.range 16).foldl (fun a c =>
    let gone := fun (p : Proof) => c / 2 == d || (p.delivered && (linesOf p.req.addr p.req.bytes).any (fun x =>
      [1, 2, 3].any (fun l => s.home l (granOf x) (ancestor l (lineOf x)) / 2 == d)))
    let l := (a.chan c).proofs.filter gone
    let b := a.setChan c { a.chan c with proofs := (a.chan c).proofs.filter (fun p => !gone p) }
    (l.filter (fun p => p.delivered && p.req.src / 256 != d + 1)).foldl (fun x p => x.proofLost c p.req) b) s

/-- A channel whose die has lost power: its content is lost and it is to be filled with stored poison, under fresh keys (R331, R391). -/
def State.channelLost (s : State) (c : Nat) : State :=
  let st := s.chState c
  let s1 := s.engineOff c
  let s2 := if s.lifecycle = 3 then s1 else s1.drawKeys c
  if st = 6 ∨ st = 7 ∨ st = 0 then s2
  else ((s2.setChan c { s2.chan c with fillPoison := true }).setChState c 0).chPost c 0x0504 3

/-! ### The release of a die from reset (R677 t1, R682) -/

/-- The packets inside the routers of die `d` are lost with it. -/
def State.dropFlights (s : State) (d : Nat) : State :=
  let inside := fun (v : Flight) => (List.range v.idx.length).any (fun u => 18 * d ≤ v.locOf u && v.locOf u < 18 * d + 18)
  { s with noc := { s.noc with flights := s.noc.flights.filter (fun v => !inside v) } }

/-- The die's running state is cleared and it takes a new epoch; the wear of its tins, its retirements and what RWS fields hold stay. -/
def State.clearDie (s : State) (d : Nat) : State :=
  let bl := (List.range 4).filter (fun k => s.fget (BL_STAT.state d k) == 3)
  let s1 := (List.range 13).foldl (fun a i => let x := a.tin (13 * d + i); if x = Tin.blank then a else a.setTin (13 * d + i) x.wipe) s
  let s2 := { s1 with
    seamCh := Tab.mapKeys SeamCh.fresh (fun k c => if (seamSender (k / 4096) (k % 4096)).1 = d then { c with tx := none } else c) s1.seamCh
    ring := Tab.drop (fun k => k / 65536 == d) s1.ring
    laneIn := Tab.drop (fun k => k / 256 == d) s1.laneIn
    laneOut := Tab.drop (fun k => k / 256 == d) s1.laneOut
    mac := { ports := Tab.drop (fun k => k / 12 == d) s1.mac.ports, sps := Tab.drop (fun k => k / 8 == d) s1.mac.sps,
             cqs := Tab.drop (fun k => k / 16 == d) s1.mac.cqs, held := Tab.drop (fun k => k == d) s1.mac.held }
    clk := { s1.clk with edges := Tab.drop (fun k => k / 256 == d) s1.clk.edges }
    dbg := { s1.dbg with frozen := s1.dbg.frozen.filter (fun k => k / 13 != d) } }
  let s3 := (s2.dropFlights d).resetRegs scopeDie (inDie d)
  let s4 := bl.foldl (fun a k => a.fset (BL_STAT.state d k) 3) s3
  let s5 := (List.range 13).foldl (fun a i => a.takeEpoch (13 * d + i)) (s4.nextEpoch d)
  s5.fset (DIE_STAT.state d) 4

/-! ### The return of a die (R568, R569, R585, R638, R677) -/

/-- Roles of die `d` assigned (R568): healthy tins in ascending order from role 0, the others from role 12 down. -/
def State.assignRoles (s : State) (d : Nat) : State :=
  let bad := fun (i : Nat) => s.tinState (13 * d + i) == tsRetired
  let l := (List.range 13).filter (fun i => !bad i) ++ ((List.range 13).filter bad).reverse
  { s with roles := Tab.put (List.range 13) s.roles d l }

/-- The user roles of die `d` that RETIRED tins hold. -/
def State.lostRoles (s : State) (d : Nat) : List Nat := (List.range 12).filter (fun r => s.tinState (s.tinOf d r) == tsRetired)

/-- `TIN_ROLE_LOST` for the roles of a list (R569). -/
def State.postLost (s : State) (d : Nat) (l : List Nat) : State := l.foldl (fun a r => a.tinPost (a.tinOf d r) 0x0B07 4) s

/-- Every tin of die `d` that is not RETIRED takes the state its role has at rest. -/
def State.restTins (s : State) (d : Nat) : State :=
  (List.range 13).foldl (fun a r => let t := a.tinOf d r; if a.tinState t = tsRetired then a else a.setTinState t (if r = 12 then tsSpare else tsInService)) s

/-- A role reloaded from its kept copy and released; without one, stopped if it held a design. -/
def State.reloadRole (s : State) (d r held : Nat) : State :=
  let t := s.tinOf d r
  if s.roleLost d r then s
  else
    match s.keptOf d r with
    | some c => ((s.addEntries d c.ring).loadCopy t c).releaseTin t
    | none => if bit held r then s.stopRole d r else s

/-- Die `d` returns: the tins in `bad`, and those whose memories failed their test, are retired, roles are assigned again if any was,
and every role comes back from its kept copy. -/
def State.returnDie (s : State) (d : Nat) (bad : List Nat) : State :=
  let held := (Tab.get Away.none_ s.away d).held
  let lost := s.lostRoles d
  let fails := (List.range 13).filter (fun i => s.tinState (13 * d + i) != tsRetired && (bad.contains i || (s.tin (13 * d + i)).unhealthy))
  let s1 := fails.foldl (fun a i => a.retireTin (13 * d + i)) s
  let s2 := if fails.isEmpty then s1 else s1.assignRoles d
  let s3 := (s2.postLost d ((s2.lostRoles d).filter (fun r => !lost.contains r))).restTins d
  let s4 := match Tab.get none s3.dieCopy d with | some l => s3.addEntries d l | none => s3
  let s5 := (List.range 12).foldl (fun a r => a.reloadRole d r held) (s4.fset (DIE_STAT.state d) 2)
  let s6 := { s5 with away := Tab.put Away.none_ s5.away d .none_ }
  (s6.finishWait (.die d) stDone 0 0).post 0x0E01 0 (some d) d (s6.fget (SPR_EPOCH.epoch d))

/-! ### Resets of the whole device (R650, R665–R668, R796) -/

/-- The fields of a register table that keep their value through `RESET_N` because the inventory records them (R796). -/
def State.keepFld (s old : State) (f : Fld) (p : Nat → Bool) : State := if p (old.fget f) then s.fset f (old.fget f) else s

/-- The retirements the inventory records, put back after a reset of the registers. -/
def State.inventory (s old : State) : State :=
  let s1 := (List.range 104).foldl (fun a t => a.keepFld old (TIN_STAT.state t) (· == tsRetired)) s
  let s2 := (List.range 16).foldl (fun a c => a.keepFld old (MEM_STAT.state c) (· == 6)) s1
  let s3 := (List.range 32).foldl (fun a i => a.keepFld old (BL_STAT.state (i / 4) (i % 4)) (· == 3)) s2
  let s4 := ((s3.fset NOC_SPINE.failed (old.fget NOC_SPINE.failed)).fset NOC_SPINE.spare_used (old.fget NOC_SPINE.spare_used)).fset
    NOC_SPINE.spare_for (old.fget NOC_SPINE.spare_for)
  (List.range 4).foldl (fun a h => (a.keepFld old (MGC_CORE_STAT.core h) (fun _ => true)).keepFld old (MGC_CORE_STAT.state h) (· == 3)) s4

/-- Every die records why it was reset. -/
def State.allCause (s : State) (cause : Nat) : State := (List.range 8).foldl (fun a d => a.fset (DIE_STAT.last_cause d) cause) s

/-- What a tin keeps through a reset of the whole device: its fused baseline, and through `RESET_N` its wear record. -/
def Tin.afterReset (por : Bool) (x : Tin) : Tin :=
  if por then { Tin.blank with fuseBase := x.fuseBase }
  else { Tin.blank with fuseBase := x.fuseBase, returnedFor := x.returnedFor, dueOrder := x.dueOrder }

/-- A power-on reset (`por`) keeps the fuses only; `RESET_N` keeps the breadbox outside its save area, with the wear credit and the
inventory that lie there.  A lane that was STOPPED repeats its self-test before it trains (R466).  What stands outside the device stays: the commands waiting, the levels at the pads, the straps, power-good. -/
def State.hardReset (s : State) (por : Bool) : State :=
  let base : State := { State.reset with
    pending := s.pending
    fuses := s.fuses
    free := s.free
    straps := s.straps
    powerGood := s.powerGood
    pads := Tab.mapVals .fresh (fun p => { Pad.fresh with ext := p.ext }) s.pads
    tins := Tab.mapVals .blank (Tin.afterReset por) s.tins }
  let stopped := (List.range 96).foldl (fun m l =>
    if s.fget (laneState l) = 6 ∨ (s.lane l).wasStopped then Tab.put .fresh m l { LaneSt.fresh with wasStopped := true } else m) []
  if por then { base with lanes := stopped }.allCause 1
  else
    let retired := match s.dram.evac with | some (c, _) => s.chState c == 6 | none => false
    let s1 : State := { base with
      lanes := stopped
      regs := Machine.resetRegs scopeResetN (fun _ => true) s.regs
      breadbox := Tab.drop (fun k => 0x4000 ≤ k && k < 0x6000) s.breadbox
      dueSeq := s.dueSeq
      dram := { base.dram with evac := if retired then s.dram.evac else none, remap := if retired then s.dram.remap else none }
      noc := { base.noc with downLinks := s.noc.downLinks, downSpines := s.noc.downSpines, reroute := s.noc.reroute }
      mgc := { base.mgc with failed := s.mgc.failed }
      ptm := { base.ptm with credit := s.ptm.credit } }
    (s1.inventory s).allCause 2

end Sys2Proof.Machine
end

