-- ==== Sys2Proof/Machine/Reset.lean ====
section
/-! DEFINITION. Resets and start-up: `RESET_UNIT`, the reset and return of a die, power losses, power-on reset, `RESET_N` and the
start-up steps (R665–R686). -/

namespace Sys2Proof.Machine

/-! ### `RESET_UNIT` (R674–R676) -/

def Desc.rstKind (d : Desc) : Nat := bits (Desc.w1 d) 0 4
def Desc.rstDie (d : Desc) : Nat := bits (Desc.w1 d) 4 4
def Desc.rstUnit (d : Desc) : Nat := bits (Desc.w1 d) 8 4

/-- The operands of `RESET_UNIT` (R675). -/
def rstFields (d : Desc) : Bool :=
  Desc.clear d false false false false && decide (Desc.w1 d < 4096) &&
    (match Desc.rstKind d with
     | 0 => decide (Desc.rstDie d < 8 ∧ Desc.rstUnit d < 12)
     | 1 => decide (Desc.rstDie d < 8) && Desc.rstUnit d == 0
     | 2 => Desc.rstDie d == 0 && Desc.rstUnit d == 0
     | 3 => Desc.rstDie d == 0 && decide (Desc.rstUnit d < 4)
     | _ => false)

/-- A `RESET_UNIT` whose kind satisfies `mine`. -/
def State.resetUnit (s : State) (q : Nat) (mine : Nat → Bool) (go : State → Nat → Job → State) : State :=
  match s.mgmtJob q 0x61 with
  | none => s
  | some (_, j) => if mine (Desc.rstKind j.desc) then s.command q 0x61 rstFields go else s

/-- A pantry after a tin reset: a FIFO is emptied; a RAM keeps its rows and their poison (R683). -/
def Pantry.afterTinReset (v : Pantry) (fifo : Bool) : Pantry :=
  { v with wpA := 0, wpB := 0, rpA := 0, rpB := 0, event := 0, ackA := false, ackB := false, outA := .idle, outB := .idle, eventWait := false,
           staleFired := false, rows := if fifo then [] else v.rows, poison := if fifo then [] else v.poison }

/-- The running state of a tin after a tin reset (R683). -/
def Tin.reset (x : Tin) : Tin :=
  { x.release with
      pantries := Tab.mapVals .blank (fun v => v) ((List.range 96).foldl (fun t p =>
        Tab.put .blank t p ((x.pantry p).afterTinReset (pantryFifo (x.pantryCtl p)))) [])
      hot := x.hot }

/-- The registers of physical tin `t`. -/
def inTin (t off : Nat) : Bool := decide (dieBase (t / 13) + 0x10000 + t % 13 * 0x100 ≤ off ∧ off < dieBase (t / 13) + 0x10000 + (t % 13 + 1) * 0x100)

/-- The tin of role `r` of die `d` is reset and runs again under a new epoch (R683). -/
def State.tinReset (s : State) (d r : Nat) : State :=
  let t := s.tinOf d r
  let s1 := (s.setTin t (s.tin t).reset.settle).resetRegs scopeTin (inTin t)
  (s1.newEpoch d r).setTinState t tsInService

/-- `TIN_RESET`: kind 0, and the reserved kinds. -/
def execTinReset (q : QueueIx) (s : State) : Out :=
  .next (s.resetUnit q.val (fun k => k == 0 || 4 ≤ k) (fun s k j =>
    let d := Desc.rstDie j.desc
    let r := Desc.rstUnit j.desc
    let st := s.tinState (s.tinOf d r)
    if (st ≠ tsInService ∧ st ≠ tsStopped) ∨ (s.tin (s.tinOf d r)).isBlank then s.mgmtEnd q.val k stWrongState 1
    else if s.fget (DIE_STAT.state d) ≠ 2 then s.mgmtEnd q.val k stWrongState 2
    else if (s.roleOp d r).isSome then s.mgmtEnd q.val k stBusy 0
    else (s.tinReset d r).endJob q.val k stDone 0 0))

/-- `DIE_RESET`: kind 1; t0 to t0 + 300 µs of R677. -/
def execDieReset (q : QueueIx) (s : State) : Out :=
  .next (s.resetUnit q.val (· == 1) (fun s k j =>
    let d := Desc.rstDie j.desc
    if s.fget (DIE_STAT.state d) ≠ 2 then s.mgmtEnd q.val k stWrongState 2
    else if s.spr.ops.any (fun o => o.die == d) then s.mgmtEnd q.val k stBusy 0
    else
      let s1 := ((s.mgmtWait q.val k j (.die d)).takeAway d 3 3).fsat (DIE_STAT.resets d) 1
      (s1.channelSave (2 * d)).channelSave (2 * d + 1)))

/-- The next epoch of a hub initiator; what it waited for is forgotten, so those responses are late when they come (R289). -/
def State.hubForget (s : State) (n : Nat) : State :=
  let e := (Tab.get 1 s.noc.hubEpoch n + 1) % 2 ^ 16
  { s with noc := { s.noc with
      hubEpoch := Tab.put 1 s.noc.hubEpoch n (if e = 0 then 1 else e)
      out := s.noc.out.filter (fun o => o.src != n)
      quar := s.noc.quar.filter (fun o => o.src != n) } }

/-- The debug block after a hub warm reset: what the TAP's own reset holds stays. -/
def Dbg.warm (v : Dbg) : Dbg := { Dbg.fresh with ir := v.ir, boundary := v.boundary, cells := v.cells, lockout := v.lockout }

/-- The hub warm reset itself (R673 steps 3–5); bit h of `ok` is what the self-test of hart h's core finds. -/
def State.warmReset (s : State) (ok : Nat) (ok4 : Bool) : State :=
  let s0 := if s.fget MGC_BOOT.state = 2 then s.fset MGC_BOOT.state 1 else s
  let s1 := (List.range 4).foldl (fun a h => a.coreReset h (bit ok h) ok4) (s0.setLevel 0)
  let s2 := (s1.resetRegs scopeWarm (fun o => o / 0x10000 != 8)).resetHqe scopeWarm
  (({ s2 with dbg := s2.dbg.warm }.hubForget nodeHqe).hubForget nodeMgc).post 0x0E00 0 none 0

/-- `HUB_WARM_RESET`: kind 2. -/
def execHubWarmReset (q : QueueIx) (ok : Fin 16) (ok4 : Bool) (s : State) : Out :=
  .next (s.resetUnit q.val (· == 2) (fun s k _ => (s.endJob q.val k stDone 0 0).warmReset ok.val ok4))

/-- `CORE_RESET`: kind 3 (R624). -/
def execCoreReset (q : QueueIx) (ok ok4 : Bool) (s : State) : Out :=
  .next (s.resetUnit q.val (· == 3) (fun s k j =>
    let h := Desc.rstUnit j.desc
    if s.fget (MGC_CORE_STAT.state h) = 3 then s.mgmtEnd q.val k stWrongState 3
    else (s.coreReset h ok ok4).endJob q.val k stDone 0 0))

/-! ### The return of a die (R677, R681) -/

/-- `DIE_RESET_RELEASE` (R677 t1, R258): the die's clocks are present. -/
def execDieResetRelease (d : DieIx) (s : State) : Out :=
  if s.fget (DIE_STAT.state d.val) = 3 ∧ Tab.get 0 s.clk.lost d.val = 0 ∧ s.halted = false then .next (s.clearDie d.val) else .next s

/-- `DIE_RETURNED`: `bad` are the tins that fail steps 1–3 of the return test. -/
def execDieReturned (d : DieIx) (bad : List (Fin 13)) (s : State) : Out :=
  if s.fget (DIE_STAT.state d.val) = 4 ∧ s.halted = false ∧ s.ptm.wakeStep = none then .next (s.clearOut.returnDie d.val (bad.map (·.val))) else .next s

/-- A die stays off for good (R681): a command that waits for it ends. -/
def State.dieLost (s : State) (d : Nat) : State :=
  ((s.fset (DIE_STAT.state d) 5).post 0x0E03 4 (some d) d (s.fget (SPR_EPOCH.epoch d))).finishWait (.die d) stAborted 0x0040 0

/-- `DIE_POWER_LOST` (R680): the die whose rails a fault or `THERM_TRIP_N` has shut off. -/
def execDiePowerLost (d : DieIx) (s : State) : Out :=
  let a := Tab.get Away.none_ s.away d.val
  let st := s.fget (DIE_STAT.state d.val)
  if !a.power || st == 0 || st == 5 then .next s
  else
    let trip := s.ptm.tripped.contains d.val
    let s0 := s.clearOut
    let s1 := ((s0.dropProofs d.val).takeAway d.val 0 (if trip then 5 else 4)).fsat (DIE_STAT.power_losses d.val) 1
    let s2 := ((s1.channelLost (2 * d.val)).channelLost (2 * d.val + 1)).post 0x0E02 4 (some d.val) d.val (s1.fget (SPR_EPOCH.epoch d.val))
    let last := Tab.get 0 s.ptm.retryAt d.val
    .next (if trip ∨ (last ≠ 0 ∧ s.now + 1 ≤ last + oneSecond) then s2.dieLost d.val else s2)

/-- A die comes back after a power loss, its channels to be filled with stored poison (R331, R681). -/
def State.powerBack (s : State) (d : Nat) : State :=
  let a := Tab.get Away.none_ s.away d
  let v := s.fget (PTM_FAB_CTL.vset d)
  let s1 := { s.clearDie d with away := Tab.put Away.none_ s.away d { a with power := false }, vgoal := Tab.put 0 s.vgoal d (min v 750) }
  s1.fset (PTM_FAB_STAT.vnow d) (min v 750)

/-- `DIE_POWER_RETRY` (R681): `holds` says whether the rails hold. -/
def execDiePowerRetry (d : DieIx) (holds : Bool) (s : State) : Out :=
  let a := Tab.get Away.none_ s.away d.val
  if s.fget (DIE_STAT.state d.val) ≠ 0 ∨ !a.power ∨ s.ptm.tripped.contains d.val ∨ 2 ≤ s.fget PTM_PSTATE.state ∨ !s.powerGood ∨ s.halted then .next s
  else if holds then
    let s1 := { s with ptm := { s.ptm with retryAt := Tab.put 0 s.ptm.retryAt d.val (s.now + 1) } }
    .next (s1.powerBack d.val)
  else .next (s.clearOut.dieLost d.val)

/-! ### Power-on reset and `RESET_N` (R666–R668, R707) -/

/-- The straps as sampled: `CFG_MODE[1:0]` and `PCIE_BIF`. -/
def State.sample (s : State) (straps : Nat) : State := { s.fset CFG_STAT.cfg_mode (straps % 4) with straps := straps }

/-- `POWER_ON_RESET`: power-good goes away (`good` false), or has become present and start-up begins with the straps sampled. -/
def execPowerOnReset (good : Bool) (straps : Fin 8) (s : State) : Out :=
  if good then (if s.powerGood then .next s else .next { s.sample straps.val with powerGood := true })
  else .next { s.hardReset true with powerGood := false }

/-- Whether the breadbox holds a halt record that passes its check (R706, R707). -/
def State.recordOk (s : State) : Bool :=
  readBytes 0 s.breadbox 0 8 == [0x42, 0x4C, 0x56, 0x48, 0x41, 0x4C, 0x54, 0x38] && leVal (readBytes 0 s.breadbox 0x28 4) == crc32 (readBytes 0 s.breadbox 0 40)

/-- `RESET_N`: low for at least 1 µs and high again, the straps sampled; a valid halt record is reported. -/
def execResetN (straps : Fin 8) (s : State) : Out :=
  if !s.powerGood then .next s
  else
    let s1 := (s.hardReset false).sample straps.val
    if s1.recordOk then
      .next ((s1.loadHaltRegs false).post 0x0F08 0 none 0 (leVal (readBytes 0 s.breadbox 0x0C 1)) (leVal (readBytes 0 s.breadbox 8 4)))
    else .next s1

/-! ### Start-up (R669–R671) -/

/-- Fuses as SEC reads them at boot: in RETIRED the kill fuses are burned (R691); a golden address it cannot read is 0 (R698). -/
def Fuses.boot (f : Fuses) (goldenBad : Bool) : Fuses :=
  { f with dukKill := f.dukKill || f.lifecycle == 3, imgKill := f.imgKill || f.lifecycle == 3, golden := if goldenBad then 0 else f.golden }

/-- tRFCab of a density code (R319). -/
def trfcabOf (density : Nat) : Nat := if density = 0 then 180 else if density = 1 then 210 else 250

/-- The boot registers SEC writes, each with its lock (R194, R338, R344, R356). -/
def State.bootRegs (s : State) (b : BootSettings) : State :=
  let s1 := (List.range 16).foldl (fun a c =>
    (((((a.fset (MEM_CFG.rate c) b.rate.val).fset (MEM_CFG.density c) b.density.val).fset (MEM_CFG.order c) b.order.val).fset (MEM_CFG.reserve c)
      (b2n b.reserve)).fset (MEM_CFG.lock c) 1).fset (MEM_TIMING.trfcab c) (trfcabOf b.density.val)) s
  let s2 := if b.sealOn then s1.fset LRD_LAYOUT.secure_mib 40 else s1
  (s2.fset LRD_LAYOUT.lock 1).fset SEC_SEAL_CFG.seal_en (b2n b.sealOn)

/-- The baselines of the tins, from their fuses (R121, R698). -/
def State.loadBaselines (s : State) (bad : List TinIx) : State :=
  (List.range 104).foldl (fun a t => a.fset (TIN_WEAR.baseline t) (if bad.any (fun b => b.val == t) then 3000 else (a.tin t).fuseBase)) s

/-- `SEC_BOOT` (R357, R669, R690, R691, R698, R703). -/
def execSecBoot (b : BootSettings) (fuses : FuseRead) (selfOk trngOk : Bool) (s : State) : Out :=
  if !s.powerGood || s.halted || s.fget PTM_PSTATE.state == 4 || s.fbit LRD_LAYOUT.lock then .next s
  else
    let lc := s.fuses.lifecycle
    let s1 := ({ s with fuses := s.fuses.boot fuses.goldenBad }.fset SEC_LIFECYCLE.lifecycle lc).showFuses
    if !selfOk then .next (s1.securityHalt 4 0 0xFF 0xFF 0 0)
    else if fuses.keyBad then .next (s1.securityHalt 5 0 0xFF 0xFF 0 0)
    else if !trngOk then .next (s1.securityHalt 7 0 0xFF 0xFF 0 0)
    else
      let s2 := ((s1.fset SEC_LIFECYCLE.trng_ok 1).fset SEC_LIFECYCLE.debug (if lc = 3 then 3 else 0)).bootRegs b
      let s3 := s2.loadBaselines fuses.baseBad
      let s4 := if fuses.goldenBad then s3.post 0x0F07 2 none 0 else s3
      let s5 := if fuses.baseBad.isEmpty then s4 else s4.post 0x0F07 2 none 0 1
      .next (if lc = 3 then s5 else (List.range 16).foldl (fun a c => a.drawKeys c) s5)

/-- The families of `DIE_CLK_STAT` that the absent references leave without clocks: MAIN, MEDIA_A, MEDIA_B (R671). -/
def absentFam (absent : Nat) : Nat := b2n (bit absent 0) + 2 * b2n (bit absent 2) + 4 * b2n (bit absent 3)

/-- `CLOCK_LOCK` (R669–R671): the generators lock on every present reference, the rails ramp, the dies start and every tin that is not
RETIRED is to be tested.  `absent` names references as `ref_lost` does. -/
def execClockLock (absent : Fin 16) (s : State) : Out :=
  if !s.powerGood || s.halted || !s.fbit LRD_LAYOUT.lock || s.fbit CLK_STAT.a_locked then .next s
  else
    let s1 := (((s.fset CLK_STAT.a_locked 1).fset CLK_STAT.b_locked 1).fset CLK_STAT.tracking 1).fset CLK_STAT.ref_lost absent.val
    let s2 := (List.range 4).foldl (fun a f => if bit absent.val f then a.post 0x0303 2 none f else a) s1
    let fam := absentFam absent.val
    let s3 := (List.range 8).foldl (fun a d =>
      let v := min (a.fget (PTM_FAB_CTL.vset d)) 750
      let x := { (a.fset (DIE_STAT.state d) 1).fset (PTM_FAB_STAT.vnow d) v with
        vgoal := Tab.put 0 a.vgoal d v, clk := { a.clk with lost := Tab.put 0 a.clk.lost d fam } }
      if fam = 0 then x else x.fset (DIE_CLK_STAT.lost d) 1) s2
    .next ((List.range 104).foldl (fun a t => if a.tinState t = tsRetired then a else a.setTinState t tsTesting) s3)

/-- The start-up self-tests of the cores (R621): `CORE_4` takes the lowest-numbered failed core's hart, the other failed harts are lost. -/
def State.startCores (s : State) (bad : Nat) : State :=
  let s0 := if bit bad 4 ∧ !s.mgc.failed.contains 4 then { s with mgc := { s.mgc with failed := 4 :: s.mgc.failed } } else s
  (List.range 4).foldl (fun a h =>
    if !bit bad h || a.mgc.failed.contains h then a
    else
      let b := { a with mgc := { a.mgc with failed := h :: a.mgc.failed } }
      if b.spareCoreFree then (b.fset (MGC_CORE_STAT.core h) 4).hartPost h 0x0C04 2 else (b.fset (MGC_CORE_STAT.state h) 3).hartPost h 0x0C05 4) s0

/-- `CFG_ERR_N_RELEASE` (R529, R568, R569, R669): every self-test is over; roles are assigned and images are accepted.  Bit i of `badCores`
says that `CORE_i` failed. -/
def execCfgErrNRelease (badCores : Fin 32) (s : State) : Out :=
  if !s.powerGood || s.halted || s.cfg.ready || !s.fbit CLK_STAT.a_locked || !(List.range 8).all (fun d => s.fget (DIE_STAT.state d) == 2) ||
      (List.range 104).any (fun t => s.tinState t == tsTesting) then .next s
  else
    let s1 := s.startCores badCores.val
    let s2 := (List.range 8).foldl (fun a d =>
      let b := (a.assignRoles d).restTins d
      b.postLost d (b.lostRoles d)) s1
    .next { s2 with cfg := { s2.cfg with errN := true, ready := true } }

end Sys2Proof.Machine
end

