-- ==== Sys2Proof/Machine/Ptm.lean ====
section
/-! DEFINITION. The PTM: power states, their entry and wake, rails, telemetry, thermal thresholds, boost and pads (R113–R119, R630–R664). -/

namespace Sys2Proof.Machine

/-! ### VFAB (R113–R118, R632, R634, R654) -/

/-- The power state (R633). -/
def State.power (s : State) : Nat := s.fget PTM_PSTATE.state

/-- A die whose fabric rail the PTM drives: it starts, runs, resets or returns. -/
def State.railUp (s : State) (d : Nat) : Bool :=
  let st := s.fget (DIE_STAT.state d)
  st != 0 && st != 5 && !s.ptm.tripped.contains d && !(Tab.get Away.none_ s.away d).power

/-- The level VFAB of die `d` is to ramp to. -/
def State.goal (s : State) (d : Nat) : Nat := Tab.get 0 s.vgoal d
def State.setGoal (s : State) (d v : Nat) : State := { s with vgoal := Tab.put 0 s.vgoal d v }
def State.vnow (s : State) (d : Nat) : Nat := s.fget (PTM_FAB_STAT.vnow d)

/-- A demand of voltage mode or DOZE (R118, R634): below 0.65 V the floor guarantee lapses. -/
def State.demand (s : State) (d v : Nat) : State :=
  let s1 := s.setGoal d v
  if v < 650 then
    let s2 := s1.fset (PTM_FAB_STAT.sub_floor d) 1
    if s.fbit (PTM_FAB_STAT.sub_floor d) then s2 else s2.post 0x0105 0 (some d) d v
  else s1.fset (PTM_FAB_STAT.sub_floor d) 0

/-! ### Boost (R657–R659) -/

/-- Every boost condition of R657 but one on the die alone: the cause code of R659 of the first that fails, 0 when boost is allowed. -/
def State.boostBar (s : State) (d : Nat) : Nat :=
  if s.ptm.fewSensors.contains d then 6
  else if s.ptm.barred.contains d then 1
  else if s.fbit (PTM_BOOST_STAT.lockout d) then 2
  else if s.fbit PTM_THERM.overcurrent then 3
  else if !bit (s.fget PTM_BOOST_CTL.enable) d then 4
  else if s.power ≠ 0 ∨ s.fbit PTM_PSTATE.entering then 5
  else 0

def State.boostAllowed (s : State) (d : Nat) : Bool := s.boostBar d == 0

/-- A die is in boost while its VFAB is above 0.75 V (R657). -/
def State.boosts (s : State) (d : Nat) : Bool := decide (750 < s.vnow d)

/-- The end of a boost (R659): VFAB ramps to 0.75 V; `cause` is recorded and reported. -/
def State.endBoost (s : State) (d cause : Nat) : State :=
  if s.goal d ≤ 750 then s
  else (((s.setGoal d 750).fset (PTM_BOOST_STAT.end_cause d) cause)).post 0x0D07 0 (some d) d cause

/-- Boost ends where it is no longer allowed. -/
def State.boostCheck (s : State) (d : Nat) : State := if s.boostBar d = 0 then s else s.endBoost d (s.boostBar d)

/-- The credit of a die in 1/30,000 s. -/
def State.credit (s : State) (d : Nat) : Nat := Tab.get creditReset s.ptm.credit d

/-- The credit of one telemetry interval (R657, R658): 100 µs of boost used, or 33.3 µs given back. -/
def State.creditStep (s : State) (d : Nat) : State :=
  let c := s.credit d
  let n := if s.boosts d then min (c + 3) 108000000 else c - 1
  let s1 := { s with ptm := { s.ptm with credit := Tab.put creditReset s.ptm.credit d n } }
  if n = 108000000 then s1.fset (PTM_BOOST_STAT.lockout d) 1
  else if n ≤ 90000000 then s1.fset (PTM_BOOST_STAT.lockout d) 0
  else s1

/-! ### Sensors (R652, R653) -/

def State.setSensor (s : State) (k : Nat) (v : Sensor) : State := { s with ptm := { s.ptm with sensors := Tab.put .fresh s.ptm.sensors k v } }

/-- The sensors of a die, or of the hub (8). -/
def sensorsOf (d : Nat) : List Nat := if d = 8 then (List.range 8).map (128 + ·) else (List.range 16).map (16 * d + ·)

/-- The readings, in 0.25 °C, of the sensors of a die or the hub that are not excluded. -/
def State.working (s : State) (d : Nat) : List Int :=
  ((sensorsOf d).filter (fun k => (s.sensor k).valid && !(s.sensor k).failed)).map (fun k => (s.sensor k).temp)

/-- Twice the median of a list of temperatures. -/
def median2 (l : List Int) : Int :=
  let m := l.mergeSort (fun a b => decide (a ≤ b))
  m.getD ((m.length - 1) / 2) 0 + m.getD (m.length / 2) 0

/-- The event of a die or of the hub. -/
def State.ptmPost (s : State) (d code sev unit : Nat) (arg : Nat := 0) : State := s.post code sev (if d = 8 then none else some d) unit arg

/-- A sensor that has read outside its range, or in 10 consecutive intervals more than 25 °C from the median of its die, fails (R653). -/
def State.judgeSensor (s : State) (d : Nat) (med : Int) (k : Nat) : State :=
  let v := s.sensor k
  if v.failed then s
  else
    let off := decide (200 < (2 * v.temp - med).natAbs)
    let n := if off then v.off + 1 else 0
    let out := decide (v.temp < -220 ∨ 700 < v.temp)
    if out ∨ 10 ≤ n then (s.setSensor k { v with failed := true, off := n }).ptmPost d 0x0D0A 2 k
    else s.setSensor k { v with off := n }

/-- The working sensors, the Tj and the report of too few sensors of a die or of the hub. -/
def State.showTj (s : State) (d : Nat) : State :=
  let l := s.working d
  let s1 := (s.fset (PTM_TJ.ok d) l.length).fset (PTM_TJ.tj d) (ofSigned (l.foldl max (l.headD 0)) 11)
  let bad := ((sensorsOf d).filter (fun k => (s.sensor k).failed)).length
  if (sensorsOf d).length < bad + 8 ∧ !s.ptm.fewSensors.contains d then
    { s1 with ptm := { s1.ptm with fewSensors := d :: s1.ptm.fewSensors } }.ptmPost d 0x0D0B 2 d
  else s1

/-- The readings of one interval: `l` names the sensors that were read. -/
def State.readSensors (s : State) (l : List (Nat × Int)) : State :=
  let l := l.filter (fun e => e.1 < 136)
  let s1 := l.foldl (fun a e => if (a.sensor e.1).failed then a else a.setSensor e.1 { a.sensor e.1 with temp := e.2, valid := true }) s
  (List.range 9).foldl (fun a d =>
    let m := median2 (a.working d)
    let mine := (sensorsOf d).filter (fun k => l.any (fun e => e.1 == k))
    if mine.isEmpty then a else (mine.foldl (fun b k => b.judgeSensor d m k) a).showTj d) s1

/-! ### Thermal thresholds (R654) -/

/-- The temperature the thresholds act on: with fewer than 8 working sensors a die or the hub stands at 150 °C. -/
def State.thresholdTj (s : State) (d : Nat) : Int := if s.ptm.fewSensors.contains d then 600 else toSigned (s.fget (PTM_TJ.tj d)) 11

/-- The governor is engaged by the die's own threshold, the hub's, or an overcurrent without boost (R654, R660). -/
def State.govern (s : State) : State :=
  s.fset PTM_GOV.engaged (if s.fbit PTM_THERM.hub_high ∨ s.ptm.ocFloor then 255 else s.fget PTM_THERM.high)

/-- The consecutive cool intervals of a die or the hub toward the release at 145 °C. -/
def State.countCool (s : State) (d : Nat) : State :=
  let cool := !s.ptm.fewSensors.contains d && (s.working d).all (fun t => t ≤ 580)
  { s with ptm := { s.ptm with cool := Tab.put 0 s.ptm.cool d (if cool then Tab.get 0 s.ptm.cool d + 1 else 0) } }

/-- The bound on boost: not allowed above 110 °C until 105 °C or below. -/
def State.barBoost (s : State) (d : Nat) : State :=
  let t := s.thresholdTj d
  if 440 < t then (if s.ptm.barred.contains d then s else { s with ptm := { s.ptm with barred := d :: s.ptm.barred } })
  else if t ≤ 420 then { s with ptm := { s.ptm with barred := s.ptm.barred.filter (· != d) } }
  else s

/-- The action at 150 °C on a die in RUN or DOZE, and its release after 10 ms. -/
def State.dieHigh (s : State) (d : Nat) : State :=
  let s1 := (s.countCool d).barBoost d
  let hi := s.fget PTM_THERM.high
  if bit hi d then (if 100 ≤ Tab.get 0 s1.ptm.cool d then s1.fset PTM_THERM.high (setBit hi d false) else s1)
  else if 600 ≤ s.thresholdTj d ∧ s.power ≤ 1 ∧ s.railUp d then (s1.fset PTM_THERM.high (setBit hi d true)).post 0x0D08 2 (some d) d
  else s1

def State.hubHigh (s : State) : State :=
  let s1 := s.countCool 8
  if s.fbit PTM_THERM.hub_high then (if 100 ≤ Tab.get 0 s1.ptm.cool 8 then s1.fset PTM_THERM.hub_high 0 else s1)
  else if 600 ≤ s.thresholdTj 8 then (s1.fset PTM_THERM.hub_high 1).post 0x0D08 2 none 8
  else s1

/-! ### The control of VFAB (R113–R118) -/

/-- A demand above the loop and `vset` holds VFAB: the drop to floor voltage, or a boost's end still ramping (R116). -/
def State.heldDown (s : State) (d : Nat) : Bool :=
  bit (s.fget PTM_THERM.high) d || s.ptm.ocFloor || (decide (750 < s.vnow d) && decide (s.goal d ≤ 750))

/-- The ceiling of the rate-target loop. -/
def State.ceiling (s : State) (d : Nat) : Nat := if s.boostAllowed d then 900 else 750

def State.setShort (s : State) (d n : Nat) : State := { s with ptm := { s.ptm with short := Tab.put 0 s.ptm.short d n } }

/-- One interval of the rate-target loop (R114, R115). -/
def State.rateLoop (s : State) (d : Nat) : State :=
  let r := s.dieRate d
  let goal := s.fget (PTM_FAB_CTL.target d)
  let v := s.vnow d
  let top := s.ceiling d
  if r = 0 then s
  else
    let s1 := if r < goal ∧ v < top then s.setGoal d (v + 5)
      else if 102 * goal < 100 * r ∧ 650 < v then s.setGoal d (v - 5)
      else s
    if goal ≤ r then (s1.setShort d 0).fset (PTM_FAB_STAT.short d) 0
    else if v < top then s1.setShort d 0
    else
      let n := Tab.get 0 s.ptm.short d + 1
      if n = 10 then ((s1.setShort d 10).fset (PTM_FAB_STAT.short d) 1).post 0x0104 0 (some d) d r goal
      else s1.setShort d (min n 10)

/-- What voltage mode demands: `vset`, above 0.75 V only while boost is allowed (R118). -/
def State.voltage (s : State) (d : Nat) : Nat :=
  let v := s.fget (PTM_FAB_CTL.vset d)
  if s.boostAllowed d then v else min v 750

/-- The mode of die `d` in force: 1 is rate-target. -/
def State.modeOf (s : State) (d : Nat) : Nat := Tab.get 0 s.ptm.mode d

/-- One interval of the control of a die's VFAB in RUN and DOZE, by the order of R116. -/
def State.control (s : State) (d : Nat) : State :=
  let m := s.fget (PTM_FAB_CTL.mode d)
  let s0 := { s with ptm := { s.ptm with mode := Tab.put 0 s.ptm.mode d m } }
  if !s.railUp d || 2 ≤ s.power || s.fbit PTM_PSTATE.waking then s0
  else
    let s1 := s0.boostCheck d
    if bit (s.fget PTM_THERM.high) d ∨ s.ptm.ocFloor then
      let a := s1.setGoal d (min (s.vnow d) 650)
      if m = 1 then a.fset (PTM_FAB_STAT.short d) 1 else a
    else if s.power = 1 then s1.demand d (s.fget PTM_DOZE.mv)
    else if m = 0 then (((s1.setShort d 0).fset (PTM_FAB_STAT.short d) 0).demand d (s1.voltage d))
    else if s1.heldDown d then s1.fset (PTM_FAB_STAT.short d) 1
    else (s1.fset (PTM_FAB_STAT.sub_floor d) 0).rateLoop d

/-- A write of `vset` or `mode` (R117, R118): in voltage mode a new `vset` acts at once. -/
def State.vsetWritten (s : State) (d : Nat) : State :=
  if s.modeOf d = 0 ∧ s.fget (PTM_FAB_CTL.mode d) = 0 ∧ s.railUp d ∧ s.power = 0 ∧ !s.heldDown d then s.demand d (s.voltage d) else s

/-- `TELEMETRY_INTERVAL` (R652): `temps` are the sensors read with their readings in 0.25 °C, `mv` and `ma` VIN_12. -/
def execTelemetryInterval (temps : List (Nat × Int)) (mv ma : Fin 65536) (s : State) : Out :=
  if !s.powerGood then .next s
  else if s.power = 4 then .next ((List.range 8).foldl (fun a d => a.creditStep d) s)
  else
    let s1 := ((s.readSensors temps).fset PTM_VIN.mv mv.val).fset PTM_VIN.ma ma.val
    let s2 := (List.range 8).foldl (fun a d => a.creditStep d) s1
    let s3 := (((List.range 8).foldl (fun a d => a.dieHigh d) s2).hubHigh).govern
    .next ((List.range 8).foldl (fun a d => a.control d) s3)

/-! ### Currents and rails (R632, R656, R660) -/

/-- `PWR_OVERCURRENT` (R660). -/
def execPwrOvercurrent (s : State) : Out :=
  if s.fbit PTM_THERM.overcurrent || !s.powerGood then .next s
  else
    let boosted := (List.range 8).filter (fun d => s.boosts d)
    let s1 := s.fset PTM_THERM.overcurrent 1
    let s2 := if boosted.isEmpty then
        (List.range 8).foldl (fun a d => if a.railUp d ∧ a.power ≤ 1 then a.setGoal d (min (a.vnow d) 650) else a) { s1 with ptm := { s1.ptm with ocFloor := true } }
      else boosted.foldl (fun a d => a.endBoost d 3) s1
    .next (s2.govern.post 0x0D06 2 none 0)

/-- `OVERCURRENT_RELEASE` (R660): both demands end. -/
def execOvercurrentRelease (s : State) : Out :=
  if s.fbit PTM_THERM.overcurrent then
    .next { s.fset PTM_THERM.overcurrent 0 with ptm := { s.ptm with ocFloor := false } }.govern
  else .next s

/-- The rails of die `d` are shut off: the loss of the die follows (R680). -/
def State.railOff (s : State) (d : Nat) : State :=
  { (s.setGoal d 0).fset (PTM_FAB_STAT.vnow d) 0 with away := Tab.put Away.none_ s.away d { Tab.get Away.none_ s.away d with power := true } }

/-- `PWR_RAIL_FAULT` (R632): VFAB or VLANE (`lane`) of a powered die. -/
def execPwrRailFault (d : DieIx) (lane : Bool) (s : State) : Out :=
  if s.railUp d.val then .next ((s.railOff d.val).post 0x0D05 4 (some d.val) d.val (b2n lane)) else .next s

/-- `HUB_RAIL_FAULT` (R632): every regulator shuts down; a power-on reset follows once VIN_12 is good again. -/
def execHubRailFault (s : State) : Out := .next { s.hardReset true with powerGood := false }

/-- `THERM_TRIP` (R656): `k` is the sensor that stands at 158 °C; of the hub's, the device is reset and held in OFF. -/
def execThermTrip (k : Fin 136) (s : State) : Out :=
  if !s.powerGood || s.fbit PTM_THERM.trip then .next s
  else
    let all := List.range 8
    if 128 ≤ k.val then
      let s1 := ((s.hardReset true).fset PTM_PSTATE.state 4).fset PTM_THERM.trip 1
      .next ({ s1 with ptm := { s1.ptm with tripped := all } }.post 0x0D09 4 none k.val)
    else
      let s1 := (all.foldl (fun a d => if a.railUp d then a.railOff d else a) s).fset PTM_THERM.trip 1
      .next ({ s1 with ptm := { s1.ptm with tripped := all } }.post 0x0D09 4 (some (k.val / 16)) k.val)

/-- `THERM_TRIP_RELEASE` (R656): every sensor reads below 140 °C. -/
def execThermTripRelease (s : State) : Out :=
  if s.fbit PTM_THERM.trip && (List.range 136).all (fun k => (s.sensor k).failed || decide ((s.sensor k).temp < 560)) then
    .next (s.fset PTM_THERM.trip 0)
  else .next s

/-! ### The units that may refuse an entry (R641) -/

/-- Whether the unit with id `i` refuses a change from power state `p` to `t`. -/
def State.refuses (s : State) (t i : Nat) : Bool :=
  let deep := decide (2 ≤ t)
  match i with
  | 1 => s.cfg.load.isSome
  | 2 => !s.spr.ops.isEmpty || (List.range 104).any (fun x => s.tinState x == tsTesting)
  | 3 => deep && (List.range 16).any (fun c => [1, 2, 5].contains (s.chState c))
  | 4 => deep && s.dram.gran.any (fun e => e.2.state != 0)
  | 5 => deep && s.hqe.queues.any (fun e => match e.2 with
      | some v => v.run.any (fun j => j.fin.isNone && (v.type != 3 || Desc.op j.desc == 0x50))
      | none => false)
  | 6 => s.fbit PTM_VETO.veto || (t == 3 && s.fget (MGC_CORE_STAT.state 0) == 3)
  | 7 => deep && (s.fbit PTM_THERM.trip || (List.range 8).any (fun d =>
      let st := s.fget (DIE_STAT.state d)
      !(st == 2 || (st == 0 && s.power == 3)) || (Tab.get Away.none_ s.away d).power || Tab.get 0 s.clk.lost d != 0))
  | _ => false

/-- The refuser of a transition with the lowest id. -/
def State.refuser (s : State) (t : Nat) : Option Nat := [1, 2, 3, 4, 5, 6, 7].find? (s.refuses t)

/-- A refusal or an abort by unit `i` counted, recorded and reported (R644). -/
def State.countRefusal (s : State) (t i : Nat) (aborted : Bool) : State :=
  let s1 := s.fsat (if aborted then PTM_REFUSE_CNT.aborted i else PTM_REFUSE_CNT.refused i) 1
  let s2 := (((s1.fset PTM_REFUSE_LAST.id i).fset PTM_REFUSE_LAST.target t).fset PTM_REFUSE_LAST.aborted (b2n aborted)).fsat PTM_REFUSE_LAST.total 1
  s2.post (if aborted then 0x0D03 else 0x0D02) 0 none 0 i

/-- The stage of the entry under way: 0 none, 1 refusers asked, 2 tins stalling, 3 channels settling, 4 past the point of no return. -/
def State.setEntry (s : State) (e : Option (Nat × Nat)) : State := { s with ptm := { s.ptm with entry := e } }

/-- The entry ends before any change. -/
def State.endEntry (s : State) : State := ((s.setEntry none).fset PTM_PSTATE.entering 0).fset PTM_PSTATE.target 0

/-! ### Wake (R648, R649) -/

/-- A wake starts, for the cause recorded. -/
def State.startWake (s : State) (cause : Nat) : State :=
  if (s.power ≠ 2 ∧ s.power ≠ 3) ∨ s.ptm.wakeStep.isSome ∨ s.ptm.entry.isSome then s
  else
    let s1 := ((s.fset PTM_PSTATE.waking 1).fset PTM_PSTATE.target 0).fset PTM_PSTATE.wake_cause cause
    { s1 with ptm := { s1.ptm with wakeStep := some 0, wakeDue := 0 } }

/-- A wake source: in NAP and DEEP it starts a wake, during an entry to them the wake follows the entry (R661). -/
def State.wakeSource (s : State) (cause : Nat) : State :=
  match s.ptm.entry with
  | some (t, _) => if (t = 2 ∨ t = 3) ∧ s.ptm.wakeDue = 0 then { s with ptm := { s.ptm with wakeDue := cause } } else s
  | none => s.startWake cause

/-- `WAKE_NOW`. -/
def execWakeNow (s : State) : Out := .next (s.wakeSource 2)

/-- `GPIO_WAKE`: a rising edge on `GPIO_0`. -/
def execGpioWake (s : State) : Out := if s.fbit PTM_WAKE_CTL.gpio_en then .next (s.wakeSource 3) else .next s

/-- `PTM_WAKE_SEC`. -/
def State.wakeSec (s : State) : Nat := s.fget (PTM_WAKE_SEC.sec 0) + s.fget (PTM_WAKE_SEC.sec 1) % 2 ^ 16 * 2 ^ 32

/-- `TIMER_WAKE`: the time keeper's seconds have reached `PTM_WAKE_SEC`. -/
def execTimerWake (s : State) : Out :=
  if s.fbit PTM_WAKE_CTL.timer_en && decide (s.wakeSec ≤ timeSec s.now) then .next (s.wakeSource 4) else .next s

/-! ### `POWER_STATE` and the entry (R640–R645, R651) -/

/-- `POWER_STATE`. -/
def execPowerState (q : QueueIx) (s : State) : Out :=
  .next (s.command q.val 0x60 (fun d => Desc.clear d false false false false && decide (Desc.w1 d < 5)) (fun s k j =>
    let t := Desc.w1 j.desc
    let p := s.power
    if t = p then s.endJob q.val k stDone 0 0
    else if 2 ≤ p ∧ t ≠ 0 ∧ t ≠ 4 then s.mgmtEnd q.val k stWrongState 1
    else if s.ptm.entry.isSome ∨ s.ptm.wakeStep.isSome then s.mgmtEnd q.val k stBusy 0
    else if p = 1 ∧ t = 0 then
      let s1 := (List.range 8).foldl (fun a d => if a.railUp d then a.demand d (a.voltage d) else a) (s.fset PTM_PSTATE.state 0)
      s1.endJob q.val k stDone 0 0
    else if t = 0 then (s.mgmtWait q.val k j .power).startWake 1
    else ((s.mgmtWait q.val k j .power).setEntry (some (t, 1))).fset PTM_PSTATE.target t))

/-- A tin whose design may run and that no debug freeze holds. -/
def State.mine (s : State) (t : Nat) : Bool := (s.tin t).running && !s.dbg.frozen.contains (13 * (t / 13) + s.roleOf t)

/-- Every tin that satisfies `p` changed by `f`. -/
def State.eachTin (s : State) (p : State → Nat → Bool) (f : Tin → Tin) : State :=
  (List.range 104).foldl (fun a t => if p a t then a.setTin t (f (a.tin t)) else a) s

/-- DOZE is entered (R633, R634, R643): tins without a design are switched off. -/
def State.enterDoze (s : State) : State :=
  let s1 := ((s.setEntry none).fset PTM_PSTATE.target 0).fset PTM_PSTATE.state 1
  let s2 := (List.range 8).foldl (fun a d => if a.railUp d then a.demand d (a.fget PTM_DOZE.mv) else a) s1
  (s2.eachTin (fun a t => a.dozeOff t && decide (a.tin t ≠ Tin.blank)) Tin.wipe).finishWait .power stDone 0 0

/-- t1 of R642: fetching stops but for CMD queues, boost ends, every inbound port of every released tin is asked to STALL. -/
def State.startEntry (s : State) (t : Nat) : State :=
  let s1 := (s.setEntry (some (t, 2))).fset PTM_PSTATE.entering 1
  let s2 := (List.range 8).foldl (fun a d => a.endBoost d 5) s1
  s2.eachTin State.mine Tin.askStall

/-- `REFUSERS_ANSWERED` (R641–R644). -/
def execRefusersAnswered (s : State) : Out :=
  match s.ptm.entry with
  | some (t, 1) =>
    match s.refuser t with
    | some i => .next (((s.clearOut.endEntry).countRefusal t i false).finishWait .power stRefused i 0)
    | none => if t = 1 then .next s.clearOut.enterDoze else .next (s.startEntry t)
  | _ => .next s

/-- Whether a tin is quiescent with its ports at rest and no proof awaited (R91, R381). -/
def Tin.settled (x : Tin) : Bool := !x.running || (x.portsSettled && x.quiescent)

/-- `ENTRY_QUIESCENT`: t2 of R642. -/
def execEntryQuiescent (s : State) : Out :=
  match s.ptm.entry with
  | some (t, 2) =>
    if (List.range 104).all (fun x => (s.tin x).settled) then
      let s1 := (List.range 16).foldl (fun a c => (if t = 2 then a else a.sealSave c).selfRefresh c) s
      .next (s1.setEntry (some (t, 3)))
    else .next s
  | _ => .next s

/-- `ENTRY_ABORT`: a tin is not quiescent 100 µs after t1. -/
def execEntryAbort (s : State) : Out :=
  match s.ptm.entry with
  | some (t, 2) =>
    match (List.range 104).find? (fun x => !(s.tin x).settled) with
    | none => .next s
    | some x =>
      let i := 8 + x / 13
      let s1 := (s.clearOut.eachTin State.mine (fun v => v.unstall.settle)).endEntry
      .next ((s1.countRefusal t i true).finishWait .power stAborted (0x0400 + i) 0)
  | _ => .next s

/-- The registers that DEEP saves and restores (R651). -/
def saveList : List Nat :=
  [CFG_IDLE_TIMEOUT, CFG_CTL, SPR_POLICY, SPR_TIN_SEL] ++
  (List.range 16).flatMap (fun c => [MEM_CFG c, MEM_TIMING c, MEM_RETIRE c]) ++
  (List.range 8).flatMap (fun d => [SEAM_CTL d 0, SEAM_CTL d 1]) ++
  (List.range 64).map LL_CTL ++ (List.range 32).map ML_CTL ++ (List.range 8).flatMap (fun d => [TE_CTL d, MAC_MEM_BASE d])

/-- What a block without power in DEEP keeps nothing of, save what the breadbox holds: tin states, wear records, epochs. -/
def lostInDeep (off : Nat) : Bool :=
  let die := decide (0x800000 ≤ off ∧ off < 0xC00000)
  (off / 0x10000 == 4 || off / 0x10000 == 0xC || die) &&
    !(off / 0x20 == 0xC0080 / 0x20) && !(die && off % 0x80000 / 0x10000 == 1 && (off % 0x100 == 0 || off % 0x100 == 0xC))

/-- The registers of the blocks without power in DEEP, with what stands for the state of DRAM, links and configuration put back. -/
def State.deepRegs (s : State) : State :=
  let s1 := { s with regs := Tab.drop lostInDeep s.regs, events := { s.events with attn := Tab.drop (fun k => 16 ≤ k || k == 4 || k == 12) s.events.attn } }
  let s2 := (List.range 16).foldl (fun a c => a.setChState c (s.chState c)) s1
  let s3 := (List.range 32).foldl (fun a i => a.keepFld s (BL_STAT.state (i / 4) (i % 4)) (· == 3)) s2
  let s4 := (List.range 8).foldl (fun a d => a.keepFld s (DIE_STAT.state d) (· == 5)) s3
  (s4.fset CFG_STAT.dev_state (s.fget CFG_STAT.dev_state)).fset CFG_STAT.cfg_mode (s.fget CFG_STAT.cfg_mode)

/-- The save list as the breadbox takes it. -/
def State.saveRegs (s : State) : State := { s with ptm := { s.ptm with saved := saveList.map (fun o => (o, s.reg o)) } }
def State.restoreRegs (s : State) : State :=
  { s.ptm.saved.foldl (fun a e => a.setReg e.1 e.2) s with ptm := { s.ptm with saved := [] } }

/-- Real NAP: VFAB at retention. -/
def State.napRails (s : State) : State := (List.range 8).foldl (fun a d => if a.railUp d then a.setGoal d 450 else a) s

/-- The standby generator is powered down (R637). -/
def State.standbyOff (s : State) : State :=
  let g := 1 - s.genActive
  ((s.setFaulted g true).fset (genLocked g) 0).fset CLK_STAT.tracking 0

/-- Real DEEP: the fabric and lane rails and the hub outside the always-on domain are off. -/
def State.deepRails (s : State) : State :=
  let s1 := (List.range 16).foldl (fun a c => a.engineOff c) s
  let s2 := s1.eachTin (fun a t => decide (a.tin t ≠ Tin.blank)) Tin.wipe
  let s3 := (List.range 8).foldl (fun a d => (a.setGoal d 0).fset (PTM_FAB_STAT.vnow d) 0) s2
  s3.deepRegs.standbyOff

/-- `POINT_OF_NO_RETURN`: t3 of R642.  An entry to NAP or DEEP is emulated by the rule of R716. -/
def execPointOfNoReturn (s : State) : Out :=
  match s.ptm.entry with
  | some (t, 3) =>
    let s1 := (List.range 8).foldl (fun a d => a.latchPads d) (s.setEntry (some (t, 4)))
    let s2 := (List.range 96).foldl (fun a l => a.laneReach l false) s1
    let emu := s.emulates && t != 4
    let s3 := (s2.fset PTM_PSTATE.emulated (b2n emu)).eachTin (fun a x => (a.tin x).running) (fun v => { v with frozen := true })
    let s4 := if t = 3 then s3.saveRegs else s3
    .next (if emu then s4 else if t = 2 then s4.napRails else if t = 3 then s4.deepRails else s4)
  | _ => .next s

/-- `PWR_STATE_ENTERED` (R642): in OFF only the breadbox and the reset logic are left. -/
def execPwrStateEntered (s : State) : Out :=
  match s.ptm.entry with
  | some (t, 4) =>
    if t = 4 then
      let s1 := (s.hardReset false).fset PTM_PSTATE.state 4
      .next ({ s1 with pads := s.pads }.post 0x0D00 0 none 0 t)
    else
      let s1 := ((s.clearOut.endEntry).fset PTM_PSTATE.state t)
      let s2 := (List.range 8).foldl (fun a d => a.fset (PTM_FAB_STAT.vnow d) (a.goal d)) s1
      let s3 := (s2.post 0x0D00 0 none 0 t).finishWait .power stDone 0 0
      .next (if s.ptm.wakeDue = 0 then s3 else s3.startWake s.ptm.wakeDue)
  | _ => .next s

/-! ### The steps of a wake (R638, R649) -/

/-- The rails of a die at a wake: VFAB at most 0.75 V. -/
def State.wakeRail (s : State) (d : Nat) : State :=
  let v := min (s.fget (PTM_FAB_CTL.vset d)) 750
  (s.setGoal d v).fset (PTM_FAB_STAT.vnow d) v

/-- Whether a die is to come up at a wake. -/
def State.wakes (s : State) (d : Nat) : Bool := !s.ptm.tripped.contains d && s.fget (DIE_STAT.state d) != 5

/-- Step 0: rails.  A die that has lost power returns as after a power loss; from DEEP every die returns as from reset. -/
def State.wakeRails (s : State) : State :=
  (List.range 8).foldl (fun a d =>
    let lost := (Tab.get Away.none_ a.away d).power && a.fget (DIE_STAT.state d) == 0
    if !s.wakes d then a
    else if lost then a.powerBack d
    else if s.power = 3 then
      let b := a.clearDie d
      let c := if s.fbit PTM_PSTATE.emulated then b else b.wakeRail d
      c.fset (DIE_STAT.last_cause d) 6
    else if s.fbit PTM_PSTATE.emulated then a
    else if a.dieUp d then a.wakeRail d else a) s

/-- Step 1: the saved registers come back and the clocks of the dies restart; from DEEP harts 1–3 restart. -/
def State.wakeClocks (s : State) (ok : Nat) (ok4 : Bool) : State :=
  if s.power = 3 then [1, 2, 3].foldl (fun a h => a.coreReset h (bit ok h) ok4) s.restoreRegs else s

/-- Step 3: crust release. -/
def State.wakeCrust (s : State) (bad : List TinIx) : State :=
  let s1 := if s.power = 3 then
      (List.range 8).foldl (fun a d =>
        if a.fget (DIE_STAT.state d) = 4 ∧ Tab.get 0 a.clk.lost d = 0 then a.returnDie d ((bad.filter (fun t => t.val / 13 == d)).map (fun t => t.val % 13)) else a) s
    else
      let a := s.eachTin (fun a t => (a.tin t).frozen && a.tinState t != tsFrozen) (fun v => { v with frozen := false })
      a.eachTin State.mine (fun v => v.unstall.settle)
  let s2 := ((s1.fset PTM_PSTATE.state 0).fset PTM_PSTATE.waking 0).fset PTM_PSTATE.emulated 0
  let s3 := { s2 with ptm := { s2.ptm with wakeStep := none } }
  let s4 := s3.hqe.queues.foldl (fun a e => if (a.queue e.1).state = qEnabled then a.heldBells e.1 else a) s3
  (s4.finishWait .power stDone 0 0).post 0x0D01 0 none 0 (s.fget PTM_PSTATE.wake_cause)

/-- `WAKE_STEP` (R649): the step due.  `late` says that the step before it overran; bit h of `ok` and `ok4` are self-tests of the cores,
`bad` the tins that fail steps 1–3 of their return test. -/
def execWakeStep (late : Bool) (ok : Fin 16) (ok4 : Bool) (bad : List TinIx) (s : State) : Out :=
  match s.ptm.wakeStep with
  | none => .next s
  | some n =>
    let s0 := if late ∧ n ≠ 0 then s.clearOut.post 0x0D04 0 none 0 (n - 1) else s.clearOut
    let s1 := { s0 with ptm := { s0.ptm with wakeStep := some (n + 1) } }
    match n with
    | 0 => .next s1.wakeRails
    | 1 => .next (s1.wakeClocks ok.val ok4)
    | 2 => .next s1
    | _ => .next (s1.wakeCrust bad)

/-! ### Pads (R646, R647) -/

/-- A release bit written: without effect before the die's crust release. -/
def State.padRelease (s : State) (d : Nat) : State :=
  if s.power ≤ 1 ∧ s.ptm.wakeStep.isNone ∧ s.fget (DIE_STAT.state d) = 2 then
    let s1 := (List.range 4).foldl (fun a k => a.setPad (4 * d + k) { a.pad (4 * d + k) with latch := none }) s
    s1.fset PTM_PAD_CTL.latched (setBit (s.fget PTM_PAD_CTL.latched) d false)
  else s

/-- `PAD_RELEASE`. -/
def execPadRelease (d : DieIx) (s : State) : Out := .next (s.padRelease d.val)

end Sys2Proof.Machine
end

