-- ==== Sys2Proof/Machine/Regs.lean ====
section
/-! DEFINITION. Reads of the register window: what each register shows, who may read and write it, how an access that goes
wrong is recorded, and what a consuming read clears (R5–R7, R732, R776–R786). -/

namespace Sys2Proof.Machine

/-! ### What a register shows -/

/-- The key of a block's attention bits: its block code, or 16 + d for the DIE block of `FD_d` (R783). -/
def attnKey (off : Nat) : Nat := match dieOfOff off with | some d => 16 + d | none => off / 0x10000

/-- The `X_ATTN.sev` bits of a block. -/
def State.sev (s : State) (key : Nat) : Nat := Tab.get 0 s.events.attn key

/-- The window offset of the common registers of a block by its attention key. -/
def attnBase (key : Nat) : Nat := if key < 16 then key * 0x10000 + 0xFFF0 else dieBase (key - 16) + 0xFFF0

/-- Whether a block has a severity bit set that is enabled (R784). -/
def State.attention (s : State) (key : Nat) : Bool := s.sev key &&& bits (s.reg (attnBase key + 8)).toNat 0 6 != 0

/-- `GLB_ATTN_SUM` (R784, R785). -/
def State.attnSum (s : State) : Nat :=
  ((List.range 13).map (fun b => b2n (s.attention b) * 2 ^ b)).sum +
    ((List.range 8).map (fun d => b2n (s.attention (16 + d)) * 2 ^ (13 + d))).sum

/-- Four bits for each of `n` roles from `lo` up: the tins that hold them (R599). -/
def State.roleWord (s : State) (d lo n : Nat) : Nat := ((List.range n).map (fun i => s.localTin d (lo + i) * 16 ^ i)).sum

/-- The number of values below `n` that satisfy `p`. -/
def countIf (n : Nat) (p : Nat → Bool) : Nat := ((List.range n).filter p).length

/-- The bits below `n` that satisfy `p`. -/
def bitMask (n : Nat) (p : Nat → Bool) : Nat := ((List.range n).map (fun i => b2n (p i) * 2 ^ i)).sum

/-- `SPR_INV` (R599). -/
def State.invWord (s : State) : Nat :=
  countIf 8 (fun d => s.tinState (s.tinOf d 12) == tsSpare) * 2 ^ 28 + countIf 104 (fun t => s.tinState t == tsRetired) * 2 ^ 21 +
    s.fget NOC_SPINE.spare_used * 2 ^ 20 + b2n ((List.range 4).any (fun h => s.coreOf h == 4)) * 2 ^ 19 +
    b2n s.dram.remap.isSome * 2 ^ 18 + s.fget CLK_STAT.tracking * 2 ^ 17 +
    bitMask 8 (fun d => (s.knd d).deadA != (s.knd d).deadB) * 2 ^ 9 + bitMask 8 (fun d => (s.knd d).deadA && (s.knd d).deadB) * 2

/-- `SEC_GRAN_MODE` of the selected granule (R395). -/
def State.granWord (s : State) : Nat :=
  let g := s.fget SEC_GRAN_SEL.granule
  let v := s.gran g
  let k := v.slot.getD 0
  b2n (decide (g < s.granules)) * 2 ^ 31 + v.state * 2 ^ 28 + v.mode * 2 ^ 24 + (if v.mode = 2 then k % 6 * 2 ^ 16 + k / 6 * 2 ^ 8 else 0)

/-- `SEC_SEAL_CFG` (R395): the limit of R351 and the number of SEALED granules beside the stored fields. -/
def State.sealWord (s : State) (w : Nat) : Nat :=
  setBits (setBits w 8 5 (s.granules / 7)) 0 7 (countIf 128 (fun g => (s.gran g).mode == 2))

/-- `PTM_TEMP` (R663): the selected sensor. -/
def State.tempWord (s : State) : Nat :=
  let v : Sensor := Tab.get .fresh s.ptm.sensors (s.fget PTM_TEMP_SEL.sensor)
  b2n v.valid * 2 ^ 31 + b2n v.failed * 2 ^ 30 + ofSigned v.temp 11

/-- `PTM_BOOST_STAT_d` (R662). -/
def State.boostWord (s : State) (d w : Nat) : Nat :=
  setBits (setBits (setBits w 31 1 (b2n (s.boostAllowed d))) 30 1 (b2n (s.boosts d))) 0 16 (s.credit d / 3000)

/-- The levels of the four pads of a die (R760). -/
def State.padIn (s : State) (d : Nat) : Nat := bitMask 4 (fun k => s.padLevel (4 * d + k))

/-- The container bytes consumed, as the status word gives them (R532, R564). -/
def State.cfgOffset (s : State) : Nat :=
  let off := s.fget (CFG_OFFSET.offset 0) + s.fget (CFG_OFFSET.offset 1) * 2 ^ 32
  match s.cfg.load with | some l => if l.stage < 3 then l.got else off | none => off

/-- `HQE_STAT` (R448). -/
def State.hqeStat (s : State) (w : Nat) : Nat := setBits (setBits w 26 3 s.power) 24 2 s.lifecycle

/-- What a hub register shows; `w` is its stored word.  A peek reads the copies kept for domain 15 (R732). -/
def State.hubView (s : State) (off w : Nat) (peek : Bool) : Nat :=
  if off = 0x8 then s.fuses.serial % 2 ^ 32
  else if off = 0xC then s.fuses.serial / 2 ^ 32 % 2 ^ 32
  else if off = GLB_ATTN_SUM then s.attnSum
  else if off = GLB_STRAP then s.straps % 4 * 2 + s.straps / 4 % 2
  else if 0x10120 ≤ off ∧ off < 0x10140 then setBits w 0 12 (s.dieRate ((off - 0x10120) / 4))
  else if 0x10160 ≤ off ∧ off < 0x10180 then s.boostWord ((off - 0x10160) / 4) w
  else if off = PTM_TEMP then s.tempWord
  else if off = TIME_ADJ then s.adjView
  else if off = TIME_NOW 0 then timeWord s.now % 2 ^ 32
  else if off = TIME_NOW 1 ∨ off = TIME_NOW 2 then bits (if peek then s.time.latchPeek else s.time.latch) (8 * (off - TIME_NOW 0)) 32
  else if off = CFG_GOLDEN_ADDR 0 then s.goldenAddr % 2 ^ 32
  else if off = CFG_GOLDEN_ADDR 1 then s.goldenAddr / 2 ^ 32 % 2 ^ 32
  else if off = CFG_OFFSET 0 then s.cfgOffset % 2 ^ 32
  else if off = CFG_OFFSET 1 then s.cfgOffset / 2 ^ 32 % 2 ^ 32
  else if off = CFG_ARV then s.fuses.arv
  else if off = SEC_SEAL_CFG then s.sealWord w
  else if off = SEC_GRAN_RIGHTS then (s.gran (s.fget SEC_GRAN_SEL.granule)).rights
  else if off = SEC_GRAN_MODE then s.granWord
  else if off = MGC_IRQ_PEND then s.irqPend
  else if off = MGC_MTIME 0 then s.mtime % 2 ^ 32
  else if off = MGC_MTIME 1 then (if peek then s.time.mLatchPeek else s.time.mLatch)
  else if off = HQE_STAT then s.hqeStat w
  else if off = HQE_QCTL then setBits w 29 2 (s.queue 0).state
  else if off = SPR_INV then s.invWord
  else if off = SPR_TIN_DRAIN then (s.tin (s.fget SPR_TIN_SEL.tin)).drain
  else if 0xC0040 ≤ off ∧ off < 0xC0080 then
    (if off % 8 = 0 then s.roleWord ((off - 0xC0040) / 8) 0 8 else s.roleWord ((off - 0xC0040) / 8) 8 5)
  else w

/-- What a register of die `d` shows; `w` is its stored word. -/
def State.dieView (s : State) (d off w : Nat) : Nat :=
  let o := off % 0x80000
  if o = 0x54 then s.padIn d
  else if o / 0x10000 = 1 ∧ o % 0x100 = 0 then setBits w 25 4 (s.roleOf (13 * d + o % 0x10000 / 0x100))
  else if o = 0x20000 then setBits w 29 1 (b2n (s.scrubs d))
  else if o = 0x30014 ∨ o = 0x30034 then s.seamMargin d (if o = 0x30014 then 0 else 1)
  else if o / 0x10000 = 4 ∧ o % 0x1000 = 0x1C then (s.chan (2 * d + o % 0x10000 / 0x1000)).clock % 2 ^ 32
  else if o / 0x10000 = 4 ∧ o % 0x1000 = 0x20 then (s.chan (2 * d + o % 0x10000 / 0x1000)).clock / 2 ^ 32 % 2 ^ 32
  else if o / 0x10000 = 4 ∧ o % 0x1000 = 0x24 then setBits w 0 16 ((s.chan (2 * d + o % 0x10000 / 0x1000)).cache.countP (·.2))
  else w

/-- A word with its WO fields reading 0 (R5). -/
def hideWo (w : Nat) : List FieldDef → Nat
  | [] => w
  | f :: r => hideWo (if f.acc = .wo then setBits w f.lo f.len 0 else w) r

/-- The number of a debug-module register by its window offset (R734). -/
def dmOf (off : Nat) : Option Nat := if 0x61000 ≤ off ∧ off < 0x61200 then some ((off - 0x61000) / 4) else none

/-- The registers the debug module has (R734): `data0`, `data1`, `dmcontrol`, `dmstatus`, `hartinfo`, `abstractcs`, `command`, `haltsum0`. -/
def dmRegs : List Nat := [0x04, 0x05, 0x10, 0x11, 0x12, 0x16, 0x17, 0x40]

/-- The hart that `dmcontrol` selects. -/
def State.hartSel (s : State) : Nat := bits (s.dmReg 0x10) 16 10 + bits (s.dmReg 0x10) 6 10 * 1024

/-- `dmstatus` of the selected hart: version 2, authenticated, and the any/all pairs (R734; the layout of the RISC-V External Debug
Support specification 0.13.2). -/
def State.dmStatus (s : State) : Nat :=
  let h := s.hartSel
  let pair (i : Nat) : Nat := 3 * 2 ^ i
  0x82 + (if 4 ≤ h then pair 14
    else if s.fget (MGC_CORE_STAT.state h) = 3 then pair 12
    else (if (s.hart h).dbgHalt then pair 8 else pair 10) + (if bit (s.dmReg 0x11) h then pair 16 else 0))

/-- What a debug-module register shows. -/
def State.dmView (s : State) (a : Nat) : Nat :=
  if a = 0x11 then s.dmStatus
  else if a = 0x12 ∨ a = 0x17 then 0
  else if a = 0x16 then setBits (s.dmReg a) 0 4 2
  else if a = 0x40 then bitMask 4 (fun h => (s.hart h).dbgHalt)
  else s.dmReg a

/-- The registers at `off` that no block table but the debug module defines. -/
def regDefined (off : Nat) : Bool :=
  match dmOf off with
  | some a => off % 4 == 0 && dmRegs.contains a
  | none => (regDefAt off).isSome

/-- What a read of the register at `off` returns. -/
def State.regView (s : State) (off : Nat) (peek : Bool) : Nat :=
  match dmOf off with
  | some a => s.dmView a
  | none =>
    match regDefAt off with
    | none => 0
    | some (r, _) =>
      if off % 0x10000 = 0xFFF4 ∨ off % 0x10000 = 0xFFFC then s.sev (attnKey off)
      else
        let w := hideWo (s.reg off).toNat r.fields
        match dieOfOff off with
        | some d => s.dieView d off w
        | none => s.hubView off w peek

/-! ### Rights (R731, R759, R760, R782) -/

/-- Whether the debug level lets domain 15 make an access to the register window (R731). -/
def State.levelMay (s : State) (off : Nat) (write : Bool) : Bool :=
  let l := s.debugLevel
  if l = 0 then false
  else if l = 3 ∨ (l = 2 ∧ !write) then true
  else if write then (0x60020 ≤ off && off < 0x60030) || (0x60040 ≤ off && off < 0x60080) || (0x60400 ≤ off && off < 0x60800)
  else 0x60000 ≤ off && off < 0x70000 && !(0x60030 ≤ off && off < 0x6003C) && (dmOf off).isNone

/-- The pads of die `d` whose output bit domain `dom` may change (R760). -/
def State.gpioMask (s : State) (d dom : Nat) : Nat :=
  if dom = 0 ∨ dom = 12 ∨ (dom = 15 ∧ s.debugLevel = 3) then 15 else bitMask 4 (fun k => s.fget (DIE_GPIO_CFG.owner d k) == dom)

/-- The exceptions of R782: what an offset's writes need whatever the table says (none: no exception). -/
def State.writeException (s : State) (dom off : Nat) : Option Bool :=
  let full := dom == 15 && s.debugLevel == 3
  if off = LRD_LAYOUT then some (dom == 13)
  else if off = DBG_TIN_CTL then some full
  else
    match dieOfOff off with
    | none => none
    | some d =>
      let o := off % 0x80000
      if o / 0x10000 = 4 ∧ (o % 0x1000 = 0 ∨ o % 0x1000 = 8) then some (dom == 13)
      else if 0x40 ≤ o ∧ o < 0x50 then some (dom == 0 || dom == 12 || full)
      else if o = 0x50 then some (s.gpioMask d dom != 0)
      else none

/-- Whether domain `dom` may make an access at `off` (R782). -/
def State.regMay (s : State) (dom off : Nat) (write : Bool) : Bool :=
  if 0x70100 ≤ off ∧ off < 0x70184 then dom == 12
  else if (dmOf off).isSome ∧ s.debugLevel < (if write then 3 else 2) then false
  else
    match (if write then s.writeException dom off else none) with
    | some b => b
    | none =>
      match dom with
      | 0 | 12 | 13 => true
      | 15 => s.levelMay off write
      | 1 | 14 => false
      | _ =>
        if write then 0x60400 ≤ off && off < 0x60800
        else (0x30000 ≤ off && off < 0x40000) || ((dieOfOff off).isSome && [0, 1, 5, 6, 7].contains (off % 0x80000 / 0x10000))

/-! ### Access errors -/

/-- What an access answers: a status, its detail and the value read. -/
structure RegAns where
  status : Nat
  detail : Nat
  value : Nat
deriving DecidableEq, Repr

def RegAns.ok (v : Nat) : RegAns := ⟨stDone, 0, v⟩

/-- Reserved addresses of the register window (R777, R46). -/
def regReserved (off : Nat) : Bool := (0xD0000 ≤ off && off < 0x800000) || 0xC00000 ≤ off

/-- A die or hub block without power (R635, R637): the fabric dies in NAP and DEEP, CFG and the spare manager in DEEP. -/
def State.regDark (s : State) (off : Nat) : Bool :=
  (s.power == 3 && !s.fbit PTM_PSTATE.emulated && (off / 0x10000 == 4 || off / 0x10000 == 12)) ||
    ((s.power == 2 || s.power == 3) && (dieOfOff off).isSome)

/-- The state after a discarded access is recorded (R785, R786); `cause` as `GLB_ACC_ERR.cause`. -/
def State.regErr (s : State) (cause dom src off : Nat) : State := s.accErr cause dom src off

/-- The checks every 4-byte access passes before it has an effect: its answer when it stops, with the state. -/
def State.regStop (s : State) (dom src off : Nat) (write posted : Bool) : Option (RegAns × State) :=
  if regReserved off then some (⟨stBadField, 0, 0⟩, s)
  else if s.regDark off then some (⟨stWrongState, 0x100 + s.power, 0⟩, s.regErr 5 dom src off)
  else if !s.regMay dom off write then some (⟨stNoRights, 0, 0⟩, if posted then s.regErr 4 dom src off else s)
  else if !regDefined off then some (.ok 0, s.regErr 2 dom src off)
  else none

/-! ### Reads -/

/-- A word after a consuming read: each RC field holds what hardware sets in it in the same window (R5, R6). -/
def consumeWord (w hw : Nat) : List FieldDef → Nat
  | [] => w
  | f :: r => consumeWord (if f.acc = .rc then setBits w f.lo f.len (bits hw f.lo f.len) else w) hw r

/-- `TIME_NOW_LATCH`: all three words of the present time are latched (R525, R732). -/
def State.latchNow (s : State) (peek : Bool) : State :=
  if peek then { s with time := { s.time with latchPeek := timeWord s.now } } else { s with time := { s.time with latch := timeWord s.now } }

/-- `MTIME_LATCH`: the upper word of `MGC_MTIME` is latched (R628, R732). -/
def State.latchMtime (s : State) (peek : Bool) : State :=
  if peek then { s with time := { s.time with mLatchPeek := s.mtime / 2 ^ 32 } } else { s with time := { s.time with mLatch := s.mtime / 2 ^ 32 } }

/-- What a read of a defined register does beside returning its value. -/
def State.readEffect (s : State) (off : Nat) (peek : Bool) (hw : Nat) : State :=
  if off = TIME_NOW 0 then s.latchNow peek
  else if off = MGC_MTIME 0 then s.latchMtime peek
  else if peek then s
  else if off = MGC_SEC_RSP 0 then { s with mgc := { s.mgc with secRsp := false } }
  else if off = SPR_TIN_DRAIN then
    let t := s.fget SPR_TIN_SEL.tin
    s.setTin t { s.tin t with drain := hw }
  else if off = DBG_DRX then s.fset DBG_DTERM_STAT.rx_full 0
  else
    match regDefAt off with
    | some (r, _) => s.setReg off (BitVec.ofNat 32 (consumeWord (s.reg off).toNat hw r.fields))
    | none => s

/-- One 4-byte read; `hw` is what hardware sets in the register in the same window. -/
def State.regRead1 (s : State) (dom src off : Nat) (peek : Bool) (hw : Nat) : RegAns × State :=
  match s.regStop dom src off false false with
  | some x => x
  | none => (.ok (s.regView off peek), s.readEffect off peek hw)

/-- The 4-byte reads of a longer access (R778): the first status that is not `DONE`, and all the data. -/
def State.regReadN (s : State) (dom src off : Nat) (peek : Bool) : Nat → RegAns × List Byte × State
  | 0 => (.ok 0, [], s)
  | n + 1 =>
    let x := s.regRead1 dom src off peek 0
    let y := x.2.regReadN dom src (off + 4) peek n
    (if x.1.status = stDone then y.1 else x.1, leBytes 4 x.1.value ++ y.2.1, y.2.2)

/-- Whether an access has a width and alignment the register ports serve (R778). -/
def regShapeOk (off n : Nat) : Bool := off % 4 == 0 && n % 4 == 0 && decide (4 ≤ n ∧ n ≤ 512)

/-- A read of `n` bytes of the register window. -/
def State.regRead (s : State) (dom src off n : Nat) (peek : Bool) : RegAns × List Byte × State :=
  if regShapeOk off n then s.regReadN dom src off peek (n / 4) else (⟨stBadField, 0, 0⟩, List.replicate n 0, s.regErr 3 dom src off)

/-- The answer of a register read command. -/
def State.answerRead (s : State) (a : RegAns) : State := { s with answer := some ⟨a.status, leBytes 4 a.value, false⟩ }

/-- Whether a register can be reached: one of a die in reset, without power or lost cannot (R291). -/
def State.regReach (s : State) (off : Nat) : Bool := match dieOfOff off with | some d => !s.dieAway d | none => true

/-- `RC_FIELD_READ`: a consuming read; `hwSet` is what hardware sets in the register in the same window (R5, R6). -/
def execRcFieldRead (off : Nat) (dom : Dom) (src : Nat) (hwSet : Word) (s : State) : Out :=
  if !s.regReach off then .next (s.answerRead ⟨stTimeout, 0, 0⟩)
  else if regShapeOk off 4 then
    let x := s.regRead1 dom.val src off false hwSet.toNat
    .next (x.2.answerRead x.1)
  else .next ((s.regErr 3 dom.val src off).answerRead ⟨stBadField, 0, 0⟩)

/-- `TIME_NOW_LATCH`: a read of `TIME_NOW_0`. -/
def execTimeNowLatch (peek : Bool) (s : State) : Out := .next ((s.latchNow peek).answerRead (.ok (timeWord s.now % 2 ^ 32)))

/-- `MTIME_LATCH`: a read of `MGC_MTIME_LO`. -/
def execMtimeLatch (peek : Bool) (s : State) : Out := .next ((s.latchMtime peek).answerRead (.ok (s.mtime % 2 ^ 32)))

/-- The attention key that an operand of 24 blocks names: hub blocks 0–12, or 16 + d. -/
def attnOk (k : Nat) : Bool := k < 13 || 16 ≤ k

/-- `X_ATTN_CLEAR` (R783): each 1 clears its bit, but a bit that hardware sets in the same window stays 1 (R6). -/
def State.attnClear (s : State) (key v hw : Nat) : State :=
  { s with events := { s.events with attn := Tab.put 0 s.events.attn key (bitMask 6 (fun i => (bit (s.sev key) i && !bit v i) || bit hw i)) } }

/-- `X_ATTN_SET` (R783): each 1 sets its bit of `sev`. -/
def State.attnSetBits (s : State) (key v : Nat) : State :=
  { s with events := { s.events with attn := Tab.put 0 s.events.attn key (bitMask 6 (fun i => bit (s.sev key) i || bit v i)) } }

def execXAttnClear (blk : Fin 24) (value : Word) (hwSet : Word) (s : State) : Out :=
  if attnOk blk.val then .next (s.attnClear blk.val value.toNat hwSet.toNat) else .next s

def execXAttnSet (blk : Fin 24) (value : Word) (s : State) : Out :=
  if attnOk blk.val then .next (s.attnSetBits blk.val value.toNat) else .next s

end Sys2Proof.Machine
end

