-- ==== Sys2Proof/Machine/RegWrite.lean ====
section
/-! DEFINITION. Writes of the register window: what each access code does, and what the registers whose writes act on a unit do
(R5, R8–R11, R778–R786). -/

namespace Sys2Proof.Machine

/-! ### The access codes -/

/-- Whether a value lies among those a field accepts (R11). -/
def FieldDef.accepts (f : FieldDef) (x : Nat) : Bool := decide (f.min ≤ x ∧ x ≤ f.max) && (x - f.min) % f.step == 0

/-- What a write of `v` leaves in a register that held `old`, and whether a field was given a reserved encoding (R5, R11); `locked`
says that the block's lock bit is 1. -/
def storeWord (locked : Bool) (old v : Nat) : List FieldDef → Nat × Bool
  | [] => (old, false)
  | f :: r =>
    let y := storeWord locked old v r
    let x := bits v f.lo f.len
    let put : Nat × Bool := if f.accepts x then (setBits y.1 f.lo f.len x, y.2) else (y.1, true)
    match f.acc with
    | .rw | .rws => put
    | .rwl => if locked then y else put
    | .w1c => (setBits y.1 f.lo f.len (bits old f.lo f.len - (bits old f.lo f.len &&& x)), y.2)
    | .w1s => (setBits y.1 f.lo f.len (bits old f.lo f.len ||| x), y.2)
    | .ro | .rc | .rp | .wo => y

/-- A write without an action of its own. -/
def State.regStore (s : State) (dom src off v : Nat) (locked : Bool := false) : State :=
  match regDefAt off with
  | none => s
  | some (r, _) =>
    let y := storeWord locked (s.reg off).toNat v r.fields
    let s1 := s.setReg off (BitVec.ofNat 32 y.1)
    if y.2 then s1.regErr 1 dom src off else s1

/-! ### Hub registers -/

/-- `LRD_LAYOUT` (R194): ignored as a whole when the sizes would exceed 128 MiB. -/
def State.writeLayout (s : State) (dom src v : Nat) : State :=
  if s.fbit LRD_LAYOUT.lock then s
  else if 128 < bits v 16 8 + bits v 8 8 + bits v 0 8 then s.regErr 1 dom src LRD_LAYOUT
  else s.regStore dom src LRD_LAYOUT v

/-- `TIME_CTL` (R485, R487, R488): in MANUAL the reported state is `soft_state`; PPS mode starts LOCKING. -/
def State.writeTimeCtl (s : State) (dom src v : Nat) : State :=
  let old := s.fget TIME_CTL.disc
  let s1 := s.regStore dom src TIME_CTL v
  let s2 := if s1.fget TIME_CTL.disc = 0 then s1.setDisc (s1.fget TIME_CTL.soft_state)
    else if old = 0 then { s1 with time := { s1.time with good := 0 } }.setDisc 1 else s1
  if bit v 0 then s2.timeSet dom src else s2

/-- `DBG_TRACE_CTL` (R748). -/
def State.writeTraceCtl (s : State) (dom src v : Nat) : State :=
  let s1 := if bit v 31 then s.traceStart else s.traceStop
  s1.regStore dom src DBG_TRACE_CTL (setBit v 31 (s1.fbit DBG_TRACE_CTL.run))

/-- `DBG_TRACE_PORT` (R742): enabling needs a lane at rate code 1 whose MAC port has mode 0. -/
def State.writeTracePort (s : State) (dom src v : Nat) : State :=
  let m := bits v 0 5
  if bit v 31 && !(s.fget (laneRate (64 + m)) == 1 && s.portMode (m / 4) (8 + m % 4) == 0) then s.regErr 1 dom src DBG_TRACE_PORT
  else s.regStore dom src DBG_TRACE_PORT v

/-- `DBG_TIN_CTL` (R744). -/
def State.writeTinCtl (s : State) (dom src v : Nat) : State :=
  let s1 := s.regStore dom src DBG_TIN_CTL v
  if bit v 31 && decide (bits v 28 3 ≤ 4 ∧ bits v 21 4 ≤ 11) then s1.tinOp (bits v 28 3) (bits v 25 3) (bits v 21 4) (bits v 12 9) else s1

/-- `MGC_WDG_CTL_n` (R620): `enable` and `timeout` change only while `lock` is 0, and `lock` is cleared by a core reset alone.  The
count starts when the watchdog is enabled. -/
def State.writeWdg (s : State) (dom src h v : Nat) : State :=
  if s.fbit (MGC_WDG_CTL.lock h) then s.fset (MGC_WDG_CTL.pause h) (bits v 30 1)
  else
    let s1 := s.regStore dom src (MGC_WDG_CTL h) v
    if s1.fbit (MGC_WDG_CTL.enable h) && !s.fbit (MGC_WDG_CTL.enable h) then s1.setHart h { s1.hart h with preBite := false, count := 0 }
    else if s1.fbit (MGC_WDG_CTL.enable h) then s1 else s1.setHart h { s1.hart h with preBite := false }

/-- `MGC_L2_CMO` (R606): `go` starts the operation. -/
def State.writeCmo (s : State) (dom src v : Nat) : State :=
  if s.fbit MGC_L2_CMO.busy then s
  else
    let s1 := s.regStore dom src MGC_L2_CMO v
    if bit v 31 && decide (bits v 28 2 ≤ 2) then s1.cmo (bits v 28 2) else s1

/-- `MGC_EVT_CTL` (R616): enabling starts the ring at entry 0 with phase 1. -/
def State.writeEvtCtl (s : State) (dom src v : Nat) : State :=
  let s1 := s.regStore dom src MGC_EVT_CTL v
  if s1.fbit MGC_EVT_CTL.enable && !s.fbit MGC_EVT_CTL.enable then { s1 with mgc := { s1.mgc with evHead := 0, evTail := 0, evPhase := true } }
  else s1

/-- `HQE_QCTL` (R450); `cids` are those of the descriptors of queue 0 that have not started. -/
def State.hqeQctl (s : State) (dom src v : Nat) (cids : List Nat) : State :=
  if s.fbit HQE_QCTL.enable then (if bit v 31 then s else s.adminDisable cids)
  else
    let s1 := s.regStore dom src HQE_QCTL v
    if bit v 31 then s1.adminEnable else s1

/-- The `cid`s of `n` descriptors that stand in host memory and that the access does not name: free (assumption 4). -/
def freeCids (base n : Nat) : List Nat := (List.range n).map (fun i => Config.freeNat (base + i) % 65536)

/-- A bus write of `HQE_QCTL`. -/
def State.writeQctl (s : State) (dom src v : Nat) : State :=
  let n := s.unstarted 0
  let z := s.takeFree n
  z.2.hqeQctl dom src v (freeCids z.1 n)

/-- A write of `command` (R734): Access Register alone, 32 or 64 bits, no post-execution and no post-increment. -/
def State.dmCommand (s : State) (v : Nat) : State :=
  let size := bits v 20 3
  if bits (s.dmReg dmAbstractcs) 8 3 ≠ 0 then s
  else if bits v 24 8 ≠ 0 ∨ (size ≠ 2 ∧ size ≠ 3) ∨ bit v 19 ∨ bit v 18 then s.cmdErr 2
  else if 4 ≤ s.hartSel ∨ s.fget (MGC_CORE_STAT.state s.hartSel) = 3 then s.cmdErr 4
  else if bit v 17 then s.accessRegister s.hartSel (bits v 0 16) (bit v 16) (size == 3) else s

/-- A write of `dmcontrol` (R734, R735): halt and resume requests of the selected hart. -/
def State.dmControl (s : State) (v : Nat) : State :=
  if !bit v 0 then { s with dbg := { s.dbg with dm := [] } }
  else
    let s1 := s.setDm 0x10 (bits v 16 10 * 2 ^ 16 + bits v 6 10 * 2 ^ 6 + bits v 0 2)
    let h := s1.hartSel
    if 4 ≤ h ∨ s1.fget (MGC_CORE_STAT.state h) = 3 then s1
    else if bit v 31 then s1.haltHart h
    else if bit v 30 then (s1.resumeHart h true true).setDm 0x11 (setBit (s1.dmReg 0x11) h true)
    else s1

/-- A write of a debug-module register (R734). -/
def State.writeDm (s : State) (a v : Nat) : State :=
  if a = 0x10 then s.dmControl v
  else if a = 0x17 then s.dmCommand v
  else if a = 0x16 then s.setDm a (setBits (s.dmReg a) 8 3 (bits (s.dmReg a) 8 3 - (bits (s.dmReg a) 8 3 &&& bits v 8 3)))
  else if a = 0x04 ∨ a = 0x05 then s.setDm a v
  else s

/-- The pads that `PTM_PAD_CTL.release` names (R646). -/
def State.releasePads (s : State) (v : Nat) : State :=
  (List.range 8).foldl (fun a d => if bit v (8 + d) then a.padRelease d else a) s

/-- A write of a hub register. -/
def State.writeHub (s : State) (dom src off v : Nat) : State :=
  let s1 := s.regStore dom src off v
  if off = PTM_WAKE_CTL then (if bit v 31 then s1.wakeSource 2 else s1)
  else if 0x10100 ≤ off ∧ off < 0x10120 then s1.vsetWritten ((off - 0x10100) / 4)
  else if off = PTM_BOOST_CTL then (List.range 8).foldl (fun a d => a.boostCheck d) s1
  else if off = PTM_PAD_CTL then s.releasePads v
  else if off = CLK_CTL then (if bit v 0 then s1.clkSwitch else s1)
  else if off = TIME_CTL then s.writeTimeCtl dom src v
  else if off = TIME_ADJ then s.setSlew v
  else if off = DBG_DTX then s.dtx v
  else if off = DBG_TRACE_CTL then s.writeTraceCtl dom src v
  else if off = DBG_TRACE_PORT then s.writeTracePort dom src v
  else if off = DBG_TIN_CTL then s.writeTinCtl dom src v
  else if 0x60400 ≤ off ∧ off < 0x60800 then s.stimulus ((off - 0x60400) / 4) v src
  else if off = MGC_BOOT then (if bit v 31 then s1.bootStart else s1)
  else if 0x70020 ≤ off ∧ off < 0x70030 then s.writeWdg dom src ((off - 0x70020) / 4) v
  else if 0x70030 ≤ off ∧ off < 0x70040 then s.kick ((off - 0x70030) / 4) v
  else if 0x70090 ≤ off ∧ off < 0x700B0 then s1.setMtip ((off - 0x70090) / 8)
  else if off = MGC_L2_CMO then s.writeCmo dom src v
  else if off = MGC_EVT_CTL then s.writeEvtCtl dom src v
  else if off = MGC_EVT_HEAD then { s with mgc := { s.mgc with evHead := v % 1024 } }
  else if off = MGC_SEC_CTL then (if bit v 31 then s.secGo else s)
  else if off = HQE_QCTL then s.writeQctl dom src v
  else if 0x80010 ≤ off ∧ off < 0x80020 then (if s.fbit HQE_QCTL.enable then s else s1)
  else if off = LRD_LAYOUT then s.writeLayout dom src v
  else s1

/-! ### Registers of a die -/

/-- `MEM_CFG` of a channel (R338, R339): a change of density sets `trfcab`. -/
def State.writeMemCfg (s : State) (dom src c v : Nat) : State :=
  let s1 := s.regStore dom src (MEM_CFG c) v (s.fbit (MEM_CFG.lock c))
  if s1.fget (MEM_CFG.density c) = s.fget (MEM_CFG.density c) then s1
  else s1.fset (MEM_TIMING.trfcab c) (trfcabOf (s1.fget (MEM_CFG.density c)))

/-- A field of a lane's control register that takes one of the values `ok`: the value in force after the write, and whether the value
written is a reserved encoding. -/
def laneField (old v : Nat) (ok : Bool) : Nat × Bool := if ok then (v, false) else (old, true)

/-- `LL_CTL` and `ML_CTL` (R473–R478). -/
def State.writeLane (s : State) (dom src l v : Nat) : State :=
  let req := laneField (s.fget (laneReqState l)) (bits v 29 3) (bits v 29 3 ≤ 4)
  let rate := laneField (s.fget (laneRate l)) (bits v 24 5) (laneRateOk l (bits v 24 5))
  let loop := laneField (s.fget (laneLoopback l)) (bits v 22 2) (bits v 22 2 ≤ 2)
  let gen := laneField (s.fget (laneGen l)) (bits v 16 4) (genPatOk rate.1 (bits v 16 4))
  let chk := laneField (s.fget (laneChk l)) (bits v 12 4) (chkPatOk rate.1 (bits v 12 4))
  let inj := laneField (s.fget (laneInjRate l)) (bits v 6 6) (bits v 6 6 == 0 || (10 ≤ bits v 6 6 && bits v 6 6 ≤ 40))
  let s1 := (((s.fset (laneReqState l) req.1).fset (laneHold l) (bits v 20 1)).fset (laneChk l) chk.1).fset (laneInjRate l) inj.1
  let s2 := if gen.1 = s.fget (laneGen l) then s1 else (s1.fset (laneGen l) gen.1).updateLinks (laneDie l)
  let s3 := (s2.setRate l rate.1).setLoopback l loop.1
  let s4 := if bit v 21 then (let z := s3.takeFree 1; z.2.retrain l (Config.freeNat z.1 % 2 == 1)) else s3
  let s5 := if bit v 5 then s4.injOnce l else s4
  let s6 := if bit v 4 then s5.chkClear l else s5
  if req.2 || rate.2 || loop.2 || gen.2 || chk.2 || inj.2 then s6.regErr 1 dom src (laneBase l) else s6

/-- Two ranges of channels meet. -/
def rangesMeet (a n b m : Nat) : Bool := decide (a < b + m ∧ b < a + n)

/-- Whether a port of a die, configured as given, shares lanes or channels with another enabled port (R524). -/
def State.portOverlap (s : State) (d p : Nat) (ls : List Nat) (base n : Nat) : Bool :=
  (List.range 12).any (fun q => q != p && s.fbit (MAC_PORT_CFG.enable d q) &&
    (ls.any (fun l => (s.portLanes d q).contains l) || rangesMeet base n (s.fget (MAC_PORT_CFG.chan_base d q)) (s.portChans d q)))

/-- The ports that lend their lanes to another port's multi-link interface (R509). -/
def State.portMember (s : State) (d p : Nat) : Bool :=
  (s.fget (SDI_CFG.link d 0) == 2 && (p == 9 || p == 10 || p == 11)) ||
    (p == 9 && s.fget (SDI_CFG.link d 0) == 1) || (p == 11 && s.fget (SDI_CFG.link d 2) == 1)

/-- Whether `mode`, `fec` and `chan_base` of port p keep R495 and R509 and overlap no enabled port. -/
def State.portCfgOk (s : State) (d p mode fec base : Nat) : Bool :=
  if mode = 0 then true
  else
    match portNeeds d p mode (if 8 ≤ p then s.fget (SDI_CFG.std d (p - 8)) else 0) (if 8 ≤ p then s.fget (SDI_CFG.link d (p - 8)) else 0) with
    | none => false
    | some (ls, _, fecs, n) => fecs.contains fec && decide (base + n ≤ 192) && !s.portMember d p && !s.portOverlap d p ls base n

/-- `MAC_PORT_CFG_p` (R495, R524). -/
def State.writePort (s : State) (dom src d p v : Nat) : State :=
  let off := MAC_PORT_CFG d p
  if s.fbit (MAC_PORT_CFG.enable d p) then (s.fset (MAC_PORT_CFG.enable d p) (bits v 31 1)).updateLinks d
  else
    let fec := if bits v 24 2 = 3 then s.fget (MAC_PORT_CFG.fec d p) else bits v 24 2
    let base := if 191 < bits v 14 8 then s.fget (MAC_PORT_CFG.chan_base d p) else bits v 14 8
    if !s.portCfgOk d p (bits v 26 4) fec base then s.regErr 1 dom src off
    else (s.regStore dom src off v).updateLinks d

/-- `SDI_CFG_m` (R505, R509). -/
def State.writeSdi (s : State) (dom src d m v : Nat) : State :=
  let off := SDI_CFG d m
  let std := if 4 < bits v 0 4 then s.fget (SDI_CFG.std d m) else bits v 0 4
  let link := bits v 6 2
  let members : List Nat := if link = 1 then [m + 1] else if link = 2 then [1, 2, 3] else []
  let linkOk := link == 0 || link == 3 ||
    (std == 4 && (if link = 1 then m % 2 == 0 else m == 0) && members.all (fun k => s.portMode d (8 + k) == 0))
  let s1 := s.regStore dom src off v
  let clash := s.portMode d (8 + m) == 13 && s1.portOverlap d (8 + m) (s1.portLanes d (8 + m)) (s1.fget (MAC_PORT_CFG.chan_base d (8 + m))) (s1.portChans d (8 + m))
  if !linkOk || clash then s.regErr 1 dom src off else s1.updateLinks d

/-- `TE_CTL` (R512): a bit for a port whose direction is bound to a queue stays 0. -/
def State.writeTe (s : State) (dom src d v : Nat) : State :=
  let bound (k : Nat) : Bool := s.hqe.queues.any (fun e => match e.2 with | some q => q.type == 1 && q.port == some (8 * d + k) | none => false)
  let mask := bitMask 8 (fun k => bit v (24 + k) && !bound k)
  let s1 := s.regStore dom src (TE_CTL d) (setBits v 24 8 mask)
  if mask = bits v 24 8 then s1 else s1.regErr 1 dom src (TE_CTL d)

/-- `MAC_MEM_BASE` (R520, R524): entries that waited for the block are written when it is enabled. -/
def State.writeMacBase (s : State) (dom src d v : Nat) : State :=
  if s.macOn d then s.fset (MAC_MEM_BASE.enable d) (bits v 31 1)
  else
    let s1 := s.regStore dom src (MAC_MEM_BASE d) v
    if s1.macOn d then (List.range 13).foldl (fun a k => a.cqDrain d k 256) s1 else s1

/-- `MAC_CQ_HEAD` (R522). -/
def State.writeCqHead (s : State) (dom src d v : Nat) : State :=
  let k := bits v 16 4
  if 12 < k then s.regErr 1 dom src (MAC_CQ_HEAD d)
  else if bit v 31 then s.cqReset d k
  else (s.setCq d k { s.cq d k with head := bits v 0 6 }).cqDrain d k 256

/-- `DIE_GPIO_OUT` (R760): only the bits the writer may change. -/
def State.gpioOut (s : State) (d dom v : Nat) : State :=
  let m := s.gpioMask d dom
  s.fset (DIE_GPIO_OUT.out d) (bitMask 4 (fun k => if bit m k then bit v k else bit (s.fget (DIE_GPIO_OUT.out d)) k))

/-- A write of a register of die `d`. -/
def State.writeDie (s : State) (dom src d off v : Nat) : State :=
  let o := off % 0x80000
  let b := o / 0x10000
  if o = 0x50 then s.gpioOut d dom v
  else if o = 0x30000 then (let s1 := s.regStore dom src off v; if bit v 8 then s1.clearMin d 0 else s1)
  else if o = 0x30020 then (let s1 := s.regStore dom src off v; if bit v 8 then s1.clearMin d 1 else s1)
  else if b = 4 ∧ o % 0x1000 = 0 then s.writeMemCfg dom src (2 * d + o % 0x10000 / 0x1000) v
  else if b = 4 ∧ o % 0x1000 = 8 then s.regStore dom src off v (s.fbit (MEM_CFG.lock (2 * d + o % 0x10000 / 0x1000)))
  else if b = 5 ∧ o % 0x100 = 0 then s.writeLane dom src (8 * d + o % 0x10000 / 0x100) v
  else if b = 6 ∧ o % 0x100 = 0 then s.writeLane dom src (64 + 4 * d + o % 0x10000 / 0x100) v
  else if b = 7 ∧ o < 0x70030 then s.writePort dom src d (o % 0x10000 / 4) v
  else if b = 7 ∧ o < 0x70040 then s.writeSdi dom src d ((o % 0x10000 - 0x30) / 4) v
  else if o = 0x70060 then s.writeTe dom src d v
  else if o = 0x70064 then s.writeMacBase dom src d v
  else if o = 0x70068 then s.writeCqHead dom src d v
  else s.regStore dom src off v

/-! ### One access -/

/-- A write that has passed its checks. -/
def State.writeEffect (s : State) (dom src off v : Nat) : State :=
  match dmOf off with
  | some a => s.writeDm a v
  | none =>
    if off % 0x10000 = 0xFFF4 then s.attnClear (attnKey off) v 0
    else if off % 0x10000 = 0xFFFC then s.attnSetBits (attnKey off) v
    else
      match dieOfOff off with
      | some d => s.writeDie dom src d off v
      | none => s.writeHub dom src off v

/-- One 4-byte write. -/
def State.regWrite1 (s : State) (dom src off v : Nat) (posted : Bool) : RegAns × State :=
  match s.regStop dom src off true posted with
  | some x => x
  | none => (.ok 0, s.writeEffect dom src off v)

/-- The 4-byte writes of a longer access (R778). -/
def State.regWriteN (s : State) (dom src off : Nat) (posted : Bool) (l : List Byte) : Nat → RegAns × State
  | 0 => (.ok 0, s)
  | n + 1 =>
    let x := s.regWrite1 dom src off (leAt l 0 4) posted
    let y := x.2.regWriteN dom src (off + 4) posted (l.drop 4) n
    (if x.1.status = stDone then y.1 else x.1, y.2)

/-- A write of the register window. -/
def State.regWrite (s : State) (dom src off : Nat) (l : List Byte) (posted : Bool) : RegAns × State :=
  if regShapeOk off l.length then s.regWriteN dom src off posted l (l.length / 4) else (⟨stBadField, 0, 0⟩, s.regErr 3 dom src off)

/-- `REGISTER_WRITE`: a 4-byte write by the initiator `src` in domain `dom`. -/
def execRegisterWrite (off : Nat) (value : Word) (dom : Dom) (src : Nat) (s : State) : Out :=
  if !s.regReach off then .next (s.answerRead ⟨stTimeout, 0, 0⟩)
  else
    let x := s.regWrite dom.val src off (leBytes 4 value.toNat) false
    .next { x.2 with answer := some ⟨x.1.status, [], false⟩ }

/-- `HQE_QCTL_WRITE` (R450), by the host. -/
def execHqeQctlWrite (v : Word) (cids : List (Fin 65536)) (s : State) : Out :=
  .next (s.hqeQctl 0 nodeHqe v.toNat (cids.map (·.val)))

end Sys2Proof.Machine
end

