-- ==== Sys2Proof/Machine/Pads.lean ====
section
/-! DEFINITION. The user pads, the SMBus port of the board controller and the report of the PCI Express link (R757–R761, R787–R789). -/

namespace Sys2Proof.Machine

/-- `GPIO_OUT_WRITE` (R760): domain `dom` writes `DIE_GPIO_OUT`; with no bit it may change the write is refused, or discarded and
counted when posted. -/
def execGpioOutWrite (d : DieIx) (value : Fin 16) (dom : Dom) (src : Fin 4096) (posted : Bool) (s : State) : Out :=
  let off := DIE_GPIO_OUT d.val
  if !s.regReach off then .next (s.answerRead ⟨stTimeout, 0, 0⟩)
  else
    let x := s.regWrite1 dom.val src.val off value.val posted
    .next { x.2 with answer := if posted then none else some ⟨x.1.status, [], false⟩ }

/-- `PAD_INPUT_CHANGE` (R761): the level that the board puts on a user pad. -/
def execPadInputChange (p : Fin 32) (level : Bool) (s : State) : Out := .next (s.setPad p.val { s.pad p.val with ext := level })

/-! ### SMBus (R788, R789).  A response is the answer; a command answered with NACK leaves no answer -/

/-- The port answers while the device has power, in every power state but OFF. -/
def State.smbusOn (s : State) : Bool := s.powerGood && s.power != 4

/-- A command that is answered with NACK: no effect, no response. -/
def State.nack (s : State) : State := { s with answer := none }

/-- The response of a command. -/
def State.smbusAnswer (s : State) (status : Nat) (d : List Byte) : State := { s with answer := some ⟨status, d, false⟩ }

/-- A command runs when its packet error check is right and the port has power. -/
def State.smbusRun (s : State) (pec : Bool) (f : State → State) : Out := if pec && s.smbusOn then .next (f s) else .next s.nack

/-- `SMBUS_SET_POINTER`: command 0x10. -/
def execSmbusSetPointer (a : Fin 16777216) (pec : Bool) (s : State) : Out :=
  s.smbusRun pec (fun s => { s with smbus := { s.smbus with ptr := a.val }, answer := some ⟨stDone, [], false⟩ })

/-- `SMBUS_READ`: command 0x11, a peek by domain 12; the pointer advances. -/
def execSmbusRead (pec : Bool) (s : State) : Out :=
  s.smbusRun pec (fun s =>
    let p := s.smbus.ptr
    let s1 := { s with smbus := { s.smbus with ptr := (p + 4) % 2 ^ 24 } }
    if !s1.regReach p then s1.smbusAnswer stTimeout (leBytes 4 0)
    else
      let x := s1.regRead 12 nodeHubReg p 4 true
      x.2.2.smbusAnswer x.1.status x.2.1)

/-- `SMBUS_WRITE`: command 0x12, a scratch register alone. -/
def execSmbusWrite (v : Word) (pec : Bool) (s : State) : Out :=
  s.smbusRun pec (fun s =>
    let p := s.smbus.ptr
    let x := if GLB_SCRATCH 0 ≤ p ∧ p < GLB_SCRATCH 4 ∧ p % 4 = 0 then s.regWrite1 12 nodeHubReg p v.toNat false else (⟨stNoRights, 0, 0⟩, s)
    { x.2 with smbus := { x.2.smbus with status := x.1.status }, answer := some ⟨stDone, [], false⟩ })

/-- `SMBUS_WRITE_STATUS`: command 0x13. -/
def execSmbusWriteStatus (pec : Bool) (s : State) : Out := s.smbusRun pec (fun s => s.smbusAnswer stDone (leBytes 1 s.smbus.status))

/-- `SMBUS_ATTN_SUM`: command 0x20. -/
def execSmbusAttnSum (pec : Bool) (s : State) : Out := s.smbusRun pec (fun s => s.smbusAnswer stDone (leBytes 4 s.attnSum))

/-- The highest Tj of the dies and the hub that have a working sensor (R788). -/
def State.highestTj (s : State) : Int :=
  let l := (List.range 9).filter (fun d => s.fget (PTM_TJ.ok d) != 0)
  let v := (if l.isEmpty then List.range 9 else l).map (fun d => toSigned (s.fget (PTM_TJ.tj d)) 11)
  v.foldl max (v.headD 0)

/-- `SMBUS_TJ`: command 0x21. -/
def execSmbusTj (pec : Bool) (s : State) : Out := s.smbusRun pec (fun s => s.smbusAnswer stDone (leBytes 2 (ofSigned s.highestTj 16)))

/-- `SMBUS_CURRENT`: command 0x22, in units of 10 mA. -/
def execSmbusCurrent (pec : Bool) (s : State) : Out := s.smbusRun pec (fun s => s.smbusAnswer stDone (leBytes 2 (s.fget PTM_VIN.ma / 10)))

/-! ### The PCI Express link (R399, R787) -/

/-- `PCIE_LINK_CHANGE`: what the link of a port reports, and the errors reported through AER since; port 1 reads 0 while the link is
not bifurcated. -/
def execPcieLinkChange (p : Fin 2) (up flit : Bool) (gen : Fin 7) (width : Fin 3) (ltssm : Fin 8) (corr uncorr : Nat) (s : State) : Out :=
  if p.val = 1 ∧ s.straps / 4 % 2 = 0 then .next s
  else
    let s1 := if ltssm.val = 4 ∧ s.fget (PCIE_LINK.ltssm p.val) ≠ 4 then s.fsat (PCIE_LINK.recoveries p.val) 1 else s
    let w := if gen.val = 0 then 0 else 4 * 2 ^ width.val
    let s2 := ((((s1.fset (PCIE_LINK.up p.val) (b2n up)).fset (PCIE_LINK.flit p.val) (b2n flit)).fset (PCIE_LINK.gen p.val) gen.val).fset
      (PCIE_LINK.width p.val) w).fset (PCIE_LINK.ltssm p.val) ltssm.val
    .next ((s2.fsat (PCIE_ERR.corr p.val) corr).fsat (PCIE_ERR.uncorr p.val) uncorr)

end Sys2Proof.Machine
end

