-- ==== Sys2Proof/Machine/Targets.lean ====
section
/-! DEFINITION. What a packet does at its target, what a response does at its initiator, and the requests of the BARs and of the debug
access port (R46, R47, R271–R275, R286–R291, R405–R409, R504, R609, R730–R733, R794); the first event of a hold and its rail fault
(R55–R59). -/

namespace Sys2Proof.Machine

/-! ### Holds (R55–R59, R584–R586) -/

/-- A rail fault at crumb `c` of batch `b`: the crust stalls every port, the tin stops and the spare manager acts. -/
def State.railFault (s : State) (t b c : Nat) : State :=
  let d := t / 13
  let r := s.roleOf t
  let x := s.tin t
  let s1 := (s.setTin t { x.stallAll with stopped := true, faults := x.faults ++ [16 * b + c] }).fsat (TIN_STAT.faults t) 1
  let s2 := s1.post 0x0100 3 (some d) (tinUnit r (t % 13)) (16 * b + c)
  if r < 12 then s2.beginRestart d r false else s2

/-- `HOLD_FILL`: t1 (R56); both rail sums firing is a rail fault. -/
def execHoldFill (t : TinIx) (b : Fin 2048) (c : Fin 16) (m : Fin 4) (s : State) : Out :=
  match (s.tin t.val).fireRails b.val c.val m.val with
  | none => .next s
  | some r =>
    if r.isData then .next (s.setTin t.val ((s.tin t.val).fill b.val c.val m.val r.t).settle)
    else .next (s.railFault t.val b.val c.val)

/-- `TIN_RAIL_FAULT` (R59): both rails of a used input of a crumb have gone high. -/
def execTinRailFault (t : TinIx) (b : Fin 2048) (c : Fin 16) (s : State) : Out :=
  let x := s.tin t.val
  if x.running && (List.range 12).any (crumbInputUsed (x.crumb b.val c.val)) then .next (s.railFault t.val b.val c.val) else .next s

/-! ### Targets -/

/-- A posted packet is discarded by the target `node` (R290). -/
def State.postedLost (s : State) (node : Nat) : State :=
  s.postLimited (0x20200 + node) 0x0402 3 (if node / 256 = 0 then none else some (node / 256 - 1)) node 1

/-- A request at the larder (R189–R196): a packet received as poisoned writes poisoned data. -/
def State.larderTarget (s : State) (f : Nat) (p : Packet) (loc : Nat) (err : MemErr) : State :=
  let x := (s.dropFlight f).larderAccess p err
  match x.1 with
  | some q => x.2.launch q loc
  | none => x.2

/-- A request at a register port (R275, R286, R778–R782); `off` is its window offset. -/
def State.regTarget (s : State) (f : Nat) (p : Packet) (loc node off : Nat) : State :=
  let s0 := s.dropFlight f
  match p.cmd with
  | .read =>
    let x := s0.regRead p.domain p.src off p.bytes false
    x.2.2.launch (p.reply node x.1.status x.1.detail x.2.1 false true) loc
  | .write =>
    if p.poison then s0.launch (p.refuse node stPoisoned 0) loc
    else
      let x := s0.regWrite p.domain p.src off p.data false
      x.2.launch (p.refuse node x.1.status x.1.detail) loc
  | .writePosted =>
    if p.poison then s0.postedLost node
    else
      let x := s0.regWrite p.domain p.src off p.data true
      if x.1.status = stDone then x.2 else x.2.postedLost node
  | _ => s0.launch (p.refuse node stBadOpcode 0) loc

/-- Whether the crust of a role's tin is open to accesses: loaded and not isolated (R47). -/
def State.roleOpen (s : State) (t : Nat) : Bool := !(s.tin t).isBlank && (s.tinState t == tsInService || s.tinState t == tsFrozen)

/-- A request at the NoC port of a role's tin (R47, R275): delivered to the design, which answers it by `NOC_INJECT`; a posted one is
handed over as the answer. -/
def State.tinTarget (s : State) (f : Nat) (p : Packet) (loc node t : Nat) : State :=
  let x := s.tin t
  if !s.roleOpen t then s.answerAt f p loc node stWrongState 0 (fun a => if p.cmd = .message then a.discard node else a.postedLost node)
  else if x.frozen || s.halted then s
  else if p.cmd.atomic && !x.acceptAtomic then s.answerAt f p loc node stBadOpcode 0 id
  else if p.cmd.posted then { s.dropFlight f with answer := some ⟨stDone, p.data, p.poison⟩ }
  else (s.dropFlight f).setTin t { x with nocIn := x.nocIn ++ [p] }

/-- A message at a stream port (R504). -/
def State.streamTarget (s : State) (f : Nat) (p : Packet) (d k : Nat) : State :=
  let s0 := s.dropFlight f
  if !s.fbit (SP_ROUTE.valid d k) || s.fget (SP_ROUTE.node d k) != p.src then s0.fsat (SP_ROUTE.rejected d k) 1
  else
    let v := s0.sp d k
    let first := bit p.addr 0
    let bad := if first then v.cur.isSome else v.cur.isNone
    let s1 := if bad then s0.badRecord d else s0
    if !first && v.cur.isNone then s1
    else
      let old := if first then ([], false) else v.cur.getD ([], false)
      let l := old.1 ++ p.data
      let poison := old.2 || p.poison
      if bit p.addr 1 then
        let h := recOf l
        s1.setSp d k { v with cur := none, recs := v.recs ++ [{ h with hdr := setBit h.hdr 125 (poison || h.poison) }] }
      else s1.setSp d k { v with cur := some (l, poison) }

/-- A request that has reached its target. -/
def State.targetReq (s : State) (f : Nat) (p : Packet) (loc : Nat) (err : MemErr) : State :=
  match nodeOf p.dst with
  | some (.mem c) => s.memArrive f c p
  | some (.role d r) => s.tinTarget f p loc p.dst (s.tinOf d r)
  | some (.dieReg _) => s.regTarget f p loc p.dst (p.addr - 0x4000000000)
  | some (.hub n) =>
    if n = nodeLarder then s.larderTarget f p loc err
    else if n = nodeHubReg then s.regTarget f p loc p.dst (p.addr - 0x4000000000)
    else s.answerAt f p loc p.dst stBadOpcode 0 (fun a => a.discard p.dst)
  | some _ => s.answerAt f p loc p.dst stBadOpcode 0 (fun a => a.discard p.dst)
  | none => s

/-- The packet of flight `f` acts at its target when it has arrived and its command is `cmd`. -/
def State.atCmd (s : State) (f : Nat) (cmd : PCmd) (go : Packet → Nat → State) : Out :=
  match s.atTarget f with
  | some (p, loc) => if p.cmd = cmd then .next (go p loc) else .next s
  | none => .next s

/-- `READ`. -/
def execRead (f : Nat) (err : MemErr) (s : State) : Out := s.atCmd f .read (fun p loc => s.targetReq f p loc err)
/-- `WRITE`. -/
def execWrite (f : Nat) (err : MemErr) (s : State) : Out := s.atCmd f .write (fun p loc => s.targetReq f p loc err)
/-- `WRITE_POSTED`. -/
def execWritePosted (f : Nat) (err : MemErr) (s : State) : Out := s.atCmd f .writePosted (fun p loc => s.targetReq f p loc err)
/-- `ATOMIC_ADD`. -/
def execAtomicAdd (f : Nat) (err : MemErr) (s : State) : Out := s.atCmd f .atomicAdd (fun p loc => s.targetReq f p loc err)
/-- `ATOMIC_SWAP`. -/
def execAtomicSwap (f : Nat) (err : MemErr) (s : State) : Out := s.atCmd f .atomicSwap (fun p loc => s.targetReq f p loc err)
/-- `ATOMIC_CAS`. -/
def execAtomicCas (f : Nat) (err : MemErr) (s : State) : Out := s.atCmd f .atomicCas (fun p loc => s.targetReq f p loc err)

/-- `MESSAGE` (R794). -/
def execMessage (f : Nat) (s : State) : Out :=
  s.atCmd f .message (fun p loc =>
    match nodeOf p.dst with
    | some (.role d r) => s.tinTarget f p loc p.dst (s.tinOf d r)
    | some (.stream d k) => s.streamTarget f p d k
    | _ => (s.dropFlight f).discard p.dst)

/-! ### BAR requests (R405–R409) -/

/-- The outcome of a BAR request, as its answer: successful completion, completion with poisoned data, or completer abort. -/
def barAnswer (b : BarReq) : Option Answer :=
  if b.read then some (if b.failed then ⟨stAborted, [], false⟩ else ⟨stDone, b.data, b.poison⟩) else none

/-- Part of a BAR request has been answered: `at_` is its place in the data. -/
def BarReq.take (b : BarReq) (at_ status : Nat) (data : List Byte) (poison : Bool) : BarReq :=
  if b.read then
    if stOk status ∨ status = stPoisoned then
      { b with data := b.data.take at_ ++ data ++ b.data.drop (at_ + data.length), poison := b.poison || poison || status == stPoisoned }
    else { b with failed := true }
  else b

/-- A NoC request of a posted BAR write that fails is counted (R409). -/
def State.barCount (s : State) (b : BarReq) (status : Nat) : State := if b.read ∨ stOk status then s else s.fsat HQE_ERR.bar_denied 1

/-- The device address behind an offset of BAR_0 or BAR_4 (R405). -/
def barAddr (bar4 : Bool) (off : Nat) : Nat :=
  if bar4 then (if off < 0x800000000 then larderBase + off else 0x3000000000 + (off - 0x800000000)) else 0x4000000000 + off

/-- The requests of `n` bytes at `a` (R408): parts up to the next 512-byte boundary; one in the larder that keeps to 4-byte boundaries
is split further. -/
def barParts : Nat → Nat → Nat → List (Nat × Nat)
  | 0, _, _ => []
  | k + 1, a, n =>
    if n = 0 then []
    else
      let m := min n (512 - a % 512)
      let l := if a % 4 = 0 ∧ m % 4 = 0 then reqLen a m else m
      (a, l) :: barParts k (a + l) (n - l)

/-- Whether a part breaks the 4-byte rule of R408. -/
def barMisaligned (s : State) (a n : Nat) : Bool :=
  (match s.place a with | some (.larder _) => true | some (.reg _) => true | _ => false) && !(a % 4 == 0 && n % 4 == 0)

/-- One part of a BAR request: an answer at once, or the tag it waits for. -/
def State.barPart (s : State) (fn : Nat) (read : Bool) (a n : Nat) (data : List Byte) (poison : Bool) (err : MemErr) :
    Option (Nat × List Byte × Bool) × Option Nat × State :=
  if barMisaligned s a n then (some (stBadField, [], false), none, s)
  else
    match s.place a with
    | some (.reg off) =>
      if !s.regReach off then (some (stTimeout, [], false), none, s)
      else if read then (let x := s.regRead fn nodeHqe off n false; (some (x.1.status, x.2.1, false), none, x.2.2))
      else if poison then (some (stPoisoned, [], false), none, s)
      else (let x := s.regWrite fn nodeHqe off data false; (some (x.1.status, [], false), none, x.2))
    | _ =>
      let r := s.hqeReq (hubReq nodeHqe (if read then .read else .write) fn 1 a n data poison) err
      match r.1, r.2.1 with
      | some p, _ => (some (p.status, p.data, p.poison), none, r.2.2)
      | none, some t => (none, some t, r.2.2)
      | none, none => (some (stTimeout, [], false), none, r.2.2)

/-- The parts of a BAR request, in ascending order; `base` is its first address. -/
def State.barRun (s : State) (fn : Nat) (b : BarReq) (base : Nat) (data : List Byte) (poison : Bool) (err : MemErr) :
    List (Nat × Nat) → BarReq × State
  | [] => (b, s)
  | (a, n) :: r =>
    let x := s.barPart fn b.read a n (slice data (a - base) n) poison err
    match x.1, x.2.1 with
    | some (st, d, p), _ => ((x.2.2).barCount b st).barRun fn (b.take (a - base) st d p) base data poison err r
    | none, some t => (x.2.2).barRun fn { b with waits := b.waits ++ [(t, a - base)] } base data poison err r
    | none, none => (x.2.2).barRun fn b base data poison err r

/-- A BAR request ends at once when nothing of it waits. -/
def State.barEnd (s : State) (b : BarReq) : State :=
  if b.waits.isEmpty then { s with answer := barAnswer b } else { s with hqe := { s.hqe with bars := s.hqe.bars ++ [b] }, answer := none }

/-- Whether function `fn` has the BAR and the range lies in it (R405). -/
def barOk (fn : Nat) (bar4 : Bool) (off n : Nat) : Bool :=
  if bar4 then decide (off + n ≤ 2 ^ 36) else fn == 0 && decide (off + n ≤ 2 ^ 24)

/-- The halt-cause registers, which alone are read during a security halt (R387). -/
def haltRegs (bar4 : Bool) (off n : Nat) : Bool := !bar4 && decide (SEC_HALT_CAUSE ≤ off ∧ off + n ≤ SEC_HALT_NS + 4)

/-- `BAR_READ`: `n` bytes at offset `off` of BAR_0 or BAR_4 (R408, R409).  Not issued while a BAR write of the function is unanswered,
nor while the injection interface is held for a reroute. -/
def execBarRead (fn : Fin 2) (bar4 : Bool) (off n : Nat) (err : MemErr) (s : State) : Out :=
  if !barOk fn.val bar4 off n then .next s
  else if s.halted && !haltRegs bar4 off n then .next { s with answer := some ⟨stAborted, [], false⟩ }
  else if s.noc.reroute || s.hqe.bars.any (fun b => b.fn == fn.val && !b.read) then .next s
  else
    let a := barAddr bar4 off
    let x := s.barRun fn.val ⟨fn.val, true, [], List.replicate n 0, false, false⟩ a [] false err (barParts n a n)
    .next (x.2.barEnd x.1)

/-- `BAR_WRITE` (R408, R409): posted; `ep` says that the host's data is poisoned. -/
def execBarWrite (fn : Fin 2) (bar4 : Bool) (off : Nat) (data : List Byte) (ep : Bool) (err : MemErr) (s : State) : Out :=
  if !barOk fn.val bar4 off data.length then .next s
  else if s.halted then .next (s.fsat HQE_ERR.bar_denied 1)
  else if s.noc.reroute then .next s
  else
    let a := barAddr bar4 off
    let x := s.barRun fn.val ⟨fn.val, false, [], [], false, false⟩ a data ep err (barParts data.length a data.length)
    .next (x.2.barEnd x.1)

/-- The answer to tag `t` of a BAR request, if one waits for it. -/
def State.barReply (s : State) (t status : Nat) (data : List Byte) (poison : Bool) : Option State :=
  match s.hqe.bars.find? (fun b => b.waits.any (fun w => w.1 == t)) with
  | none => none
  | some b =>
    let at_ := ((b.waits.find? (fun w => w.1 == t)).map (·.2)).getD 0
    let b1 := { b.take at_ status data poison with waits := b.waits.filter (fun w => w.1 != t) }
    let s1 := s.barCount b status
    let rest := s1.hqe.bars.erase b
    some (if b1.waits.isEmpty then { s1 with hqe := { s1.hqe with bars := rest }, answer := barAnswer b1 }
      else { s1 with hqe := { s1.hqe with bars := s1.hqe.bars.map (fun c => if c = b then b1 else c) } })

/-- Tags given up: outstanding no more, in quarantine (R289). -/
def State.giveUp (s : State) (src : Nat) (tags : List Nat) : State :=
  let gone := s.noc.out.filter (fun o => o.src == src && tags.contains o.tag)
  ({ s with noc := { s.noc with out := s.noc.out.filter (fun o => !(o.src == src && tags.contains o.tag)), quar := s.noc.quar ++ gone } }).fsat
    (timeoutsFld src) gone.length

/-- `BAR_TIMEOUT` (R409): the i-th BAR request under way has gone 50 µs without an answer. -/
def execBarTimeout (i : Nat) (s : State) : Out :=
  match s.hqe.bars[i]? with
  | none => .next s
  | some b =>
    let s1 := s.giveUp nodeHqe (b.waits.map (·.1))
    let s2 := { s1 with hqe := { s1.hqe with bars := s1.hqe.bars.eraseIdx i } }
    .next (if b.read then { s2 with answer := some ⟨stAborted, [], false⟩ } else s2.fsat HQE_ERR.bar_denied b.waits.length)

/-! ### The debug access port (R730–R733) -/

/-- What Capture-DR loads (R730). -/
def State.dapCapture (s : State) : List Byte :=
  leBytes 10 (s.dbg.dapData + b2n s.dbg.dapWait.isSome * 2 ^ 71 + s.dbg.dapStatus * 2 ^ 72)

/-- The access has completed. -/
def State.dapDone (s : State) (status : Nat) (data : List Byte) : State :=
  { s with dbg := { s.dbg with dapStatus := status, dapData := leAt data 0 4, dapWait := none } }

/-- Whether the debug level allows an access of the port (R731). -/
def State.dapMay (s : State) (a : Nat) (write : Bool) : Bool :=
  let l := s.debugLevel
  if l = 3 then true
  else
    match s.place a with
    | some (.reg off) => s.levelMay off write
    | some (.larder o) => !write && (l == 2 || (l == 1 && (match s.region o with | .trace => true | _ => false)))
    | _ => !write && l == 2

/-- A request of the port carried out. -/
def State.dapGo (s : State) (a : Nat) (data : List Byte) (write consume : Bool) (err : MemErr) : State :=
  if a % 4 ≠ 0 then s.dapDone stBadField []
  else if !s.dapMay a write then s.dapDone stNoRights []
  else
    let p := hubReq nodeDbg (if write then .write else .read) 15 1 a 4 data false
    match s.place a with
    | some (.tin _ _) =>
      if !write && !consume then s.dapDone stDebugUnsafe []
      else
        let t := ((List.range 4096).find? (fun i => !s.tagBusy nodeDbg i)).getD 0
        let s1 := s.inject nodeDbg { p with tag := t }
        if s.noc.out.length < s1.noc.out.length then { s1 with dbg := { s1.dbg with dapWait := some t } } else s1.dapDone stBusy []
    | some (.reg off) =>
      if !s.regReach off then s.dapDone stTimeout []
      else if write then (let x := s.regWrite 15 nodeDbg off data false; x.2.dapDone x.1.status [])
      else (let x := s.regRead 15 nodeDbg off 4 (!consume); x.2.2.dapDone x.1.status x.2.1)
    | _ =>
      let r := s.memAccess p err
      match r.1 with
      | some q => r.2.dapDone q.status q.data
      | none => r.2.dapDone stTimeout []

/-- A scan of the DAP: the data register is captured, and at Update-DR the request is taken unless the port is busy (R725, R730). -/
def State.dapScan (s : State) (a : Nat) (data : List Byte) (write consume : Bool) (err : MemErr) : State :=
  if !s.tapOn then s
  else if !s.mayJt then s.bypassIr
  else if s.dbg.dapWait.isSome then s.selectIr 0x12 stBusy s.dapCapture
  else (s.selectIr 0x12 stDone s.dapCapture).dapGo a data write consume err

/-- `DAP_READ`; `inc` has no effect that the device shows, since every request brings its own address. -/
def execDapRead (a : Fin 1099511627776) (consume inc : Bool) (err : MemErr) (s : State) : Out :=
  .next (s.dapScan a.val [] false consume err)
/-- `DAP_WRITE`. -/
def execDapWrite (a : Fin 1099511627776) (w : Word) (inc : Bool) (err : MemErr) (s : State) : Out :=
  .next (s.dapScan a.val (leBytes 4 w.toNat) true false err)

/-! ### Responses (R289, R379, R609) -/

/-- Whether a response answers an outstanding or quarantined request. -/
def Outst.isOf (o : Outst) (p : Packet) : Bool := o.src == p.dst && o.tag == p.tag && o.epoch == p.epoch && o.addr == p.addr

/-- The COPY whose present request has tag `t`. -/
def State.copyWaiting (s : State) (t : Nat) : Option (Nat × Nat) :=
  s.hqe.queues.findSome? (fun e => match e.2 with
    | some v => let k := v.run.findIdx (fun j => j.tag == some t); if k < v.run.length then some (e.1, k) else none
    | none => none)

/-- What an initiator of the hub does with the answer to its request. -/
def State.hubReply (s : State) (src tag addr status : Nat) (data : List Byte) (poison : Bool) : State :=
  if src = nodeHqe then
    match s.barReply tag status data poison with
    | some s1 => s1
    | none => match s.copyWaiting tag with
      | some (q, k) => s.copyReply q k status data poison
      | none => s
  else if src = nodeMgc then
    if tag < 16 then
      if stOk status && !poison then { s with answer := some ⟨status, data, false⟩ } else s.trap tag 5 addr
    else if stOk status then s else s.busErr addr status
  else if src = nodeDbg ∧ s.dbg.dapWait = some tag then s.dapDone status data
  else { s with answer := some ⟨status, data, poison⟩ }

/-- A response completes the request `o` (R289); the crust of a proofing tin numbers a read that is not yet proofed (R379). -/
def State.complete (s : State) (o : Outst) (p : Packet) : State :=
  let s1 := { s with noc := { s.noc with out := s.noc.out.erase o } }
  match nodeOf p.dst with
  | some (.role d r) =>
    let t := s.tinOf d r
    let x := s.tin t
    let s2 := { s1 with answer := some ⟨p.status, p.data, p.poison⟩ }
    if p.proof || !x.proofing then s2
    else s2.setTin t { x with seq := (x.seq + 1) % 2 ^ 32, reads := x.reads ++ [⟨p.tag, p.epoch, (x.seq + 1) % 2 ^ 32⟩] }
  | _ => s1.hubReply p.dst p.tag p.addr p.status p.data p.poison

/-- A response that its initiator must hold by back-pressure: its tin holds 256 unproofed reads (R379). -/
def State.crustFull (s : State) (p : Packet) : Bool :=
  match nodeOf p.dst with
  | some (.role d r) => let x := s.tin (s.tinOf d r); !p.proof && x.proofing && decide (256 ≤ x.reads.length)
  | _ => false

/-- `RESPONSE`: it completes its request, ends a quarantine, or is late; a notice proofs a read (R371, R379). -/
def execResponse (f : Nat) (s : State) : Out :=
  s.atCmd f .response (fun p _ =>
    let s0 := s.dropFlight f
    if p.notice then
      match nodeOf p.dst with
      | some (.role d r) =>
        let t := s.tinOf d r
        let x := s.tin t
        s0.setTin t { x with reads := x.reads.eraseP (fun q => q.tag == p.tag && q.epoch == p.epoch) }
      | _ => s0
    else
      match s.noc.out.find? (fun o => o.isOf p) with
      | some o => if s.crustFull p then s else s0.complete o p
      | none =>
        match s.noc.quar.find? (fun o => o.isOf p) with
        | some o => { s0 with noc := { s0.noc with quar := s0.noc.quar.erase o } }.fsat (lateFld p.dst) 1
        | none => s0.fsat (lateFld p.dst) 1)

/-- The data bytes the answer to an outstanding request carries (R271, R288). -/
def Outst.respBytes (o : Outst) : Nat :=
  match o.cmd with
  | .read | .atomicAdd | .atomicSwap | .atomicCas => o.bytes
  | _ => 0

/-- `NOC_TIMEOUT` (R288–R290, R300): the timer of the i-th outstanding request expires, and its initiator completes it itself.  The
requests of BARs have their own timeout (R409). -/
def execNocTimeout (i : Nat) (s : State) : Out :=
  match s.noc.out[i]? with
  | none => .next s
  | some o =>
    if o.src == nodeHqe && s.hqe.bars.any (fun b => b.waits.any (fun w => w.1 == o.tag)) then .next s
    else
      let n := o.respBytes
      let s1 := { s with noc := { s.noc with out := s.noc.out.eraseIdx i, quar := s.noc.quar ++ [o] } }
      let s2 := if o.src / 256 = 0 then s1.hubReply o.src o.tag o.addr stTimeout (List.replicate n 0) (decide (n ≠ 0))
        else { s1 with answer := some ⟨stTimeout, List.replicate n 0, decide (n ≠ 0)⟩ }
      .next ((s2.fsat (timeoutsFld o.src) 1).postLimited (0x30000 + o.src) 0x0400 0 (if o.src / 256 = 0 then none else some (o.src / 256 - 1)) o.src 1)

end Sys2Proof.Machine
end

