-- ==== Sys2Proof/Machine/Dispatch.lean ====
section
/-! DEFINITION. The dispatch: one arm for every command, each one direct call of the command's meaning. -/

namespace Sys2Proof.Machine

def exec (i : Instr) (s : State) : Host.Outcome State Fault Refusal :=
  match i with
  | .registerWrite off value dom src => Sys2Proof.Machine.execRegisterWrite off value dom src s
  | .rcFieldRead off dom src hwSet => Sys2Proof.Machine.execRcFieldRead off dom src hwSet s
  | .xAttnClear blk value hwSet => Sys2Proof.Machine.execXAttnClear blk value hwSet s
  | .xAttnSet blk value => Sys2Proof.Machine.execXAttnSet blk value s
  | .timeNowLatch peek => Sys2Proof.Machine.execTimeNowLatch peek s
  | .mtimeLatch peek => Sys2Proof.Machine.execMtimeLatch peek s
  | .holdFill t b c m => Sys2Proof.Machine.execHoldFill t b c m s
  | .holdAcknowledge t b c m => Sys2Proof.Machine.execHoldAcknowledge t b c m s
  | .holdEmpty t b c m => Sys2Proof.Machine.execHoldEmpty t b c m s
  | .holdAckFall t b c m => Sys2Proof.Machine.execHoldAckFall t b c m s
  | .tinRailFault t b c => Sys2Proof.Machine.execTinRailFault t b c s
  | .crustPortModeChange t p => Sys2Proof.Machine.execCrustPortModeChange t p s
  | .crustInboundToken t p tok => Sys2Proof.Machine.execCrustInboundToken t p tok s
  | .crustOutboundToken t p => Sys2Proof.Machine.execCrustOutboundToken t p s
  | .proofingGateRelease t p => Sys2Proof.Machine.execProofingGateRelease t p s
  | .proofNotice t tag epoch => Sys2Proof.Machine.execProofNotice t tag epoch s
  | .rateRingWindow t c0 c1 c2 c3 stable => Sys2Proof.Machine.execRateRingWindow t c0 c1 c2 c3 stable s
  | .wearCheck t => Sys2Proof.Machine.execWearCheck t s
  | .telemetryInterval temps mv ma => Sys2Proof.Machine.execTelemetryInterval temps mv ma s
  | .vfabRamp d => Sys2Proof.Machine.execVfabRamp d s
  | .channelTokenSend r => Sys2Proof.Machine.execChannelTokenSend r s
  | .channelTokenCapture r ms => Sys2Proof.Machine.execChannelTokenCapture r ms s
  | .channelAckReceived r ms => Sys2Proof.Machine.execChannelAckReceived r ms s
  | .sweep sm z ms => Sys2Proof.Machine.execSweep sm z ms s
  | .sweepGap sm c => Sys2Proof.Machine.execSweepGap sm c s
  | .spareWireCopyStart sm z w => Sys2Proof.Machine.execSpareWireCopyStart sm z w s
  | .seamWireSpared sm z agree => Sys2Proof.Machine.execSeamWireSpared sm z agree s
  | .channelMoveHold sm c => Sys2Proof.Machine.execChannelMoveHold sm c s
  | .seamChannelMoved sm c => Sys2Proof.Machine.execSeamChannelMoved sm c s
  | .seamFold sm entry => Sys2Proof.Machine.execSeamFold sm entry s
  | .seamPeerLost e => Sys2Proof.Machine.execSeamPeerLost e s
  | .seamTraining sm ms => Sys2Proof.Machine.execSeamTraining sm ms s
  | .clearMin e => Sys2Proof.Machine.execClearMin e s
  | .pantryRead t p portB err => Sys2Proof.Machine.execPantryRead t p portB err s
  | .pantryWrite t p portB err => Sys2Proof.Machine.execPantryWrite t p portB err s
  | .pantrySwap t p portB err => Sys2Proof.Machine.execPantrySwap t p portB err s
  | .pantryRowSpared t p row => Sys2Proof.Machine.execPantryRowSpared t p row s
  | .pantryScrub t p err => Sys2Proof.Machine.execPantryScrub t p err s
  | .fifoWrite t p upset => Sys2Proof.Machine.execFifoWrite t p upset s
  | .fifoRead t p upset err => Sys2Proof.Machine.execFifoRead t p upset err s
  | .fifoEventConsume t p => Sys2Proof.Machine.execFifoEventConsume t p s
  | .stale t p => Sys2Proof.Machine.execStale t p s
  | .larderRead addr bytes dom err => Sys2Proof.Machine.execLarderRead addr bytes dom err s
  | .larderWrite addr data dom posted poison err => Sys2Proof.Machine.execLarderWrite addr data dom posted poison err s
  | .larderScrub bank err => Sys2Proof.Machine.execLarderScrub bank err s
  | .larderCheckerTest bank activeOk standbyOk disagree => Sys2Proof.Machine.execLarderCheckerTest bank activeOk standbyOk disagree s
  | .poolPush list entry upset ownerErr => Sys2Proof.Machine.execPoolPush list entry upset ownerErr s
  | .poolPop list upset nextErr ownerErr => Sys2Proof.Machine.execPoolPop list upset nextErr ownerErr s
  | .poolSweep => Sys2Proof.Machine.execPoolSweep s
  | .selfTestAndFill die badTins badBanks poolOk => Sys2Proof.Machine.execSelfTestAndFill die badTins badBanks poolOk s
  | .memCorrected inst => Sys2Proof.Machine.execMemCorrected inst s
  | .mixerOperation t q parity => Sys2Proof.Machine.execMixerOperation t q parity s
  | .mixerSearch t q parity => Sys2Proof.Machine.execMixerSearch t q parity s
  | .clkRefLost f => Sys2Proof.Machine.execClkRefLost f s
  | .clkRefRestored f => Sys2Proof.Machine.execClkRefRestored f s
  | .clkSwitchover lostLock => Sys2Proof.Machine.execClkSwitchover lostLock s
  | .clkCtlSwitch => Sys2Proof.Machine.execClkCtlSwitch s
  | .clkGenReady => Sys2Proof.Machine.execClkGenReady s
  | .clkGenFault lostLock => Sys2Proof.Machine.execClkGenFault lostLock s
  | .clkOutputGate => Sys2Proof.Machine.execClkOutputGate s
  | .clkPathSpared d => Sys2Proof.Machine.execClkPathSpared d s
  | .controlCrossing d g n level => Sys2Proof.Machine.execControlCrossing d g n level s
  | .eventCrossing d g n clocked ack => Sys2Proof.Machine.execEventCrossing d g n clocked ack s
  | .valuePublish d g n v => Sys2Proof.Machine.execValuePublish d g n v s
  | .edgeUnstable d g n => Sys2Proof.Machine.execEdgeUnstable d g n s
  | .edgeFifoWrite d g n clocked w => Sys2Proof.Machine.execEdgeFifoWrite d g n clocked w s
  | .edgeFifoRead d g n reader => Sys2Proof.Machine.execEdgeFifoRead d g n reader s
  | .dieClkLost d fam ovr und evt => Sys2Proof.Machine.execDieClkLost d fam ovr und evt s
  | .dieClkRestored d => Sys2Proof.Machine.execDieClkRestored d s
  | .nocInject id p => Sys2Proof.Machine.execNocInject id p s
  | .routerHop f u err => Sys2Proof.Machine.execRouterHop f u err s
  | .read f err => Sys2Proof.Machine.execRead f err s
  | .write f err => Sys2Proof.Machine.execWrite f err s
  | .writePosted f err => Sys2Proof.Machine.execWritePosted f err s
  | .atomicAdd f err => Sys2Proof.Machine.execAtomicAdd f err s
  | .atomicSwap f err => Sys2Proof.Machine.execAtomicSwap f err s
  | .atomicCas f err => Sys2Proof.Machine.execAtomicCas f err s
  | .message f => Sys2Proof.Machine.execMessage f s
  | .response f => Sys2Proof.Machine.execResponse f s
  | .nocTimeout n => Sys2Proof.Machine.execNocTimeout n s
  | .quarantineEnd n => Sys2Proof.Machine.execQuarantineEnd n s
  | .benchWireSpared d k out z w => Sys2Proof.Machine.execBenchWireSpared d k out z w s
  | .benchDozenSpared d k out z => Sys2Proof.Machine.execBenchDozenSpared d k out z s
  | .benchLinkRetired d k => Sys2Proof.Machine.execBenchLinkRetired d k s
  | .rerouteStep => Sys2Proof.Machine.execRerouteStep s
  | .spineRouterSpared n => Sys2Proof.Machine.execSpineRouterSpared n s
  | .spineRouterRetired n => Sys2Proof.Machine.execSpineRouterRetired n s
  | .memoryRequest c err tagOk => Sys2Proof.Machine.execMemoryRequest c err tagOk s
  | .beatWarn => Sys2Proof.Machine.execBeatWarn s
  | .beatStall k => Sys2Proof.Machine.execBeatStall k s
  | .beatEnd => Sys2Proof.Machine.execBeatEnd s
  | .sliceBeatEnd failed hot => Sys2Proof.Machine.execSliceBeatEnd failed hot s
  | .dramRefreshHot => Sys2Proof.Machine.execDramRefreshHot s
  | .dramRefreshNormal => Sys2Proof.Machine.execDramRefreshNormal s
  | .patrolRead c err => Sys2Proof.Machine.execPatrolRead c err s
  | .channelTrained c ok => Sys2Proof.Machine.execChannelTrained c ok s
  | .channelFilled c => Sys2Proof.Machine.execChannelFilled c s
  | .selfRefreshExit c ok => Sys2Proof.Machine.execSelfRefreshExit c ok s
  | .evacuationLineMove err => Sys2Proof.Machine.execEvacuationLineMove err s
  | .dramEvacuated => Sys2Proof.Machine.execDramEvacuated s
  | .counterRequest c l g x err tagOk mirror mirrorOk => Sys2Proof.Machine.execCounterRequest c l g x err tagOk mirror mirrorOk s
  | .sealedReadProof c n tagOk => Sys2Proof.Machine.execSealedReadProof c n tagOk s
  | .securityHalt cause die chan level addr node => Sys2Proof.Machine.execSecurityHalt cause die chan level addr node s
  | .granuleRefillDone g => Sys2Proof.Machine.execGranuleRefillDone g s
  | .sealResealed g => Sys2Proof.Machine.execSealResealed g s
  | .flr fn => Sys2Proof.Machine.execFlr fn s
  | .perstN => Sys2Proof.Machine.execPerstN s
  | .barRead fn bar4 off n err => Sys2Proof.Machine.execBarRead fn bar4 off n err s
  | .barWrite fn bar4 off data ep err => Sys2Proof.Machine.execBarWrite fn bar4 off data ep err s
  | .barTimeout n => Sys2Proof.Machine.execBarTimeout n s
  | .sqDoorbell fn page v => Sys2Proof.Machine.execSqDoorbell fn page v s
  | .cqDoorbell fn page v => Sys2Proof.Machine.execCqDoorbell fn page v s
  | .descriptorFetch q d => Sys2Proof.Machine.execDescriptorFetch q d s
  | .copyToDevice q k host err => Sys2Proof.Machine.execCopyToDevice q k host err s
  | .copyFromDevice q k err => Sys2Proof.Machine.execCopyFromDevice q k err s
  | .copyDevice q k err => Sys2Proof.Machine.execCopyDevice q k err s
  | .copyComplete q k ok => Sys2Proof.Machine.execCopyComplete q k ok s
  | .streamSend q host => Sys2Proof.Machine.execStreamSend q host s
  | .streamSendTimeout q => Sys2Proof.Machine.execStreamSendTimeout q s
  | .streamBuffer q => Sys2Proof.Machine.execStreamBuffer q s
  | .streamRecord q => Sys2Proof.Machine.execStreamRecord q s
  | .streamBufferFlush q => Sys2Proof.Machine.execStreamBufferFlush q s
  | .queueCreate q => Sys2Proof.Machine.execQueueCreate q s
  | .queueDelete q cids => Sys2Proof.Machine.execQueueDelete q cids s
  | .queuePause q => Sys2Proof.Machine.execQueuePause q s
  | .queueResume q => Sys2Proof.Machine.execQueueResume q s
  | .queueReset q => Sys2Proof.Machine.execQueueReset q s
  | .queueAssign q => Sys2Proof.Machine.execQueueAssign q s
  | .queueQuery q => Sys2Proof.Machine.execQueueQuery q s
  | .interruptCoalesce q => Sys2Proof.Machine.execInterruptCoalesce q s
  | .cqStale q => Sys2Proof.Machine.execCqStale q s
  | .eventRingMove pf => Sys2Proof.Machine.execEventRingMove pf s
  | .hqeQctlWrite v cids => Sys2Proof.Machine.execHqeQctlWrite v cids s
  | .loadImage q host => Sys2Proof.Machine.execLoadImage q host s
  | .relocateTin q => Sys2Proof.Machine.execRelocateTin q s
  | .swapAt q => Sys2Proof.Machine.execSwapAt q s
  | .swapCancel q => Sys2Proof.Machine.execSwapCancel q s
  | .sparePolicy q => Sys2Proof.Machine.execSparePolicy q s
  | .retireTin q => Sys2Proof.Machine.execRetireTin q s
  | .retireChannel q => Sys2Proof.Machine.execRetireChannel q s
  | .retireBenchLink q => Sys2Proof.Machine.execRetireBenchLink q s
  | .retireCore q ok4 => Sys2Proof.Machine.execRetireCore q ok4 s
  | .retireSpineRouter q => Sys2Proof.Machine.execRetireSpineRouter q s
  | .granuleSet q => Sys2Proof.Machine.execGranuleSet q s
  | .storeSet q => Sys2Proof.Machine.execStoreSet q s
  | .resealRange q => Sys2Proof.Machine.execResealRange q s
  | .powerState q => Sys2Proof.Machine.execPowerState q s
  | .tinReset q => Sys2Proof.Machine.execTinReset q s
  | .dieReset q => Sys2Proof.Machine.execDieReset q s
  | .hubWarmReset q ok ok4 => Sys2Proof.Machine.execHubWarmReset q ok ok4 s
  | .coreReset q ok ok4 => Sys2Proof.Machine.execCoreReset q ok ok4 s
  | .laneSignalDetect l locked => Sys2Proof.Machine.execLaneSignalDetect l locked s
  | .linkTrainingRequest l tap inc => Sys2Proof.Machine.execLinkTrainingRequest l tap inc s
  | .laneUp l eye ctle => Sys2Proof.Machine.execLaneUp l eye ctle s
  | .laneAttemptTimeout l => Sys2Proof.Machine.execLaneAttemptTimeout l s
  | .laneSelfTestDone l pass => Sys2Proof.Machine.execLaneSelfTestDone l pass s
  | .laneRetry l => Sys2Proof.Machine.execLaneRetry l s
  | .eyeMeasurement l eye dir => Sys2Proof.Machine.execEyeMeasurement l eye dir s
  | .laneSignalLost l => Sys2Proof.Machine.execLaneSignalLost l s
  | .laneRelockTimeout l => Sys2Proof.Machine.execLaneRelockTimeout l s
  | .laneStateReached l pass => Sys2Proof.Machine.execLaneStateReached l pass s
  | .laneReqState l v => Sys2Proof.Machine.execLaneReqState l v s
  | .laneRateWrite l r => Sys2Proof.Machine.execLaneRateWrite l r s
  | .laneRetrain l pass => Sys2Proof.Machine.execLaneRetrain l pass s
  | .injOnce l => Sys2Proof.Machine.execInjOnce l s
  | .injRate l k => Sys2Proof.Machine.execInjRate l k s
  | .chkClear l => Sys2Proof.Machine.execChkClear l s
  | .loopbackChange l v => Sys2Proof.Machine.execLoopbackChange l v s
  | .ppsInEdge fall => Sys2Proof.Machine.execPpsInEdge fall s
  | .timeHoldover => Sys2Proof.Machine.execTimeHoldover s
  | .timeStep dom src => Sys2Proof.Machine.execTimeStep dom src s
  | .timeAdjWrite v => Sys2Proof.Machine.execTimeAdjWrite v s
  | .ppsOut => Sys2Proof.Machine.execPpsOut s
  | .dieTimeAlign d => Sys2Proof.Machine.execDieTimeAlign d s
  | .frameReceive d p f bufErr corr uncorr => Sys2Proof.Machine.execFrameReceive d p f bufErr corr uncorr s
  | .transmitRecord d src => Sys2Proof.Machine.execTransmitRecord d src s
  | .frameTransmit d p underrun => Sys2Proof.Machine.execFrameTransmit d p underrun s
  | .sdiLocked d m => Sys2Proof.Machine.execSdiLocked d m s
  | .sdiUnlocked d m => Sys2Proof.Machine.execSdiUnlocked d m s
  | .sdiLine d m tx ws crcAt bad => Sys2Proof.Machine.execSdiLine d m tx ws crcAt bad s
  | .st352Change d m v => Sys2Proof.Machine.execSt352Change d m v s
  | .recordPresentation d k => Sys2Proof.Machine.execRecordPresentation d k s
  | .recordAccept d k => Sys2Proof.Machine.execRecordAccept d k s
  | .packetLaunch d p => Sys2Proof.Machine.execPacketLaunch d p s
  | .statisticsWrite d p => Sys2Proof.Machine.execStatisticsWrite d p s
  | .macCqHead d k head => Sys2Proof.Machine.execMacCqHead d k head s
  | .macCqReset d k => Sys2Proof.Machine.execMacCqReset d k s
  | .push par bytes => Sys2Proof.Machine.execPush par bytes s
  | .stat => Sys2Proof.Machine.execStat s
  | .headerAuthenticated key sigOk => Sys2Proof.Machine.execHeaderAuthenticated key sigOk s
  | .imageSegment plain => Sys2Proof.Machine.execImageSegment plain s
  | .endMarker hashOk tagOk => Sys2Proof.Machine.execEndMarker hashOk tagOk s
  | .fullImageCommit => Sys2Proof.Machine.execFullImageCommit s
  | .partialImageCommit => Sys2Proof.Machine.execPartialImageCommit s
  | .earlyEnd => Sys2Proof.Machine.execEarlyEnd s
  | .cfgIdleTimeout => Sys2Proof.Machine.execCfgIdleTimeout s
  | .fabricWipeDone => Sys2Proof.Machine.execFabricWipeDone s
  | .fallbackTimeout => Sys2Proof.Machine.execFallbackTimeout s
  | .autoRelocationStart d => Sys2Proof.Machine.execAutoRelocationStart d s
  | .targetLoaded d r ok => Sys2Proof.Machine.execTargetLoaded d r ok s
  | .relocationFreeze d r => Sys2Proof.Machine.execRelocationFreeze d r s
  | .sourceQuiescent d r => Sys2Proof.Machine.execSourceQuiescent d r s
  | .stateTransferDone d r ok => Sys2Proof.Machine.execStateTransferDone d r ok s
  | .tinRelocated d r => Sys2Proof.Machine.execTinRelocated d r s
  | .quiescenceTimeout d r => Sys2Proof.Machine.execQuiescenceTimeout d r s
  | .relocationRetry d r => Sys2Proof.Machine.execRelocationRetry d r s
  | .swapTime d r => Sys2Proof.Machine.execSwapTime d r s
  | .tinSwapped d r => Sys2Proof.Machine.execTinSwapped d r s
  | .tinRestarted d r ok => Sys2Proof.Machine.execTinRestarted d r ok s
  | .returnTestDone t pass => Sys2Proof.Machine.execReturnTestDone t pass s
  | .kneaderFrameRead t f err => Sys2Proof.Machine.execKneaderFrameRead t f err s
  | .hotFrameInterval t => Sys2Proof.Machine.execHotFrameInterval t s
  | .kneaderHeartbeat d beatA beatB sigOk okA okB => Sys2Proof.Machine.execKneaderHeartbeat d beatA beatB sigOk okA okB s
  | .watchdogKick h key => Sys2Proof.Machine.execWatchdogKick h key s
  | .watchdogPreBite h => Sys2Proof.Machine.execWatchdogPreBite h s
  | .wdgBite h ok ok4 => Sys2Proof.Machine.execWdgBite h ok ok4 s
  | .bootStart offset => Sys2Proof.Machine.execBootStart offset s
  | .firmwareVerified key sigOk hashOk => Sys2Proof.Machine.execFirmwareVerified key sigOk hashOk s
  | .getRandom => Sys2Proof.Machine.execGetRandom s
  | .hashRange => Sys2Proof.Machine.execHashRange s
  | .verifyBlob key sigOk hashOk => Sys2Proof.Machine.execVerifyBlob key sigOk hashOk s
  | .deviceInfo => Sys2Proof.Machine.execDeviceInfo s
  | .lifecycleAdvance key sigOk => Sys2Proof.Machine.execLifecycleAdvance key sigOk s
  | .keyProgram key sigOk => Sys2Proof.Machine.execKeyProgram key sigOk s
  | .keyRevoke key sigOk => Sys2Proof.Machine.execKeyRevoke key sigOk s
  | .forceHalt => Sys2Proof.Machine.execForceHalt s
  | .mailboxComplete => Sys2Proof.Machine.execMailboxComplete s
  | .secResponseRead => Sys2Proof.Machine.execSecResponseRead s
  | .l2Clean => Sys2Proof.Machine.execL2Clean s
  | .l2Invalidate => Sys2Proof.Machine.execL2Invalidate s
  | .l2CleanInvalidate => Sys2Proof.Machine.execL2CleanInvalidate s
  | .l2CmoDone => Sys2Proof.Machine.execL2CmoDone s
  | .loadReserved h a dbl victim err => Sys2Proof.Machine.execLoadReserved h a dbl victim err s
  | .storeConditional h a d => Sys2Proof.Machine.execStoreConditional h a d s
  | .amo h op a dbl v victim err => Sys2Proof.Machine.execAmo h op a dbl v victim err s
  | .uncachedStore h a d => Sys2Proof.Machine.execUncachedStore h a d s
  | .mgcL2Uncorr k => Sys2Proof.Machine.execMgcL2Uncorr k s
  | .timerInterrupt h => Sys2Proof.Machine.execTimerInterrupt h s
  | .clusterEventMove => Sys2Proof.Machine.execClusterEventMove s
  | .pwrRailFault d lane => Sys2Proof.Machine.execPwrRailFault d lane s
  | .hubRailFault => Sys2Proof.Machine.execHubRailFault s
  | .refusersAnswered => Sys2Proof.Machine.execRefusersAnswered s
  | .entryQuiescent => Sys2Proof.Machine.execEntryQuiescent s
  | .entryAbort => Sys2Proof.Machine.execEntryAbort s
  | .pointOfNoReturn => Sys2Proof.Machine.execPointOfNoReturn s
  | .pwrStateEntered => Sys2Proof.Machine.execPwrStateEntered s
  | .wakeNow => Sys2Proof.Machine.execWakeNow s
  | .gpioWake => Sys2Proof.Machine.execGpioWake s
  | .timerWake => Sys2Proof.Machine.execTimerWake s
  | .wakeStep late ok ok4 bad => Sys2Proof.Machine.execWakeStep late ok ok4 bad s
  | .padRelease d => Sys2Proof.Machine.execPadRelease d s
  | .thermTrip k => Sys2Proof.Machine.execThermTrip k s
  | .thermTripRelease => Sys2Proof.Machine.execThermTripRelease s
  | .pwrOvercurrent => Sys2Proof.Machine.execPwrOvercurrent s
  | .overcurrentRelease => Sys2Proof.Machine.execOvercurrentRelease s
  | .powerOnReset good straps => Sys2Proof.Machine.execPowerOnReset good straps s
  | .resetN straps => Sys2Proof.Machine.execResetN straps s
  | .secBoot b fuses selfOk trngOk => Sys2Proof.Machine.execSecBoot b fuses selfOk trngOk s
  | .clockLock absent => Sys2Proof.Machine.execClockLock absent s
  | .cfgErrNRelease badCores => Sys2Proof.Machine.execCfgErrNRelease badCores s
  | .dieResetRelease d => Sys2Proof.Machine.execDieResetRelease d s
  | .dieReturned d bad => Sys2Proof.Machine.execDieReturned d bad s
  | .diePowerLost d => Sys2Proof.Machine.execDiePowerLost d s
  | .diePowerRetry d holds => Sys2Proof.Machine.execDiePowerRetry d holds s
  | .trngHealthFail => Sys2Proof.Machine.execTrngHealthFail s
  | .trngRetest ok => Sys2Proof.Machine.execTrngRetest ok s
  | .glitchDetect => Sys2Proof.Machine.execGlitchDetect s
  | .challengeLockoutEnd => Sys2Proof.Machine.execChallengeLockoutEnd s
  | .tapReset => Sys2Proof.Machine.execTapReset s
  | .extest cells => Sys2Proof.Machine.execExtest cells s
  | .samplePreload cells => Sys2Proof.Machine.execSamplePreload cells s
  | .idcode => Sys2Proof.Machine.execIdcode s
  | .clamp => Sys2Proof.Machine.execClamp s
  | .highz => Sys2Proof.Machine.execHighz s
  | .extestPulse cells => Sys2Proof.Machine.execExtestPulse cells s
  | .extestTrain cells => Sys2Proof.Machine.execExtestTrain cells s
  | .boundaryScanEnd => Sys2Proof.Machine.execBoundaryScanEnd s
  | .bypass => Sys2Proof.Machine.execBypass s
  | .haltCause => Sys2Proof.Machine.execHaltCause s
  | .auth resp key sigOk => Sys2Proof.Machine.execAuth resp key sigOk s
  | .dapRead a consume inc err => Sys2Proof.Machine.execDapRead a consume inc err s
  | .dapWrite a w inc err => Sys2Proof.Machine.execDapWrite a w inc err s
  | .dtermUpdate v => Sys2Proof.Machine.execDtermUpdate v s
  | .cfgLoad bytes => Sys2Proof.Machine.execCfgLoad bytes s
  | .cfgReadback sel => Sys2Proof.Machine.execCfgReadback sel s
  | .dmHalt h => Sys2Proof.Machine.execDmHalt h s
  | .dmResume h ok ok4 => Sys2Proof.Machine.execDmResume h ok ok4 s
  | .accessRegister h regno write dbl => Sys2Proof.Machine.execAccessRegister h regno write dbl s
  | .xtChannelFire c h => Sys2Proof.Machine.execXtChannelFire c h s
  | .stimulusWrite n w src => Sys2Proof.Machine.execStimulusWrite n w src s
  | .traceFrameSend => Sys2Proof.Machine.execTraceFrameSend s
  | .dtxWrite w => Sys2Proof.Machine.execDtxWrite w s
  | .drxConsume => Sys2Proof.Machine.execDrxConsume s
  | .tinFreeze d r => Sys2Proof.Machine.execTinFreeze d r s
  | .dbgTinFrozen d r => Sys2Proof.Machine.execDbgTinFrozen d r s
  | .tinRelease d r => Sys2Proof.Machine.execTinRelease d r s
  | .tokenStep d r port => Sys2Proof.Machine.execTokenStep d r port s
  | .tinReadback d r => Sys2Proof.Machine.execTinReadback d r s
  | .tinStateWrite d r => Sys2Proof.Machine.execTinStateWrite d r s
  | .gpioOutWrite d value dom src posted => Sys2Proof.Machine.execGpioOutWrite d value dom src posted s
  | .padInputChange p level => Sys2Proof.Machine.execPadInputChange p level s
  | .smbusSetPointer a pec => Sys2Proof.Machine.execSmbusSetPointer a pec s
  | .smbusRead pec => Sys2Proof.Machine.execSmbusRead pec s
  | .smbusWrite v pec => Sys2Proof.Machine.execSmbusWrite v pec s
  | .smbusWriteStatus pec => Sys2Proof.Machine.execSmbusWriteStatus pec s
  | .smbusAttnSum pec => Sys2Proof.Machine.execSmbusAttnSum pec s
  | .smbusTj pec => Sys2Proof.Machine.execSmbusTj pec s
  | .smbusCurrent pec => Sys2Proof.Machine.execSmbusCurrent pec s
  | .fetchLoadStore h k a n d victim err => Sys2Proof.Machine.execFetchLoadStore h k a n d victim err s
  | .pcieLinkChange p up flit gen width ltssm corr uncorr => Sys2Proof.Machine.execPcieLinkChange p up flit gen width ltssm corr uncorr s
  | .hostCompletionTimeout q k => Sys2Proof.Machine.execHostCompletionTimeout q k s
  | .patternCheckerLock l locked errors => Sys2Proof.Machine.execPatternCheckerLock l locked errors s
  | .otherGeneratorLocked => Sys2Proof.Machine.execOtherGeneratorLocked s
  | .standbyGeneratorFault lostLock => Sys2Proof.Machine.execStandbyGeneratorFault lostLock s

end Sys2Proof.Machine
end

