-- ==== Sys2Proof/Machine/Step.lean ====
section
/-! DEFINITION. One step of the block. -/

namespace Sys2Proof.Machine

/-- One step: the command at the front of the queue.  On an empty queue the time keeper, where its clock runs, advances by one period and the
crust-ring channels of the stream ports move (R484). -/
def step (s : State) : Host.Outcome State Fault Refusal :=
  match s.pending with
  | [] => .next s.tickTime.pumpAll
  | c :: rest => exec c { s with pending := rest }

/-- The table gives no bits, so no word spells a command and nothing is placed. -/
def State.withFetchWord (s : State) (_nbits _w : Nat) : State := s

end Sys2Proof.Machine
end

