-- ==== Sys2Proof/Safety.lean ====
section
/-! DEFINITION. What claims are stated in: which parts of the state a command may change, and the invariant every step keeps. -/

namespace Sys2Proof.Machine

/-- The parts of the state, one for each of its fields. -/
inductive Part where
  | pending | regs | events | now | roles | tins | ring | laneIn | laneOut | seamCh | dozens | bench | foldMap | kept | dieCopy
  | dueSeq | vgoal | larder | pool | corr | noc | dram | breadbox | pads | lanes | eqTable | clk | time | mac | dbg | mgc
  | fuses | hqe | cfg | spr | ptm | away | smbus | powerGood | straps | answer | free
deriving DecidableEq, Repr

/-- Part `p` of the state is the same in `t` as in `s`. -/
def State.Same (s t : State) : Part → Prop
  | .pending => t.pending = s.pending
  | .regs => t.regs = s.regs
  | .events => t.events = s.events
  | .now => t.now = s.now
  | .roles => t.roles = s.roles
  | .tins => t.tins = s.tins
  | .ring => t.ring = s.ring
  | .laneIn => t.laneIn = s.laneIn
  | .laneOut => t.laneOut = s.laneOut
  | .seamCh => t.seamCh = s.seamCh
  | .dozens => t.dozens = s.dozens
  | .bench => t.bench = s.bench
  | .foldMap => t.foldMap = s.foldMap
  | .kept => t.kept = s.kept
  | .dieCopy => t.dieCopy = s.dieCopy
  | .dueSeq => t.dueSeq = s.dueSeq
  | .vgoal => t.vgoal = s.vgoal
  | .larder => t.larder = s.larder
  | .pool => t.pool = s.pool
  | .corr => t.corr = s.corr
  | .noc => t.noc = s.noc
  | .dram => t.dram = s.dram
  | .breadbox => t.breadbox = s.breadbox
  | .pads => t.pads = s.pads
  | .lanes => t.lanes = s.lanes
  | .eqTable => t.eqTable = s.eqTable
  | .clk => t.clk = s.clk
  | .time => t.time = s.time
  | .mac => t.mac = s.mac
  | .dbg => t.dbg = s.dbg
  | .mgc => t.mgc = s.mgc
  | .fuses => t.fuses = s.fuses
  | .hqe => t.hqe = s.hqe
  | .cfg => t.cfg = s.cfg
  | .spr => t.spr = s.spr
  | .ptm => t.ptm = s.ptm
  | .away => t.away = s.away
  | .smbus => t.smbus = s.smbus
  | .powerGood => t.powerGood = s.powerGood
  | .straps => t.straps = s.straps
  | .answer => t.answer = s.answer
  | .free => t.free = s.free

/-- `t` differs from `s` at most in the parts `ps`. -/
def State.Only (ps : List Part) (s t : State) : Prop := ∀ p, p ∉ ps → s.Same t p

/-- Command `c` at state `s` answers a next state, and it does what the command is for: the next state satisfies `P`, and differs from `s` at
most in the parts `ps`. -/
def Runs (c : Instr) (s : State) (ps : List Part) (P : State → Prop) : Prop := ∃ u, exec c s = .next u ∧ P u ∧ s.Only ps u

/-- Packet `f` under way has been consumed at location `loc`, where packet `q` has entered the NoC; nothing else of the NoC changes. -/
def State.Answered (s u : State) (f loc : Nat) (q : Packet) : Prop :=
  u.noc = { s.noc with flights := s.noc.flights.eraseIdx f ++ [Packet.flightAt q loc] }

/-- Packet `f` under way has been consumed; nothing else of the NoC changes. -/
def State.Consumed (s u : State) (f : Nat) : Prop := u.noc = { s.noc with flights := s.noc.flights.eraseIdx f }

/-- The bytes of memory `m'` from `a` up are `d`, and every other byte is as in `m`. -/
def BytesOnly (m m' : Tab Byte) (a : Nat) (d : List Byte) : Prop :=
  readBytes 0 m' a d.length = d ∧ ∀ k, k < a ∨ a + d.length ≤ k → Tab.get 0 m' k = Tab.get 0 m k

/-- CMD queue `q` has started the management command `op` as its job `k`, which is `j`; the queue takes its completion (R413, R431). -/
structure State.Started (s : State) (q op k : Nat) (j : Job) : Prop where
  job : s.mgmtJob q op = some (k, j)
  mine : j.gone = false
  open_ : (s.queue q).state = qEnabled ∨ (s.queue q).state = qPaused
  stays : (s.queue q).deleting = none

/-- Job `j` of queue `q` has completed: its CQ entry has been written to the host at the ring's tail, which has advanced (R413, R414, R425). -/
structure State.Completed (s u : State) (q : Nat) (j : Job) (status detail result : Nat) : Prop where
  entry : .write (s.queue q).owner ((s.queue q).cqBase + 16 * (s.queue q).cqTail)
    (cqBytes (s.queue q).phase (Desc.cid j.desc) j.head status detail result) ∈ u.hqe.out
  tail : (u.queue q).cqTail = ((s.queue q).cqTail + 1) % 2 ^ (s.queue q).cqLog2

/-- The event is what the event log of `s` gains on the way to `u`, at the time of `s` (R24-R26, R776-R780). -/
def State.Posted (s u : State) (code sev : Nat) (die : Option Nat) (unit : Nat) (arg0 arg1 : Nat := 0) : Prop :=
  u.events = s.events.post s.now ⟨code, sev, die, unit, arg0, arg1⟩ false

/-- No register of the register window outside `offs` differs between `s` and `t`. -/
def State.RegsOnly (offs : List Nat) (s t : State) : Prop := ∀ o, o ∉ offs → t.reg o = s.reg o

/-- No physical tin but `k` differs between `s` and `t`. -/
def State.TinOnly (k : Nat) (s t : State) : Prop := ∀ j, j ≠ k → t.tin j = s.tin j

/-- Hold (b, c, m) of tin `t` becomes `h`; every other hold and the configuration of the tin, every other tin and every other part of the
state stay as they were. -/
structure HoldOnly (s u : State) (t b c m : Nat) (h : Hold) : Prop where
  hold : (u.tin t).hold b c m = h
  others : ∀ k, k ≠ holdKey b c m → Tab.get Hold.empty (u.tin t).holds k = Tab.get Hold.empty (s.tin t).holds k
  frames : (u.tin t).frames = (s.tin t).frames
  tins : s.TinOnly t u
  only : s.Only [.tins] u

/-- A role map of a die names every physical tin once (R33, R34). -/
def rolesOk (l : List Nat) : Prop := l.length = 13 ∧ ∀ k, k < 13 → k ∈ l

/-- What every step keeps: the memories stay in their canonical form and every role of a die has a physical tin of its own (R33, R34). -/
structure State.Inv (s : State) : Prop where
  larder : Memory.wf s.larder.mem = true
  dram : Memory.wf s.dram.mem = true
  breadbox : Memory.wf s.breadbox = true
  roles : ∀ d, rolesOk (s.roleMap d)

end Sys2Proof.Machine
end

