-- ==== Sys2Proof/Certificates/Slice0/Obligations.lean ====
section
/-! DEFINITION. The statements for the provers. -/

open Sys2Proof Sys2Proof.Machine

/-- A step is the meaning of the command at the front of the queue, and commands leave the queue alone (R1). -/
def Obligations.StepRunsFrontCommand : Prop :=
  ∀ (s : State) (c : Instr) (rest : List Instr), s.pending = c :: rest →
    step s = exec c { s with pending := rest } ∧ ∃ u, step s = .next u ∧ u.pending = rest

/-- On an empty queue only the time, its interrupts and the waiting beats move (R484). -/
def Obligations.EmptyQueueTicks : Prop :=
  ∀ s : State, s.pending = [] → ∃ u, step s = .next u ∧ u.pending = [] ∧ s.Only [.now, .dram, .time, .mgc, .laneIn, .mac] u ∧
    (s.timeRuns = false → u.now = s.now) ∧
    (s.timeRuns = true → (u.now : Int) = max 0 ((s.now : Int) + 2 ^ 40 + toSigned (s.fget TIME_RATE.rate) 32 + slewPart s.time.slew) ∧
      u.time.slew = s.time.slew - slewPart s.time.slew)

/-- The state after reset satisfies the invariant, with an empty queue and no power (R33, R34). -/
def Obligations.ResetMeetsInvariant : Prop :=
  State.reset.Inv ∧ State.reset.pending = [] ∧ State.reset.powerGood = false

/-- Every step keeps the memories canonical and every role of a die at exactly one tin of that die (R33, R34). -/
def Obligations.StepKeepsInvariant : Prop :=
  ∀ s u : State, s.Inv → step s = .next u → u.Inv

/-- No command clears a fuse: lifecycle and anti-rollback never fall, keys, slots and kill bits stay (R688, R691, R695, R697, R699). -/
def Obligations.FusesOnlyBurn : Prop :=
  ∀ (c : Instr) (s u : State), exec c s = .next u →
    s.fuses.lifecycle ≤ u.fuses.lifecycle ∧ s.fuses.arv ≤ u.fuses.arv ∧ u.fuses.serial = s.fuses.serial ∧
    (s.fuses.dukKill = true → u.fuses.dukKill = true) ∧ (s.fuses.imgKill = true → u.fuses.imgKill = true) ∧
    (∀ k, s.fuses.imgKey = some k → u.fuses.imgKey = some k) ∧
    (∀ k, (s.slot k).valid = true → (u.slot k).valid = true ∧ (u.slot k).hash = (s.slot k).hash ∧ (u.slot k).perm = (s.slot k).perm) ∧
    (∀ k, (s.slot k).revoked = true → (u.slot k).revoked = true)

/-- The four steps t1, t2, t5 and t6 of a hold, and the rail fault that t1 finds (R55, R56, R57, R58, R792). -/
def Obligations.HoldSteps : Prop :=
  (∀ (s : State) (t : TinIx) (b : Fin 2048) (c : Fin 16) (m : Fin 4) (r : Rails),
    (s.tin t.val).fireRails b.val c.val m.val = some r → r.isData = true →
      ∃ u, exec (.holdFill t b c m) s = .next u ∧
        HoldOnly s u t.val b.val c.val m.val ⟨true, r.t, ((s.tin t.val).hold b.val c.val m.val).ack⟩) ∧
  (∀ (s : State) (t : TinIx) (b : Fin 2048) (c : Fin 16) (m : Fin 4),
    (s.tin t.val).canAck b.val c.val m.val = true →
      ∃ u, exec (.holdAcknowledge t b c m) s = .next u ∧
        HoldOnly s u t.val b.val c.val m.val { (s.tin t.val).hold b.val c.val m.val with ack := true }) ∧
  (∀ (s : State) (t : TinIx) (b : Fin 2048) (c : Fin 16) (m : Fin 4),
    (s.tin t.val).canEmpty b.val c.val m.val = true →
      ∃ u, exec (.holdEmpty t b c m) s = .next u ∧
        HoldOnly s u t.val b.val c.val m.val { (s.tin t.val).hold b.val c.val m.val with full := false, value := false }) ∧
  (∀ (s : State) (t : TinIx) (b : Fin 2048) (c : Fin 16) (m : Fin 4),
    (s.tin t.val).canAckFall b.val c.val m.val = true →
      ∃ u, exec (.holdAckFall t b c m) s = .next u ∧
        HoldOnly s u t.val b.val c.val m.val { (s.tin t.val).hold b.val c.val m.val with ack := false }) ∧
  (∀ (s : State) (t : TinIx) (b : Fin 2048) (c : Fin 16) (m : Fin 4) (r : Rails),
    (s.tin t.val).fireRails b.val c.val m.val = some r → r.isData = false →
      exec (.holdFill t b c m) s = .next (s.railFault t.val b.val c.val))

/-- Every request that arrives at the larder with its rights does its work there and is answered (R189, R190, R195, R271, R273, R274, R275). -/
def Obligations.NocRequestsAtLarder : Prop :=
  (∀ (s : State) (f : Nat) (p : Packet) (loc : Nat), s.atTarget f = some (p, loc) → p.cmd = .read → p.dst = nodeLarder →
    larderShape (p.addr - larderBase) p.bytes = true → s.larderMay p.domain (p.addr - larderBase) false = true →
    (s.bank (larderBank (p.addr - larderBase))).lost = false →
    Runs (.read f .clean) s [.noc] fun u => s.Answered u f loc
      (p.reply nodeLarder stDone 0 (readBytes 0 s.larder.mem (p.addr - larderBase) p.bytes)
        (s.larder.anyPoison (p.addr - larderBase) p.bytes) true)) ∧
  (∀ (s : State) (f : Nat) (p : Packet) (loc : Nat), s.atTarget f = some (p, loc) → p.cmd = .write → p.dst = nodeLarder →
    larderShape (p.addr - larderBase) p.data.length = true → s.larderMay p.domain (p.addr - larderBase) true = true →
    (s.bank (larderBank (p.addr - larderBase))).lost = false →
    (8 ≤ p.data.length ∨ s.larder.poisoned (p.addr - larderBase) = false) →
    Runs (.write f .clean) s [.noc, .larder] fun u => s.Answered u f loc (p.refuse nodeLarder stDone 0) ∧
      BytesOnly s.larder.mem u.larder.mem (p.addr - larderBase) p.data ∧ u.larder.banks = s.larder.banks) ∧
  (∀ (s : State) (f : Nat) (p : Packet) (loc : Nat), s.atTarget f = some (p, loc) → p.cmd = .writePosted → p.dst = nodeLarder →
    larderShape (p.addr - larderBase) p.data.length = true → s.larderMay p.domain (p.addr - larderBase) true = true →
    (s.bank (larderBank (p.addr - larderBase))).lost = false →
    (8 ≤ p.data.length ∨ s.larder.poisoned (p.addr - larderBase) = false) →
    Runs (.writePosted f .clean) s [.noc, .larder] fun u => s.Consumed u f ∧
      BytesOnly s.larder.mem u.larder.mem (p.addr - larderBase) p.data ∧ u.larder.banks = s.larder.banks) ∧
  (∀ (s : State) (f : Nat) (p : Packet) (loc old : Nat) (c : Instr) (new : Nat), s.atTarget f = some (p, loc) → p.dst = nodeLarder →
    old = leVal (readBytes 0 s.larder.mem (p.addr - larderBase) p.bytes) →
    ((p.cmd = .atomicAdd ∧ c = .atomicAdd f .clean ∧ new = (old + leAt p.data 0 p.bytes) % 2 ^ (8 * p.bytes)) ∨
      (p.cmd = .atomicSwap ∧ c = .atomicSwap f .clean ∧ new = leAt p.data 0 p.bytes) ∨
      (p.cmd = .atomicCas ∧ c = .atomicCas f .clean ∧ new = if old = leAt p.data 0 p.bytes then leAt p.data 8 p.bytes else old)) →
    larderShape (p.addr - larderBase) p.bytes = true → s.larderMay p.domain (p.addr - larderBase) true = true →
    s.larderMay p.domain (p.addr - larderBase) false = true → (s.bank (larderBank (p.addr - larderBase))).lost = false →
    s.larder.anyPoison (p.addr - larderBase) p.bytes = false → p.poison = false →
    Runs c s [.noc, .larder] fun u =>
      s.Answered u f loc (p.reply nodeLarder stDone 0 (readBytes 0 s.larder.mem (p.addr - larderBase) p.bytes) false true) ∧
      BytesOnly s.larder.mem u.larder.mem (p.addr - larderBase) (leBytes p.bytes new) ∧ u.larder.banks = s.larder.banks)

/-- Messages, responses and timeouts: delivery, completion, late answers, quarantine (R275, R288, R289, R290, R371, R379, R504, R794). -/
def Obligations.NocMessagesAndResponses : Prop :=
  (∀ (s : State) (f : Nat) (p : Packet) (loc d r : Nat), s.atTarget f = some (p, loc) → p.cmd = .message → nodeOf p.dst = some (.role d r) →
    s.roleOpen (s.tinOf d r) = true → (s.tin (s.tinOf d r)).frozen = false → s.halted = false →
    Runs (.message f) s [.noc, .answer] fun u => s.Consumed u f ∧ u.answer = some ⟨stDone, p.data, p.poison⟩) ∧
  (∀ (s : State) (f : Nat) (p : Packet) (loc d k : Nat), s.atTarget f = some (p, loc) → p.cmd = .message → nodeOf p.dst = some (.stream d k) →
    (s.fbit (SP_ROUTE.valid d k) = false ∨ s.fget (SP_ROUTE.node d k) ≠ p.src) →
    Runs (.message f) s [.noc, .regs] fun u => s.Consumed u f ∧
      u.fget (SP_ROUTE.rejected d k) = satAdd 8 (s.fget (SP_ROUTE.rejected d k)) 1 ∧ s.RegsOnly [(SP_ROUTE.rejected d k).off] u) ∧
  (∀ (s : State) (f : Nat) (p : Packet) (loc d r : Nat) (o : Outst), s.atTarget f = some (p, loc) → p.cmd = .response → p.notice = false →
    nodeOf p.dst = some (.role d r) → s.noc.out.find? (fun o => o.isOf p) = some o →
    (p.proof = true ∨ (s.tin (s.tinOf d r)).proofing = false) →
    Runs (.response f) s [.noc, .answer] fun u => u.answer = some ⟨p.status, p.data, p.poison⟩ ∧
      u.noc = { s.noc with flights := s.noc.flights.eraseIdx f, out := s.noc.out.erase o }) ∧
  (∀ (s : State) (f : Nat) (p : Packet) (loc : Nat) (o : Outst), s.atTarget f = some (p, loc) → p.cmd = .response → p.notice = false →
    s.noc.out.find? (fun o => o.isOf p) = none → s.noc.quar.find? (fun o => o.isOf p) = some o →
    Runs (.response f) s [.noc, .regs] fun u => u.noc = { s.noc with flights := s.noc.flights.eraseIdx f, quar := s.noc.quar.erase o } ∧
      u.fget (lateFld p.dst) = satAdd 16 (s.fget (lateFld p.dst)) 1 ∧ s.RegsOnly [(lateFld p.dst).off] u) ∧
  (∀ (s : State) (f : Nat) (p : Packet) (loc : Nat), s.atTarget f = some (p, loc) → p.cmd = .response → p.notice = false →
    s.noc.out.find? (fun o => o.isOf p) = none → s.noc.quar.find? (fun o => o.isOf p) = none →
    Runs (.response f) s [.noc, .regs] fun u => s.Consumed u f ∧
      u.fget (lateFld p.dst) = satAdd 16 (s.fget (lateFld p.dst)) 1 ∧ s.RegsOnly [(lateFld p.dst).off] u) ∧
  (∀ (s : State) (f : Nat) (p : Packet) (loc d r : Nat), s.atTarget f = some (p, loc) → p.cmd = .response → p.notice = true →
    nodeOf p.dst = some (.role d r) →
    Runs (.response f) s [.noc, .tins] fun u => s.Consumed u f ∧ s.TinOnly (s.tinOf d r) u ∧
      u.tin (s.tinOf d r) = { s.tin (s.tinOf d r) with
        reads := (s.tin (s.tinOf d r)).reads.eraseP (fun q => q.tag == p.tag && q.epoch == p.epoch) }) ∧
  (∀ (s : State) (i : Nat) (o : Outst) (d n : Nat), s.noc.out[i]? = some o → o.src / 256 = d + 1 →
    n = o.respBytes →
    Runs (.nocTimeout i) s [.noc, .answer, .regs, .events] fun u =>
      u.noc = { s.noc with out := s.noc.out.eraseIdx i, quar := s.noc.quar ++ [o] } ∧
      u.answer = some ⟨stTimeout, List.replicate n 0, decide (n ≠ 0)⟩ ∧
      u.fget (BL_TMO.timeouts d) = satAdd 16 (s.fget (BL_TMO.timeouts d)) 1 ∧ s.RegsOnly [(BL_TMO.timeouts d).off] u) ∧
  (∀ (s : State) (i : Nat), i < s.noc.quar.length →
    Runs (.quarantineEnd i) s [.noc] fun u => u.noc = { s.noc with quar := s.noc.quar.eraseIdx i } ∧
      u.noc.quar.length + 1 = s.noc.quar.length)

/-- A packet that enters the NoC: its stamped header, its outstanding entry, and the proofing gate (R83, R264, R272, R276, R277, R279, R288, R379). -/
def Obligations.NocInjection : Prop :=
  (∀ (s : State) (id : Fin 4096) (p : Packet) (d r dst : Nat), nodeOf id.val = some (.role d r) →
    (s.tin (s.tinOf d r)).released = true → (s.tin (s.tinOf d r)).frozen = false → (s.tin (s.tinOf d r)).stopped = false →
    (s.tin (s.tinOf d r)).nocGate = [] → (s.tin (s.tinOf d r)).proofedUpTo (s.tin (s.tinOf d r)).seq = true →
    p.shapeOk = true → p.cmd ≠ .response → (p.cmd.posted = false → s.tagBusy id.val p.tag = false) →
    (if p.cmd = .message then some p.dst else s.dstOf p.addr) = some dst → s.noc.reroute = false →
    Runs (.nocInject id p) s [.noc] fun u =>
      u.noc = { s.noc with
        flights := s.noc.flights ++ [Packet.flightAt (s.stamp id.val (.role d r) p dst) (s.entry (.role d r) ((nodeOf dst).map s.site))]
        out := if p.cmd.posted then s.noc.out else s.noc.out ++ [⟨id.val, p.tag, s.fget (TIN_STAT.epoch (s.tinOf d r)), p.addr, p.cmd, p.bytes⟩] }) ∧
  (∀ (s : State) (id : Fin 4096) (p : Packet) (d r : Nat), nodeOf id.val = some (.role d r) →
    (s.tin (s.tinOf d r)).released = true → (s.tin (s.tinOf d r)).frozen = false → (s.tin (s.tinOf d r)).stopped = false →
    ((s.tin (s.tinOf d r)).nocGate ≠ [] ∨ (s.tin (s.tinOf d r)).proofedUpTo (s.tin (s.tinOf d r)).seq = false) →
    Runs (.nocInject id p) s [.tins] fun u => s.TinOnly (s.tinOf d r) u ∧
      u.tin (s.tinOf d r) = { s.tin (s.tinOf d r) with nocGate := (s.tin (s.tinOf d r)).nocGate ++ [(p, (s.tin (s.tinOf d r)).seq)] }) ∧
  (∀ (s : State) (id : Fin 4096) (p q : Packet) (d r : Nat), nodeOf id.val = some (.role d r) →
    (s.tin (s.tinOf d r)).released = true → (s.tin (s.tinOf d r)).frozen = false → (s.tin (s.tinOf d r)).stopped = false →
    (s.tin (s.tinOf d r)).nocGate = [] → (s.tin (s.tinOf d r)).proofedUpTo (s.tin (s.tinOf d r)).seq = true →
    p.cmd = .response → (s.tin (s.tinOf d r)).nocIn.find? (fun q => q.tag == p.tag && q.src == p.dst) = some q →
    Runs (.nocInject id p) s [.noc, .tins] fun u => s.TinOnly (s.tinOf d r) u ∧
      u.tin (s.tinOf d r) = { s.tin (s.tinOf d r) with nocIn := (s.tin (s.tinOf d r)).nocIn.erase q } ∧
      u.noc = { s.noc with flights := s.noc.flights ++
        [Packet.flightAt (q.reply id.val p.status p.detail (slice p.data 0 q.respBytes) p.poison true) (18 * d + tinPos (s.localTin d r))] }) ∧
  (∀ (s : State) (t : TinIx) (p : Fin 385) (e : GateTok) (l : List GateTok), p.val < 384 → ((s.tin t.val).port p.val).gate = e :: l →
    ((s.tin t.val).port p.val).offer = none → ((s.tin t.val).port p.val).mode = .pass → (s.tin t.val).proofedUpTo e.stamp = true →
    Runs (.proofingGateRelease t p) s [.tins] fun u => s.TinOnly t.val u ∧
      u.tin t.val = ((s.tin t.val).setPort p.val { (s.tin t.val).port p.val with gate := l, offer := some e.tok }).settle) ∧
  (∀ (s : State) (t : TinIx) (p : Fin 385) (e : Packet × Nat) (l : List (Packet × Nat)), p.val = 384 → (s.tin t.val).nocGate = e :: l →
    (s.tin t.val).proofedUpTo e.2 = true → (s.tin t.val).released = true → (s.tin t.val).frozen = false → (s.tin t.val).stopped = false →
    ∃ v, v.tins = (s.setTin t.val { s.tin t.val with nocGate := l }).tins ∧ s.Only [.tins] v ∧
      exec (.proofingGateRelease t p) s = .next (v.inject (roleNode (t.val / 13) (s.roleOf t.val)) e.1)) ∧
  (∀ (s : State) (f : Nat) (p : Packet) (loc d r : Nat) (c : Instr), s.atTarget f = some (p, loc) → nodeOf p.dst = some (.role d r) →
    ((c = .read f .clean ∧ p.cmd = .read) ∨ (c = .write f .clean ∧ p.cmd = .write) ∨
      ((c = .atomicAdd f .clean ∧ p.cmd = .atomicAdd ∨ c = .atomicSwap f .clean ∧ p.cmd = .atomicSwap ∨
        c = .atomicCas f .clean ∧ p.cmd = .atomicCas) ∧ (s.tin (s.tinOf d r)).acceptAtomic = true)) →
    s.roleOpen (s.tinOf d r) = true → (s.tin (s.tinOf d r)).frozen = false → s.halted = false →
    Runs c s [.noc, .tins] fun u => s.Consumed u f ∧ s.TinOnly (s.tinOf d r) u ∧
      u.tin (s.tinOf d r) = { s.tin (s.tinOf d r) with nocIn := (s.tin (s.tinOf d r)).nocIn ++ [p] })

/-- The units of a packet on their way: a header's hop, a data unit's hop, an uncorrectable header (R281, R282, R286, R287, R294, R296). -/
def Obligations.NocHops : Prop :=
  (∀ (s : State) (f : Nat) (v : Flight) (n : Node) (b : Nat), s.noc.flights[f]? = some v → 0 < v.idx.length →
    v.idx.getD 0 0 + 1 = v.trail.length → nodeOf v.pkt.dst = some n → (s.site n).here (v.locOf 0) = false →
    (∀ d q, s.site n = .ring d q → 144 ≤ v.locOf 0 → s.dieAway d = false ∧ s.fget PTM_PSTATE.state ≠ 2 ∧ s.fget PTM_PSTATE.state ≠ 3) →
    s.noc.nextHop (v.locOf 0) (s.site n) = some b → s.edgeUp (v.locOf 0) b = true → s.mayGo f v.pkt v.wait (v.locOf 0) b = true →
    (∀ g w, s.noc.flights[g]? = some w → g ≠ f → Packet.vc w.pkt = Packet.vc v.pkt → w.holds (v.locOf 0) b = false) →
    Runs (.routerHop f 0 .clean) s [.noc] fun u =>
      u.noc.flights[f]? = some { v with trail := v.trail ++ [b], idx := v.idx.set 0 v.trail.length, wait := 0 } ∧
      u.noc.flights.length = s.noc.flights.length ∧
      (∀ g w, g ≠ f → s.noc.flights[g]? = some w → ∃ x, u.noc.flights[g]? = some { w with wait := x } ∧ (x = w.wait ∨ x = w.wait + 1)) ∧
      u.noc = { s.noc with flights := u.noc.flights }) ∧
  (∀ (s : State) (f i : Nat) (v : Flight) (b : Nat), s.noc.flights[f]? = some v → 0 < i → i < v.idx.length →
    v.nextOf i = some b → (s.edgeUp (v.locOf i) b = true ∨ s.noc.resent (v.locOf i) b = true) →
    s.mayGo f v.pkt v.wait (v.locOf i) b = true →
    Runs (.routerHop f i .clean) s [.noc] fun u =>
      u.noc.flights[f]? = some { v with idx := v.idx.set i (v.idx.getD i 0 + 1), wait := 0 } ∧
      u.noc.flights.length = s.noc.flights.length ∧
      (∀ g w, g ≠ f → s.noc.flights[g]? = some w → ∃ x, u.noc.flights[g]? = some { w with wait := x } ∧ (x = w.wait ∨ x = w.wait + 1)) ∧
      u.noc = { s.noc with flights := u.noc.flights }) ∧
  (∀ (s : State) (f : Nat) (v : Flight), s.noc.flights[f]? = some v → 0 < v.idx.length →
    Runs (.routerHop f 0 .uncorr) s [.noc, .regs, .events] fun u => s.Consumed u f ∧
      u.fget NOC_ERR.hdr_uncorr = satAdd 8 (s.fget NOC_ERR.hdr_uncorr) 1 ∧ s.RegsOnly [NOC_ERR] u ∧
      u.events = (s.post 0x0401 3 (if v.locOf 0 < 144 then some (v.locOf 0 / 18) else none) (v.locOf 0)).events)

/-- Sparing and retirement of bench links and spine routers, and the reroute that follows (R141, R142, R143, R144, R292, R293, R294, R295). -/
def Obligations.NocSparing : Prop :=
  (∀ (s : State) (d : DieIx) (k : Fin 4) (out : Bool) (z : Fin 32) (w : Fin 12) (i : Nat) (v : BenchDozen),
    i = 256 * d.val + 64 * k.val + (if out then 32 else 0) + z.val → v = Tab.get .fresh s.bench i →
    (Tab.get .fresh v.wires w.val).failed = true → v.spareFor = none → (Tab.get .fresh v.wires 12).failed = false →
    Runs (.benchWireSpared d k out z w) s [.bench, .regs, .events] fun u =>
      u.bench = Tab.put .fresh s.bench i { v with spareFor := some w.val } ∧
      u.fget (BL_STAT.wires_spared d.val k.val) = satAdd 16 (s.fget (BL_STAT.wires_spared d.val k.val)) 1 ∧
      s.RegsOnly [(BL_STAT.wires_spared d.val k.val).off] u ∧
      u.events = (s.post 0x0404 2 (some d.val) (4 * d.val + k.val) z.val w.val).events) ∧
  (∀ (s : State) (d : DieIx) (k : Fin 4) (out : Bool) (z : Fin 32) (i : Nat) (v : BenchDozen) (f : Fld),
    i = 256 * d.val + 64 * k.val + (if out then 32 else 0) + z.val → v = Tab.get .fresh s.bench i →
    f = (if out then BL_STAT.spare_out d.val k.val else BL_STAT.spare_in d.val k.val) →
    2 ≤ (v.wires.filter (fun w => w.2.failed)).length → s.fget f < 2 → s.fget (BL_STAT.state d.val k.val) ≠ 3 →
    Runs (.benchDozenSpared d k out z) s [.bench, .regs, .events] fun u =>
      u.bench = Tab.put .fresh s.bench i .fresh ∧ u.fget f = s.fget f + 1 ∧ s.RegsOnly [f.off] u ∧
      u.events = (s.post 0x0405 2 (some d.val) (4 * d.val + k.val) z.val).events) ∧
  (∀ (s : State) (d : DieIx) (k : Fin 4), (s.benchNeeds d.val k.val true = true ∨ s.benchNeeds d.val k.val false = true) →
    s.fget (BL_STAT.state d.val k.val) ≠ 3 →
    Runs (.benchLinkRetired d k) s [.noc, .regs, .events] fun u =>
      u.fget (BL_STAT.state d.val k.val) = 3 ∧ s.RegsOnly [(BL_STAT.state d.val k.val).off] u ∧ u.noc = { s.noc with reroute := true } ∧
      u.events = (s.post 0x0406 2 (some d.val) (4 * d.val + k.val)).events) ∧
  (∀ (s : State) (i : Fin 12), s.fbit NOC_SPINE.spare_used = false → bit (s.fget NOC_SPINE.failed) 12 = false →
    bit (s.fget NOC_SPINE.failed) i.val = false →
    Runs (.spineRouterSpared i) s [.noc, .regs, .events] fun u =>
      u.fget NOC_SPINE.failed = setBit (s.fget NOC_SPINE.failed) i.val true % 2 ^ 13 ∧ u.fbit NOC_SPINE.spare_used = true ∧
      u.fget NOC_SPINE.spare_for = i.val ∧ u.noc.reroute = true ∧
      u.noc.flights = s.noc.flights.filter (fun v => !(List.range v.idx.length).any (fun n => v.locOf n == 144 + i.val))) ∧
  (∀ (s : State) (i : SpineIx), (s.fbit NOC_SPINE.spare_used = true ∨ bit (s.fget NOC_SPINE.failed) 12 = true) → i.val ≠ 12 →
    bit (s.fget NOC_SPINE.failed) i.val = false →
    Runs (.spineRouterRetired i) s [.noc, .regs, .events] fun u =>
      u.noc.reroute = true ∧ ∀ l, l < 32 → benchSlot (l / 4) (l % 4) = i.val → u.fget (BL_STAT.state (l / 4) (l % 4)) = 3) ∧
  (∀ (s : State), s.noc.reroute = true →
    Runs .rerouteStep s [.noc, .dram, .events] fun u => u.noc.reroute = false ∧ u.noc.flights = s.noc.flights ∧ u.noc.out = s.noc.out ∧
      (∀ i, i ∈ u.noc.downLinks ↔ i < 32 ∧ s.fget (BL_STAT.state (i / 4) (i % 4)) = 3) ∧
      (∀ i, i ∈ u.noc.downSpines ↔ i < 12 ∧ s.spineUp i = false) ∧
      u.dram.mem = s.dram.mem ∧ u.events = (s.post 0x0403 0 none 0).events)

/-- READ, WRITE and SWAP of a pantry port: the word, its poison, the response token and the acknowledge (R168, R169, R170, R171, R172, R175, R176). -/
def Obligations.PantryAccesses : Prop :=
  (∀ (s : State) (t : TinIx) (p : PantryIx) (b : Bool) (k org a : Nat) (v : Pantry), (s.tin t.val).pantryCmd p.val b = some k →
    org = pantryOrg ((s.tin t.val).pantryCtl p.val) → a = bits k 2 13 → v = (s.tin t.val).pantry p.val →
    pantryOp ((s.tin t.val).pantryCtl p.val) b k = 0 →
    Runs (.pantryRead t p b .clean) s [.tins] fun u => s.TinOnly t.val u ∧ ∃ w : Pantry, u.tin t.val = ((s.tin t.val).setPantry p.val w).settle ∧
      w.rows = v.rows ∧ w.poison = v.poison ∧ (if b then w.ackB else w.ackA) = true ∧
      (if b then w.outB else w.outA) = ⟨some (v.word org a + if v.wordPoison org a then 2 ^ orgWidth org else 0), false⟩ ∧
      (if b then w.outA else w.outB) = (if b then v.outA else v.outB)) ∧
  (∀ (s : State) (t : TinIx) (p : PantryIx) (b : Bool) (k org a : Nat) (v : Pantry), (s.tin t.val).pantryCmd p.val b = some k →
    org = pantryOrg ((s.tin t.val).pantryCtl p.val) → a = bits k 2 13 → v = (s.tin t.val).pantry p.val →
    pantryOp ((s.tin t.val).pantryCtl p.val) b k = 1 →
    Runs (.pantryWrite t p b .clean) s [.tins] fun u => s.TinOnly t.val u ∧ ∃ w : Pantry, u.tin t.val = ((s.tin t.val).setPantry p.val w).settle ∧
      w.word org a = bits k 15 (orgWidth org) ∧ w.wordPoison org a = false ∧
      (∀ r, r ≠ wordRow org a → w.row r = v.row r ∧ w.rowPoison r = v.rowPoison r) ∧
      (if b then w.ackB else w.ackA) = true ∧ w.outA = v.outA ∧ w.outB = v.outB) ∧
  (∀ (s : State) (t : TinIx) (p : PantryIx) (b : Bool) (k org a : Nat) (v : Pantry), (s.tin t.val).pantryCmd p.val b = some k →
    org = pantryOrg ((s.tin t.val).pantryCtl p.val) → a = bits k 2 13 → v = (s.tin t.val).pantry p.val →
    pantryOp ((s.tin t.val).pantryCtl p.val) b k = 2 →
    Runs (.pantrySwap t p b .clean) s [.tins] fun u => s.TinOnly t.val u ∧ ∃ w : Pantry, u.tin t.val = ((s.tin t.val).setPantry p.val w).settle ∧
      w.word org a = bits k 15 (orgWidth org) ∧ w.wordPoison org a = false ∧
      (∀ r, r ≠ wordRow org a → w.row r = v.row r ∧ w.rowPoison r = v.rowPoison r) ∧ (if b then w.ackB else w.ackA) = true ∧
      (if b then w.outB else w.outA) = ⟨some (v.word org a + if v.wordPoison org a then 2 ^ orgWidth org else 0), false⟩ ∧
      (if b then w.outA else w.outB) = (if b then v.outA else v.outB))

/-- Spare rows, scrubbing, errors and the event channel of a pantry (R175, R176, R177, R180, R181, R187, R188, R207). -/
def Obligations.PantryUpkeep : Prop :=
  (∀ (s : State) (t : TinIx) (p : PantryIx) (r : Fin 1024) (v : Pantry), v = (s.tin t.val).pantry p.val → r.val ∈ v.hardFailed → v.spareUsed < 8 →
    Runs (.pantryRowSpared t p r) s [.events, .tins] fun u => s.TinOnly t.val u ∧
      u.tin t.val = (s.tin t.val).setPantry p.val { v with
        hardFailed := v.hardFailed.filter (fun q => q != r.val), remap := r.val :: v.remap.filter (fun q => q != r.val), spareUsed := v.spareUsed + 1 } ∧
      u.events = (s.post 0x0107 2 (some (t.val / 13)) (pantryUnit (s.roleOf t.val) (t.val % 13) p.val) r.val).events) ∧
  (∀ (s : State) (t : TinIx) (p : PantryIx) (v : Pantry), v = (s.tin t.val).pantry p.val →
    Runs (.pantryScrub t p .clean) s [.tins] fun u => s.TinOnly t.val u ∧
      u.tin t.val = (s.tin t.val).setPantry p.val { v with scrubRow := (v.scrubRow + 1) % 1024 }) ∧
  (∀ (s : State) (t : TinIx) (p : PantryIx) (v : Pantry), v = (s.tin t.val).pantry p.val →
    Runs (.pantryScrub t p .corrected) s [.regs, .tins, .corr] fun u => s.TinOnly t.val u ∧
      u.tin t.val = (s.tin t.val).setPantry p.val { v with scrubRow := (v.scrubRow + 1) % 1024 } ∧
      u.fget (TIN_PANTRY_ERR.corr t.val) = satAdd (TIN_PANTRY_ERR.corr t.val).len (s.fget (TIN_PANTRY_ERR.corr t.val)) 1 ∧
      s.RegsOnly [(TIN_PANTRY_ERR.corr t.val).off] u ∧
      u.corr = Tab.mod 0 s.corr (pantryInst t.val p.val) (· + 1)) ∧
  (∀ (s : State) (t : TinIx) (p : PantryIx) (v : Pantry), v = (s.tin t.val).pantry p.val →
    Runs (.pantryScrub t p .uncorr) s [.regs, .events, .tins, .corr, .free] fun u => s.TinOnly t.val u ∧
      ((u.tin t.val).pantry p.val).rowPoison v.scrubRow = 0xFF ∧ ((u.tin t.val).pantry p.val).scrubRow = (v.scrubRow + 1) % 1024 ∧
      (∀ r, r ≠ v.scrubRow → ((u.tin t.val).pantry p.val).row r = v.row r ∧ ((u.tin t.val).pantry p.val).rowPoison r = v.rowPoison r) ∧
      u.fget (TIN_PANTRY_ERR.uncorr t.val) = satAdd (TIN_PANTRY_ERR.uncorr t.val).len (s.fget (TIN_PANTRY_ERR.uncorr t.val)) 1) ∧
  (∀ (s : State) (t : TinIx) (p : PantryIx) (c : Nat) (v : Pantry), c = (s.tin t.val).pantryCtl p.val → v = (s.tin t.val).pantry p.val →
    pantryFifo c = true → pantryStaleCount c ≠ 0 → v.wpA ≠ v.rpA → v.staleFired = false →
    v.staleSince + pantryStaleCount c * (10 * 2 ^ pantryStaleExp c) * 2 ^ 40 ≤ s.now →
    Runs (.stale t p) s [.tins] fun u => s.TinOnly t.val u ∧
      u.tin t.val = (s.tin t.val).setPantry p.val { v with staleFired := true, event := if v.event = 0 then 1 else setBit (setBit v.event 0 true) 2 true }) ∧
  (∀ (s : State) (t : TinIx) (p : PantryIx) (v : Pantry), v = (s.tin t.val).pantry p.val → v.event ≠ 0 → v.eventWait = false →
    (s.tin t.val).outTapped (.pantry p.val) 146 3 = true → ((s.tin t.val).outAcks (.pantry p.val) 146 3).all id = true →
    Runs (.fifoEventConsume t p) s [.tins] fun u => s.TinOnly t.val u ∧
      u.tin t.val = ((s.tin t.val).setPantry p.val { v with event := 0, eventWait := true }).settle)

/-- A FIFO takes a word in and hands the next one on; pointer copies that disagree flush it (R184, R185, R186, R188). -/
def Obligations.FifoMoves : Prop :=
  (∀ (s : State) (t : TinIx) (p : PantryIx) (c org w : Nat) (v : Pantry), c = (s.tin t.val).pantryCtl p.val → org = pantryOrg c →
    v = (s.tin t.val).pantry p.val → (s.tin t.val).running = true → pantryFifo c = true → v.unusable = false → v.ackA = false →
    v.fifoCount org < fifoDepth org → (s.tin t.val).groupToken (.pantry p.val) 0 (orgWidth org) = some w → v.wpA = v.wpB → v.rpA = v.rpB →
    Runs (.fifoWrite t p false) s [.tins] fun u => s.TinOnly t.val u ∧ ∃ x : Pantry, u.tin t.val = ((s.tin t.val).setPantry p.val x).settle ∧
      x.word org (v.wpA % fifoDepth org) = w % 2 ^ orgWidth org ∧ x.wpA = (v.wpA + 1) % (2 * fifoDepth org) ∧ x.wpB = x.wpA ∧
      x.rpA = v.rpA ∧ x.rpB = v.rpB ∧ x.ackA = true ∧
      (∀ r, r ≠ wordRow org (v.wpA % fifoDepth org) → x.row r = v.row r ∧ x.rowPoison r = v.rowPoison r)) ∧
  (∀ (s : State) (t : TinIx) (p : PantryIx) (c org : Nat) (v : Pantry), c = (s.tin t.val).pantryCtl p.val → org = pantryOrg c →
    v = (s.tin t.val).pantry p.val → (s.tin t.val).running = true → pantryFifo c = true → v.outB.wait = false → v.ackB = false → v.wpA ≠ v.rpA →
    v.outB.tok.isSome = true → (s.tin t.val).outTapped (.pantry p.val) 73 73 = true →
    ((s.tin t.val).outAcks (.pantry p.val) 73 73).all id = true → v.wpA = v.wpB → v.rpA = v.rpB →
    Runs (.fifoRead t p false .clean) s [.tins] fun u => s.TinOnly t.val u ∧ ∃ x : Pantry, u.tin t.val = ((s.tin t.val).setPantry p.val x).settle ∧
      x.rpA = (v.rpA + 1) % (2 * fifoDepth org) ∧ x.rpB = x.rpA ∧ x.wpA = v.wpA ∧ x.wpB = v.wpB ∧ x.rows = v.rows ∧ x.poison = v.poison ∧
      x.outB = ⟨if v.wpA = x.rpA then none else some (v.word org (x.rpA % fifoDepth org) +
        if v.wordPoison org (x.rpA % fifoDepth org) then 2 ^ orgWidth org else 0), true⟩) ∧
  (∀ (s : State) (t : TinIx) (p : PantryIx) (c org w : Nat) (v : Pantry), c = (s.tin t.val).pantryCtl p.val → org = pantryOrg c →
    v = (s.tin t.val).pantry p.val → (s.tin t.val).running = true → pantryFifo c = true → v.unusable = false → v.ackA = false →
    v.fifoCount org < fifoDepth org → (s.tin t.val).groupToken (.pantry p.val) 0 (orgWidth org) = some w → v.wpA = v.wpB → v.rpA = v.rpB →
    Runs (.fifoWrite t p true) s [.regs, .events, .tins] fun u => s.TinOnly t.val u ∧ ∃ x : Pantry, u.tin t.val = ((s.tin t.val).setPantry p.val x).settle ∧
      x.wpA = 0 ∧ x.wpB = 0 ∧ x.rpA = 0 ∧ x.rpB = 0 ∧ bit x.event 1 = true ∧
      u.fget (TIN_PANTRY_ERR.fifo_fault t.val) = satAdd 8 (s.fget (TIN_PANTRY_ERR.fifo_fault t.val)) 1 ∧
      s.RegsOnly [(TIN_PANTRY_ERR.fifo_fault t.val).off] u)

/-- One operation of a mixer: accumulators, chain, store; one step of a search (R211, R212, R217, R218, R220, R221, R223, R224, R230). -/
def Obligations.Mixers : Prop :=
  (∀ (s : State) (t : TinIx) (q : MixerIx) (ctl : Nat) (i : MixIn) (v : Mixer), ctl = (s.tin t.val).mixerCtl q.val →
    v = (s.tin t.val).mixer q.val → (s.tin t.val).mixReady q.val = true → mixMode ctl ≠ 3 → (s.tin t.val).mixInputs q.val = some i →
    Runs (.mixerOperation t q 0) s [.tins] fun u => s.TinOnly t.val u ∧ ∃ w : Mixer, u.tin t.val = ((s.tin t.val).setMixer q.val w).settle ∧
      w.ack = true ∧
      (mixMode ctl = 0 → bit i.op 4 = false → w.h1 = i.a0 ∧ w.h2 = v.h1 ∧ w.h3 = v.h2 ∧ w.h4 = v.h3) ∧
      (mixMode ctl = 0 → bit i.op 4 = true → w.h1 = i.a0 ∧ w.h2 = 0 ∧ w.h3 = 0 ∧ w.h4 = 0) ∧
      (mixMode ctl ≠ 0 → w.h1 = v.h1 ∧ w.h2 = v.h2 ∧ w.h3 = v.h3 ∧ w.h4 = v.h4) ∧
      (mixMode ctl = 0 → mixSum ctl = false → bit i.op 4 = false → bit i.op 0 = false →
        (w.acc0, w.ovf0) = clamp56 (v.acc0 + i.a0 * i.b0 + v.h1 * i.b1 + v.h2 * i.b2 + v.h3 * i.b3 + i.c) v.ovf0) ∧
      (mixMode ctl = 1 → mixSum ctl = false → bit i.op 0 = false →
        (w.acc0, w.ovf0) = clamp56 (v.acc0 + i.a0 * i.b0 + i.a1 * i.b1 + i.a0 * i.b2 + i.a1 * i.b3 + i.c) v.ovf0) ∧
      (mixMode ctl = 2 → bit i.op 0 = false →
        (w.acc0, w.ovf0) = clamp56 (v.acc0 + i.a0 * i.b0 - i.a1 * i.b1 + i.c) v.ovf0 ∧
        (w.acc1, w.ovf1) = clamp56 (v.acc1 + i.a0 * i.b1 + i.a1 * i.b0) v.ovf1) ∧
      (mixMode ctl = 1 → bit i.op 0 = true → mixSum ctl = true →
        (w.acc0, w.ovf0) = clamp56 (0 + i.a0 * i.b0 + i.a1 * i.b1 + i.c) .none ∧
        (w.acc1, w.ovf1) = clamp56 (0 + i.a0 * i.b2 + i.a1 * i.b3) .none) ∧
      (bit i.op 1 = true → bit i.op 5 = false → mixerUses ctl 8 = true → w.z0 = [(storeToken ctl w.acc0 w.ovf0 v.err0).1] ∧ w.err0 = false) ∧
      (bit i.op 1 = false → bit i.op 5 = false → w.z0 = [] ∧ w.counter = v.counter)) ∧
  (∀ (s : State) (t : TinIx) (q : MixerIx) (ctl a0 op : Nat) (v : Mixer), ctl = (s.tin t.val).mixerCtl q.val →
    v = (s.tin t.val).mixer q.val → (s.tin t.val).mixReady q.val = true → mixMode ctl = 3 →
    (s.tin t.val).mixPort q.val ctl 0 = some a0 → (s.tin t.val).mixPort q.val ctl 6 = some op → mixerUses ctl 6 = true →
    Runs (.mixerSearch t q false) s [.tins] fun u => s.TinOnly t.val u ∧ ∃ w : Mixer, u.tin t.val = ((s.tin t.val).setMixer q.val w).settle ∧
      w.ack = true ∧
      ((v.have_ = false ∨ bit op 0 = true) → w.best = a0 ∧ w.bestIdx = if bit op 0 then 0 else v.idx) ∧
      (v.have_ = true → bit op 0 = false → mixCmpUnsigned ctl = true → mixSearchMax ctl = true →
        (v.best < a0 → w.best = a0 ∧ w.bestIdx = v.idx) ∧ (a0 ≤ v.best → w.best = v.best ∧ w.bestIdx = v.bestIdx)) ∧
      (v.have_ = true → bit op 0 = false → mixCmpUnsigned ctl = true → mixSearchMax ctl = false →
        (a0 < v.best → w.best = a0 ∧ w.bestIdx = v.idx) ∧ (v.best ≤ a0 → w.best = v.best ∧ w.bestIdx = v.bestIdx)) ∧
      (bit op 2 = false → w.have_ = true ∧ w.z0 = []) ∧ (bit op 2 = true → w.have_ = false ∧ w.idx = 0))

/-- A store rounds half to even and saturates; the accumulator stays within 56 bits (R218, R220). -/
def Obligations.MixerRounding : Prop :=
  (∀ (a : Int) (n : Nat), 0 < n → 2 * (roundShift a n * 2 ^ n - a) ≤ 2 ^ n ∧ -(2 ^ n) ≤ 2 * (roundShift a n * 2 ^ n - a) ∧
    ((2 * (roundShift a n * 2 ^ n - a) = 2 ^ n ∨ 2 * (roundShift a n * 2 ^ n - a) = -(2 ^ n)) → roundShift a n % 2 = 0)) ∧
  (∀ (w n : Nat) (a : Int), 0 < w → -(2 ^ (w - 1)) ≤ roundShift a n → roundShift a n ≤ 2 ^ (w - 1) - 1 →
    storeValue w n false a .none = (roundShift a n, .none)) ∧
  (∀ (w n : Nat) (a : Int), 0 < w →
    -(2 ^ (w - 1)) ≤ (storeValue w n false a .none).1 ∧ (storeValue w n false a .none).1 ≤ 2 ^ (w - 1) - 1 ∧
    0 ≤ (storeValue w n true a .none).1 ∧ (storeValue w n true a .none).1 ≤ 2 ^ w - 1) ∧
  (∀ (x : Int) (r : Rail), -(2 ^ 55) ≤ (clamp56 x r).1 ∧ (clamp56 x r).1 ≤ 2 ^ 55 - 1 ∧ (-(2 ^ 55) ≤ x → x ≤ 2 ^ 55 - 1 → clamp56 x r = (x, r)))

/-- Accesses of the larder, its scrubbing, its checkers and its corrected errors (R189, R190, R191, R193, R195, R196, R209). -/
def Obligations.LarderCommands : Prop :=
  (∀ (s : State) (a n o : Nat) (k : Dom), a = larderBase + o → o < larderSize → larderShape o n = true → s.larderMay k.val o false = true →
    (s.bank (larderBank o)).lost = false →
    Runs (.larderRead a n k .clean) s [.answer] fun u =>
      u.answer = some ⟨stDone, readBytes 0 s.larder.mem o n, s.larder.anyPoison o n⟩) ∧
  (∀ (s : State) (a n o : Nat) (k : Dom), a = larderBase + o → o < larderSize → larderShape o n = true → s.larderMay k.val o false = false →
    Runs (.larderRead a n k .clean) s [.answer, .regs] fun u => u.answer = some ⟨stNoRights, List.replicate n 0, false⟩ ∧
      u.fget LRD_ERR.denied = satAdd 8 (s.fget LRD_ERR.denied) 1 ∧ s.RegsOnly [LRD_ERR] u) ∧
  (∀ (s : State) (a o : Nat) (d : List Byte) (k : Dom) (posted poison : Bool), a = larderBase + o → o < larderSize →
    larderShape o d.length = true → s.larderMay k.val o true = true → (s.bank (larderBank o)).lost = false →
    (8 ≤ d.length ∨ s.larder.poisoned o = false) →
    Runs (.larderWrite a d k posted poison .clean) s [.answer, .larder] fun u =>
      u.answer = (if posted then none else some ⟨stDone, [], false⟩) ∧ BytesOnly s.larder.mem u.larder.mem o d ∧
      u.larder.banks = s.larder.banks ∧ (∀ i, o ≤ 8 * i → 8 * i < o + d.length → o % 8 = 0 → u.larder.poisoned (8 * i) = poison)) ∧
  (∀ (s : State) (b : Fin 16), Runs (.larderScrub b .corrected) s [.regs, .corr, .larder] fun u =>
      (u.bank b.val).scrubRow = ((s.bank b.val).scrubRow + 1) % 131072 ∧ u.larder.mem = s.larder.mem ∧
      u.fget LRD_ERR.corr = satAdd 16 (s.fget LRD_ERR.corr) 1 ∧ u.corr = Tab.mod 0 s.corr (instBank b.val) (· + 1) ∧ s.RegsOnly [LRD_ERR] u) ∧
  (∀ (s : State) (b : Fin 16), (s.bank b.val).lost = false → (s.bank b.val).standbyOk = true →
    Runs (.larderCheckerTest b false true false) s [.larder, .events] fun u =>
      u.bank b.val = { s.bank b.val with activeOk := true, standbyOk := false } ∧ u.larder.mem = s.larder.mem ∧
      (∀ c, c ≠ b.val → u.bank c = s.bank c) ∧ u.events = (s.post 0x010A 2 none b.val 0).events) ∧
  (∀ (s : State) (b : Fin 16), (s.bank b.val).lost = false →
    Runs (.larderCheckerTest b false false false) s [.larder, .events] fun u =>
      u.bank b.val = { s.bank b.val with activeOk := false, standbyOk := false, lost := true } ∧ u.larder.mem = s.larder.mem ∧
      (∀ c, c ≠ b.val → u.bank c = s.bank c) ∧ u.events = (s.post 0x010B 4 none b.val).events) ∧
  (∀ (s : State) (i n : Nat), n = Tab.get 0 s.corr i → n ≠ 0 → (Tab.get (0, 0) s.events.limited (0x10000 + i)).1 + oneSecond ≤ s.now + 1 →
    Runs (.memCorrected i) s [.events, .corr] fun u => Tab.get 0 u.corr i = 0 ∧ (∀ j, j ≠ i → Tab.get 0 u.corr j = Tab.get 0 s.corr j) ∧
      u.events.pf0 = (s.post 0x010F 1 (if i < 9984 then some (i / 96 / 13) else none) i n).events.pf0 ∧
      Tab.get (0, 0) u.events.limited (0x10000 + i) = (s.now + 1, 0))

/-- Self-test and fill, the pool sweep, and the reset of a control queue (R160, R197, R201, R202, R204, R205, R206, R522). -/
def Obligations.MemoryFill : Prop :=
  (∀ (s : State) (d : DieIx) (bad : List (Fin 13)) (bb : List (Fin 16)) (k : Fin 3), s.fget (DIE_STAT.state d.val) = 1 →
    Runs (.selfTestAndFill (some d) bad bb k) s [.regs, .events, .tins, .larder, .pool, .corr] fun u =>
      u.fget (DIE_STAT.state d.val) = 2 ∧ u.larder = s.larder ∧ u.events = s.events ∧
      ∀ t, t < 13 → (u.tin (13 * d.val + t)).holds = [] ∧ (u.tin (13 * d.val + t)).mixers = [] ∧
        (∀ p, ((u.tin (13 * d.val + t)).pantry p).rows = [] ∧ ((u.tin (13 * d.val + t)).pantry p).poison = []) ∧
        ((u.tin (13 * d.val + t)).unhealthy = true ↔ (s.tin (13 * d.val + t)).unhealthy = true ∨ ∃ b ∈ bad, b.val = t)) ∧
  (∀ (s : State) (bad : List (Fin 13)) (k : Fin 3), s.powerGood = true → s.fbit CLK_STAT.a_locked = true → s.cfg.ready = false → k.val ≠ 0 →
    Runs (.selfTestAndFill none bad [] k) s [.regs, .events, .tins, .larder, .pool, .corr] fun u =>
      u.larder.mem = [] ∧ u.larder.poison = [] ∧ u.larder.banks = s.larder.banks ∧ u.pool = { Pool.fresh with checkers := k.val, lost := false } ∧
      u.fget POOL_STAT.free = 16384 ∧ u.fget POOL_STAT.retired = 0 ∧ u.tins = s.tins) ∧
  (∀ (s : State), s.pool.freeBroken = false → s.fget POOL_STAT.free + s.pool.markedCells < 2 ^ 15 →
    Runs .poolSweep s [.regs, .pool] fun u => u.fget POOL_STAT.free = s.fget POOL_STAT.free + s.pool.markedCells ∧
      s.RegsOnly [POOL_STAT] u ∧ u.pool = { s.pool with marked := [], markedCells := 0 }) ∧
  (∀ (s : State) (d : DieIx) (k : Fin 13), cqList d.val k.val ∉ s.pool.marked →
    Runs (.macCqReset d k) s [.regs, .pool, .mac] fun u => u.cq d.val k.val = .fresh ∧ u.pool.entries (cqList d.val k.val) = [] ∧
      bit (u.fget (MAC_CQ_STAT.error d.val)) k.val = false) ∧
  (∀ (s : State) (d : DieIx) (k : Fin 13) (h : Fin 64), s.pool.entries (cqList d.val k.val) = [] →
    Runs (.macCqHead d k h) s [.mac] fun u => u.cq d.val k.val = { s.cq d.val k.val with head := h.val } ∧
      ∀ j, j ≠ 16 * d.val + k.val → Tab.get .fresh u.mac.cqs j = Tab.get .fresh s.mac.cqs j)

/-- BAR and debug-port accesses of the larder; a rail fault restarts its role (R59, R405, R408, R409, R504, R584, R725, R730, R731). -/
def Obligations.HostWindowAndRailFault : Prop :=
  (∀ (s : State) (fn : Fin 2) (off n : Nat), off < larderSize → larderShape off n = true → s.halted = false → s.noc.reroute = false →
    s.hqe.bars.any (fun b => b.fn == fn.val && !b.read) = false → s.larderMay fn.val off false = true →
    (s.bank (larderBank off)).lost = false →
    Runs (.barRead fn true off n .clean) s [.answer] fun u =>
      u.answer = some ⟨stDone, readBytes 0 s.larder.mem off n, s.larder.anyPoison off n⟩) ∧
  (∀ (s : State) (fn : Fin 2) (off : Nat) (data : List Byte), off < larderSize → larderShape off data.length = true → s.halted = false →
    s.noc.reroute = false → s.larderMay fn.val off true = true → (s.bank (larderBank off)).lost = false →
    (8 ≤ data.length ∨ s.larder.poisoned off = false) →
    Runs (.barWrite fn true off data false .clean) s [.larder, .answer] fun u => BytesOnly s.larder.mem u.larder.mem off data ∧ u.answer = none) ∧
  (∀ (s : State) (i : Nat) (b : BarReq), s.hqe.bars[i]? = some b → b.read = true →
    Runs (.barTimeout i) s [.regs, .noc, .hqe, .answer] fun u => u.answer = some ⟨stAborted, [], false⟩ ∧
      u.hqe = { s.hqe with bars := s.hqe.bars.eraseIdx i } ∧
      (∀ o, o ∈ s.noc.out → o.src = nodeHqe → o.tag ∈ b.waits.map (·.1) → o ∉ u.noc.out ∧ o ∈ u.noc.quar)) ∧
  (∀ (s : State) (i : Nat) (b : BarReq), s.hqe.bars[i]? = some b → b.read = false →
    Runs (.barTimeout i) s [.regs, .noc, .hqe] fun u => u.hqe = { s.hqe with bars := s.hqe.bars.eraseIdx i } ∧
      u.fget HQE_ERR.bar_denied = satAdd 8 (s.fget HQE_ERR.bar_denied) b.waits.length) ∧
  (∀ (s : State) (a : Fin 1099511627776) (consume inc : Bool) (off : Nat), s.tapOn = true → s.halted = false → s.debugLevel = 3 →
    s.dbg.boundary = none → s.dbg.dapWait = none → a.val = larderBase + off → off < larderSize → larderShape off 4 = true →
    s.larderMay 15 off false = true → (s.bank (larderBank off)).lost = false →
    Runs (.dapRead a consume inc .clean) s [.dbg, .answer] fun u =>
      u.dbg = { s.dbg with ir := 0x12, dapStatus := stDone, dapData := leVal (readBytes 0 s.larder.mem off 4) } ∧
      u.answer = some ⟨stDone, leBytes 1 s.irCapture ++ s.dapCapture, false⟩) ∧
  (∀ (s : State) (a : Fin 1099511627776) (w : Word) (inc : Bool) (off : Nat), s.tapOn = true → s.halted = false → s.debugLevel = 3 →
    s.dbg.boundary = none → s.dbg.dapWait = none → a.val = larderBase + off → off < larderSize → larderShape off 4 = true →
    s.larderMay 15 off true = true → (s.bank (larderBank off)).lost = false → s.larder.poisoned off = false →
    Runs (.dapWrite a w inc .clean) s [.dbg, .larder, .answer] fun u => BytesOnly s.larder.mem u.larder.mem off (leBytes 4 w.toNat) ∧
      u.dbg = { s.dbg with ir := 0x12, dapStatus := stDone, dapData := 0 }) ∧
  (∀ (s : State) (t : TinIx) (b : Fin 2048) (c : Fin 16) (d r : Nat), (s.tin t.val).running = true →
    (List.range 12).any (crumbInputUsed ((s.tin t.val).crumb b.val c.val)) = true → d = t.val / 13 → r = s.roleOf t.val → r < 12 → s.tinOf d r = t.val →
    s.roleOp d r = none → s.dbgFrozen d r = false → s.hasKept d r = true → s.spareAvail d = true → s.tinOf d 12 ≠ t.val →
    Runs (.tinRailFault t b c) s [.regs, .events, .tins, .spr] fun u => s.TinOnly t.val u ∧ (u.tin t.val).stopped = true ∧
      (u.tin t.val).faults = (s.tin t.val).faults ++ [16 * b.val + c.val] ∧ (∀ p, ((u.tin t.val).port p).mode = .stall) ∧
      u.fget (TIN_STAT.faults t.val) = satAdd 2 (s.fget (TIN_STAT.faults t.val)) 1 ∧ u.tinState t.val = tsStopped ∧
      u.tinState (s.tinOf d 12) = tsLoading ∧ ∃ o : SprOp, u.spr = { s.spr with ops := s.spr.ops ++ [o] } ∧ o.kind = .restart ∧ o.die = d ∧ o.role = r ∧
        o.inPlace = false ∧ o.stage = 1)

/-- A container arrives through a slave port, the TAP or the host queue; the status word (R528, R531, R532, R536, R540). -/
def Obligations.ImageSources : Prop :=
  (∀ (s : State) (par : Bool) (bytes : List Byte), s.cfgOn = true → s.fget CFG_STAT.cfg_mode = b2n par → s.cfg.load = none →
    s.cfg.chainEnd = none →
    Runs (.push par bytes) s [.regs, .cfg] fun u => s.RegsOnly [CFG_STAT] u ∧ u.fget CFG_STAT.loading = 1 ∧ u.fget CFG_STAT.source = b2n par ∧
      u.cfg = { s.cfg with load := some (Load.start (b2n par) 0 bytes (s.fget HQE_STAT.dev_state)), errN := true }) ∧
  (∀ (s : State) (par : Bool) (bytes : List Byte), s.cfgOn = true → s.fget CFG_STAT.cfg_mode = b2n par → s.cfg.load.isSome = true →
    Runs (.push par bytes) s [.answer] fun u => u.answer = some ⟨stBusy, [], false⟩) ∧
  (∀ (s : State), s.cfgOn = true → s.fget CFG_STAT.cfg_mode < 2 →
    Runs .stat s [.answer] fun u => ∃ w : List Byte, u.answer = some ⟨stDone, w, false⟩ ∧ w.length = 32 ∧ leAt w 0 1 = s.fget CFG_STAT.last_status) ∧
  (∀ (s : State) (bytes : List Byte), s.mayExtest = true → s.cfgOn = true → s.dbg.boundary = none → s.cfg.load = none → s.cfg.chainEnd = none →
    Runs (.cfgLoad bytes) s [.regs, .dbg, .cfg, .answer] fun u => s.RegsOnly [CFG_STAT] u ∧ u.fget CFG_STAT.loading = 1 ∧
      u.fget CFG_STAT.source = 3 ∧ u.cfg = { s.cfg with load := some (Load.start 3 0 bytes (s.fget HQE_STAT.dev_state)) } ∧
      u.dbg = { s.dbg with ir := 0x14 } ∧ ∃ c, u.answer = some ⟨stDone, leBytes 1 c ++ s.statusWord, false⟩) ∧
  (∀ (s : State) (bytes : List Byte) (l : Load), s.mayExtest = true → s.cfgOn = true → s.dbg.boundary = none → s.cfg.load = some l →
    l.src = 3 → l.stage < 3 →
    Runs (.cfgLoad bytes) s [.regs, .dbg, .cfg, .answer] fun u => s.RegsOnly [CFG_STAT] u ∧
      u.cfg = { s.cfg with load := some { l with inbox := l.inbox ++ bytes, got := l.got + bytes.length } } ∧
      u.dbg = { s.dbg with ir := 0x14 } ∧ ∃ c, u.answer = some ⟨stDone, leBytes 1 c ++ s.statusWord, false⟩) ∧
  (∀ (s : State) (q : QueueIx) (k : Nat) (j : Job) (b : List Byte) (ep : Bool), s.Started q.val 0x50 k j →
    Desc.clear j.desc true false true false = true → Desc.w1 j.desc = 1 → 1 ≤ Desc.len j.desc → b.length = Desc.len j.desc →
    (s.queue q.val).chain = false → s.legalState 0x50 = true → s.cfg.load = none → s.cfg.chainEnd = none →
    s.fget CFG_STAT.cfg_mode ≠ 3 → s.cfgOn = true →
    Runs (.loadImage q (.data b ep)) s [.regs, .events, .hqe, .cfg] fun u => s.RegsOnly [CFG_STAT, HQE_ERR, HQE_QCTL] u ∧
      u.fget CFG_STAT.loading = 1 ∧ u.fget CFG_STAT.source = 2 ∧
      u.cfg = { s.cfg with load := some (Load.start 2 q.val b (s.fget HQE_STAT.dev_state)), errN := true }) ∧
  (∀ (s : State) (q : QueueIx) (k : Nat) (j : Job) (b : List Byte) (ep : Bool) (l : Load), s.Started q.val 0x50 k j →
    Desc.clear j.desc true false true false = true → Desc.w1 j.desc < 2 → 1 ≤ Desc.len j.desc → b.length = Desc.len j.desc →
    (s.queue q.val).chain = true → s.cfg.load = some l → l.stage ≤ 1 → s.cfg.chainEnd = none →
    Runs (.loadImage q (.data b ep)) s [.regs, .events, .hqe, .cfg] fun u => s.RegsOnly [CFG_STAT, HQE_ERR, HQE_QCTL] u ∧
      u.cfg = { s.cfg with load := some { l with inbox := l.inbox ++ b, got := l.got + b.length, ended := !bit (Desc.w1 j.desc) 0 } })

/-- A header that passes starts the body; failures, early ends, the fallback and the safe shell (R533, R548, R552, R554, R555, R556, R557, R558, R560). -/
def Obligations.ImageHeadersAndFailures : Prop :=
  (∀ (s : State) (key : Option (Fin 4)) (sig : Bool) (l : Load) (h : List Byte), s.cfg.load = some l → l.stage = 0 → s.halted = false →
    h = l.inbox.take 4096 → h.length = 4096 → hdrStop12 h = none → hdrStop3 h = none → s.hdrStop47 h key sig = none → hdrPartial h = false →
    s.fget HQE_STAT.dev_state ≠ 3 → l.prior ≠ 2 →
    Runs (.headerAuthenticated key sig) s [.regs, .hqe, .cfg] fun u => s.RegsOnly [CFG_STAT, HQE_STAT] u ∧ u.fget HQE_STAT.dev_state = 1 ∧
      u.fget CFG_STAT.dev_state = 1 ∧ u.cfg = { s.cfg with load := some { l with
        golden := false, hdr := h, inbox := l.inbox.drop 4096, used := 4096, segs := leAt h 0x100 4, stage := 1 } }) ∧
  (∀ (s : State) (key : Option (Fin 4)) (sig : Bool) (l : Load) (h : List Byte) (t : Nat), s.cfg.load = some l → l.stage = 0 →
    s.halted = false → h = l.inbox.take 4096 → h.length = 4096 → hdrStop12 h = none → hdrStop3 h = none → s.hdrStop47 h key sig = none →
    hdrPartial h = true → hdrInPlace h = false → t = s.tinOf (hdrDie h) 12 → s.fget HQE_STAT.dev_state = 3 → s.tinState t = tsSpare →
    Runs (.headerAuthenticated key sig) s [.regs, .tins, .hqe, .cfg] fun u => s.TinOnly t u ∧ (u.tin t).frames = [] ∧
      u.tinState t = tsLoading ∧ u.cfg = { s.cfg with load := some { l with
        golden := false, hdr := h, inbox := l.inbox.drop 4096, used := 4096, segs := leAt h 0x100 4, stage := 1 } }) ∧
  (∀ (s : State) (key : Option (Fin 4)) (sig : Bool) (l : Load) (off : Nat), s.cfg.load = some l → l.stage = 0 → s.halted = false →
    l.hdr = [] → 16 ≤ l.inbox.length → hdrStop12 (l.inbox.take 4096) = some (stImageWrongDevice, off) → hdrKind (l.inbox.take 4096) ≠ 2 → l.src ≠ 2 →
    Runs (.headerAuthenticated key sig) s [.regs, .events, .hqe, .cfg] fun u => u.fget CFG_STAT.last_status = stImageWrongDevice ∧
      u.fget HQE_STAT.dev_state = s.fget HQE_STAT.dev_state ∧ u.cfg = { s.cfg with load := none, errN := false }) ∧
  (∀ (s : State) (c : Instr) (l : Load), s.cfg.load = some l → s.halted = false → l.short = true → l.stage = 1 → l.hdr ≠ [] →
    hdrKind l.hdr ≠ 2 → l.prior ≠ 2 → ((c = .earlyEnd ∧ (l.src = 2 → l.ended = true)) ∨ (c = .cfgIdleTimeout ∧ l.src ≠ 3)) →
    Runs c s [.regs, .events, .hqe, .cfg] fun u =>
      u.cfg = { s.cfg with load := some { l with stage := 3, fail := (stImageIncomplete, 0, l.got) } } ∧ s.RegsOnly [CFG_STAT] u) ∧
  (∀ (s : State) (l : Load), s.cfg.load = some l → l.stage = 3 → s.halted = false → l.golden = false → l.prior ≠ 4 → s.goldenAddr ≠ 0 →
    Runs .fabricWipeDone s [.regs, .events, .tins, .ring, .kept, .dieCopy, .hqe, .cfg, .spr] fun u => u.fget HQE_STAT.dev_state = 2 ∧
      u.fget CFG_STAT.fallback_req = 1 ∧ u.fget CFG_STAT.golden_tried = 0 ∧ u.cfg.load = none ∧ u.ring = [] ∧ u.kept = [] ∧ u.dieCopy = [] ∧
      u.spr.ops = [] ∧ ∀ t, t < 104 → (u.tin t).frames = []) ∧
  (∀ (s : State) (l : Load), s.cfg.load = some l → l.stage = 3 → s.halted = false → l.golden = true → l.prior ≠ 4 →
    Runs .fabricWipeDone s [.regs, .events, .tins, .ring, .kept, .dieCopy, .hqe, .cfg, .spr] fun u => u.fget HQE_STAT.dev_state = 4 ∧
      u.fget CFG_STAT.fallback_req = 0 ∧ u.cfg.load = none ∧ u.ring = [] ∧ u.kept = [] ∧ u.dieCopy = [] ∧
      ∀ t, t < 104 → (u.tin t).frames = []) ∧
  (∀ (s : State), s.fget HQE_STAT.dev_state = 2 → s.fbit CFG_STAT.golden_tried = false → s.cfg.load = none → s.halted = false →
    Runs .fallbackTimeout s [.regs, .events, .cfg] fun u => s.RegsOnly [CFG_STAT, HQE_STAT] u ∧ u.fget HQE_STAT.dev_state = 4 ∧
      u.fget CFG_STAT.fallback_req = 0 ∧ u.cfg = { s.cfg with errN := false })

/-- A clocked writer that finds the edge FIFO full loses its word, which the FIFO flags and counts (R250). -/
def Obligations.FullEdgeFifoDiscards : Prop :=
  ∀ (s : State) (d : DieIx) (g : Fin 4) (n : Fin 64) (w : BitVec 64), s.frozenEdge d.val g.val n.val = false →
    16 ≤ (s.edge d.val g.val n.val).fifo.length →
    Runs (.edgeFifoWrite d g n true w) s [.regs, .events, .clk] fun u =>
      u.clk.edges = Tab.put .fresh s.clk.edges (edgeKey d.val g.val n.val) { s.edge d.val g.val n.val with discards := (s.edge d.val g.val n.val).discards + 1 } ∧
      (u.edge d.val g.val n.val).fifo = (s.edge d.val g.val n.val).fifo ∧
      (u.edge d.val g.val n.val).discards = (s.edge d.val g.val n.val).discards + 1 ∧
      bit (u.fget (DIE_CLK_STAT.overrun d.val)) g.val = true ∧ s.RegsOnly [DIE_CLK_STAT d.val] u

/-- A reader that qualifies its words takes none from an empty edge FIFO and sets no flag (R252). -/
def Obligations.QualifiedReaderTakesNothing : Prop :=
  ∀ (s : State) (d : DieIx) (g : Fin 4) (n : Fin 64), (s.edge d.val g.val n.val).fifo = [] → exec (.edgeFifoRead d g n 2) s = .next s

/-- References lost and restored, switchovers and generator faults (R233, R234, R236, R237, R238, R239, R241, R637). -/
def Obligations.ClockGenerators : Prop :=
  (∀ (s : State) (f : Fin 4), bit (s.fget CLK_STAT.ref_lost) f.val = false → Runs (.clkRefLost f) s [.regs, .events] fun u =>
    u.fget CLK_STAT.ref_lost = setBit (s.fget CLK_STAT.ref_lost) f.val true % 16 ∧ u.fget CLK_STAT.holdover = setBit (s.fget CLK_STAT.holdover) f.val true % 16 ∧
    s.RegsOnly [CLK_STAT] u ∧ s.Posted u 0x0303 2 none f.val) ∧
  (∀ (s : State) (f : Fin 4), bit (s.fget CLK_STAT.ref_lost) f.val = true → Runs (.clkRefRestored f) s [.regs, .events] fun u =>
    u.fget CLK_STAT.ref_lost = setBit (s.fget CLK_STAT.ref_lost) f.val false % 16 ∧ u.fget CLK_STAT.holdover = setBit (s.fget CLK_STAT.holdover) f.val false % 16 ∧
    s.RegsOnly [CLK_STAT] u ∧ s.Posted u 0x0304 0 none f.val) ∧
  (∀ (s : State), s.fbit CLK_CTL.auto_switch = true → s.standbyReady = true → Runs (.clkSwitchover true) s [.regs, .events, .clk] fun u =>
    u.fget CLK_STAT.active = 1 - s.fget CLK_STAT.active ∧ u.fget (genLocked (s.fget CLK_STAT.active)) = 0 ∧ u.fget CLK_STAT.tracking = 0 ∧
    u.fget CLK_STAT.switch_count = satAdd 16 (s.fget CLK_STAT.switch_count) 1 ∧ u.genFaulted (s.fget CLK_STAT.active) = true ∧
    s.RegsOnly [CLK_STAT] u ∧ s.Posted u 0x0300 2 none (1 - s.fget CLK_STAT.active)) ∧
  (∀ (s : State), s.standbyReady = true → s.genFaulted (s.fget CLK_STAT.active) = false → Runs .clkCtlSwitch s [.regs, .events] fun u =>
    u.fget CLK_STAT.active = 1 - s.fget CLK_STAT.active ∧ u.fget CLK_STAT.tracking = s.fget CLK_STAT.tracking ∧
    u.fget CLK_STAT.switch_count = satAdd 16 (s.fget CLK_STAT.switch_count) 1 ∧ s.RegsOnly [CLK_STAT] u ∧ s.Posted u 0x0300 0 none (1 - s.fget CLK_STAT.active)) ∧
  (∀ (s : State), s.standbyReady = false → exec .clkCtlSwitch s = .next s) ∧
  (∀ (s : State) (g : Nat), g = 1 - s.fget CLK_STAT.active → s.genFaulted g = true → s.fget PTM_PSTATE.state ≠ 3 → Runs .clkGenReady s [.regs, .events, .clk] fun u =>
    u.genFaulted g = false ∧ u.fget (genLocked g) = 1 ∧ u.fget CLK_STAT.tracking = 1 ∧ u.fget CLK_STAT.active = s.fget CLK_STAT.active ∧
    s.RegsOnly [CLK_STAT] u ∧ s.Posted u 0x0301 0 none g) ∧
  (∀ (s : State) (g : Nat), g = s.fget CLK_STAT.active → s.standbyReady = false → Runs (.clkGenFault false) s [.regs, .events, .clk] fun u =>
    u.genFaulted g = true ∧ s.RegsOnly [] u ∧ s.Posted u 0x0302 4 none g) ∧
  (∀ (s : State), s.genFaulted (s.fget CLK_STAT.active) = true → exec .clkOutputGate s = .next { s with clk := { s.clk with gated := true } }) ∧
  (∀ (s : State) (g : Nat), g = 1 - s.fget CLK_STAT.active → Runs (.standbyGeneratorFault true) s [.regs, .clk] fun u =>
    u.genFaulted g = true ∧ u.fget CLK_STAT.tracking = 0 ∧ u.fget (genLocked g) = 0 ∧ u.fget CLK_STAT.active = s.fget CLK_STAT.active ∧ s.RegsOnly [CLK_STAT] u) ∧
  (∀ (s : State) (g : Nat), g = s.fget CLK_STAT.active → s.fget PTM_PSTATE.state = 3 → s.genFaulted g = true → s.clk.gated = true →
    Runs .otherGeneratorLocked s [.regs, .events, .clk] fun u => u.fget CLK_STAT.active = 1 - g ∧ u.fget (genLocked (1 - g)) = 1 ∧ u.clk.gated = false ∧
      u.genFaulted (1 - g) = false ∧ s.RegsOnly [CLK_STAT] u ∧ s.Posted u 0x0300 2 none (1 - g)) ∧
  (∀ (s : State) (d : DieIx), s.dieAway d.val = false → s.fbit (DIE_CLK_STAT.path_other d.val) = false → Runs (.clkPathSpared d) s [.regs, .events] fun u =>
    u.fget (DIE_CLK_STAT.path_other d.val) = 1 ∧ s.RegsOnly [DIE_CLK_STAT d.val] u ∧ s.Posted u 0x0305 2 (some d.val) d.val)

/-- Levels, events, values and words cross a clock edge; a die loses and regains its interface clock (R242, R244, R245, R246, R247, R248, R249, R255, R257, R258). -/
def Obligations.CrossingsAndDieClock : Prop :=
  (∀ (s : State) (d : DieIx) (g : Fin 4) (n : Fin 64) (l : Bool), s.frozenEdge d.val g.val n.val = false →
    Runs (.controlCrossing d g n l) s [.clk] fun u =>
      u.clk = { s.clk with edges := Tab.put .fresh s.clk.edges (edgeKey d.val g.val n.val) { s.edge d.val g.val n.val with level := l } }) ∧
  (∀ (s : State) (d : DieIx) (g : Fin 4) (n : Fin 64) (v : Nat), s.frozenEdge d.val g.val n.val = false →
    Runs (.valuePublish d g n v) s [.clk] fun u =>
      u.clk = { s.clk with edges := Tab.put .fresh s.clk.edges (edgeKey d.val g.val n.val) { s.edge d.val g.val n.val with value := v } }) ∧
  (∀ (s : State) (d : DieIx) (g : Fin 4) (n : Fin 64) (c : Bool) (v : Edge), s.frozenEdge d.val g.val n.val = false → v = s.edge d.val g.val n.val →
    Runs (.eventCrossing d g n c true) s [.clk] (fun u =>
      u.clk = { s.clk with edges := Tab.put .fresh s.clk.edges (edgeKey d.val g.val n.val) { v with ack := v.req } }) ∧
    (v.req = v.ack → Runs (.eventCrossing d g n c false) s [.clk] (fun u =>
      u.clk = { s.clk with edges := Tab.put .fresh s.clk.edges (edgeKey d.val g.val n.val) { v with req := !v.req } })) ∧
    (v.req ≠ v.ack → Runs (.eventCrossing d g n true false) s [.regs, .events, .clk] (fun u =>
      u.clk = { s.clk with edges := Tab.put .fresh s.clk.edges (edgeKey d.val g.val n.val) { v with merges := v.merges + 1 } } ∧
      bit (u.fget (DIE_CLK_STAT.evt_overrun d.val)) g.val = true ∧ s.RegsOnly [DIE_CLK_STAT d.val] u)) ∧
    (v.req ≠ v.ack → exec (.eventCrossing d g n false false) s = .next s)) ∧
  (∀ (s : State) (d : DieIx) (g : Fin 4) (n : Fin 64), bit (s.fget (DIE_CLK_STAT.unstable d.val)) g.val = false →
    Runs (.edgeUnstable d g n) s [.regs, .events] fun u => bit (u.fget (DIE_CLK_STAT.unstable d.val)) g.val = true ∧
      s.RegsOnly [DIE_CLK_STAT d.val] u ∧ s.Posted u 0x030B 0 (some d.val) (64 * g.val + n.val)) ∧
  (∀ (s : State) (d : DieIx) (g : Fin 4) (n : Fin 64) (c : Bool) (w : BitVec 64), s.frozenEdge d.val g.val n.val = false →
    (s.edge d.val g.val n.val).fifo.length < 16 → Runs (.edgeFifoWrite d g n c w) s [.clk] fun u =>
      u.clk = { s.clk with edges := Tab.put .fresh s.clk.edges (edgeKey d.val g.val n.val) {
          s.edge d.val g.val n.val with fifo := (s.edge d.val g.val n.val).fifo ++ [w.toNat] } }) ∧
  (∀ (s : State) (d : DieIx) (g : Fin 4) (n : Fin 64) (k : Fin 3) (w : Nat) (r : List Nat), s.frozenEdge d.val g.val n.val = false →
    (s.edge d.val g.val n.val).fifo = w :: r → Runs (.edgeFifoRead d g n k) s [.clk, .answer] fun u =>
      u.clk = { s.clk with edges := Tab.put .fresh s.clk.edges (edgeKey d.val g.val n.val) { s.edge d.val g.val n.val with fifo := r } } ∧
      u.answer = some ⟨0, leBytes 8 w, false⟩) ∧
  (∀ (s : State) (d : DieIx) (f : Fin 8) (a b c : Fin 16) (old : Nat), old = Tab.get 0 s.clk.lost d.val → f.val ≠ 0 → old ||| f.val ≠ old →
    s.dieAway d.val = false → Runs (.dieClkLost d f a b c) s [.regs, .events, .larder, .pool, .corr, .lanes, .clk, .time, .mac, .free] fun u =>
      u.clk = { s.clk with lost := Tab.put 0 s.clk.lost d.val (old ||| f.val) } ∧
      (bit f.val 0 = true → u.time = { s.time with aligned := Tab.put true s.time.aligned d.val false }) ∧ (bit f.val 0 = false → u.time = s.time) ∧
      ∃ v : State, v.now = s.now ∧ v.Posted u 0x0306 4 (some d.val) d.val f.val) ∧
  (∀ (s : State) (d : DieIx), s.fbit (DIE_CLK_STAT.lost d.val) = true → s.clk.gated = false → s.dieAway d.val = false →
    Runs (.dieClkRestored d) s [.regs, .events, .larder, .pool, .corr, .lanes, .clk, .time, .mac, .free] fun u =>
      u.fget (DIE_CLK_STAT.lost d.val) = 0 ∧
      u.clk = { s.clk with lost := Tab.put 0 s.clk.lost d.val 0, edges := Tab.drop (fun k => k / 256 == d.val) s.clk.edges } ∧
      u.time = { s.time with aligned := Tab.put true s.time.aligned d.val true } ∧ ∃ v : State, v.now = s.now ∧ v.Posted u 0x0307 0 (some d.val) d.val)

/-- Segments fill tins, the end marker closes the body, and a commit puts the design in service (R146, R546, R547, R548, R551, R553, R554, R558). -/
def Obligations.ImageBodiesAndCommits : Prop :=
  (∀ (s : State) (plain x d : List Byte) (l : Load) (role die n : Nat), s.cfg.load = some l → l.stage = 1 → l.segs ≠ 0 → s.halted = false →
    hdrPartial l.hdr = false → x = (if hdrKeySrc l.hdr = 0 then l.inbox else plain) → n = 32 + (leAt x 0x10 4 + 31) / 32 * 32 →
    32 ≤ x.length → 32 ≤ l.inbox.length → n ≤ x.length → n ≤ l.inbox.length → l.used + n ≤ hdrLength l.hdr - 128 → segFieldsOk l.hdr l x = true →
    leAt x 0 2 = 1 → die = leAt x 2 1 → role = leAt x 3 1 → s.dieAway die = false → s.roleLost die role = false →
    ((x.drop (32 + leAt x 0x10 4)).take (n - 32 - leAt x 0x10 4)).any (· != 0) = false → segData x = some d →
    Runs (.imageSegment plain) s [.regs, .tins, .hqe, .cfg] fun u =>
      u.tin (s.tinOf die role) = (s.tin (s.tinOf die role)).writeFrames (leAt x 4 4) d ∧ s.TinOnly (s.tinOf die role) u ∧
      u.cfg = { s.cfg with load := some { l with
        roles := (if l.roles.contains (13 * die + role) then l.roles else l.roles ++ [13 * die + role]),
        given := l.given ++ [(13 * die + role, leAt x 4 4, leAt x 8 4)],
        inbox := l.inbox.drop n, used := l.used + n, segs := l.segs - 1 } }) ∧
  (∀ (s : State) (tagOk : Bool) (l : Load) (m : List Byte), s.cfg.load = some l → l.stage = 1 → l.segs = 0 → s.halted = false → m = l.inbox →
    128 ≤ m.length → l.used = hdrLength l.hdr - 128 → leAt m 0 8 = endMagic → leAt m 8 8 = hdrLength l.hdr - 4224 →
    leAt m 0x10 48 = leAt l.hdr 0x40 48 → leAt m 0x50 48 = 0 → (hdrKeySrc l.hdr = 0 → leAt m 0x40 16 = 0) → (hdrKeySrc l.hdr ≠ 0 → tagOk = true) →
    Runs (.endMarker true tagOk) s [.regs, .cfg] fun u => u.cfg = { s.cfg with load := some { l with stage := 2, inbox := [], used := hdrLength l.hdr } } ∧
      s.RegsOnly [CFG_STAT] u) ∧
  (∀ (s : State) (l : Load), s.cfg.load = some l → l.stage = 2 → hdrPartial l.hdr = false → s.halted = false → s.fullOk l = true →
    Runs .fullImageCommit s [.regs, .events, .tins, .ring, .foldMap, .kept, .dieCopy, .larder, .pool, .corr, .noc, .breadbox, .lanes, .eqTable, .mac,
        .fuses, .hqe, .cfg, .spr, .free] fun u =>
      u.fget HQE_STAT.dev_state = 3 ∧ u.fget CFG_IMAGE_VER.version = leAt l.hdr 0x14 4 % 2 ^ 32 ∧ u.cfg.load = none ∧
      (u.fget CFG_STAT.last_status = stDone ∨ u.fget CFG_STAT.last_status = stDegraded) ∧
      u.foldMap = (List.range 8).foldl (fun t d => Tab.put [] t d (l.foldOf d)) [] ∧
      u.fuses.arv = (if hdrFlag l.hdr 1 then max s.fuses.arv (min (leAt l.hdr 0x18 1) 64) else s.fuses.arv) ∧
      u.breadbox = (if leAt l.hdr 0x28 8 = 0 then s.breadbox else writeBytes 0 s.breadbox 0x2000 (leBytes 8 (leAt l.hdr 0x28 8)))) ∧
  (∀ (s : State) (l : Load) (t : Nat), s.cfg.load = some l → l.stage = 2 → hdrPartial l.hdr = true → s.halted = false → s.partialOk l = true →
    t = s.partialTin l.hdr → hdrInPlace l.hdr = false →
    Runs .partialImageCommit s [.regs, .events, .tins, .hqe, .cfg, .spr] fun u =>
      u.tinState t = tsLoaded ∧ u.tin t = { s.tin t with design := some (hdrRole l.hdr), partialImg := true, designRing := l.entries (hdrDie l.hdr) } ∧
      s.TinOnly t u ∧ u.cfg.load = none) ∧
  (∀ (s : State) (l : Load) (t : Nat), s.cfg.load = some l → l.stage = 2 → hdrPartial l.hdr = true → s.halted = false → s.partialOk l = true →
    t = s.partialTin l.hdr → hdrInPlace l.hdr = true →
    Runs .partialImageCommit s [.regs, .events, .tins, .ring, .kept, .noc, .hqe, .cfg] fun u =>
      u.tinState t = tsInService ∧ s.TinOnly t u ∧ u.cfg.load = none)

/-- What each TAP instruction selects, captures and changes (R722, R723, R724, R725, R727, R728, R729, R743). -/
def Obligations.JtagInstructions : Prop :=
  (∀ (s : State), Runs .tapReset s [.regs, .events, .larder, .pool, .corr, .lanes, .mac, .dbg, .free] fun u => u.dbg = { s.dbg with ir := 2, boundary := none }) ∧
  (∀ (s : State) (c : Instr) (code : Nat) (dr : List Byte), s.tapOn = true →
    ((c = .idcode ∧ code = 2 ∧ dr = leBytes 4 0x1580834F) ∨ (c = .bypass ∧ code = 0xFF ∧ dr = [0]) ∨ (c = .haltCause ∧ code = 0x10 ∧ dr = s.haltRegs)) →
    Runs c s [.regs, .events, .larder, .pool, .corr, .lanes, .mac, .dbg, .answer, .free] fun u =>
      u.dbg = { s.dbg with ir := code, boundary := none } ∧ u.answer = some ⟨stDone, leBytes 1 s.irCapture ++ dr, false⟩) ∧
  (∀ (s : State) (cells : Nat), s.tapOn = true → Runs (.samplePreload cells) s [.regs, .events, .larder, .pool, .corr, .lanes, .mac, .dbg, .answer, .free] fun u =>
    u.dbg = { s.dbg with ir := 1, boundary := none, cells := cells } ∧ u.answer = some ⟨stDone, leBytes 1 s.irCapture ++ leBytes 512 s.dbg.cells, false⟩) ∧
  (∀ (s : State) (c : Instr) (code cells : Nat), s.tapOn = true → s.mayExtest = true →
    ((c = .extest cells ∧ code = 0) ∨ (c = .extestPulse cells ∧ code = 5) ∨ (c = .extestTrain cells ∧ code = 6)) →
    Runs c s [.regs, .events, .larder, .pool, .corr, .lanes, .mac, .dbg, .answer, .free] fun u =>
      u.dbg = { s.dbg with ir := code, boundary := some code, cells := cells } ∧
      u.answer = some ⟨stDone, leBytes 1 s.irCapture ++ leBytes 512 s.dbg.cells, false⟩) ∧
  (∀ (s : State) (c : Instr) (code : Nat), s.tapOn = true → s.mayExtest = true → ((c = .clamp ∧ code = 3) ∨ (c = .highz ∧ code = 4)) →
    Runs c s [.regs, .events, .larder, .pool, .corr, .lanes, .mac, .dbg, .answer, .free] fun u =>
      u.dbg = { s.dbg with ir := code, boundary := some code } ∧ u.answer = some ⟨stDone, leBytes 1 s.irCapture ++ [0], false⟩) ∧
  (∀ (s : State), Runs .boundaryScanEnd s [.regs, .events, .larder, .pool, .corr, .lanes, .mac, .dbg, .free] fun u => u.dbg = { s.dbg with boundary := none }) ∧
  (∀ (s : State) (t : Fin 128) (f : Fin 65536), s.tapOn = true → s.mayFrames = true →
    Runs (.cfgReadback (some (t, f))) s [.regs, .events, .larder, .pool, .corr, .lanes, .mac, .dbg, .answer, .free] fun u =>
      u.dbg = { s.dbg with ir := 0x15, boundary := none, readSel := some (t.val, f.val) } ∧
      u.answer = some ⟨stDone, leBytes 1 s.irCapture ++ s.frameCapture, false⟩) ∧
  (∀ (s : State) (v : BitVec 34), s.tapOn = true → s.mayJt = true → s.debugLevel = 3 → s.dbg.boundary = none →
    Runs (.dtermUpdate v) s [.regs, .dbg, .answer] fun u =>
      (bit v.toNat 32 = true → u.fget DBG_DTERM_STAT.tx_full = 0) ∧
      (bit v.toNat 33 = true → s.fbit DBG_DTERM_STAT.rx_full = false →
        u.fget DBG_DRX.word = bits v.toNat 0 32 ∧ u.fget DBG_DTERM_STAT.rx_full = 1) ∧
      s.RegsOnly [DBG_DTERM_STAT, DBG_DRX] u ∧ u.dbg = { s.dbg with ir := 0x13 } ∧
      u.answer = some ⟨stDone, leBytes 1 s.irCapture ++
        leBytes 5 (s.fget DBG_DTX.word + s.fget DBG_DTERM_STAT.rx_full * 2 ^ 32 + s.fget DBG_DTERM_STAT.tx_full * 2 ^ 33), false⟩)

/-- Freeze, release, step, readback and state write of a tin (R744, R745). -/
def Obligations.DebugOfTins : Prop :=
  (∀ (s : State) (d : DieIx) (r : Fin 12) (t : Nat), s.debugLevel = 3 → t = s.tinOf d.val r.val → s.tinState t = tsInService → s.dbgFrozen d.val r.val = false →
    Runs (.tinFreeze d r) s [.regs, .tins, .dbg] fun u => u.tin t = (s.tin t).askStall ∧ s.TinOnly t u ∧ u.fget DBG_TIN_STAT.state = 1 ∧
      u.fget DBG_TIN_STAT.status = stDone ∧ u.dbg = { s.dbg with frozen := s.dbg.frozen ++ [13 * d.val + r.val] } ∧ s.RegsOnly [DBG_TIN_CTL, DBG_TIN_STAT] u) ∧
  (∀ (s : State) (d : DieIx) (r : Fin 12) (t : Nat), t = s.tinOf d.val r.val → s.dbgFrozen d.val r.val = true → (s.tin t).stalled = true →
    (s.tin t).quiescent = true → s.dbg.stepping = none → s.tinState t = tsInService →
    Runs (.dbgTinFrozen d r) s [.regs, .events] fun u => u.tinState t = tsFrozen ∧ u.fget DBG_TIN_STAT.state = 2 ∧ s.RegsOnly [TIN_STAT t, DBG_TIN_STAT] u ∧
      s.Posted u 0x1000 0 (some d.val) (tinUnit r.val (t % 13))) ∧
  (∀ (s : State) (d : DieIx) (r : Fin 12) (t : Nat), s.debugLevel = 3 → t = s.tinOf d.val r.val → s.dbgFrozen d.val r.val = true → s.tinState t = tsFrozen →
    Runs (.tinRelease d r) s [.regs, .tins, .dbg] fun u => u.tinState t = tsInService ∧ u.tin t = (s.tin t).unstall.settle ∧ s.TinOnly t u ∧
      u.fget DBG_TIN_STAT.state = 0 ∧ u.fget DBG_TIN_STAT.status = stDone ∧ u.dbg.frozen = s.dbg.frozen.filter (· != 13 * d.val + r.val)) ∧
  (∀ (s : State) (d : DieIx) (r : Fin 12) (p : Fin 512) (t : Nat), s.debugLevel = 3 → t = s.tinOf d.val r.val → s.dbgQuiet d.val r.val = true →
    (∀ q, s.tokenFor d.val r.val q = none) →
    Runs (.tokenStep d r p) s [.regs, .tins, .dbg] fun u => u.fget DBG_TIN_STAT.state = 3 ∧ u.fget DBG_TIN_STAT.status = stDone ∧ s.TinOnly t u ∧
      u.tin t = ((s.tin t).stepPorts p.val).foldl (fun y q => y.setPort q { y.port q with one := true }) (s.tin t) ∧
      u.dbg = { s.dbg with stepping := some (13 * d.val + r.val) }) ∧
  (∀ (s : State) (d : DieIx) (r : Fin 12) (b : Nat), s.debugLevel = 3 → s.dbgQuiet d.val r.val = true → s.fbit DBG_TRACE_CTL.run = false → s.tinBuf = some b →
    Runs (.tinReadback d r) s [.regs, .larder] fun u => u.fget DBG_TIN_STAT.status = stDone ∧ s.RegsOnly [DBG_TIN_CTL, DBG_TIN_STAT] u ∧
      u.larder = (s.larder.write b (s.tin (s.tinOf d.val r.val)).readback).markWords b readbackLen false) ∧
  (∀ (s : State) (d : DieIx) (r : Fin 12) (b t : Nat), s.debugLevel = 3 → t = s.tinOf d.val r.val → s.dbgQuiet d.val r.val = true →
    s.fbit DBG_TRACE_CTL.run = false → s.tinBuf = some b → (s.tin t).stateOk (s.larder.read b readbackLen) = true →
    Runs (.tinStateWrite d r) s [.regs, .tins] fun u => u.tin t = (s.tin t).loadState (s.larder.read b readbackLen) ∧ s.TinOnly t u ∧
      u.fget DBG_TIN_STAT.status = stDone ∧ s.RegsOnly [DBG_TIN_CTL, DBG_TIN_STAT] u) ∧
  (∀ (s : State) (c : Instr) (d : DieIx) (r : Fin 12) (p : Fin 512), s.debugLevel ≠ 3 →
    (c = .tinFreeze d r ∨ c = .tinRelease d r ∨ c = .tokenStep d r p ∨ c = .tinReadback d r ∨ c = .tinStateWrite d r) →
    exec c s = .next { s with answer := some ⟨stNoRights, [], false⟩ })

/-- Authentication, the terminal, abstract register access, trace and cross-trigger (R710, R711, R712, R713, R714, R734, R735, R737, R740, R741, R742, R743). -/
def Obligations.AuthTerminalAndTrace : Prop :=
  (∀ (s : State) (key : Option (Fin 4)) (sig : Bool) (c : List Byte) (t : Nat), s.tapOn = true → s.mayAuth = true → s.dbg.boundary = none →
    s.challengeLive = true → s.dbg.challenge = some (c, t, false) → Runs (.auth none key sig) s [.dbg, .answer] fun u =>
      u.dbg = { s.dbg with ir := 0x11 } ∧
      u.answer = some ⟨stDone, leBytes 1 s.irCapture ++ (leBytes 1 s.dbg.authStatus ++ Machine.slice c 0 48 ++ List.replicate 152 0), false⟩) ∧
  (∀ (s : State) (r l c : List Byte) (k : Fin 4) (t w : Nat), s.tapOn = true → s.mayAuth = true → s.dbg.boundary = none → s.challengeLive = true →
    s.dbg.challenge = some (c, t, false) → l = Machine.slice r 0 200 → w = leAt l 0 1 → w ≤ 3 → leAt l 1 7 = 0 → s.debugLevel < w → s.challengeRefused = false →
    s.lifecycle ≠ 0 → s.lifecycle ≠ 3 → (s.slot k.val).may (if w = 3 then 2 else 1) = true →
    Runs (.auth (some r) (some k) true) s [.regs, .events, .dbg, .answer] (fun u => u.fget SEC_LIFECYCLE.debug = w ∧ u.fget SEC_LIFECYCLE.auth_fail = 0 ∧
      u.dbg = { s.dbg with ir := 0x11, authStatus := stDone, challenge := some (c, t, true) } ∧ s.RegsOnly [SEC_LIFECYCLE] u ∧ s.Posted u 0x0F03 0 none 0 w) ∧
    (s.fget SEC_LIFECYCLE.auth_fail < 7 → Runs (.auth (some r) (some k) false) s [.regs, .events, .dbg, .answer] fun u =>
      u.fget SEC_LIFECYCLE.debug = s.fget SEC_LIFECYCLE.debug ∧ u.fget SEC_LIFECYCLE.auth_fail = s.fget SEC_LIFECYCLE.auth_fail + 1 ∧
      u.dbg = { s.dbg with ir := 0x11, authStatus := stNoRights, challenge := some (c, t, true) } ∧ s.RegsOnly [SEC_LIFECYCLE] u ∧
      s.Posted u 0x0F04 0 none 0 stNoRights)) ∧
  (∀ (s : State) (w : Word), Runs (.dtxWrite w) s [.regs] fun u => s.RegsOnly [DBG_DTX, DBG_DTERM_STAT] u ∧
    (s.fbit DBG_DTERM_STAT.tx_full = false → u.fget DBG_DTX.word = w.toNat ∧ u.fget DBG_DTERM_STAT.tx_full = 1) ∧
    (s.fbit DBG_DTERM_STAT.tx_full = true → u.fget DBG_DTERM_STAT.tx_lost = satAdd 14 (s.fget DBG_DTERM_STAT.tx_lost) 1 ∧ u.fget DBG_DTX.word = s.fget DBG_DTX.word)) ∧
  (∀ (s : State), Runs .drxConsume s [.regs, .answer] fun u => u.fget DBG_DTERM_STAT.rx_full = 0 ∧ s.RegsOnly [DBG_DTERM_STAT] u ∧
    u.answer = some ⟨stDone, leBytes 4 (s.fget DBG_DRX.word), false⟩) ∧
  (∀ (s : State) (h : HartIx) (n : Fin 65536), s.debugLevel = 3 → s.fget (MGC_CORE_STAT.state h.val) ≠ 3 → bits (s.dmReg dmAbstractcs) 8 3 = 0 →
    regnoOk n.val = true → (s.hart h.val).dbgHalt = true →
    Runs (.accessRegister h n false false) s [.dbg] (fun u =>
      u.dbg = { s.dbg with dm := Tab.put 0 s.dbg.dm dmData0 (Tab.get 0 (s.hart h.val).regs n.val % 2 ^ 32) }) ∧
    (n.val ≠ 0x1000 → Runs (.accessRegister h n true true) s [.mgc] fun u =>
      u.hart h.val = { s.hart h.val with regs := Tab.put 0 (s.hart h.val).regs n.val (s.dmReg dmData0 + s.dmReg dmData1 * 2 ^ 32) })) ∧
  (∀ (s : State), s.dbg.frames.isEmpty = false → s.fbit DBG_TRACE_PORT.enable = true → Runs .traceFrameSend s [.dbg, .answer] fun u =>
    u.dbg = { s.dbg with frames := s.dbg.frames.drop 32, frameSeq := (s.dbg.frameSeq + 1) % 2 ^ 16 } ∧
    u.answer = some ⟨stDone, traceFrame (s.fget DBG_TRACE_PORT.lane) s.dbg.frameSeq (s.dbg.frames.take 32), false⟩) ∧
  (∀ (s : State) (n : Fin 256) (w : Word) (src : Fin 4096) (p o : Nat), s.fbit DBG_TRACE_CTL.run = true → s.dbg.lostNow = 0 → p = s.fget DBG_TRACE_STAT.wp →
    p + 1 < s.traceSlots → (∀ c, s.fbit (DBG_XT_SRC.stim_en c) = false) → o = s.traceBase + 32 * p →
    Runs (.stimulusWrite n w src) s [.regs, .larder, .dbg] fun u => u.fget DBG_TRACE_STAT.wp = (p + 1) % 2 ^ 20 ∧ s.RegsOnly [DBG_TRACE_STAT] u ∧
      u.larder = (s.larder.write o (leBytes 32 (tracePkt (timeWord s.now) w.toNat src.val 1 n.val s.dbg.seq))).markWords o 32 false ∧
      u.dbg.seq = (s.dbg.seq + 1) % 2 ^ 24) ∧
  (∀ (s : State) (c : Fin 8) (h : HartIx), bit (s.fget (DBG_XT_SRC.watch c.val)) h.val = true → s.fbit (DBG_XT_SINK.enable c.val) = true →
    s.fbit (DBG_XT_SINK.trace_start c.val) = true → s.fbit (DBG_XT_SINK.trace_stop c.val) = false → s.fbit DBG_TRACE_CTL.run = false → s.debugLevel ≠ 3 →
    s.dbg.lostNow = 0 → 2 < s.traceSlots → Runs (.xtChannelFire c h) s [.regs, .events, .larder, .dbg] fun u =>
      u.fget DBG_TRACE_CTL.run = 1 ∧ u.fget DBG_TRACE_STAT.wp = 2 ∧ u.dbg.seq = 2) ∧
  (∀ (s : State) (h : HartIx), (s.hart h.val).dbgHalt = false → s.fget (MGC_CORE_STAT.state h.val) = 0 → s.halted = false →
    s.fbit (MGC_WDG_CTL.enable h.val) = false → (∀ c, bit (s.fget (DBG_XT_SRC.halt c)) h.val = false) →
    Runs (.dmHalt h) s [.mgc] fun u => u.mgc = { s.mgc with harts := Tab.put .fresh s.mgc.harts h.val { s.hart h.val with dbgHalt := true, resv := none, count := 0 } })
end

