-- ==== Sys2Proof/Decode.lean ====
section
/-! DEFINITION. The words of commands: the operation table gives its rows no bits. -/

namespace Sys2Proof

/-- The command that a word spells by the table's bits: no row of the table has bits, so there is none. -/
def decodeTableWord (_nbits _w : Nat) : Option Instr := none

end Sys2Proof
end

