-- ==== Sys2Proof/Laws/Tab.lean ====
section
/-! SUPPORT. The laws of sparse tables: what a read after a write gives, and that every operation keeps the canonical form. -/

namespace Sys2Proof.Machine.Tab

variable {α : Type} {d : α} {t : Tab α} {k j : Nat} {v : α}

@[simp] theorem get_nil : get d [] k = d := rfl

/-- The head of a canonical table that starts above `lo`. -/
theorem wfFrom_cons [DecidableEq α] {lo : Option Nat} {e : Nat × α} {r : Tab α} :
    wfFrom d lo (e :: r) = true ↔ (∀ k, lo = some k → k < e.1) ∧ e.2 ≠ d ∧ wfFrom d (some e.1) r = true := by
  cases lo <;> simp [wfFrom, and_assoc]

/-- A canonical table stays canonical above a smaller bound. -/
theorem wfFrom_mono [DecidableEq α] {a b : Nat} (h : a ≤ b) (w : wfFrom d (some b) t = true) : wfFrom d (some a) t = true := by
  cases t with
  | nil => rfl
  | cons e r => rw [wfFrom_cons] at w ⊢; exact ⟨fun k hk => by cases hk; exact Nat.lt_of_le_of_lt h (w.1 b rfl), w.2⟩

/-- Forgetting the bound keeps the form. -/
theorem wfFrom_none [DecidableEq α] {lo : Option Nat} (w : wfFrom d lo t = true) : wfFrom d none t = true := by
  cases t with
  | nil => rfl
  | cons e r => rw [wfFrom_cons] at w ⊢; exact ⟨fun k hk => (by cases hk), w.2⟩

/-- A canonical table above `lo` lists no key up to `lo`. -/
theorem get_of_le [DecidableEq α] (h : k ≤ j) (w : wfFrom d (some j) t = true) : get d t k = d := by
  induction t generalizing j with
  | nil => rfl
  | cons e r ih =>
    rw [wfFrom_cons] at w
    have := w.1 j rfl
    rw [get, if_neg (by omega), ih (by omega : k ≤ e.1) w.2.2]

theorem get_del_self : get d (del k t) k = d := by
  induction t with
  | nil => rfl
  | cons e r ih => unfold del; split <;> simp [get, *]

theorem get_del_ne (h : j ≠ k) : get d (del k t) j = get d t j := by
  induction t with
  | nil => rfl
  | cons e r ih =>
    unfold del
    split
    · rw [ih, get, if_neg (by omega)]
    · simp [get, ih]

theorem get_ins_self : get d (ins k v t) k = v := by
  induction t with
  | nil => simp [ins, get]
  | cons e r ih =>
    unfold ins
    split
    · rw [get, if_neg (by omega), ih]
    · simp [get]

theorem get_ins_ne (h : j ≠ k) : get d (ins k v t) j = get d t j := by
  induction t with
  | nil => simp [ins, get, Ne.symm h]
  | cons e r ih =>
    unfold ins
    split
    · simp [get, ih]
    · simp [get, Ne.symm h]

variable [DecidableEq α]

/-- A read after a write of the same key gives the value written. -/
theorem insUnless_eq : insUnless d k v t = if v = d then t else ins k v t := by
  by_cases h : v = d
  · rw [if_pos h]
    induction t with
    | nil => simp [insUnless, h]
    | cons e r ih => simp only [insUnless, ih, if_pos h, ite_self]
  · rw [if_neg h]
    induction t with
    | nil => simp [insUnless, ins, h]
    | cons e r ih => simp [insUnless, ins, h, ih]

/-- What `put` does, by the value put. -/
theorem put_eq : put d t k v = if v = d then del k t else ins k v (del k t) := insUnless_eq

@[simp] theorem get_put_self : get d (put d t k v) k = v := by
  rw [put_eq]
  split
  · rename_i h; rw [get_del_self, h]
  · exact get_ins_self

/-- A write leaves every other key alone. -/
theorem get_put_ne (h : j ≠ k) : get d (put d t k v) j = get d t j := by
  rw [put_eq]
  split
  · exact get_del_ne h
  · rw [get_ins_ne h, get_del_ne h]

theorem get_put : get d (put d t k v) j = if j = k then v else get d t j := by
  split
  · rename_i h; rw [h, get_put_self]
  · exact get_put_ne ‹_›

theorem del_del : del k (del k t) = del k t := by
  induction t with
  | nil => rfl
  | cons e r ih => by_cases h : e.1 = k <;> simp [del, h, ih]

theorem del_ins_self : del k (ins k v t) = del k t := by
  induction t with
  | nil => simp [ins, del]
  | cons e r ih =>
    by_cases h : e.1 < k
    · by_cases g : e.1 = k <;> simp [ins, del, h, g, ih]
    · simp [ins, h, del]

/-- The last value put at a key is the one that counts. -/
@[simp] theorem put_put {w : α} : put d (put d t k v) k w = put d t k w := by
  have h : del k (put d t k v) = del k t := by
    rw [put_eq]
    split
    · exact del_del
    · rw [del_ins_self, del_del]
  unfold put at h ⊢
  rw [h]

theorem del_wf {lo : Option Nat} (w : wfFrom d lo t = true) : wfFrom d lo (del k t) = true := by
  induction t generalizing lo with
  | nil => rfl
  | cons e r ih =>
    rw [wfFrom_cons] at w
    unfold del
    split
    · have h := ih w.2.2
      cases lo with
      | none => exact wfFrom_none h
      | some a => exact wfFrom_mono (Nat.le_of_lt (w.1 a rfl)) h
    · rw [wfFrom_cons]; exact ⟨w.1, w.2.1, ih w.2.2⟩

theorem ins_wf {lo : Option Nat} (hv : v ≠ d) (hk : ∀ a, lo = some a → a < k) (w : wfFrom d lo (del k t) = true) :
    wfFrom d lo (ins k v (del k t)) = true := by
  induction t generalizing lo with
  | nil => simp only [del, ins]; rw [wfFrom_cons]; exact ⟨hk, hv, rfl⟩
  | cons e r ih =>
    by_cases he : e.1 = k
    · rw [del, if_pos he] at w ⊢; exact ih hk w
    · rw [del, if_neg he] at w ⊢
      rw [wfFrom_cons] at w
      unfold ins
      split
      · rename_i hlt
        rw [wfFrom_cons]
        exact ⟨w.1, w.2.1, ih (fun a ha => by cases ha; exact hlt) w.2.2⟩
      · rw [wfFrom_cons]
        refine ⟨hk, hv, ?_⟩
        rw [wfFrom_cons]
        exact ⟨fun a ha => by cases ha; omega, w.2⟩

/-- A write keeps the canonical form. -/
theorem put_wf (w : wf d t = true) : wf d (put d t k v) = true := by
  rw [put_eq]
  split
  · exact del_wf w
  · exact ins_wf ‹_› (fun a ha => by cases ha) (del_wf w)

/-- A change of one value keeps the canonical form. -/
theorem mod_wf {f : α → α} (w : wf d t = true) : wf d (mod d t k f) = true := put_wf w

theorem filter_wf {p : Nat × α → Bool} {lo : Option Nat} (w : wfFrom d lo t = true) : wfFrom d lo (t.filter p) = true := by
  induction t generalizing lo with
  | nil => rfl
  | cons e r ih =>
    rw [wfFrom_cons] at w
    rw [List.filter_cons]
    split
    · rw [wfFrom_cons]; exact ⟨w.1, w.2.1, ih w.2.2⟩
    · have h := ih w.2.2
      cases lo with
      | none => exact wfFrom_none h
      | some a => exact wfFrom_mono (Nat.le_of_lt (w.1 a rfl)) h

/-- Forgetting keys keeps the canonical form. -/
theorem drop_wf {p : Nat → Bool} (w : wf d t = true) : wf d (drop p t) = true := filter_wf w

theorem mapVals_wfFrom {f : α → α} {lo : Option Nat} (w : wfFrom d lo t = true) : wfFrom d lo (mapVals d f t) = true := by
  induction t generalizing lo with
  | nil => rfl
  | cons e r ih =>
    rw [wfFrom_cons] at w
    unfold mapVals
    split
    · have h := ih w.2.2
      cases lo with
      | none => exact wfFrom_none h
      | some a => exact wfFrom_mono (Nat.le_of_lt (w.1 a rfl)) h
    · rw [wfFrom_cons]; exact ⟨w.1, ‹_›, ih w.2.2⟩

/-- A change of every listed value keeps the canonical form. -/
theorem mapVals_wf {f : α → α} (w : wf d t = true) : wf d (mapVals d f t) = true := mapVals_wfFrom w

theorem mapKeys_wfFrom {f : Nat → α → α} {lo : Option Nat} (w : wfFrom d lo t = true) : wfFrom d lo (mapKeys d f t) = true := by
  induction t generalizing lo with
  | nil => rfl
  | cons e r ih =>
    rw [wfFrom_cons] at w
    unfold mapKeys
    split
    · have h := ih w.2.2
      cases lo with
      | none => exact wfFrom_none h
      | some a => exact wfFrom_mono (Nat.le_of_lt (w.1 a rfl)) h
    · rw [wfFrom_cons]; exact ⟨w.1, ‹_›, ih w.2.2⟩

/-- A change of every listed value by its key keeps the canonical form. -/
theorem mapKeys_wf {f : Nat → α → α} (w : wf d t = true) : wf d (mapKeys d f t) = true := mapKeys_wfFrom w

end Sys2Proof.Machine.Tab

namespace Sys2Proof.Machine

/-- Writing bytes keeps the canonical form of a memory. -/
theorem writeBytes_wf {t : Tab (BitVec 8)} {a : Nat} {l : List (BitVec 8)} (w : Memory.wf t = true) : Memory.wf (writeBytes 0 t a l) = true := by
  induction l generalizing t a with
  | nil => exact w
  | cons b r ih => exact ih (Tab.put_wf w)

/-- A byte outside the written range reads as before. -/
theorem get_writeBytes_out {t : Tab (BitVec 8)} {a k : Nat} {l : List (BitVec 8)} (h : k < a ∨ a + l.length ≤ k) :
    Tab.get 0 (writeBytes 0 t a l) k = Tab.get 0 t k := by
  induction l generalizing t a with
  | nil => rfl
  | cons b r ih =>
    simp only [List.length_cons] at h
    rw [writeBytes, ih (by omega), Tab.get_put_ne (by omega)]

/-- A byte inside the written range reads as the byte written. -/
theorem get_writeBytes_in {t : Tab (BitVec 8)} {a i : Nat} {l : List (BitVec 8)} (h : i < l.length) :
    Tab.get 0 (writeBytes 0 t a l) (a + i) = l[i] := by
  induction l generalizing t a i with
  | nil => simp at h
  | cons b r ih =>
    cases i with
    | zero => rw [writeBytes, get_writeBytes_out (by omega)]; simp
    | succ n =>
      simp only [List.length_cons] at h
      rw [writeBytes, show a + (n + 1) = (a + 1) + n by omega, ih (by omega)]
      simp

/-- Reading back what was written. -/
theorem readBytes_writeBytes {t : Tab (BitVec 8)} {a : Nat} {l : List (BitVec 8)} : readBytes 0 (writeBytes 0 t a l) a l.length = l := by
  apply List.ext_getElem
  · simp [readBytes]
  · intro i h1 h2
    simp only [readBytes, List.getElem_map, List.getElem_range]
    exact get_writeBytes_in h2

/-- A write outside the bytes read changes nothing read. -/
theorem readBytes_writeBytes_out {t : Tab (BitVec 8)} {a b n : Nat} {l : List (BitVec 8)} (h : b + n ≤ a ∨ a + l.length ≤ b) :
    readBytes 0 (writeBytes 0 t a l) b n = readBytes 0 t b n := by
  unfold readBytes
  apply List.map_congr_left
  intro i hi
  rw [List.mem_range] at hi
  exact get_writeBytes_out (by omega)

end Sys2Proof.Machine
end

