-- ==== Sys2Proof/Laws/Frame.lean ====
section
/-! SUPPORT. The calculus of frames: how a change of the state is bounded part by part, and how the invariant passes through it. -/

namespace Sys2Proof.Machine

/-- Every part in `ps` is in `qs`. -/
def Part.sub (ps qs : List Part) : Bool := ps.all (fun p => qs.any (fun q => decide (p = q)))

theorem Part.mem_of_sub {ps qs : List Part} (h : Part.sub ps qs = true) {p : Part} (hp : p ∈ ps) : p ∈ qs := by
  simp only [Part.sub, List.all_eq_true, List.any_eq_true, decide_eq_true_eq] at h
  obtain ⟨q, hq, e⟩ := h p hp
  exact e ▸ hq

theorem Part.sub_trans {ps qs rs : List Part} (h : Part.sub ps qs = true) (k : Part.sub qs rs = true) : Part.sub ps rs = true := by
  simp only [Part.sub, List.all_eq_true, List.any_eq_true, decide_eq_true_eq] at h k ⊢
  intro p hp
  obtain ⟨q, hq, rfl⟩ := h p hp
  exact k _ hq

/-- `t` differs from `s` at most in the parts `ps`, and keeps the invariant. -/
structure Keeps (ps : List Part) (s t : State) : Prop where
  only : s.Only ps t
  inv : s.Inv → t.Inv

namespace Keeps

variable {ps qs : List Part} {s t u : State}

theorem refl : Keeps ps s s := ⟨fun p _ => by cases p <;> rfl, id⟩

/-- A change after a change. -/
theorem via (h : Keeps ps t u) (hs : Part.sub ps qs = true) (k : Keeps qs s t) : Keeps qs s u :=
  ⟨fun p hp => by
    have a := k.only p hp
    have b := h.only p (fun m => hp (Part.mem_of_sub hs m))
    revert a b
    cases p <;> exact fun a b => Eq.trans b a, fun i => h.inv (k.inv i)⟩

theorem trans (h : Keeps ps t u) (k : Keeps ps s t) : Keeps ps s u :=
  via h (by simp [Part.sub, List.all_eq_true, List.any_eq_true]) k

/-- A loop over a list. -/
theorem foldl {α : Type} {f : State → α → State} {l : List α} (h : ∀ a i, Keeps ps a (f a i)) (k : Keeps ps s t) : Keeps ps s (l.foldl f t) := by
  induction l generalizing t with
  | nil => exact k
  | cons x r ih => exact ih ((h t x).via (by simp [Part.sub]) k)

/-! Record updates: the parts not written are untouched, and the invariant passes where it reads none of those written. -/

theorem upd_answer {x0 : Option Answer} (hs : Part.sub [.answer] ps = true) (k : Keeps ps s t) :
    Keeps ps s { t with answer := x0 } :=
  via (t := t) ⟨fun p hp => by cases p <;> first | exact absurd (by decide) hp | rfl,
    fun i => ⟨i.larder, i.dram, i.breadbox, i.roles⟩⟩ hs k

theorem upd_away {x0 : Tab Away} (hs : Part.sub [.away] ps = true) (k : Keeps ps s t) :
    Keeps ps s { t with away := x0 } :=
  via (t := t) ⟨fun p hp => by cases p <;> first | exact absurd (by decide) hp | rfl,
    fun i => ⟨i.larder, i.dram, i.breadbox, i.roles⟩⟩ hs k

theorem upd_bench {x0 : Tab BenchDozen} (hs : Part.sub [.bench] ps = true) (k : Keeps ps s t) :
    Keeps ps s { t with bench := x0 } :=
  via (t := t) ⟨fun p hp => by cases p <;> first | exact absurd (by decide) hp | rfl,
    fun i => ⟨i.larder, i.dram, i.breadbox, i.roles⟩⟩ hs k

theorem upd_breadbox {x0 : Tab Byte} (hs : Part.sub [.breadbox] ps = true) (k : Keeps ps s t)
    (hbreadbox : Memory.wf t.breadbox = true → Memory.wf x0 = true) :
    Keeps ps s { t with breadbox := x0 } :=
  via (t := t) ⟨fun p hp => by cases p <;> first | exact absurd (by decide) hp | rfl,
    fun i => ⟨i.larder, i.dram, hbreadbox i.breadbox, i.roles⟩⟩ hs k

theorem upd_cfg {x0 : Cfg} (hs : Part.sub [.cfg] ps = true) (k : Keeps ps s t) :
    Keeps ps s { t with cfg := x0 } :=
  via (t := t) ⟨fun p hp => by cases p <;> first | exact absurd (by decide) hp | rfl,
    fun i => ⟨i.larder, i.dram, i.breadbox, i.roles⟩⟩ hs k

theorem upd_clk {x0 : Clk} (hs : Part.sub [.clk] ps = true) (k : Keeps ps s t) :
    Keeps ps s { t with clk := x0 } :=
  via (t := t) ⟨fun p hp => by cases p <;> first | exact absurd (by decide) hp | rfl,
    fun i => ⟨i.larder, i.dram, i.breadbox, i.roles⟩⟩ hs k

theorem upd_corr {x0 : CorrTab} (hs : Part.sub [.corr] ps = true) (k : Keeps ps s t) :
    Keeps ps s { t with corr := x0 } :=
  via (t := t) ⟨fun p hp => by cases p <;> first | exact absurd (by decide) hp | rfl,
    fun i => ⟨i.larder, i.dram, i.breadbox, i.roles⟩⟩ hs k

theorem upd_dbg {x0 : Dbg} (hs : Part.sub [.dbg] ps = true) (k : Keeps ps s t) :
    Keeps ps s { t with dbg := x0 } :=
  via (t := t) ⟨fun p hp => by cases p <;> first | exact absurd (by decide) hp | rfl,
    fun i => ⟨i.larder, i.dram, i.breadbox, i.roles⟩⟩ hs k

theorem upd_dieCopy {x0 : Tab (Option (List (Nat × Nat × Nat)))} (hs : Part.sub [.dieCopy] ps = true) (k : Keeps ps s t) :
    Keeps ps s { t with dieCopy := x0 } :=
  via (t := t) ⟨fun p hp => by cases p <;> first | exact absurd (by decide) hp | rfl,
    fun i => ⟨i.larder, i.dram, i.breadbox, i.roles⟩⟩ hs k

theorem upd_dozens {x0 : Tab Dozen} (hs : Part.sub [.dozens] ps = true) (k : Keeps ps s t) :
    Keeps ps s { t with dozens := x0 } :=
  via (t := t) ⟨fun p hp => by cases p <;> first | exact absurd (by decide) hp | rfl,
    fun i => ⟨i.larder, i.dram, i.breadbox, i.roles⟩⟩ hs k

theorem upd_dram {x0 : Dram} (hs : Part.sub [.dram] ps = true) (k : Keeps ps s t)
    (hdram : Memory.wf t.dram.mem = true → Memory.wf x0.mem = true) :
    Keeps ps s { t with dram := x0 } :=
  via (t := t) ⟨fun p hp => by cases p <;> first | exact absurd (by decide) hp | rfl,
    fun i => ⟨i.larder, hdram i.dram, i.breadbox, i.roles⟩⟩ hs k

theorem upd_dueSeq {x0 : Nat} (hs : Part.sub [.dueSeq] ps = true) (k : Keeps ps s t) :
    Keeps ps s { t with dueSeq := x0 } :=
  via (t := t) ⟨fun p hp => by cases p <;> first | exact absurd (by decide) hp | rfl,
    fun i => ⟨i.larder, i.dram, i.breadbox, i.roles⟩⟩ hs k

theorem upd_eqTable {x0 : Tab Nat} (hs : Part.sub [.eqTable] ps = true) (k : Keeps ps s t) :
    Keeps ps s { t with eqTable := x0 } :=
  via (t := t) ⟨fun p hp => by cases p <;> first | exact absurd (by decide) hp | rfl,
    fun i => ⟨i.larder, i.dram, i.breadbox, i.roles⟩⟩ hs k

theorem upd_events {x0 : Events} (hs : Part.sub [.events] ps = true) (k : Keeps ps s t) :
    Keeps ps s { t with events := x0 } :=
  via (t := t) ⟨fun p hp => by cases p <;> first | exact absurd (by decide) hp | rfl,
    fun i => ⟨i.larder, i.dram, i.breadbox, i.roles⟩⟩ hs k

theorem upd_free {x0 : Nat} (hs : Part.sub [.free] ps = true) (k : Keeps ps s t) :
    Keeps ps s { t with free := x0 } :=
  via (t := t) ⟨fun p hp => by cases p <;> first | exact absurd (by decide) hp | rfl,
    fun i => ⟨i.larder, i.dram, i.breadbox, i.roles⟩⟩ hs k

theorem upd_fuses {x0 : Fuses} (hs : Part.sub [.fuses] ps = true) (k : Keeps ps s t) :
    Keeps ps s { t with fuses := x0 } :=
  via (t := t) ⟨fun p hp => by cases p <;> first | exact absurd (by decide) hp | rfl,
    fun i => ⟨i.larder, i.dram, i.breadbox, i.roles⟩⟩ hs k

theorem upd_hqe {x0 : Hqe} (hs : Part.sub [.hqe] ps = true) (k : Keeps ps s t) :
    Keeps ps s { t with hqe := x0 } :=
  via (t := t) ⟨fun p hp => by cases p <;> first | exact absurd (by decide) hp | rfl,
    fun i => ⟨i.larder, i.dram, i.breadbox, i.roles⟩⟩ hs k

theorem upd_kept {x0 : Tab (Option KeptCopy)} (hs : Part.sub [.kept] ps = true) (k : Keeps ps s t) :
    Keeps ps s { t with kept := x0 } :=
  via (t := t) ⟨fun p hp => by cases p <;> first | exact absurd (by decide) hp | rfl,
    fun i => ⟨i.larder, i.dram, i.breadbox, i.roles⟩⟩ hs k

theorem upd_laneIn {x0 : Tab (Option Nat)} (hs : Part.sub [.laneIn] ps = true) (k : Keeps ps s t) :
    Keeps ps s { t with laneIn := x0 } :=
  via (t := t) ⟨fun p hp => by cases p <;> first | exact absurd (by decide) hp | rfl,
    fun i => ⟨i.larder, i.dram, i.breadbox, i.roles⟩⟩ hs k

theorem upd_laneOut {x0 : Tab (Option Nat)} (hs : Part.sub [.laneOut] ps = true) (k : Keeps ps s t) :
    Keeps ps s { t with laneOut := x0 } :=
  via (t := t) ⟨fun p hp => by cases p <;> first | exact absurd (by decide) hp | rfl,
    fun i => ⟨i.larder, i.dram, i.breadbox, i.roles⟩⟩ hs k

theorem upd_lanes {x0 : Tab LaneSt} (hs : Part.sub [.lanes] ps = true) (k : Keeps ps s t) :
    Keeps ps s { t with lanes := x0 } :=
  via (t := t) ⟨fun p hp => by cases p <;> first | exact absurd (by decide) hp | rfl,
    fun i => ⟨i.larder, i.dram, i.breadbox, i.roles⟩⟩ hs k

theorem upd_larder {x0 : Larder} (hs : Part.sub [.larder] ps = true) (k : Keeps ps s t)
    (hlarder : Memory.wf t.larder.mem = true → Memory.wf x0.mem = true) :
    Keeps ps s { t with larder := x0 } :=
  via (t := t) ⟨fun p hp => by cases p <;> first | exact absurd (by decide) hp | rfl,
    fun i => ⟨hlarder i.larder, i.dram, i.breadbox, i.roles⟩⟩ hs k

theorem upd_mac {x0 : Mac} (hs : Part.sub [.mac] ps = true) (k : Keeps ps s t) :
    Keeps ps s { t with mac := x0 } :=
  via (t := t) ⟨fun p hp => by cases p <;> first | exact absurd (by decide) hp | rfl,
    fun i => ⟨i.larder, i.dram, i.breadbox, i.roles⟩⟩ hs k

theorem upd_mgc {x0 : Mgc} (hs : Part.sub [.mgc] ps = true) (k : Keeps ps s t) :
    Keeps ps s { t with mgc := x0 } :=
  via (t := t) ⟨fun p hp => by cases p <;> first | exact absurd (by decide) hp | rfl,
    fun i => ⟨i.larder, i.dram, i.breadbox, i.roles⟩⟩ hs k

theorem upd_noc {x0 : Noc} (hs : Part.sub [.noc] ps = true) (k : Keeps ps s t) :
    Keeps ps s { t with noc := x0 } :=
  via (t := t) ⟨fun p hp => by cases p <;> first | exact absurd (by decide) hp | rfl,
    fun i => ⟨i.larder, i.dram, i.breadbox, i.roles⟩⟩ hs k

theorem upd_pads {x0 : Tab Pad} (hs : Part.sub [.pads] ps = true) (k : Keeps ps s t) :
    Keeps ps s { t with pads := x0 } :=
  via (t := t) ⟨fun p hp => by cases p <;> first | exact absurd (by decide) hp | rfl,
    fun i => ⟨i.larder, i.dram, i.breadbox, i.roles⟩⟩ hs k

theorem upd_pool {x0 : Pool} (hs : Part.sub [.pool] ps = true) (k : Keeps ps s t) :
    Keeps ps s { t with pool := x0 } :=
  via (t := t) ⟨fun p hp => by cases p <;> first | exact absurd (by decide) hp | rfl,
    fun i => ⟨i.larder, i.dram, i.breadbox, i.roles⟩⟩ hs k

theorem upd_powerGood {x0 : Bool} (hs : Part.sub [.powerGood] ps = true) (k : Keeps ps s t) :
    Keeps ps s { t with powerGood := x0 } :=
  via (t := t) ⟨fun p hp => by cases p <;> first | exact absurd (by decide) hp | rfl,
    fun i => ⟨i.larder, i.dram, i.breadbox, i.roles⟩⟩ hs k

theorem upd_ptm {x0 : Ptm} (hs : Part.sub [.ptm] ps = true) (k : Keeps ps s t) :
    Keeps ps s { t with ptm := x0 } :=
  via (t := t) ⟨fun p hp => by cases p <;> first | exact absurd (by decide) hp | rfl,
    fun i => ⟨i.larder, i.dram, i.breadbox, i.roles⟩⟩ hs k

theorem upd_regs {x0 : Tab Word} (hs : Part.sub [.regs] ps = true) (k : Keeps ps s t) :
    Keeps ps s { t with regs := x0 } :=
  via (t := t) ⟨fun p hp => by cases p <;> first | exact absurd (by decide) hp | rfl,
    fun i => ⟨i.larder, i.dram, i.breadbox, i.roles⟩⟩ hs k

theorem upd_ring {x0 : Tab RingConn} (hs : Part.sub [.ring] ps = true) (k : Keeps ps s t) :
    Keeps ps s { t with ring := x0 } :=
  via (t := t) ⟨fun p hp => by cases p <;> first | exact absurd (by decide) hp | rfl,
    fun i => ⟨i.larder, i.dram, i.breadbox, i.roles⟩⟩ hs k

theorem upd_roles {x0 : Tab (List Nat)} (hs : Part.sub [.roles] ps = true) (k : Keeps ps s t)
    (hroles : (∀ d, rolesOk (t.roleMap d)) → ∀ d, rolesOk (State.roleMap { t with roles := x0 } d)) :
    Keeps ps s { t with roles := x0 } :=
  via (t := t) ⟨fun p hp => by cases p <;> first | exact absurd (by decide) hp | rfl,
    fun i => ⟨i.larder, i.dram, i.breadbox, hroles i.roles⟩⟩ hs k

theorem upd_seamCh {x0 : Tab SeamCh} (hs : Part.sub [.seamCh] ps = true) (k : Keeps ps s t) :
    Keeps ps s { t with seamCh := x0 } :=
  via (t := t) ⟨fun p hp => by cases p <;> first | exact absurd (by decide) hp | rfl,
    fun i => ⟨i.larder, i.dram, i.breadbox, i.roles⟩⟩ hs k

theorem upd_smbus {x0 : Smbus} (hs : Part.sub [.smbus] ps = true) (k : Keeps ps s t) :
    Keeps ps s { t with smbus := x0 } :=
  via (t := t) ⟨fun p hp => by cases p <;> first | exact absurd (by decide) hp | rfl,
    fun i => ⟨i.larder, i.dram, i.breadbox, i.roles⟩⟩ hs k

theorem upd_spr {x0 : Spr} (hs : Part.sub [.spr] ps = true) (k : Keeps ps s t) :
    Keeps ps s { t with spr := x0 } :=
  via (t := t) ⟨fun p hp => by cases p <;> first | exact absurd (by decide) hp | rfl,
    fun i => ⟨i.larder, i.dram, i.breadbox, i.roles⟩⟩ hs k

theorem upd_straps {x0 : Nat} (hs : Part.sub [.straps] ps = true) (k : Keeps ps s t) :
    Keeps ps s { t with straps := x0 } :=
  via (t := t) ⟨fun p hp => by cases p <;> first | exact absurd (by decide) hp | rfl,
    fun i => ⟨i.larder, i.dram, i.breadbox, i.roles⟩⟩ hs k

theorem upd_time {x0 : Time} (hs : Part.sub [.time] ps = true) (k : Keeps ps s t) :
    Keeps ps s { t with time := x0 } :=
  via (t := t) ⟨fun p hp => by cases p <;> first | exact absurd (by decide) hp | rfl,
    fun i => ⟨i.larder, i.dram, i.breadbox, i.roles⟩⟩ hs k

theorem upd_tins {x0 : Tab Tin} (hs : Part.sub [.tins] ps = true) (k : Keeps ps s t) :
    Keeps ps s { t with tins := x0 } :=
  via (t := t) ⟨fun p hp => by cases p <;> first | exact absurd (by decide) hp | rfl,
    fun i => ⟨i.larder, i.dram, i.breadbox, i.roles⟩⟩ hs k

theorem upd_vgoal {x0 : Tab Nat} (hs : Part.sub [.vgoal] ps = true) (k : Keeps ps s t) :
    Keeps ps s { t with vgoal := x0 } :=
  via (t := t) ⟨fun p hp => by cases p <;> first | exact absurd (by decide) hp | rfl,
    fun i => ⟨i.larder, i.dram, i.breadbox, i.roles⟩⟩ hs k

theorem upd_clk_time {x0 : Clk} {x1 : Time} (hs : Part.sub [.clk, .time] ps = true) (k : Keeps ps s t) :
    Keeps ps s { t with clk := x0, time := x1 } :=
  via (t := t) ⟨fun p hp => by cases p <;> first | exact absurd (by decide) hp | rfl,
    fun i => ⟨i.larder, i.dram, i.breadbox, i.roles⟩⟩ hs k

theorem upd_dbg_answer {x0 : Dbg} {x1 : Option Answer} (hs : Part.sub [.dbg, .answer] ps = true) (k : Keeps ps s t) :
    Keeps ps s { t with dbg := x0, answer := x1 } :=
  via (t := t) ⟨fun p hp => by cases p <;> first | exact absurd (by decide) hp | rfl,
    fun i => ⟨i.larder, i.dram, i.breadbox, i.roles⟩⟩ hs k

theorem upd_hqe_answer {x0 : Hqe} {x1 : Option Answer} (hs : Part.sub [.hqe, .answer] ps = true) (k : Keeps ps s t) :
    Keeps ps s { t with hqe := x0, answer := x1 } :=
  via (t := t) ⟨fun p hp => by cases p <;> first | exact absurd (by decide) hp | rfl,
    fun i => ⟨i.larder, i.dram, i.breadbox, i.roles⟩⟩ hs k

theorem upd_kept_spr {x0 : Tab (Option KeptCopy)} {x1 : Spr} (hs : Part.sub [.kept, .spr] ps = true) (k : Keeps ps s t) :
    Keeps ps s { t with kept := x0, spr := x1 } :=
  via (t := t) ⟨fun p hp => by cases p <;> first | exact absurd (by decide) hp | rfl,
    fun i => ⟨i.larder, i.dram, i.breadbox, i.roles⟩⟩ hs k

theorem upd_larder_dbg {x0 : Larder} {x1 : Dbg} (hs : Part.sub [.larder, .dbg] ps = true) (k : Keeps ps s t)
    (hlarder : Memory.wf t.larder.mem = true → Memory.wf x0.mem = true) :
    Keeps ps s { t with larder := x0, dbg := x1 } :=
  via (t := t) ⟨fun p hp => by cases p <;> first | exact absurd (by decide) hp | rfl,
    fun i => ⟨hlarder i.larder, i.dram, i.breadbox, i.roles⟩⟩ hs k

theorem upd_larder_pool {x0 : Larder} {x1 : Pool} (hs : Part.sub [.larder, .pool] ps = true) (k : Keeps ps s t)
    (hlarder : Memory.wf t.larder.mem = true → Memory.wf x0.mem = true) :
    Keeps ps s { t with larder := x0, pool := x1 } :=
  via (t := t) ⟨fun p hp => by cases p <;> first | exact absurd (by decide) hp | rfl,
    fun i => ⟨hlarder i.larder, i.dram, i.breadbox, i.roles⟩⟩ hs k

theorem upd_mgc_answer {x0 : Mgc} {x1 : Option Answer} (hs : Part.sub [.mgc, .answer] ps = true) (k : Keeps ps s t) :
    Keeps ps s { t with mgc := x0, answer := x1 } :=
  via (t := t) ⟨fun p hp => by cases p <;> first | exact absurd (by decide) hp | rfl,
    fun i => ⟨i.larder, i.dram, i.breadbox, i.roles⟩⟩ hs k

theorem upd_noc_dram {x0 : Noc} {x1 : Dram} (hs : Part.sub [.noc, .dram] ps = true) (k : Keeps ps s t)
    (hdram : Memory.wf t.dram.mem = true → Memory.wf x1.mem = true) :
    Keeps ps s { t with noc := x0, dram := x1 } :=
  via (t := t) ⟨fun p hp => by cases p <;> first | exact absurd (by decide) hp | rfl,
    fun i => ⟨i.larder, hdram i.dram, i.breadbox, i.roles⟩⟩ hs k

theorem upd_regs_events {x0 : Tab Word} {x1 : Events} (hs : Part.sub [.regs, .events] ps = true) (k : Keeps ps s t) :
    Keeps ps s { t with regs := x0, events := x1 } :=
  via (t := t) ⟨fun p hp => by cases p <;> first | exact absurd (by decide) hp | rfl,
    fun i => ⟨i.larder, i.dram, i.breadbox, i.roles⟩⟩ hs k

theorem upd_ring_foldMap {x0 : Tab RingConn} {x1 : Tab (List Nat)} (hs : Part.sub [.ring, .foldMap] ps = true) (k : Keeps ps s t) :
    Keeps ps s { t with ring := x0, foldMap := x1 } :=
  via (t := t) ⟨fun p hp => by cases p <;> first | exact absurd (by decide) hp | rfl,
    fun i => ⟨i.larder, i.dram, i.breadbox, i.roles⟩⟩ hs k

theorem upd_smbus_answer {x0 : Smbus} {x1 : Option Answer} (hs : Part.sub [.smbus, .answer] ps = true) (k : Keeps ps s t) :
    Keeps ps s { t with smbus := x0, answer := x1 } :=
  via (t := t) ⟨fun p hp => by cases p <;> first | exact absurd (by decide) hp | rfl,
    fun i => ⟨i.larder, i.dram, i.breadbox, i.roles⟩⟩ hs k

theorem upd_time_away {x0 : Time} {x1 : Tab Away} (hs : Part.sub [.time, .away] ps = true) (k : Keeps ps s t) :
    Keeps ps s { t with time := x0, away := x1 } :=
  via (t := t) ⟨fun p hp => by cases p <;> first | exact absurd (by decide) hp | rfl,
    fun i => ⟨i.larder, i.dram, i.breadbox, i.roles⟩⟩ hs k

theorem upd_vgoal_away {x0 : Tab Nat} {x1 : Tab Away} (hs : Part.sub [.vgoal, .away] ps = true) (k : Keeps ps s t) :
    Keeps ps s { t with vgoal := x0, away := x1 } :=
  via (t := t) ⟨fun p hp => by cases p <;> first | exact absurd (by decide) hp | rfl,
    fun i => ⟨i.larder, i.dram, i.breadbox, i.roles⟩⟩ hs k

theorem upd_vgoal_clk {x0 : Tab Nat} {x1 : Clk} (hs : Part.sub [.vgoal, .clk] ps = true) (k : Keeps ps s t) :
    Keeps ps s { t with vgoal := x0, clk := x1 } :=
  via (t := t) ⟨fun p hp => by cases p <;> first | exact absurd (by decide) hp | rfl,
    fun i => ⟨i.larder, i.dram, i.breadbox, i.roles⟩⟩ hs k

theorem upd_events_larder_mgc {x0 : Events} {x1 : Larder} {x2 : Mgc} (hs : Part.sub [.events, .larder, .mgc] ps = true) (k : Keeps ps s t)
    (hlarder : Memory.wf t.larder.mem = true → Memory.wf x1.mem = true) :
    Keeps ps s { t with events := x0, larder := x1, mgc := x2 } :=
  via (t := t) ⟨fun p hp => by cases p <;> first | exact absurd (by decide) hp | rfl,
    fun i => ⟨hlarder i.larder, i.dram, i.breadbox, i.roles⟩⟩ hs k

theorem upd_kept_dieCopy_spr {x0 : Tab (Option KeptCopy)} {x1 : Tab (Option (List (Nat × Nat × Nat)))} {x2 : Spr} (hs : Part.sub [.kept, .dieCopy, .spr] ps = true) (k : Keeps ps s t) :
    Keeps ps s { t with kept := x0, dieCopy := x1, spr := x2 } :=
  via (t := t) ⟨fun p hp => by cases p <;> first | exact absurd (by decide) hp | rfl,
    fun i => ⟨i.larder, i.dram, i.breadbox, i.roles⟩⟩ hs k

theorem upd_now_dram_time {x0 : Nat} {x1 : Dram} {x2 : Time} (hs : Part.sub [.now, .dram, .time] ps = true) (k : Keeps ps s t)
    (hdram : Memory.wf t.dram.mem = true → Memory.wf x1.mem = true) :
    Keeps ps s { t with now := x0, dram := x1, time := x2 } :=
  via (t := t) ⟨fun p hp => by cases p <;> first | exact absurd (by decide) hp | rfl,
    fun i => ⟨i.larder, hdram i.dram, i.breadbox, i.roles⟩⟩ hs k

theorem upd_ring_kept_dieCopy_spr {x0 : Tab RingConn} {x1 : Tab (Option KeptCopy)} {x2 : Tab (Option (List (Nat × Nat × Nat)))} {x3 : Spr} (hs : Part.sub [.ring, .kept, .dieCopy, .spr] ps = true) (k : Keeps ps s t) :
    Keeps ps s { t with ring := x0, kept := x1, dieCopy := x2, spr := x3 } :=
  via (t := t) ⟨fun p hp => by cases p <;> first | exact absurd (by decide) hp | rfl,
    fun i => ⟨i.larder, i.dram, i.breadbox, i.roles⟩⟩ hs k

theorem upd_tins_dram_breadbox_pads {x0 : Tab Tin} {x1 : Dram} {x2 : Tab Byte} {x3 : Tab Pad} (hs : Part.sub [.tins, .dram, .breadbox, .pads] ps = true) (k : Keeps ps s t)
    (hdram : Memory.wf t.dram.mem = true → Memory.wf x1.mem = true)
    (hbreadbox : Memory.wf t.breadbox = true → Memory.wf x2 = true) :
    Keeps ps s { t with tins := x0, dram := x1, breadbox := x2, pads := x3 } :=
  via (t := t) ⟨fun p hp => by cases p <;> first | exact absurd (by decide) hp | rfl,
    fun i => ⟨i.larder, hdram i.dram, hbreadbox i.breadbox, i.roles⟩⟩ hs k

theorem upd_ring_laneIn_laneOut_seamCh_clk_mac_dbg {x0 : Tab RingConn} {x1 : Tab (Option Nat)} {x2 : Tab (Option Nat)} {x3 : Tab SeamCh} {x4 : Clk} {x5 : Mac} {x6 : Dbg} (hs : Part.sub [.ring, .laneIn, .laneOut, .seamCh, .clk, .mac, .dbg] ps = true) (k : Keeps ps s t) :
    Keeps ps s { t with ring := x0, laneIn := x1, laneOut := x2, seamCh := x3, clk := x4, mac := x5, dbg := x6 } :=
  via (t := t) ⟨fun p hp => by cases p <;> first | exact absurd (by decide) hp | rfl,
    fun i => ⟨i.larder, i.dram, i.breadbox, i.roles⟩⟩ hs k

theorem upd_regs_dueSeq_noc_dram_breadbox_lanes_mgc_ptm {x0 : Tab Word} {x1 : Nat} {x2 : Noc} {x3 : Dram} {x4 : Tab Byte} {x5 : Tab LaneSt} {x6 : Mgc} {x7 : Ptm} (hs : Part.sub [.regs, .dueSeq, .noc, .dram, .breadbox, .lanes, .mgc, .ptm] ps = true) (k : Keeps ps s t)
    (hdram : Memory.wf t.dram.mem = true → Memory.wf x3.mem = true)
    (hbreadbox : Memory.wf t.breadbox = true → Memory.wf x4 = true) :
    Keeps ps s { t with regs := x0, dueSeq := x1, noc := x2, dram := x3, breadbox := x4, lanes := x5, mgc := x6, ptm := x7 } :=
  via (t := t) ⟨fun p hp => by cases p <;> first | exact absurd (by decide) hp | rfl,
    fun i => ⟨i.larder, hdram i.dram, hbreadbox i.breadbox, i.roles⟩⟩ hs k

theorem ite {c : Prop} [Decidable c] {a b : State} (h : c → Keeps ps s a) (k : ¬c → Keeps ps s b) : Keeps ps s (if c then a else b) := by
  split
  · exact h ‹_›
  · exact k ‹_›

/-- A record update with its own proof that the invariant passes. -/
theorem updI {us : List Part} (hs : Part.sub us ps = true) (k : Keeps ps s t) (_e : u.pending = t.pending) (h : ∀ p, p ∉ us → t.Same u p)
    (hi : t.Inv → u.Inv) : Keeps ps s u := via (t := t) ⟨h, hi⟩ hs k

theorem snd_mk {α : Type} {a : α} (h : Keeps ps s t) : Keeps ps s (a, t).2 := h

theorem fst_mk {α : Type} {a : α} (h : Keeps ps s t) : Keeps ps s (t, a).1 := h

theorem snd_mk2 {α β : Type} {a : α} {y : β × State} (h : Keeps ps s y.2) : Keeps ps s (a, y).2.2 := h

theorem ite_p1 {α : Type} {c : Prop} [Decidable c] {a b : α × State} (h : c → Keeps ps s a.2) (k : ¬c → Keeps ps s b.2) :
    Keeps ps s (if c then a else b).2 := by
  split
  · exact h ‹_›
  · exact k ‹_›

theorem ite_p0 {α : Type} {c : Prop} [Decidable c] {a b : State × α} (h : c → Keeps ps s a.1) (k : ¬c → Keeps ps s b.1) :
    Keeps ps s (if c then a else b).1 := by
  split
  · exact h ‹_›
  · exact k ‹_›

theorem ite_p11 {α β : Type} {c : Prop} [Decidable c] {a b : α × β × State} (h : c → Keeps ps s a.2.2) (k : ¬c → Keeps ps s b.2.2) :
    Keeps ps s (if c then a else b).2.2 := by
  split
  · exact h ‹_›
  · exact k ‹_›

end Keeps

/-- Forgetting bytes keeps the canonical form of a memory. -/
theorem memDrop_wf {m : Tab (BitVec 8)} {p : Nat → Bool} (h : Memory.wf m = true) : Memory.wf (Tab.drop p m) = true := Tab.drop_wf h

/-- Exchanging the tins of two roles keeps a role map (R34). -/
theorem swapRoles_ok {l : List Nat} {a b : Nat} (h : rolesOk l) (ha : a < 13) (hb : b < 13) : rolesOk (swapRoles l a b) := by
  obtain ⟨hl, hm⟩ := h
  have la : a < l.length := by omega
  have lb : b < l.length := by omega
  refine ⟨by simp [swapRoles, hl], fun k hk => ?_⟩
  obtain ⟨i, hi, e⟩ := List.mem_iff_getElem.mp (hm k hk)
  have hs : (swapRoles l a b).length = 13 := by simp [swapRoles, hl]
  refine List.mem_iff_getElem.mpr ⟨if i = a then b else if i = b then a else i, by split; exact hs ▸ hb; split; exact hs ▸ ha; omega, ?_⟩
  subst e
  simp only [swapRoles, List.getElem_set, List.getD_eq_getElem?_getD, List.getElem?_eq_getElem la, List.getElem?_eq_getElem lb, Option.getD_some]
  by_cases h1 : i = a
  · subst h1; simp
  · by_cases h2 : i = b
    · subst h2; simp only [if_neg h1, if_true]
    · simp [h1, h2, Ne.symm h1, Ne.symm h2]

/-- The healthy tins first, the others last: every tin once (R568). -/
theorem split_ok (p : Nat → Bool) : rolesOk ((List.range 13).filter (fun i => !p i) ++ ((List.range 13).filter p).reverse) := by
  refine ⟨?_, fun k hk => ?_⟩
  · have h : ∀ l : List Nat, (l.filter (fun i => !p i)).length + (l.filter p).length = l.length := by
      intro l
      induction l with
      | nil => rfl
      | cons x r ih => cases hx : p x <;> simp [List.filter_cons, hx] <;> omega
    simpa using h (List.range 13)
  · cases hp : p k <;> simp [hp, hk]

/-- What a record update does with the memory of the larder, the DRAM or the breadbox. -/
theorem Larder.foldl_setPoison_mem {o : Nat} {p : Bool} (l : List Nat) (a : Larder) : (l.foldl (fun b i => b.setPoison (o + 8 * i) p) a).mem = a.mem := by
  induction l generalizing a with
  | nil => rfl
  | cons i r ih => exact ih _

theorem Larder.markWords_mem (a : Larder) (o n : Nat) (p : Bool) : (a.markWords o n p).mem = a.mem := foldl_setPoison_mem _ a

theorem Larder.write_markWords_wf {a : Larder} {o b n : Nat} {d : List Byte} {p : Bool} (h : Memory.wf a.mem = true) :
    Memory.wf ((a.write o d).markWords b n p).mem = true := by rw [markWords_mem]; exact writeBytes_wf h

theorem Larder.write_setPoison_wf {a : Larder} {o b : Nat} {d : List Byte} {p : Bool} (h : Memory.wf a.mem = true) :
    Memory.wf ((a.write o d).setPoison b p).mem = true := writeBytes_wf h

/-- The meaning of a command answers a next state that keeps what `Keeps` says. -/
def OutKeeps (ps : List Part) (s : State) (o : Out) : Prop := ∃ t, o = .next t ∧ Keeps ps s t

theorem OutKeeps.next {ps : List Part} {s t : State} (k : Keeps ps s t) : OutKeeps ps s (.next t) := ⟨t, rfl, k⟩

/-- A command runs when its answer is known, keeps within its parts and has the facts. -/
theorem Runs.of {c : Instr} {s u : State} {ps : List Part} {P : State → Prop} (e : exec c s = .next u) (k : Keeps ps s u) (p : P u) :
    Runs c s ps P := ⟨u, e, p, k.only⟩

/-- A command whose answer keeps within `ps` runs when the facts hold of the state it answers. -/
theorem Runs.keeps {c : Instr} {s : State} {ps : List Part} {P : State → Prop} (k : OutKeeps ps s (exec c s))
    (p : ∀ u, exec c s = .next u → P u) : Runs c s ps P := by
  obtain ⟨u, e, k⟩ := k
  exact ⟨u, e, p u e, k.only⟩

theorem OutKeeps.ite {ps : List Part} {s : State} {c : Prop} [Decidable c] {a b : Out} (h : c → OutKeeps ps s a) (k : ¬c → OutKeeps ps s b) :
    OutKeeps ps s (if c then a else b) := by
  split
  · exact h ‹_›
  · exact k ‹_›

theorem OutKeeps.via {ps qs : List Part} {s t : State} {o : Out} (h : OutKeeps ps t o) (hs : Part.sub ps qs = true) (k : Keeps qs s t) : OutKeeps qs s o := by
  obtain ⟨u, e, w⟩ := h
  exact ⟨u, e, w.via hs k⟩

end Sys2Proof.Machine
end

