-- ==== Sys2Proof/Laws/Keeps/Ops.lean ====
section
/-! SUPPORT. What the operations of Machine/Ops.lean may change, and that they keep the invariant. -/

namespace Sys2Proof.Machine

theorem State.setTin_keeps (s : State) (t : Nat) (x : Tin) : Keeps [.tins] s (State.setTin s t x) := by
  unfold State.setTin
  exact Keeps.upd_tins rfl Keeps.refl


theorem State.setReg_keeps (s : State) (off : Nat) (w : Word) : Keeps [.regs] s (State.setReg s off w) := by
  unfold State.setReg
  exact Keeps.upd_regs rfl Keeps.refl


theorem State.fset_keeps (s : State) (f : Fld) (v : Nat) : Keeps [.regs] s (State.fset s f v) := by
  unfold State.fset
  exact Keeps.via (State.setReg_keeps ..) rfl Keeps.refl


theorem State.fsat_keeps (s : State) (f : Fld) (n : Nat) : Keeps [.regs] s (State.fsat s f n) := by
  unfold State.fsat
  exact Keeps.via (State.fset_keeps ..) rfl Keeps.refl


theorem State.post_keeps (s : State) (code : Nat) (sev : Nat) (die : Option Nat) (unit : Nat) (arg0 : Nat) (arg1 : Nat) : Keeps [.events] s (State.post s code sev die unit arg0 arg1) := by
  unfold State.post
  exact Keeps.upd_events rfl Keeps.refl


theorem State.accErr_keeps (s : State) (cause : Nat) (dom : Nat) (src : Nat) (off : Nat) : Keeps [.regs] s (State.accErr s cause dom src off) := by
  unfold State.accErr
  split
  · refine Keeps.ite (fun _ => ?_) (fun _ => ?_)
    · exact Keeps.via (State.fsat_keeps ..) rfl Keeps.refl
    · refine Keeps.via (State.setReg_keeps ..) rfl ?_
      exact Keeps.via (State.setReg_keeps ..) rfl Keeps.refl


theorem State.postLimited_keeps (s : State) (k : Nat) (code : Nat) (sev : Nat) (die : Option Nat) (unit : Nat) (n : Nat) : Keeps [.events] s (State.postLimited s k code sev die unit n) := by
  unfold State.postLimited
  split
  · refine Keeps.ite (fun _ => ?_) (fun _ => ?_)
    · try extract_lets
      refine Keeps.upd_events rfl ?_
      exact Keeps.via (State.post_keeps ..) rfl Keeps.refl
    · exact Keeps.upd_events rfl Keeps.refl


theorem State.takeFree_keeps (s : State) (n : Nat) : Keeps [.free] s (State.takeFree s n).2 := by
  unfold State.takeFree
  refine Keeps.snd_mk ?_
  exact Keeps.upd_free rfl Keeps.refl


theorem State.countCorr_keeps (s : State) (inst : Nat) : Keeps [.corr] s (State.countCorr s inst) := by
  unfold State.countCorr
  exact Keeps.upd_corr rfl Keeps.refl


theorem State.resetRegs_keeps (s : State) (scope : Nat) (p : Nat → Bool) : Keeps [.regs] s (State.resetRegs s scope p) := by
  unfold State.resetRegs
  exact Keeps.upd_regs rfl Keeps.refl


theorem State.exchange_keeps (s : State) (d : Nat) (a : Nat) (b : Nat) : Keeps [.roles] s (State.exchange s d a b) := by
  unfold State.exchange
  refine Keeps.ite (fun hab => Keeps.upd_roles rfl Keeps.refl (fun h j => ?_)) (fun _ => Keeps.refl)
  simp only [State.roleMap]
  rw [Tab.get_put]
  split
  · exact swapRoles_ok (h d) hab.1 hab.2
  · exact h j

end Sys2Proof.Machine
end

