-- ==== Sys2Proof/Laws/Keeps/Larder.lean ====
section
/-! SUPPORT. What the operations of Machine/Larder.lean may change, and that they keep the invariant. -/

namespace Sys2Proof.Machine

theorem State.setBank_keeps (s : State) (b : Nat) (v : Bank) : Keeps [.larder] s (State.setBank s b v) := by
  unfold State.setBank
  refine Keeps.upd_larder rfl ?_ ?_
  rotate_left
  · first | exact fun h => h | exact memDrop_wf | exact writeBytes_wf | exact fun _ => rfl | (dsimp only; exact memDrop_wf)
  exact Keeps.refl


theorem State.larderDecode_keeps (s : State) (off : Nat) (err : MemErr) : Keeps [.regs, .events, .larder, .corr, .free] s (State.larderDecode s off err) := by
  unfold State.larderDecode
  try extract_lets
  split
  · exact Keeps.refl
  · refine Keeps.via (State.countCorr_keeps ..) rfl ?_
    exact Keeps.via (State.fsat_keeps ..) rfl Keeps.refl
  · refine Keeps.ite (fun _ => ?_) (fun _ => ?_)
    · refine Keeps.via (State.countCorr_keeps ..) rfl ?_
      exact Keeps.via (State.fsat_keeps ..) rfl Keeps.refl
    · refine Keeps.ite (fun _ => ?_) (fun _ => ?_)
      · refine Keeps.via (State.post_keeps ..) rfl ?_
        refine Keeps.via (State.setBank_keeps ..) rfl ?_
        refine Keeps.via (State.countCorr_keeps ..) rfl ?_
        exact Keeps.via (State.fsat_keeps ..) rfl Keeps.refl
      · refine Keeps.via (State.post_keeps ..) rfl ?_
        refine Keeps.via (State.setBank_keeps ..) rfl ?_
        refine Keeps.via (State.countCorr_keeps ..) rfl ?_
        exact Keeps.via (State.fsat_keeps ..) rfl Keeps.refl
  · try extract_lets
    refine Keeps.ite (fun _ => ?_) (fun _ => ?_)
    · refine Keeps.via (State.post_keeps ..) rfl ?_
      refine Keeps.via (State.fsat_keeps ..) rfl ?_
      try extract_lets
      refine Keeps.upd_larder rfl ?_ ?_
      rotate_left
      · first | exact Larder.write_setPoison_wf | exact fun h => h
      exact Keeps.via (State.takeFree_keeps ..) rfl Keeps.refl
    · refine Keeps.ite (fun _ => ?_) (fun _ => ?_)
      · refine Keeps.via (State.post_keeps ..) rfl ?_
        refine Keeps.via (State.setBank_keeps ..) rfl ?_
        refine Keeps.via (State.post_keeps ..) rfl ?_
        refine Keeps.via (State.fsat_keeps ..) rfl ?_
        try extract_lets
        refine Keeps.upd_larder rfl ?_ ?_
        rotate_left
        · first | exact Larder.write_setPoison_wf | exact fun h => h
        exact Keeps.via (State.takeFree_keeps ..) rfl Keeps.refl
      · refine Keeps.via (State.post_keeps ..) rfl ?_
        refine Keeps.via (State.setBank_keeps ..) rfl ?_
        refine Keeps.via (State.post_keeps ..) rfl ?_
        refine Keeps.via (State.fsat_keeps ..) rfl ?_
        try extract_lets
        refine Keeps.upd_larder rfl ?_ ?_
        rotate_left
        · first | exact Larder.write_setPoison_wf | exact fun h => h
        exact Keeps.via (State.takeFree_keeps ..) rfl Keeps.refl


theorem State.larderWrite_keeps (s : State) (off : Nat) (k : Nat) (d : List Byte) (poison : Bool) (err : MemErr) : Keeps [.regs, .events, .larder, .corr, .free] s (State.larderWrite s off k d poison err).2 := by
  unfold State.larderWrite
  try extract_lets
  refine Keeps.ite_p1 (fun _ => ?_) (fun _ => ?_)
  · refine Keeps.snd_mk ?_
    exact Keeps.refl
  · refine Keeps.ite_p1 (fun _ => ?_) (fun _ => ?_)
    · refine Keeps.snd_mk ?_
      exact Keeps.via (State.fsat_keeps ..) rfl Keeps.refl
    · refine Keeps.ite_p1 (fun _ => ?_) (fun _ => ?_)
      · refine Keeps.snd_mk ?_
        exact Keeps.refl
      · try extract_lets
        refine Keeps.ite_p1 (fun _ => ?_) (fun _ => ?_)
        · refine Keeps.snd_mk ?_
          refine Keeps.ite (fun _ => ?_) (fun _ => ?_)
          · exact Keeps.via (State.larderDecode_keeps ..) rfl Keeps.refl
          · exact Keeps.refl
        · refine Keeps.snd_mk ?_
          refine Keeps.upd_larder rfl ?_ ?_
          rotate_left
          · exact Larder.write_markWords_wf
          refine Keeps.ite (fun _ => ?_) (fun _ => ?_)
          · exact Keeps.via (State.larderDecode_keeps ..) rfl Keeps.refl
          · exact Keeps.refl


theorem State.larderRead_keeps (s : State) (off : Nat) (n : Nat) (k : Nat) (err : MemErr) : Keeps [.regs, .events, .larder, .corr, .free] s (State.larderRead s off n k err).2 := by
  unfold State.larderRead
  refine Keeps.ite_p1 (fun _ => ?_) (fun _ => ?_)
  · refine Keeps.snd_mk ?_
    exact Keeps.refl
  · refine Keeps.ite_p1 (fun _ => ?_) (fun _ => ?_)
    · refine Keeps.snd_mk ?_
      exact Keeps.via (State.fsat_keeps ..) rfl Keeps.refl
    · refine Keeps.ite_p1 (fun _ => ?_) (fun _ => ?_)
      · refine Keeps.snd_mk ?_
        exact Keeps.via (State.takeFree_keeps ..) rfl Keeps.refl
      · try extract_lets
        refine Keeps.snd_mk ?_
        exact Keeps.via (State.larderDecode_keeps ..) rfl Keeps.refl


theorem State.retireCell_keeps (s : State) : Keeps [.regs, .events] s (State.retireCell s) := by
  unfold State.retireCell
  refine Keeps.via (State.post_keeps ..) rfl ?_
  refine Keeps.via (State.fsat_keeps ..) rfl ?_
  exact Keeps.via (State.fset_keeps ..) rfl Keeps.refl


theorem State.poolFault_keeps (s : State) (l : Nat) : Keeps [.events, .pool] s (State.poolFault s l) := by
  unfold State.poolFault
  try extract_lets
  refine Keeps.via (State.post_keeps ..) rfl ?_
  exact Keeps.upd_pool rfl Keeps.refl


theorem State.poolPush_keeps (s : State) (l : Nat) (e : Nat) (upset : Bool) (ownerErr : Bool) : Keeps [.regs, .events, .pool] s (State.poolPush s l e upset ownerErr) := by
  unfold State.poolPush
  refine Keeps.ite (fun _ => ?_) (fun _ => ?_)
  · refine Keeps.ite (fun _ => ?_) (fun _ => ?_)
    · exact Keeps.upd_pool rfl Keeps.refl
    · exact Keeps.refl
  · refine Keeps.ite (fun _ => ?_) (fun _ => ?_)
    · exact Keeps.refl
    · try extract_lets
      refine Keeps.ite (fun _ => ?_) (fun _ => ?_)
      · refine Keeps.via (State.fsat_keeps ..) rfl ?_
        refine Keeps.ite (fun _ => ?_) (fun _ => ?_)
        · exact Keeps.via (State.retireCell_keeps ..) rfl Keeps.refl
        · exact Keeps.refl
      · refine Keeps.ite (fun _ => ?_) (fun _ => ?_)
        · refine Keeps.via (State.poolFault_keeps ..) rfl ?_
          refine Keeps.ite (fun _ => ?_) (fun _ => ?_)
          · exact Keeps.via (State.retireCell_keeps ..) rfl Keeps.refl
          · exact Keeps.refl
        · refine Keeps.via (State.fset_keeps ..) rfl ?_
          refine Keeps.upd_pool rfl ?_
          refine Keeps.ite (fun _ => ?_) (fun _ => ?_)
          · exact Keeps.via (State.retireCell_keeps ..) rfl Keeps.refl
          · exact Keeps.refl


theorem State.poolPop_keeps (s : State) (l : Nat) (upset : Bool) (nextErr : Bool) (ownerErr : Bool) : Keeps [.regs, .events, .pool] s (State.poolPop s l upset nextErr ownerErr) := by
  unfold State.poolPop
  refine Keeps.ite (fun _ => ?_) (fun _ => ?_)
  · exact Keeps.refl
  · refine Keeps.ite (fun _ => ?_) (fun _ => ?_)
    · exact Keeps.via (State.poolFault_keeps ..) rfl Keeps.refl
    · split
      · exact Keeps.refl
      · try extract_lets
        refine Keeps.ite (fun _ => ?_) (fun _ => ?_)
        · refine Keeps.via (State.post_keeps ..) rfl ?_
          refine Keeps.via (State.fsat_keeps ..) rfl ?_
          exact Keeps.upd_pool rfl Keeps.refl
        · refine Keeps.via (State.fset_keeps ..) rfl ?_
          exact Keeps.upd_pool rfl Keeps.refl


theorem State.checkerTest_keeps (s : State) (b : Nat) (activeOk : Bool) (standbyOk : Bool) (disagree : Bool) : Keeps [.regs, .events, .larder, .corr] s (State.checkerTest s b activeOk standbyOk disagree) := by
  unfold State.checkerTest
  try extract_lets
  refine Keeps.ite (fun _ => ?_) (fun _ => ?_)
  · exact Keeps.refl
  · refine Keeps.ite (fun _ => ?_) (fun _ => ?_)
    · refine Keeps.via (State.post_keeps ..) rfl ?_
      exact Keeps.via (State.setBank_keeps ..) rfl Keeps.refl
    · refine Keeps.ite (fun _ => ?_) (fun _ => ?_)
      · refine Keeps.via (State.post_keeps ..) rfl ?_
        exact Keeps.via (State.setBank_keeps ..) rfl Keeps.refl
      · refine Keeps.ite (fun _ => ?_) (fun _ => ?_)
        · refine Keeps.via (State.post_keeps ..) rfl ?_
          exact Keeps.via (State.setBank_keeps ..) rfl Keeps.refl
        · refine Keeps.ite (fun _ => ?_) (fun _ => ?_)
          · refine Keeps.via (State.countCorr_keeps ..) rfl ?_
            exact Keeps.via (State.fsat_keeps ..) rfl Keeps.refl
          · exact Keeps.refl


theorem State.trainSeam_keeps (s : State) (k : Nat) : Keeps [.regs] s (State.trainSeam s k) := by
  unfold State.trainSeam
  refine Keeps.via (State.fset_keeps ..) rfl ?_
  exact Keeps.via (State.fset_keeps ..) rfl Keeps.refl


theorem State.trainSeams_keeps (s : State) (d : Nat) : Keeps [.regs] s (State.trainSeams s d) := by
  unfold State.trainSeams
  try extract_lets
  refine Keeps.ite (fun _ => ?_) (fun _ => ?_)
  · refine Keeps.via (State.trainSeam_keeps ..) rfl ?_
    refine Keeps.ite (fun _ => ?_) (fun _ => ?_)
    · exact Keeps.via (State.trainSeam_keeps ..) rfl Keeps.refl
    · exact Keeps.refl
  · refine Keeps.ite (fun _ => ?_) (fun _ => ?_)
    · exact Keeps.via (State.trainSeam_keeps ..) rfl Keeps.refl
    · exact Keeps.refl


theorem State.fillTins_keeps (s : State) (d : Nat) (bad : List (Fin 13)) : Keeps [.tins] s (State.fillTins s d bad) := by
  unfold State.fillTins
  refine Keeps.foldl (fun _ _ => ?_) ?_
  · exact Keeps.via (State.setTin_keeps ..) rfl Keeps.refl
  · exact Keeps.refl


theorem State.trainLinks_keeps (s : State) (d : Nat) : Keeps [.regs] s (State.trainLinks s d) := by
  unfold State.trainLinks
  refine Keeps.foldl (fun _ _ => ?_) ?_
  · refine Keeps.ite (fun _ => ?_) (fun _ => ?_)
    · exact Keeps.via (State.fset_keeps ..) rfl Keeps.refl
    · exact Keeps.refl
  · exact Keeps.refl


theorem State.fillDie_keeps (s : State) (d : Nat) (bad : List (Fin 13)) : Keeps [.regs, .tins] s (State.fillDie s d bad) := by
  unfold State.fillDie
  try extract_lets
  refine Keeps.via (State.trainSeams_keeps ..) rfl ?_
  refine Keeps.via (State.trainLinks_keeps ..) rfl ?_
  refine Keeps.ite (fun _ => ?_) (fun _ => ?_)
  · refine Keeps.via (State.fset_keeps ..) rfl ?_
    exact Keeps.via (State.fillTins_keeps ..) rfl Keeps.refl
  · exact Keeps.via (State.fillTins_keeps ..) rfl Keeps.refl


theorem State.fillHub_keeps (s : State) (badBanks : List (Fin 16)) (poolOk : Fin 3) : Keeps [.regs, .events, .larder, .pool, .corr] s (State.fillHub s badBanks poolOk) := by
  unfold State.fillHub
  try extract_lets
  refine Keeps.ite (fun _ => ?_) (fun _ => ?_)
  · refine Keeps.via (State.post_keeps ..) rfl ?_
    refine Keeps.via (State.fset_keeps ..) rfl ?_
    refine Keeps.via (State.fset_keeps ..) rfl ?_
    refine Keeps.foldl (fun _ _ => ?_) ?_
    · exact Keeps.via (State.checkerTest_keeps ..) rfl Keeps.refl
    · refine Keeps.upd_larder_pool rfl ?_ ?_
      rotate_left
      · first | exact fun h => h | exact memDrop_wf | exact writeBytes_wf | exact fun _ => rfl | (dsimp only; exact memDrop_wf)
      exact Keeps.refl
  · refine Keeps.via (State.fset_keeps ..) rfl ?_
    refine Keeps.via (State.fset_keeps ..) rfl ?_
    refine Keeps.foldl (fun _ _ => ?_) ?_
    · exact Keeps.via (State.checkerTest_keeps ..) rfl Keeps.refl
    · refine Keeps.upd_larder_pool rfl ?_ ?_
      rotate_left
      · first | exact fun h => h | exact memDrop_wf | exact writeBytes_wf | exact fun _ => rfl | (dsimp only; exact memDrop_wf)
      exact Keeps.refl


theorem execLarderScrub_keeps (bank : Fin 16) (err : MemErr) (s : State) : OutKeeps [.regs, .events, .larder, .corr, .free] s (execLarderScrub bank err s) := by
  unfold execLarderScrub
  try extract_lets
  refine OutKeeps.next ?_
  refine Keeps.via (State.setBank_keeps ..) rfl ?_
  exact Keeps.via (State.larderDecode_keeps ..) rfl Keeps.refl


theorem execMemCorrected_keeps (inst : Nat) (s : State) : OutKeeps [.events, .corr] s (execMemCorrected inst s) := by
  unfold execMemCorrected
  try extract_lets
  refine OutKeeps.ite (fun _ => ?_) (fun _ => ?_)
  · try extract_lets
    refine OutKeeps.next ?_
    refine Keeps.upd_events rfl ?_
    refine Keeps.via (State.post_keeps ..) rfl ?_
    exact Keeps.upd_corr rfl Keeps.refl
  · refine OutKeeps.next ?_
    exact Keeps.refl


theorem execSelfTestAndFill_keeps (die : Option DieIx) (badTins : List (Fin 13)) (badBanks : List (Fin 16)) (poolOk : Fin 3) (s : State) : OutKeeps [.regs, .events, .tins, .larder, .pool, .corr] s (execSelfTestAndFill die badTins badBanks poolOk s) := by
  unfold execSelfTestAndFill
  split
  · refine OutKeeps.ite (fun _ => ?_) (fun _ => ?_)
    · refine OutKeeps.next ?_
      exact Keeps.via (State.fillDie_keeps ..) rfl Keeps.refl
    · refine OutKeeps.next ?_
      exact Keeps.refl
  · refine OutKeeps.ite (fun _ => ?_) (fun _ => ?_)
    · refine OutKeeps.next ?_
      exact Keeps.via (State.fillHub_keeps ..) rfl Keeps.refl
    · refine OutKeeps.next ?_
      exact Keeps.refl


theorem execLarderWrite_keeps (addr : Nat) (data : List Byte) (dom : Dom) (posted : Bool) (poison : Bool) (err : MemErr) (s : State) : OutKeeps [.regs, .events, .larder, .corr, .answer, .free] s (execLarderWrite addr data dom posted poison err s) := by
  unfold execLarderWrite
  refine OutKeeps.ite (fun _ => ?_) (fun _ => ?_)
  · try extract_lets
    refine OutKeeps.next ?_
    try extract_lets
    refine Keeps.upd_answer rfl ?_
    exact Keeps.via (State.larderWrite_keeps ..) rfl Keeps.refl
  · refine OutKeeps.next ?_
    exact Keeps.upd_answer rfl Keeps.refl


theorem execLarderCheckerTest_keeps (bank : Fin 16) (activeOk : Bool) (standbyOk : Bool) (disagree : Bool) (s : State) : OutKeeps [.regs, .events, .larder, .corr] s (execLarderCheckerTest bank activeOk standbyOk disagree s) := by
  unfold execLarderCheckerTest
  refine OutKeeps.next ?_
  exact Keeps.via (State.checkerTest_keeps ..) rfl Keeps.refl


theorem execLarderRead_keeps (addr : Nat) (bytes : Nat) (dom : Dom) (err : MemErr) (s : State) : OutKeeps [.regs, .events, .larder, .corr, .answer, .free] s (execLarderRead addr bytes dom err s) := by
  unfold execLarderRead
  refine OutKeeps.ite (fun _ => ?_) (fun _ => ?_)
  · try extract_lets
    refine OutKeeps.next ?_
    try extract_lets
    refine Keeps.upd_answer rfl ?_
    exact Keeps.via (State.larderRead_keeps ..) rfl Keeps.refl
  · refine OutKeeps.next ?_
    exact Keeps.upd_answer rfl Keeps.refl


theorem execPoolSweep_keeps (s : State) : OutKeeps [.regs, .events, .pool] s (execPoolSweep s) := by
  unfold execPoolSweep
  try extract_lets
  refine OutKeeps.next ?_
  refine Keeps.ite (fun _ => ?_) (fun _ => ?_)
  · refine Keeps.via (State.post_keeps ..) rfl ?_
    refine Keeps.via (State.fset_keeps ..) rfl ?_
    exact Keeps.upd_pool rfl Keeps.refl
  · refine Keeps.via (State.fset_keeps ..) rfl ?_
    exact Keeps.upd_pool rfl Keeps.refl


end Sys2Proof.Machine
end

