-- ==== Sys2Proof/Laws/Keeps/Macq.lean ====
section
/-! SUPPORT. What the operations of Machine/Macq.lean may change, and that they keep the invariant. -/

namespace Sys2Proof.Machine

theorem State.cqLost_keeps (s : State) (d : Nat) : Keeps [.regs, .events] s (State.cqLost s d) := by
  unfold State.cqLost
  refine Keeps.via (State.postLimited_keeps ..) rfl ?_
  exact Keeps.via (State.fsat_keeps ..) rfl Keeps.refl


theorem State.setCq_keeps (s : State) (d : Nat) (k : Nat) (v : Cq) : Keeps [.mac] s (State.setCq s d k v) := by
  unfold State.setCq
  exact Keeps.upd_mac rfl Keeps.refl


theorem State.cqWrite_keeps (s : State) (d : Nat) (k : Nat) (e : Nat) : Keeps [.regs, .events, .larder, .corr, .mac, .free] s (State.cqWrite s d k e) := by
  unfold State.cqWrite
  try extract_lets
  refine Keeps.via (State.setCq_keeps ..) rfl ?_
  exact Keeps.via (State.larderWrite_keeps ..) rfl Keeps.refl


theorem State.cqPush_keeps (s : State) (d : Nat) (k : Nat) (e : Nat) : Keeps [.regs, .events, .larder, .pool, .corr, .mac, .free] s (State.cqPush s d k e) := by
  unfold State.cqPush
  try extract_lets
  refine Keeps.ite (fun _ => ?_) (fun _ => ?_)
  · exact Keeps.via (State.cqLost_keeps ..) rfl Keeps.refl
  · refine Keeps.ite (fun _ => ?_) (fun _ => ?_)
    · exact Keeps.via (State.cqWrite_keeps ..) rfl Keeps.refl
    · refine Keeps.ite (fun _ => ?_) (fun _ => ?_)
      · exact Keeps.via (State.poolPush_keeps ..) rfl Keeps.refl
      · exact Keeps.via (State.cqLost_keeps ..) rfl Keeps.refl


theorem State.updatePort_keeps (s : State) (d : Nat) (p : Nat) : Keeps [.regs, .events, .larder, .pool, .corr, .mac, .free] s (State.updatePort s d p) := by
  unfold State.updatePort
  try extract_lets
  refine Keeps.ite (fun _ => ?_) (fun _ => ?_)
  · exact Keeps.refl
  · refine Keeps.via (State.cqPush_keeps ..) rfl ?_
    refine Keeps.via (State.post_keeps ..) rfl ?_
    exact Keeps.via (State.fset_keeps ..) rfl Keeps.refl


theorem State.updateLinks_keeps (s : State) (d : Nat) : Keeps [.regs, .events, .larder, .pool, .corr, .mac, .free] s (State.updateLinks s d) := by
  unfold State.updateLinks
  refine Keeps.foldl (fun _ _ => ?_) ?_
  · exact Keeps.via (State.updatePort_keeps ..) rfl Keeps.refl
  · exact Keeps.refl


theorem State.setMport_keeps (s : State) (d : Nat) (p : Nat) (v : PortSt) : Keeps [.mac] s (State.setMport s d p v) := by
  unfold State.setMport
  exact Keeps.upd_mac rfl Keeps.refl


theorem State.stat_keeps (s : State) (d : Nat) (p : Nat) (i : Nat) (n : Nat) : Keeps [.regs, .mac] s (State.stat s d p i n) := by
  unfold State.stat
  try extract_lets
  refine Keeps.ite (fun _ => ?_) (fun _ => ?_)
  · refine Keeps.via (State.fset_keeps ..) rfl ?_
    exact Keeps.via (State.setMport_keeps ..) rfl Keeps.refl
  · exact Keeps.via (State.setMport_keeps ..) rfl Keeps.refl


theorem State.cqDrain_keeps (d k n : Nat) (s : State) : Keeps [.regs, .events, .larder, .pool, .corr, .mac, .free] s (State.cqDrain d k n s) := by
  induction n generalizing s with
  | zero => exact Keeps.refl
  | succ n ih =>
    unfold State.cqDrain
    split
    · refine Keeps.ite (fun _ => ?_) (fun _ => ?_)
      · exact Keeps.trans (ih _) (Keeps.via (State.cqWrite_keeps ..) rfl (Keeps.via (State.poolPop_keeps ..) rfl Keeps.refl))
      · exact Keeps.refl
    · exact Keeps.refl


theorem State.cqReset_keeps (s : State) (d : Nat) (k : Nat) : Keeps [.regs, .pool, .mac] s (State.cqReset s d k) := by
  unfold State.cqReset
  try extract_lets
  refine Keeps.ite (fun _ => ?_) (fun _ => ?_)
  · exact Keeps.refl
  · try extract_lets
    refine Keeps.via (State.fset_keeps ..) rfl ?_
    refine Keeps.via (State.setCq_keeps ..) rfl ?_
    refine Keeps.via (State.fset_keeps ..) rfl ?_
    exact Keeps.upd_pool rfl Keeps.refl


theorem execMacCqReset_keeps (d : DieIx) (k : Fin 13) (s : State) : OutKeeps [.regs, .pool, .mac] s (execMacCqReset d k s) := by
  unfold execMacCqReset
  refine OutKeeps.next ?_
  exact Keeps.via (State.cqReset_keeps ..) rfl Keeps.refl


theorem execMacCqHead_keeps (d : DieIx) (k : Fin 13) (head : Fin 64) (s : State) : OutKeeps [.regs, .events, .larder, .pool, .corr, .mac, .free] s (execMacCqHead d k head s) := by
  unfold execMacCqHead
  refine OutKeeps.next ?_
  refine Keeps.via (State.cqDrain_keeps ..) rfl ?_
  exact Keeps.via (State.setCq_keeps ..) rfl Keeps.refl


end Sys2Proof.Machine
end

