-- ==== Sys2Proof/Laws/Keeps/Halt.lean ====
section
/-! SUPPORT. What the operations of Machine/Halt.lean may change, and that they keep the invariant. -/

namespace Sys2Proof.Machine

theorem State.loadHaltRegs_keeps (s : State) (active : Bool) : Keeps [.regs] s (State.loadHaltRegs s active) := by
  unfold State.loadHaltRegs
  try extract_lets
  refine Keeps.via (State.setReg_keeps ..) rfl ?_
  refine Keeps.via (State.setReg_keeps ..) rfl ?_
  refine Keeps.via (State.setReg_keeps ..) rfl ?_
  refine Keeps.via (State.setReg_keeps ..) rfl ?_
  exact Keeps.via (State.setReg_keeps ..) rfl Keeps.refl


theorem State.securityHalt_keeps (s : State) (cause : Nat) (die : Nat) (chan : Nat) (level : Nat) (addr : Nat) (node : Nat) : Keeps [.regs, .events, .tins, .larder, .pool, .corr, .dram, .breadbox, .pads, .mac, .cfg, .free] s (State.securityHalt s cause die chan level addr node) := by
  unfold State.securityHalt
  refine Keeps.ite (fun _ => ?_) (fun _ => ?_)
  · exact Keeps.refl
  · try extract_lets
    refine Keeps.foldl (fun _ _ => ?_) ?_
    · exact Keeps.via (State.updateLinks_keeps ..) rfl Keeps.refl
    · try extract_lets
      refine Keeps.upd_cfg rfl ?_
      refine Keeps.via (State.fset_keeps ..) rfl ?_
      refine Keeps.via (State.fset_keeps ..) rfl ?_
      refine Keeps.via (State.loadHaltRegs_keeps ..) rfl ?_
      refine Keeps.foldl (fun _ _ => ?_) ?_
      · refine Keeps.ite (fun _ => ?_) (fun _ => ?_)
        · exact Keeps.via (State.fset_keeps ..) rfl Keeps.refl
        · exact Keeps.refl
      · refine Keeps.upd_tins_dram_breadbox_pads rfl ?_ ?_ ?_
        rotate_left
        · first | (dsimp only; exact writeBytes_wf) | exact writeBytes_wf | exact memDrop_wf | exact fun h => h | exact fun _ => rfl | (dsimp only; exact memDrop_wf)
        · first | (dsimp only; exact writeBytes_wf) | exact writeBytes_wf | exact memDrop_wf | exact fun h => h | exact fun _ => rfl | (dsimp only; exact memDrop_wf)
        exact Keeps.refl


theorem State.setPad_keeps (s : State) (i : Nat) (v : Pad) : Keeps [.pads] s (State.setPad s i v) := by
  unfold State.setPad
  exact Keeps.upd_pads rfl Keeps.refl


end Sys2Proof.Machine
end

