-- ==== Sys2Proof/Laws/Keeps/Noc.lean ====
section
/-! SUPPORT. What the operations of Machine/Noc.lean may change, and that they keep the invariant. -/

namespace Sys2Proof.Machine

theorem State.launch_keeps (s : State) (p : Packet) (loc : Nat) : Keeps [.noc] s (State.launch s p loc) := by
  unfold State.launch
  exact Keeps.upd_noc rfl Keeps.refl


theorem State.injectResp_keeps (s : State) (id : Nat) (d : Nat) (r : Nat) (p : Packet) : Keeps [.tins, .noc] s (State.injectResp s id d r p) := by
  unfold State.injectResp
  try extract_lets
  split
  · exact Keeps.refl
  · refine Keeps.via (State.launch_keeps ..) rfl ?_
    exact Keeps.via (State.setTin_keeps ..) rfl Keeps.refl


theorem State.lostPosted_keeps (s : State) (f : Fld) (key : Nat) (node : Nat) : Keeps [.regs, .events] s (State.lostPosted s f key node) := by
  unfold State.lostPosted
  refine Keeps.via (State.postLimited_keeps ..) rfl ?_
  exact Keeps.via (State.fsat_keeps ..) rfl Keeps.refl


theorem State.discard_keeps (s : State) (node : Nat) : Keeps [.regs, .events] s (State.discard s node) := by
  unfold State.discard
  exact Keeps.via (State.lostPosted_keeps ..) rfl Keeps.refl


theorem State.injectReq_keeps (s : State) (id : Nat) (n : Node) (p : Packet) : Keeps [.regs, .events, .noc, .answer] s (State.injectReq s id n p) := by
  unfold State.injectReq
  try extract_lets
  refine Keeps.ite (fun _ => ?_) (fun _ => ?_)
  · exact Keeps.upd_answer rfl Keeps.refl
  · refine Keeps.ite (fun _ => ?_) (fun _ => ?_)
    · exact Keeps.upd_answer rfl Keeps.refl
    · split
      · refine Keeps.ite (fun _ => ?_) (fun _ => ?_)
        · exact Keeps.via (State.discard_keeps ..) rfl Keeps.refl
        · exact Keeps.upd_answer rfl Keeps.refl
      · try extract_lets
        refine Keeps.ite (fun _ => ?_) (fun _ => ?_)
        · exact Keeps.refl
        · try extract_lets
          refine Keeps.ite (fun _ => ?_) (fun _ => ?_)
          · exact Keeps.via (State.launch_keeps ..) rfl Keeps.refl
          · refine Keeps.upd_noc rfl ?_
            exact Keeps.via (State.launch_keeps ..) rfl Keeps.refl


theorem State.inject_keeps (s : State) (id : Nat) (p : Packet) : Keeps [.regs, .events, .tins, .noc, .answer] s (State.inject s id p) := by
  unfold State.inject
  split
  · exact Keeps.refl
  · split
    · exact Keeps.via (State.injectResp_keeps ..) rfl Keeps.refl
    · exact Keeps.refl
    · refine Keeps.ite (fun _ => ?_) (fun _ => ?_)
      · exact Keeps.via (State.injectReq_keeps ..) rfl Keeps.refl
      · exact Keeps.refl


theorem State.dropFlight_keeps (s : State) (f : Nat) : Keeps [.noc] s (State.dropFlight s f) := by
  unfold State.dropFlight
  exact Keeps.upd_noc rfl Keeps.refl


theorem State.answerAt_via {M : List Part} {s t : State} {f : Nat} {p : Packet} {loc src status detail : Nat} {lost : State → State}
    (hs : Part.sub [.noc] M = true) (hl : ∀ u, Keeps M u (lost u)) (k : Keeps M s t) :
    Keeps M s (State.answerAt t f p loc src status detail lost) := by
  unfold State.answerAt
  refine Keeps.ite (fun _ => ?_) (fun _ => ?_)
  · exact Keeps.trans (hl _) (Keeps.via (State.dropFlight_keeps ..) (Part.sub_trans rfl hs) k)
  · exact Keeps.via (State.launch_keeps ..) (Part.sub_trans rfl hs) (Keeps.via (State.dropFlight_keeps ..) (Part.sub_trans rfl hs) k)


theorem State.countWait_keeps (s : State) (f : Nat) (p : Packet) (a : Nat) (b : Nat) : Keeps [.noc] s (State.countWait s f p a b) := by
  unfold State.countWait
  try extract_lets
  exact Keeps.upd_noc rfl Keeps.refl


theorem State.loseRouter_keeps (s : State) (i : Nat) : Keeps [.regs, .events, .noc] s (State.loseRouter s i) := by
  unfold State.loseRouter
  try extract_lets
  refine Keeps.foldl (fun _ _ => ?_) ?_
  · refine Keeps.ite (fun _ => ?_) (fun _ => ?_)
    · exact Keeps.via (State.discard_keeps ..) rfl Keeps.refl
    · exact Keeps.refl
  · exact Keeps.upd_noc rfl Keeps.refl


theorem State.retireBench_keeps (s : State) (d : Nat) (k : Nat) : Keeps [.regs, .events, .noc] s (State.retireBench s d k) := by
  unfold State.retireBench
  refine Keeps.ite (fun _ => ?_) (fun _ => ?_)
  · exact Keeps.refl
  · try extract_lets
    refine Keeps.upd_noc rfl ?_
    refine Keeps.via (State.post_keeps ..) rfl ?_
    exact Keeps.via (State.fset_keeps ..) rfl Keeps.refl


theorem State.markSpine_keeps (s : State) (i : Nat) : Keeps [.regs] s (State.markSpine s i) := by
  unfold State.markSpine
  exact Keeps.via (State.fset_keeps ..) rfl Keeps.refl


theorem State.failSpine_keeps (s : State) (i : Nat) : Keeps [.regs, .events, .noc] s (State.failSpine s i) := by
  unfold State.failSpine
  try extract_lets
  refine Keeps.ite (fun _ => ?_) (fun _ => ?_)
  · exact Keeps.refl
  · refine Keeps.ite (fun _ => ?_) (fun _ => ?_)
    · refine Keeps.ite (fun _ => ?_) (fun _ => ?_)
      · try extract_lets
        refine Keeps.foldl (fun _ _ => ?_) ?_
        · refine Keeps.ite (fun _ => ?_) (fun _ => ?_)
          · exact Keeps.via (State.retireBench_keeps ..) rfl Keeps.refl
          · exact Keeps.refl
        · refine Keeps.upd_noc rfl ?_
          refine Keeps.via (State.post_keeps ..) rfl ?_
          refine Keeps.via (State.loseRouter_keeps ..) rfl ?_
          exact Keeps.via (State.markSpine_keeps ..) rfl Keeps.refl
      · refine Keeps.via (State.post_keeps ..) rfl ?_
        exact Keeps.via (State.markSpine_keeps ..) rfl Keeps.refl
    · refine Keeps.ite (fun _ => ?_) (fun _ => ?_)
      · try extract_lets
        refine Keeps.upd_noc rfl ?_
        refine Keeps.via (State.post_keeps ..) rfl ?_
        refine Keeps.via (State.loseRouter_keeps ..) rfl ?_
        refine Keeps.via (State.fset_keeps ..) rfl ?_
        refine Keeps.via (State.fset_keeps ..) rfl ?_
        exact Keeps.via (State.markSpine_keeps ..) rfl Keeps.refl
      · try extract_lets
        refine Keeps.foldl (fun _ _ => ?_) ?_
        · refine Keeps.ite (fun _ => ?_) (fun _ => ?_)
          · exact Keeps.via (State.retireBench_keeps ..) rfl Keeps.refl
          · exact Keeps.refl
        · refine Keeps.upd_noc rfl ?_
          refine Keeps.via (State.post_keeps ..) rfl ?_
          refine Keeps.via (State.loseRouter_keeps ..) rfl ?_
          exact Keeps.via (State.markSpine_keeps ..) rfl Keeps.refl


theorem State.noRoute_keeps (s : State) (f : Nat) (p : Packet) (loc : Nat) : Keeps [.regs, .events, .noc] s (State.noRoute s f p loc) := by
  unfold State.noRoute
  try extract_lets
  refine Keeps.ite (fun _ => ?_) (fun _ => ?_)
  · refine State.answerAt_via rfl (fun _ => ?_) ?_
    · exact Keeps.via (State.lostPosted_keeps ..) rfl Keeps.refl
    · exact Keeps.refl
  · refine Keeps.via (State.post_keeps ..) rfl ?_
    refine Keeps.upd_noc rfl ?_
    refine State.answerAt_via rfl (fun _ => ?_) ?_
    · exact Keeps.via (State.lostPosted_keeps ..) rfl Keeps.refl
    · exact Keeps.refl


theorem State.moveUnit_keeps (s : State) (f : Nat) (u : Nat) (b : Nat) (v : Flight) : Keeps [.noc] s (State.moveUnit s f u b v) := by
  unfold State.moveUnit
  try extract_lets
  refine Keeps.upd_noc rfl ?_
  exact Keeps.via (State.countWait_keeps ..) rfl Keeps.refl


theorem State.hopHeader_keeps (s : State) (f : Nat) (v : Flight) : Keeps [.regs, .events, .noc] s (State.hopHeader s f v) := by
  unfold State.hopHeader
  try extract_lets
  split
  · refine State.answerAt_via rfl (fun _ => ?_) ?_
    · refine Keeps.ite (fun _ => ?_) (fun _ => ?_)
      · exact Keeps.refl
      · exact Keeps.via (State.discard_keeps ..) rfl Keeps.refl
    · exact Keeps.refl
  · try extract_lets
    refine Keeps.ite (fun _ => ?_) (fun _ => ?_)
    · exact Keeps.refl
    · refine Keeps.ite (fun _ => ?_) (fun _ => ?_)
      · refine State.answerAt_via rfl (fun _ => ?_) ?_
        · refine Keeps.ite (fun _ => ?_) (fun _ => ?_)
          · exact Keeps.refl
          · exact Keeps.via (State.discard_keeps ..) rfl Keeps.refl
        · exact Keeps.refl
      · refine Keeps.ite (fun _ => ?_) (fun _ => ?_)
        · refine Keeps.ite (fun _ => ?_) (fun _ => ?_)
          · refine Keeps.via (State.discard_keeps ..) rfl ?_
            exact Keeps.via (State.dropFlight_keeps ..) rfl Keeps.refl
          · exact Keeps.via (State.dropFlight_keeps ..) rfl Keeps.refl
        · split
          · exact Keeps.via (State.noRoute_keeps ..) rfl Keeps.refl
          · refine Keeps.ite (fun _ => ?_) (fun _ => ?_)
            · exact Keeps.via (State.moveUnit_keeps ..) rfl Keeps.refl
            · exact Keeps.refl


theorem State.rerouteStep_keeps (s : State) : Keeps [.events, .noc, .dram] s (State.rerouteStep s) := by
  unfold State.rerouteStep
  try extract_lets
  refine Keeps.via (State.post_keeps ..) rfl ?_
  refine Keeps.upd_noc_dram rfl ?_ ?_
  rotate_left
  · first | exact fun h => h | exact memDrop_wf | exact writeBytes_wf | exact fun _ => rfl | (dsimp only; exact memDrop_wf)
  exact Keeps.refl


theorem execBenchWireSpared_keeps (d : DieIx) (k : Fin 4) (out : Bool) (z : Fin 32) (w : Fin 12) (s : State) : OutKeeps [.regs, .events, .bench] s (execBenchWireSpared d k out z w s) := by
  unfold execBenchWireSpared
  try extract_lets
  refine OutKeeps.ite (fun _ => ?_) (fun _ => ?_)
  · refine OutKeeps.next ?_
    refine Keeps.via (State.post_keeps ..) rfl ?_
    refine Keeps.via (State.fsat_keeps ..) rfl ?_
    exact Keeps.upd_bench rfl Keeps.refl
  · refine OutKeeps.next ?_
    exact Keeps.refl


theorem execNocInject_keeps (id : Fin 4096) (p : Packet) (s : State) : OutKeeps [.regs, .events, .tins, .noc, .answer] s (execNocInject id p s) := by
  unfold execNocInject
  split
  · try extract_lets
    refine OutKeeps.ite (fun _ => ?_) (fun _ => ?_)
    · refine OutKeeps.next ?_
      exact Keeps.refl
    · refine OutKeeps.ite (fun _ => ?_) (fun _ => ?_)
      · refine OutKeeps.next ?_
        exact Keeps.via (State.inject_keeps ..) rfl Keeps.refl
      · refine OutKeeps.next ?_
        exact Keeps.via (State.setTin_keeps ..) rfl Keeps.refl
  · refine OutKeeps.next ?_
    exact Keeps.via (State.inject_keeps ..) rfl Keeps.refl


theorem execProofingGateRelease_keeps (t : TinIx) (p : Fin 385) (s : State) : OutKeeps [.regs, .events, .tins, .noc, .answer] s (execProofingGateRelease t p s) := by
  unfold execProofingGateRelease
  try extract_lets
  refine OutKeeps.ite (fun _ => ?_) (fun _ => ?_)
  · try extract_lets
    split
    · refine OutKeeps.ite (fun _ => ?_) (fun _ => ?_)
      · refine OutKeeps.next ?_
        exact Keeps.via (State.setTin_keeps ..) rfl Keeps.refl
      · refine OutKeeps.next ?_
        exact Keeps.refl
    · refine OutKeeps.next ?_
      exact Keeps.refl
  · split
    · refine OutKeeps.ite (fun _ => ?_) (fun _ => ?_)
      · refine OutKeeps.next ?_
        refine Keeps.via (State.inject_keeps ..) rfl ?_
        exact Keeps.via (State.setTin_keeps ..) rfl Keeps.refl
      · refine OutKeeps.next ?_
        exact Keeps.refl
    · refine OutKeeps.next ?_
      exact Keeps.refl


theorem execBenchDozenSpared_keeps (d : DieIx) (k : Fin 4) (out : Bool) (z : Fin 32) (s : State) : OutKeeps [.regs, .events, .bench] s (execBenchDozenSpared d k out z s) := by
  unfold execBenchDozenSpared
  try extract_lets
  refine OutKeeps.ite (fun _ => ?_) (fun _ => ?_)
  · refine OutKeeps.next ?_
    refine Keeps.via (State.post_keeps ..) rfl ?_
    refine Keeps.via (State.fset_keeps ..) rfl ?_
    exact Keeps.upd_bench rfl Keeps.refl
  · refine OutKeeps.next ?_
    exact Keeps.refl


theorem execQuarantineEnd_keeps (i : Nat) (s : State) : OutKeeps [.noc] s (execQuarantineEnd i s) := by
  unfold execQuarantineEnd
  refine OutKeeps.next ?_
  exact Keeps.upd_noc rfl Keeps.refl


theorem execRerouteStep_keeps (s : State) : OutKeeps [.events, .noc, .dram] s (execRerouteStep s) := by
  unfold execRerouteStep
  refine OutKeeps.ite (fun _ => ?_) (fun _ => ?_)
  · refine OutKeeps.next ?_
    exact Keeps.via (State.rerouteStep_keeps ..) rfl Keeps.refl
  · refine OutKeeps.next ?_
    exact Keeps.refl


theorem execRouterHop_keeps (f : Nat) (u : Nat) (err : MemErr) (s : State) : OutKeeps [.regs, .events, .corr, .noc] s (execRouterHop f u err s) := by
  unfold execRouterHop
  split
  · refine OutKeeps.next ?_
    exact Keeps.refl
  · refine OutKeeps.ite (fun _ => ?_) (fun _ => ?_)
    · refine OutKeeps.next ?_
      exact Keeps.refl
    · try extract_lets
      refine OutKeeps.ite (fun _ => ?_) (fun _ => ?_)
      · refine OutKeeps.ite (fun _ => ?_) (fun _ => ?_)
        · refine OutKeeps.next ?_
          refine Keeps.via (State.post_keeps ..) rfl ?_
          refine Keeps.via (State.fsat_keeps ..) rfl ?_
          exact Keeps.via (State.dropFlight_keeps ..) rfl Keeps.refl
        · refine OutKeeps.ite (fun _ => ?_) (fun _ => ?_)
          · refine OutKeeps.next ?_
            refine Keeps.via (State.hopHeader_keeps ..) rfl ?_
            refine Keeps.ite (fun _ => ?_) (fun _ => ?_)
            · exact Keeps.via (State.countCorr_keeps ..) rfl Keeps.refl
            · exact Keeps.refl
          · refine OutKeeps.next ?_
            refine Keeps.ite (fun _ => ?_) (fun _ => ?_)
            · exact Keeps.via (State.countCorr_keeps ..) rfl Keeps.refl
            · exact Keeps.refl
      · split
        · refine OutKeeps.next ?_
          refine Keeps.ite (fun _ => ?_) (fun _ => ?_)
          · exact Keeps.via (State.countCorr_keeps ..) rfl Keeps.refl
          · exact Keeps.refl
        · try extract_lets
          refine OutKeeps.ite (fun _ => ?_) (fun _ => ?_)
          · refine OutKeeps.next ?_
            refine Keeps.via (State.moveUnit_keeps ..) rfl ?_
            refine Keeps.ite (fun _ => ?_) (fun _ => ?_)
            · exact Keeps.via (State.countCorr_keeps ..) rfl Keeps.refl
            · exact Keeps.refl
          · refine OutKeeps.next ?_
            refine Keeps.ite (fun _ => ?_) (fun _ => ?_)
            · exact Keeps.via (State.countCorr_keeps ..) rfl Keeps.refl
            · exact Keeps.refl


theorem execBenchLinkRetired_keeps (d : DieIx) (k : Fin 4) (s : State) : OutKeeps [.regs, .events, .noc] s (execBenchLinkRetired d k s) := by
  unfold execBenchLinkRetired
  refine OutKeeps.ite (fun _ => ?_) (fun _ => ?_)
  · refine OutKeeps.next ?_
    exact Keeps.via (State.retireBench_keeps ..) rfl Keeps.refl
  · refine OutKeeps.next ?_
    exact Keeps.refl


theorem execSpineRouterRetired_keeps (i : SpineIx) (s : State) : OutKeeps [.regs, .events, .noc] s (execSpineRouterRetired i s) := by
  unfold execSpineRouterRetired
  refine OutKeeps.ite (fun _ => ?_) (fun _ => ?_)
  · refine OutKeeps.next ?_
    exact Keeps.via (State.failSpine_keeps ..) rfl Keeps.refl
  · refine OutKeeps.next ?_
    exact Keeps.refl


theorem execSpineRouterSpared_keeps (i : Fin 12) (s : State) : OutKeeps [.regs, .events, .noc] s (execSpineRouterSpared i s) := by
  unfold execSpineRouterSpared
  refine OutKeeps.ite (fun _ => ?_) (fun _ => ?_)
  · refine OutKeeps.next ?_
    exact Keeps.via (State.failSpine_keeps ..) rfl Keeps.refl
  · refine OutKeeps.next ?_
    exact Keeps.refl


end Sys2Proof.Machine
end

