-- ==== Sys2Proof/Laws/Keeps/Operands.lean ====
section
/-! SUPPORT. What the operations of Machine/Operands.lean may change, and that they keep the invariant. -/

namespace Sys2Proof.Machine

theorem State.setChan_keeps (s : State) (c : Nat) (v : ChanSt) : Keeps [.dram] s (State.setChan s c v) := by
  unfold State.setChan
  refine Keeps.upd_dram rfl ?_ ?_
  rotate_left
  · first | exact fun h => h | exact memDrop_wf | exact writeBytes_wf | exact fun _ => rfl | (dsimp only; exact memDrop_wf)
  exact Keeps.refl


end Sys2Proof.Machine
end

