-- ==== Sys2Proof/Laws/Keeps/Seal.lean ====
section
/-! SUPPORT. What the operations of Machine/Seal.lean may change, and that they keep the invariant. -/

namespace Sys2Proof.Machine

theorem State.fromPort_keeps (s : State) (c : Nat) (p : Packet) : Keeps [.noc] s (State.fromPort s c p) := by
  unfold State.fromPort
  exact Keeps.via (State.launch_keeps ..) rfl Keeps.refl


theorem State.setLinePoison_keeps (s : State) (a : Nat) (p : Bool) : Keeps [.dram] s (State.setLinePoison s a p) := by
  unfold State.setLinePoison
  refine Keeps.upd_dram rfl ?_ ?_
  rotate_left
  · first | exact fun h => h | exact memDrop_wf | exact writeBytes_wf | exact fun _ => rfl | (dsimp only; exact memDrop_wf)
  exact Keeps.refl


theorem State.takeCounter_keeps (s : State) (c : Nat) : ∀ p, State.takeCounter s c = some p → Keeps [.dram] s p.2 := by
  intro p hp
  unfold State.takeCounter at hp
  dsimp only at hp
  split at hp
  · cases hp
  · cases hp; exact State.setChan_keeps ..

theorem State.takeCounter_getD_keeps (s : State) (c : Nat) : Keeps [.dram] s (((State.takeCounter s c).map (·.2)).getD s) := by
  cases h : State.takeCounter s c with
  | none => exact Keeps.refl
  | some p => exact State.takeCounter_keeps s c p h


theorem State.setCtr_keeps (s : State) (l : Nat) (g : Nat) (x : Nat) (v : Nat) : Keeps [.dram] s (State.setCtr s l g x v) := by
  unfold State.setCtr
  refine Keeps.upd_dram rfl ?_ ?_
  rotate_left
  · first | exact fun h => h | exact memDrop_wf | exact writeBytes_wf | exact fun _ => rfl | (dsimp only; exact memDrop_wf)
  exact Keeps.refl


theorem State.poisonSubtree_keeps (s : State) (l : Nat) (g : Nat) (x : Nat) : Keeps [.regs, .events, .larder, .dram] s (State.poisonSubtree s l g x) := by
  unfold State.poisonSubtree
  extract_lets h k s1 s2 wrote s3
  have h2 : Keeps [.regs, .larder, .dram] s s2 := by
    refine Keeps.ite (fun _ => ?_) (fun _ => ?_)
    · refine Keeps.upd_larder rfl ?_ ?_
      rotate_left
      · first | exact Larder.write_setPoison_wf | exact fun h => h
      exact Keeps.via (State.setCtr_keeps ..) rfl Keeps.refl
    · exact Keeps.via (State.setCtr_keeps ..) rfl Keeps.refl
  have hw : ∀ a, Keeps [.regs, .larder, .dram] s a → Keeps [.regs, .larder, .dram] s (wrote a) := fun a ha =>
    Keeps.via (State.takeCounter_getD_keeps ..) rfl ha
  have h3 : Keeps [.regs, .larder, .dram] s s3 := by
    refine Keeps.ite (fun _ => h2) (fun _ => hw _ ?_)
    have h4 := fun a => Keeps.foldl (l := List.range 8) (fun u i => Keeps.via (State.setCtr_keeps u (l - 1) g (8 * x + i) poisonCtr) rfl Keeps.refl)
      (Keeps.via (State.setLinePoison_keeps _ a false) rfl
        (Keeps.via (State.setLinePoison_keeps s2 (s.ctrAddr l k x) false) rfl h2))
    split
    · exact h4 _
    · exact hw _ (h4 _)
  exact Keeps.via (State.post_keeps ..) rfl (Keeps.via (State.fsat_keeps ..) rfl (Keeps.via h3 rfl Keeps.refl))

theorem State.touch_keeps (n : Nat) (s : State) (l g x : Nat) (dirty : Bool) : Keeps [.regs, .dram] s (State.touch n s l g x dirty) := by
  induction n generalizing s l g x dirty with
  | zero => exact Keeps.refl
  | succ n ih =>
    have h : ∀ (c : Bool) y w, Keeps [.regs, .dram] s (State.setChan (if c then s else s.fsat y 1) (s.home l g x) w) := fun c y w =>
      Keeps.via (State.setChan_keeps ..) rfl (Keeps.ite (fun _ => Keeps.refl) (fun _ => Keeps.via (State.fsat_keeps ..) rfl Keeps.refl))
    unfold State.touch
    dsimp only
    split
    · split
      · exact h _ _ _
      · rename_i m s2 e
        have h2 : Keeps [.regs, .dram] s s2 := Keeps.via (State.takeCounter_keeps _ _ _ e) rfl (h _ _ _)
        have h3 : ∀ (c : Prop) [Decidable c] a b d e, Keeps [.regs, .dram] s
            (State.setCtr (if c then s2 else ((s2.takeCounter (s.home l g x)).map (·.2)).getD s2) a b d e) := fun c _ a b d e =>
          Keeps.via (State.setCtr_keeps ..) rfl (Keeps.ite (fun _ => h2) (fun _ => Keeps.via (State.takeCounter_getD_keeps ..) rfl h2))
        exact Keeps.ite (fun _ => Keeps.trans (ih _ _ _ _ _) (h3 _ _ _ _ _)) (fun _ => h3 _ _ _ _ _)
    · exact h _ _ _


theorem State.touchPath_keeps (s : State) (g : Nat) (n : Nat) (dirty : Bool) : Keeps [.regs, .dram] s (State.touchPath s g n dirty) := by
  unfold State.touchPath
  refine Keeps.via (State.touch_keeps ..) rfl ?_
  refine Keeps.via (State.touch_keeps ..) rfl ?_
  exact Keeps.via (State.touch_keeps ..) rfl Keeps.refl


theorem State.proofLost_keeps (s : State) (c : Nat) (req : Packet) : Keeps [.regs, .events, .tins] s (State.proofLost s c req) := by
  unfold State.proofLost
  try extract_lets
  split
  · try extract_lets
    refine Keeps.via (State.post_keeps ..) rfl ?_
    refine Keeps.via (State.setTin_keeps ..) rfl ?_
    exact Keeps.via (State.fsat_keeps ..) rfl Keeps.refl
  · exact Keeps.via (State.fsat_keeps ..) rfl Keeps.refl


theorem State.sealedReadProof_keeps (s : State) (c : Nat) (i : Nat) (tagOk : Bool) : Keeps [.regs, .events, .tins, .larder, .pool, .corr, .noc, .dram, .breadbox, .pads, .mac, .cfg, .free] s (State.sealedReadProof s c i tagOk) := by
  unfold State.sealedReadProof
  split
  · exact Keeps.refl
  · try extract_lets
    refine Keeps.ite (fun _ => ?_) (fun _ => ?_)
    · exact Keeps.refl
    · first | split | (dsimp +zetaDelta only; split)
      · refine Keeps.ite (fun _ => ?_) (fun _ => ?_)
        · exact Keeps.refl
        · refine Keeps.via (State.fromPort_keeps ..) rfl ?_
          exact Keeps.via (State.setChan_keeps ..) rfl Keeps.refl
      · try extract_lets
        refine Keeps.ite (fun _ => ?_) (fun _ => ?_)
        · refine Keeps.via (State.proofLost_keeps ..) rfl ?_
          refine Keeps.via (State.poisonSubtree_keeps ..) rfl ?_
          exact Keeps.via (State.setChan_keeps ..) rfl Keeps.refl
        · refine Keeps.via (State.fromPort_keeps ..) rfl ?_
          refine Keeps.via (State.poisonSubtree_keeps ..) rfl ?_
          exact Keeps.via (State.setChan_keeps ..) rfl Keeps.refl
      · refine Keeps.ite (fun _ => ?_) (fun _ => ?_)
        · refine Keeps.ite (fun _ => ?_) (fun _ => ?_)
          · refine Keeps.via (State.proofLost_keeps ..) rfl ?_
            exact Keeps.via (State.setChan_keeps ..) rfl Keeps.refl
          · refine Keeps.via (State.fromPort_keeps ..) rfl ?_
            exact Keeps.via (State.setChan_keeps ..) rfl Keeps.refl
        · refine Keeps.ite (fun _ => ?_) (fun _ => ?_)
          · exact Keeps.via (State.securityHalt_keeps ..) rfl Keeps.refl
          · try extract_lets
            refine Keeps.ite (fun _ => ?_) (fun _ => ?_)
            · refine Keeps.via (State.fromPort_keeps ..) rfl ?_
              refine Keeps.foldl (fun _ _ => ?_) ?_
              · exact Keeps.via (State.touchPath_keeps ..) rfl Keeps.refl
              · exact Keeps.via (State.setChan_keeps ..) rfl Keeps.refl
            · refine Keeps.via (State.fromPort_keeps ..) rfl ?_
              refine Keeps.foldl (fun _ _ => ?_) ?_
              · exact Keeps.via (State.touchPath_keeps ..) rfl Keeps.refl
              · exact Keeps.via (State.setChan_keeps ..) rfl Keeps.refl


theorem State.bulkClock_keeps (s : State) (n : Nat) : Keeps [.dram, .free] s (State.bulkClock s n) := by
  unfold State.bulkClock
  try extract_lets
  refine Keeps.foldl (fun _ _ => ?_) ?_
  · refine Keeps.ite (fun _ => ?_) (fun _ => ?_)
    · exact Keeps.via (State.setChan_keeps ..) rfl Keeps.refl
    · exact Keeps.refl
  · exact Keeps.via (State.takeFree_keeps ..) rfl Keeps.refl


theorem State.drawKeys_keeps (s : State) (c : Nat) : Keeps [.dram, .free] s (State.drawKeys s c) := by
  unfold State.drawKeys
  try extract_lets
  refine Keeps.via (State.setChan_keeps ..) rfl ?_
  exact Keeps.via (State.takeFree_keeps ..) rfl Keeps.refl


theorem State.counterRequest_keeps (s : State) (c : Nat) (l : Nat) (g : Nat) (x : Nat) (err : MemErr) (tagOk : Bool) (mirror : MemErr) (mirrorOk : Bool) : Keeps [.regs, .events, .tins, .larder, .pool, .corr, .dram, .breadbox, .pads, .mac, .cfg, .free] s (State.counterRequest s c l g x err tagOk mirror mirrorOk) := by
  unfold State.counterRequest
  try extract_lets
  refine Keeps.ite (fun _ => ?_) (fun _ => ?_)
  · exact Keeps.refl
  · refine Keeps.ite (fun _ => ?_) (fun _ => ?_)
    · exact Keeps.via (State.poisonSubtree_keeps ..) rfl Keeps.refl
    · refine Keeps.ite (fun _ => ?_) (fun _ => ?_)
      · exact Keeps.refl
      · refine Keeps.ite (fun _ => ?_) (fun _ => ?_)
        · exact Keeps.via (State.touch_keeps ..) rfl Keeps.refl
        · refine Keeps.ite (fun _ => ?_) (fun _ => ?_)
          · exact Keeps.via (State.poisonSubtree_keeps ..) rfl Keeps.refl
          · try extract_lets
            refine Keeps.ite (fun _ => ?_) (fun _ => ?_)
            · refine Keeps.ite (fun _ => ?_) (fun _ => ?_)
              · refine Keeps.via (State.poisonSubtree_keeps ..) rfl ?_
                refine Keeps.ite (fun _ => ?_) (fun _ => ?_)
                · refine Keeps.via (State.countCorr_keeps ..) rfl ?_
                  exact Keeps.via (State.fsat_keeps ..) rfl Keeps.refl
                · exact Keeps.refl
              · refine Keeps.ite (fun _ => ?_) (fun _ => ?_)
                · refine Keeps.via (State.securityHalt_keeps ..) rfl ?_
                  refine Keeps.ite (fun _ => ?_) (fun _ => ?_)
                  · refine Keeps.via (State.countCorr_keeps ..) rfl ?_
                    exact Keeps.via (State.fsat_keeps ..) rfl Keeps.refl
                  · exact Keeps.refl
                · split
                  · refine Keeps.ite (fun _ => ?_) (fun _ => ?_)
                    · refine Keeps.via (State.countCorr_keeps ..) rfl ?_
                      exact Keeps.via (State.fsat_keeps ..) rfl Keeps.refl
                    · exact Keeps.refl
                  · try extract_lets
                    refine Keeps.via (State.post_keeps ..) rfl ?_
                    refine Keeps.via (State.fsat_keeps ..) rfl ?_
                    refine Keeps.via (State.touch_keeps ..) rfl ?_
                    refine Keeps.via (State.setLinePoison_keeps ..) rfl ?_
                    refine Keeps.ite (fun _ => ?_) (fun _ => ?_)
                    · refine Keeps.via (State.touch_keeps ..) rfl ?_
                      refine Keeps.via (State.setCtr_keeps ..) rfl ?_
                      refine Keeps.via (State.takeCounter_getD_keeps ..) rfl ?_
                      refine Keeps.via (State.takeCounter_keeps _ _ _ ‹_›) rfl ?_
                      refine Keeps.ite (fun _ => ?_) (fun _ => ?_)
                      · refine Keeps.via (State.countCorr_keeps ..) rfl ?_
                        exact Keeps.via (State.fsat_keeps ..) rfl Keeps.refl
                      · exact Keeps.refl
                    · refine Keeps.via (State.setCtr_keeps ..) rfl ?_
                      refine Keeps.via (State.takeCounter_getD_keeps ..) rfl ?_
                      refine Keeps.via (State.takeCounter_keeps _ _ _ ‹_›) rfl ?_
                      refine Keeps.ite (fun _ => ?_) (fun _ => ?_)
                      · refine Keeps.via (State.countCorr_keeps ..) rfl ?_
                        exact Keeps.via (State.fsat_keeps ..) rfl Keeps.refl
                      · exact Keeps.refl
            · refine Keeps.ite (fun _ => ?_) (fun _ => ?_)
              · refine Keeps.via (State.securityHalt_keeps ..) rfl ?_
                refine Keeps.ite (fun _ => ?_) (fun _ => ?_)
                · refine Keeps.via (State.countCorr_keeps ..) rfl ?_
                  exact Keeps.via (State.fsat_keeps ..) rfl Keeps.refl
                · exact Keeps.refl
              · refine Keeps.via (State.touch_keeps ..) rfl ?_
                refine Keeps.ite (fun _ => ?_) (fun _ => ?_)
                · refine Keeps.via (State.countCorr_keeps ..) rfl ?_
                  exact Keeps.via (State.fsat_keeps ..) rfl Keeps.refl
                · exact Keeps.refl


theorem State.dropCtrs_keeps (s : State) (g : Nat) : Keeps [.dram] s (State.dropCtrs s g) := by
  unfold State.dropCtrs
  refine Keeps.upd_dram rfl ?_ ?_
  rotate_left
  · first | exact fun h => h | exact memDrop_wf | exact writeBytes_wf | exact fun _ => rfl | (dsimp only; exact memDrop_wf)
  exact Keeps.refl


theorem State.setGran_keeps (s : State) (g : Nat) (v : Granule) : Keeps [.dram] s (State.setGran s g v) := by
  unfold State.setGran
  refine Keeps.upd_dram rfl ?_ ?_
  rotate_left
  · first | exact fun h => h | exact memDrop_wf | exact writeBytes_wf | exact fun _ => rfl | (dsimp only; exact memDrop_wf)
  exact Keeps.refl


theorem State.rebuildTree_keeps (s : State) (g : Nat) (k : Nat) (lo : Nat) (n : Nat) : Keeps [.dram] s (State.rebuildTree s g k lo n) := by
  unfold State.rebuildTree
  refine Keeps.ite (fun _ => ?_) (fun _ => ?_)
  · exact Keeps.refl
  · refine Keeps.foldl (fun _ _ => ?_) ?_
    · refine Keeps.foldl (fun _ _ => ?_) ?_
      · try extract_lets
        refine Keeps.ite (fun _ => ?_) (fun _ => ?_)
        · refine Keeps.via (State.setLinePoison_keeps ..) rfl ?_
          refine Keeps.ite (fun _ => ?_) (fun _ => ?_)
          · exact Keeps.via (State.setLinePoison_keeps ..) rfl Keeps.refl
          · exact Keeps.refl
        · refine Keeps.ite (fun _ => ?_) (fun _ => ?_)
          · exact Keeps.via (State.setLinePoison_keeps ..) rfl Keeps.refl
          · exact Keeps.refl
      · exact Keeps.refl
    · exact Keeps.refl


theorem State.zeroRange_keeps (s : State) (a : Nat) (n : Nat) : Keeps [.dram] s (State.zeroRange s a n) := by
  unfold State.zeroRange
  try extract_lets
  refine Keeps.ite (fun _ => ?_) (fun _ => ?_)
  · refine Keeps.upd_dram rfl ?_ ?_
    rotate_left
    · first | exact fun h => h | exact memDrop_wf | exact writeBytes_wf | exact fun _ => rfl | (dsimp only; exact memDrop_wf)
    exact Keeps.refl
  · refine Keeps.foldl (fun _ _ => ?_) ?_
    · refine Keeps.ite (fun _ => ?_) (fun _ => ?_)
      · exact Keeps.via (State.setLinePoison_keeps ..) rfl Keeps.refl
      · exact Keeps.refl
    · refine Keeps.upd_dram rfl ?_ ?_
      rotate_left
      · first | exact fun h => h | exact memDrop_wf | exact writeBytes_wf | exact fun _ => rfl | (dsimp only; exact memDrop_wf)
      exact Keeps.refl


theorem State.zeroGranule_keeps (s : State) (g : Nat) : Keeps [.dram] s (State.zeroGranule s g) := by
  unfold State.zeroGranule
  refine Keeps.via (State.zeroRange_keeps ..) rfl ?_
  refine Keeps.upd_dram rfl ?_ ?_
  rotate_left
  · first | exact fun h => h | exact memDrop_wf | exact writeBytes_wf | exact fun _ => rfl | (dsimp only; exact memDrop_wf)
  exact Keeps.refl


theorem State.refillDone_keeps (s : State) (g : Nat) : Keeps [.events, .dram, .free] s (State.refillDone s g) := by
  unfold State.refillDone
  try extract_lets
  refine Keeps.via (State.post_keeps ..) rfl ?_
  refine Keeps.ite (fun _ => ?_) (fun _ => ?_)
  · refine Keeps.via (State.bulkClock_keeps ..) rfl ?_
    refine Keeps.ite (fun _ => ?_) (fun _ => ?_)
    · refine Keeps.via (State.rebuildTree_keeps ..) rfl ?_
      refine Keeps.via (State.setGran_keeps ..) rfl ?_
      refine Keeps.via (State.dropCtrs_keeps ..) rfl ?_
      exact Keeps.via (State.zeroGranule_keeps ..) rfl Keeps.refl
    · refine Keeps.via (State.setGran_keeps ..) rfl ?_
      refine Keeps.via (State.dropCtrs_keeps ..) rfl ?_
      exact Keeps.via (State.zeroGranule_keeps ..) rfl Keeps.refl
  · refine Keeps.ite (fun _ => ?_) (fun _ => ?_)
    · refine Keeps.via (State.rebuildTree_keeps ..) rfl ?_
      refine Keeps.via (State.setGran_keeps ..) rfl ?_
      refine Keeps.via (State.dropCtrs_keeps ..) rfl ?_
      exact Keeps.via (State.zeroGranule_keeps ..) rfl Keeps.refl
    · refine Keeps.via (State.setGran_keeps ..) rfl ?_
      refine Keeps.via (State.dropCtrs_keeps ..) rfl ?_
      exact Keeps.via (State.zeroGranule_keeps ..) rfl Keeps.refl


theorem State.resealDone_keeps (s : State) (g : Nat) : Keeps [.events, .dram, .free] s (State.resealDone s g) := by
  unfold State.resealDone
  try extract_lets
  refine Keeps.via (State.post_keeps ..) rfl ?_
  refine Keeps.via (State.bulkClock_keeps ..) rfl ?_
  refine Keeps.via (State.rebuildTree_keeps ..) rfl ?_
  refine Keeps.via (State.setGran_keeps ..) rfl ?_
  refine Keeps.upd_dram rfl ?_ ?_
  rotate_left
  · first | exact fun h => h | exact memDrop_wf | exact writeBytes_wf | exact fun _ => rfl | (dsimp only; exact memDrop_wf)
  exact Keeps.via (State.zeroRange_keeps ..) rfl Keeps.refl


theorem State.startRefill_keeps (s : State) (g : Nat) (mode : Nat) (slot : Option Nat) : Keeps [.dram] s (State.startRefill s g mode slot) := by
  unfold State.startRefill
  exact Keeps.via (State.setGran_keeps ..) rfl Keeps.refl


theorem execCounterRequest_keeps (c : ChIx) (l : Fin 4) (g : Fin 128) (x : Nat) (err : MemErr) (tagOk : Bool) (mirror : MemErr) (mirrorOk : Bool) (s : State) : OutKeeps [.regs, .events, .tins, .larder, .pool, .corr, .dram, .breadbox, .pads, .mac, .cfg, .free] s (execCounterRequest c l g x err tagOk mirror mirrorOk s) := by
  unfold execCounterRequest
  refine OutKeeps.next ?_
  exact Keeps.via (State.counterRequest_keeps ..) rfl Keeps.refl


theorem execSealedReadProof_keeps (c : ChIx) (i : Nat) (tagOk : Bool) (s : State) : OutKeeps [.regs, .events, .tins, .larder, .pool, .corr, .noc, .dram, .breadbox, .pads, .mac, .cfg, .free] s (execSealedReadProof c i tagOk s) := by
  unfold execSealedReadProof
  refine OutKeeps.next ?_
  exact Keeps.via (State.sealedReadProof_keeps ..) rfl Keeps.refl


end Sys2Proof.Machine
end

