-- ==== Sys2Proof/Laws/Keeps/Dram.lean ====
section
/-! SUPPORT. What the operations of Machine/Dram.lean may change, and that they keep the invariant. -/

namespace Sys2Proof.Machine

theorem State.chPost_keeps (s : State) (c : Nat) (code : Nat) (sev : Nat) (arg0 : Nat) : Keeps [.events] s (State.chPost s c code sev arg0) := by
  unfold State.chPost
  exact Keeps.via (State.post_keeps ..) rfl Keeps.refl


theorem State.dramUncorr_keeps (s : State) (c : Nat) (a : Nat) : Keeps [.regs, .events, .dram, .free] s (State.dramUncorr s c a) := by
  unfold State.dramUncorr
  try extract_lets
  refine Keeps.via (State.chPost_keeps ..) rfl ?_
  refine Keeps.via (State.setChan_keeps ..) rfl ?_
  refine Keeps.via (State.setReg_keeps ..) rfl ?_
  refine Keeps.via (State.fsat_keeps ..) rfl ?_
  refine Keeps.via (State.setLinePoison_keeps ..) rfl ?_
  try extract_lets
  refine Keeps.upd_dram rfl ?_ ?_
  rotate_left
  · first | (dsimp only; exact writeBytes_wf) | exact writeBytes_wf | exact memDrop_wf | exact fun h => h | exact fun _ => rfl | (dsimp only; exact memDrop_wf)
  exact Keeps.via (State.takeFree_keeps ..) rfl Keeps.refl


theorem State.lineRead_keeps (s : State) (c : Nat) (a : Nat) (err : MemErr) : Keeps [.regs, .events, .corr, .dram, .free] s (State.lineRead s c a err).2 := by
  unfold State.lineRead
  refine Keeps.ite_p1 (fun _ => ?_) (fun _ => ?_)
  · refine Keeps.snd_mk ?_
    exact Keeps.via (State.fsat_keeps ..) rfl Keeps.refl
  · split
    · refine Keeps.snd_mk ?_
      exact Keeps.refl
    · refine Keeps.snd_mk ?_
      exact Keeps.via (State.dramUncorr_keeps ..) rfl Keeps.refl
    · refine Keeps.snd_mk ?_
      refine Keeps.via (State.countCorr_keeps ..) rfl ?_
      exact Keeps.via (State.fsat_keeps ..) rfl Keeps.refl


theorem State.linesRead_keeps (s : State) (c : Nat) (l : List Nat) (err : MemErr) : Keeps [.regs, .events, .corr, .dram, .free] s (State.linesRead s c l err).2 := by
  induction l generalizing s err with
  | nil => exact Keeps.refl
  | cons a r ih => exact Keeps.trans (ih _ _) (Keeps.via (State.lineRead_keeps ..) rfl Keeps.refl)


theorem State.poisonLost_keeps (s : State) (lines : List Nat) : Keeps [.regs, .events, .larder, .dram] s (State.poisonLost s lines) := by
  unfold State.poisonLost
  refine Keeps.foldl (fun _ _ => ?_) ?_
  · split
    · exact Keeps.via (State.poisonSubtree_keeps ..) rfl Keeps.refl
    · exact Keeps.refl
  · exact Keeps.refl


theorem State.memRead_keeps (s : State) (c : Nat) (p : Packet) (err : MemErr) : Keeps [.regs, .events, .larder, .corr, .noc, .dram, .free] s (State.memRead s c p err) := by
  unfold State.memRead
  try extract_lets
  refine Keeps.ite (fun _ => ?_) (fun _ => ?_)
  · split
    · exact Keeps.via (State.fromPort_keeps ..) rfl Keeps.refl
    · try extract_lets
      refine Keeps.ite (fun _ => ?_) (fun _ => ?_)
      · refine Keeps.via (State.fromPort_keeps ..) rfl ?_
        refine Keeps.via (State.linesRead_keeps ..) rfl ?_
        exact Keeps.via (State.poisonLost_keeps ..) rfl Keeps.refl
      · try extract_lets
        refine Keeps.ite (fun _ => ?_) (fun _ => ?_)
        · refine Keeps.via (State.fromPort_keeps ..) rfl ?_
          refine Keeps.via (State.setChan_keeps ..) rfl ?_
          refine Keeps.via (State.linesRead_keeps ..) rfl ?_
          exact Keeps.via (State.poisonLost_keeps ..) rfl Keeps.refl
        · refine Keeps.via (State.setChan_keeps ..) rfl ?_
          refine Keeps.via (State.linesRead_keeps ..) rfl ?_
          exact Keeps.via (State.poisonLost_keeps ..) rfl Keeps.refl
  · try extract_lets
    refine Keeps.via (State.fromPort_keeps ..) rfl ?_
    exact Keeps.via (State.linesRead_keeps ..) rfl Keeps.refl


theorem State.lineOld_keeps (s : State) (c : Nat) (a : Nat) (full : Bool) (err : MemErr) : Keeps [.regs, .events, .corr, .dram, .free] s (State.lineOld s c a full err).2 := by
  unfold State.lineOld
  refine Keeps.ite_p1 (fun _ => ?_) (fun _ => ?_)
  · refine Keeps.snd_mk ?_
    exact Keeps.refl
  · exact Keeps.via (State.lineRead_keeps ..) rfl Keeps.refl


theorem State.lineStore_keeps (s : State) (a : Nat) (d : List Byte) (poison : Bool) : Keeps [.dram] s (State.lineStore s a d poison) := by
  unfold State.lineStore
  refine Keeps.via (State.setLinePoison_keeps ..) rfl ?_
  refine Keeps.upd_dram rfl ?_ ?_
  rotate_left
  · first | (dsimp only; exact writeBytes_wf) | exact writeBytes_wf | exact memDrop_wf | exact fun h => h | exact fun _ => rfl | (dsimp only; exact memDrop_wf)
  exact Keeps.refl


theorem State.lineWrite_keeps (s : State) (c : Nat) (a : Nat) (d : List Byte) (poison : Bool) (err : MemErr) (tagOk : Bool) (node : Nat) : Keeps [.regs, .events, .tins, .larder, .pool, .corr, .dram, .breadbox, .pads, .mac, .cfg, .free] s (State.lineWrite s c a d poison err tagOk node).2 := by
  unfold State.lineWrite
  try extract_lets
  refine Keeps.ite_p1 (fun _ => ?_) (fun _ => ?_)
  · try extract_lets
    refine Keeps.ite_p1 (fun _ => ?_) (fun _ => ?_)
    · refine Keeps.snd_mk ?_
      refine Keeps.via (State.lineOld_keeps ..) rfl ?_
      exact Keeps.via (State.poisonLost_keeps ..) rfl Keeps.refl
    · refine Keeps.ite_p1 (fun _ => ?_) (fun _ => ?_)
      · refine Keeps.snd_mk ?_
        refine Keeps.via (State.securityHalt_keeps ..) rfl ?_
        refine Keeps.via (State.lineOld_keeps ..) rfl ?_
        exact Keeps.via (State.poisonLost_keeps ..) rfl Keeps.refl
      · split
        · refine Keeps.snd_mk ?_
          refine Keeps.via (State.lineOld_keeps ..) rfl ?_
          exact Keeps.via (State.poisonLost_keeps ..) rfl Keeps.refl
        · refine Keeps.snd_mk ?_
          refine Keeps.via (State.lineStore_keeps ..) rfl ?_
          refine Keeps.via (State.touchPath_keeps ..) rfl ?_
          refine Keeps.via (State.setCtr_keeps ..) rfl ?_
          refine Keeps.via (State.takeCounter_keeps _ _ _ ‹_›) rfl ?_
          refine Keeps.via (State.lineOld_keeps ..) rfl ?_
          exact Keeps.via (State.poisonLost_keeps ..) rfl Keeps.refl
  · try extract_lets
    refine Keeps.ite_p1 (fun _ => ?_) (fun _ => ?_)
    · refine Keeps.snd_mk ?_
      exact Keeps.via (State.lineOld_keeps ..) rfl Keeps.refl
    · refine Keeps.snd_mk ?_
      refine Keeps.via (State.lineStore_keeps ..) rfl ?_
      exact Keeps.via (State.lineOld_keeps ..) rfl Keeps.refl


theorem State.memAtomic_keeps (s : State) (c : Nat) (p : Packet) (err : MemErr) (tagOk : Bool) : Keeps [.regs, .events, .tins, .larder, .pool, .corr, .noc, .dram, .breadbox, .pads, .mac, .cfg, .free] s (State.memAtomic s c p err tagOk) := by
  unfold State.memAtomic
  try extract_lets
  split
  · exact Keeps.via (State.fromPort_keeps ..) rfl Keeps.refl
  · try extract_lets
    refine Keeps.ite (fun _ => ?_) (fun _ => ?_)
    · exact Keeps.via (State.fromPort_keeps ..) rfl Keeps.refl
    · try extract_lets
      refine Keeps.ite (fun _ => ?_) (fun _ => ?_)
      · exact Keeps.via (State.lineWrite_keeps ..) rfl Keeps.refl
      · refine Keeps.ite (fun _ => ?_) (fun _ => ?_)
        · refine Keeps.via (State.fromPort_keeps ..) rfl ?_
          exact Keeps.via (State.lineWrite_keeps ..) rfl Keeps.refl
        · refine Keeps.via (State.fromPort_keeps ..) rfl ?_
          exact Keeps.via (State.lineWrite_keeps ..) rfl Keeps.refl


theorem State.linesWrite_keeps (s : State) (c a : Nat) (d : List Byte) (poison : Bool) (err : MemErr) (tagOk : Bool) (node : Nat) (l : List Nat) :
    Keeps [.regs, .events, .tins, .larder, .pool, .corr, .dram, .breadbox, .pads, .mac, .cfg, .free] s (State.linesWrite s c a d poison err tagOk node l).2 := by
  induction l generalizing s err with
  | nil => exact Keeps.refl
  | cons x r ih => exact Keeps.trans (ih _ _) (Keeps.via (State.lineWrite_keeps ..) rfl Keeps.refl)


theorem State.memWrite_keeps (s : State) (c : Nat) (p : Packet) (err : MemErr) (tagOk : Bool) : Keeps [.regs, .events, .tins, .larder, .pool, .corr, .noc, .dram, .breadbox, .pads, .mac, .cfg, .free] s (State.memWrite s c p err tagOk) := by
  unfold State.memWrite
  try extract_lets
  split
  · refine Keeps.ite (fun _ => ?_) (fun _ => ?_)
    · exact Keeps.refl
    · refine Keeps.ite (fun _ => ?_) (fun _ => ?_)
      · refine Keeps.ite (fun _ => ?_) (fun _ => ?_)
        · exact Keeps.refl
        · exact Keeps.via (State.postLimited_keeps ..) rfl Keeps.refl
      · exact Keeps.via (State.fromPort_keeps ..) rfl Keeps.refl
  · try extract_lets
    refine Keeps.ite (fun _ => ?_) (fun _ => ?_)
    · exact Keeps.via (State.linesWrite_keeps ..) rfl Keeps.refl
    · refine Keeps.ite (fun _ => ?_) (fun _ => ?_)
      · refine Keeps.ite (fun _ => ?_) (fun _ => ?_)
        · exact Keeps.via (State.linesWrite_keeps ..) rfl Keeps.refl
        · refine Keeps.via (State.postLimited_keeps ..) rfl ?_
          exact Keeps.via (State.linesWrite_keeps ..) rfl Keeps.refl
      · refine Keeps.via (State.fromPort_keeps ..) rfl ?_
        exact Keeps.via (State.linesWrite_keeps ..) rfl Keeps.refl


theorem State.setChState_keeps (s : State) (c : Nat) (st : Nat) : Keeps [.regs] s (State.setChState s c st) := by
  unfold State.setChState
  exact Keeps.via (State.fset_keeps ..) rfl Keeps.refl


theorem State.selfRefresh_keeps (s : State) (c : Nat) : Keeps [.regs] s (State.selfRefresh s c) := by
  unfold State.selfRefresh
  refine Keeps.ite (fun _ => ?_) (fun _ => ?_)
  · exact Keeps.via (State.setChState_keeps ..) rfl Keeps.refl
  · exact Keeps.refl


theorem State.checkReady_keeps (s : State) : Keeps [.regs] s (State.checkReady s) := by
  unfold State.checkReady
  refine Keeps.ite (fun _ => ?_) (fun _ => ?_)
  · exact Keeps.via (State.fset_keeps ..) rfl Keeps.refl
  · exact Keeps.refl


theorem State.loseMem_keeps (s : State) (c : Nat) (lines : Bool) : Keeps [.regs, .events] s (State.loseMem s c lines) := by
  unfold State.loseMem
  try extract_lets
  refine Keeps.via (State.checkReady_keeps ..) rfl ?_
  refine Keeps.ite (fun _ => ?_) (fun _ => ?_)
  · refine Keeps.via (State.chPost_keeps ..) rfl ?_
    refine Keeps.via (State.chPost_keeps ..) rfl ?_
    exact Keeps.via (State.setChState_keeps ..) rfl Keeps.refl
  · refine Keeps.via (State.chPost_keeps ..) rfl ?_
    exact Keeps.via (State.setChState_keeps ..) rfl Keeps.refl


theorem State.retireChannel_keeps (s : State) (c : Nat) : Keeps [.regs, .events, .dram] s (State.retireChannel s c) := by
  unfold State.retireChannel
  refine Keeps.ite (fun _ => ?_) (fun _ => ?_)
  · exact Keeps.refl
  · refine Keeps.ite (fun _ => ?_) (fun _ => ?_)
    · exact Keeps.refl
    · refine Keeps.ite (fun _ => ?_) (fun _ => ?_)
      · try extract_lets
        refine Keeps.upd_dram rfl ?_ ?_
        rotate_left
        · first | exact fun h => h | exact memDrop_wf | exact writeBytes_wf | exact fun _ => rfl | (dsimp only; exact memDrop_wf)
        refine Keeps.via (State.fset_keeps ..) rfl ?_
        refine Keeps.via (State.setChState_keeps ..) rfl ?_
        exact Keeps.via (State.setChan_keeps ..) rfl Keeps.refl
      · refine Keeps.via (State.loseMem_keeps ..) rfl ?_
        exact Keeps.via (State.setChan_keeps ..) rfl Keeps.refl


theorem State.dueChannel_keeps (s : State) (c : Nat) : Keeps [.regs, .events, .dram] s (State.dueChannel s c) := by
  unfold State.dueChannel
  refine Keeps.ite (fun _ => ?_) (fun _ => ?_)
  · exact Keeps.via (State.retireChannel_keeps ..) rfl Keeps.refl
  · exact Keeps.refl


theorem State.memArrive_keeps (s : State) (f : Nat) (c : Nat) (p : Packet) : Keeps [.regs, .events, .noc, .dram] s (State.memArrive s f c p) := by
  unfold State.memArrive
  refine Keeps.ite (fun _ => ?_) (fun _ => ?_)
  · exact Keeps.refl
  · try extract_lets
    split
    · try extract_lets
      refine Keeps.ite (fun _ => ?_) (fun _ => ?_)
      · refine Keeps.via (State.postLimited_keeps ..) rfl ?_
        refine Keeps.ite (fun _ => ?_) (fun _ => ?_)
        · refine Keeps.via (State.fsat_keeps ..) rfl ?_
          exact Keeps.via (State.dropFlight_keeps ..) rfl Keeps.refl
        · exact Keeps.via (State.dropFlight_keeps ..) rfl Keeps.refl
      · try extract_lets
        refine Keeps.via (State.fromPort_keeps ..) rfl ?_
        refine Keeps.ite (fun _ => ?_) (fun _ => ?_)
        · refine Keeps.via (State.fsat_keeps ..) rfl ?_
          exact Keeps.via (State.dropFlight_keeps ..) rfl Keeps.refl
        · exact Keeps.via (State.dropFlight_keeps ..) rfl Keeps.refl
    · try extract_lets
      refine Keeps.ite (fun _ => ?_) (fun _ => ?_)
      · refine Keeps.via (State.postLimited_keeps ..) rfl ?_
        refine Keeps.ite (fun _ => ?_) (fun _ => ?_)
        · refine Keeps.via (State.fsat_keeps ..) rfl ?_
          exact Keeps.via (State.dropFlight_keeps ..) rfl Keeps.refl
        · exact Keeps.via (State.dropFlight_keeps ..) rfl Keeps.refl
      · try extract_lets
        refine Keeps.via (State.fromPort_keeps ..) rfl ?_
        refine Keeps.ite (fun _ => ?_) (fun _ => ?_)
        · refine Keeps.via (State.fsat_keeps ..) rfl ?_
          exact Keeps.via (State.dropFlight_keeps ..) rfl Keeps.refl
        · exact Keeps.via (State.dropFlight_keeps ..) rfl Keeps.refl
    · refine Keeps.ite (fun _ => ?_) (fun _ => ?_)
      · try extract_lets
        refine Keeps.via (State.setChan_keeps ..) rfl ?_
        exact Keeps.via (State.dropFlight_keeps ..) rfl Keeps.refl
      · exact Keeps.refl


theorem State.recordWait_keeps (s : State) (c : Nat) (prio : Nat) (since : Nat) : Keeps [.regs] s (State.recordWait s c prio since) := by
  unfold State.recordWait
  try extract_lets
  refine Keeps.ite (fun _ => ?_) (fun _ => ?_)
  · exact Keeps.via (State.fset_keeps ..) rfl Keeps.refl
  · exact Keeps.refl


theorem State.memRequest_keeps (s : State) (c : Nat) (err : MemErr) (tagOk : Bool) : Keeps [.regs, .events, .tins, .larder, .pool, .corr, .noc, .dram, .breadbox, .pads, .mac, .cfg, .free] s (State.memRequest s c err tagOk) := by
  unfold State.memRequest
  try extract_lets
  refine Keeps.ite (fun _ => ?_) (fun _ => ?_)
  · exact Keeps.refl
  · split
    · exact Keeps.refl
    · try extract_lets
      refine Keeps.ite (fun _ => ?_) (fun _ => ?_)
      · try extract_lets
        refine Keeps.via (State.setChan_keeps ..) rfl ?_
        exact Keeps.via (State.setChan_keeps ..) rfl Keeps.refl
      · try extract_lets
        refine Keeps.via (State.dueChannel_keeps ..) rfl ?_
        refine Keeps.ite (fun _ => ?_) (fun _ => ?_)
        · refine Keeps.ite (fun _ => ?_) (fun _ => ?_)
          · refine Keeps.via (State.postLimited_keeps ..) rfl ?_
            refine Keeps.via (State.recordWait_keeps ..) rfl ?_
            exact Keeps.via (State.setChan_keeps ..) rfl Keeps.refl
          · refine Keeps.via (State.fromPort_keeps ..) rfl ?_
            refine Keeps.via (State.recordWait_keeps ..) rfl ?_
            exact Keeps.via (State.setChan_keeps ..) rfl Keeps.refl
        · refine Keeps.ite (fun _ => ?_) (fun _ => ?_)
          · refine Keeps.via (State.memRead_keeps ..) rfl ?_
            refine Keeps.via (State.recordWait_keeps ..) rfl ?_
            exact Keeps.via (State.setChan_keeps ..) rfl Keeps.refl
          · refine Keeps.ite (fun _ => ?_) (fun _ => ?_)
            · refine Keeps.via (State.memAtomic_keeps ..) rfl ?_
              refine Keeps.via (State.recordWait_keeps ..) rfl ?_
              exact Keeps.via (State.setChan_keeps ..) rfl Keeps.refl
            · refine Keeps.via (State.memWrite_keeps ..) rfl ?_
              refine Keeps.via (State.recordWait_keeps ..) rfl ?_
              exact Keeps.via (State.setChan_keeps ..) rfl Keeps.refl


theorem State.movedCtr_keeps (s : State) (a : Nat) (n : Nat) : Keeps [.regs, .dram] s (State.movedCtr s a n) := by
  unfold State.movedCtr
  split
  · refine Keeps.ite (fun _ => ?_) (fun _ => ?_)
    · exact Keeps.refl
    · try extract_lets
      refine Keeps.ite (fun _ => ?_) (fun _ => ?_)
      · refine Keeps.via (State.touch_keeps ..) rfl ?_
        exact Keeps.via (State.setCtr_keeps ..) rfl Keeps.refl
      · exact Keeps.via (State.setCtr_keeps ..) rfl Keeps.refl
  · exact Keeps.refl


theorem State.poisonChannel_keeps (s : State) (c : Nat) : Keeps [.dram] s (State.poisonChannel s c) := by
  unfold State.poisonChannel
  try extract_lets
  refine Keeps.upd_dram rfl ?_ ?_
  rotate_left
  · first | exact fun h => h | exact memDrop_wf | exact writeBytes_wf | exact fun _ => rfl | (dsimp only; exact memDrop_wf)
  exact Keeps.refl


theorem State.setBeat_keeps (s : State) (b : Beat) : Keeps [.dram] s (State.setBeat s b) := by
  unfold State.setBeat
  refine Keeps.upd_dram rfl ?_ ?_
  rotate_left
  · first | exact fun h => h | exact memDrop_wf | exact writeBytes_wf | exact fun _ => rfl | (dsimp only; exact memDrop_wf)
  exact Keeps.refl


theorem State.setHot_keeps (s : State) (h : Bool) : Keeps [.regs, .dram] s (State.setHot s h) := by
  unfold State.setHot
  try extract_lets
  refine Keeps.foldl (fun _ _ => ?_) ?_
  · exact Keeps.via (State.fset_keeps ..) rfl Keeps.refl
  · refine Keeps.via (State.fset_keeps ..) rfl ?_
    exact Keeps.via (State.setBeat_keeps ..) rfl Keeps.refl


theorem State.trainFail_keeps (s : State) (c : Nat) : Keeps [.regs, .events, .dram] s (State.trainFail s c) := by
  unfold State.trainFail
  try extract_lets
  refine Keeps.ite (fun _ => ?_) (fun _ => ?_)
  · refine Keeps.via (State.loseMem_keeps ..) rfl ?_
    exact Keeps.via (State.setChan_keeps ..) rfl Keeps.refl
  · exact Keeps.via (State.setChan_keeps ..) rfl Keeps.refl


theorem State.trainSlice_keeps (s : State) (c : Nat) (failed : Bool) (hot : Bool) : Keeps [.regs, .events, .dram] s (State.trainSlice s c failed hot) := by
  unfold State.trainSlice
  refine Keeps.ite (fun _ => ?_) (fun _ => ?_)
  · exact Keeps.refl
  · try extract_lets
    refine Keeps.ite (fun _ => ?_) (fun _ => ?_)
    · try extract_lets
      refine Keeps.ite (fun _ => ?_) (fun _ => ?_)
      · refine Keeps.via (State.dueChannel_keeps ..) rfl ?_
        refine Keeps.via (State.setChan_keeps ..) rfl ?_
        refine Keeps.via (State.fset_keeps ..) rfl ?_
        exact Keeps.via (State.setChan_keeps ..) rfl Keeps.refl
      · refine Keeps.via (State.fset_keeps ..) rfl ?_
        exact Keeps.via (State.setChan_keeps ..) rfl Keeps.refl
    · refine Keeps.via (State.fset_keeps ..) rfl ?_
      exact Keeps.via (State.setChan_keeps ..) rfl Keeps.refl


theorem State.trained_keeps (s : State) (c : Nat) : Keeps [.dram] s (State.trained s c) := by
  unfold State.trained
  exact Keeps.via (State.setChan_keeps ..) rfl Keeps.refl


theorem execSelfRefreshExit_keeps (c : ChIx) (ok : Bool) (s : State) : OutKeeps [.regs, .events, .dram] s (execSelfRefreshExit c ok s) := by
  unfold execSelfRefreshExit
  refine OutKeeps.ite (fun _ => ?_) (fun _ => ?_)
  · refine OutKeeps.next ?_
    exact Keeps.refl
  · refine OutKeeps.ite (fun _ => ?_) (fun _ => ?_)
    · refine OutKeeps.next ?_
      exact Keeps.via (State.trainFail_keeps ..) rfl Keeps.refl
    · try extract_lets
      refine OutKeeps.next ?_
      refine Keeps.via (State.setChState_keeps ..) rfl ?_
      refine Keeps.via (State.setChan_keeps ..) rfl ?_
      exact Keeps.via (State.trained_keeps ..) rfl Keeps.refl


theorem execBeatEnd_keeps (s : State) : OutKeeps [.dram] s (execBeatEnd s) := by
  unfold execBeatEnd
  try extract_lets
  refine OutKeeps.ite (fun _ => ?_) (fun _ => ?_)
  · refine OutKeeps.next ?_
    exact Keeps.refl
  · refine OutKeeps.ite (fun _ => ?_) (fun _ => ?_)
    · refine OutKeeps.next ?_
      exact Keeps.via (State.setBeat_keeps ..) rfl Keeps.refl
    · refine OutKeeps.next ?_
      exact Keeps.via (State.setBeat_keeps ..) rfl Keeps.refl


theorem execBeatStall_keeps (k : Nat) (s : State) : OutKeeps [.regs, .dram] s (execBeatStall k s) := by
  unfold execBeatStall
  try extract_lets
  refine OutKeeps.ite (fun _ => ?_) (fun _ => ?_)
  · refine OutKeeps.next ?_
    exact Keeps.refl
  · refine OutKeeps.next ?_
    refine Keeps.via (State.fset_keeps ..) rfl ?_
    exact Keeps.via (State.setBeat_keeps ..) rfl Keeps.refl


theorem execChannelFilled_keeps (c : ChIx) (s : State) : OutKeeps [.regs, .dram] s (execChannelFilled c s) := by
  unfold execChannelFilled
  refine OutKeeps.ite (fun _ => ?_) (fun _ => ?_)
  · refine OutKeeps.next ?_
    exact Keeps.refl
  · try extract_lets
    refine OutKeeps.next ?_
    refine Keeps.via (State.checkReady_keeps ..) rfl ?_
    refine Keeps.via (State.setChState_keeps ..) rfl ?_
    refine Keeps.via (State.setChan_keeps ..) rfl ?_
    refine Keeps.ite (fun _ => ?_) (fun _ => ?_)
    · exact Keeps.via (State.poisonChannel_keeps ..) rfl Keeps.refl
    · refine Keeps.upd_dram rfl ?_ ?_
      rotate_left
      · first | exact fun h => h | exact memDrop_wf | exact writeBytes_wf | exact fun _ => rfl | (dsimp only; exact memDrop_wf)
      exact Keeps.refl


theorem execChannelTrained_keeps (c : ChIx) (ok : Bool) (s : State) : OutKeeps [.regs, .events, .dram] s (execChannelTrained c ok s) := by
  unfold execChannelTrained
  refine OutKeeps.ite (fun _ => ?_) (fun _ => ?_)
  · refine OutKeeps.next ?_
    exact Keeps.refl
  · refine OutKeeps.ite (fun _ => ?_) (fun _ => ?_)
    · refine OutKeeps.next ?_
      refine Keeps.via (State.fset_keeps ..) rfl ?_
      refine Keeps.via (State.setChState_keeps ..) rfl ?_
      exact Keeps.via (State.trained_keeps ..) rfl Keeps.refl
    · refine OutKeeps.next ?_
      refine Keeps.via (State.trainFail_keeps ..) rfl ?_
      exact Keeps.via (State.setChState_keeps ..) rfl Keeps.refl


theorem execSliceBeatEnd_keeps (failed : List ChIx) (hot : List ChIx) (s : State) : OutKeeps [.regs, .events, .dram] s (execSliceBeatEnd failed hot s) := by
  unfold execSliceBeatEnd
  try extract_lets
  refine OutKeeps.ite (fun _ => ?_) (fun _ => ?_)
  · refine OutKeeps.next ?_
    exact Keeps.refl
  · try extract_lets
    refine OutKeeps.next ?_
    refine Keeps.foldl (fun _ _ => ?_) ?_
    · exact Keeps.via (State.trainSlice_keeps ..) rfl Keeps.refl
    · exact Keeps.via (State.setBeat_keeps ..) rfl Keeps.refl


theorem execMemoryRequest_keeps (c : ChIx) (err : MemErr) (tagOk : Bool) (s : State) : OutKeeps [.regs, .events, .tins, .larder, .pool, .corr, .noc, .dram, .breadbox, .pads, .mac, .cfg, .free] s (execMemoryRequest c err tagOk s) := by
  unfold execMemoryRequest
  refine OutKeeps.next ?_
  exact Keeps.via (State.memRequest_keeps ..) rfl Keeps.refl


theorem execDramRefreshHot_keeps (s : State) : OutKeeps [.regs, .events, .dram] s (execDramRefreshHot s) := by
  unfold execDramRefreshHot
  refine OutKeeps.ite (fun _ => ?_) (fun _ => ?_)
  · refine OutKeeps.next ?_
    refine Keeps.via (State.post_keeps ..) rfl ?_
    exact Keeps.via (State.setHot_keeps ..) rfl Keeps.refl
  · refine OutKeeps.next ?_
    exact Keeps.refl


theorem execEvacuationLineMove_keeps (err : MemErr) (s : State) : OutKeeps [.regs, .events, .corr, .dram, .free] s (execEvacuationLineMove err s) := by
  unfold execEvacuationLineMove
  split
  · refine OutKeeps.next ?_
    exact Keeps.refl
  · try extract_lets
    refine OutKeeps.ite (fun _ => ?_) (fun _ => ?_)
    · refine OutKeeps.next ?_
      exact Keeps.refl
    · try extract_lets
      refine OutKeeps.next ?_
      refine Keeps.via (State.fset_keeps ..) rfl ?_
      refine Keeps.via (State.setLinePoison_keeps ..) rfl ?_
      refine Keeps.upd_dram rfl ?_ ?_
      rotate_left
      · first | exact fun h => h | exact memDrop_wf | exact writeBytes_wf | exact fun _ => rfl | (dsimp only; exact memDrop_wf)
      refine Keeps.ite (fun _ => ?_) (fun _ => ?_)
      · try dsimp +zetaDelta only
        split
        · refine Keeps.ite (fun _ => ?_) (fun _ => ?_)
          · exact Keeps.via (State.dramUncorr_keeps ..) rfl Keeps.refl
          · refine Keeps.ite (fun _ => ?_) (fun _ => ?_)
            · exact Keeps.via (State.fsat_keeps ..) rfl Keeps.refl
            · refine Keeps.ite (fun _ => ?_) (fun _ => ?_)
              · exact Keeps.refl
              · refine Keeps.via (State.countCorr_keeps ..) rfl ?_
                exact Keeps.via (State.fsat_keeps ..) rfl Keeps.refl
        · refine Keeps.ite (fun _ => ?_) (fun _ => ?_)
          · refine Keeps.via (State.movedCtr_keeps ..) rfl ?_
            refine Keeps.via (State.takeCounter_keeps _ _ _ ‹_›) rfl ?_
            refine Keeps.ite (fun _ => ?_) (fun _ => ?_)
            · exact Keeps.via (State.dramUncorr_keeps ..) rfl Keeps.refl
            · refine Keeps.ite (fun _ => ?_) (fun _ => ?_)
              · exact Keeps.via (State.fsat_keeps ..) rfl Keeps.refl
              · refine Keeps.ite (fun _ => ?_) (fun _ => ?_)
                · exact Keeps.refl
                · refine Keeps.via (State.countCorr_keeps ..) rfl ?_
                  exact Keeps.via (State.fsat_keeps ..) rfl Keeps.refl
          · refine Keeps.ite (fun _ => ?_) (fun _ => ?_)
            · refine Keeps.via (State.touchPath_keeps ..) rfl ?_
              refine Keeps.via (State.setCtr_keeps ..) rfl ?_
              refine Keeps.via (State.takeCounter_keeps _ _ _ ‹_›) rfl ?_
              refine Keeps.ite (fun _ => ?_) (fun _ => ?_)
              · exact Keeps.via (State.dramUncorr_keeps ..) rfl Keeps.refl
              · refine Keeps.ite (fun _ => ?_) (fun _ => ?_)
                · exact Keeps.via (State.fsat_keeps ..) rfl Keeps.refl
                · refine Keeps.ite (fun _ => ?_) (fun _ => ?_)
                  · exact Keeps.refl
                  · refine Keeps.via (State.countCorr_keeps ..) rfl ?_
                    exact Keeps.via (State.fsat_keeps ..) rfl Keeps.refl
            · refine Keeps.via (State.takeCounter_keeps _ _ _ ‹_›) rfl ?_
              refine Keeps.ite (fun _ => ?_) (fun _ => ?_)
              · exact Keeps.via (State.dramUncorr_keeps ..) rfl Keeps.refl
              · refine Keeps.ite (fun _ => ?_) (fun _ => ?_)
                · exact Keeps.via (State.fsat_keeps ..) rfl Keeps.refl
                · refine Keeps.ite (fun _ => ?_) (fun _ => ?_)
                  · exact Keeps.refl
                  · refine Keeps.via (State.countCorr_keeps ..) rfl ?_
                    exact Keeps.via (State.fsat_keeps ..) rfl Keeps.refl
      · refine Keeps.ite (fun _ => ?_) (fun _ => ?_)
        · exact Keeps.via (State.dramUncorr_keeps ..) rfl Keeps.refl
        · refine Keeps.ite (fun _ => ?_) (fun _ => ?_)
          · exact Keeps.via (State.fsat_keeps ..) rfl Keeps.refl
          · refine Keeps.ite (fun _ => ?_) (fun _ => ?_)
            · exact Keeps.refl
            · refine Keeps.via (State.countCorr_keeps ..) rfl ?_
              exact Keeps.via (State.fsat_keeps ..) rfl Keeps.refl


theorem execBeatWarn_keeps (s : State) : OutKeeps [.dram] s (execBeatWarn s) := by
  unfold execBeatWarn
  refine OutKeeps.ite (fun _ => ?_) (fun _ => ?_)
  · refine OutKeeps.next ?_
    exact Keeps.refl
  · refine OutKeeps.next ?_
    exact Keeps.via (State.setBeat_keeps ..) rfl Keeps.refl


theorem execPatrolRead_keeps (c : ChIx) (err : MemErr) (s : State) : OutKeeps [.regs, .events, .corr, .dram, .free] s (execPatrolRead c err s) := by
  unfold execPatrolRead
  try extract_lets
  refine OutKeeps.ite (fun _ => ?_) (fun _ => ?_)
  · refine OutKeeps.next ?_
    exact Keeps.refl
  · try extract_lets
    refine OutKeeps.next ?_
    refine Keeps.via (State.dueChannel_keeps ..) rfl ?_
    refine Keeps.via (State.setChan_keeps ..) rfl ?_
    try dsimp +zetaDelta only
    split
    · exact Keeps.via (State.lineRead_keeps ..) rfl Keeps.refl
    · exact Keeps.refl


theorem execDramRefreshNormal_keeps (s : State) : OutKeeps [.regs, .events, .dram] s (execDramRefreshNormal s) := by
  unfold execDramRefreshNormal
  refine OutKeeps.ite (fun _ => ?_) (fun _ => ?_)
  · refine OutKeeps.next ?_
    refine Keeps.via (State.post_keeps ..) rfl ?_
    exact Keeps.via (State.setHot_keeps ..) rfl Keeps.refl
  · refine OutKeeps.next ?_
    exact Keeps.refl


end Sys2Proof.Machine
end

