-- ==== Sys2Proof/Laws/Keeps/Lane.lean ====
section
/-! SUPPORT. What the operations of Machine/Lane.lean may change, and that they keep the invariant. -/

namespace Sys2Proof.Machine

theorem State.setLane_keeps (s : State) (l : Nat) (v : LaneSt) : Keeps [.lanes] s (State.setLane s l v) := by
  unfold State.setLane
  exact Keeps.upd_lanes rfl Keeps.refl


theorem State.setAtBound_keeps (s : State) (l : Nat) : Keeps [.regs] s (State.setAtBound s l) := by
  unfold State.setAtBound
  try extract_lets
  exact Keeps.via (State.fset_keeps ..) rfl Keeps.refl


theorem State.adapt_keeps (s : State) (l : Nat) (eye : Nat) (dir : Fin 3) : Keeps [.regs, .lanes] s (State.adapt s l eye dir) := by
  unfold State.adapt
  try extract_lets
  split
  · refine Keeps.ite (fun _ => ?_) (fun _ => ?_)
    · refine Keeps.via (State.setAtBound_keeps ..) rfl ?_
      refine Keeps.via (State.fset_keeps ..) rfl ?_
      exact Keeps.via (State.setLane_keeps ..) rfl Keeps.refl
    · exact Keeps.via (State.setLane_keeps ..) rfl Keeps.refl
  · refine Keeps.ite (fun _ => ?_) (fun _ => ?_)
    · exact Keeps.refl
    · try extract_lets
      refine Keeps.ite (fun _ => ?_) (fun _ => ?_)
      · exact Keeps.via (State.setAtBound_keeps ..) rfl Keeps.refl
      · refine Keeps.via (State.setAtBound_keeps ..) rfl ?_
        refine Keeps.via (State.fset_keeps ..) rfl ?_
        exact Keeps.via (State.setLane_keeps ..) rfl Keeps.refl


theorem State.setLaneState_keeps (s : State) (l : Nat) (st : Nat) : Keeps [.regs, .events, .larder, .pool, .corr, .mac, .free] s (State.setLaneState s l st) := by
  unfold State.setLaneState
  refine Keeps.via (State.updateLinks_keeps ..) rfl ?_
  exact Keeps.via (State.fset_keeps ..) rfl Keeps.refl


theorem State.setEq_keeps (s : State) (l : Nat) (pre2 : Nat) (pre1 : Nat) (post1 : Nat) (ctle : Nat) : Keeps [.regs] s (State.setEq s l pre2 pre1 post1 ctle) := by
  unfold State.setEq
  refine Keeps.via (State.fset_keeps ..) rfl ?_
  refine Keeps.via (State.fset_keeps ..) rfl ?_
  refine Keeps.via (State.fset_keeps ..) rfl ?_
  exact Keeps.via (State.fset_keeps ..) rfl Keeps.refl


theorem State.laneTrain_keeps (s : State) (l : Nat) : Keeps [.regs, .events, .larder, .pool, .corr, .lanes, .mac, .free] s (State.laneTrain s l) := by
  unfold State.laneTrain
  try extract_lets
  refine Keeps.via (State.setLaneState_keeps ..) rfl ?_
  refine Keeps.via (State.fset_keeps ..) rfl ?_
  refine Keeps.via (State.fset_keeps ..) rfl ?_
  refine Keeps.via (State.fset_keeps ..) rfl ?_
  refine Keeps.via (State.setEq_keeps ..) rfl ?_
  exact Keeps.via (State.setLane_keeps ..) rfl Keeps.refl


theorem State.attemptFailed_keeps (s : State) (l : Nat) : Keeps [.regs, .events, .larder, .pool, .corr, .lanes, .mac, .free] s (State.attemptFailed s l) := by
  unfold State.attemptFailed
  try extract_lets
  refine Keeps.ite (fun _ => ?_) (fun _ => ?_)
  · refine Keeps.via (State.setLane_keeps ..) rfl ?_
    exact Keeps.via (State.fsat_keeps ..) rfl Keeps.refl
  · refine Keeps.ite (fun _ => ?_) (fun _ => ?_)
    · refine Keeps.via (State.setLane_keeps ..) rfl ?_
      exact Keeps.via (State.fsat_keeps ..) rfl Keeps.refl
    · refine Keeps.via (State.laneTrain_keeps ..) rfl ?_
      exact Keeps.via (State.fsat_keeps ..) rfl Keeps.refl


theorem State.chkClear_keeps (s : State) (l : Nat) : Keeps [.regs] s (State.chkClear s l) := by
  unfold State.chkClear
  refine Keeps.via (State.fset_keeps ..) rfl ?_
  exact Keeps.via (State.fset_keeps ..) rfl Keeps.refl


theorem State.laneDrop_keeps (s : State) (l : Nat) (st : Nat) : Keeps [.regs, .events, .larder, .pool, .corr, .lanes, .mac, .free] s (State.laneDrop s l st) := by
  unfold State.laneDrop
  try extract_lets
  refine Keeps.via (State.setLaneState_keeps ..) rfl ?_
  refine Keeps.ite (fun _ => ?_) (fun _ => ?_)
  · refine Keeps.via (State.fset_keeps ..) rfl ?_
    refine Keeps.via (State.fset_keeps ..) rfl ?_
    refine Keeps.via (State.fset_keeps ..) rfl ?_
    refine Keeps.via (State.setEq_keeps ..) rfl ?_
    exact Keeps.via (State.setLane_keeps ..) rfl Keeps.refl
  · refine Keeps.via (State.fset_keeps ..) rfl ?_
    refine Keeps.via (State.fset_keeps ..) rfl ?_
    refine Keeps.via (State.setEq_keeps ..) rfl ?_
    exact Keeps.via (State.setLane_keeps ..) rfl Keeps.refl


theorem State.setRate_keeps (s : State) (l : Nat) (r : Nat) : Keeps [.regs, .events, .larder, .pool, .corr, .lanes, .mac, .free] s (State.setRate s l r) := by
  unfold State.setRate
  refine Keeps.ite (fun _ => ?_) (fun _ => ?_)
  · exact Keeps.refl
  · try extract_lets
    refine Keeps.ite (fun _ => ?_) (fun _ => ?_)
    · refine Keeps.via (State.updateLinks_keeps ..) rfl ?_
      exact Keeps.via (State.fset_keeps ..) rfl Keeps.refl
    · refine Keeps.via (State.laneTrain_keeps ..) rfl ?_
      refine Keeps.via (State.laneDrop_keeps ..) rfl ?_
      exact Keeps.via (State.fset_keeps ..) rfl Keeps.refl


theorem State.setLoopback_keeps (s : State) (l : Nat) (v : Nat) : Keeps [.regs, .events, .larder, .pool, .corr, .lanes, .mac, .free] s (State.setLoopback s l v) := by
  unfold State.setLoopback
  refine Keeps.ite (fun _ => ?_) (fun _ => ?_)
  · exact Keeps.refl
  · try extract_lets
    refine Keeps.ite (fun _ => ?_) (fun _ => ?_)
    · exact Keeps.via (State.fset_keeps ..) rfl Keeps.refl
    · refine Keeps.via (State.laneTrain_keeps ..) rfl ?_
      exact Keeps.via (State.fset_keeps ..) rfl Keeps.refl


theorem State.injOnce_keeps (s : State) (l : Nat) : Keeps [.regs, .lanes] s (State.injOnce s l) := by
  unfold State.injOnce
  refine Keeps.ite (fun _ => ?_) (fun _ => ?_)
  · exact Keeps.via (State.fsat_keeps ..) rfl Keeps.refl
  · exact Keeps.via (State.setLane_keeps ..) rfl Keeps.refl


theorem State.lanePost_keeps (s : State) (l : Nat) (code : Nat) (sev : Nat) : Keeps [.events] s (State.lanePost s l code sev) := by
  unfold State.lanePost
  exact Keeps.via (State.post_keeps ..) rfl Keeps.refl


theorem State.laneStop_keeps (s : State) (l : Nat) : Keeps [.regs, .events, .larder, .pool, .corr, .lanes, .mac, .free] s (State.laneStop s l) := by
  unfold State.laneStop
  try extract_lets
  refine Keeps.via (State.lanePost_keeps ..) rfl ?_
  refine Keeps.via (State.setLaneState_keeps ..) rfl ?_
  exact Keeps.via (State.setLane_keeps ..) rfl Keeps.refl


theorem State.retrain_keeps (s : State) (l : Nat) (pass : Bool) : Keeps [.regs, .events, .larder, .pool, .corr, .lanes, .mac, .free] s (State.retrain s l pass) := by
  unfold State.retrain
  split
  · refine Keeps.ite (fun _ => ?_) (fun _ => ?_)
    · refine Keeps.via (State.laneTrain_keeps ..) rfl ?_
      exact Keeps.via (State.setLane_keeps ..) rfl Keeps.refl
    · exact Keeps.via (State.laneStop_keeps ..) rfl Keeps.refl
  · exact Keeps.refl
  · exact Keeps.refl
  · refine Keeps.via (State.laneTrain_keeps ..) rfl ?_
    exact Keeps.via (State.setLane_keeps ..) rfl Keeps.refl


theorem State.eyeCount_keeps (s : State) (l : Nat) (eye : Nat) : Keeps [.regs, .events, .lanes] s (State.eyeCount s l eye) := by
  unfold State.eyeCount
  try extract_lets
  refine Keeps.ite (fun _ => ?_) (fun _ => ?_)
  · try extract_lets
    refine Keeps.ite (fun _ => ?_) (fun _ => ?_)
    · refine Keeps.via (State.lanePost_keeps ..) rfl ?_
      refine Keeps.via (State.fset_keeps ..) rfl ?_
      exact Keeps.via (State.setLane_keeps ..) rfl Keeps.refl
    · exact Keeps.via (State.setLane_keeps ..) rfl Keeps.refl
  · try extract_lets
    refine Keeps.ite (fun _ => ?_) (fun _ => ?_)
    · refine Keeps.via (State.fset_keeps ..) rfl ?_
      exact Keeps.via (State.setLane_keeps ..) rfl Keeps.refl
    · exact Keeps.via (State.setLane_keeps ..) rfl Keeps.refl


theorem State.laneActive_keeps (s : State) (l : Nat) : Keeps [.regs, .events, .larder, .pool, .corr, .lanes, .mac, .free] s (State.laneActive s l) := by
  unfold State.laneActive
  refine Keeps.via (State.lanePost_keeps ..) rfl ?_
  refine Keeps.via (State.setLaneState_keeps ..) rfl ?_
  refine Keeps.via (State.fset_keeps ..) rfl ?_
  refine Keeps.via (State.fset_keeps ..) rfl ?_
  exact Keeps.via (State.setLane_keeps ..) rfl Keeps.refl


theorem State.laneReach_keeps (s : State) (l : Nat) (pass : Bool) : Keeps [.regs, .events, .larder, .pool, .corr, .lanes, .mac, .free] s (State.laneReach s l pass) := by
  unfold State.laneReach
  try extract_lets
  refine Keeps.ite (fun _ => ?_) (fun _ => ?_)
  · refine Keeps.ite (fun _ => ?_) (fun _ => ?_)
    · exact Keeps.via (State.laneDrop_keeps ..) rfl Keeps.refl
    · exact Keeps.refl
  · refine Keeps.ite (fun _ => ?_) (fun _ => ?_)
    · refine Keeps.ite (fun _ => ?_) (fun _ => ?_)
      · exact Keeps.refl
      · refine Keeps.ite (fun _ => ?_) (fun _ => ?_)
        · exact Keeps.via (State.laneStop_keeps ..) rfl Keeps.refl
        · try extract_lets
          refine Keeps.ite (fun _ => ?_) (fun _ => ?_)
          · refine Keeps.via (State.setLaneState_keeps ..) rfl ?_
            exact Keeps.via (State.setLane_keeps ..) rfl Keeps.refl
          · refine Keeps.via (State.laneTrain_keeps ..) rfl ?_
            exact Keeps.via (State.setLane_keeps ..) rfl Keeps.refl
    · refine Keeps.ite (fun _ => ?_) (fun _ => ?_)
      · refine Keeps.ite (fun _ => ?_) (fun _ => ?_)
        · exact Keeps.via (State.laneDrop_keeps ..) rfl Keeps.refl
        · refine Keeps.ite (fun _ => ?_) (fun _ => ?_)
          · exact Keeps.refl
          · exact Keeps.via (State.laneTrain_keeps ..) rfl Keeps.refl
      · refine Keeps.ite (fun _ => ?_) (fun _ => ?_)
        · exact Keeps.via (State.laneDrop_keeps ..) rfl Keeps.refl
        · refine Keeps.ite (fun _ => ?_) (fun _ => ?_)
          · exact Keeps.refl
          · refine Keeps.ite (fun _ => ?_) (fun _ => ?_)
            · refine Keeps.via (State.setLaneState_keeps ..) rfl ?_
              exact Keeps.via (State.setLane_keeps ..) rfl Keeps.refl
            · refine Keeps.ite (fun _ => ?_) (fun _ => ?_)
              · refine Keeps.via (State.setLaneState_keeps ..) rfl ?_
                exact Keeps.via (State.fset_keeps ..) rfl Keeps.refl
              · refine Keeps.ite (fun _ => ?_) (fun _ => ?_)
                · refine Keeps.via (State.lanePost_keeps ..) rfl ?_
                  exact Keeps.via (State.setLaneState_keeps ..) rfl Keeps.refl
                · exact Keeps.via (State.setLaneState_keeps ..) rfl Keeps.refl


theorem execLaneRetrain_keeps (l : LaneIx) (pass : Bool) (s : State) : OutKeeps [.regs, .events, .larder, .pool, .corr, .lanes, .mac, .free] s (execLaneRetrain l pass s) := by
  unfold execLaneRetrain
  refine OutKeeps.next ?_
  exact Keeps.via (State.retrain_keeps ..) rfl Keeps.refl


theorem execInjOnce_keeps (l : LaneIx) (s : State) : OutKeeps [.regs, .lanes] s (execInjOnce l s) := by
  unfold execInjOnce
  refine OutKeeps.next ?_
  exact Keeps.via (State.injOnce_keeps ..) rfl Keeps.refl


theorem execInjRate_keeps (l : LaneIx) (k : Fin 64) (s : State) : OutKeeps [.regs] s (execInjRate l k s) := by
  unfold execInjRate
  refine OutKeeps.ite (fun _ => ?_) (fun _ => ?_)
  · refine OutKeeps.next ?_
    exact Keeps.via (State.fset_keeps ..) rfl Keeps.refl
  · refine OutKeeps.next ?_
    exact Keeps.refl


theorem execLaneAttemptTimeout_keeps (l : LaneIx) (s : State) : OutKeeps [.regs, .events, .larder, .pool, .corr, .lanes, .mac, .free] s (execLaneAttemptTimeout l s) := by
  unfold execLaneAttemptTimeout
  refine OutKeeps.ite (fun _ => ?_) (fun _ => ?_)
  · refine OutKeeps.next ?_
    exact Keeps.via (State.attemptFailed_keeps ..) rfl Keeps.refl
  · refine OutKeeps.next ?_
    exact Keeps.refl


theorem execLoopbackChange_keeps (l : LaneIx) (v : Fin 3) (s : State) : OutKeeps [.regs, .events, .larder, .pool, .corr, .lanes, .mac, .free] s (execLoopbackChange l v s) := by
  unfold execLoopbackChange
  refine OutKeeps.next ?_
  exact Keeps.via (State.setLoopback_keeps ..) rfl Keeps.refl


theorem execLaneUp_keeps (l : LaneIx) (eye : Nat) (ctle : Nat) (s : State) : OutKeeps [.regs, .events, .larder, .pool, .corr, .lanes, .mac, .free] s (execLaneUp l eye ctle s) := by
  unfold execLaneUp
  try extract_lets
  refine OutKeeps.ite (fun _ => ?_) (fun _ => ?_)
  · refine OutKeeps.next ?_
    exact Keeps.refl
  · refine OutKeeps.ite (fun _ => ?_) (fun _ => ?_)
    · refine OutKeeps.next ?_
      exact Keeps.via (State.laneActive_keeps ..) rfl Keeps.refl
    · try extract_lets
      refine OutKeeps.ite (fun _ => ?_) (fun _ => ?_)
      · refine OutKeeps.next ?_
        refine Keeps.via (State.fset_keeps ..) rfl ?_
        refine Keeps.via (State.laneActive_keeps ..) rfl ?_
        refine Keeps.via (State.setAtBound_keeps ..) rfl ?_
        refine Keeps.via (State.fset_keeps ..) rfl ?_
        exact Keeps.via (State.fset_keeps ..) rfl Keeps.refl
      · refine OutKeeps.next ?_
        refine Keeps.via (State.attemptFailed_keeps ..) rfl ?_
        refine Keeps.via (State.setAtBound_keeps ..) rfl ?_
        refine Keeps.via (State.fset_keeps ..) rfl ?_
        exact Keeps.via (State.fset_keeps ..) rfl Keeps.refl


theorem execLaneRateWrite_keeps (l : LaneIx) (r : Fin 16) (s : State) : OutKeeps [.regs, .events, .larder, .pool, .corr, .lanes, .mac, .free] s (execLaneRateWrite l r s) := by
  unfold execLaneRateWrite
  refine OutKeeps.next ?_
  exact Keeps.via (State.setRate_keeps ..) rfl Keeps.refl


theorem execLaneSelfTestDone_keeps (l : LaneIx) (pass : Bool) (s : State) : OutKeeps [.regs, .events, .larder, .pool, .corr, .lanes, .mac, .free] s (execLaneSelfTestDone l pass s) := by
  unfold execLaneSelfTestDone
  try extract_lets
  refine OutKeeps.ite (fun _ => ?_) (fun _ => ?_)
  · refine OutKeeps.ite (fun _ => ?_) (fun _ => ?_)
    · refine OutKeeps.next ?_
      refine Keeps.via (State.lanePost_keeps ..) rfl ?_
      exact Keeps.via (State.setLane_keeps ..) rfl Keeps.refl
    · refine OutKeeps.next ?_
      exact Keeps.via (State.laneStop_keeps ..) rfl Keeps.refl
  · refine OutKeeps.next ?_
    exact Keeps.refl


theorem execLinkTrainingRequest_keeps (l : LaneIx) (tap : Fin 3) (inc : Bool) (s : State) : OutKeeps [.regs, .answer] s (execLinkTrainingRequest l tap inc s) := by
  unfold execLinkTrainingRequest
  try extract_lets
  refine OutKeeps.ite (fun _ => ?_) (fun _ => ?_)
  · split
    · try extract_lets
      refine OutKeeps.ite (fun _ => ?_) (fun _ => ?_)
      · refine OutKeeps.next ?_
        try extract_lets
        refine Keeps.upd_answer rfl ?_
        refine Keeps.via (State.setAtBound_keeps ..) rfl ?_
        exact Keeps.via (State.fset_keeps ..) rfl Keeps.refl
      · refine OutKeeps.next ?_
        exact Keeps.upd_answer rfl Keeps.refl
  · refine OutKeeps.next ?_
    exact Keeps.refl


theorem execLaneReqState_keeps (l : LaneIx) (v : Fin 5) (s : State) : OutKeeps [.regs] s (execLaneReqState l v s) := by
  unfold execLaneReqState
  refine OutKeeps.next ?_
  exact Keeps.via (State.fset_keeps ..) rfl Keeps.refl


theorem execChkClear_keeps (l : LaneIx) (s : State) : OutKeeps [.regs] s (execChkClear l s) := by
  unfold execChkClear
  refine OutKeeps.next ?_
  exact Keeps.via (State.chkClear_keeps ..) rfl Keeps.refl


theorem execEyeMeasurement_keeps (l : LaneIx) (eye : Nat) (dir : Fin 3) (s : State) : OutKeeps [.regs, .events, .lanes] s (execEyeMeasurement l eye dir s) := by
  unfold execEyeMeasurement
  refine OutKeeps.ite (fun _ => ?_) (fun _ => ?_)
  · refine OutKeeps.next ?_
    refine Keeps.via (State.eyeCount_keeps ..) rfl ?_
    refine Keeps.via (State.adapt_keeps ..) rfl ?_
    exact Keeps.via (State.fset_keeps ..) rfl Keeps.refl
  · refine OutKeeps.next ?_
    exact Keeps.refl


theorem execLaneRelockTimeout_keeps (l : LaneIx) (s : State) : OutKeeps [.regs, .events, .larder, .pool, .corr, .lanes, .mac, .free] s (execLaneRelockTimeout l s) := by
  unfold execLaneRelockTimeout
  refine OutKeeps.ite (fun _ => ?_) (fun _ => ?_)
  · refine OutKeeps.next ?_
    exact Keeps.via (State.laneTrain_keeps ..) rfl Keeps.refl
  · refine OutKeeps.next ?_
    exact Keeps.refl


theorem execLaneStateReached_keeps (l : LaneIx) (pass : Bool) (s : State) : OutKeeps [.regs, .events, .larder, .pool, .corr, .lanes, .mac, .free] s (execLaneStateReached l pass s) := by
  unfold execLaneStateReached
  refine OutKeeps.next ?_
  exact Keeps.via (State.laneReach_keeps ..) rfl Keeps.refl


theorem execLaneSignalLost_keeps (l : LaneIx) (s : State) : OutKeeps [.regs, .events, .larder, .pool, .corr, .lanes, .mac, .free] s (execLaneSignalLost l s) := by
  unfold execLaneSignalLost
  refine OutKeeps.ite (fun _ => ?_) (fun _ => ?_)
  · refine OutKeeps.next ?_
    refine Keeps.via (State.lanePost_keeps ..) rfl ?_
    refine Keeps.via (State.setLaneState_keeps ..) rfl ?_
    refine Keeps.via (State.setLane_keeps ..) rfl ?_
    refine Keeps.via (State.fset_keeps ..) rfl ?_
    exact Keeps.via (State.fset_keeps ..) rfl Keeps.refl
  · refine OutKeeps.next ?_
    exact Keeps.refl


theorem execPatternCheckerLock_keeps (l : LaneIx) (locked : Bool) (errors : Nat) (s : State) : OutKeeps [.regs] s (execPatternCheckerLock l locked errors s) := by
  unfold execPatternCheckerLock
  refine OutKeeps.ite (fun _ => ?_) (fun _ => ?_)
  · refine OutKeeps.next ?_
    exact Keeps.via (State.fset_keeps ..) rfl Keeps.refl
  · try extract_lets
    refine OutKeeps.next ?_
    refine Keeps.via (State.fset_keeps ..) rfl ?_
    refine Keeps.ite (fun _ => ?_) (fun _ => ?_)
    · exact Keeps.via (State.fsat_keeps ..) rfl Keeps.refl
    · exact Keeps.refl


theorem execLaneSignalDetect_keeps (l : LaneIx) (locked : Bool) (s : State) : OutKeeps [.regs] s (execLaneSignalDetect l locked s) := by
  unfold execLaneSignalDetect
  refine OutKeeps.ite (fun _ => ?_) (fun _ => ?_)
  · refine OutKeeps.next ?_
    refine Keeps.via (State.fset_keeps ..) rfl ?_
    exact Keeps.via (State.fset_keeps ..) rfl Keeps.refl
  · refine OutKeeps.next ?_
    exact Keeps.refl


theorem execLaneRetry_keeps (l : LaneIx) (s : State) : OutKeeps [.regs, .events, .larder, .pool, .corr, .lanes, .mac, .free] s (execLaneRetry l s) := by
  unfold execLaneRetry
  refine OutKeeps.ite (fun _ => ?_) (fun _ => ?_)
  · refine OutKeeps.next ?_
    exact Keeps.via (State.laneTrain_keeps ..) rfl Keeps.refl
  · refine OutKeeps.next ?_
    exact Keeps.refl


end Sys2Proof.Machine
end

