-- ==== Sys2Proof/Laws/Keeps/Seam.lean ====
section
/-! SUPPORT. What the operations of Machine/Seam.lean may change, and that they keep the invariant. -/

namespace Sys2Proof.Machine

theorem State.setConn_keeps (s : State) (d : Nat) (e : Nat) (v : RingConn) : Keeps [.ring] s (State.setConn s d e v) := by
  unfold State.setConn
  exact Keeps.upd_ring rfl Keeps.refl


theorem State.setSeamChan_keeps (s : State) (sm : Nat) (c : Nat) (v : SeamCh) : Keeps [.seamCh] s (State.setSeamChan s sm c v) := by
  unfold State.setSeamChan
  exact Keeps.upd_seamCh rfl Keeps.refl


theorem State.seamAccept_keeps (s : State) (d : Nat) (e : Nat) (tok : Nat) (peerLoss : Nat) :
    ∀ p, (State.seamAccept s d e tok peerLoss) = some p → Keeps [.regs, .seamCh] s p := by
  intro r hr
  unfold State.seamAccept at hr
  dsimp only at hr
  repeat' split at hr
  all_goals first | cases hr | skip
  · exact State.fsat_keeps .. |>.via rfl Keeps.refl
  · exact State.setSeamChan_keeps .. |>.via rfl Keeps.refl


theorem State.epDeliver_keeps (s : State) (d : Nat) (e : Nat) (tok : Nat) (peerLoss : Nat) :
    ∀ p, (State.epDeliver s d e tok peerLoss) = some p → Keeps [.regs, .tins, .laneOut, .seamCh] s p := by
  intro r hr
  unfold State.epDeliver at hr
  dsimp only at hr
  split at hr
  · simp only [Option.map_eq_some_iff] at hr
    obtain ⟨x, _, rfl⟩ := hr
    exact State.setTin_keeps .. |>.via rfl Keeps.refl
  · split at hr
    · cases hr
      exact Keeps.upd_laneOut rfl Keeps.refl
    · cases hr
  · exact (State.seamAccept_keeps _ _ _ _ _ _ hr).via rfl Keeps.refl


theorem State.clearMin_keeps (s : State) (d : Nat) (e : Nat) : Keeps [.dozens] s (State.clearMin s d e) := by
  unfold State.clearMin
  try extract_lets
  exact Keeps.upd_dozens rfl Keeps.refl


theorem State.epTake_keeps (s : State) (d : Nat) (e : Nat) : Keeps [.tins, .laneIn, .seamCh] s (State.epTake s d e) := by
  unfold State.epTake
  split
  · try extract_lets
    exact Keeps.via (State.setTin_keeps ..) rfl Keeps.refl
  · exact Keeps.upd_laneIn rfl Keeps.refl
  · exact Keeps.via (State.setSeamChan_keeps ..) rfl Keeps.refl


theorem State.seamPeerLost_keeps (s : State) (d : Nat) (e : Nat) : Keeps [.regs, .events, .seamCh] s (State.seamPeerLost s d e) := by
  unfold State.seamPeerLost
  try extract_lets
  refine Keeps.via (State.post_keeps ..) rfl ?_
  refine Keeps.via (State.fset_keeps ..) rfl ?_
  refine Keeps.via (State.fsat_keeps ..) rfl ?_
  refine Keeps.foldl (fun _ _ => ?_) ?_
  · exact Keeps.via (State.setSeamChan_keeps ..) rfl Keeps.refl
  · refine Keeps.foldl (fun _ _ => ?_) ?_
    · exact Keeps.via (State.setSeamChan_keeps ..) rfl Keeps.refl
    · exact Keeps.refl


theorem State.resumeOn_keeps (s : State) (sm : Nat) (c : Nat) (z : Nat) : Keeps [.seamCh] s (State.resumeOn s sm c z) := by
  unfold State.resumeOn
  try extract_lets
  exact Keeps.via (State.setSeamChan_keeps ..) rfl Keeps.refl


theorem State.seamBoth_keeps (s : State) (sm : Nat) (f : Nat → Nat → Fld) (n : Nat) : Keeps [.regs] s (State.seamBoth s sm f n) := by
  unfold State.seamBoth
  refine Keeps.via (State.fsat_keeps ..) rfl ?_
  exact Keeps.via (State.fsat_keeps ..) rfl Keeps.refl


theorem State.setDozen_keeps (s : State) (sm : Nat) (z : Nat) (v : Dozen) : Keeps [.dozens] s (State.setDozen s sm z v) := by
  unfold State.setDozen
  exact Keeps.upd_dozens rfl Keeps.refl


theorem State.park_keeps (s : State) (sm : Nat) (z : Nat) : Keeps [.dozens] s (State.park s sm z) := by
  unfold State.park
  exact Keeps.via (State.setDozen_keeps ..) rfl Keeps.refl


theorem State.foldOnto_keeps (s : State) (sm : Nat) (c : Nat) (keep : Nat) (other : Nat) : Keeps [.regs, .events, .seamCh, .dozens] s (State.foldOnto s sm c keep other) := by
  unfold State.foldOnto
  try extract_lets
  refine Keeps.via (State.post_keeps ..) rfl ?_
  refine Keeps.via (State.post_keeps ..) rfl ?_
  refine Keeps.via (State.seamBoth_keeps ..) rfl ?_
  refine Keeps.ite (fun _ => ?_) (fun _ => ?_)
  · refine Keeps.via (State.park_keeps ..) rfl ?_
    refine Keeps.via (State.setSeamChan_keeps ..) rfl ?_
    refine Keeps.via (State.setSeamChan_keeps ..) rfl ?_
    exact Keeps.via (State.resumeOn_keeps ..) rfl Keeps.refl
  · refine Keeps.via (State.setSeamChan_keeps ..) rfl ?_
    refine Keeps.via (State.setSeamChan_keeps ..) rfl ?_
    exact Keeps.via (State.resumeOn_keeps ..) rfl Keeps.refl


theorem State.foldSent_keeps (s : State) (sm : Nat) (c : Nat) : Keeps [.seamCh] s (State.foldSent s sm c) := by
  unfold State.foldSent
  split
  · exact Keeps.refl
  · try extract_lets
    refine Keeps.via (State.setSeamChan_keeps ..) rfl ?_
    exact Keeps.via (State.setSeamChan_keeps ..) rfl Keeps.refl


theorem State.loseOne_keeps (s : State) (sm : Nat) (c : Nat) : Keeps [.regs, .events, .seamCh] s (State.loseOne s sm c) := by
  unfold State.loseOne
  try extract_lets
  refine Keeps.via (State.post_keeps ..) rfl ?_
  refine Keeps.via (State.seamBoth_keeps ..) rfl ?_
  exact Keeps.via (State.setSeamChan_keeps ..) rfl Keeps.refl


theorem State.loseChannel_keeps (s : State) (sm : Nat) (c : Nat) : Keeps [.regs, .events, .seamCh] s (State.loseChannel s sm c) := by
  unfold State.loseChannel
  split
  · refine Keeps.via (State.loseOne_keeps ..) rfl ?_
    exact Keeps.via (State.loseOne_keeps ..) rfl Keeps.refl
  · exact Keeps.via (State.loseOne_keeps ..) rfl Keeps.refl


theorem State.loseDozen_keeps (s : State) (sm : Nat) (z : Nat) (wire : Nat) : Keeps [.regs, .events, .dozens] s (State.loseDozen s sm z wire) := by
  unfold State.loseDozen
  try extract_lets
  refine Keeps.ite (fun _ => ?_) (fun _ => ?_)
  · exact Keeps.refl
  · try extract_lets
    split
    · refine Keeps.ite (fun _ => ?_) (fun _ => ?_)
      · refine Keeps.via (State.post_keeps ..) rfl ?_
        refine Keeps.via (State.seamBoth_keeps ..) rfl ?_
        exact Keeps.via (State.setDozen_keeps ..) rfl Keeps.refl
      · exact Keeps.via (State.setDozen_keeps ..) rfl Keeps.refl


theorem State.loseStranded_keeps (s : State) (sm : Nat) : Keeps [.regs, .events, .seamCh] s (State.loseStranded s sm) := by
  unfold State.loseStranded
  refine Keeps.foldl (fun _ _ => ?_) ?_
  · refine Keeps.ite (fun _ => ?_) (fun _ => ?_)
    · exact Keeps.via (State.loseChannel_keeps ..) rfl Keeps.refl
    · exact Keeps.refl
  · exact Keeps.refl


theorem State.needDozen_keeps (s : State) (sm : Nat) (c : Nat) (stop : Bool) : Keeps [.regs, .events, .seamCh] s (State.needDozen s sm c stop) := by
  unfold State.needDozen
  refine Keeps.ite (fun _ => ?_) (fun _ => ?_)
  · exact Keeps.refl
  · refine Keeps.ite (fun _ => ?_) (fun _ => ?_)
    · exact Keeps.via (State.loseChannel_keeps ..) rfl Keeps.refl
    · try extract_lets
      exact Keeps.via (State.setSeamChan_keeps ..) rfl Keeps.refl


theorem State.measure_keeps (s : State) (sm : Nat) (z : Nat) (m : Margin) : Keeps [.regs, .events, .seamCh, .dozens] s (State.measure s sm z m) := by
  unfold State.measure
  try extract_lets
  split
  · try extract_lets
    refine Keeps.ite (fun _ => ?_) (fun _ => ?_)
    · refine Keeps.ite (fun _ => ?_) (fun _ => ?_)
      · refine Keeps.via (State.post_keeps ..) rfl ?_
        refine Keeps.via (State.fsat_keeps ..) rfl ?_
        refine Keeps.ite (fun _ => ?_) (fun _ => ?_)
        · refine Keeps.via (State.post_keeps ..) rfl ?_
          refine Keeps.via (State.fsat_keeps ..) rfl ?_
          exact Keeps.via (State.setDozen_keeps ..) rfl Keeps.refl
        · exact Keeps.via (State.setDozen_keeps ..) rfl Keeps.refl
      · refine Keeps.ite (fun _ => ?_) (fun _ => ?_)
        · refine Keeps.via (State.post_keeps ..) rfl ?_
          refine Keeps.via (State.fsat_keeps ..) rfl ?_
          exact Keeps.via (State.setDozen_keeps ..) rfl Keeps.refl
        · exact Keeps.via (State.setDozen_keeps ..) rfl Keeps.refl
    · first | split | (dsimp +zetaDelta only; split)
      · refine Keeps.via (State.loseDozen_keeps ..) rfl ?_
        refine Keeps.ite (fun _ => ?_) (fun _ => ?_)
        · refine Keeps.via (State.post_keeps ..) rfl ?_
          refine Keeps.via (State.fsat_keeps ..) rfl ?_
          refine Keeps.ite (fun _ => ?_) (fun _ => ?_)
          · refine Keeps.via (State.post_keeps ..) rfl ?_
            refine Keeps.via (State.fsat_keeps ..) rfl ?_
            exact Keeps.via (State.setDozen_keeps ..) rfl Keeps.refl
          · exact Keeps.via (State.setDozen_keeps ..) rfl Keeps.refl
        · refine Keeps.ite (fun _ => ?_) (fun _ => ?_)
          · refine Keeps.via (State.post_keeps ..) rfl ?_
            refine Keeps.via (State.fsat_keeps ..) rfl ?_
            exact Keeps.via (State.setDozen_keeps ..) rfl Keeps.refl
          · exact Keeps.via (State.setDozen_keeps ..) rfl Keeps.refl
      · try extract_lets
        refine Keeps.ite (fun _ => ?_) (fun _ => ?_)
        · refine Keeps.via (State.needDozen_keeps ..) rfl ?_
          refine Keeps.ite (fun _ => ?_) (fun _ => ?_)
          · refine Keeps.via (State.post_keeps ..) rfl ?_
            refine Keeps.ite (fun _ => ?_) (fun _ => ?_)
            · refine Keeps.via (State.post_keeps ..) rfl ?_
              refine Keeps.via (State.fsat_keeps ..) rfl ?_
              refine Keeps.ite (fun _ => ?_) (fun _ => ?_)
              · refine Keeps.via (State.post_keeps ..) rfl ?_
                refine Keeps.via (State.fsat_keeps ..) rfl ?_
                exact Keeps.via (State.setDozen_keeps ..) rfl Keeps.refl
              · exact Keeps.via (State.setDozen_keeps ..) rfl Keeps.refl
            · refine Keeps.ite (fun _ => ?_) (fun _ => ?_)
              · refine Keeps.via (State.post_keeps ..) rfl ?_
                refine Keeps.via (State.fsat_keeps ..) rfl ?_
                exact Keeps.via (State.setDozen_keeps ..) rfl Keeps.refl
              · exact Keeps.via (State.setDozen_keeps ..) rfl Keeps.refl
          · refine Keeps.ite (fun _ => ?_) (fun _ => ?_)
            · refine Keeps.via (State.post_keeps ..) rfl ?_
              refine Keeps.via (State.fsat_keeps ..) rfl ?_
              refine Keeps.ite (fun _ => ?_) (fun _ => ?_)
              · refine Keeps.via (State.post_keeps ..) rfl ?_
                refine Keeps.via (State.fsat_keeps ..) rfl ?_
                exact Keeps.via (State.setDozen_keeps ..) rfl Keeps.refl
              · exact Keeps.via (State.setDozen_keeps ..) rfl Keeps.refl
            · refine Keeps.ite (fun _ => ?_) (fun _ => ?_)
              · refine Keeps.via (State.post_keeps ..) rfl ?_
                refine Keeps.via (State.fsat_keeps ..) rfl ?_
                exact Keeps.via (State.setDozen_keeps ..) rfl Keeps.refl
              · exact Keeps.via (State.setDozen_keeps ..) rfl Keeps.refl
        · refine Keeps.ite (fun _ => ?_) (fun _ => ?_)
          · refine Keeps.via (State.post_keeps ..) rfl ?_
            refine Keeps.ite (fun _ => ?_) (fun _ => ?_)
            · refine Keeps.via (State.post_keeps ..) rfl ?_
              refine Keeps.via (State.fsat_keeps ..) rfl ?_
              refine Keeps.ite (fun _ => ?_) (fun _ => ?_)
              · refine Keeps.via (State.post_keeps ..) rfl ?_
                refine Keeps.via (State.fsat_keeps ..) rfl ?_
                exact Keeps.via (State.setDozen_keeps ..) rfl Keeps.refl
              · exact Keeps.via (State.setDozen_keeps ..) rfl Keeps.refl
            · refine Keeps.ite (fun _ => ?_) (fun _ => ?_)
              · refine Keeps.via (State.post_keeps ..) rfl ?_
                refine Keeps.via (State.fsat_keeps ..) rfl ?_
                exact Keeps.via (State.setDozen_keeps ..) rfl Keeps.refl
              · exact Keeps.via (State.setDozen_keeps ..) rfl Keeps.refl
          · refine Keeps.ite (fun _ => ?_) (fun _ => ?_)
            · refine Keeps.via (State.post_keeps ..) rfl ?_
              refine Keeps.via (State.fsat_keeps ..) rfl ?_
              refine Keeps.ite (fun _ => ?_) (fun _ => ?_)
              · refine Keeps.via (State.post_keeps ..) rfl ?_
                refine Keeps.via (State.fsat_keeps ..) rfl ?_
                exact Keeps.via (State.setDozen_keeps ..) rfl Keeps.refl
              · exact Keeps.via (State.setDozen_keeps ..) rfl Keeps.refl
            · refine Keeps.ite (fun _ => ?_) (fun _ => ?_)
              · refine Keeps.via (State.post_keeps ..) rfl ?_
                refine Keeps.via (State.fsat_keeps ..) rfl ?_
                exact Keeps.via (State.setDozen_keeps ..) rfl Keeps.refl
              · exact Keeps.via (State.setDozen_keeps ..) rfl Keeps.refl


theorem State.measureAll_keeps (s : State) (sm : Nat) (z : Nat) (ms : List Margin) : Keeps [.regs, .events, .seamCh, .dozens] s (State.measureAll s sm z ms) := by
  unfold State.measureAll
  refine Keeps.foldl (fun _ _ => ?_) ?_
  · exact Keeps.via (State.measure_keeps ..) rfl Keeps.refl
  · exact Keeps.refl


theorem State.moveTo_keeps (s : State) (sm : Nat) (c : Nat) (z : Nat) : Keeps [.regs, .events, .seamCh, .dozens] s (State.moveTo s sm c z) := by
  unfold State.moveTo
  try extract_lets
  refine Keeps.via (State.post_keeps ..) rfl ?_
  refine Keeps.ite (fun _ => ?_) (fun _ => ?_)
  · refine Keeps.via (State.seamBoth_keeps ..) rfl ?_
    try dsimp +zetaDelta only
    split
    · refine Keeps.via (State.resumeOn_keeps ..) rfl ?_
      refine Keeps.via (State.park_keeps ..) rfl ?_
      exact Keeps.via (State.resumeOn_keeps ..) rfl Keeps.refl
    · refine Keeps.via (State.park_keeps ..) rfl ?_
      exact Keeps.via (State.resumeOn_keeps ..) rfl Keeps.refl
  · try dsimp +zetaDelta only
    split
    · refine Keeps.via (State.resumeOn_keeps ..) rfl ?_
      refine Keeps.via (State.park_keeps ..) rfl ?_
      exact Keeps.via (State.resumeOn_keeps ..) rfl Keeps.refl
    · refine Keeps.via (State.park_keeps ..) rfl ?_
      exact Keeps.via (State.resumeOn_keeps ..) rfl Keeps.refl


theorem State.serveAll_keeps (s : State) (sm : Nat) : Keeps [.regs, .events, .seamCh, .dozens] s (State.serveAll s sm) := by
  unfold State.serveAll
  refine Keeps.foldl (fun _ _ => ?_) ?_
  · refine Keeps.ite (fun _ => ?_) (fun _ => ?_)
    · split
      · exact Keeps.via (State.moveTo_keeps ..) rfl Keeps.refl
      · try extract_lets
        refine Keeps.ite (fun _ => ?_) (fun _ => ?_)
        · exact Keeps.via (State.foldOnto_keeps ..) rfl Keeps.refl
        · split
          · refine Keeps.via (State.moveTo_keeps ..) rfl ?_
            exact Keeps.via (State.foldOnto_keeps ..) rfl Keeps.refl
          · refine Keeps.via (State.loseChannel_keeps ..) rfl ?_
            exact Keeps.via (State.foldOnto_keeps ..) rfl Keeps.refl
      · exact Keeps.via (State.loseChannel_keeps ..) rfl Keeps.refl
    · exact Keeps.refl
  · exact Keeps.refl


theorem State.seamTrain_keeps (s : State) (sm : Nat) (ms : List (Nat × Margin)) : Keeps [.regs, .events, .seamCh, .dozens] s (State.seamTrain s sm ms) := by
  unfold State.seamTrain
  try extract_lets
  refine Keeps.via (State.post_keeps ..) rfl ?_
  refine Keeps.foldl (fun _ _ => ?_) ?_
  · refine Keeps.ite (fun _ => ?_) (fun _ => ?_)
    · exact Keeps.via (State.fset_keeps ..) rfl Keeps.refl
    · exact Keeps.refl
  · refine Keeps.via (State.fsat_keeps ..) rfl ?_
    refine Keeps.via (State.fsat_keeps ..) rfl ?_
    refine Keeps.via (State.fset_keeps ..) rfl ?_
    refine Keeps.via (State.fset_keeps ..) rfl ?_
    refine Keeps.via (State.fset_keeps ..) rfl ?_
    refine Keeps.via (State.fset_keeps ..) rfl ?_
    refine Keeps.foldl (fun _ _ => ?_) ?_
    · exact Keeps.via (State.setSeamChan_keeps ..) rfl Keeps.refl
    · refine Keeps.via (State.serveAll_keeps ..) rfl ?_
      refine Keeps.foldl (fun _ _ => ?_) ?_
      · exact Keeps.via (State.measure_keeps ..) rfl Keeps.refl
      · exact Keeps.refl


theorem execProofNotice_keeps (t : TinIx) (tag : Nat) (epoch : Nat) (s : State) : OutKeeps [.tins] s (execProofNotice t tag epoch s) := by
  unfold execProofNotice
  try extract_lets
  refine OutKeeps.next ?_
  exact Keeps.via (State.setTin_keeps ..) rfl Keeps.refl


theorem execSeamFold_keeps (sm : DieIx) (entry : Nat) (s : State) : OutKeeps [.regs, .events, .seamCh, .dozens] s (execSeamFold sm entry s) := by
  unfold execSeamFold
  split
  · split
    · refine OutKeeps.next ?_
      refine Keeps.via (State.loseStranded_keeps ..) rfl ?_
      exact Keeps.via (State.foldOnto_keeps ..) rfl Keeps.refl
    · refine OutKeeps.next ?_
      exact Keeps.refl
  · refine OutKeeps.next ?_
    exact Keeps.refl


theorem execClearMin_keeps (e : SeamEndIx) (s : State) : OutKeeps [.dozens] s (execClearMin e s) := by
  unfold execClearMin
  refine OutKeeps.next ?_
  exact Keeps.via (State.clearMin_keeps ..) rfl Keeps.refl


theorem execChannelAckReceived_keeps (r : ChanRef) (ms : List Margin) (s : State) : OutKeeps [.regs, .events, .ring, .seamCh, .dozens, .bench] s (execChannelAckReceived r ms s) := by
  unfold execChannelAckReceived
  split
  · try extract_lets
    refine OutKeeps.ite (fun _ => ?_) (fun _ => ?_)
    · refine OutKeeps.next ?_
      refine Keeps.via (State.measureAll_keeps ..) rfl ?_
      exact Keeps.via (State.setSeamChan_keeps ..) rfl Keeps.refl
    · refine OutKeeps.next ?_
      exact Keeps.refl
  · try extract_lets
    refine OutKeeps.ite (fun _ => ?_) (fun _ => ?_)
    · refine OutKeeps.next ?_
      exact Keeps.via (State.setConn_keeps ..) rfl Keeps.refl
    · refine OutKeeps.next ?_
      exact Keeps.refl
  · try extract_lets
    refine OutKeeps.ite (fun _ => ?_) (fun _ => ?_)
    · refine OutKeeps.next ?_
      exact Keeps.upd_bench rfl Keeps.refl
    · refine OutKeeps.next ?_
      exact Keeps.refl


theorem execChannelTokenCapture_keeps (r : ChanRef) (ms : List Margin) (s : State) : OutKeeps [.regs, .events, .tins, .ring, .laneOut, .seamCh, .dozens, .bench] s (execChannelTokenCapture r ms s) := by
  unfold execChannelTokenCapture
  split
  · try extract_lets
    refine OutKeeps.ite (fun _ => ?_) (fun _ => ?_)
    · refine OutKeeps.next ?_
      refine Keeps.via (State.measureAll_keeps ..) rfl ?_
      exact Keeps.via (State.setSeamChan_keeps ..) rfl Keeps.refl
    · refine OutKeeps.next ?_
      exact Keeps.refl
  · try extract_lets
    refine OutKeeps.ite (fun _ => ?_) (fun _ => ?_)
    · split
      · refine OutKeeps.next ?_
        refine Keeps.via (State.setConn_keeps ..) rfl ?_
        exact Keeps.via (State.epDeliver_keeps _ _ _ _ _ _ ‹_›) rfl Keeps.refl
      · refine OutKeeps.next ?_
        exact Keeps.refl
    · refine OutKeeps.next ?_
      exact Keeps.refl
  · try extract_lets
    refine OutKeeps.ite (fun _ => ?_) (fun _ => ?_)
    · refine OutKeeps.next ?_
      exact Keeps.upd_bench rfl Keeps.refl
    · refine OutKeeps.next ?_
      exact Keeps.refl


theorem execCrustPortModeChange_keeps (t : TinIx) (p : Fin 384) (s : State) : OutKeeps [.tins] s (execCrustPortModeChange t p s) := by
  unfold execCrustPortModeChange
  try extract_lets
  split
  · refine OutKeeps.ite (fun _ => ?_) (fun _ => ?_)
    · refine OutKeeps.next ?_
      exact Keeps.via (State.setTin_keeps ..) rfl Keeps.refl
    · refine OutKeeps.next ?_
      exact Keeps.refl
  · refine OutKeeps.next ?_
    exact Keeps.refl


theorem execSweep_keeps (sm : DieIx) (z : Fin 4224) (ms : List Margin) (s : State) : OutKeeps [.regs, .events, .seamCh, .dozens] s (execSweep sm z ms s) := by
  unfold execSweep
  try extract_lets
  split
  · refine OutKeeps.next ?_
    refine Keeps.via (State.setSeamChan_keeps ..) rfl ?_
    exact Keeps.via (State.measureAll_keeps ..) rfl Keeps.refl
  · refine OutKeeps.next ?_
    exact Keeps.via (State.measureAll_keeps ..) rfl Keeps.refl


theorem execSeamWireSpared_keeps (sm : DieIx) (z : Fin 4224) (agree : Bool) (s : State) : OutKeeps [.regs, .events, .seamCh, .dozens] s (execSeamWireSpared sm z agree s) := by
  unfold execSeamWireSpared
  try extract_lets
  split
  · try extract_lets
    refine OutKeeps.ite (fun _ => ?_) (fun _ => ?_)
    · refine OutKeeps.next ?_
      refine Keeps.via (State.post_keeps ..) rfl ?_
      refine Keeps.via (State.seamBoth_keeps ..) rfl ?_
      exact Keeps.via (State.setDozen_keeps ..) rfl Keeps.refl
    · try extract_lets
      refine OutKeeps.next ?_
      refine Keeps.via (State.needDozen_keeps ..) rfl ?_
      exact Keeps.via (State.setDozen_keeps ..) rfl Keeps.refl
  · refine OutKeeps.next ?_
    exact Keeps.refl


theorem execCrustInboundToken_keeps (t : TinIx) (p : Fin 384) (tok : BitVec 10) (s : State) : OutKeeps [.tins] s (execCrustInboundToken t p tok s) := by
  unfold execCrustInboundToken
  refine OutKeeps.ite (fun _ => ?_) (fun _ => ?_)
  · split
    · refine OutKeeps.next ?_
      exact Keeps.via (State.setTin_keeps ..) rfl Keeps.refl
    · refine OutKeeps.next ?_
      exact Keeps.refl
  · refine OutKeeps.next ?_
    exact Keeps.refl


theorem execSeamPeerLost_keeps (e : SeamEndIx) (s : State) : OutKeeps [.regs, .events, .seamCh] s (execSeamPeerLost e s) := by
  unfold execSeamPeerLost
  refine OutKeeps.next ?_
  exact Keeps.via (State.seamPeerLost_keeps ..) rfl Keeps.refl


theorem execChannelTokenSend_keeps (r : ChanRef) (s : State) : OutKeeps [.tins, .ring, .laneIn, .seamCh, .bench] s (execChannelTokenSend r s) := by
  unfold execChannelTokenSend
  split
  · try extract_lets
    split
    · refine OutKeeps.ite (fun _ => ?_) (fun _ => ?_)
      · refine OutKeeps.next ?_
        refine Keeps.via (State.foldSent_keeps ..) rfl ?_
        exact Keeps.via (State.setSeamChan_keeps ..) rfl Keeps.refl
      · refine OutKeeps.next ?_
        exact Keeps.refl
    · refine OutKeeps.next ?_
      exact Keeps.refl
  · try extract_lets
    split
    · refine OutKeeps.ite (fun _ => ?_) (fun _ => ?_)
      · refine OutKeeps.next ?_
        refine Keeps.via (State.setConn_keeps ..) rfl ?_
        exact Keeps.via (State.epTake_keeps ..) rfl Keeps.refl
      · refine OutKeeps.next ?_
        exact Keeps.refl
    · refine OutKeeps.next ?_
      exact Keeps.refl
  · try extract_lets
    refine OutKeeps.ite (fun _ => ?_) (fun _ => ?_)
    · refine OutKeeps.next ?_
      exact Keeps.upd_bench rfl Keeps.refl
    · refine OutKeeps.next ?_
      exact Keeps.refl


theorem execChannelMoveHold_keeps (sm : DieIx) (c : Fin 4096) (s : State) : OutKeeps [.seamCh] s (execChannelMoveHold sm c s) := by
  unfold execChannelMoveHold
  try extract_lets
  refine OutKeeps.ite (fun _ => ?_) (fun _ => ?_)
  · refine OutKeeps.next ?_
    exact Keeps.via (State.setSeamChan_keeps ..) rfl Keeps.refl
  · refine OutKeeps.next ?_
    exact Keeps.refl


theorem execSpareWireCopyStart_keeps (sm : DieIx) (z : Fin 4224) (w : Fin 12) (s : State) : OutKeeps [.dozens] s (execSpareWireCopyStart sm z w s) := by
  unfold execSpareWireCopyStart
  try extract_lets
  split
  · refine OutKeeps.ite (fun _ => ?_) (fun _ => ?_)
    · refine OutKeeps.next ?_
      exact Keeps.via (State.setDozen_keeps ..) rfl Keeps.refl
    · refine OutKeeps.next ?_
      exact Keeps.refl
  · refine OutKeeps.next ?_
    exact Keeps.refl


theorem execSeamChannelMoved_keeps (sm : DieIx) (c : Fin 4096) (s : State) : OutKeeps [.regs, .events, .seamCh, .dozens] s (execSeamChannelMoved sm c s) := by
  unfold execSeamChannelMoved
  split
  · refine OutKeeps.next ?_
    refine Keeps.via (State.loseStranded_keeps ..) rfl ?_
    exact Keeps.via (State.moveTo_keeps ..) rfl Keeps.refl
  · refine OutKeeps.next ?_
    exact Keeps.refl


theorem execSweepGap_keeps (sm : DieIx) (c : Fin 4096) (s : State) : OutKeeps [.seamCh] s (execSweepGap sm c s) := by
  unfold execSweepGap
  refine OutKeeps.next ?_
  exact Keeps.via (State.setSeamChan_keeps ..) rfl Keeps.refl


theorem execSeamTraining_keeps (sm : DieIx) (ms : List (Nat × Margin)) (s : State) : OutKeeps [.regs, .events, .seamCh, .dozens] s (execSeamTraining sm ms s) := by
  unfold execSeamTraining
  refine OutKeeps.ite (fun _ => ?_) (fun _ => ?_)
  · refine OutKeeps.next ?_
    exact Keeps.via (State.seamTrain_keeps ..) rfl Keeps.refl
  · refine OutKeeps.next ?_
    exact Keeps.refl


theorem execCrustOutboundToken_keeps (t : TinIx) (p : Fin 384) (s : State) : OutKeeps [.tins] s (execCrustOutboundToken t p s) := by
  unfold execCrustOutboundToken
  refine OutKeeps.ite (fun _ => ?_) (fun _ => ?_)
  · split
    · refine OutKeeps.next ?_
      exact Keeps.via (State.setTin_keeps ..) rfl Keeps.refl
    · refine OutKeeps.next ?_
      exact Keeps.refl
  · refine OutKeeps.next ?_
    exact Keeps.refl


end Sys2Proof.Machine
end

