-- ==== Sys2Proof/Laws/Keeps/Sys.lean ====
section
/-! SUPPORT. What the operations of Machine/Sys.lean may change, and that they keep the invariant. -/

namespace Sys2Proof.Machine

theorem State.larderAccess_keeps (s : State) (p : Packet) (err : MemErr) : Keeps [.regs, .events, .larder, .corr, .free] s (State.larderAccess s p err).2 := by
  unfold State.larderAccess
  try extract_lets
  split
  · try extract_lets
    refine Keeps.snd_mk ?_
    exact Keeps.via (State.larderRead_keeps ..) rfl Keeps.refl
  · try extract_lets
    refine Keeps.snd_mk ?_
    exact Keeps.via (State.larderWrite_keeps ..) rfl Keeps.refl
  · try extract_lets
    refine Keeps.snd_mk ?_
    refine Keeps.ite (fun _ => ?_) (fun _ => ?_)
    · exact Keeps.via (State.larderWrite_keeps ..) rfl Keeps.refl
    · refine Keeps.via (State.postLimited_keeps ..) rfl ?_
      exact Keeps.via (State.larderWrite_keeps ..) rfl Keeps.refl
  · refine Keeps.ite_p1 (fun _ => ?_) (fun _ => ?_)
    · refine Keeps.snd_mk ?_
      exact Keeps.via (State.fsat_keeps ..) rfl Keeps.refl
    · try extract_lets
      refine Keeps.ite_p1 (fun _ => ?_) (fun _ => ?_)
      · refine Keeps.snd_mk ?_
        exact Keeps.via (State.larderRead_keeps ..) rfl Keeps.refl
      · try extract_lets
        refine Keeps.snd_mk ?_
        refine Keeps.via (State.larderWrite_keeps ..) rfl ?_
        exact Keeps.via (State.larderRead_keeps ..) rfl Keeps.refl
  · refine Keeps.ite_p1 (fun _ => ?_) (fun _ => ?_)
    · refine Keeps.snd_mk ?_
      exact Keeps.via (State.fsat_keeps ..) rfl Keeps.refl
    · try extract_lets
      refine Keeps.ite_p1 (fun _ => ?_) (fun _ => ?_)
      · refine Keeps.snd_mk ?_
        exact Keeps.via (State.larderRead_keeps ..) rfl Keeps.refl
      · try extract_lets
        refine Keeps.snd_mk ?_
        refine Keeps.via (State.larderWrite_keeps ..) rfl ?_
        exact Keeps.via (State.larderRead_keeps ..) rfl Keeps.refl
  · refine Keeps.ite_p1 (fun _ => ?_) (fun _ => ?_)
    · refine Keeps.snd_mk ?_
      exact Keeps.via (State.fsat_keeps ..) rfl Keeps.refl
    · try extract_lets
      refine Keeps.ite_p1 (fun _ => ?_) (fun _ => ?_)
      · refine Keeps.snd_mk ?_
        exact Keeps.via (State.larderRead_keeps ..) rfl Keeps.refl
      · try extract_lets
        refine Keeps.snd_mk ?_
        refine Keeps.via (State.larderWrite_keeps ..) rfl ?_
        exact Keeps.via (State.larderRead_keeps ..) rfl Keeps.refl
  · refine Keeps.snd_mk ?_
    exact Keeps.refl


theorem State.takeResp_keeps (s : State) (before : Nat) : Keeps [.noc] s (State.takeResp s before).2 := by
  unfold State.takeResp
  refine Keeps.ite_p1 (fun _ => ?_) (fun _ => ?_)
  · refine Keeps.snd_mk ?_
    exact Keeps.upd_noc rfl Keeps.refl
  · refine Keeps.snd_mk ?_
    exact Keeps.refl


theorem State.dramAccess_keeps (s : State) (p : Packet) (err : MemErr) : Keeps [.regs, .events, .tins, .larder, .pool, .corr, .noc, .dram, .breadbox, .pads, .mac, .cfg, .free] s (State.dramAccess s p err).2 := by
  unfold State.dramAccess
  try extract_lets
  split
  · refine Keeps.snd_mk ?_
    refine Keeps.ite (fun _ => ?_) (fun _ => ?_)
    · exact Keeps.via (State.fsat_keeps ..) rfl Keeps.refl
    · exact Keeps.refl
  · try extract_lets
    refine Keeps.via (State.takeResp_keeps ..) rfl ?_
    refine Keeps.ite (fun _ => ?_) (fun _ => ?_)
    · refine Keeps.via (State.sealedReadProof_keeps ..) rfl ?_
      refine Keeps.ite (fun _ => ?_) (fun _ => ?_)
      · exact Keeps.via (State.memRead_keeps ..) rfl Keeps.refl
      · refine Keeps.ite (fun _ => ?_) (fun _ => ?_)
        · exact Keeps.via (State.memAtomic_keeps ..) rfl Keeps.refl
        · exact Keeps.via (State.memWrite_keeps ..) rfl Keeps.refl
    · refine Keeps.ite (fun _ => ?_) (fun _ => ?_)
      · exact Keeps.via (State.memRead_keeps ..) rfl Keeps.refl
      · refine Keeps.ite (fun _ => ?_) (fun _ => ?_)
        · exact Keeps.via (State.memAtomic_keeps ..) rfl Keeps.refl
        · exact Keeps.via (State.memWrite_keeps ..) rfl Keeps.refl


theorem State.memAccess_keeps (s : State) (p : Packet) (err : MemErr) : Keeps [.regs, .events, .tins, .larder, .pool, .corr, .noc, .dram, .breadbox, .pads, .mac, .cfg, .free] s (State.memAccess s p err).2 := by
  unfold State.memAccess
  split
  · exact Keeps.via (State.dramAccess_keeps ..) rfl Keeps.refl
  · exact Keeps.via (State.larderAccess_keeps ..) rfl Keeps.refl
  · refine Keeps.snd_mk ?_
    exact Keeps.refl


theorem readRange_via {M : List Part} {acc : State → Packet → MemErr → Option Packet × State} {node dom prio : Nat} {k : Nat} {s t : State}
    {a : Nat} {n : Nat} {err : MemErr} (hs : Part.sub [] M = true) (hacc : ∀ u p e, Keeps M u (acc u p e).2) (h : Keeps M s t) :
    Keeps M s (readRange acc node dom prio k t a n err).2 := by
  induction k generalizing t a n err with
  | zero => exact h
  | succ k ih =>
    unfold readRange
    dsimp only
    split
    · exact h
    · have h2 := fun p => Keeps.trans (hacc t p err) h
      split
      · exact h2 _
      · split
        · exact h2 _
        · exact ih (h2 _)


theorem State.sysRead_keeps (s : State) (node : Nat) (dom : Nat) (prio : Nat) (a : Nat) (n : Nat) (err : MemErr) : Keeps [.regs, .events, .tins, .larder, .pool, .corr, .noc, .dram, .breadbox, .pads, .mac, .cfg, .free] s (State.sysRead s node dom prio a n err).2 := by
  unfold State.sysRead
  refine readRange_via rfl (fun _ _ _ => ?_) ?_
  · exact Keeps.via (State.memAccess_keeps ..) rfl Keeps.refl
  · exact Keeps.refl


theorem writeRange_via {M : List Part} {acc : State → Packet → MemErr → Option Packet × State} {node dom prio : Nat} {poison : Bool} {k : Nat} {s t : State}
    {a : Nat} {d : List Byte} {err : MemErr} (hs : Part.sub [] M = true) (hacc : ∀ u p e, Keeps M u (acc u p e).2) (h : Keeps M s t) :
    Keeps M s (writeRange acc node dom prio poison k t a d err).2 := by
  induction k generalizing t a d err with
  | zero => exact h
  | succ k ih =>
    unfold writeRange
    dsimp only
    split
    · exact h
    · have h2 := fun p => Keeps.trans (hacc t p err) h
      split
      · exact h2 _
      · split
        · exact h2 _
        · exact ih (h2 _)


theorem State.sysWrite_keeps (s : State) (node : Nat) (dom : Nat) (prio : Nat) (a : Nat) (d : List Byte) (poison : Bool) (err : MemErr) : Keeps [.regs, .events, .tins, .larder, .pool, .corr, .noc, .dram, .breadbox, .pads, .mac, .cfg, .free] s (State.sysWrite s node dom prio a d poison err).2 := by
  unfold State.sysWrite
  refine writeRange_via rfl (fun _ _ _ => ?_) ?_
  · exact Keeps.via (State.memAccess_keeps ..) rfl Keeps.refl
  · exact Keeps.refl


end Sys2Proof.Machine
end

