-- ==== Sys2Proof/Laws/Keeps/Trace.lean ====
section
/-! SUPPORT. What the operations of Machine/Trace.lean may change, and that they keep the invariant. -/

namespace Sys2Proof.Machine

theorem State.setHart_keeps (s : State) (h : Nat) (v : Hart) : Keeps [.mgc] s (State.setHart s h v) := by
  unfold State.setHart
  exact Keeps.upd_mgc rfl Keeps.refl


theorem State.stopCount_keeps (s : State) (h : Nat) : Keeps [.free] s (State.stopCount s h).2 := by
  unfold State.stopCount
  try extract_lets
  refine Keeps.snd_mk ?_
  exact Keeps.via (State.takeFree_keeps ..) rfl Keeps.refl


theorem State.haltHart_keeps (s : State) (h : Nat) : Keeps [.mgc, .free] s (State.haltHart s h) := by
  unfold State.haltHart
  refine Keeps.ite (fun _ => ?_) (fun _ => ?_)
  · exact Keeps.refl
  · try extract_lets
    refine Keeps.via (State.setHart_keeps ..) rfl ?_
    refine Keeps.ite_p1 (fun _ => ?_) (fun _ => ?_)
    · exact Keeps.via (State.stopCount_keeps ..) rfl Keeps.refl
    · refine Keeps.snd_mk ?_
      exact Keeps.refl


theorem State.freezeRole_keeps (s : State) (d : Nat) (r : Nat) : Keeps [.regs, .tins, .dbg] s (State.freezeRole s d r).2 := by
  unfold State.freezeRole
  try extract_lets
  refine Keeps.ite_p1 (fun _ => ?_) (fun _ => ?_)
  · refine Keeps.snd_mk ?_
    exact Keeps.refl
  · try extract_lets
    refine Keeps.snd_mk ?_
    try extract_lets
    refine Keeps.upd_dbg rfl ?_
    refine Keeps.via (State.fset_keeps ..) rfl ?_
    exact Keeps.via (State.setTin_keeps ..) rfl Keeps.refl


theorem State.releaseRole_keeps (s : State) (d : Nat) (r : Nat) : Keeps [.regs, .tins, .dbg] s (State.releaseRole s d r) := by
  unfold State.releaseRole
  try extract_lets
  refine Keeps.upd_dbg rfl ?_
  refine Keeps.via (State.fset_keeps ..) rfl ?_
  refine Keeps.ite (fun _ => ?_) (fun _ => ?_)
  · refine Keeps.via (State.fset_keeps ..) rfl ?_
    exact Keeps.via (State.setTin_keeps ..) rfl Keeps.refl
  · exact Keeps.via (State.setTin_keeps ..) rfl Keeps.refl


theorem State.writePkt_keeps (s : State) (data : Nat) (src : Nat) (type : Nat) (index : Nat) : Keeps [.regs, .events, .larder, .dbg] s (State.writePkt s data src type index) := by
  unfold State.writePkt
  try extract_lets
  refine Keeps.ite (fun _ => ?_) (fun _ => ?_)
  · refine Keeps.via (State.fset_keeps ..) rfl ?_
    refine Keeps.upd_larder_dbg rfl ?_ ?_
    rotate_left
    · exact Larder.write_markWords_wf
    exact Keeps.refl
  · refine Keeps.ite (fun _ => ?_) (fun _ => ?_)
    · refine Keeps.via (State.post_keeps ..) rfl ?_
      refine Keeps.via (State.fset_keeps ..) rfl ?_
      refine Keeps.via (State.fset_keeps ..) rfl ?_
      refine Keeps.upd_larder_dbg rfl ?_ ?_
      rotate_left
      · exact Larder.write_markWords_wf
      exact Keeps.refl
    · refine Keeps.via (State.fset_keeps ..) rfl ?_
      refine Keeps.via (State.fset_keeps ..) rfl ?_
      refine Keeps.upd_larder_dbg rfl ?_ ?_
      rotate_left
      · exact Larder.write_markWords_wf
      exact Keeps.refl


theorem State.trace_keeps (s : State) (data : Nat) (src : Nat) (type : Nat) (index : Nat) : Keeps [.regs, .events, .larder, .dbg] s (State.trace s data src type index) := by
  unfold State.trace
  refine Keeps.ite (fun _ => ?_) (fun _ => ?_)
  · exact Keeps.refl
  · refine Keeps.ite (fun _ => ?_) (fun _ => ?_)
    · try extract_lets
      refine Keeps.upd_dbg rfl ?_
      exact Keeps.via (State.fsat_keeps ..) rfl Keeps.refl
    · refine Keeps.ite (fun _ => ?_) (fun _ => ?_)
      · exact Keeps.via (State.writePkt_keeps ..) rfl Keeps.refl
      · try extract_lets
        refine Keeps.ite (fun _ => ?_) (fun _ => ?_)
        · refine Keeps.via (State.writePkt_keeps ..) rfl ?_
          try extract_lets
          refine Keeps.upd_dbg rfl ?_
          exact Keeps.via (State.writePkt_keeps ..) rfl Keeps.refl
        · try extract_lets
          refine Keeps.upd_dbg rfl ?_
          exact Keeps.via (State.writePkt_keeps ..) rfl Keeps.refl


theorem State.traceStop_keeps (s : State) : Keeps [.regs, .events, .larder, .dbg] s (State.traceStop s) := by
  unfold State.traceStop
  refine Keeps.ite (fun _ => ?_) (fun _ => ?_)
  · refine Keeps.via (State.fset_keeps ..) rfl ?_
    exact Keeps.via (State.trace_keeps ..) rfl Keeps.refl
  · exact Keeps.refl


theorem State.traceStart_keeps (s : State) : Keeps [.regs, .events, .larder, .dbg] s (State.traceStart s) := by
  unfold State.traceStart
  refine Keeps.ite (fun _ => ?_) (fun _ => ?_)
  · exact Keeps.refl
  · try extract_lets
    refine Keeps.via (State.trace_keeps ..) rfl ?_
    refine Keeps.upd_dbg rfl ?_
    refine Keeps.via (State.fset_keeps ..) rfl ?_
    refine Keeps.via (State.fset_keeps ..) rfl ?_
    exact Keeps.via (State.fset_keeps ..) rfl Keeps.refl


theorem State.xtSinks_keeps (s : State) (c : Nat) : Keeps [.regs, .events, .tins, .larder, .dbg, .mgc, .free] s (State.xtSinks s c).1 := by
  unfold State.xtSinks
  try extract_lets
  refine Keeps.ite_p0 (fun _ => ?_) (fun _ => ?_)
  · try extract_lets
    refine Keeps.fst_mk ?_
    refine Keeps.foldl (fun _ _ => ?_) ?_
    · exact Keeps.via (State.haltHart_keeps ..) rfl Keeps.refl
    · refine Keeps.ite (fun _ => ?_) (fun _ => ?_)
      · refine Keeps.via (State.freezeRole_keeps ..) rfl ?_
        refine Keeps.ite (fun _ => ?_) (fun _ => ?_)
        · refine Keeps.via (State.traceStop_keeps ..) rfl ?_
          refine Keeps.via (State.trace_keeps ..) rfl ?_
          refine Keeps.ite (fun _ => ?_) (fun _ => ?_)
          · exact Keeps.via (State.traceStart_keeps ..) rfl Keeps.refl
          · exact Keeps.refl
        · refine Keeps.via (State.trace_keeps ..) rfl ?_
          refine Keeps.ite (fun _ => ?_) (fun _ => ?_)
          · exact Keeps.via (State.traceStart_keeps ..) rfl Keeps.refl
          · exact Keeps.refl
      · refine Keeps.ite (fun _ => ?_) (fun _ => ?_)
        · refine Keeps.via (State.traceStop_keeps ..) rfl ?_
          refine Keeps.via (State.trace_keeps ..) rfl ?_
          refine Keeps.ite (fun _ => ?_) (fun _ => ?_)
          · exact Keeps.via (State.traceStart_keeps ..) rfl Keeps.refl
          · exact Keeps.refl
        · refine Keeps.via (State.trace_keeps ..) rfl ?_
          refine Keeps.ite (fun _ => ?_) (fun _ => ?_)
          · exact Keeps.via (State.traceStart_keeps ..) rfl Keeps.refl
          · exact Keeps.refl
  · refine Keeps.fst_mk ?_
    refine Keeps.ite (fun _ => ?_) (fun _ => ?_)
    · refine Keeps.via (State.traceStop_keeps ..) rfl ?_
      refine Keeps.via (State.trace_keeps ..) rfl ?_
      refine Keeps.ite (fun _ => ?_) (fun _ => ?_)
      · exact Keeps.via (State.traceStart_keeps ..) rfl Keeps.refl
      · exact Keeps.refl
    · refine Keeps.via (State.trace_keeps ..) rfl ?_
      refine Keeps.ite (fun _ => ?_) (fun _ => ?_)
      · exact Keeps.via (State.traceStart_keeps ..) rfl Keeps.refl
      · exact Keeps.refl


theorem State.xtFire_keeps (s : State) (c : Nat) : Keeps [.regs, .events, .tins, .larder, .dbg, .mgc, .free] s (State.xtFire s c).1 := by
  unfold State.xtFire
  refine Keeps.ite_p0 (fun _ => ?_) (fun _ => ?_)
  · refine Keeps.via (State.xtSinks_keeps ..) rfl ?_
    exact Keeps.via (State.postLimited_keeps ..) rfl Keeps.refl
  · refine Keeps.fst_mk ?_
    exact Keeps.refl


theorem State.xtSource_keeps (n : Nat) (s : State) (src : XtSrc) : Keeps [.regs, .events, .tins, .larder, .dbg, .mgc, .free] s (State.xtSource n s src) := by
  induction n generalizing s src with
  | zero => exact Keeps.refl
  | succ n ih =>
    unfold State.xtSource
    refine Keeps.foldl (fun a c => ?_) Keeps.refl
    exact Keeps.ite (fun _ => Keeps.foldl (fun b h => ih _ _) (Keeps.via (State.xtFire_keeps ..) rfl Keeps.refl)) (fun _ => Keeps.refl)


theorem State.xt_keeps (s : State) (src : XtSrc) : Keeps [.regs, .events, .tins, .larder, .dbg, .mgc, .free] s (State.xt s src) := by
  unfold State.xt
  exact Keeps.via (State.xtSource_keeps ..) rfl Keeps.refl


theorem State.stimulus_keeps (s : State) (n : Nat) (w : Nat) (src : Nat) : Keeps [.regs, .events, .tins, .larder, .dbg, .mgc, .free] s (State.stimulus s n w src) := by
  unfold State.stimulus
  refine Keeps.via (State.xt_keeps ..) rfl ?_
  exact Keeps.via (State.trace_keeps ..) rfl Keeps.refl


theorem execDmHalt_keeps (h : HartIx) (s : State) : OutKeeps [.regs, .events, .tins, .larder, .dbg, .mgc, .free] s (execDmHalt h s) := by
  unfold execDmHalt
  refine OutKeeps.ite (fun _ => ?_) (fun _ => ?_)
  · refine OutKeeps.next ?_
    exact Keeps.refl
  · refine OutKeeps.next ?_
    refine Keeps.via (State.xt_keeps ..) rfl ?_
    exact Keeps.via (State.haltHart_keeps ..) rfl Keeps.refl


theorem execXtChannelFire_keeps (c : Fin 8) (h : HartIx) (s : State) : OutKeeps [.regs, .events, .tins, .larder, .dbg, .mgc, .free] s (execXtChannelFire c h s) := by
  unfold execXtChannelFire
  refine OutKeeps.ite (fun _ => ?_) (fun _ => ?_)
  · try extract_lets
    refine OutKeeps.next ?_
    refine Keeps.foldl (fun _ _ => ?_) ?_
    · exact Keeps.via (State.xt_keeps ..) rfl Keeps.refl
    · exact Keeps.via (State.xtFire_keeps ..) rfl Keeps.refl
  · refine OutKeeps.next ?_
    exact Keeps.refl


end Sys2Proof.Machine
end

