-- ==== Sys2Proof/Laws/Keeps/Mgc.lean ====
section
/-! SUPPORT. What the operations of Machine/Mgc.lean may change, and that they keep the invariant. -/

namespace Sys2Proof.Machine

theorem State.trap_keeps (s : State) (h : Nat) (cause : Nat) (a : Nat) : Keeps [.mgc] s (State.trap s h cause a) := by
  unfold State.trap
  exact Keeps.via (State.setHart_keeps ..) rfl Keeps.refl


theorem State.uncachedStore_keeps (s : State) (h : Nat) (a : Nat) (d : List Byte) : Keeps [.regs, .events, .tins, .noc, .mgc, .answer] s (State.uncachedStore s h a d) := by
  unfold State.uncachedStore
  split
  · exact Keeps.via (State.inject_keeps ..) rfl Keeps.refl
  · exact Keeps.via (State.inject_keeps ..) rfl Keeps.refl
  · exact Keeps.via (State.trap_keeps ..) rfl Keeps.refl
  · exact Keeps.refl


theorem State.setL2_keeps (s : State) (k : Nat) (v : Option L2Line) : Keeps [.mgc] s (State.setL2 s k v) := by
  unfold State.setL2
  exact Keeps.upd_mgc rfl Keeps.refl


theorem State.clearResv_keeps (s : State) (k : Nat) (keep : Option Nat) : Keeps [.mgc] s (State.clearResv s k keep) := by
  unfold State.clearResv
  exact Keeps.upd_mgc rfl Keeps.refl


theorem State.l2Drop_keeps (s : State) (k : Nat) : Keeps [.mgc] s (State.l2Drop s k) := by
  unfold State.l2Drop
  refine Keeps.via (State.clearResv_keeps ..) rfl ?_
  exact Keeps.via (State.setL2_keeps ..) rfl Keeps.refl


theorem State.busErr_keeps (s : State) (a : Nat) (st : Nat) : Keeps [.regs] s (State.busErr s a st) := by
  unfold State.busErr
  refine Keeps.ite (fun _ => ?_) (fun _ => ?_)
  · exact Keeps.via (State.fsat_keeps ..) rfl Keeps.refl
  · refine Keeps.via (State.fset_keeps ..) rfl ?_
    refine Keeps.via (State.fset_keeps ..) rfl ?_
    refine Keeps.via (State.fset_keeps ..) rfl ?_
    exact Keeps.via (State.fset_keeps ..) rfl Keeps.refl


theorem State.l2Clean_keeps (s : State) (k : Nat) : Keeps [.regs, .events, .tins, .larder, .pool, .corr, .noc, .dram, .breadbox, .pads, .mac, .mgc, .cfg, .free] s (State.l2Clean s k) := by
  unfold State.l2Clean
  split
  · refine Keeps.ite (fun _ => ?_) (fun _ => ?_)
    · try extract_lets
      refine Keeps.ite (fun _ => ?_) (fun _ => ?_)
      · refine Keeps.via (State.setL2_keeps ..) rfl ?_
        exact Keeps.via (State.sysWrite_keeps ..) rfl Keeps.refl
      · refine Keeps.via (State.busErr_keeps ..) rfl ?_
        refine Keeps.via (State.setL2_keeps ..) rfl ?_
        exact Keeps.via (State.sysWrite_keeps ..) rfl Keeps.refl
    · exact Keeps.refl
  · exact Keeps.refl


theorem State.l2Room_keeps (s : State) (k : Nat) (victim : Nat) : Keeps [.regs, .events, .tins, .larder, .pool, .corr, .noc, .dram, .breadbox, .pads, .mac, .mgc, .cfg, .free] s (State.l2Room s k victim) := by
  unfold State.l2Room
  try extract_lets
  refine Keeps.ite (fun _ => ?_) (fun _ => ?_)
  · exact Keeps.refl
  · try extract_lets
    refine Keeps.via (State.l2Drop_keeps ..) rfl ?_
    exact Keeps.via (State.l2Clean_keeps ..) rfl Keeps.refl


theorem State.l2Fetch_keeps (s : State) (k : Nat) (victim : Nat) (err : MemErr) : Keeps [.regs, .events, .tins, .larder, .pool, .corr, .noc, .dram, .breadbox, .pads, .mac, .mgc, .cfg, .free] s (State.l2Fetch s k victim err).2 := by
  unfold State.l2Fetch
  split
  · refine Keeps.snd_mk ?_
    exact Keeps.refl
  · try extract_lets
    refine Keeps.ite_p1 (fun _ => ?_) (fun _ => ?_)
    · refine Keeps.snd_mk ?_
      refine Keeps.via (State.setL2_keeps ..) rfl ?_
      refine Keeps.via (State.l2Room_keeps ..) rfl ?_
      exact Keeps.via (State.sysRead_keeps ..) rfl Keeps.refl
    · refine Keeps.snd_mk ?_
      exact Keeps.via (State.sysRead_keeps ..) rfl Keeps.refl


theorem State.l2Store_keeps (s : State) (h : Nat) (a : Nat) (d : List Byte) : Keeps [.mgc] s (State.l2Store s h a d) := by
  unfold State.l2Store
  split
  · refine Keeps.via (State.clearResv_keeps ..) rfl ?_
    exact Keeps.via (State.setL2_keeps ..) rfl Keeps.refl
  · exact Keeps.refl


theorem State.access_keeps (s : State) (h : Nat) (k : AccKind) (a : Nat) (n : Nat) (d : List Byte) (victim : Nat) (err : MemErr) : Keeps [.regs, .events, .tins, .larder, .pool, .corr, .noc, .dram, .breadbox, .pads, .mac, .mgc, .cfg, .answer, .free] s (State.access s h k a n d victim err) := by
  unfold State.access
  split
  · exact Keeps.via (State.trap_keeps ..) rfl Keeps.refl
  · try extract_lets
    split
    · refine Keeps.via (State.trap_keeps ..) rfl ?_
      exact Keeps.via (State.l2Fetch_keeps ..) rfl Keeps.refl
    · refine Keeps.ite (fun _ => ?_) (fun _ => ?_)
      · refine Keeps.via (State.l2Store_keeps ..) rfl ?_
        exact Keeps.via (State.l2Fetch_keeps ..) rfl Keeps.refl
      · try extract_lets
        refine Keeps.upd_answer rfl ?_
        exact Keeps.via (State.l2Fetch_keeps ..) rfl Keeps.refl
  · refine Keeps.ite (fun _ => ?_) (fun _ => ?_)
    · exact Keeps.via (State.uncachedStore_keeps ..) rfl Keeps.refl
    · exact Keeps.via (State.inject_keeps ..) rfl Keeps.refl


theorem State.restartHart_keeps (s : State) (h : Nat) : Keeps [.regs, .mgc] s (State.restartHart s h) := by
  unfold State.restartHart
  try extract_lets
  refine Keeps.ite (fun _ => ?_) (fun _ => ?_)
  · refine Keeps.via (State.setHart_keeps ..) rfl ?_
    refine Keeps.via (State.fset_keeps ..) rfl ?_
    refine Keeps.via (State.fset_keeps ..) rfl ?_
    refine Keeps.via (State.fset_keeps ..) rfl ?_
    refine Keeps.via (State.fset_keeps ..) rfl ?_
    exact Keeps.via (State.setHart_keeps ..) rfl Keeps.refl
  · refine Keeps.via (State.fset_keeps ..) rfl ?_
    refine Keeps.via (State.fset_keeps ..) rfl ?_
    refine Keeps.via (State.fset_keeps ..) rfl ?_
    refine Keeps.via (State.fset_keeps ..) rfl ?_
    exact Keeps.via (State.setHart_keeps ..) rfl Keeps.refl


theorem State.hartPost_keeps (s : State) (h : Nat) (code : Nat) (sev : Nat) (arg1 : Nat) : Keeps [.events] s (State.hartPost s h code sev arg1) := by
  unfold State.hartPost
  exact Keeps.via (State.post_keeps ..) rfl Keeps.refl


theorem State.failCore_keeps (s : State) (h : Nat) (ok4 : Bool) : Keeps [.regs, .events, .mgc] s (State.failCore s h ok4) := by
  unfold State.failCore
  try extract_lets
  refine Keeps.ite (fun _ => ?_) (fun _ => ?_)
  · refine Keeps.via (State.hartPost_keeps ..) rfl ?_
    refine Keeps.via (State.restartHart_keeps ..) rfl ?_
    refine Keeps.via (State.fset_keeps ..) rfl ?_
    exact Keeps.upd_mgc rfl Keeps.refl
  · try extract_lets
    refine Keeps.via (State.hartPost_keeps ..) rfl ?_
    refine Keeps.via (State.fset_keeps ..) rfl ?_
    refine Keeps.via (State.setHart_keeps ..) rfl ?_
    refine Keeps.ite (fun _ => ?_) (fun _ => ?_)
    · refine Keeps.upd_mgc rfl ?_
      exact Keeps.upd_mgc rfl Keeps.refl
    · exact Keeps.upd_mgc rfl Keeps.refl


theorem State.coreReset_keeps (s : State) (h : Nat) (ok : Bool) (ok4 : Bool) : Keeps [.regs, .events, .mgc] s (State.coreReset s h ok ok4) := by
  unfold State.coreReset
  refine Keeps.ite (fun _ => ?_) (fun _ => ?_)
  · exact Keeps.refl
  · refine Keeps.ite (fun _ => ?_) (fun _ => ?_)
    · exact Keeps.via (State.restartHart_keeps ..) rfl Keeps.refl
    · exact Keeps.via (State.failCore_keeps ..) rfl Keeps.refl


theorem State.resumeHart_keeps (s : State) (h : Nat) (ok : Bool) (ok4 : Bool) : Keeps [.regs, .events, .mgc] s (State.resumeHart s h ok ok4) := by
  unfold State.resumeHart
  try extract_lets
  refine Keeps.ite (fun _ => ?_) (fun _ => ?_)
  · exact Keeps.refl
  · refine Keeps.ite (fun _ => ?_) (fun _ => ?_)
    · refine Keeps.via (State.coreReset_keeps ..) rfl ?_
      exact Keeps.via (State.setHart_keeps ..) rfl Keeps.refl
    · refine Keeps.ite (fun _ => ?_) (fun _ => ?_)
      · try extract_lets
        exact Keeps.via (State.setHart_keeps ..) rfl Keeps.refl
      · exact Keeps.via (State.setHart_keeps ..) rfl Keeps.refl


theorem State.kick_keeps (s : State) (h : Nat) (key : Nat) : Keeps [.mgc] s (State.kick s h key) := by
  unfold State.kick
  refine Keeps.ite (fun _ => ?_) (fun _ => ?_)
  · exact Keeps.via (State.setHart_keeps ..) rfl Keeps.refl
  · exact Keeps.refl


theorem State.cmo_keeps (s : State) (op : Nat) : Keeps [.regs, .events, .tins, .larder, .pool, .corr, .noc, .dram, .breadbox, .pads, .mac, .mgc, .cfg, .free] s (State.cmo s op) := by
  unfold State.cmo
  refine Keeps.ite (fun _ => ?_) (fun _ => ?_)
  · exact Keeps.refl
  · try extract_lets
    refine Keeps.foldl (fun _ _ => ?_) ?_
    · try extract_lets
      refine Keeps.ite (fun _ => ?_) (fun _ => ?_)
      · refine Keeps.ite (fun _ => ?_) (fun _ => ?_)
        · exact Keeps.refl
        · exact Keeps.via (State.l2Clean_keeps ..) rfl Keeps.refl
      · refine Keeps.via (State.l2Drop_keeps ..) rfl ?_
        refine Keeps.ite (fun _ => ?_) (fun _ => ?_)
        · exact Keeps.refl
        · exact Keeps.via (State.l2Clean_keeps ..) rfl Keeps.refl
    · refine Keeps.via (State.fset_keeps ..) rfl ?_
      exact Keeps.via (State.fset_keeps ..) rfl Keeps.refl


theorem State.bootStart_keeps (s : State) : Keeps [.regs, .mgc] s (State.bootStart s) := by
  unfold State.bootStart
  try extract_lets
  refine Keeps.ite (fun _ => ?_) (fun _ => ?_)
  · try extract_lets
    refine Keeps.upd_mgc rfl ?_
    exact Keeps.via (State.fset_keeps ..) rfl Keeps.refl
  · exact Keeps.refl


theorem State.l2Uncorr_keeps (s : State) (k : Nat) : Keeps [.events, .mgc] s (State.l2Uncorr s k) := by
  unfold State.l2Uncorr
  split
  · exact Keeps.refl
  · try extract_lets
    refine Keeps.ite (fun _ => ?_) (fun _ => ?_)
    · refine Keeps.via (State.post_keeps ..) rfl ?_
      refine Keeps.upd_mgc rfl ?_
      refine Keeps.via (State.post_keeps ..) rfl ?_
      exact Keeps.via (State.setL2_keeps ..) rfl Keeps.refl
    · refine Keeps.ite (fun _ => ?_) (fun _ => ?_)
      · refine Keeps.via (State.post_keeps ..) rfl ?_
        exact Keeps.via (State.setL2_keeps ..) rfl Keeps.refl
      · refine Keeps.via (State.post_keeps ..) rfl ?_
        refine Keeps.upd_mgc rfl ?_
        refine Keeps.via (State.post_keeps ..) rfl ?_
        exact Keeps.via (State.setL2_keeps ..) rfl Keeps.refl


theorem State.startHart_keeps (s : State) (h : Nat) : Keeps [.regs, .mgc] s (State.startHart s h) := by
  unfold State.startHart
  refine Keeps.ite (fun _ => ?_) (fun _ => ?_)
  · exact Keeps.refl
  · refine Keeps.via (State.fset_keeps ..) rfl ?_
    exact Keeps.via (State.setHart_keeps ..) rfl Keeps.refl


theorem execL2CleanInvalidate_keeps (s : State) : OutKeeps [.regs, .events, .tins, .larder, .pool, .corr, .noc, .dram, .breadbox, .pads, .mac, .mgc, .cfg, .free] s (execL2CleanInvalidate s) := by
  unfold execL2CleanInvalidate
  refine OutKeeps.next ?_
  exact Keeps.via (State.cmo_keeps ..) rfl Keeps.refl


theorem execMgcL2Uncorr_keeps (k : Nat) (s : State) : OutKeeps [.events, .mgc] s (execMgcL2Uncorr k s) := by
  unfold execMgcL2Uncorr
  refine OutKeeps.next ?_
  exact Keeps.via (State.l2Uncorr_keeps ..) rfl Keeps.refl


theorem execL2Clean_keeps (s : State) : OutKeeps [.regs, .events, .tins, .larder, .pool, .corr, .noc, .dram, .breadbox, .pads, .mac, .mgc, .cfg, .free] s (execL2Clean s) := by
  unfold execL2Clean
  refine OutKeeps.next ?_
  exact Keeps.via (State.cmo_keeps ..) rfl Keeps.refl


theorem execFirmwareVerified_keeps (key : Option (Fin 4)) (sigOk : Bool) (hashOk : Bool) (s : State) : OutKeeps [.regs, .events, .mgc] s (execFirmwareVerified key sigOk hashOk s) := by
  unfold execFirmwareVerified
  refine OutKeeps.ite (fun _ => ?_) (fun _ => ?_)
  · refine OutKeeps.next ?_
    exact Keeps.refl
  · try extract_lets
    refine OutKeeps.ite (fun _ => ?_) (fun _ => ?_)
    · refine OutKeeps.next ?_
      refine Keeps.via (State.hartPost_keeps ..) rfl ?_
      refine Keeps.foldl (fun _ _ => ?_) ?_
      · exact Keeps.via (State.startHart_keeps ..) rfl Keeps.refl
      · refine Keeps.via (State.fset_keeps ..) rfl ?_
        exact Keeps.via (State.fset_keeps ..) rfl Keeps.refl
    · refine OutKeeps.next ?_
      refine Keeps.via (State.hartPost_keeps ..) rfl ?_
      try extract_lets
      refine Keeps.upd_mgc rfl ?_
      refine Keeps.via (State.fset_keeps ..) rfl ?_
      exact Keeps.via (State.fset_keeps ..) rfl Keeps.refl


theorem execL2Invalidate_keeps (s : State) : OutKeeps [.regs, .events, .tins, .larder, .pool, .corr, .noc, .dram, .breadbox, .pads, .mac, .mgc, .cfg, .free] s (execL2Invalidate s) := by
  unfold execL2Invalidate
  refine OutKeeps.next ?_
  exact Keeps.via (State.cmo_keeps ..) rfl Keeps.refl


theorem execAmo_keeps (h : HartIx) (op : AmoOp) (a : Nat) (dbl : Bool) (v : BitVec 64) (victim : Nat) (err : MemErr) (s : State) : OutKeeps [.regs, .events, .tins, .larder, .pool, .corr, .noc, .dram, .breadbox, .pads, .mac, .mgc, .cfg, .answer, .free] s (execAmo h op a dbl v victim err s) := by
  unfold execAmo
  try extract_lets
  refine OutKeeps.ite (fun _ => ?_) (fun _ => ?_)
  · refine OutKeeps.next ?_
    exact Keeps.refl
  · split
    · try extract_lets
      split
      · refine OutKeeps.next ?_
        refine Keeps.via (State.trap_keeps ..) rfl ?_
        exact Keeps.via (State.l2Fetch_keeps ..) rfl Keeps.refl
      · try extract_lets
        refine OutKeeps.next ?_
        try extract_lets
        refine Keeps.upd_answer rfl ?_
        refine Keeps.via (State.l2Store_keeps ..) rfl ?_
        exact Keeps.via (State.l2Fetch_keeps ..) rfl Keeps.refl
    · split
      · refine OutKeeps.next ?_
        exact Keeps.via (State.inject_keeps ..) rfl Keeps.refl
      · refine OutKeeps.next ?_
        exact Keeps.via (State.inject_keeps ..) rfl Keeps.refl
      · refine OutKeeps.next ?_
        exact Keeps.via (State.trap_keeps ..) rfl Keeps.refl
    · refine OutKeeps.next ?_
      exact Keeps.via (State.trap_keeps ..) rfl Keeps.refl


theorem execWdgBite_keeps (h : HartIx) (ok : Bool) (ok4 : Bool) (s : State) : OutKeeps [.regs, .events, .mgc] s (execWdgBite h ok ok4 s) := by
  unfold execWdgBite
  refine OutKeeps.ite (fun _ => ?_) (fun _ => ?_)
  · try extract_lets
    refine OutKeeps.ite (fun _ => ?_) (fun _ => ?_)
    · refine OutKeeps.next ?_
      refine Keeps.via (State.hartPost_keeps ..) rfl ?_
      refine Keeps.via (State.setHart_keeps ..) rfl ?_
      exact Keeps.via (State.fsat_keeps ..) rfl Keeps.refl
    · refine OutKeeps.next ?_
      refine Keeps.via (State.coreReset_keeps ..) rfl ?_
      refine Keeps.via (State.hartPost_keeps ..) rfl ?_
      exact Keeps.via (State.fsat_keeps ..) rfl Keeps.refl
  · refine OutKeeps.next ?_
    exact Keeps.refl


theorem execL2CmoDone_keeps (s : State) : OutKeeps [.regs] s (execL2CmoDone s) := by
  unfold execL2CmoDone
  refine OutKeeps.next ?_
  exact Keeps.via (State.fset_keeps ..) rfl Keeps.refl


theorem execStoreConditional_keeps (h : HartIx) (a : Nat) (d : List Byte) (s : State) : OutKeeps [.mgc, .answer] s (execStoreConditional h a d s) := by
  unfold execStoreConditional
  refine OutKeeps.ite (fun _ => ?_) (fun _ => ?_)
  · refine OutKeeps.next ?_
    exact Keeps.refl
  · refine OutKeeps.ite (fun _ => ?_) (fun _ => ?_)
    · refine OutKeeps.next ?_
      exact Keeps.via (State.trap_keeps ..) rfl Keeps.refl
    · try extract_lets
      refine OutKeeps.next ?_
      try extract_lets
      refine Keeps.upd_answer rfl ?_
      refine Keeps.via (State.setHart_keeps ..) rfl ?_
      refine Keeps.ite (fun _ => ?_) (fun _ => ?_)
      · exact Keeps.via (State.l2Store_keeps ..) rfl Keeps.refl
      · exact Keeps.refl


theorem execWatchdogKick_keeps (h : HartIx) (key : Word) (s : State) : OutKeeps [.mgc] s (execWatchdogKick h key s) := by
  unfold execWatchdogKick
  refine OutKeeps.next ?_
  exact Keeps.via (State.kick_keeps ..) rfl Keeps.refl


theorem execUncachedStore_keeps (h : HartIx) (a : Nat) (d : List Byte) (s : State) : OutKeeps [.regs, .events, .tins, .noc, .mgc, .answer] s (execUncachedStore h a d s) := by
  unfold execUncachedStore
  refine OutKeeps.ite (fun _ => ?_) (fun _ => ?_)
  · refine OutKeeps.next ?_
    exact Keeps.via (State.uncachedStore_keeps ..) rfl Keeps.refl
  · refine OutKeeps.next ?_
    exact Keeps.refl


theorem execBootStart_keeps (offset : Fin 32768) (s : State) : OutKeeps [.regs, .mgc] s (execBootStart offset s) := by
  unfold execBootStart
  refine OutKeeps.next ?_
  refine Keeps.via (State.bootStart_keeps ..) rfl ?_
  exact Keeps.via (State.fset_keeps ..) rfl Keeps.refl


theorem execDmResume_keeps (h : HartIx) (ok : Bool) (ok4 : Bool) (s : State) : OutKeeps [.regs, .events, .mgc] s (execDmResume h ok ok4 s) := by
  unfold execDmResume
  refine OutKeeps.next ?_
  exact Keeps.via (State.resumeHart_keeps ..) rfl Keeps.refl


theorem execFetchLoadStore_keeps (h : HartIx) (k : AccKind) (a : Nat) (n : Nat) (d : List Byte) (victim : Nat) (err : MemErr) (s : State) : OutKeeps [.regs, .events, .tins, .larder, .pool, .corr, .noc, .dram, .breadbox, .pads, .mac, .mgc, .cfg, .answer, .free] s (execFetchLoadStore h k a n d victim err s) := by
  unfold execFetchLoadStore
  refine OutKeeps.ite (fun _ => ?_) (fun _ => ?_)
  · refine OutKeeps.next ?_
    exact Keeps.via (State.access_keeps ..) rfl Keeps.refl
  · refine OutKeeps.next ?_
    exact Keeps.refl


theorem execWatchdogPreBite_keeps (h : HartIx) (s : State) : OutKeeps [.mgc] s (execWatchdogPreBite h s) := by
  unfold execWatchdogPreBite
  refine OutKeeps.ite (fun _ => ?_) (fun _ => ?_)
  · refine OutKeeps.next ?_
    exact Keeps.via (State.setHart_keeps ..) rfl Keeps.refl
  · refine OutKeeps.next ?_
    exact Keeps.refl


theorem execLoadReserved_keeps (h : HartIx) (a : Nat) (dbl : Bool) (victim : Nat) (err : MemErr) (s : State) : OutKeeps [.regs, .events, .tins, .larder, .pool, .corr, .noc, .dram, .breadbox, .pads, .mac, .mgc, .cfg, .answer, .free] s (execLoadReserved h a dbl victim err s) := by
  unfold execLoadReserved
  refine OutKeeps.ite (fun _ => ?_) (fun _ => ?_)
  · refine OutKeeps.next ?_
    exact Keeps.refl
  · refine OutKeeps.ite (fun _ => ?_) (fun _ => ?_)
    · refine OutKeeps.next ?_
      exact Keeps.via (State.trap_keeps ..) rfl Keeps.refl
    · try extract_lets
      split
      · refine OutKeeps.next ?_
        refine Keeps.via (State.trap_keeps ..) rfl ?_
        exact Keeps.via (State.l2Fetch_keeps ..) rfl Keeps.refl
      · refine OutKeeps.next ?_
        try extract_lets
        refine Keeps.upd_answer rfl ?_
        refine Keeps.via (State.setHart_keeps ..) rfl ?_
        exact Keeps.via (State.l2Fetch_keeps ..) rfl Keeps.refl


end Sys2Proof.Machine
end

