-- ==== Sys2Proof/Laws/Keeps/Sec.lean ====
section
/-! SUPPORT. What the operations of Machine/Sec.lean may change, and that they keep the invariant. -/

namespace Sys2Proof.Machine

theorem State.secGo_keeps (s : State) : Keeps [.regs, .mgc] s (State.secGo s) := by
  unfold State.secGo
  refine Keeps.ite (fun _ => ?_) (fun _ => ?_)
  · exact Keeps.refl
  · try extract_lets
    refine Keeps.ite (fun _ => ?_) (fun _ => ?_)
    · exact Keeps.via (State.fset_keeps ..) rfl Keeps.refl
    · refine Keeps.upd_mgc rfl ?_
      exact Keeps.via (State.fset_keeps ..) rfl Keeps.refl


theorem State.newChallenge_keeps (s : State) : Keeps [.free] s (State.newChallenge s).2 := by
  unfold State.newChallenge
  try extract_lets
  refine Keeps.snd_mk ?_
  exact Keeps.via (State.takeFree_keeps ..) rfl Keeps.refl


theorem State.showFuses_keeps (s : State) : Keeps [.regs] s (State.showFuses s) := by
  unfold State.showFuses
  try extract_lets
  refine Keeps.via (State.fset_keeps ..) rfl ?_
  refine Keeps.via (State.fset_keeps ..) rfl ?_
  refine Keeps.via (State.fset_keeps ..) rfl ?_
  refine Keeps.via (State.fset_keeps ..) rfl ?_
  refine Keeps.via (State.fset_keeps ..) rfl ?_
  exact Keeps.via (State.fset_keeps ..) rfl Keeps.refl


theorem State.endDebug_keeps (s : State) : Keeps [.regs, .events, .tins, .dbg, .mgc] s (State.endDebug s) := by
  unfold State.endDebug
  try extract_lets
  refine Keeps.foldl (fun _ _ => ?_) ?_
  · exact Keeps.via (State.resumeHart_keeps ..) rfl Keeps.refl
  · refine Keeps.foldl (fun _ _ => ?_) ?_
    · exact Keeps.via (State.releaseRole_keeps ..) rfl Keeps.refl
    · exact Keeps.refl


theorem State.setLevel_keeps (s : State) (l : Nat) : Keeps [.regs, .events, .tins, .dbg, .mgc] s (State.setLevel s l) := by
  unfold State.setLevel
  try extract_lets
  refine Keeps.ite (fun _ => ?_) (fun _ => ?_)
  · refine Keeps.via (State.endDebug_keeps ..) rfl ?_
    exact Keeps.via (State.fset_keeps ..) rfl Keeps.refl
  · exact Keeps.via (State.fset_keeps ..) rfl Keeps.refl


theorem State.respond_keeps (s : State) (r : List Byte) (key : Option (Fin 4)) (sigOk : Bool) : Keeps [.regs, .events, .tins, .dbg, .mgc] s (State.respond s r key sigOk) := by
  unfold State.respond
  try extract_lets
  refine Keeps.ite (fun _ => ?_) (fun _ => ?_)
  · refine Keeps.via (State.post_keeps ..) rfl ?_
    refine Keeps.via (State.setLevel_keeps ..) rfl ?_
    refine Keeps.via (State.fset_keeps ..) rfl ?_
    exact Keeps.upd_dbg rfl Keeps.refl
  · try extract_lets
    refine Keeps.ite (fun _ => ?_) (fun _ => ?_)
    · refine Keeps.upd_dbg rfl ?_
      refine Keeps.via (State.post_keeps ..) rfl ?_
      refine Keeps.via (State.fsat_keeps ..) rfl ?_
      exact Keeps.upd_dbg rfl Keeps.refl
    · refine Keeps.via (State.post_keeps ..) rfl ?_
      refine Keeps.via (State.fsat_keeps ..) rfl ?_
      exact Keeps.upd_dbg rfl Keeps.refl


theorem State.secDone_keeps (s : State) (st : Nat) (rsp : List Nat) : Keeps [.mgc] s (State.secDone s st rsp) := by
  unfold State.secDone
  exact Keeps.upd_mgc rfl Keeps.refl


theorem State.setSlot_keeps (s : State) (k : Nat) (x : Slot) : Keeps [.regs, .fuses] s (State.setSlot s k x) := by
  unfold State.setSlot
  refine Keeps.via (State.showFuses_keeps ..) rfl ?_
  exact Keeps.upd_fuses rfl Keeps.refl


theorem execKeyRevoke_keeps (key : Option (Fin 4)) (sigOk : Bool) (s : State) : OutKeeps [.regs, .events, .mgc, .fuses] s (execKeyRevoke key sigOk s) := by
  unfold execKeyRevoke
  refine OutKeeps.ite (fun _ => ?_) (fun _ => ?_)
  · refine OutKeeps.next ?_
    exact Keeps.refl
  · split
    · refine OutKeeps.next ?_
      exact Keeps.via (State.secDone_keeps ..) rfl Keeps.refl
    · try extract_lets
      refine OutKeeps.ite (fun _ => ?_) (fun _ => ?_)
      · refine OutKeeps.next ?_
        exact Keeps.via (State.secDone_keeps ..) rfl Keeps.refl
      · refine OutKeeps.ite (fun _ => ?_) (fun _ => ?_)
        · refine OutKeeps.next ?_
          exact Keeps.via (State.secDone_keeps ..) rfl Keeps.refl
        · try extract_lets
          refine OutKeeps.ite (fun _ => ?_) (fun _ => ?_)
          · refine OutKeeps.next ?_
            exact Keeps.via (State.secDone_keeps ..) rfl Keeps.refl
          · refine OutKeeps.ite (fun _ => ?_) (fun _ => ?_)
            · refine OutKeeps.next ?_
              exact Keeps.via (State.secDone_keeps ..) rfl Keeps.refl
            · refine OutKeeps.next ?_
              refine Keeps.via (State.secDone_keeps ..) rfl ?_
              refine Keeps.via (State.post_keeps ..) rfl ?_
              exact Keeps.via (State.setSlot_keeps ..) rfl Keeps.refl


theorem execGlitchDetect_keeps (s : State) : OutKeeps [.regs, .events, .tins, .larder, .pool, .corr, .dram, .breadbox, .pads, .mac, .mgc, .cfg, .free] s (execGlitchDetect s) := by
  unfold execGlitchDetect
  try extract_lets
  refine OutKeeps.next ?_
  refine Keeps.upd_mgc rfl ?_
  exact Keeps.via (State.securityHalt_keeps ..) rfl Keeps.refl


theorem execDeviceInfo_keeps (s : State) : OutKeeps [.mgc] s (execDeviceInfo s) := by
  unfold execDeviceInfo
  refine OutKeeps.ite (fun _ => ?_) (fun _ => ?_)
  · refine OutKeeps.next ?_
    exact Keeps.refl
  · refine OutKeeps.next ?_
    exact Keeps.via (State.secDone_keeps ..) rfl Keeps.refl


theorem execLifecycleAdvance_keeps (key : Option (Fin 4)) (sigOk : Bool) (s : State) : OutKeeps [.regs, .events, .mgc, .fuses] s (execLifecycleAdvance key sigOk s) := by
  unfold execLifecycleAdvance
  refine OutKeeps.ite (fun _ => ?_) (fun _ => ?_)
  · refine OutKeeps.next ?_
    exact Keeps.refl
  · split
    · refine OutKeeps.next ?_
      exact Keeps.via (State.secDone_keeps ..) rfl Keeps.refl
    · try extract_lets
      refine OutKeeps.ite (fun _ => ?_) (fun _ => ?_)
      · refine OutKeeps.next ?_
        refine Keeps.via (State.secDone_keeps ..) rfl ?_
        refine Keeps.via (State.post_keeps ..) rfl ?_
        refine Keeps.via (State.showFuses_keeps ..) rfl ?_
        exact Keeps.upd_fuses rfl Keeps.refl
      · refine OutKeeps.next ?_
        exact Keeps.via (State.secDone_keeps ..) rfl Keeps.refl


theorem execForceHalt_keeps (s : State) : OutKeeps [.regs, .events, .tins, .larder, .pool, .corr, .dram, .breadbox, .pads, .mac, .mgc, .cfg, .free] s (execForceHalt s) := by
  unfold execForceHalt
  refine OutKeeps.ite (fun _ => ?_) (fun _ => ?_)
  · refine OutKeeps.next ?_
    exact Keeps.refl
  · refine OutKeeps.ite (fun _ => ?_) (fun _ => ?_)
    · refine OutKeeps.next ?_
      exact Keeps.via (State.securityHalt_keeps ..) rfl Keeps.refl
    · refine OutKeeps.next ?_
      exact Keeps.via (State.secDone_keeps ..) rfl Keeps.refl


theorem execMailboxComplete_keeps (s : State) : OutKeeps [.regs, .mgc] s (execMailboxComplete s) := by
  unfold execMailboxComplete
  split
  · refine OutKeeps.next ?_
    exact Keeps.refl
  · try extract_lets
    refine OutKeeps.next ?_
    refine Keeps.upd_mgc rfl ?_
    refine Keeps.foldl (fun _ _ => ?_) ?_
    · exact Keeps.via (State.fset_keeps ..) rfl Keeps.refl
    · refine Keeps.via (State.fset_keeps ..) rfl ?_
      exact Keeps.via (State.fset_keeps ..) rfl Keeps.refl


theorem execTrngRetest_keeps (ok : Bool) (s : State) : OutKeeps [.regs, .events] s (execTrngRetest ok s) := by
  unfold execTrngRetest
  refine OutKeeps.ite (fun _ => ?_) (fun _ => ?_)
  · refine OutKeeps.next ?_
    exact Keeps.refl
  · refine OutKeeps.next ?_
    refine Keeps.via (State.post_keeps ..) rfl ?_
    exact Keeps.via (State.fset_keeps ..) rfl Keeps.refl


theorem execHashRange_keeps (s : State) : OutKeeps [.mgc] s (execHashRange s) := by
  unfold execHashRange
  try extract_lets
  refine OutKeeps.ite (fun _ => ?_) (fun _ => ?_)
  · refine OutKeeps.next ?_
    exact Keeps.refl
  · refine OutKeeps.ite (fun _ => ?_) (fun _ => ?_)
    · refine OutKeeps.next ?_
      exact Keeps.via (State.secDone_keeps ..) rfl Keeps.refl
    · refine OutKeeps.ite (fun _ => ?_) (fun _ => ?_)
      · refine OutKeeps.next ?_
        exact Keeps.via (State.secDone_keeps ..) rfl Keeps.refl
      · try extract_lets
        refine OutKeeps.next ?_
        exact Keeps.via (State.secDone_keeps ..) rfl Keeps.refl


theorem execSecResponseRead_keeps (s : State) : OutKeeps [.mgc, .answer] s (execSecResponseRead s) := by
  unfold execSecResponseRead
  refine OutKeeps.next ?_
  exact Keeps.upd_mgc_answer rfl Keeps.refl


theorem execVerifyBlob_keeps (key : Option (Fin 4)) (sigOk : Bool) (hashOk : Bool) (s : State) : OutKeeps [.mgc] s (execVerifyBlob key sigOk hashOk s) := by
  unfold execVerifyBlob
  try extract_lets
  refine OutKeeps.ite (fun _ => ?_) (fun _ => ?_)
  · refine OutKeeps.next ?_
    exact Keeps.refl
  · refine OutKeeps.ite (fun _ => ?_) (fun _ => ?_)
    · refine OutKeeps.next ?_
      exact Keeps.via (State.secDone_keeps ..) rfl Keeps.refl
    · refine OutKeeps.ite (fun _ => ?_) (fun _ => ?_)
      · refine OutKeeps.next ?_
        exact Keeps.via (State.secDone_keeps ..) rfl Keeps.refl
      · refine OutKeeps.next ?_
        exact Keeps.via (State.secDone_keeps ..) rfl Keeps.refl


theorem execKeyProgram_keeps (key : Option (Fin 4)) (sigOk : Bool) (s : State) : OutKeeps [.regs, .events, .mgc, .fuses] s (execKeyProgram key sigOk s) := by
  unfold execKeyProgram
  refine OutKeeps.ite (fun _ => ?_) (fun _ => ?_)
  · refine OutKeeps.next ?_
    exact Keeps.refl
  · split
    · refine OutKeeps.next ?_
      exact Keeps.via (State.secDone_keeps ..) rfl Keeps.refl
    · try extract_lets
      refine OutKeeps.ite (fun _ => ?_) (fun _ => ?_)
      · refine OutKeeps.next ?_
        exact Keeps.via (State.secDone_keeps ..) rfl Keeps.refl
      · refine OutKeeps.ite (fun _ => ?_) (fun _ => ?_)
        · refine OutKeeps.ite (fun _ => ?_) (fun _ => ?_)
          · refine OutKeeps.next ?_
            exact Keeps.via (State.secDone_keeps ..) rfl Keeps.refl
          · refine OutKeeps.next ?_
            refine Keeps.via (State.secDone_keeps ..) rfl ?_
            refine Keeps.via (State.post_keeps ..) rfl ?_
            refine Keeps.via (State.showFuses_keeps ..) rfl ?_
            exact Keeps.upd_fuses rfl Keeps.refl
        · refine OutKeeps.ite (fun _ => ?_) (fun _ => ?_)
          · refine OutKeeps.next ?_
            exact Keeps.via (State.secDone_keeps ..) rfl Keeps.refl
          · refine OutKeeps.next ?_
            refine Keeps.via (State.secDone_keeps ..) rfl ?_
            refine Keeps.via (State.post_keeps ..) rfl ?_
            exact Keeps.via (State.setSlot_keeps ..) rfl Keeps.refl


theorem execTrngHealthFail_keeps (s : State) : OutKeeps [.regs, .events] s (execTrngHealthFail s) := by
  unfold execTrngHealthFail
  refine OutKeeps.ite (fun _ => ?_) (fun _ => ?_)
  · refine OutKeeps.next ?_
    refine Keeps.via (State.post_keeps ..) rfl ?_
    exact Keeps.via (State.fset_keeps ..) rfl Keeps.refl
  · refine OutKeeps.next ?_
    exact Keeps.refl


theorem execGetRandom_keeps (s : State) : OutKeeps [.mgc, .free] s (execGetRandom s) := by
  unfold execGetRandom
  refine OutKeeps.ite (fun _ => ?_) (fun _ => ?_)
  · refine OutKeeps.next ?_
    exact Keeps.refl
  · refine OutKeeps.ite (fun _ => ?_) (fun _ => ?_)
    · refine OutKeeps.next ?_
      exact Keeps.via (State.secDone_keeps ..) rfl Keeps.refl
    · try extract_lets
      refine OutKeeps.next ?_
      refine Keeps.via (State.secDone_keeps ..) rfl ?_
      exact Keeps.via (State.takeFree_keeps ..) rfl Keeps.refl


theorem execSecurityHalt_keeps (cause : Nat) (die : Nat) (chan : Nat) (level : Nat) (addr : Nat) (node : Nat) (s : State) : OutKeeps [.regs, .events, .tins, .larder, .pool, .corr, .dram, .breadbox, .pads, .mac, .mgc, .cfg, .free] s (execSecurityHalt cause die chan level addr node s) := by
  unfold execSecurityHalt
  refine OutKeeps.ite (fun _ => ?_) (fun _ => ?_)
  · refine OutKeeps.next ?_
    try extract_lets
    refine Keeps.upd_mgc rfl ?_
    exact Keeps.via (State.securityHalt_keeps ..) rfl Keeps.refl
  · refine OutKeeps.next ?_
    exact Keeps.refl


theorem execChallengeLockoutEnd_keeps (s : State) : OutKeeps [.dbg] s (execChallengeLockoutEnd s) := by
  unfold execChallengeLockoutEnd
  refine OutKeeps.next ?_
  exact Keeps.upd_dbg rfl Keeps.refl


end Sys2Proof.Machine
end

