-- ==== Sys2Proof/Laws/Keeps/Dbg.lean ====
section
/-! SUPPORT. What the operations of Machine/Dbg.lean may change, and that they keep the invariant. -/

namespace Sys2Proof.Machine

theorem State.setDm_keeps (s : State) (a : Nat) (v : Nat) : Keeps [.dbg] s (State.setDm s a v) := by
  unfold State.setDm
  exact Keeps.upd_dbg rfl Keeps.refl


theorem State.cmdErr_keeps (s : State) (e : Nat) : Keeps [.dbg] s (State.cmdErr s e) := by
  unfold State.cmdErr
  refine Keeps.ite (fun _ => ?_) (fun _ => ?_)
  · exact Keeps.via (State.setDm_keeps ..) rfl Keeps.refl
  · exact Keeps.refl


theorem State.accessRegister_keeps (s : State) (h : Nat) (regno : Nat) (write : Bool) (dbl : Bool) : Keeps [.dbg, .mgc] s (State.accessRegister s h regno write dbl) := by
  unfold State.accessRegister
  try extract_lets
  refine Keeps.ite (fun _ => ?_) (fun _ => ?_)
  · exact Keeps.refl
  · refine Keeps.ite (fun _ => ?_) (fun _ => ?_)
    · exact Keeps.via (State.cmdErr_keeps ..) rfl Keeps.refl
    · refine Keeps.ite (fun _ => ?_) (fun _ => ?_)
      · exact Keeps.via (State.cmdErr_keeps ..) rfl Keeps.refl
      · refine Keeps.ite (fun _ => ?_) (fun _ => ?_)
        · try extract_lets
          refine Keeps.ite (fun _ => ?_) (fun _ => ?_)
          · exact Keeps.refl
          · try extract_lets
            exact Keeps.via (State.setHart_keeps ..) rfl Keeps.refl
        · try extract_lets
          refine Keeps.ite (fun _ => ?_) (fun _ => ?_)
          · refine Keeps.via (State.setDm_keeps ..) rfl ?_
            exact Keeps.via (State.setDm_keeps ..) rfl Keeps.refl
          · exact Keeps.via (State.setDm_keeps ..) rfl Keeps.refl


theorem State.tinOpEnd_keeps (s : State) (st : Nat) : Keeps [.regs] s (State.tinOpEnd s st) := by
  unfold State.tinOpEnd
  exact Keeps.via (State.fset_keeps ..) rfl Keeps.refl


theorem State.opStep_keeps (s : State) (d : Nat) (r : Nat) (port : Nat) : Keeps [.regs, .tins, .ring, .laneOut, .seamCh, .dbg] s (State.opStep s d r port) := by
  unfold State.opStep
  refine Keeps.ite (fun _ => ?_) (fun _ => ?_)
  · exact Keeps.via (State.tinOpEnd_keeps ..) rfl Keeps.refl
  · try extract_lets
    split
    · refine Keeps.via (State.tinOpEnd_keeps ..) rfl ?_
      refine Keeps.upd_dbg rfl ?_
      refine Keeps.via (State.fset_keeps ..) rfl ?_
      exact Keeps.via (State.setTin_keeps ..) rfl Keeps.refl
    · try extract_lets
      split
      · refine Keeps.via (State.setConn_keeps ..) rfl ?_
        refine Keeps.via (State.epDeliver_keeps _ _ _ _ _ _ ‹_›) rfl ?_
        refine Keeps.via (State.tinOpEnd_keeps ..) rfl ?_
        refine Keeps.upd_dbg rfl ?_
        refine Keeps.via (State.fset_keeps ..) rfl ?_
        exact Keeps.via (State.setTin_keeps ..) rfl Keeps.refl
      · refine Keeps.via (State.tinOpEnd_keeps ..) rfl ?_
        refine Keeps.upd_dbg rfl ?_
        refine Keeps.via (State.fset_keeps ..) rfl ?_
        exact Keeps.via (State.setTin_keeps ..) rfl Keeps.refl


theorem State.opFreeze_keeps (s : State) (d : Nat) (r : Nat) : Keeps [.regs, .tins, .dbg] s (State.opFreeze s d r) := by
  unfold State.opFreeze
  try extract_lets
  refine Keeps.via (State.tinOpEnd_keeps ..) rfl ?_
  exact Keeps.via (State.freezeRole_keeps ..) rfl Keeps.refl


theorem State.opRelease_keeps (s : State) (d : Nat) (r : Nat) : Keeps [.regs, .tins, .dbg] s (State.opRelease s d r) := by
  unfold State.opRelease
  refine Keeps.ite (fun _ => ?_) (fun _ => ?_)
  · refine Keeps.via (State.tinOpEnd_keeps ..) rfl ?_
    exact Keeps.via (State.releaseRole_keeps ..) rfl Keeps.refl
  · exact Keeps.via (State.tinOpEnd_keeps ..) rfl Keeps.refl


theorem State.opReadback_keeps (s : State) (d : Nat) (r : Nat) : Keeps [.regs, .larder] s (State.opReadback s d r) := by
  unfold State.opReadback
  refine Keeps.ite (fun _ => ?_) (fun _ => ?_)
  · exact Keeps.via (State.tinOpEnd_keeps ..) rfl Keeps.refl
  · split
    · exact Keeps.via (State.tinOpEnd_keeps ..) rfl Keeps.refl
    · refine Keeps.via (State.tinOpEnd_keeps ..) rfl ?_
      refine Keeps.upd_larder rfl ?_ ?_
      rotate_left
      · exact Larder.write_markWords_wf
      exact Keeps.refl


theorem State.opStateWrite_keeps (s : State) (d : Nat) (r : Nat) : Keeps [.regs, .tins] s (State.opStateWrite s d r) := by
  unfold State.opStateWrite
  refine Keeps.ite (fun _ => ?_) (fun _ => ?_)
  · exact Keeps.via (State.tinOpEnd_keeps ..) rfl Keeps.refl
  · split
    · exact Keeps.via (State.tinOpEnd_keeps ..) rfl Keeps.refl
    · try extract_lets
      refine Keeps.ite (fun _ => ?_) (fun _ => ?_)
      · exact Keeps.via (State.tinOpEnd_keeps ..) rfl Keeps.refl
      · refine Keeps.via (State.tinOpEnd_keeps ..) rfl ?_
        exact Keeps.via (State.setTin_keeps ..) rfl Keeps.refl


theorem State.tinCtl_keeps (s : State) (op : Nat) (d : Nat) (r : Nat) (port : Nat) : Keeps [.regs] s (State.tinCtl s op d r port) := by
  unfold State.tinCtl
  refine Keeps.via (State.fset_keeps ..) rfl ?_
  refine Keeps.via (State.fset_keeps ..) rfl ?_
  refine Keeps.via (State.fset_keeps ..) rfl ?_
  exact Keeps.via (State.fset_keeps ..) rfl Keeps.refl


theorem State.tinOp_keeps (s : State) (op : Nat) (d : Nat) (r : Nat) (port : Nat) : Keeps [.regs, .tins, .ring, .laneOut, .seamCh, .larder, .dbg, .answer] s (State.tinOp s op d r port) := by
  unfold State.tinOp
  refine Keeps.ite (fun _ => ?_) (fun _ => ?_)
  · exact Keeps.upd_answer rfl Keeps.refl
  · try extract_lets
    split
    · refine Keeps.via (State.opFreeze_keeps ..) rfl ?_
      exact Keeps.via (State.tinCtl_keeps ..) rfl Keeps.refl
    · refine Keeps.via (State.opRelease_keeps ..) rfl ?_
      exact Keeps.via (State.tinCtl_keeps ..) rfl Keeps.refl
    · refine Keeps.via (State.opStep_keeps ..) rfl ?_
      exact Keeps.via (State.tinCtl_keeps ..) rfl Keeps.refl
    · refine Keeps.via (State.opReadback_keeps ..) rfl ?_
      exact Keeps.via (State.tinCtl_keeps ..) rfl Keeps.refl
    · refine Keeps.via (State.opStateWrite_keeps ..) rfl ?_
      exact Keeps.via (State.tinCtl_keeps ..) rfl Keeps.refl
    · exact Keeps.refl


theorem State.dtx_keeps (s : State) (w : Nat) : Keeps [.regs] s (State.dtx s w) := by
  unfold State.dtx
  refine Keeps.ite (fun _ => ?_) (fun _ => ?_)
  · exact Keeps.via (State.fsat_keeps ..) rfl Keeps.refl
  · refine Keeps.via (State.fset_keeps ..) rfl ?_
    exact Keeps.via (State.fset_keeps ..) rfl Keeps.refl


theorem State.endBoundary_keeps (s : State) : Keeps [.regs, .events, .larder, .pool, .corr, .lanes, .mac, .dbg, .free] s (State.endBoundary s) := by
  unfold State.endBoundary
  refine Keeps.ite (fun _ => ?_) (fun _ => ?_)
  · exact Keeps.refl
  · refine Keeps.foldl (fun _ _ => ?_) ?_
    · refine Keeps.ite (fun _ => ?_) (fun _ => ?_)
      · exact Keeps.refl
      · exact Keeps.via (State.laneTrain_keeps ..) rfl Keeps.refl
    · exact Keeps.upd_dbg rfl Keeps.refl


theorem State.selectIr_keeps (s : State) (code : Nat) (status : Nat) (dr : List Byte) : Keeps [.regs, .events, .larder, .pool, .corr, .lanes, .mac, .dbg, .answer, .free] s (State.selectIr s code status dr) := by
  unfold State.selectIr
  try extract_lets
  refine Keeps.upd_dbg_answer rfl ?_
  exact Keeps.via (State.endBoundary_keeps ..) rfl Keeps.refl


theorem State.bypassIr_keeps (s : State) : Keeps [.regs, .events, .larder, .pool, .corr, .lanes, .mac, .dbg, .answer, .free] s (State.bypassIr s) := by
  unfold State.bypassIr
  exact Keeps.via (State.selectIr_keeps ..) rfl Keeps.refl


theorem State.boundaryIr_keeps (s : State) (code : Nat) (cells : Option Nat) : Keeps [.regs, .events, .larder, .pool, .corr, .lanes, .mac, .dbg, .answer, .free] s (State.boundaryIr s code cells) := by
  unfold State.boundaryIr
  refine Keeps.ite (fun _ => ?_) (fun _ => ?_)
  · exact Keeps.refl
  · refine Keeps.ite (fun _ => ?_) (fun _ => ?_)
    · exact Keeps.via (State.bypassIr_keeps ..) rfl Keeps.refl
    · try extract_lets
      refine Keeps.upd_dbg_answer rfl ?_
      refine Keeps.foldl (fun _ _ => ?_) ?_
      · exact Keeps.via (State.selfRefresh_keeps ..) rfl Keeps.refl
      · exact Keeps.refl


theorem State.captureChallenge_keeps (s : State) : Keeps [.dbg, .free] s (State.captureChallenge s).2 := by
  unfold State.captureChallenge
  refine Keeps.ite_p1 (fun _ => ?_) (fun _ => ?_)
  · refine Keeps.snd_mk ?_
    exact Keeps.refl
  · try extract_lets
    refine Keeps.snd_mk ?_
    try extract_lets
    refine Keeps.upd_dbg rfl ?_
    exact Keeps.via (State.newChallenge_keeps ..) rfl Keeps.refl


theorem execClamp_keeps (s : State) : OutKeeps [.regs, .events, .larder, .pool, .corr, .lanes, .mac, .dbg, .answer, .free] s (execClamp s) := by
  unfold execClamp
  refine OutKeeps.next ?_
  exact Keeps.via (State.boundaryIr_keeps ..) rfl Keeps.refl


theorem execDrxConsume_keeps (s : State) : OutKeeps [.regs, .answer] s (execDrxConsume s) := by
  unfold execDrxConsume
  refine OutKeeps.next ?_
  try extract_lets
  refine Keeps.upd_answer rfl ?_
  exact Keeps.via (State.fset_keeps ..) rfl Keeps.refl


theorem execDbgTinFrozen_keeps (d : DieIx) (r : Fin 12) (s : State) : OutKeeps [.regs, .events, .dbg] s (execDbgTinFrozen d r s) := by
  unfold execDbgTinFrozen
  try extract_lets
  refine OutKeeps.ite (fun _ => ?_) (fun _ => ?_)
  · refine OutKeeps.next ?_
    exact Keeps.refl
  · refine OutKeeps.ite (fun _ => ?_) (fun _ => ?_)
    · refine OutKeeps.next ?_
      try extract_lets
      refine Keeps.upd_dbg rfl ?_
      exact Keeps.via (State.fset_keeps ..) rfl Keeps.refl
    · refine OutKeeps.ite (fun _ => ?_) (fun _ => ?_)
      · refine OutKeeps.next ?_
        refine Keeps.via (State.post_keeps ..) rfl ?_
        refine Keeps.via (State.fset_keeps ..) rfl ?_
        exact Keeps.via (State.fset_keeps ..) rfl Keeps.refl
      · refine OutKeeps.next ?_
        exact Keeps.refl


theorem execExtestTrain_keeps (cells : Nat) (s : State) : OutKeeps [.regs, .events, .larder, .pool, .corr, .lanes, .mac, .dbg, .answer, .free] s (execExtestTrain cells s) := by
  unfold execExtestTrain
  refine OutKeeps.next ?_
  exact Keeps.via (State.boundaryIr_keeps ..) rfl Keeps.refl


theorem execBypass_keeps (s : State) : OutKeeps [.regs, .events, .larder, .pool, .corr, .lanes, .mac, .dbg, .answer, .free] s (execBypass s) := by
  unfold execBypass
  refine OutKeeps.ite (fun _ => ?_) (fun _ => ?_)
  · refine OutKeeps.next ?_
    exact Keeps.via (State.bypassIr_keeps ..) rfl Keeps.refl
  · refine OutKeeps.next ?_
    exact Keeps.refl


theorem execSamplePreload_keeps (cells : Nat) (s : State) : OutKeeps [.regs, .events, .larder, .pool, .corr, .lanes, .mac, .dbg, .answer, .free] s (execSamplePreload cells s) := by
  unfold execSamplePreload
  refine OutKeeps.ite (fun _ => ?_) (fun _ => ?_)
  · try extract_lets
    refine OutKeeps.next ?_
    refine Keeps.upd_dbg rfl ?_
    exact Keeps.via (State.selectIr_keeps ..) rfl Keeps.refl
  · refine OutKeeps.next ?_
    exact Keeps.refl


theorem execAccessRegister_keeps (h : HartIx) (regno : Fin 65536) (write : Bool) (dbl : Bool) (s : State) : OutKeeps [.dbg, .mgc] s (execAccessRegister h regno write dbl s) := by
  unfold execAccessRegister
  refine OutKeeps.ite (fun _ => ?_) (fun _ => ?_)
  · refine OutKeeps.next ?_
    exact Keeps.via (State.accessRegister_keeps ..) rfl Keeps.refl
  · refine OutKeeps.next ?_
    exact Keeps.refl


theorem execTinReadback_keeps (d : DieIx) (r : Fin 12) (s : State) : OutKeeps [.regs, .tins, .ring, .laneOut, .seamCh, .larder, .dbg, .answer] s (execTinReadback d r s) := by
  unfold execTinReadback
  refine OutKeeps.next ?_
  exact Keeps.via (State.tinOp_keeps ..) rfl Keeps.refl


theorem execTapReset_keeps (s : State) : OutKeeps [.regs, .events, .larder, .pool, .corr, .lanes, .mac, .dbg, .free] s (execTapReset s) := by
  unfold execTapReset
  try extract_lets
  refine OutKeeps.next ?_
  refine Keeps.upd_dbg rfl ?_
  exact Keeps.via (State.endBoundary_keeps ..) rfl Keeps.refl


theorem execTinStateWrite_keeps (d : DieIx) (r : Fin 12) (s : State) : OutKeeps [.regs, .tins, .ring, .laneOut, .seamCh, .larder, .dbg, .answer] s (execTinStateWrite d r s) := by
  unfold execTinStateWrite
  refine OutKeeps.next ?_
  exact Keeps.via (State.tinOp_keeps ..) rfl Keeps.refl


theorem execHighz_keeps (s : State) : OutKeeps [.regs, .events, .larder, .pool, .corr, .lanes, .mac, .dbg, .answer, .free] s (execHighz s) := by
  unfold execHighz
  refine OutKeeps.next ?_
  exact Keeps.via (State.boundaryIr_keeps ..) rfl Keeps.refl


theorem execIdcode_keeps (s : State) : OutKeeps [.regs, .events, .larder, .pool, .corr, .lanes, .mac, .dbg, .answer, .free] s (execIdcode s) := by
  unfold execIdcode
  refine OutKeeps.ite (fun _ => ?_) (fun _ => ?_)
  · refine OutKeeps.next ?_
    exact Keeps.via (State.selectIr_keeps ..) rfl Keeps.refl
  · refine OutKeeps.next ?_
    exact Keeps.refl


theorem execBoundaryScanEnd_keeps (s : State) : OutKeeps [.regs, .events, .larder, .pool, .corr, .lanes, .mac, .dbg, .free] s (execBoundaryScanEnd s) := by
  unfold execBoundaryScanEnd
  refine OutKeeps.next ?_
  exact Keeps.via (State.endBoundary_keeps ..) rfl Keeps.refl


theorem execExtestPulse_keeps (cells : Nat) (s : State) : OutKeeps [.regs, .events, .larder, .pool, .corr, .lanes, .mac, .dbg, .answer, .free] s (execExtestPulse cells s) := by
  unfold execExtestPulse
  refine OutKeeps.next ?_
  exact Keeps.via (State.boundaryIr_keeps ..) rfl Keeps.refl


theorem execTinFreeze_keeps (d : DieIx) (r : Fin 12) (s : State) : OutKeeps [.regs, .tins, .ring, .laneOut, .seamCh, .larder, .dbg, .answer] s (execTinFreeze d r s) := by
  unfold execTinFreeze
  refine OutKeeps.next ?_
  exact Keeps.via (State.tinOp_keeps ..) rfl Keeps.refl


theorem execTinRelease_keeps (d : DieIx) (r : Fin 12) (s : State) : OutKeeps [.regs, .tins, .ring, .laneOut, .seamCh, .larder, .dbg, .answer] s (execTinRelease d r s) := by
  unfold execTinRelease
  refine OutKeeps.next ?_
  exact Keeps.via (State.tinOp_keeps ..) rfl Keeps.refl


theorem execDtxWrite_keeps (w : Word) (s : State) : OutKeeps [.regs] s (execDtxWrite w s) := by
  unfold execDtxWrite
  refine OutKeeps.next ?_
  exact Keeps.via (State.dtx_keeps ..) rfl Keeps.refl


theorem execHaltCause_keeps (s : State) : OutKeeps [.regs, .events, .larder, .pool, .corr, .lanes, .mac, .dbg, .answer, .free] s (execHaltCause s) := by
  unfold execHaltCause
  refine OutKeeps.ite (fun _ => ?_) (fun _ => ?_)
  · refine OutKeeps.next ?_
    exact Keeps.via (State.selectIr_keeps ..) rfl Keeps.refl
  · refine OutKeeps.next ?_
    exact Keeps.refl


theorem execTraceFrameSend_keeps (s : State) : OutKeeps [.dbg, .answer] s (execTraceFrameSend s) := by
  unfold execTraceFrameSend
  refine OutKeeps.ite (fun _ => ?_) (fun _ => ?_)
  · refine OutKeeps.next ?_
    exact Keeps.refl
  · try extract_lets
    refine OutKeeps.next ?_
    exact Keeps.upd_dbg_answer rfl Keeps.refl


theorem execStimulusWrite_keeps (n : Fin 256) (w : Word) (src : Fin 4096) (s : State) : OutKeeps [.regs, .events, .tins, .larder, .dbg, .mgc, .free] s (execStimulusWrite n w src s) := by
  unfold execStimulusWrite
  refine OutKeeps.next ?_
  exact Keeps.via (State.stimulus_keeps ..) rfl Keeps.refl


theorem execTokenStep_keeps (d : DieIx) (r : Fin 12) (port : Fin 512) (s : State) : OutKeeps [.regs, .tins, .ring, .laneOut, .seamCh, .larder, .dbg, .answer] s (execTokenStep d r port s) := by
  unfold execTokenStep
  refine OutKeeps.next ?_
  exact Keeps.via (State.tinOp_keeps ..) rfl Keeps.refl


theorem execDtermUpdate_keeps (v : BitVec 34) (s : State) : OutKeeps [.regs, .events, .larder, .pool, .corr, .lanes, .mac, .dbg, .answer, .free] s (execDtermUpdate v s) := by
  unfold execDtermUpdate
  refine OutKeeps.ite (fun _ => ?_) (fun _ => ?_)
  · refine OutKeeps.next ?_
    exact Keeps.refl
  · refine OutKeeps.ite (fun _ => ?_) (fun _ => ?_)
    · refine OutKeeps.next ?_
      exact Keeps.via (State.bypassIr_keeps ..) rfl Keeps.refl
    · try extract_lets
      refine OutKeeps.next ?_
      refine Keeps.ite (fun _ => ?_) (fun _ => ?_)
      · refine Keeps.via (State.fset_keeps ..) rfl ?_
        refine Keeps.via (State.fset_keeps ..) rfl ?_
        refine Keeps.ite (fun _ => ?_) (fun _ => ?_)
        · refine Keeps.via (State.fset_keeps ..) rfl ?_
          exact Keeps.via (State.selectIr_keeps ..) rfl Keeps.refl
        · exact Keeps.via (State.selectIr_keeps ..) rfl Keeps.refl
      · refine Keeps.ite (fun _ => ?_) (fun _ => ?_)
        · refine Keeps.via (State.fset_keeps ..) rfl ?_
          exact Keeps.via (State.selectIr_keeps ..) rfl Keeps.refl
        · exact Keeps.via (State.selectIr_keeps ..) rfl Keeps.refl


theorem execAuth_keeps (resp : Option (List Byte)) (key : Option (Fin 4)) (sigOk : Bool) (s : State) : OutKeeps [.regs, .events, .tins, .larder, .pool, .corr, .lanes, .mac, .dbg, .mgc, .answer, .free] s (execAuth resp key sigOk s) := by
  unfold execAuth
  refine OutKeeps.ite (fun _ => ?_) (fun _ => ?_)
  · refine OutKeeps.next ?_
    exact Keeps.refl
  · refine OutKeeps.ite (fun _ => ?_) (fun _ => ?_)
    · refine OutKeeps.next ?_
      exact Keeps.via (State.bypassIr_keeps ..) rfl Keeps.refl
    · try extract_lets
      split
      · refine OutKeeps.next ?_
        try extract_lets
        refine Keeps.upd_dbg_answer rfl ?_
        refine Keeps.via (State.captureChallenge_keeps ..) rfl ?_
        exact Keeps.via (State.endBoundary_keeps ..) rfl Keeps.refl
      · try extract_lets
        refine OutKeeps.next ?_
        refine Keeps.upd_dbg_answer rfl ?_
        refine Keeps.ite (fun _ => ?_) (fun _ => ?_)
        · refine Keeps.via (State.respond_keeps ..) rfl ?_
          try extract_lets
          refine Keeps.upd_dbg rfl ?_
          refine Keeps.via (State.captureChallenge_keeps ..) rfl ?_
          exact Keeps.via (State.endBoundary_keeps ..) rfl Keeps.refl
        · refine Keeps.upd_dbg rfl ?_
          refine Keeps.via (State.respond_keeps ..) rfl ?_
          try extract_lets
          refine Keeps.upd_dbg rfl ?_
          refine Keeps.via (State.captureChallenge_keeps ..) rfl ?_
          exact Keeps.via (State.endBoundary_keeps ..) rfl Keeps.refl


theorem execExtest_keeps (cells : Nat) (s : State) : OutKeeps [.regs, .events, .larder, .pool, .corr, .lanes, .mac, .dbg, .answer, .free] s (execExtest cells s) := by
  unfold execExtest
  refine OutKeeps.next ?_
  exact Keeps.via (State.boundaryIr_keeps ..) rfl Keeps.refl


theorem execCfgReadback_keeps (sel : Option (Fin 128 × Fin 65536)) (s : State) : OutKeeps [.regs, .events, .larder, .pool, .corr, .lanes, .mac, .dbg, .answer, .free] s (execCfgReadback sel s) := by
  unfold execCfgReadback
  refine OutKeeps.ite (fun _ => ?_) (fun _ => ?_)
  · refine OutKeeps.next ?_
    exact Keeps.refl
  · refine OutKeeps.ite (fun _ => ?_) (fun _ => ?_)
    · refine OutKeeps.next ?_
      exact Keeps.via (State.bypassIr_keeps ..) rfl Keeps.refl
    · try extract_lets
      refine OutKeeps.next ?_
      split
      · refine Keeps.upd_dbg rfl ?_
        exact Keeps.via (State.selectIr_keeps ..) rfl Keeps.refl
      · exact Keeps.via (State.selectIr_keeps ..) rfl Keeps.refl


end Sys2Proof.Machine
end

