-- ==== Sys2Proof/Laws/Keeps/Mac.lean ====
section
/-! SUPPORT. What the operations of Machine/Mac.lean may change, and that they keep the invariant. -/

namespace Sys2Proof.Machine

theorem State.badRecord_keeps (s : State) (d : Nat) : Keeps [.regs] s (State.badRecord s d) := by
  unfold State.badRecord
  exact Keeps.via (State.fsat_keeps ..) rfl Keeps.refl


theorem State.collide_keeps (s : State) (d : Nat) (p : Nat) : Keeps [.regs, .mac] s (State.collide s d p) := by
  unfold State.collide
  try extract_lets
  refine Keeps.via (State.stat_keeps ..) rfl ?_
  exact Keeps.upd_mac rfl Keeps.refl


theorem State.setSp_keeps (s : State) (d : Nat) (k : Nat) (v : SpSt) : Keeps [.mac] s (State.setSp s d k v) := by
  unfold State.setSp
  exact Keeps.upd_mac rfl Keeps.refl


theorem State.dropRest_keeps (s : State) (d : Nat) (k : Nat) (p : Nat) (r : Rec) : Keeps [.regs, .mac] s (State.dropRest s d k p r) := by
  unfold State.dropRest
  try extract_lets
  refine Keeps.ite (fun _ => ?_) (fun _ => ?_)
  · refine Keeps.via (State.setSp_keeps ..) rfl ?_
    exact Keeps.via (State.stat_keeps ..) rfl Keeps.refl
  · exact Keeps.via (State.stat_keeps ..) rfl Keeps.refl


theorem State.pumpIn_keeps (s : State) (d : Nat) (p : Nat) : Keeps [.laneIn, .mac] s (State.pumpIn s d p) := by
  unfold State.pumpIn
  try extract_lets
  split
  · refine Keeps.ite (fun _ => ?_) (fun _ => ?_)
    · try extract_lets
      refine Keeps.upd_laneIn rfl ?_
      exact Keeps.via (State.setMport_keeps ..) rfl Keeps.refl
    · exact Keeps.refl
  · exact Keeps.refl


theorem State.frameReceive_keeps (s : State) (d : Nat) (p : Nat) (f : List Byte) (bufErr : Bool) (corr : Nat) (uncorr : Nat) : Keeps [.regs, .events, .laneIn, .mac] s (State.frameReceive s d p f bufErr corr uncorr) := by
  unfold State.frameReceive
  try extract_lets
  refine Keeps.ite (fun _ => ?_) (fun _ => ?_)
  · refine Keeps.ite (fun _ => ?_) (fun _ => ?_)
    · refine Keeps.via (State.postLimited_keeps ..) rfl ?_
      refine Keeps.via (State.stat_keeps ..) rfl ?_
      refine Keeps.via (State.stat_keeps ..) rfl ?_
      exact Keeps.via (State.stat_keeps ..) rfl Keeps.refl
    · refine Keeps.via (State.pumpIn_keeps ..) rfl ?_
      refine Keeps.via (State.setMport_keeps ..) rfl ?_
      refine Keeps.via (State.stat_keeps ..) rfl ?_
      exact Keeps.via (State.stat_keeps ..) rfl Keeps.refl
  · refine Keeps.ite (fun _ => ?_) (fun _ => ?_)
    · refine Keeps.via (State.stat_keeps ..) rfl ?_
      refine Keeps.via (State.stat_keeps ..) rfl ?_
      exact Keeps.via (State.stat_keeps ..) rfl Keeps.refl
    · try extract_lets
      refine Keeps.ite (fun _ => ?_) (fun _ => ?_)
      · refine Keeps.ite (fun _ => ?_) (fun _ => ?_)
        · refine Keeps.via (State.stat_keeps ..) rfl ?_
          refine Keeps.via (State.stat_keeps ..) rfl ?_
          exact Keeps.via (State.stat_keeps ..) rfl Keeps.refl
        · refine Keeps.via (State.stat_keeps ..) rfl ?_
          exact Keeps.via (State.stat_keeps ..) rfl Keeps.refl
      · try extract_lets
        refine Keeps.ite (fun _ => ?_) (fun _ => ?_)
        · refine Keeps.via (State.postLimited_keeps ..) rfl ?_
          refine Keeps.via (State.stat_keeps ..) rfl ?_
          refine Keeps.ite (fun _ => ?_) (fun _ => ?_)
          · refine Keeps.via (State.stat_keeps ..) rfl ?_
            refine Keeps.ite (fun _ => ?_) (fun _ => ?_)
            · refine Keeps.via (State.stat_keeps ..) rfl ?_
              refine Keeps.via (State.stat_keeps ..) rfl ?_
              exact Keeps.via (State.stat_keeps ..) rfl Keeps.refl
            · refine Keeps.via (State.stat_keeps ..) rfl ?_
              exact Keeps.via (State.stat_keeps ..) rfl Keeps.refl
          · refine Keeps.ite (fun _ => ?_) (fun _ => ?_)
            · refine Keeps.via (State.stat_keeps ..) rfl ?_
              refine Keeps.via (State.stat_keeps ..) rfl ?_
              exact Keeps.via (State.stat_keeps ..) rfl Keeps.refl
            · refine Keeps.via (State.stat_keeps ..) rfl ?_
              exact Keeps.via (State.stat_keeps ..) rfl Keeps.refl
        · try extract_lets
          refine Keeps.via (State.pumpIn_keeps ..) rfl ?_
          refine Keeps.via (State.setMport_keeps ..) rfl ?_
          refine Keeps.via (State.stat_keeps ..) rfl ?_
          refine Keeps.via (State.stat_keeps ..) rfl ?_
          refine Keeps.ite (fun _ => ?_) (fun _ => ?_)
          · refine Keeps.via (State.stat_keeps ..) rfl ?_
            refine Keeps.ite (fun _ => ?_) (fun _ => ?_)
            · refine Keeps.via (State.stat_keeps ..) rfl ?_
              refine Keeps.via (State.stat_keeps ..) rfl ?_
              exact Keeps.via (State.stat_keeps ..) rfl Keeps.refl
            · refine Keeps.via (State.stat_keeps ..) rfl ?_
              exact Keeps.via (State.stat_keeps ..) rfl Keeps.refl
          · refine Keeps.ite (fun _ => ?_) (fun _ => ?_)
            · refine Keeps.via (State.stat_keeps ..) rfl ?_
              refine Keeps.via (State.stat_keeps ..) rfl ?_
              exact Keeps.via (State.stat_keeps ..) rfl Keeps.refl
            · refine Keeps.via (State.stat_keeps ..) rfl ?_
              exact Keeps.via (State.stat_keeps ..) rfl Keeps.refl


theorem State.gatherBeat_keeps (s : State) (d : Nat) (p : Nat) (b : List Nat) : Keeps [.regs, .mac] s (State.gatherBeat s d p b) := by
  unfold State.gatherBeat
  try extract_lets
  split
  · refine Keeps.ite (fun _ => ?_) (fun _ => ?_)
    · exact Keeps.via (State.badRecord_keeps ..) rfl Keeps.refl
    · exact Keeps.refl
  · refine Keeps.ite (fun _ => ?_) (fun _ => ?_)
    · try extract_lets
      refine Keeps.ite (fun _ => ?_) (fun _ => ?_)
      · refine Keeps.via (State.setMport_keeps ..) rfl ?_
        refine Keeps.via (State.setMport_keeps ..) rfl ?_
        refine Keeps.ite (fun _ => ?_) (fun _ => ?_)
        · exact Keeps.via (State.badRecord_keeps ..) rfl Keeps.refl
        · exact Keeps.refl
      · refine Keeps.via (State.badRecord_keeps ..) rfl ?_
        refine Keeps.via (State.setMport_keeps ..) rfl ?_
        refine Keeps.ite (fun _ => ?_) (fun _ => ?_)
        · exact Keeps.via (State.badRecord_keeps ..) rfl Keeps.refl
        · exact Keeps.refl
    · refine Keeps.via (State.setMport_keeps ..) rfl ?_
      refine Keeps.ite (fun _ => ?_) (fun _ => ?_)
      · exact Keeps.via (State.badRecord_keeps ..) rfl Keeps.refl
      · exact Keeps.refl


theorem State.takeBeat_keeps (s : State) (ks : List Nat) : Keeps [.laneOut] s (State.takeBeat s ks) := by
  unfold State.takeBeat
  exact Keeps.upd_laneOut rfl Keeps.refl


theorem State.laneRecord_keeps (s : State) (d : Nat) (p : Nat) : Keeps [.regs, .laneOut, .mac, .answer] s (State.laneRecord s d p) := by
  unfold State.laneRecord
  split
  · exact Keeps.refl
  · try extract_lets
    refine Keeps.ite (fun _ => ?_) (fun _ => ?_)
    · try extract_lets
      refine Keeps.upd_answer rfl ?_
      refine Keeps.via (State.stat_keeps ..) rfl ?_
      exact Keeps.via (State.takeBeat_keeps ..) rfl Keeps.refl
    · refine Keeps.ite (fun _ => ?_) (fun _ => ?_)
      · refine Keeps.via (State.setMport_keeps ..) rfl ?_
        exact Keeps.via (State.takeBeat_keeps ..) rfl Keeps.refl
      · refine Keeps.via (State.gatherBeat_keeps ..) rfl ?_
        exact Keeps.via (State.takeBeat_keeps ..) rfl Keeps.refl


theorem State.latePkt_keeps (s : State) (d : Nat) (p : Nat) (ctr : Nat) : Keeps [.regs, .events, .tins, .larder, .mac, .dbg, .mgc, .free] s (State.latePkt s d p ctr) := by
  unfold State.latePkt
  try extract_lets
  refine Keeps.via (State.xt_keeps ..) rfl ?_
  refine Keeps.ite (fun _ => ?_) (fun _ => ?_)
  · try extract_lets
    refine Keeps.upd_events rfl ?_
    refine Keeps.via (State.post_keeps ..) rfl ?_
    exact Keeps.via (State.stat_keeps ..) rfl Keeps.refl
  · exact Keeps.via (State.stat_keeps ..) rfl Keeps.refl


theorem State.pace_keeps (s : State) (d : Nat) (r : Rec) : Keeps [.regs, .events, .larder, .corr, .free] s (State.pace s d r).2 := by
  unfold State.pace
  try extract_lets
  refine Keeps.ite_p1 (fun _ => ?_) (fun _ => ?_)
  · refine Keeps.snd_mk ?_
    exact Keeps.refl
  · try extract_lets
    refine Keeps.snd_mk ?_
    refine Keeps.via (State.larderWrite_keeps ..) rfl ?_
    refine Keeps.ite (fun _ => ?_) (fun _ => ?_)
    · exact Keeps.via (State.takeFree_keeps ..) rfl Keeps.refl
    · exact Keeps.refl


theorem State.sendFrame_keeps (s : State) (d : Nat) (p : Nat) (r : Rec) (underrun : Bool) : Keeps [.regs, .events, .larder, .pool, .corr, .lanes, .mac, .answer, .free] s (State.sendFrame s d p r underrun) := by
  unfold State.sendFrame
  try extract_lets
  refine Keeps.upd_answer rfl ?_
  refine Keeps.foldl (fun _ _ => ?_) ?_
  · refine Keeps.ite (fun _ => ?_) (fun _ => ?_)
    · exact Keeps.via (State.setLane_keeps ..) rfl Keeps.refl
    · exact Keeps.refl
  · refine Keeps.ite (fun _ => ?_) (fun _ => ?_)
    · refine Keeps.via (State.cqPush_keeps ..) rfl ?_
      refine Keeps.via (State.stat_keeps ..) rfl ?_
      refine Keeps.via (State.stat_keeps ..) rfl ?_
      refine Keeps.via (State.stat_keeps ..) rfl ?_
      exact Keeps.via (State.stat_keeps ..) rfl Keeps.refl
    · refine Keeps.via (State.stat_keeps ..) rfl ?_
      refine Keeps.via (State.stat_keeps ..) rfl ?_
      refine Keeps.via (State.stat_keeps ..) rfl ?_
      exact Keeps.via (State.stat_keeps ..) rfl Keeps.refl


theorem State.packetLaunch_keeps (s : State) (d : Nat) (p : Nat) : Keeps [.regs, .events, .tins, .larder, .pool, .corr, .lanes, .mac, .dbg, .mgc, .answer, .free] s (State.packetLaunch s d p) := by
  unfold State.packetLaunch
  try extract_lets
  split
  · exact Keeps.refl
  · try extract_lets
    refine Keeps.ite (fun _ => ?_) (fun _ => ?_)
    · refine Keeps.via (State.stat_keeps ..) rfl ?_
      exact Keeps.upd_mac rfl Keeps.refl
    · refine Keeps.ite (fun _ => ?_) (fun _ => ?_)
      · exact Keeps.refl
      · refine Keeps.ite (fun _ => ?_) (fun _ => ?_)
        · refine Keeps.via (State.dropRest_keeps ..) rfl ?_
          exact Keeps.upd_mac rfl Keeps.refl
        · refine Keeps.ite (fun _ => ?_) (fun _ => ?_)
          · exact Keeps.refl
          · refine Keeps.ite (fun _ => ?_) (fun _ => ?_)
            · refine Keeps.via (State.latePkt_keeps ..) rfl ?_
              exact Keeps.upd_mac rfl Keeps.refl
            · refine Keeps.ite (fun _ => ?_) (fun _ => ?_)
              · try extract_lets
                refine Keeps.ite (fun _ => ?_) (fun _ => ?_)
                · refine Keeps.via (State.latePkt_keeps ..) rfl ?_
                  exact Keeps.upd_mac rfl Keeps.refl
                · refine Keeps.via (State.setSp_keeps ..) rfl ?_
                  refine Keeps.via (State.latePkt_keeps ..) rfl ?_
                  exact Keeps.upd_mac rfl Keeps.refl
              · try extract_lets
                refine Keeps.via (State.sendFrame_keeps ..) rfl ?_
                refine Keeps.via (State.collide_keeps ..) rfl ?_
                refine Keeps.ite (fun _ => ?_) (fun _ => ?_)
                · refine Keeps.via (State.latePkt_keeps ..) rfl ?_
                  exact Keeps.upd_mac rfl Keeps.refl
                · exact Keeps.upd_mac rfl Keeps.refl


theorem State.present_keeps (s : State) (d : Nat) (k : Nat) : Keeps [.regs, .events, .larder, .corr, .mac, .free] s (State.present s d k) := by
  unfold State.present
  try extract_lets
  split
  · refine Keeps.ite (fun _ => ?_) (fun _ => ?_)
    · exact Keeps.refl
    · try extract_lets
      refine Keeps.ite (fun _ => ?_) (fun _ => ?_)
      · refine Keeps.via (State.dropRest_keeps ..) rfl ?_
        exact Keeps.via (State.setSp_keeps ..) rfl Keeps.refl
      · split
        · try extract_lets
          refine Keeps.ite (fun _ => ?_) (fun _ => ?_)
          · refine Keeps.via (State.stat_keeps ..) rfl ?_
            exact Keeps.via (State.setSp_keeps ..) rfl Keeps.refl
          · refine Keeps.via (State.setSp_keeps ..) rfl ?_
            exact Keeps.via (State.setSp_keeps ..) rfl Keeps.refl
        · try extract_lets
          refine Keeps.ite (fun _ => ?_) (fun _ => ?_)
          · refine Keeps.via (State.stat_keeps ..) rfl ?_
            exact Keeps.via (State.setSp_keeps ..) rfl Keeps.refl
          · refine Keeps.via (State.setSp_keeps ..) rfl ?_
            exact Keeps.via (State.setSp_keeps ..) rfl Keeps.refl
        · try extract_lets
          split
          · try extract_lets
            refine Keeps.ite (fun _ => ?_) (fun _ => ?_)
            · refine Keeps.via (State.stat_keeps ..) rfl ?_
              refine Keeps.via (State.pace_keeps ..) rfl ?_
              exact Keeps.via (State.setSp_keeps ..) rfl Keeps.refl
            · refine Keeps.via (State.setSp_keeps ..) rfl ?_
              refine Keeps.via (State.pace_keeps ..) rfl ?_
              exact Keeps.via (State.setSp_keeps ..) rfl Keeps.refl
          · refine Keeps.via (State.badRecord_keeps ..) rfl ?_
            refine Keeps.via (State.pace_keeps ..) rfl ?_
            exact Keeps.via (State.setSp_keeps ..) rfl Keeps.refl
  · exact Keeps.refl


theorem State.pumpAll_keeps (s : State) : Keeps [.laneIn, .mac] s (State.pumpAll s) := by
  unfold State.pumpAll
  refine Keeps.foldl (fun _ _ => ?_) ?_
  · refine Keeps.ite (fun _ => ?_) (fun _ => ?_)
    · exact Keeps.refl
    · exact Keeps.via (State.pumpIn_keeps ..) rfl Keeps.refl
  · exact Keeps.refl


theorem State.sdiLock_keeps (s : State) (d : Nat) (m : Nat) (lock : Bool) : Keeps [.regs, .events, .larder, .pool, .corr, .mac, .free] s (State.sdiLock s d m lock) := by
  unfold State.sdiLock
  try extract_lets
  refine Keeps.ite (fun _ => ?_) (fun _ => ?_)
  · exact Keeps.refl
  · try extract_lets
    refine Keeps.via (State.cqPush_keeps ..) rfl ?_
    refine Keeps.ite (fun _ => ?_) (fun _ => ?_)
    · refine Keeps.via (State.post_keeps ..) rfl ?_
      exact Keeps.via (State.setMport_keeps ..) rfl Keeps.refl
    · refine Keeps.via (State.stat_keeps ..) rfl ?_
      refine Keeps.via (State.post_keeps ..) rfl ?_
      exact Keeps.via (State.setMport_keeps ..) rfl Keeps.refl


theorem State.streamRecord_keeps (s : State) (d : Nat) (k : Nat) : Keeps [.regs, .mac] s (State.streamRecord s d k) := by
  unfold State.streamRecord
  try extract_lets
  split
  · refine Keeps.ite (fun _ => ?_) (fun _ => ?_)
    · exact Keeps.refl
    · try extract_lets
      refine Keeps.ite (fun _ => ?_) (fun _ => ?_)
      · refine Keeps.via (State.setSp_keeps ..) rfl ?_
        exact Keeps.via (State.setSp_keeps ..) rfl Keeps.refl
      · refine Keeps.via (State.badRecord_keeps ..) rfl ?_
        exact Keeps.via (State.setSp_keeps ..) rfl Keeps.refl
  · exact Keeps.refl


theorem execFrameReceive_keeps (d : DieIx) (p : Fin 12) (f : List Byte) (bufErr : Bool) (corr : Nat) (uncorr : Nat) (s : State) : OutKeeps [.regs, .events, .laneIn, .mac] s (execFrameReceive d p f bufErr corr uncorr s) := by
  unfold execFrameReceive
  refine OutKeeps.ite (fun _ => ?_) (fun _ => ?_)
  · refine OutKeeps.next ?_
    exact Keeps.via (State.frameReceive_keeps ..) rfl Keeps.refl
  · refine OutKeeps.next ?_
    exact Keeps.refl


theorem execPacketLaunch_keeps (d : DieIx) (p : Fin 12) (s : State) : OutKeeps [.regs, .events, .tins, .larder, .pool, .corr, .lanes, .mac, .dbg, .mgc, .answer, .free] s (execPacketLaunch d p s) := by
  unfold execPacketLaunch
  refine OutKeeps.next ?_
  exact Keeps.via (State.packetLaunch_keeps ..) rfl Keeps.refl


theorem execStatisticsWrite_keeps (d : DieIx) (p : Fin 12) (s : State) : OutKeeps [.regs, .events, .larder, .corr, .free] s (execStatisticsWrite d p s) := by
  unfold execStatisticsWrite
  refine OutKeeps.ite (fun _ => ?_) (fun _ => ?_)
  · try extract_lets
    refine OutKeeps.next ?_
    refine Keeps.foldl (fun _ _ => ?_) ?_
    · exact Keeps.via (State.larderWrite_keeps ..) rfl Keeps.refl
    · exact Keeps.refl
  · refine OutKeeps.next ?_
    exact Keeps.refl


theorem execSdiUnlocked_keeps (d : DieIx) (m : Fin 4) (s : State) : OutKeeps [.regs, .events, .larder, .pool, .corr, .mac, .free] s (execSdiUnlocked d m s) := by
  unfold execSdiUnlocked
  refine OutKeeps.next ?_
  exact Keeps.via (State.sdiLock_keeps ..) rfl Keeps.refl


theorem execRecordPresentation_keeps (d : DieIx) (k : Fin 8) (s : State) : OutKeeps [.regs, .events, .larder, .corr, .mac, .free] s (execRecordPresentation d k s) := by
  unfold execRecordPresentation
  refine OutKeeps.next ?_
  exact Keeps.via (State.present_keeps ..) rfl Keeps.refl


theorem execSdiLocked_keeps (d : DieIx) (m : Fin 4) (s : State) : OutKeeps [.regs, .events, .larder, .pool, .corr, .mac, .free] s (execSdiLocked d m s) := by
  unfold execSdiLocked
  refine OutKeeps.ite (fun _ => ?_) (fun _ => ?_)
  · refine OutKeeps.next ?_
    exact Keeps.via (State.sdiLock_keeps ..) rfl Keeps.refl
  · refine OutKeeps.next ?_
    exact Keeps.refl


theorem execSt352Change_keeps (d : DieIx) (m : Fin 4) (v : Word) (s : State) : OutKeeps [.regs, .events, .larder, .pool, .corr, .mac, .free] s (execSt352Change d m v s) := by
  unfold execSt352Change
  try extract_lets
  refine OutKeeps.ite (fun _ => ?_) (fun _ => ?_)
  · refine OutKeeps.next ?_
    exact Keeps.refl
  · try extract_lets
    refine OutKeeps.ite (fun _ => ?_) (fun _ => ?_)
    · refine OutKeeps.next ?_
      exact Keeps.via (State.setMport_keeps ..) rfl Keeps.refl
    · refine OutKeeps.next ?_
      refine Keeps.via (State.cqPush_keeps ..) rfl ?_
      exact Keeps.via (State.setMport_keeps ..) rfl Keeps.refl


theorem execFrameTransmit_keeps (d : DieIx) (p : Fin 12) (underrun : Bool) (s : State) : OutKeeps [.regs, .events, .larder, .pool, .corr, .lanes, .mac, .answer, .free] s (execFrameTransmit d p underrun s) := by
  unfold execFrameTransmit
  split
  · refine OutKeeps.ite (fun _ => ?_) (fun _ => ?_)
    · refine OutKeeps.next ?_
      refine Keeps.via (State.sendFrame_keeps ..) rfl ?_
      exact Keeps.via (State.setMport_keeps ..) rfl Keeps.refl
    · refine OutKeeps.next ?_
      exact Keeps.refl
  · refine OutKeeps.next ?_
    exact Keeps.refl


theorem execTransmitRecord_keeps (d : DieIx) (src : Fin 20) (s : State) : OutKeeps [.regs, .laneOut, .mac, .answer] s (execTransmitRecord d src s) := by
  unfold execTransmitRecord
  refine OutKeeps.ite (fun _ => ?_) (fun _ => ?_)
  · refine OutKeeps.next ?_
    refine Keeps.ite (fun _ => ?_) (fun _ => ?_)
    · exact Keeps.via (State.laneRecord_keeps ..) rfl Keeps.refl
    · exact Keeps.refl
  · refine OutKeeps.next ?_
    exact Keeps.via (State.streamRecord_keeps ..) rfl Keeps.refl


theorem execSdiLine_keeps (d : DieIx) (m : Fin 4) (tx : Bool) (ws : List (List (BitVec 10))) (crcAt : Nat) (bad : Nat) (s : State) : OutKeeps [.regs, .laneIn, .mac] s (execSdiLine d m tx ws crcAt bad s) := by
  unfold execSdiLine
  try extract_lets
  refine OutKeeps.ite (fun _ => ?_) (fun _ => ?_)
  · refine OutKeeps.next ?_
    exact Keeps.refl
  · refine OutKeeps.ite (fun _ => ?_) (fun _ => ?_)
    · refine OutKeeps.next ?_
      refine Keeps.via (State.stat_keeps ..) rfl ?_
      exact Keeps.via (State.setMport_keeps ..) rfl Keeps.refl
    · try extract_lets
      refine OutKeeps.next ?_
      refine Keeps.via (State.pumpIn_keeps ..) rfl ?_
      refine Keeps.via (State.setMport_keeps ..) rfl ?_
      refine Keeps.via (State.stat_keeps ..) rfl ?_
      exact Keeps.via (State.stat_keeps ..) rfl Keeps.refl


theorem execRecordAccept_keeps (d : DieIx) (k : Fin 8) (s : State) : OutKeeps [.mac] s (execRecordAccept d k s) := by
  unfold execRecordAccept
  try extract_lets
  split
  · refine OutKeeps.next ?_
    exact Keeps.refl
  · try extract_lets
    refine OutKeeps.ite (fun _ => ?_) (fun _ => ?_)
    · try extract_lets
      refine OutKeeps.next ?_
      refine Keeps.upd_mac rfl ?_
      exact Keeps.via (State.setSp_keeps ..) rfl Keeps.refl
    · refine OutKeeps.next ?_
      exact Keeps.refl


end Sys2Proof.Machine
end

