-- ==== Sys2Proof/Laws/Keeps/Hqe.lean ====
section
/-! SUPPORT. What the operations of Machine/Hqe.lean may change, and that they keep the invariant. -/

namespace Sys2Proof.Machine

theorem State.setQueue_keeps (s : State) (q : Nat) (v : Queue) : Keeps [.hqe] s (State.setQueue s q v) := by
  unfold State.setQueue
  exact Keeps.upd_hqe rfl Keeps.refl


theorem State.postQueue_keeps (s : State) (q : Nat) (code : Nat) (sev : Nat) (arg0 : Nat) (arg1 : Nat) : Keeps [.events] s (State.postQueue s q code sev arg0 arg1) := by
  unfold State.postQueue
  exact Keeps.upd_events rfl Keeps.refl


theorem State.orphan_keeps (s : State) (q : Nat) (d : Desc) (status : Nat) : Keeps [.regs, .events] s (State.orphan s q d status) := by
  unfold State.orphan
  refine Keeps.via (State.postQueue_keeps ..) rfl ?_
  exact Keeps.via (State.fsat_keeps ..) rfl Keeps.refl


theorem State.hostOut_keeps (s : State) (o : HostOut) : Keeps [.hqe] s (State.hostOut s o) := by
  unfold State.hostOut
  exact Keeps.upd_hqe rfl Keeps.refl


theorem State.sendVector_keeps (s : State) (fn : Nat) (vec : Nat) : Keeps [.hqe] s (State.sendVector s fn vec) := by
  unfold State.sendVector
  try extract_lets
  refine Keeps.ite (fun _ => ?_) (fun _ => ?_)
  · exact Keeps.upd_hqe rfl Keeps.refl
  · exact Keeps.via (State.hostOut_keeps ..) rfl Keeps.refl


theorem State.signal_keeps (s : State) (q : Nat) : Keeps [.hqe] s (State.signal s q) := by
  unfold State.signal
  try extract_lets
  refine Keeps.via (State.sendVector_keeps ..) rfl ?_
  exact Keeps.via (State.setQueue_keeps ..) rfl Keeps.refl


theorem State.ringPut_keeps (s : State) (q : Nat) (entry : List Byte) : Keeps [.hqe] s (State.ringPut s q entry) := by
  unfold State.ringPut
  try extract_lets
  refine Keeps.ite (fun _ => ?_) (fun _ => ?_)
  · refine Keeps.via (State.signal_keeps ..) rfl ?_
    refine Keeps.via (State.setQueue_keeps ..) rfl ?_
    exact Keeps.via (State.hostOut_keeps ..) rfl Keeps.refl
  · refine Keeps.via (State.setQueue_keeps ..) rfl ?_
    exact Keeps.via (State.hostOut_keeps ..) rfl Keeps.refl


theorem State.cqEntryOut_keeps (s : State) (q : Nat) (cid : Nat) (head : Nat) (status : Nat) (detail : Nat) (result : Nat) : Keeps [.hqe] s (State.cqEntryOut s q cid head status detail result) := by
  unfold State.cqEntryOut
  exact Keeps.via (State.ringPut_keeps ..) rfl Keeps.refl


theorem State.dropJob_keeps (s : State) (q : Nat) (k : Nat) (status : Nat) (detail : Nat) (result : Nat) : Keeps [.regs, .events, .hqe] s (State.dropJob s q k status detail result) := by
  unfold State.dropJob
  split
  · exact Keeps.refl
  · try extract_lets
    refine Keeps.ite (fun _ => ?_) (fun _ => ?_)
    · refine Keeps.ite (fun _ => ?_) (fun _ => ?_)
      · refine Keeps.via (State.orphan_keeps ..) rfl ?_
        exact Keeps.via (State.setQueue_keeps ..) rfl Keeps.refl
      · exact Keeps.via (State.setQueue_keeps ..) rfl Keeps.refl
    · refine Keeps.ite (fun _ => ?_) (fun _ => ?_)
      · refine Keeps.via (State.cqEntryOut_keeps ..) rfl ?_
        exact Keeps.via (State.setQueue_keeps ..) rfl Keeps.refl
      · exact Keeps.via (State.setQueue_keeps ..) rfl Keeps.refl


theorem State.settleQueue_keeps (n : Nat) (s : State) (q : Nat) : Keeps [.regs, .events, .hqe] s (State.settleQueue n s q) := by
  induction n generalizing s q with
  | zero => exact Keeps.refl
  | succ n ih =>
    unfold State.settleQueue
    dsimp only
    split
    · exact Keeps.refl
    · refine Keeps.ite (fun _ => ?_) (fun _ => Keeps.ite (fun _ => ?_) (fun _ => ?_))
      · exact Keeps.trans (ih _ _) (Keeps.via (State.setQueue_keeps ..) rfl Keeps.refl)
      · exact Keeps.refl
      · exact Keeps.trans (ih _ _) (Keeps.via (State.cqEntryOut_keeps ..) rfl (Keeps.via (State.setQueue_keeps ..) rfl Keeps.refl))
    · refine Keeps.ite (fun _ => ?_) (fun _ => ?_)
      · exact Keeps.refl
      · have h : ∀ w, Keeps [.regs, .events, .hqe] s (if q = 0 then State.fset (s.setQueue q w) HQE_QCTL.enable 0 else s.setQueue q w) := fun w =>
          Keeps.ite (fun _ => Keeps.via (State.fset_keeps ..) rfl (Keeps.via (State.setQueue_keeps ..) rfl Keeps.refl)) (fun _ => Keeps.via (State.setQueue_keeps ..) rfl Keeps.refl)
        split
        · exact h _
        · exact Keeps.trans (ih _ _) (Keeps.via (State.dropJob_keeps ..) rfl (h _))


theorem State.endJob_keeps (s : State) (q : Nat) (k : Nat) (status : Nat) (detail : Nat) (result : Nat) : Keeps [.regs, .events, .hqe] s (State.endJob s q k status detail result) := by
  unfold State.endJob
  refine Keeps.via (State.settleQueue_keeps ..) rfl ?_
  exact Keeps.via (State.dropJob_keeps ..) rfl Keeps.refl


theorem State.finishWait_keeps (s : State) (w : Wait) (status : Nat) (detail : Nat) (result : Nat) : Keeps [.regs, .events, .hqe] s (State.finishWait s w status detail result) := by
  unfold State.finishWait
  split
  · exact Keeps.via (State.endJob_keeps ..) rfl Keeps.refl
  · exact Keeps.refl


theorem State.queueError_keeps (s : State) (q : Nat) (cause : Nat) : Keeps [.regs, .events, .hqe] s (State.queueError s q cause) := by
  unfold State.queueError
  try extract_lets
  refine Keeps.ite (fun _ => ?_) (fun _ => ?_)
  · exact Keeps.refl
  · refine Keeps.via (State.settleQueue_keeps ..) rfl ?_
    refine Keeps.via (State.postQueue_keeps ..) rfl ?_
    exact Keeps.via (State.setQueue_keeps ..) rfl Keeps.refl


theorem State.applyCq_keeps (s : State) (q : Nat) (v : Nat) : Keeps [.regs, .events, .hqe] s (State.applyCq s q v) := by
  unfold State.applyCq
  try extract_lets
  refine Keeps.ite (fun _ => ?_) (fun _ => ?_)
  · exact Keeps.via (State.queueError_keeps ..) rfl Keeps.refl
  · refine Keeps.via (State.settleQueue_keeps ..) rfl ?_
    exact Keeps.via (State.setQueue_keeps ..) rfl Keeps.refl


theorem State.applySq_keeps (s : State) (q : Nat) (v : Nat) : Keeps [.regs, .events, .hqe] s (State.applySq s q v) := by
  unfold State.applySq
  refine Keeps.ite (fun _ => ?_) (fun _ => ?_)
  · exact Keeps.via (State.queueError_keeps ..) rfl Keeps.refl
  · exact Keeps.via (State.setQueue_keeps ..) rfl Keeps.refl


theorem State.hqeReq_keeps (s : State) (p : Packet) (err : MemErr) : Keeps [.regs, .events, .tins, .larder, .pool, .corr, .noc, .dram, .breadbox, .pads, .mac, .cfg, .answer, .free] s (State.hqeReq s p err).2.2 := by
  unfold State.hqeReq
  split
  · try extract_lets
    refine Keeps.ite_p11 (fun _ => ?_) (fun _ => ?_)
    · refine Keeps.snd_mk2 ?_
      refine Keeps.snd_mk ?_
      exact Keeps.via (State.inject_keeps ..) rfl Keeps.refl
    · refine Keeps.snd_mk2 ?_
      refine Keeps.snd_mk ?_
      exact Keeps.refl
  · try extract_lets
    refine Keeps.snd_mk2 ?_
    refine Keeps.snd_mk ?_
    exact Keeps.via (State.memAccess_keeps ..) rfl Keeps.refl


theorem State.setJob_keeps (s : State) (q : Nat) (k : Nat) (j : Job) : Keeps [.hqe] s (State.setJob s q k j) := by
  unfold State.setJob
  exact Keeps.via (State.setQueue_keeps ..) rfl Keeps.refl


theorem State.clearOut_keeps (s : State) : Keeps [.hqe] s (State.clearOut s) := by
  unfold State.clearOut
  exact Keeps.upd_hqe rfl Keeps.refl


theorem State.copyMoved_keeps (s : State) (q : Nat) (k : Nat) (j : Job) (status : Nat) (n : Nat) (poison : Bool) : Keeps [.hqe] s (State.copyMoved s q k j status n poison) := by
  unfold State.copyMoved
  try extract_lets
  exact Keeps.via (State.setJob_keeps ..) rfl Keeps.refl


theorem State.copyFail_keeps (s : State) (q : Nat) (k : Nat) (detail : Nat) (j : Job) : Keeps [.hqe] s (State.copyFail s q k detail j) := by
  unfold State.copyFail
  exact Keeps.via (State.setJob_keeps ..) rfl Keeps.refl


theorem State.copyReply_keeps (s : State) (q : Nat) (k : Nat) (status : Nat) (data : List Byte) (poison : Bool) : Keeps [.hqe] s (State.copyReply s q k status data poison) := by
  unfold State.copyReply
  split
  · exact Keeps.refl
  · try extract_lets
    refine Keeps.ite (fun _ => ?_) (fun _ => ?_)
    · exact Keeps.via (State.copyFail_keeps ..) rfl Keeps.refl
    · split
      · exact Keeps.via (State.copyMoved_keeps ..) rfl Keeps.refl
      · try extract_lets
        refine Keeps.via (State.copyMoved_keeps ..) rfl ?_
        refine Keeps.ite (fun _ => ?_) (fun _ => ?_)
        · exact Keeps.refl
        · exact Keeps.via (State.hostOut_keeps ..) rfl Keeps.refl
      · exact Keeps.via (State.setJob_keeps ..) rfl Keeps.refl
      · exact Keeps.via (State.copyMoved_keeps ..) rfl Keeps.refl


theorem State.copyIssue_keeps (s : State) (q : Nat) (k : Nat) (j : Job) (cmd : PCmd) (a : Nat) (data : List Byte) (poison : Bool) (err : MemErr) : Keeps [.regs, .events, .tins, .larder, .pool, .corr, .noc, .dram, .breadbox, .pads, .mac, .hqe, .cfg, .answer, .free] s (State.copyIssue s q k j cmd a data poison err) := by
  unfold State.copyIssue
  try extract_lets
  split
  · refine Keeps.via (State.copyReply_keeps ..) rfl ?_
    exact Keeps.via (State.hqeReq_keeps ..) rfl Keeps.refl
  · refine Keeps.via (State.setJob_keeps ..) rfl ?_
    exact Keeps.via (State.hqeReq_keeps ..) rfl Keeps.refl
  · exact Keeps.refl


theorem State.copyStep_via {M : List Part} {s t : State} {q k : Nat} {j : Job} {go : State → State}
    (hs : Part.sub [.regs, .events, .hqe] M = true) (hgo : ∀ u, Keeps M u (go u)) (h : Keeps M s t) : Keeps M s (State.copyStep t q k j go) := by
  unfold State.copyStep
  refine Keeps.ite (fun _ => Keeps.via (State.endJob_keeps ..) (Part.sub_trans rfl hs) h) (fun _ => ?_)
  split
  · exact Keeps.ite (fun _ => h) (fun _ => Keeps.via (State.copyFail_keeps ..) (Part.sub_trans rfl hs) h)
  · exact Keeps.trans (hgo _) h


theorem State.copyToDevice_keeps (s : State) (q : QueueIx) (k : Nat) (host : HostRead) (err : MemErr) : Keeps [.regs, .events, .tins, .larder, .pool, .corr, .noc, .dram, .breadbox, .pads, .mac, .hqe, .cfg, .answer, .free] s (State.copyToDevice s q k host err) := by
  unfold State.copyToDevice
  split
  · exact Keeps.refl
  · refine State.copyStep_via rfl (fun _ => ?_) ?_
    · split
      · exact Keeps.via (State.copyFail_keeps ..) rfl Keeps.refl
      · try extract_lets
        refine Keeps.via (State.copyIssue_keeps ..) rfl ?_
        exact Keeps.via (State.setJob_keeps ..) rfl Keeps.refl
    · exact Keeps.via (State.clearOut_keeps ..) rfl Keeps.refl


theorem State.copyWrite_keeps (s : State) (q : Nat) (k : Nat) (err : MemErr) : Keeps [.regs, .events, .tins, .larder, .pool, .corr, .noc, .dram, .breadbox, .pads, .mac, .hqe, .cfg, .answer, .free] s (State.copyWrite s q k err) := by
  unfold State.copyWrite
  split
  · split
    · exact Keeps.via (State.copyIssue_keeps ..) rfl Keeps.refl
    · exact Keeps.refl
  · exact Keeps.refl


theorem State.doorbell_keeps (s : State) (fn : Nat) (page : Nat) (v : Nat) (sq : Bool) : Keeps [.regs, .events, .hqe] s (State.doorbell s fn page v sq) := by
  unfold State.doorbell
  refine Keeps.ite (fun _ => ?_) (fun _ => ?_)
  · exact Keeps.refl
  · split
    · exact Keeps.via (State.fsat_keeps ..) rfl Keeps.refl
    · try extract_lets
      refine Keeps.ite (fun _ => ?_) (fun _ => ?_)
      · exact Keeps.via (State.fsat_keeps ..) rfl Keeps.refl
      · refine Keeps.ite (fun _ => ?_) (fun _ => ?_)
        · exact Keeps.via (State.fsat_keeps ..) rfl Keeps.refl
        · refine Keeps.ite (fun _ => ?_) (fun _ => ?_)
          · exact Keeps.via (State.setQueue_keeps ..) rfl Keeps.refl
          · refine Keeps.ite (fun _ => ?_) (fun _ => ?_)
            · exact Keeps.via (State.applySq_keeps ..) rfl Keeps.refl
            · exact Keeps.via (State.applyCq_keeps ..) rfl Keeps.refl


theorem State.heldBells_keeps (s : State) (q : Nat) : Keeps [.regs, .events, .hqe] s (State.heldBells s q) := by
  unfold State.heldBells
  try extract_lets
  split
  · refine Keeps.ite (fun _ => ?_) (fun _ => ?_)
    · refine Keeps.via (State.applyCq_keeps ..) rfl ?_
      try dsimp +zetaDelta only
      split
      · refine Keeps.via (State.applySq_keeps ..) rfl ?_
        exact Keeps.via (State.setQueue_keeps ..) rfl Keeps.refl
      · exact Keeps.via (State.setQueue_keeps ..) rfl Keeps.refl
    · try dsimp +zetaDelta only
      split
      · refine Keeps.via (State.applySq_keeps ..) rfl ?_
        exact Keeps.via (State.setQueue_keeps ..) rfl Keeps.refl
      · exact Keeps.via (State.setQueue_keeps ..) rfl Keeps.refl
  · try dsimp +zetaDelta only
    split
    · refine Keeps.via (State.applySq_keeps ..) rfl ?_
      exact Keeps.via (State.setQueue_keeps ..) rfl Keeps.refl
    · exact Keeps.via (State.setQueue_keeps ..) rfl Keeps.refl


theorem State.poolOwner_keeps (s : State) (before : Nat) (l : Nat) : Keeps [.regs, .events, .hqe] s (State.poolOwner s before l) := by
  unfold State.poolOwner
  refine Keeps.ite (fun _ => ?_) (fun _ => ?_)
  · exact Keeps.refl
  · refine Keeps.ite (fun _ => ?_) (fun _ => ?_)
    · exact Keeps.via (State.queueError_keeps ..) rfl Keeps.refl
    · try extract_lets
      refine Keeps.ite (fun _ => ?_) (fun _ => ?_)
      · exact Keeps.via (State.fset_keeps ..) rfl Keeps.refl
      · exact Keeps.refl


theorem State.putPiece_keeps (s : State) (q : Nat) (k : Nat) (j : Job) (user : Nat) (poison : Bool) (first : Bool) (l : List Byte) : Keeps [.regs, .events, .hqe] s (State.putPiece s q k j user poison first l) := by
  unfold State.putPiece
  try extract_lets
  refine Keeps.ite (fun _ => ?_) (fun _ => ?_)
  · refine Keeps.via (State.endJob_keeps ..) rfl ?_
    refine Keeps.via (State.setQueue_keeps ..) rfl ?_
    refine Keeps.via (State.setJob_keeps ..) rfl ?_
    exact Keeps.via (State.hostOut_keeps ..) rfl Keeps.refl
  · refine Keeps.via (State.setQueue_keeps ..) rfl ?_
    refine Keeps.via (State.setJob_keeps ..) rfl ?_
    exact Keeps.via (State.hostOut_keeps ..) rfl Keeps.refl


theorem State.streamSend_keeps (s : State) (q : QueueIx) (host : HostRead) : Keeps [.regs, .events, .noc, .hqe] s (State.streamSend s q host) := by
  unfold State.streamSend
  try extract_lets
  split
  · try extract_lets
    refine Keeps.ite (fun _ => ?_) (fun _ => ?_)
    · exact Keeps.refl
    · refine Keeps.ite (fun _ => ?_) (fun _ => ?_)
      · refine Keeps.via (State.endJob_keeps ..) rfl ?_
        exact Keeps.via (State.clearOut_keeps ..) rfl Keeps.refl
      · refine Keeps.ite (fun _ => ?_) (fun _ => ?_)
        · exact Keeps.refl
        · split
          · refine Keeps.via (State.endJob_keeps ..) rfl ?_
            exact Keeps.via (State.clearOut_keeps ..) rfl Keeps.refl
          · try extract_lets
            refine Keeps.via (State.endJob_keeps ..) rfl ?_
            refine Keeps.via (State.setQueue_keeps ..) rfl ?_
            refine Keeps.foldl (fun _ _ => ?_) ?_
            · exact Keeps.via (State.launch_keeps ..) rfl Keeps.refl
            · exact Keeps.via (State.clearOut_keeps ..) rfl Keeps.refl
  · exact Keeps.refl


theorem State.takeRecord_keeps (s : State) (gp : Nat) :
    ∀ p, (State.takeRecord s gp) = some p → Keeps [.mac] s p.2 := by
  intro r hr
  unfold State.takeRecord at hr
  dsimp only at hr
  split at hr
  · cases hr; exact State.setSp_keeps .. |>.via rfl Keeps.refl
  · cases hr


theorem execPoolPush_keeps (list : Nat) (entry : Nat) (upset : Bool) (ownerErr : Bool) (s : State) : OutKeeps [.regs, .events, .pool, .hqe] s (execPoolPush list entry upset ownerErr s) := by
  unfold execPoolPush
  refine OutKeeps.next ?_
  refine Keeps.via (State.poolOwner_keeps ..) rfl ?_
  exact Keeps.via (State.poolPush_keeps ..) rfl Keeps.refl


theorem execCopyComplete_keeps (q : QueueIx) (k : Nat) (ok : Bool) (s : State) : OutKeeps [.regs, .events, .hqe] s (execCopyComplete q k ok s) := by
  unfold execCopyComplete
  split
  · split
    · refine OutKeeps.ite (fun _ => ?_) (fun _ => ?_)
      · refine OutKeeps.next ?_
        exact Keeps.refl
      · refine OutKeeps.ite (fun _ => ?_) (fun _ => ?_)
        · refine OutKeeps.next ?_
          refine Keeps.via (State.endJob_keeps ..) rfl ?_
          refine Keeps.via (State.queueError_keeps ..) rfl ?_
          exact Keeps.via (State.clearOut_keeps ..) rfl Keeps.refl
        · refine OutKeeps.next ?_
          refine Keeps.via (State.endJob_keeps ..) rfl ?_
          exact Keeps.via (State.clearOut_keeps ..) rfl Keeps.refl
    · refine OutKeeps.next ?_
      exact Keeps.refl
  · refine OutKeeps.next ?_
    exact Keeps.refl


theorem execStreamSendTimeout_keeps (q : QueueIx) (s : State) : OutKeeps [.regs, .events, .hqe] s (execStreamSendTimeout q s) := by
  unfold execStreamSendTimeout
  split
  · refine OutKeeps.ite (fun _ => ?_) (fun _ => ?_)
    · refine OutKeeps.next ?_
      refine Keeps.via (State.endJob_keeps ..) rfl ?_
      exact Keeps.via (State.clearOut_keeps ..) rfl Keeps.refl
    · refine OutKeeps.next ?_
      exact Keeps.refl
  · refine OutKeeps.next ?_
    exact Keeps.refl


theorem execCqDoorbell_keeps (fn : Fin 66) (page : QueueIx) (v : Word) (s : State) : OutKeeps [.regs, .events, .hqe] s (execCqDoorbell fn page v s) := by
  unfold execCqDoorbell
  refine OutKeeps.next ?_
  refine Keeps.via (State.doorbell_keeps ..) rfl ?_
  exact Keeps.via (State.clearOut_keeps ..) rfl Keeps.refl


theorem execSqDoorbell_keeps (fn : Fin 66) (page : QueueIx) (v : Word) (s : State) : OutKeeps [.regs, .events, .hqe] s (execSqDoorbell fn page v s) := by
  unfold execSqDoorbell
  refine OutKeeps.next ?_
  refine Keeps.via (State.doorbell_keeps ..) rfl ?_
  exact Keeps.via (State.clearOut_keeps ..) rfl Keeps.refl


theorem execCopyToDevice_keeps (q : QueueIx) (k : Nat) (host : HostRead) (err : MemErr) (s : State) : OutKeeps [.regs, .events, .tins, .larder, .pool, .corr, .noc, .dram, .breadbox, .pads, .mac, .hqe, .cfg, .answer, .free] s (execCopyToDevice q k host err s) := by
  unfold execCopyToDevice
  refine OutKeeps.next ?_
  exact Keeps.via (State.copyToDevice_keeps ..) rfl Keeps.refl


theorem execDescriptorFetch_keeps (q : QueueIx) (d : Option Desc) (s : State) : OutKeeps [.regs, .events, .hqe] s (execDescriptorFetch q d s) := by
  unfold execDescriptorFetch
  try extract_lets
  refine OutKeeps.ite (fun _ => ?_) (fun _ => ?_)
  · refine OutKeeps.next ?_
    exact Keeps.refl
  · split
    · refine OutKeeps.next ?_
      refine Keeps.via (State.queueError_keeps ..) rfl ?_
      exact Keeps.via (State.clearOut_keeps ..) rfl Keeps.refl
    · refine OutKeeps.ite (fun _ => ?_) (fun _ => ?_)
      · refine OutKeeps.next ?_
        exact Keeps.refl
      · try extract_lets
        refine OutKeeps.next ?_
        refine Keeps.ite (fun _ => ?_) (fun _ => ?_)
        · refine Keeps.via (State.setQueue_keeps ..) rfl ?_
          exact Keeps.via (State.clearOut_keeps ..) rfl Keeps.refl
        · refine Keeps.via (State.endJob_keeps ..) rfl ?_
          refine Keeps.via (State.setQueue_keeps ..) rfl ?_
          exact Keeps.via (State.clearOut_keeps ..) rfl Keeps.refl


theorem execCqStale_keeps (q : QueueIx) (s : State) : OutKeeps [.hqe] s (execCqStale q s) := by
  unfold execCqStale
  try extract_lets
  refine OutKeeps.ite (fun _ => ?_) (fun _ => ?_)
  · refine OutKeeps.next ?_
    refine Keeps.via (State.sendVector_keeps ..) rfl ?_
    exact Keeps.via (State.clearOut_keeps ..) rfl Keeps.refl
  · refine OutKeeps.next ?_
    exact Keeps.refl


theorem execInterruptCoalesce_keeps (q : QueueIx) (s : State) : OutKeeps [.hqe] s (execInterruptCoalesce q s) := by
  unfold execInterruptCoalesce
  try extract_lets
  refine OutKeeps.ite (fun _ => ?_) (fun _ => ?_)
  · refine OutKeeps.next ?_
    refine Keeps.via (State.signal_keeps ..) rfl ?_
    exact Keeps.via (State.clearOut_keeps ..) rfl Keeps.refl
  · refine OutKeeps.next ?_
    exact Keeps.refl


theorem execStreamBuffer_keeps (q : QueueIx) (s : State) : OutKeeps [.regs, .events, .hqe] s (execStreamBuffer q s) := by
  unfold execStreamBuffer
  split
  · try extract_lets
    refine OutKeeps.ite (fun _ => ?_) (fun _ => ?_)
    · refine OutKeeps.next ?_
      exact Keeps.refl
    · refine OutKeeps.ite (fun _ => ?_) (fun _ => ?_)
      · refine OutKeeps.next ?_
        refine Keeps.via (State.endJob_keeps ..) rfl ?_
        exact Keeps.via (State.clearOut_keeps ..) rfl Keeps.refl
      · refine OutKeeps.next ?_
        exact Keeps.via (State.setJob_keeps ..) rfl Keeps.refl
  · refine OutKeeps.next ?_
    exact Keeps.refl


theorem execCopyFromDevice_keeps (q : QueueIx) (k : Nat) (err : MemErr) (s : State) : OutKeeps [.regs, .events, .tins, .larder, .pool, .corr, .noc, .dram, .breadbox, .pads, .mac, .hqe, .cfg, .answer, .free] s (execCopyFromDevice q k err s) := by
  unfold execCopyFromDevice
  split
  · refine OutKeeps.next ?_
    exact Keeps.refl
  · refine OutKeeps.next ?_
    refine State.copyStep_via rfl (fun _ => ?_) ?_
    · exact Keeps.via (State.copyIssue_keeps ..) rfl Keeps.refl
    · exact Keeps.via (State.clearOut_keeps ..) rfl Keeps.refl


theorem execStreamSend_keeps (q : QueueIx) (host : HostRead) (s : State) : OutKeeps [.regs, .events, .noc, .hqe] s (execStreamSend q host s) := by
  unfold execStreamSend
  refine OutKeeps.next ?_
  exact Keeps.via (State.streamSend_keeps ..) rfl Keeps.refl


theorem execPoolPop_keeps (list : Nat) (upset : Bool) (nextErr : Bool) (ownerErr : Bool) (s : State) : OutKeeps [.regs, .events, .pool, .hqe] s (execPoolPop list upset nextErr ownerErr s) := by
  unfold execPoolPop
  refine OutKeeps.next ?_
  refine Keeps.via (State.poolOwner_keeps ..) rfl ?_
  exact Keeps.via (State.poolPop_keeps ..) rfl Keeps.refl


theorem execStreamRecord_keeps (q : QueueIx) (s : State) : OutKeeps [.regs, .events, .mac, .hqe] s (execStreamRecord q s) := by
  unfold execStreamRecord
  try extract_lets
  split
  · refine OutKeeps.ite (fun _ => ?_) (fun _ => ?_)
    · refine OutKeeps.next ?_
      exact Keeps.refl
    · refine OutKeeps.ite (fun _ => ?_) (fun _ => ?_)
      · refine OutKeeps.ite (fun _ => ?_) (fun _ => ?_)
        · split
          · refine OutKeeps.next ?_
            refine Keeps.via (State.setQueue_keeps ..) rfl ?_
            exact Keeps.via (State.takeRecord_keeps _ _ _ ‹_›) rfl Keeps.refl
          · refine OutKeeps.next ?_
            exact Keeps.refl
        · refine OutKeeps.next ?_
          exact Keeps.refl
      · split
        · refine OutKeeps.next ?_
          exact Keeps.refl
        · refine OutKeeps.ite (fun _ => ?_) (fun _ => ?_)
          · refine OutKeeps.next ?_
            exact Keeps.refl
          · split
            · refine OutKeeps.next ?_
              refine Keeps.via (State.putPiece_keeps ..) rfl ?_
              exact Keeps.via (State.clearOut_keeps ..) rfl Keeps.refl
            · split
              · refine OutKeeps.next ?_
                refine Keeps.via (State.putPiece_keeps ..) rfl ?_
                refine Keeps.via (State.clearOut_keeps ..) rfl ?_
                exact Keeps.via (State.takeRecord_keeps _ _ _ ‹_›) rfl Keeps.refl
              · refine OutKeeps.next ?_
                exact Keeps.refl
  · refine OutKeeps.next ?_
    exact Keeps.refl


theorem execCopyDevice_keeps (q : QueueIx) (k : Nat) (err : MemErr) (s : State) : OutKeeps [.regs, .events, .tins, .larder, .pool, .corr, .noc, .dram, .breadbox, .pads, .mac, .hqe, .cfg, .answer, .free] s (execCopyDevice q k err s) := by
  unfold execCopyDevice
  split
  · refine OutKeeps.next ?_
    exact Keeps.refl
  · refine OutKeeps.next ?_
    refine State.copyStep_via rfl (fun _ => ?_) ?_
    · refine Keeps.ite (fun _ => ?_) (fun _ => ?_)
      · exact Keeps.via (State.copyWrite_keeps ..) rfl Keeps.refl
      · refine Keeps.via (State.copyWrite_keeps ..) rfl ?_
        exact Keeps.via (State.copyIssue_keeps ..) rfl Keeps.refl
    · exact Keeps.via (State.clearOut_keeps ..) rfl Keeps.refl


theorem execStreamBufferFlush_keeps (q : QueueIx) (s : State) : OutKeeps [.regs, .events, .hqe] s (execStreamBufferFlush q s) := by
  unfold execStreamBufferFlush
  split
  · refine OutKeeps.ite (fun _ => ?_) (fun _ => ?_)
    · refine OutKeeps.next ?_
      refine Keeps.via (State.endJob_keeps ..) rfl ?_
      exact Keeps.via (State.clearOut_keeps ..) rfl Keeps.refl
    · refine OutKeeps.next ?_
      exact Keeps.refl
  · refine OutKeeps.next ?_
    exact Keeps.refl


theorem execEventRingMove_keeps (pf : Fin 2) (s : State) : OutKeeps [.events, .hqe] s (execEventRingMove pf s) := by
  unfold execEventRingMove
  try extract_lets
  refine OutKeeps.ite (fun _ => ?_) (fun _ => ?_)
  · refine OutKeeps.next ?_
    exact Keeps.refl
  · split
    · refine OutKeeps.next ?_
      exact Keeps.refl
    · try extract_lets
      refine OutKeeps.next ?_
      refine Keeps.via (State.ringPut_keeps ..) rfl ?_
      try extract_lets
      refine Keeps.upd_events rfl ?_
      exact Keeps.via (State.clearOut_keeps ..) rfl Keeps.refl


end Sys2Proof.Machine
end

