-- ==== Sys2Proof/Laws/Keeps/Mgmt.lean ====
section
/-! SUPPORT. What the operations of Machine/Mgmt.lean may change, and that they keep the invariant. -/

namespace Sys2Proof.Machine

theorem State.mgmtWait_keeps (s : State) (q : Nat) (k : Nat) (j : Job) (w : Wait) : Keeps [.hqe] s (State.mgmtWait s q k j w) := by
  unfold State.mgmtWait
  exact Keeps.via (State.setJob_keeps ..) rfl Keeps.refl


theorem State.mgmtEnd_keeps (s : State) (q : Nat) (k : Nat) (status : Nat) (detail : Nat) : Keeps [.regs, .events, .hqe] s (State.mgmtEnd s q k status detail) := by
  unfold State.mgmtEnd
  refine Keeps.via (State.endJob_keeps ..) rfl ?_
  exact Keeps.via (State.clearOut_keeps ..) rfl Keeps.refl


theorem State.command_via {M : List Part} {s t : State} {q op : Nat} {fields : Desc → Bool} {go : State → Nat → Job → State}
    (hs : Part.sub [.regs, .events, .hqe] M = true) (hgo : ∀ u k j, Keeps M u (go u k j)) (k : Keeps M s t) : Keeps M s (State.command t q op fields go) := by
  unfold State.command
  split
  · exact k
  · exact Keeps.ite (fun _ => Keeps.via (State.mgmtEnd_keeps ..) (Part.sub_trans rfl hs) k) (fun _ => Keeps.ite (fun _ => Keeps.via (State.mgmtEnd_keeps ..) (Part.sub_trans rfl hs) k)
      (fun _ => Keeps.trans (hgo _ _ _) (Keeps.via (State.clearOut_keeps ..) (Part.sub_trans rfl hs) k)))


end Sys2Proof.Machine
end

