-- ==== Sys2Proof/Laws/Keeps/Roles.lean ====
section
/-! SUPPORT. What the operations of Machine/Roles.lean may change, and that they keep the invariant. -/

namespace Sys2Proof.Machine

theorem State.wipeTin_keeps (s : State) (t : Nat) : Keeps [.tins] s (State.wipeTin s t) := by
  unfold State.wipeTin
  exact Keeps.via (State.setTin_keeps ..) rfl Keeps.refl


theorem State.setTinState_keeps (s : State) (t : Nat) (st : Nat) : Keeps [.regs] s (State.setTinState s t st) := by
  unfold State.setTinState
  exact Keeps.via (State.fset_keeps ..) rfl Keeps.refl


theorem State.addEntries_keeps (s : State) (d : Nat) (l : List (Nat × Nat × Nat)) : Keeps [.ring] s (State.addEntries s d l) := by
  unfold State.addEntries
  refine Keeps.foldl (fun _ _ => ?_) ?_
  · exact Keeps.via (State.setConn_keeps ..) rfl Keeps.refl
  · exact Keeps.refl


theorem State.takeEpoch_keeps (s : State) (t : Nat) : Keeps [.regs, .noc] s (State.takeEpoch s t) := by
  unfold State.takeEpoch
  try extract_lets
  refine Keeps.upd_noc rfl ?_
  exact Keeps.via (State.fset_keeps ..) rfl Keeps.refl


theorem State.nextEpoch_keeps (s : State) (d : Nat) : Keeps [.regs] s (State.nextEpoch s d) := by
  unfold State.nextEpoch
  try extract_lets
  exact Keeps.via (State.fset_keeps ..) rfl Keeps.refl


theorem State.copyNoRoom_keeps (s : State) (d : Nat) (unit : Nat) (off : Nat) : Keeps [.events] s (State.copyNoRoom s d unit off) := by
  unfold State.copyNoRoom
  exact Keeps.via (State.post_keeps ..) rfl Keeps.refl


theorem State.keepCopy_keeps (s : State) (d : Nat) (r : Nat) (off : Nat) (c : KeptCopy) : Keeps [.events, .kept] s (State.keepCopy s d r off c) := by
  unfold State.keepCopy
  try extract_lets
  refine Keeps.ite (fun _ => ?_) (fun _ => ?_)
  · refine Keeps.upd_kept rfl ?_
    exact Keeps.upd_kept rfl Keeps.refl
  · refine Keeps.via (State.copyNoRoom_keeps ..) rfl ?_
    exact Keeps.upd_kept rfl Keeps.refl


theorem State.keepDie_keeps (s : State) (d : Nat) (off : Nat) (l : List (Nat × Nat × Nat)) : Keeps [.events, .dieCopy] s (State.keepDie s d off l) := by
  unfold State.keepDie
  refine Keeps.ite (fun _ => ?_) (fun _ => ?_)
  · exact Keeps.refl
  · refine Keeps.ite (fun _ => ?_) (fun _ => ?_)
    · exact Keeps.upd_dieCopy rfl Keeps.refl
    · exact Keeps.via (State.copyNoRoom_keeps ..) rfl Keeps.refl


theorem State.releaseTin_keeps (s : State) (t : Nat) : Keeps [.tins] s (State.releaseTin s t) := by
  unfold State.releaseTin
  exact Keeps.via (State.setTin_keeps ..) rfl Keeps.refl


theorem State.dropEntries_keeps (s : State) (d : Nat) (r : Nat) : Keeps [.ring] s (State.dropEntries s d r) := by
  unfold State.dropEntries
  refine Keeps.foldl (fun _ _ => ?_) ?_
  · exact Keeps.via (State.setConn_keeps ..) rfl Keeps.refl
  · exact Keeps.refl


theorem State.loadCopy_keeps (s : State) (t : Nat) (c : KeptCopy) : Keeps [.tins] s (State.loadCopy s t c) := by
  unfold State.loadCopy
  exact Keeps.via (State.setTin_keeps ..) rfl Keeps.refl


theorem State.newEpoch_keeps (s : State) (d : Nat) (r : Nat) : Keeps [.regs, .noc] s (State.newEpoch s d r) := by
  unfold State.newEpoch
  refine Keeps.via (State.takeEpoch_keeps ..) rfl ?_
  exact Keeps.via (State.nextEpoch_keeps ..) rfl Keeps.refl


theorem State.replaceEntries_keeps (s : State) (d : Nat) (r : Nat) (l : List (Nat × Nat × Nat)) : Keeps [.ring] s (State.replaceEntries s d r l) := by
  unfold State.replaceEntries
  refine Keeps.via (State.addEntries_keeps ..) rfl ?_
  exact Keeps.via (State.dropEntries_keeps ..) rfl Keeps.refl


end Sys2Proof.Machine
end

