-- ==== Sys2Proof/Laws/Keeps/Cfg.lean ====
section
/-! SUPPORT. What the operations of Machine/Cfg.lean may change, and that they keep the invariant. -/

namespace Sys2Proof.Machine

theorem State.setLoad_keeps (s : State) (l : Option Load) : Keeps [.regs, .cfg] s (State.setLoad s l) := by
  unfold State.setLoad
  try extract_lets
  refine Keeps.upd_cfg rfl ?_
  exact Keeps.via (State.fset_keeps ..) rfl Keeps.refl


theorem State.dropPartial_keeps (s : State) (h : List Byte) : Keeps [.regs, .tins] s (State.dropPartial s h) := by
  unfold State.dropPartial
  try extract_lets
  refine Keeps.ite (fun _ => ?_) (fun _ => ?_)
  · refine Keeps.via (State.setTinState_keeps ..) rfl ?_
    exact Keeps.via (State.setTin_keeps ..) rfl Keeps.refl
  · refine Keeps.via (State.setTinState_keeps ..) rfl ?_
    exact Keeps.via (State.wipeTin_keeps ..) rfl Keeps.refl


theorem State.loadOutcome_keeps (s : State) (l : Load) (st : Nat) (detail : Nat) (off : Nat) : Keeps [.regs, .events, .hqe, .cfg] s (State.loadOutcome s l st detail off) := by
  unfold State.loadOutcome
  try extract_lets
  refine Keeps.ite (fun _ => ?_) (fun _ => ?_)
  · refine Keeps.upd_cfg rfl ?_
    refine Keeps.via (State.setLoad_keeps ..) rfl ?_
    refine Keeps.via (State.fset_keeps ..) rfl ?_
    refine Keeps.via (State.fset_keeps ..) rfl ?_
    exact Keeps.via (State.fset_keeps ..) rfl Keeps.refl
  · refine Keeps.ite (fun _ => ?_) (fun _ => ?_)
    · refine Keeps.via (State.finishWait_keeps ..) rfl ?_
      refine Keeps.upd_cfg rfl ?_
      refine Keeps.via (State.setLoad_keeps ..) rfl ?_
      refine Keeps.via (State.fset_keeps ..) rfl ?_
      refine Keeps.via (State.fset_keeps ..) rfl ?_
      exact Keeps.via (State.fset_keeps ..) rfl Keeps.refl
    · refine Keeps.ite (fun _ => ?_) (fun _ => ?_)
      · refine Keeps.upd_cfg rfl ?_
        refine Keeps.upd_cfg rfl ?_
        refine Keeps.via (State.setLoad_keeps ..) rfl ?_
        refine Keeps.via (State.fset_keeps ..) rfl ?_
        refine Keeps.via (State.fset_keeps ..) rfl ?_
        exact Keeps.via (State.fset_keeps ..) rfl Keeps.refl
      · refine Keeps.upd_cfg rfl ?_
        refine Keeps.via (State.setLoad_keeps ..) rfl ?_
        refine Keeps.via (State.fset_keeps ..) rfl ?_
        refine Keeps.via (State.fset_keeps ..) rfl ?_
        exact Keeps.via (State.fset_keeps ..) rfl Keeps.refl


theorem State.loadFail_keeps (s : State) (l : Load) (st : Nat) (detail : Nat) (off : Nat) : Keeps [.regs, .events, .tins, .hqe, .cfg] s (State.loadFail s l st detail off) := by
  unfold State.loadFail
  try extract_lets
  refine Keeps.ite (fun _ => ?_) (fun _ => ?_)
  · refine Keeps.via (State.loadOutcome_keeps ..) rfl ?_
    refine Keeps.ite (fun _ => ?_) (fun _ => ?_)
    · exact Keeps.via (State.post_keeps ..) rfl Keeps.refl
    · refine Keeps.via (State.dropPartial_keeps ..) rfl ?_
      exact Keeps.via (State.post_keeps ..) rfl Keeps.refl
  · refine Keeps.ite (fun _ => ?_) (fun _ => ?_)
    · refine Keeps.via (State.loadOutcome_keeps ..) rfl ?_
      exact Keeps.via (State.post_keeps ..) rfl Keeps.refl
    · refine Keeps.via (State.setLoad_keeps ..) rfl ?_
      exact Keeps.via (State.post_keeps ..) rfl Keeps.refl


theorem State.chainBreak_keeps (s : State) (q : Nat) : Keeps [.regs, .events, .tins, .hqe, .cfg] s (State.chainBreak s q) := by
  unfold State.chainBreak
  try extract_lets
  split
  · refine Keeps.ite (fun _ => ?_) (fun _ => ?_)
    · refine Keeps.ite (fun _ => ?_) (fun _ => ?_)
      · refine Keeps.via (State.loadFail_keeps ..) rfl ?_
        exact Keeps.via (State.setQueue_keeps ..) rfl Keeps.refl
      · refine Keeps.via (State.setLoad_keeps ..) rfl ?_
        exact Keeps.via (State.setQueue_keeps ..) rfl Keeps.refl
    · exact Keeps.via (State.setQueue_keeps ..) rfl Keeps.refl
  · split
    · refine Keeps.ite (fun _ => ?_) (fun _ => ?_)
      · refine Keeps.upd_cfg rfl ?_
        exact Keeps.via (State.setQueue_keeps ..) rfl Keeps.refl
      · exact Keeps.via (State.setQueue_keeps ..) rfl Keeps.refl
    · exact Keeps.via (State.setQueue_keeps ..) rfl Keeps.refl


theorem State.setDev_keeps (s : State) (n : Nat) : Keeps [.regs] s (State.setDev s n) := by
  unfold State.setDev
  refine Keeps.via (State.fset_keeps ..) rfl ?_
  exact Keeps.via (State.fset_keeps ..) rfl Keeps.refl


theorem State.beginBody_keeps (s : State) (l : Load) (h : List Byte) : Keeps [.regs, .tins, .cfg] s (State.beginBody s l h) := by
  unfold State.beginBody
  try extract_lets
  refine Keeps.ite (fun _ => ?_) (fun _ => ?_)
  · try extract_lets
    refine Keeps.via (State.setLoad_keeps ..) rfl ?_
    refine Keeps.via (State.setTinState_keeps ..) rfl ?_
    refine Keeps.ite (fun _ => ?_) (fun _ => ?_)
    · exact Keeps.via (State.setTin_keeps ..) rfl Keeps.refl
    · exact Keeps.via (State.wipeTin_keeps ..) rfl Keeps.refl
  · refine Keeps.via (State.setLoad_keeps ..) rfl ?_
    exact Keeps.via (State.setDev_keeps ..) rfl Keeps.refl


theorem State.beginLoad_keeps (s : State) (src : Nat) (q : Nat) (bytes : List Byte) : Keeps [.regs, .cfg] s (State.beginLoad s src q bytes) := by
  unfold State.beginLoad
  try extract_lets
  refine Keeps.ite (fun _ => ?_) (fun _ => ?_)
  · refine Keeps.via (State.setLoad_keeps ..) rfl ?_
    exact Keeps.via (State.fset_keeps ..) rfl Keeps.refl
  · refine Keeps.upd_cfg rfl ?_
    refine Keeps.via (State.setLoad_keeps ..) rfl ?_
    exact Keeps.via (State.fset_keeps ..) rfl Keeps.refl


theorem State.chainPiece_keeps (s : State) (q : Nat) (k : Nat) (j : Job) (bytes : List Byte) : Keeps [.regs, .events, .hqe, .cfg] s (State.chainPiece s q k j bytes) := by
  unfold State.chainPiece
  try extract_lets
  split
  · refine Keeps.ite (fun _ => ?_) (fun _ => ?_)
    · refine Keeps.via (State.endJob_keeps ..) rfl ?_
      exact Keeps.via (State.setQueue_keeps ..) rfl Keeps.refl
    · refine Keeps.via (State.endJob_keeps ..) rfl ?_
      refine Keeps.upd_cfg rfl ?_
      exact Keeps.via (State.setQueue_keeps ..) rfl Keeps.refl
  · split
    · refine Keeps.via (State.endJob_keeps ..) rfl ?_
      exact Keeps.via (State.setQueue_keeps ..) rfl Keeps.refl
    · try extract_lets
      refine Keeps.ite (fun _ => ?_) (fun _ => ?_)
      · refine Keeps.via (State.endJob_keeps ..) rfl ?_
        refine Keeps.via (State.setLoad_keeps ..) rfl ?_
        exact Keeps.via (State.setQueue_keeps ..) rfl Keeps.refl
      · refine Keeps.via (State.mgmtWait_keeps ..) rfl ?_
        refine Keeps.via (State.setLoad_keeps ..) rfl ?_
        exact Keeps.via (State.setQueue_keeps ..) rfl Keeps.refl


theorem State.commitArv_keeps (s : State) (l : Load) : Keeps [.regs, .events, .fuses] s (State.commitArv s l) := by
  unfold State.commitArv
  try extract_lets
  refine Keeps.ite (fun _ => ?_) (fun _ => ?_)
  · refine Keeps.via (State.post_keeps ..) rfl ?_
    refine Keeps.via (State.showFuses_keeps ..) rfl ?_
    exact Keeps.upd_fuses rfl Keeps.refl
  · exact Keeps.refl


theorem State.commitCopies_keeps (s : State) (l : Load) : Keeps [.events, .kept, .dieCopy, .spr] s (State.commitCopies s l) := by
  unfold State.commitCopies
  try extract_lets
  refine Keeps.ite (fun _ => ?_) (fun _ => ?_)
  · refine Keeps.foldl (fun _ _ => ?_) ?_
    · try extract_lets
      refine Keeps.ite (fun _ => ?_) (fun _ => ?_)
      · exact Keeps.via (State.keepCopy_keeps ..) rfl Keeps.refl
      · exact Keeps.refl
    · refine Keeps.foldl (fun _ _ => ?_) ?_
      · exact Keeps.via (State.keepDie_keeps ..) rfl Keeps.refl
      · exact Keeps.upd_kept_dieCopy_spr rfl Keeps.refl
  · refine Keeps.foldl (fun _ _ => ?_) ?_
    · exact Keeps.via (State.keepDie_keeps ..) rfl Keeps.refl
    · exact Keeps.upd_kept_dieCopy_spr rfl Keeps.refl


theorem State.commitEq_keeps (s : State) (eq : Option (List Nat)) : Keeps [.regs, .events, .larder, .pool, .corr, .lanes, .eqTable, .mac, .free] s (State.commitEq s eq) := by
  unfold State.commitEq
  try extract_lets
  refine Keeps.foldl (fun _ _ => ?_) ?_
  · refine Keeps.ite (fun _ => ?_) (fun _ => ?_)
    · exact Keeps.refl
    · exact Keeps.via (State.laneDrop_keeps ..) rfl Keeps.refl
  · exact Keeps.upd_eqTable rfl Keeps.refl


theorem State.commitGolden_keeps (s : State) (h : List Byte) : Keeps [.breadbox] s (State.commitGolden s h) := by
  unfold State.commitGolden
  try extract_lets
  refine Keeps.ite (fun _ => ?_) (fun _ => ?_)
  · exact Keeps.refl
  · refine Keeps.upd_breadbox rfl ?_ ?_
    rotate_left
    · first | (dsimp only; exact writeBytes_wf) | exact writeBytes_wf | exact memDrop_wf | exact fun h => h | exact fun _ => rfl | (dsimp only; exact memDrop_wf)
    exact Keeps.refl


theorem State.commitRelease_keeps (s : State) (l : Load) : Keeps [.regs, .tins, .noc] s (State.commitRelease s l) := by
  unfold State.commitRelease
  try extract_lets
  refine Keeps.foldl (fun _ _ => ?_) ?_
  · refine Keeps.ite (fun _ => ?_) (fun _ => ?_)
    · exact Keeps.refl
    · try extract_lets
      refine Keeps.via (State.setTinState_keeps ..) rfl ?_
      refine Keeps.via (State.releaseTin_keeps ..) rfl ?_
      exact Keeps.via (State.takeEpoch_keeps ..) rfl Keeps.refl
  · refine Keeps.foldl (fun _ _ => ?_) ?_
    · exact Keeps.via (State.nextEpoch_keeps ..) rfl Keeps.refl
    · exact Keeps.refl


theorem State.earlyEnd_keeps (s : State) : Keeps [.regs, .events, .tins, .hqe, .cfg] s (State.earlyEnd s) := by
  unfold State.earlyEnd
  split
  · exact Keeps.refl
  · refine Keeps.ite (fun _ => ?_) (fun _ => ?_)
    · exact Keeps.refl
    · split
      · refine Keeps.via (State.loadFail_keeps ..) rfl ?_
        exact Keeps.via (State.clearOut_keeps ..) rfl Keeps.refl
      · refine Keeps.via (State.loadFail_keeps ..) rfl ?_
        exact Keeps.via (State.clearOut_keeps ..) rfl Keeps.refl


theorem State.enterSafeShell_keeps (s : State) : Keeps [.regs, .events, .cfg] s (State.enterSafeShell s) := by
  unfold State.enterSafeShell
  try extract_lets
  refine Keeps.ite (fun _ => ?_) (fun _ => ?_)
  · exact Keeps.via (State.fset_keeps ..) rfl Keeps.refl
  · refine Keeps.via (State.post_keeps ..) rfl ?_
    try extract_lets
    refine Keeps.upd_cfg rfl ?_
    refine Keeps.via (State.setDev_keeps ..) rfl ?_
    exact Keeps.via (State.fset_keeps ..) rfl Keeps.refl


theorem State.loadDieLost_keeps (s : State) (d : Nat) : Keeps [.regs, .events, .tins, .hqe, .cfg] s (State.loadDieLost s d) := by
  unfold State.loadDieLost
  split
  · exact Keeps.refl
  · refine Keeps.ite (fun _ => ?_) (fun _ => ?_)
    · exact Keeps.via (State.loadFail_keeps ..) rfl Keeps.refl
    · exact Keeps.refl


theorem State.loadDone_keeps (s : State) (l : Load) (st : Nat) : Keeps [.regs, .events, .hqe, .cfg] s (State.loadDone s l st) := by
  unfold State.loadDone
  refine Keeps.via (State.loadOutcome_keeps ..) rfl ?_
  exact Keeps.via (State.post_keeps ..) rfl Keeps.refl


theorem State.loadImage_keeps (s : State) (q : QueueIx) (host : HostRead) : Keeps [.regs, .events, .tins, .hqe, .cfg] s (State.loadImage s q host) := by
  unfold State.loadImage
  split
  · exact Keeps.refl
  · try extract_lets
    refine Keeps.ite (fun _ => ?_) (fun _ => ?_)
    · exact Keeps.via (State.mgmtEnd_keeps ..) rfl Keeps.refl
    · refine Keeps.ite (fun _ => ?_) (fun _ => ?_)
      · exact Keeps.via (State.mgmtEnd_keeps ..) rfl Keeps.refl
      · refine Keeps.ite (fun _ => ?_) (fun _ => ?_)
        · exact Keeps.via (State.mgmtEnd_keeps ..) rfl Keeps.refl
        · refine Keeps.ite (fun _ => ?_) (fun _ => ?_)
          · exact Keeps.via (State.mgmtEnd_keeps ..) rfl Keeps.refl
          · split
            · refine Keeps.via (State.endJob_keeps ..) rfl ?_
              refine Keeps.via (State.chainBreak_keeps ..) rfl ?_
              exact Keeps.via (State.clearOut_keeps ..) rfl Keeps.refl
            · refine Keeps.ite (fun _ => ?_) (fun _ => ?_)
              · exact Keeps.refl
              · refine Keeps.via (State.chainPiece_keeps ..) rfl ?_
                refine Keeps.ite (fun _ => ?_) (fun _ => ?_)
                · exact Keeps.via (State.clearOut_keeps ..) rfl Keeps.refl
                · refine Keeps.via (State.beginLoad_keeps ..) rfl ?_
                  exact Keeps.via (State.clearOut_keeps ..) rfl Keeps.refl


theorem State.takeSegment_keeps (s : State) (l : Load) (x : List Byte) (d : List Byte) :
    ∀ p, (State.takeSegment s l x d) = some p → Keeps [.tins] s p.1 := by
  intro r hr
  unfold State.takeSegment at hr
  dsimp only at hr
  split at hr
  · split at hr
    · cases hr; exact State.setTin_keeps .. |>.via rfl Keeps.refl
    · split at hr
      · cases hr; exact Keeps.refl
      · cases hr; exact State.setTin_keeps .. |>.via rfl Keeps.refl
  · cases hr; exact Keeps.refl
  · cases hr; exact Keeps.refl
  · split at hr
    · cases hr; exact Keeps.refl
    · cases hr


theorem State.wipeFabric_keeps (s : State) : Keeps [.regs, .tins, .ring, .kept, .dieCopy, .spr] s (State.wipeFabric s) := by
  unfold State.wipeFabric
  try extract_lets
  refine Keeps.upd_ring_kept_dieCopy_spr rfl ?_
  refine Keeps.foldl (fun _ _ => ?_) ?_
  · try extract_lets
    refine Keeps.ite (fun _ => ?_) (fun _ => ?_)
    · refine Keeps.via (State.setTinState_keeps ..) rfl ?_
      refine Keeps.ite (fun _ => ?_) (fun _ => ?_)
      · exact Keeps.refl
      · exact Keeps.via (State.wipeTin_keeps ..) rfl Keeps.refl
    · refine Keeps.ite (fun _ => ?_) (fun _ => ?_)
      · refine Keeps.via (State.setTinState_keeps ..) rfl ?_
        refine Keeps.ite (fun _ => ?_) (fun _ => ?_)
        · exact Keeps.refl
        · exact Keeps.via (State.wipeTin_keeps ..) rfl Keeps.refl
      · refine Keeps.ite (fun _ => ?_) (fun _ => ?_)
        · exact Keeps.refl
        · exact Keeps.via (State.wipeTin_keeps ..) rfl Keeps.refl
  · exact Keeps.refl


theorem execPush_keeps (par : Bool) (bytes : List Byte) (s : State) : OutKeeps [.regs, .cfg, .answer] s (execPush par bytes s) := by
  unfold execPush
  refine OutKeeps.ite (fun _ => ?_) (fun _ => ?_)
  · refine OutKeeps.next ?_
    exact Keeps.refl
  · refine OutKeeps.ite (fun _ => ?_) (fun _ => ?_)
    · refine OutKeeps.next ?_
      exact Keeps.upd_answer rfl Keeps.refl
    · refine OutKeeps.next ?_
      exact Keeps.via (State.beginLoad_keeps ..) rfl Keeps.refl


theorem execCfgLoad_keeps (bytes : List Byte) (s : State) : OutKeeps [.regs, .events, .larder, .pool, .corr, .lanes, .mac, .dbg, .cfg, .answer, .free] s (execCfgLoad bytes s) := by
  unfold execCfgLoad
  refine OutKeeps.ite (fun _ => ?_) (fun _ => ?_)
  · refine OutKeeps.next ?_
    exact Keeps.via (State.bypassIr_keeps ..) rfl Keeps.refl
  · refine OutKeeps.ite (fun _ => ?_) (fun _ => ?_)
    · refine OutKeeps.next ?_
      exact Keeps.via (State.selectIr_keeps ..) rfl Keeps.refl
    · split
      · refine OutKeeps.ite (fun _ => ?_) (fun _ => ?_)
        · refine OutKeeps.next ?_
          exact Keeps.via (State.selectIr_keeps ..) rfl Keeps.refl
        · refine OutKeeps.next ?_
          refine Keeps.via (State.selectIr_keeps ..) rfl ?_
          exact Keeps.via (State.beginLoad_keeps ..) rfl Keeps.refl
      · refine OutKeeps.ite (fun _ => ?_) (fun _ => ?_)
        · refine OutKeeps.next ?_
          refine Keeps.via (State.selectIr_keeps ..) rfl ?_
          exact Keeps.via (State.setLoad_keeps ..) rfl Keeps.refl
        · refine OutKeeps.next ?_
          exact Keeps.via (State.selectIr_keeps ..) rfl Keeps.refl


theorem execFallbackTimeout_keeps (s : State) : OutKeeps [.regs, .events, .cfg] s (execFallbackTimeout s) := by
  unfold execFallbackTimeout
  refine OutKeeps.ite (fun _ => ?_) (fun _ => ?_)
  · refine OutKeeps.next ?_
    exact Keeps.via (State.enterSafeShell_keeps ..) rfl Keeps.refl
  · refine OutKeeps.next ?_
    exact Keeps.refl


theorem execFullImageCommit_keeps (s : State) : OutKeeps [.regs, .events, .tins, .ring, .foldMap, .kept, .dieCopy, .larder, .pool, .corr, .noc, .breadbox, .lanes, .eqTable, .mac, .fuses, .hqe, .cfg, .spr, .free] s (execFullImageCommit s) := by
  unfold execFullImageCommit
  split
  · refine OutKeeps.next ?_
    exact Keeps.refl
  · try extract_lets
    refine OutKeeps.ite (fun _ => ?_) (fun _ => ?_)
    · refine OutKeeps.next ?_
      exact Keeps.refl
    · refine OutKeeps.ite (fun _ => ?_) (fun _ => ?_)
      · refine OutKeeps.next ?_
        refine Keeps.via (State.loadFail_keeps ..) rfl ?_
        exact Keeps.via (State.clearOut_keeps ..) rfl Keeps.refl
      · try extract_lets
        refine OutKeeps.next ?_
        refine Keeps.via (State.loadDone_keeps ..) rfl ?_
        refine Keeps.upd_cfg rfl ?_
        refine Keeps.via (State.fset_keeps ..) rfl ?_
        refine Keeps.via (State.fset_keeps ..) rfl ?_
        refine Keeps.via (State.setDev_keeps ..) rfl ?_
        refine Keeps.via (State.commitRelease_keeps ..) rfl ?_
        refine Keeps.via (State.commitGolden_keeps ..) rfl ?_
        refine Keeps.via (State.commitArv_keeps ..) rfl ?_
        refine Keeps.via (State.commitCopies_keeps ..) rfl ?_
        refine Keeps.foldl (fun _ _ => ?_) ?_
        · exact Keeps.via (State.addEntries_keeps ..) rfl Keeps.refl
        · refine Keeps.upd_ring_foldMap rfl ?_
          refine Keeps.via (State.commitEq_keeps ..) rfl ?_
          exact Keeps.via (State.clearOut_keeps ..) rfl Keeps.refl


theorem execStat_keeps (s : State) : OutKeeps [.answer] s (execStat s) := by
  unfold execStat
  refine OutKeeps.ite (fun _ => ?_) (fun _ => ?_)
  · refine OutKeeps.next ?_
    exact Keeps.refl
  · refine OutKeeps.next ?_
    exact Keeps.upd_answer rfl Keeps.refl


theorem execLoadImage_keeps (q : QueueIx) (host : HostRead) (s : State) : OutKeeps [.regs, .events, .tins, .hqe, .cfg] s (execLoadImage q host s) := by
  unfold execLoadImage
  refine OutKeeps.next ?_
  exact Keeps.via (State.loadImage_keeps ..) rfl Keeps.refl


theorem execPartialImageCommit_keeps (s : State) : OutKeeps [.regs, .events, .tins, .ring, .kept, .noc, .hqe, .cfg, .spr] s (execPartialImageCommit s) := by
  unfold execPartialImageCommit
  split
  · refine OutKeeps.next ?_
    exact Keeps.refl
  · try extract_lets
    refine OutKeeps.ite (fun _ => ?_) (fun _ => ?_)
    · refine OutKeeps.next ?_
      exact Keeps.refl
    · refine OutKeeps.ite (fun _ => ?_) (fun _ => ?_)
      · refine OutKeeps.next ?_
        refine Keeps.via (State.loadFail_keeps ..) rfl ?_
        exact Keeps.via (State.clearOut_keeps ..) rfl Keeps.refl
      · try extract_lets
        refine OutKeeps.ite (fun _ => ?_) (fun _ => ?_)
        · try extract_lets
          refine OutKeeps.next ?_
          refine Keeps.via (State.loadDone_keeps ..) rfl ?_
          refine Keeps.via (State.setTinState_keeps ..) rfl ?_
          refine Keeps.via (State.releaseTin_keeps ..) rfl ?_
          refine Keeps.via (State.newEpoch_keeps ..) rfl ?_
          refine Keeps.via (State.replaceEntries_keeps ..) rfl ?_
          refine Keeps.ite (fun _ => ?_) (fun _ => ?_)
          · refine Keeps.via (State.keepCopy_keeps ..) rfl ?_
            refine Keeps.upd_kept rfl ?_
            exact Keeps.via (State.clearOut_keeps ..) rfl Keeps.refl
          · refine Keeps.upd_kept rfl ?_
            exact Keeps.via (State.clearOut_keeps ..) rfl Keeps.refl
        · try extract_lets
          refine OutKeeps.next ?_
          refine Keeps.via (State.loadDone_keeps ..) rfl ?_
          refine Keeps.via (State.setTinState_keeps ..) rfl ?_
          refine Keeps.via (State.setTin_keeps ..) rfl ?_
          refine Keeps.ite (fun _ => ?_) (fun _ => ?_)
          · refine Keeps.upd_spr rfl ?_
            exact Keeps.via (State.clearOut_keeps ..) rfl Keeps.refl
          · refine Keeps.ite (fun _ => ?_) (fun _ => ?_)
            · refine Keeps.upd_spr rfl ?_
              refine Keeps.upd_spr rfl ?_
              exact Keeps.via (State.clearOut_keeps ..) rfl Keeps.refl
            · refine Keeps.via (State.copyNoRoom_keeps ..) rfl ?_
              refine Keeps.upd_spr rfl ?_
              exact Keeps.via (State.clearOut_keeps ..) rfl Keeps.refl


theorem execHeaderAuthenticated_keeps (key : Option (Fin 4)) (sigOk : Bool) (s : State) : OutKeeps [.regs, .events, .tins, .hqe, .cfg] s (execHeaderAuthenticated key sigOk s) := by
  unfold execHeaderAuthenticated
  split
  · refine OutKeeps.next ?_
    exact Keeps.refl
  · refine OutKeeps.ite (fun _ => ?_) (fun _ => ?_)
    · refine OutKeeps.next ?_
      exact Keeps.refl
    · try extract_lets
      split
      · refine OutKeeps.next ?_
        refine Keeps.via (State.loadFail_keeps ..) rfl ?_
        exact Keeps.via (State.clearOut_keeps ..) rfl Keeps.refl
      · refine OutKeeps.ite (fun _ => ?_) (fun _ => ?_)
        · refine OutKeeps.next ?_
          exact Keeps.refl
        · split
          · refine OutKeeps.next ?_
            refine Keeps.via (State.loadFail_keeps ..) rfl ?_
            exact Keeps.via (State.clearOut_keeps ..) rfl Keeps.refl
          · try extract_lets
            split
            · refine OutKeeps.next ?_
              refine Keeps.via (State.loadFail_keeps ..) rfl ?_
              refine Keeps.ite (fun _ => ?_) (fun _ => ?_)
              · refine Keeps.via (State.fset_keeps ..) rfl ?_
                exact Keeps.via (State.clearOut_keeps ..) rfl Keeps.refl
              · exact Keeps.via (State.clearOut_keeps ..) rfl Keeps.refl
            · split
              · refine OutKeeps.next ?_
                refine Keeps.via (State.loadFail_keeps ..) rfl ?_
                refine Keeps.ite (fun _ => ?_) (fun _ => ?_)
                · refine Keeps.via (State.fset_keeps ..) rfl ?_
                  exact Keeps.via (State.clearOut_keeps ..) rfl Keeps.refl
                · exact Keeps.via (State.clearOut_keeps ..) rfl Keeps.refl
              · refine OutKeeps.next ?_
                refine Keeps.via (State.beginBody_keeps ..) rfl ?_
                refine Keeps.ite (fun _ => ?_) (fun _ => ?_)
                · refine Keeps.via (State.fset_keeps ..) rfl ?_
                  exact Keeps.via (State.clearOut_keeps ..) rfl Keeps.refl
                · exact Keeps.via (State.clearOut_keeps ..) rfl Keeps.refl


theorem execFabricWipeDone_keeps (s : State) : OutKeeps [.regs, .events, .tins, .ring, .kept, .dieCopy, .hqe, .cfg, .spr] s (execFabricWipeDone s) := by
  unfold execFabricWipeDone
  split
  · refine OutKeeps.next ?_
    exact Keeps.refl
  · refine OutKeeps.ite (fun _ => ?_) (fun _ => ?_)
    · refine OutKeeps.next ?_
      exact Keeps.refl
    · split
      · try extract_lets
        refine OutKeeps.ite (fun _ => ?_) (fun _ => ?_)
        · refine OutKeeps.next ?_
          refine Keeps.ite (fun _ => ?_) (fun _ => ?_)
          · refine Keeps.via (State.fset_keeps ..) rfl ?_
            refine Keeps.via (State.setDev_keeps ..) rfl ?_
            refine Keeps.via (State.loadOutcome_keeps ..) rfl ?_
            refine Keeps.via (State.wipeFabric_keeps ..) rfl ?_
            exact Keeps.via (State.clearOut_keeps ..) rfl Keeps.refl
          · refine Keeps.via (State.enterSafeShell_keeps ..) rfl ?_
            refine Keeps.via (State.loadOutcome_keeps ..) rfl ?_
            refine Keeps.via (State.wipeFabric_keeps ..) rfl ?_
            exact Keeps.via (State.clearOut_keeps ..) rfl Keeps.refl
        · refine OutKeeps.next ?_
          refine Keeps.via (State.post_keeps ..) rfl ?_
          refine Keeps.via (State.fset_keeps ..) rfl ?_
          refine Keeps.via (State.fset_keeps ..) rfl ?_
          refine Keeps.via (State.setDev_keeps ..) rfl ?_
          refine Keeps.via (State.loadOutcome_keeps ..) rfl ?_
          refine Keeps.via (State.wipeFabric_keeps ..) rfl ?_
          exact Keeps.via (State.clearOut_keeps ..) rfl Keeps.refl


theorem execCfgIdleTimeout_keeps (s : State) : OutKeeps [.regs, .events, .tins, .hqe, .cfg] s (execCfgIdleTimeout s) := by
  unfold execCfgIdleTimeout
  split
  · refine OutKeeps.ite (fun _ => ?_) (fun _ => ?_)
    · refine OutKeeps.next ?_
      exact Keeps.refl
    · refine OutKeeps.next ?_
      exact Keeps.via (State.earlyEnd_keeps ..) rfl Keeps.refl
  · refine OutKeeps.next ?_
    exact Keeps.refl


theorem execImageSegment_keeps (plain : List Byte) (s : State) : OutKeeps [.regs, .events, .tins, .hqe, .cfg] s (execImageSegment plain s) := by
  unfold execImageSegment
  split
  · refine OutKeeps.next ?_
    exact Keeps.refl
  · try extract_lets
    refine OutKeeps.ite (fun _ => ?_) (fun _ => ?_)
    · refine OutKeeps.next ?_
      exact Keeps.refl
    · refine OutKeeps.ite (fun _ => ?_) (fun _ => ?_)
      · refine OutKeeps.next ?_
        exact Keeps.refl
      · refine OutKeeps.ite (fun _ => ?_) (fun _ => ?_)
        · refine OutKeeps.next ?_
          refine Keeps.via (State.loadFail_keeps ..) rfl ?_
          exact Keeps.via (State.clearOut_keeps ..) rfl Keeps.refl
        · refine OutKeeps.ite (fun _ => ?_) (fun _ => ?_)
          · refine OutKeeps.next ?_
            exact Keeps.refl
          · refine OutKeeps.ite (fun _ => ?_) (fun _ => ?_)
            · refine OutKeeps.next ?_
              refine Keeps.via (State.loadFail_keeps ..) rfl ?_
              exact Keeps.via (State.clearOut_keeps ..) rfl Keeps.refl
            · refine OutKeeps.ite (fun _ => ?_) (fun _ => ?_)
              · refine OutKeeps.next ?_
                exact Keeps.refl
              · refine OutKeeps.ite (fun _ => ?_) (fun _ => ?_)
                · refine OutKeeps.next ?_
                  refine Keeps.via (State.loadFail_keeps ..) rfl ?_
                  exact Keeps.via (State.clearOut_keeps ..) rfl Keeps.refl
                · refine OutKeeps.ite (fun _ => ?_) (fun _ => ?_)
                  · refine OutKeeps.next ?_
                    refine Keeps.via (State.loadFail_keeps ..) rfl ?_
                    exact Keeps.via (State.clearOut_keeps ..) rfl Keeps.refl
                  · split
                    · refine OutKeeps.next ?_
                      refine Keeps.via (State.loadFail_keeps ..) rfl ?_
                      exact Keeps.via (State.clearOut_keeps ..) rfl Keeps.refl
                    · refine OutKeeps.next ?_
                      refine Keeps.via (State.setLoad_keeps ..) rfl ?_
                      obtain ⟨d, -, hd⟩ := Option.bind_eq_some_iff.mp ‹_›
                      refine Keeps.via (State.takeSegment_keeps _ _ _ _ _ hd) rfl ?_
                      exact Keeps.via (State.clearOut_keeps ..) rfl Keeps.refl


theorem execEarlyEnd_keeps (s : State) : OutKeeps [.regs, .events, .tins, .hqe, .cfg] s (execEarlyEnd s) := by
  unfold execEarlyEnd
  split
  · refine OutKeeps.ite (fun _ => ?_) (fun _ => ?_)
    · refine OutKeeps.next ?_
      exact Keeps.refl
    · refine OutKeeps.next ?_
      exact Keeps.via (State.earlyEnd_keeps ..) rfl Keeps.refl
  · refine OutKeeps.next ?_
    exact Keeps.refl


theorem execEndMarker_keeps (hashOk : Bool) (tagOk : Bool) (s : State) : OutKeeps [.regs, .events, .tins, .hqe, .cfg] s (execEndMarker hashOk tagOk s) := by
  unfold execEndMarker
  split
  · refine OutKeeps.next ?_
    exact Keeps.refl
  · try extract_lets
    refine OutKeeps.ite (fun _ => ?_) (fun _ => ?_)
    · refine OutKeeps.next ?_
      exact Keeps.refl
    · refine OutKeeps.ite (fun _ => ?_) (fun _ => ?_)
      · refine OutKeeps.next ?_
        refine Keeps.via (State.loadFail_keeps ..) rfl ?_
        exact Keeps.via (State.clearOut_keeps ..) rfl Keeps.refl
      · refine OutKeeps.ite (fun _ => ?_) (fun _ => ?_)
        · refine OutKeeps.next ?_
          exact Keeps.refl
        · split
          · refine OutKeeps.next ?_
            refine Keeps.via (State.loadFail_keeps ..) rfl ?_
            exact Keeps.via (State.clearOut_keeps ..) rfl Keeps.refl
          · refine OutKeeps.next ?_
            exact Keeps.via (State.setLoad_keeps ..) rfl Keeps.refl


end Sys2Proof.Machine
end

