-- ==== Sys2Proof/Laws/Keeps/Clock.lean ====
section
/-! SUPPORT. What the operations of Machine/Clock.lean may change, and that they keep the invariant. -/

namespace Sys2Proof.Machine

theorem State.switchover_keeps (s : State) (sev : Nat) : Keeps [.regs, .events] s (State.switchover s sev) := by
  unfold State.switchover
  try extract_lets
  refine Keeps.via (State.post_keeps ..) rfl ?_
  refine Keeps.via (State.fsat_keeps ..) rfl ?_
  exact Keeps.via (State.fset_keeps ..) rfl Keeps.refl


theorem State.clkSwitch_keeps (s : State) : Keeps [.regs, .events] s (State.clkSwitch s) := by
  unfold State.clkSwitch
  refine Keeps.ite (fun _ => ?_) (fun _ => ?_)
  · try extract_lets
    refine Keeps.ite (fun _ => ?_) (fun _ => ?_)
    · refine Keeps.via (State.fset_keeps ..) rfl ?_
      exact Keeps.via (State.switchover_keeps ..) rfl Keeps.refl
    · exact Keeps.via (State.switchover_keeps ..) rfl Keeps.refl
  · exact Keeps.refl


theorem State.setFaulted_keeps (s : State) (g : Nat) (b : Bool) : Keeps [.clk] s (State.setFaulted s g b) := by
  unfold State.setFaulted
  exact Keeps.upd_clk rfl Keeps.refl


theorem State.setEdge_keeps (s : State) (d : Nat) (g : Nat) (n : Nat) (v : Edge) : Keeps [.clk] s (State.setEdge s d g n v) := by
  unfold State.setEdge
  exact Keeps.upd_clk rfl Keeps.refl


theorem State.setFlag_keeps (s : State) (f : Fld) (d : Nat) (g : Nat) (n : Nat) (code : Nat) (sev : Nat) : Keeps [.regs, .events] s (State.setFlag s f d g n code sev) := by
  unfold State.setFlag
  refine Keeps.ite (fun _ => ?_) (fun _ => ?_)
  · exact Keeps.refl
  · refine Keeps.via (State.post_keeps ..) rfl ?_
    exact Keeps.via (State.fset_keeps ..) rfl Keeps.refl


theorem State.setFlags_keeps (s : State) (f : Fld) (d : Nat) (mask : Nat) (code : Nat) (sev : Nat) : Keeps [.regs, .events] s (State.setFlags s f d mask code sev) := by
  unfold State.setFlags
  refine Keeps.foldl (fun _ _ => ?_) ?_
  · refine Keeps.ite (fun _ => ?_) (fun _ => ?_)
    · exact Keeps.via (State.setFlag_keeps ..) rfl Keeps.refl
    · exact Keeps.refl
  · exact Keeps.refl


theorem execEdgeFifoRead_keeps (d : DieIx) (g : Fin 4) (n : Fin 64) (reader : Fin 3) (s : State) : OutKeeps [.regs, .events, .clk, .answer] s (execEdgeFifoRead d g n reader s) := by
  unfold execEdgeFifoRead
  try extract_lets
  refine OutKeeps.ite (fun _ => ?_) (fun _ => ?_)
  · refine OutKeeps.next ?_
    exact Keeps.refl
  · split
    · refine OutKeeps.next ?_
      try extract_lets
      refine Keeps.upd_answer rfl ?_
      exact Keeps.via (State.setEdge_keeps ..) rfl Keeps.refl
    · refine OutKeeps.ite (fun _ => ?_) (fun _ => ?_)
      · refine OutKeeps.next ?_
        refine Keeps.via (State.setFlag_keeps ..) rfl ?_
        exact Keeps.via (State.setEdge_keeps ..) rfl Keeps.refl
      · refine OutKeeps.next ?_
        exact Keeps.refl


theorem execEventCrossing_keeps (d : DieIx) (g : Fin 4) (n : Fin 64) (clocked : Bool) (ack : Bool) (s : State) : OutKeeps [.regs, .events, .clk] s (execEventCrossing d g n clocked ack s) := by
  unfold execEventCrossing
  try extract_lets
  refine OutKeeps.ite (fun _ => ?_) (fun _ => ?_)
  · refine OutKeeps.next ?_
    exact Keeps.refl
  · refine OutKeeps.ite (fun _ => ?_) (fun _ => ?_)
    · refine OutKeeps.next ?_
      exact Keeps.via (State.setEdge_keeps ..) rfl Keeps.refl
    · refine OutKeeps.ite (fun _ => ?_) (fun _ => ?_)
      · refine OutKeeps.next ?_
        exact Keeps.via (State.setEdge_keeps ..) rfl Keeps.refl
      · refine OutKeeps.ite (fun _ => ?_) (fun _ => ?_)
        · try extract_lets
          refine OutKeeps.next ?_
          refine Keeps.via (State.postLimited_keeps ..) rfl ?_
          refine Keeps.via (State.fset_keeps ..) rfl ?_
          exact Keeps.via (State.setEdge_keeps ..) rfl Keeps.refl
        · refine OutKeeps.next ?_
          exact Keeps.refl


theorem execClkRefRestored_keeps (f : Fin 4) (s : State) : OutKeeps [.regs, .events] s (execClkRefRestored f s) := by
  unfold execClkRefRestored
  refine OutKeeps.ite (fun _ => ?_) (fun _ => ?_)
  · refine OutKeeps.next ?_
    refine Keeps.via (State.post_keeps ..) rfl ?_
    refine Keeps.via (State.fset_keeps ..) rfl ?_
    exact Keeps.via (State.fset_keeps ..) rfl Keeps.refl
  · refine OutKeeps.next ?_
    exact Keeps.refl


theorem execEdgeUnstable_keeps (d : DieIx) (g : Fin 4) (n : Fin 64) (s : State) : OutKeeps [.regs, .events] s (execEdgeUnstable d g n s) := by
  unfold execEdgeUnstable
  refine OutKeeps.next ?_
  exact Keeps.via (State.setFlag_keeps ..) rfl Keeps.refl


theorem execOtherGeneratorLocked_keeps (s : State) : OutKeeps [.regs, .events, .clk] s (execOtherGeneratorLocked s) := by
  unfold execOtherGeneratorLocked
  try extract_lets
  refine OutKeeps.ite (fun _ => ?_) (fun _ => ?_)
  · try extract_lets
    refine OutKeeps.ite (fun _ => ?_) (fun _ => ?_)
    · refine OutKeeps.next ?_
      try extract_lets
      refine Keeps.upd_clk rfl ?_
      refine Keeps.via (State.post_keeps ..) rfl ?_
      refine Keeps.via (State.fset_keeps ..) rfl ?_
      refine Keeps.via (State.fset_keeps ..) rfl ?_
      exact Keeps.via (State.setFaulted_keeps ..) rfl Keeps.refl
    · refine OutKeeps.next ?_
      refine Keeps.via (State.switchover_keeps ..) rfl ?_
      refine Keeps.via (State.fset_keeps ..) rfl ?_
      exact Keeps.via (State.setFaulted_keeps ..) rfl Keeps.refl
  · refine OutKeeps.next ?_
    exact Keeps.refl


theorem execClkPathSpared_keeps (d : DieIx) (s : State) : OutKeeps [.regs, .events] s (execClkPathSpared d s) := by
  unfold execClkPathSpared
  refine OutKeeps.ite (fun _ => ?_) (fun _ => ?_)
  · refine OutKeeps.next ?_
    exact Keeps.refl
  · refine OutKeeps.next ?_
    refine Keeps.via (State.post_keeps ..) rfl ?_
    exact Keeps.via (State.fset_keeps ..) rfl Keeps.refl


theorem execDieClkRestored_keeps (d : DieIx) (s : State) : OutKeeps [.regs, .events, .larder, .pool, .corr, .lanes, .clk, .time, .mac, .free] s (execDieClkRestored d s) := by
  unfold execDieClkRestored
  refine OutKeeps.ite (fun _ => ?_) (fun _ => ?_)
  · try extract_lets
    refine OutKeeps.next ?_
    refine Keeps.via (State.post_keeps ..) rfl ?_
    refine Keeps.via (State.fset_keeps ..) rfl ?_
    refine Keeps.foldl (fun _ _ => ?_) ?_
    · refine Keeps.ite (fun _ => ?_) (fun _ => ?_)
      · exact Keeps.via (State.laneReach_keeps ..) rfl Keeps.refl
      · exact Keeps.refl
    · exact Keeps.upd_clk_time rfl Keeps.refl
  · refine OutKeeps.ite (fun _ => ?_) (fun _ => ?_)
    · refine OutKeeps.next ?_
      exact Keeps.upd_clk rfl Keeps.refl
    · refine OutKeeps.next ?_
      exact Keeps.refl


theorem execEdgeFifoWrite_keeps (d : DieIx) (g : Fin 4) (n : Fin 64) (clocked : Bool) (w : BitVec 64) (s : State) : OutKeeps [.regs, .events, .clk] s (execEdgeFifoWrite d g n clocked w s) := by
  unfold execEdgeFifoWrite
  try extract_lets
  refine OutKeeps.ite (fun _ => ?_) (fun _ => ?_)
  · refine OutKeeps.next ?_
    exact Keeps.refl
  · refine OutKeeps.ite (fun _ => ?_) (fun _ => ?_)
    · refine OutKeeps.next ?_
      exact Keeps.via (State.setEdge_keeps ..) rfl Keeps.refl
    · refine OutKeeps.ite (fun _ => ?_) (fun _ => ?_)
      · refine OutKeeps.next ?_
        refine Keeps.via (State.setFlag_keeps ..) rfl ?_
        exact Keeps.via (State.setEdge_keeps ..) rfl Keeps.refl
      · refine OutKeeps.next ?_
        exact Keeps.refl


theorem execValuePublish_keeps (d : DieIx) (g : Fin 4) (n : Fin 64) (v : Nat) (s : State) : OutKeeps [.clk] s (execValuePublish d g n v s) := by
  unfold execValuePublish
  refine OutKeeps.ite (fun _ => ?_) (fun _ => ?_)
  · refine OutKeeps.next ?_
    exact Keeps.refl
  · refine OutKeeps.next ?_
    exact Keeps.via (State.setEdge_keeps ..) rfl Keeps.refl


theorem execClkGenReady_keeps (s : State) : OutKeeps [.regs, .events, .clk] s (execClkGenReady s) := by
  unfold execClkGenReady
  try extract_lets
  refine OutKeeps.ite (fun _ => ?_) (fun _ => ?_)
  · refine OutKeeps.next ?_
    refine Keeps.via (State.post_keeps ..) rfl ?_
    refine Keeps.via (State.fset_keeps ..) rfl ?_
    refine Keeps.via (State.fset_keeps ..) rfl ?_
    exact Keeps.via (State.setFaulted_keeps ..) rfl Keeps.refl
  · refine OutKeeps.next ?_
    exact Keeps.refl


theorem execControlCrossing_keeps (d : DieIx) (g : Fin 4) (n : Fin 64) (level : Bool) (s : State) : OutKeeps [.clk] s (execControlCrossing d g n level s) := by
  unfold execControlCrossing
  refine OutKeeps.ite (fun _ => ?_) (fun _ => ?_)
  · refine OutKeeps.next ?_
    exact Keeps.refl
  · refine OutKeeps.next ?_
    exact Keeps.via (State.setEdge_keeps ..) rfl Keeps.refl


theorem execClkGenFault_keeps (lostLock : Bool) (s : State) : OutKeeps [.regs, .events, .clk] s (execClkGenFault lostLock s) := by
  unfold execClkGenFault
  try extract_lets
  refine OutKeeps.ite (fun _ => ?_) (fun _ => ?_)
  · refine OutKeeps.next ?_
    exact Keeps.refl
  · try extract_lets
    refine OutKeeps.next ?_
    refine Keeps.ite (fun _ => ?_) (fun _ => ?_)
    · refine Keeps.ite (fun _ => ?_) (fun _ => ?_)
      · refine Keeps.via (State.fset_keeps ..) rfl ?_
        exact Keeps.via (State.setFaulted_keeps ..) rfl Keeps.refl
      · exact Keeps.via (State.setFaulted_keeps ..) rfl Keeps.refl
    · refine Keeps.via (State.post_keeps ..) rfl ?_
      refine Keeps.ite (fun _ => ?_) (fun _ => ?_)
      · refine Keeps.via (State.fset_keeps ..) rfl ?_
        exact Keeps.via (State.setFaulted_keeps ..) rfl Keeps.refl
      · exact Keeps.via (State.setFaulted_keeps ..) rfl Keeps.refl


theorem execClkRefLost_keeps (f : Fin 4) (s : State) : OutKeeps [.regs, .events] s (execClkRefLost f s) := by
  unfold execClkRefLost
  refine OutKeeps.ite (fun _ => ?_) (fun _ => ?_)
  · refine OutKeeps.next ?_
    exact Keeps.refl
  · refine OutKeeps.next ?_
    refine Keeps.via (State.post_keeps ..) rfl ?_
    refine Keeps.via (State.fset_keeps ..) rfl ?_
    exact Keeps.via (State.fset_keeps ..) rfl Keeps.refl


theorem execClkOutputGate_keeps (s : State) : OutKeeps [.clk] s (execClkOutputGate s) := by
  unfold execClkOutputGate
  refine OutKeeps.ite (fun _ => ?_) (fun _ => ?_)
  · refine OutKeeps.next ?_
    exact Keeps.upd_clk rfl Keeps.refl
  · refine OutKeeps.next ?_
    exact Keeps.refl


theorem execClkCtlSwitch_keeps (s : State) : OutKeeps [.regs, .events] s (execClkCtlSwitch s) := by
  unfold execClkCtlSwitch
  refine OutKeeps.next ?_
  exact Keeps.via (State.clkSwitch_keeps ..) rfl Keeps.refl


theorem execClkSwitchover_keeps (lostLock : Bool) (s : State) : OutKeeps [.regs, .events, .clk] s (execClkSwitchover lostLock s) := by
  unfold execClkSwitchover
  refine OutKeeps.ite (fun _ => ?_) (fun _ => ?_)
  · try extract_lets
    refine OutKeeps.next ?_
    refine Keeps.via (State.fset_keeps ..) rfl ?_
    refine Keeps.ite (fun _ => ?_) (fun _ => ?_)
    · refine Keeps.via (State.fset_keeps ..) rfl ?_
      refine Keeps.via (State.setFaulted_keeps ..) rfl ?_
      exact Keeps.via (State.switchover_keeps ..) rfl Keeps.refl
    · refine Keeps.via (State.setFaulted_keeps ..) rfl ?_
      exact Keeps.via (State.switchover_keeps ..) rfl Keeps.refl
  · refine OutKeeps.next ?_
    exact Keeps.refl


theorem execStandbyGeneratorFault_keeps (lostLock : Bool) (s : State) : OutKeeps [.regs, .clk] s (execStandbyGeneratorFault lostLock s) := by
  unfold execStandbyGeneratorFault
  try extract_lets
  refine OutKeeps.next ?_
  refine Keeps.ite (fun _ => ?_) (fun _ => ?_)
  · refine Keeps.via (State.fset_keeps ..) rfl ?_
    refine Keeps.via (State.fset_keeps ..) rfl ?_
    exact Keeps.via (State.setFaulted_keeps ..) rfl Keeps.refl
  · refine Keeps.via (State.fset_keeps ..) rfl ?_
    exact Keeps.via (State.setFaulted_keeps ..) rfl Keeps.refl


theorem execDieClkLost_keeps (d : DieIx) (fam : Fin 8) (ovr : Fin 16) (und : Fin 16) (evt : Fin 16) (s : State) : OutKeeps [.regs, .events, .larder, .pool, .corr, .lanes, .clk, .time, .mac, .free] s (execDieClkLost d fam ovr und evt s) := by
  unfold execDieClkLost
  try extract_lets
  refine OutKeeps.ite (fun _ => ?_) (fun _ => ?_)
  · refine OutKeeps.next ?_
    exact Keeps.refl
  · refine OutKeeps.ite (fun _ => ?_) (fun _ => ?_)
    · refine OutKeeps.next ?_
      refine Keeps.ite (fun _ => ?_) (fun _ => ?_)
      · exact Keeps.upd_clk rfl Keeps.refl
      · exact Keeps.refl
    · try extract_lets
      refine OutKeeps.next ?_
      refine Keeps.via (State.post_keeps ..) rfl ?_
      refine Keeps.foldl (fun _ _ => ?_) ?_
      · refine Keeps.ite (fun _ => ?_) (fun _ => ?_)
        · exact Keeps.via (State.laneReach_keeps ..) rfl Keeps.refl
        · exact Keeps.refl
      · refine Keeps.ite (fun _ => ?_) (fun _ => ?_)
        · try extract_lets
          refine Keeps.upd_time rfl ?_
          refine Keeps.via (State.selfRefresh_keeps ..) rfl ?_
          refine Keeps.via (State.selfRefresh_keeps ..) rfl ?_
          refine Keeps.via (State.setFlags_keeps ..) rfl ?_
          refine Keeps.via (State.setFlags_keeps ..) rfl ?_
          refine Keeps.via (State.setFlags_keeps ..) rfl ?_
          refine Keeps.via (State.setFlags_keeps ..) rfl ?_
          refine Keeps.via (State.fsat_keeps ..) rfl ?_
          refine Keeps.via (State.fset_keeps ..) rfl ?_
          exact Keeps.upd_clk rfl Keeps.refl
        · refine Keeps.via (State.setFlags_keeps ..) rfl ?_
          refine Keeps.via (State.setFlags_keeps ..) rfl ?_
          refine Keeps.via (State.setFlags_keeps ..) rfl ?_
          refine Keeps.via (State.setFlags_keeps ..) rfl ?_
          refine Keeps.via (State.fsat_keeps ..) rfl ?_
          refine Keeps.via (State.fset_keeps ..) rfl ?_
          exact Keeps.upd_clk rfl Keeps.refl


end Sys2Proof.Machine
end

