-- ==== Sys2Proof/Laws/Keeps/Rates.lean ====
section
/-! SUPPORT. What the operations of Machine/Rates.lean may change, and that they keep the invariant. -/

namespace Sys2Proof.Machine

theorem State.becameDue_keeps (s : State) (t : Nat) (n : Nat) : Keeps [.regs, .events, .tins, .dueSeq] s (State.becameDue s t n) := by
  unfold State.becameDue
  try extract_lets
  refine Keeps.ite (fun _ => ?_) (fun _ => ?_)
  · refine Keeps.ite (fun _ => ?_) (fun _ => ?_)
    · refine Keeps.via (State.fset_keeps ..) rfl ?_
      try extract_lets
      refine Keeps.upd_dueSeq rfl ?_
      exact Keeps.via (State.setTin_keeps ..) rfl Keeps.refl
    · try extract_lets
      refine Keeps.upd_dueSeq rfl ?_
      exact Keeps.via (State.setTin_keeps ..) rfl Keeps.refl
  · refine Keeps.ite (fun _ => ?_) (fun _ => ?_)
    · refine Keeps.via (State.post_keeps ..) rfl ?_
      try extract_lets
      refine Keeps.upd_dueSeq rfl ?_
      exact Keeps.via (State.setTin_keeps ..) rfl Keeps.refl
    · try extract_lets
      refine Keeps.upd_dueSeq rfl ?_
      exact Keeps.via (State.setTin_keeps ..) rfl Keeps.refl


theorem State.hubWindow_keeps (s : State) (counts : List Nat) (stable : Bool) : Keeps [.regs, .events] s (State.hubWindow s counts stable) := by
  unfold State.hubWindow
  try extract_lets
  refine Keeps.foldl (fun _ _ => ?_) ?_
  · refine Keeps.ite (fun _ => ?_) (fun _ => ?_)
    · exact Keeps.via (State.post_keeps ..) rfl Keeps.refl
    · exact Keeps.refl
  · refine Keeps.via (State.fset_keeps ..) rfl ?_
    refine Keeps.via (State.fset_keeps ..) rfl ?_
    refine Keeps.via (State.fset_keeps ..) rfl ?_
    refine Keeps.via (State.fset_keeps ..) rfl ?_
    exact Keeps.via (State.fset_keeps ..) rfl Keeps.refl


theorem State.wearDue_keeps (s : State) (t : Nat) (cause : Nat) (n : Nat) : Keeps [.regs, .events, .tins, .dueSeq] s (State.wearDue s t cause n) := by
  unfold State.wearDue
  try extract_lets
  refine Keeps.ite (fun _ => ?_) (fun _ => ?_)
  · exact Keeps.refl
  · try extract_lets
    refine Keeps.ite (fun _ => ?_) (fun _ => ?_)
    · refine Keeps.via (State.post_keeps ..) rfl ?_
      refine Keeps.via (State.fset_keeps ..) rfl ?_
      exact Keeps.via (State.fset_keeps ..) rfl Keeps.refl
    · refine Keeps.via (State.becameDue_keeps ..) rfl ?_
      refine Keeps.via (State.post_keeps ..) rfl ?_
      refine Keeps.via (State.fset_keeps ..) rfl ?_
      exact Keeps.via (State.fset_keeps ..) rfl Keeps.refl


theorem State.tinWindow_keeps (s : State) (t : Nat) (counts : List Nat) (stable : Bool) : Keeps [.regs, .events, .tins, .dueSeq] s (State.tinWindow s t counts stable) := by
  unfold State.tinWindow
  try extract_lets
  refine Keeps.ite (fun _ => ?_) (fun _ => ?_)
  · refine Keeps.ite (fun _ => ?_) (fun _ => ?_)
    · refine Keeps.via (State.setTin_keeps ..) rfl ?_
      refine Keeps.foldl (fun _ _ => ?_) ?_
      · refine Keeps.ite (fun _ => ?_) (fun _ => ?_)
        · exact Keeps.via (State.post_keeps ..) rfl Keeps.refl
        · exact Keeps.refl
      · refine Keeps.via (State.fset_keeps ..) rfl ?_
        refine Keeps.via (State.fset_keeps ..) rfl ?_
        refine Keeps.via (State.fset_keeps ..) rfl ?_
        refine Keeps.via (State.fset_keeps ..) rfl ?_
        exact Keeps.via (State.fset_keeps ..) rfl Keeps.refl
    · refine Keeps.foldl (fun _ _ => ?_) ?_
      · refine Keeps.ite (fun _ => ?_) (fun _ => ?_)
        · exact Keeps.via (State.post_keeps ..) rfl Keeps.refl
        · exact Keeps.refl
      · refine Keeps.via (State.fset_keeps ..) rfl ?_
        refine Keeps.via (State.fset_keeps ..) rfl ?_
        refine Keeps.via (State.fset_keeps ..) rfl ?_
        refine Keeps.via (State.fset_keeps ..) rfl ?_
        exact Keeps.via (State.fset_keeps ..) rfl Keeps.refl
  · refine Keeps.via (State.wearDue_keeps ..) rfl ?_
    refine Keeps.ite (fun _ => ?_) (fun _ => ?_)
    · refine Keeps.via (State.setTin_keeps ..) rfl ?_
      refine Keeps.foldl (fun _ _ => ?_) ?_
      · refine Keeps.ite (fun _ => ?_) (fun _ => ?_)
        · exact Keeps.via (State.post_keeps ..) rfl Keeps.refl
        · exact Keeps.refl
      · refine Keeps.via (State.fset_keeps ..) rfl ?_
        refine Keeps.via (State.fset_keeps ..) rfl ?_
        refine Keeps.via (State.fset_keeps ..) rfl ?_
        refine Keeps.via (State.fset_keeps ..) rfl ?_
        exact Keeps.via (State.fset_keeps ..) rfl Keeps.refl
    · refine Keeps.foldl (fun _ _ => ?_) ?_
      · refine Keeps.ite (fun _ => ?_) (fun _ => ?_)
        · exact Keeps.via (State.post_keeps ..) rfl Keeps.refl
        · exact Keeps.refl
      · refine Keeps.via (State.fset_keeps ..) rfl ?_
        refine Keeps.via (State.fset_keeps ..) rfl ?_
        refine Keeps.via (State.fset_keeps ..) rfl ?_
        refine Keeps.via (State.fset_keeps ..) rfl ?_
        exact Keeps.via (State.fset_keeps ..) rfl Keeps.refl


theorem State.wearCheck_keeps (s : State) (t : Nat) : Keeps [.regs, .events, .tins, .dueSeq] s (State.wearCheck s t) := by
  unfold State.wearCheck
  try extract_lets
  refine Keeps.ite (fun _ => ?_) (fun _ => ?_)
  · exact Keeps.refl
  · try extract_lets
    refine Keeps.ite (fun _ => ?_) (fun _ => ?_)
    · refine Keeps.via (State.wearDue_keeps ..) rfl ?_
      refine Keeps.ite (fun _ => ?_) (fun _ => ?_)
      · try extract_lets
        refine Keeps.ite (fun _ => ?_) (fun _ => ?_)
        · refine Keeps.via (State.becameDue_keeps ..) rfl ?_
          refine Keeps.via (State.post_keeps ..) rfl ?_
          refine Keeps.via (State.fset_keeps ..) rfl ?_
          refine Keeps.via (State.fset_keeps ..) rfl ?_
          exact Keeps.via (State.fset_keeps ..) rfl Keeps.refl
        · refine Keeps.via (State.post_keeps ..) rfl ?_
          refine Keeps.via (State.fset_keeps ..) rfl ?_
          refine Keeps.via (State.fset_keeps ..) rfl ?_
          exact Keeps.via (State.fset_keeps ..) rfl Keeps.refl
      · refine Keeps.via (State.fset_keeps ..) rfl ?_
        exact Keeps.via (State.fset_keeps ..) rfl Keeps.refl
    · refine Keeps.ite (fun _ => ?_) (fun _ => ?_)
      · refine Keeps.via (State.wearDue_keeps ..) rfl ?_
        refine Keeps.ite (fun _ => ?_) (fun _ => ?_)
        · try extract_lets
          refine Keeps.ite (fun _ => ?_) (fun _ => ?_)
          · refine Keeps.via (State.becameDue_keeps ..) rfl ?_
            refine Keeps.via (State.post_keeps ..) rfl ?_
            refine Keeps.via (State.fset_keeps ..) rfl ?_
            refine Keeps.via (State.fset_keeps ..) rfl ?_
            exact Keeps.via (State.fset_keeps ..) rfl Keeps.refl
          · refine Keeps.via (State.post_keeps ..) rfl ?_
            refine Keeps.via (State.fset_keeps ..) rfl ?_
            refine Keeps.via (State.fset_keeps ..) rfl ?_
            exact Keeps.via (State.fset_keeps ..) rfl Keeps.refl
        · refine Keeps.via (State.fset_keeps ..) rfl ?_
          exact Keeps.via (State.fset_keeps ..) rfl Keeps.refl
      · refine Keeps.ite (fun _ => ?_) (fun _ => ?_)
        · try extract_lets
          refine Keeps.ite (fun _ => ?_) (fun _ => ?_)
          · refine Keeps.via (State.becameDue_keeps ..) rfl ?_
            refine Keeps.via (State.post_keeps ..) rfl ?_
            refine Keeps.via (State.fset_keeps ..) rfl ?_
            refine Keeps.via (State.fset_keeps ..) rfl ?_
            exact Keeps.via (State.fset_keeps ..) rfl Keeps.refl
          · refine Keeps.via (State.post_keeps ..) rfl ?_
            refine Keeps.via (State.fset_keeps ..) rfl ?_
            refine Keeps.via (State.fset_keeps ..) rfl ?_
            exact Keeps.via (State.fset_keeps ..) rfl Keeps.refl
        · refine Keeps.via (State.fset_keeps ..) rfl ?_
          exact Keeps.via (State.fset_keeps ..) rfl Keeps.refl


theorem execRateRingWindow_keeps (t : Fin 105) (c0 : Nat) (c1 : Nat) (c2 : Nat) (c3 : Nat) (stable : Bool) (s : State) : OutKeeps [.regs, .events, .tins, .dueSeq] s (execRateRingWindow t c0 c1 c2 c3 stable s) := by
  unfold execRateRingWindow
  refine OutKeeps.ite (fun _ => ?_) (fun _ => ?_)
  · refine OutKeeps.next ?_
    exact Keeps.via (State.hubWindow_keeps ..) rfl Keeps.refl
  · refine OutKeeps.next ?_
    exact Keeps.via (State.tinWindow_keeps ..) rfl Keeps.refl


theorem execVfabRamp_keeps (d : DieIx) (s : State) : OutKeeps [.regs] s (execVfabRamp d s) := by
  unfold execVfabRamp
  refine OutKeeps.next ?_
  exact Keeps.via (State.fset_keeps ..) rfl Keeps.refl


theorem execWearCheck_keeps (t : TinIx) (s : State) : OutKeeps [.regs, .events, .tins, .dueSeq] s (execWearCheck t s) := by
  unfold execWearCheck
  refine OutKeeps.next ?_
  exact Keeps.via (State.wearCheck_keeps ..) rfl Keeps.refl


end Sys2Proof.Machine
end

