-- ==== Sys2Proof/Laws/Keeps/Spr.lean ====
section
/-! SUPPORT. What the operations of Machine/Spr.lean may change, and that they keep the invariant. -/

namespace Sys2Proof.Machine

theorem State.testSpare_keeps (s : State) (d : Nat) : Keeps [.regs, .tins] s (State.testSpare s d) := by
  unfold State.testSpare
  try extract_lets
  refine Keeps.via (State.setTinState_keeps ..) rfl ?_
  exact Keeps.via (State.wipeTin_keeps ..) rfl Keeps.refl


theorem State.tinPost_keeps (s : State) (t : Nat) (code : Nat) (sev : Nat) (arg0 : Nat) (arg1 : Nat) : Keeps [.events] s (State.tinPost s t code sev arg0 arg1) := by
  unfold State.tinPost
  exact Keeps.via (State.post_keeps ..) rfl Keeps.refl


theorem State.unfreeze_keeps (s : State) (t : Nat) : Keeps [.regs, .tins] s (State.unfreeze s t) := by
  unfold State.unfreeze
  refine Keeps.via (State.setTinState_keeps ..) rfl ?_
  exact Keeps.via (State.setTin_keeps ..) rfl Keeps.refl


theorem State.setOps_keeps (s : State) (l : List SprOp) : Keeps [.spr] s (State.setOps s l) := by
  unfold State.setOps
  exact Keeps.upd_spr rfl Keeps.refl


theorem State.dropOp_keeps (s : State) (d : Nat) (r : Nat) : Keeps [.spr] s (State.dropOp s d r) := by
  unfold State.dropOp
  exact Keeps.via (State.setOps_keeps ..) rfl Keeps.refl


theorem State.abortOp_keeps (s : State) (o : SprOp) (reason : Nat) : Keeps [.regs, .events, .tins, .hqe, .spr] s (State.abortOp s o reason) := by
  unfold State.abortOp
  try extract_lets
  refine Keeps.ite (fun _ => ?_) (fun _ => ?_)
  · refine Keeps.via (State.finishWait_keeps ..) rfl ?_
    refine Keeps.via (State.tinPost_keeps ..) rfl ?_
    refine Keeps.ite (fun _ => ?_) (fun _ => ?_)
    · refine Keeps.via (State.unfreeze_keeps ..) rfl ?_
      refine Keeps.ite (fun _ => ?_) (fun _ => ?_)
      · refine Keeps.via (State.testSpare_keeps ..) rfl ?_
        exact Keeps.via (State.dropOp_keeps ..) rfl Keeps.refl
      · exact Keeps.via (State.dropOp_keeps ..) rfl Keeps.refl
    · refine Keeps.ite (fun _ => ?_) (fun _ => ?_)
      · refine Keeps.via (State.testSpare_keeps ..) rfl ?_
        exact Keeps.via (State.dropOp_keeps ..) rfl Keeps.refl
      · exact Keeps.via (State.dropOp_keeps ..) rfl Keeps.refl
  · try extract_lets
    refine Keeps.ite (fun _ => ?_) (fun _ => ?_)
    · refine Keeps.upd_spr rfl ?_
      refine Keeps.via (State.finishWait_keeps ..) rfl ?_
      refine Keeps.via (State.tinPost_keeps ..) rfl ?_
      refine Keeps.ite (fun _ => ?_) (fun _ => ?_)
      · refine Keeps.via (State.unfreeze_keeps ..) rfl ?_
        refine Keeps.ite (fun _ => ?_) (fun _ => ?_)
        · refine Keeps.via (State.testSpare_keeps ..) rfl ?_
          exact Keeps.via (State.dropOp_keeps ..) rfl Keeps.refl
        · exact Keeps.via (State.dropOp_keeps ..) rfl Keeps.refl
      · refine Keeps.ite (fun _ => ?_) (fun _ => ?_)
        · refine Keeps.via (State.testSpare_keeps ..) rfl ?_
          exact Keeps.via (State.dropOp_keeps ..) rfl Keeps.refl
        · exact Keeps.via (State.dropOp_keeps ..) rfl Keeps.refl
    · try extract_lets
      refine Keeps.via (State.tinPost_keeps ..) rfl ?_
      refine Keeps.upd_spr rfl ?_
      refine Keeps.via (State.finishWait_keeps ..) rfl ?_
      refine Keeps.via (State.tinPost_keeps ..) rfl ?_
      refine Keeps.ite (fun _ => ?_) (fun _ => ?_)
      · refine Keeps.via (State.unfreeze_keeps ..) rfl ?_
        refine Keeps.ite (fun _ => ?_) (fun _ => ?_)
        · refine Keeps.via (State.testSpare_keeps ..) rfl ?_
          exact Keeps.via (State.dropOp_keeps ..) rfl Keeps.refl
        · exact Keeps.via (State.dropOp_keeps ..) rfl Keeps.refl
      · refine Keeps.ite (fun _ => ?_) (fun _ => ?_)
        · refine Keeps.via (State.testSpare_keeps ..) rfl ?_
          exact Keeps.via (State.dropOp_keeps ..) rfl Keeps.refl
        · exact Keeps.via (State.dropOp_keeps ..) rfl Keeps.refl


theorem State.adoptCopy_keeps (s : State) (d : Nat) (r : Nat) : Keeps [.kept, .spr] s (State.adoptCopy s d r) := by
  unfold State.adoptCopy
  try extract_lets
  exact Keeps.upd_kept_spr rfl Keeps.refl


theorem State.retireTin_keeps (s : State) (t : Nat) : Keeps [.regs, .events, .tins] s (State.retireTin s t) := by
  unfold State.retireTin
  refine Keeps.via (State.tinPost_keeps ..) rfl ?_
  refine Keeps.via (State.setTinState_keeps ..) rfl ?_
  exact Keeps.via (State.wipeTin_keeps ..) rfl Keeps.refl


theorem State.stopRole_keeps (s : State) (d : Nat) (r : Nat) : Keeps [.regs, .events, .tins] s (State.stopRole s d r) := by
  unfold State.stopRole
  try extract_lets
  refine Keeps.via (State.tinPost_keeps ..) rfl ?_
  refine Keeps.via (State.setTinState_keeps ..) rfl ?_
  exact Keeps.via (State.setTin_keeps ..) rfl Keeps.refl


theorem State.endFreeze_keeps (s : State) (d : Nat) (r : Nat) : Keeps [.regs, .tins, .dbg] s (State.endFreeze s d r) := by
  unfold State.endFreeze
  refine Keeps.ite (fun _ => ?_) (fun _ => ?_)
  · exact Keeps.via (State.releaseRole_keeps ..) rfl Keeps.refl
  · exact Keeps.refl


theorem State.beginRestart_keeps (s : State) (d : Nat) (r : Nat) (proof : Bool) : Keeps [.regs, .events, .tins, .dbg, .hqe, .spr] s (State.beginRestart s d r proof) := by
  unfold State.beginRestart
  try extract_lets
  refine Keeps.ite (fun _ => ?_) (fun _ => ?_)
  · refine Keeps.via (State.tinPost_keeps ..) rfl ?_
    refine Keeps.via (State.retireTin_keeps ..) rfl ?_
    refine Keeps.via (State.endFreeze_keeps ..) rfl ?_
    try dsimp +zetaDelta only
    split
    · refine Keeps.ite (fun _ => ?_) (fun _ => ?_)
      · exact Keeps.via (State.dropOp_keeps ..) rfl Keeps.refl
      · exact Keeps.via (State.abortOp_keeps ..) rfl Keeps.refl
    · exact Keeps.refl
  · refine Keeps.ite (fun _ => ?_) (fun _ => ?_)
    · refine Keeps.ite (fun _ => ?_) (fun _ => ?_)
      · refine Keeps.via (State.tinPost_keeps ..) rfl ?_
        refine Keeps.via (State.retireTin_keeps ..) rfl ?_
        refine Keeps.via (State.endFreeze_keeps ..) rfl ?_
        try dsimp +zetaDelta only
        split
        · refine Keeps.ite (fun _ => ?_) (fun _ => ?_)
          · exact Keeps.via (State.dropOp_keeps ..) rfl Keeps.refl
          · exact Keeps.via (State.abortOp_keeps ..) rfl Keeps.refl
        · exact Keeps.refl
      · refine Keeps.via (State.stopRole_keeps ..) rfl ?_
        refine Keeps.via (State.endFreeze_keeps ..) rfl ?_
        try dsimp +zetaDelta only
        split
        · refine Keeps.ite (fun _ => ?_) (fun _ => ?_)
          · exact Keeps.via (State.dropOp_keeps ..) rfl Keeps.refl
          · exact Keeps.via (State.abortOp_keeps ..) rfl Keeps.refl
        · exact Keeps.refl
    · refine Keeps.ite (fun _ => ?_) (fun _ => ?_)
      · refine Keeps.via (State.setOps_keeps ..) rfl ?_
        refine Keeps.via (State.setTinState_keeps ..) rfl ?_
        refine Keeps.via (State.endFreeze_keeps ..) rfl ?_
        try dsimp +zetaDelta only
        split
        · refine Keeps.ite (fun _ => ?_) (fun _ => ?_)
          · exact Keeps.via (State.dropOp_keeps ..) rfl Keeps.refl
          · exact Keeps.via (State.abortOp_keeps ..) rfl Keeps.refl
        · exact Keeps.refl
      · refine Keeps.ite (fun _ => ?_) (fun _ => ?_)
        · refine Keeps.via (State.setOps_keeps ..) rfl ?_
          refine Keeps.via (State.setTinState_keeps ..) rfl ?_
          refine Keeps.via (State.setTinState_keeps ..) rfl ?_
          refine Keeps.via (State.endFreeze_keeps ..) rfl ?_
          try dsimp +zetaDelta only
          split
          · refine Keeps.ite (fun _ => ?_) (fun _ => ?_)
            · exact Keeps.via (State.dropOp_keeps ..) rfl Keeps.refl
            · exact Keeps.via (State.abortOp_keeps ..) rfl Keeps.refl
          · exact Keeps.refl
        · refine Keeps.via (State.setOps_keeps ..) rfl ?_
          refine Keeps.via (State.setTinState_keeps ..) rfl ?_
          refine Keeps.via (State.endFreeze_keeps ..) rfl ?_
          try dsimp +zetaDelta only
          split
          · refine Keeps.ite (fun _ => ?_) (fun _ => ?_)
            · exact Keeps.via (State.dropOp_keeps ..) rfl Keeps.refl
            · exact Keeps.via (State.abortOp_keeps ..) rfl Keeps.refl
          · exact Keeps.refl


theorem State.frameLost_keeps (s : State) (t : Nat) (f : Nat) : Keeps [.regs, .events, .tins] s (State.frameLost s t f) := by
  unfold State.frameLost
  try extract_lets
  refine Keeps.ite (fun _ => ?_) (fun _ => ?_)
  · refine Keeps.via (State.tinPost_keeps ..) rfl ?_
    refine Keeps.via (State.setTin_keeps ..) rfl ?_
    exact Keeps.via (State.fsat_keeps ..) rfl Keeps.refl
  · first | split | (dsimp +zetaDelta only; split)
    · refine Keeps.via (State.tinPost_keeps ..) rfl ?_
      refine Keeps.via (State.setTin_keeps ..) rfl ?_
      exact Keeps.via (State.fsat_keeps ..) rfl Keeps.refl
    · refine Keeps.ite (fun _ => ?_) (fun _ => ?_)
      · refine Keeps.via (State.testSpare_keeps ..) rfl ?_
        refine Keeps.via (State.tinPost_keeps ..) rfl ?_
        exact Keeps.via (State.fsat_keeps ..) rfl Keeps.refl
      · refine Keeps.via (State.stopRole_keeps ..) rfl ?_
        refine Keeps.via (State.tinPost_keeps ..) rfl ?_
        exact Keeps.via (State.fsat_keeps ..) rfl Keeps.refl


theorem State.freezeTin_keeps (s : State) (t : Nat) : Keeps [.regs, .tins] s (State.freezeTin s t) := by
  unfold State.freezeTin
  refine Keeps.via (State.setTinState_keeps ..) rfl ?_
  exact Keeps.via (State.setTin_keeps ..) rfl Keeps.refl


theorem State.kneadDue_keeps (s : State) (t : Nat) : Keeps [.regs, .events, .tins, .dueSeq] s (State.kneadDue s t) := by
  unfold State.kneadDue
  refine Keeps.ite (fun _ => ?_) (fun _ => ?_)
  · exact Keeps.refl
  · try extract_lets
    refine Keeps.ite (fun _ => ?_) (fun _ => ?_)
    · refine Keeps.via (State.tinPost_keeps ..) rfl ?_
      exact Keeps.via (State.fset_keeps ..) rfl Keeps.refl
    · refine Keeps.via (State.becameDue_keeps ..) rfl ?_
      refine Keeps.via (State.tinPost_keeps ..) rfl ?_
      exact Keeps.via (State.fset_keeps ..) rfl Keeps.refl


theorem State.readmit_keeps (s : State) (t : Nat) : Keeps [.regs, .tins] s (State.readmit s t) := by
  unfold State.readmit
  try extract_lets
  refine Keeps.via (State.setTin_keeps ..) rfl ?_
  refine Keeps.via (State.fset_keeps ..) rfl ?_
  refine Keeps.via (State.fset_keeps ..) rfl ?_
  refine Keeps.via (State.fset_keeps ..) rfl ?_
  refine Keeps.via (State.fset_keeps ..) rfl ?_
  exact Keeps.via (State.fset_keeps ..) rfl Keeps.refl


theorem State.rearmRole_keeps (s : State) (d : Nat) (r : Nat) : Keeps [.ring] s (State.rearmRole s d r) := by
  unfold State.rearmRole
  refine Keeps.foldl (fun _ _ => ?_) ?_
  · exact Keeps.via (State.setConn_keeps ..) rfl Keeps.refl
  · exact Keeps.refl


theorem State.restartOn_keeps (s : State) (d : Nat) (r : Nat) (t : Nat) (c : KeptCopy) : Keeps [.regs, .events, .tins, .noc] s (State.restartOn s d r t c) := by
  unfold State.restartOn
  refine Keeps.via (State.tinPost_keeps ..) rfl ?_
  refine Keeps.via (State.setTinState_keeps ..) rfl ?_
  refine Keeps.via (State.releaseTin_keeps ..) rfl ?_
  refine Keeps.via (State.newEpoch_keeps ..) rfl ?_
  exact Keeps.via (State.loadCopy_keeps ..) rfl Keeps.refl


theorem State.setKnd_keeps (s : State) (d : Nat) (v : Knd) : Keeps [.spr] s (State.setKnd s d v) := by
  unfold State.setKnd
  exact Keeps.upd_spr rfl Keeps.refl


theorem State.setOp_keeps (s : State) (d : Nat) (r : Nat) (o : SprOp) : Keeps [.spr] s (State.setOp s d r o) := by
  unfold State.setOp
  exact Keeps.via (State.setOps_keeps ..) rfl Keeps.refl


theorem State.startReloc_keeps (s : State) (d : Nat) (r : Nat) (o : SprOp) : Keeps [.regs, .spr] s (State.startReloc s d r o) := by
  unfold State.startReloc
  try extract_lets
  refine Keeps.ite (fun _ => ?_) (fun _ => ?_)
  · refine Keeps.via (State.setTinState_keeps ..) rfl ?_
    exact Keeps.via (State.setOps_keeps ..) rfl Keeps.refl
  · exact Keeps.via (State.setOps_keeps ..) rfl Keeps.refl


theorem execQuiescenceTimeout_keeps (d : DieIx) (r : Fin 12) (s : State) : OutKeeps [.regs, .events, .tins, .hqe, .spr] s (execQuiescenceTimeout d r s) := by
  unfold execQuiescenceTimeout
  try extract_lets
  split
  · refine OutKeeps.next ?_
    refine Keeps.via (State.abortOp_keeps ..) rfl ?_
    exact Keeps.via (State.clearOut_keeps ..) rfl Keeps.refl
  · split
    · refine OutKeeps.ite (fun _ => ?_) (fun _ => ?_)
      · refine OutKeeps.next ?_
        refine Keeps.via (State.abortOp_keeps ..) rfl ?_
        exact Keeps.via (State.clearOut_keeps ..) rfl Keeps.refl
      · refine OutKeeps.next ?_
        exact Keeps.refl
    · refine OutKeeps.next ?_
      exact Keeps.refl


theorem execTinRestarted_keeps (d : DieIx) (r : Fin 12) (ok : Bool) (s : State) : OutKeeps [.regs, .events, .roles, .tins, .noc, .dbg, .hqe, .spr] s (execTinRestarted d r ok s) := by
  unfold execTinRestarted
  try extract_lets
  split
  · refine OutKeeps.next ?_
    refine Keeps.ite (fun _ => ?_) (fun _ => ?_)
    · refine Keeps.ite (fun _ => ?_) (fun _ => ?_)
      · refine Keeps.via (State.beginRestart_keeps ..) rfl ?_
        exact Keeps.via (State.clearOut_keeps ..) rfl Keeps.refl
      · exact Keeps.via (State.clearOut_keeps ..) rfl Keeps.refl
    · exact Keeps.refl
  · try extract_lets
    split
    · refine OutKeeps.next ?_
      refine Keeps.via (State.stopRole_keeps ..) rfl ?_
      refine Keeps.ite (fun _ => ?_) (fun _ => ?_)
      · refine Keeps.via (State.dropOp_keeps ..) rfl ?_
        refine Keeps.ite (fun _ => ?_) (fun _ => ?_)
        · refine Keeps.via (State.beginRestart_keeps ..) rfl ?_
          exact Keeps.via (State.clearOut_keeps ..) rfl Keeps.refl
        · exact Keeps.via (State.clearOut_keeps ..) rfl Keeps.refl
      · refine Keeps.via (State.testSpare_keeps ..) rfl ?_
        refine Keeps.via (State.dropOp_keeps ..) rfl ?_
        refine Keeps.ite (fun _ => ?_) (fun _ => ?_)
        · refine Keeps.via (State.beginRestart_keeps ..) rfl ?_
          exact Keeps.via (State.clearOut_keeps ..) rfl Keeps.refl
        · exact Keeps.via (State.clearOut_keeps ..) rfl Keeps.refl
    · refine OutKeeps.ite (fun _ => ?_) (fun _ => ?_)
      · refine OutKeeps.next ?_
        refine Keeps.via (State.restartOn_keeps ..) rfl ?_
        refine Keeps.via (State.dropOp_keeps ..) rfl ?_
        refine Keeps.ite (fun _ => ?_) (fun _ => ?_)
        · refine Keeps.via (State.beginRestart_keeps ..) rfl ?_
          exact Keeps.via (State.clearOut_keeps ..) rfl Keeps.refl
        · exact Keeps.via (State.clearOut_keeps ..) rfl Keeps.refl
      · try extract_lets
        refine OutKeeps.next ?_
        refine Keeps.ite (fun _ => ?_) (fun _ => ?_)
        · refine Keeps.via (State.retireTin_keeps ..) rfl ?_
          refine Keeps.via (State.restartOn_keeps ..) rfl ?_
          refine Keeps.via (State.exchange_keeps ..) rfl ?_
          refine Keeps.via (State.dropOp_keeps ..) rfl ?_
          refine Keeps.ite (fun _ => ?_) (fun _ => ?_)
          · refine Keeps.via (State.beginRestart_keeps ..) rfl ?_
            exact Keeps.via (State.clearOut_keeps ..) rfl Keeps.refl
          · exact Keeps.via (State.clearOut_keeps ..) rfl Keeps.refl
        · refine Keeps.via (State.testSpare_keeps ..) rfl ?_
          refine Keeps.via (State.restartOn_keeps ..) rfl ?_
          refine Keeps.via (State.exchange_keeps ..) rfl ?_
          refine Keeps.via (State.dropOp_keeps ..) rfl ?_
          refine Keeps.ite (fun _ => ?_) (fun _ => ?_)
          · refine Keeps.via (State.beginRestart_keeps ..) rfl ?_
            exact Keeps.via (State.clearOut_keeps ..) rfl Keeps.refl
          · exact Keeps.via (State.clearOut_keeps ..) rfl Keeps.refl


theorem execTinSwapped_keeps (d : DieIx) (r : Fin 12) (s : State) : OutKeeps [.regs, .events, .roles, .tins, .ring, .kept, .noc, .hqe, .spr] s (execTinSwapped d r s) := by
  unfold execTinSwapped
  split
  · refine OutKeeps.next ?_
    exact Keeps.refl
  · try extract_lets
    refine OutKeeps.ite (fun _ => ?_) (fun _ => ?_)
    · refine OutKeeps.next ?_
      refine Keeps.via (State.abortOp_keeps ..) rfl ?_
      exact Keeps.via (State.clearOut_keeps ..) rfl Keeps.refl
    · refine OutKeeps.ite (fun _ => ?_) (fun _ => ?_)
      · refine OutKeeps.next ?_
        exact Keeps.refl
      · try extract_lets
        refine OutKeeps.next ?_
        refine Keeps.via (State.finishWait_keeps ..) rfl ?_
        refine Keeps.via (State.tinPost_keeps ..) rfl ?_
        refine Keeps.via (State.testSpare_keeps ..) rfl ?_
        refine Keeps.via (State.dropOp_keeps ..) rfl ?_
        refine Keeps.via (State.adoptCopy_keeps ..) rfl ?_
        refine Keeps.via (State.setTinState_keeps ..) rfl ?_
        refine Keeps.via (State.setTin_keeps ..) rfl ?_
        refine Keeps.via (State.releaseTin_keeps ..) rfl ?_
        refine Keeps.via (State.newEpoch_keeps ..) rfl ?_
        refine Keeps.via (State.replaceEntries_keeps ..) rfl ?_
        refine Keeps.via (State.exchange_keeps ..) rfl ?_
        exact Keeps.via (State.clearOut_keeps ..) rfl Keeps.refl


theorem execRelocationRetry_keeps (d : DieIx) (r : Fin 12) (s : State) : OutKeeps [.regs, .spr] s (execRelocationRetry d r s) := by
  unfold execRelocationRetry
  try extract_lets
  refine OutKeeps.ite (fun _ => ?_) (fun _ => ?_)
  · try extract_lets
    refine OutKeeps.next ?_
    refine Keeps.via (State.startReloc_keeps ..) rfl ?_
    exact Keeps.upd_spr rfl Keeps.refl
  · refine OutKeeps.next ?_
    exact Keeps.refl


theorem execKneaderHeartbeat_keeps (d : DieIx) (beatA : Bool) (beatB : Bool) (sigOk : Bool) (okA : Bool) (okB : Bool) (s : State) : OutKeeps [.regs, .events, .spr] s (execKneaderHeartbeat d beatA beatB sigOk okA okB s) := by
  unfold execKneaderHeartbeat
  try extract_lets
  refine OutKeeps.ite (fun _ => ?_) (fun _ => ?_)
  · refine OutKeeps.next ?_
    exact Keeps.refl
  · refine OutKeeps.ite (fun _ => ?_) (fun _ => ?_)
    · refine OutKeeps.next ?_
      exact Keeps.via (State.setKnd_keeps ..) rfl Keeps.refl
    · try extract_lets
      refine OutKeeps.ite (fun _ => ?_) (fun _ => ?_)
      · refine OutKeeps.next ?_
        refine Keeps.via (State.setKnd_keeps ..) rfl ?_
        refine Keeps.via (State.post_keeps ..) rfl ?_
        exact Keeps.via (State.fsat_keeps ..) rfl Keeps.refl
      · try extract_lets
        refine OutKeeps.ite (fun _ => ?_) (fun _ => ?_)
        · refine OutKeeps.next ?_
          refine Keeps.via (State.setKnd_keeps ..) rfl ?_
          refine Keeps.via (State.post_keeps ..) rfl ?_
          exact Keeps.via (State.fsat_keeps ..) rfl Keeps.refl
        · try extract_lets
          refine OutKeeps.ite (fun _ => ?_) (fun _ => ?_)
          · refine OutKeeps.next ?_
            refine Keeps.via (State.post_keeps ..) rfl ?_
            refine Keeps.via (State.fset_keeps ..) rfl ?_
            refine Keeps.via (State.fset_keeps ..) rfl ?_
            refine Keeps.via (State.setKnd_keeps ..) rfl ?_
            refine Keeps.via (State.post_keeps ..) rfl ?_
            exact Keeps.via (State.fsat_keeps ..) rfl Keeps.refl
          · refine OutKeeps.next ?_
            refine Keeps.via (State.post_keeps ..) rfl ?_
            refine Keeps.via (State.fset_keeps ..) rfl ?_
            refine Keeps.via (State.fset_keeps ..) rfl ?_
            refine Keeps.via (State.setKnd_keeps ..) rfl ?_
            refine Keeps.via (State.post_keeps ..) rfl ?_
            exact Keeps.via (State.fsat_keeps ..) rfl Keeps.refl


theorem execKneaderFrameRead_keeps (t : TinIx) (f : Fin 40960) (err : MemErr) (s : State) : OutKeeps [.regs, .events, .tins, .dueSeq] s (execKneaderFrameRead t f err s) := by
  unfold execKneaderFrameRead
  try extract_lets
  refine OutKeeps.ite (fun _ => ?_) (fun _ => ?_)
  · refine OutKeeps.next ?_
    exact Keeps.refl
  · try extract_lets
    refine OutKeeps.next ?_
    refine Keeps.ite (fun _ => ?_) (fun _ => ?_)
    · refine Keeps.via (State.fset_keeps ..) rfl ?_
      refine Keeps.ite (fun _ => ?_) (fun _ => ?_)
      · exact Keeps.refl
      · try dsimp +zetaDelta only
        split
        · exact Keeps.refl
        · refine Keeps.via (State.fset_keeps ..) rfl ?_
          refine Keeps.via (State.fset_keeps ..) rfl ?_
          exact Keeps.via (State.frameLost_keeps ..) rfl Keeps.refl
        · try extract_lets
          refine Keeps.ite (fun _ => ?_) (fun _ => ?_)
          · refine Keeps.via (State.kneadDue_keeps ..) rfl ?_
            refine Keeps.via (State.fset_keeps ..) rfl ?_
            refine Keeps.via (State.fset_keeps ..) rfl ?_
            refine Keeps.via (State.setTin_keeps ..) rfl ?_
            exact Keeps.via (State.fsat_keeps ..) rfl Keeps.refl
          · refine Keeps.via (State.fset_keeps ..) rfl ?_
            refine Keeps.via (State.fset_keeps ..) rfl ?_
            refine Keeps.via (State.setTin_keeps ..) rfl ?_
            exact Keeps.via (State.fsat_keeps ..) rfl Keeps.refl
    · refine Keeps.ite (fun _ => ?_) (fun _ => ?_)
      · exact Keeps.refl
      · try dsimp +zetaDelta only
        split
        · exact Keeps.refl
        · refine Keeps.via (State.fset_keeps ..) rfl ?_
          refine Keeps.via (State.fset_keeps ..) rfl ?_
          exact Keeps.via (State.frameLost_keeps ..) rfl Keeps.refl
        · try extract_lets
          refine Keeps.ite (fun _ => ?_) (fun _ => ?_)
          · refine Keeps.via (State.kneadDue_keeps ..) rfl ?_
            refine Keeps.via (State.fset_keeps ..) rfl ?_
            refine Keeps.via (State.fset_keeps ..) rfl ?_
            refine Keeps.via (State.setTin_keeps ..) rfl ?_
            exact Keeps.via (State.fsat_keeps ..) rfl Keeps.refl
          · refine Keeps.via (State.fset_keeps ..) rfl ?_
            refine Keeps.via (State.fset_keeps ..) rfl ?_
            refine Keeps.via (State.setTin_keeps ..) rfl ?_
            exact Keeps.via (State.fsat_keeps ..) rfl Keeps.refl


theorem execTinRelocated_keeps (d : DieIx) (r : Fin 12) (s : State) : OutKeeps [.regs, .events, .roles, .tins, .ring, .kept, .hqe, .spr] s (execTinRelocated d r s) := by
  unfold execTinRelocated
  split
  · refine OutKeeps.next ?_
    exact Keeps.refl
  · try extract_lets
    refine OutKeeps.ite (fun _ => ?_) (fun _ => ?_)
    · refine OutKeeps.next ?_
      refine Keeps.via (State.abortOp_keeps ..) rfl ?_
      exact Keeps.via (State.clearOut_keeps ..) rfl Keeps.refl
    · try extract_lets
      refine OutKeeps.next ?_
      refine Keeps.via (State.finishWait_keeps ..) rfl ?_
      refine Keeps.via (State.tinPost_keeps ..) rfl ?_
      refine Keeps.ite (fun _ => ?_) (fun _ => ?_)
      · refine Keeps.via (State.retireTin_keeps ..) rfl ?_
        try extract_lets
        refine Keeps.upd_spr rfl ?_
        refine Keeps.via (State.dropOp_keeps ..) rfl ?_
        refine Keeps.ite (fun _ => ?_) (fun _ => ?_)
        · refine Keeps.via (State.adoptCopy_keeps ..) rfl ?_
          refine Keeps.via (State.setTinState_keeps ..) rfl ?_
          refine Keeps.via (State.setTin_keeps ..) rfl ?_
          refine Keeps.via (State.rearmRole_keeps ..) rfl ?_
          refine Keeps.via (State.fset_keeps ..) rfl ?_
          refine Keeps.via (State.exchange_keeps ..) rfl ?_
          exact Keeps.via (State.clearOut_keeps ..) rfl Keeps.refl
        · refine Keeps.via (State.setTinState_keeps ..) rfl ?_
          refine Keeps.via (State.setTin_keeps ..) rfl ?_
          refine Keeps.via (State.rearmRole_keeps ..) rfl ?_
          refine Keeps.via (State.fset_keeps ..) rfl ?_
          refine Keeps.via (State.exchange_keeps ..) rfl ?_
          exact Keeps.via (State.clearOut_keeps ..) rfl Keeps.refl
      · refine Keeps.via (State.testSpare_keeps ..) rfl ?_
        try extract_lets
        refine Keeps.upd_spr rfl ?_
        refine Keeps.via (State.dropOp_keeps ..) rfl ?_
        refine Keeps.ite (fun _ => ?_) (fun _ => ?_)
        · refine Keeps.via (State.adoptCopy_keeps ..) rfl ?_
          refine Keeps.via (State.setTinState_keeps ..) rfl ?_
          refine Keeps.via (State.setTin_keeps ..) rfl ?_
          refine Keeps.via (State.rearmRole_keeps ..) rfl ?_
          refine Keeps.via (State.fset_keeps ..) rfl ?_
          refine Keeps.via (State.exchange_keeps ..) rfl ?_
          exact Keeps.via (State.clearOut_keeps ..) rfl Keeps.refl
        · refine Keeps.via (State.setTinState_keeps ..) rfl ?_
          refine Keeps.via (State.setTin_keeps ..) rfl ?_
          refine Keeps.via (State.rearmRole_keeps ..) rfl ?_
          refine Keeps.via (State.fset_keeps ..) rfl ?_
          refine Keeps.via (State.exchange_keeps ..) rfl ?_
          exact Keeps.via (State.clearOut_keeps ..) rfl Keeps.refl


theorem execReturnTestDone_keeps (t : TinIx) (pass : Bool) (s : State) : OutKeeps [.regs, .events, .tins, .hqe, .spr] s (execReturnTestDone t pass s) := by
  unfold execReturnTestDone
  try extract_lets
  refine OutKeeps.ite (fun _ => ?_) (fun _ => ?_)
  · refine OutKeeps.next ?_
    exact Keeps.refl
  · refine OutKeeps.ite (fun _ => ?_) (fun _ => ?_)
    · refine OutKeeps.next ?_
      refine Keeps.ite (fun _ => ?_) (fun _ => ?_)
      · refine Keeps.via (State.setTinState_keeps ..) rfl ?_
        refine Keeps.via (State.wipeTin_keeps ..) rfl ?_
        exact Keeps.via (State.clearOut_keeps ..) rfl Keeps.refl
      · refine Keeps.via (State.retireTin_keeps ..) rfl ?_
        exact Keeps.via (State.clearOut_keeps ..) rfl Keeps.refl
    · refine OutKeeps.ite (fun _ => ?_) (fun _ => ?_)
      · refine OutKeeps.ite (fun _ => ?_) (fun _ => ?_)
        · refine OutKeeps.next ?_
          refine Keeps.via (State.tinPost_keeps ..) rfl ?_
          refine Keeps.via (State.fset_keeps ..) rfl ?_
          refine Keeps.via (State.setTinState_keeps ..) rfl ?_
          refine Keeps.via (State.readmit_keeps ..) rfl ?_
          exact Keeps.via (State.clearOut_keeps ..) rfl Keeps.refl
        · refine OutKeeps.next ?_
          refine Keeps.via (State.retireTin_keeps ..) rfl ?_
          exact Keeps.via (State.clearOut_keeps ..) rfl Keeps.refl
      · split
        · refine OutKeeps.next ?_
          exact Keeps.refl
        · refine OutKeeps.ite (fun _ => ?_) (fun _ => ?_)
          · refine OutKeeps.next ?_
            refine Keeps.via (State.setOp_keeps ..) rfl ?_
            refine Keeps.via (State.setTinState_keeps ..) rfl ?_
            refine Keeps.via (State.wipeTin_keeps ..) rfl ?_
            exact Keeps.via (State.clearOut_keeps ..) rfl Keeps.refl
          · refine OutKeeps.next ?_
            refine Keeps.via (State.tinPost_keeps ..) rfl ?_
            refine Keeps.via (State.retireTin_keeps ..) rfl ?_
            refine Keeps.via (State.dropOp_keeps ..) rfl ?_
            exact Keeps.via (State.clearOut_keeps ..) rfl Keeps.refl


theorem execStateTransferDone_keeps (d : DieIx) (r : Fin 12) (ok : Bool) (s : State) : OutKeeps [.regs, .events, .tins, .hqe, .spr] s (execStateTransferDone d r ok s) := by
  unfold execStateTransferDone
  split
  · refine OutKeeps.next ?_
    exact Keeps.refl
  · try extract_lets
    refine OutKeeps.ite (fun _ => ?_) (fun _ => ?_)
    · refine OutKeeps.next ?_
      refine Keeps.via (State.abortOp_keeps ..) rfl ?_
      exact Keeps.via (State.clearOut_keeps ..) rfl Keeps.refl
    · refine OutKeeps.ite (fun _ => ?_) (fun _ => ?_)
      · refine OutKeeps.next ?_
        refine Keeps.via (State.abortOp_keeps ..) rfl ?_
        exact Keeps.via (State.clearOut_keeps ..) rfl Keeps.refl
      · refine OutKeeps.next ?_
        refine Keeps.via (State.setOp_keeps ..) rfl ?_
        exact Keeps.via (State.setTin_keeps ..) rfl Keeps.refl


theorem execSwapTime_keeps (d : DieIx) (r : Fin 12) (s : State) : OutKeeps [.regs, .events, .tins, .hqe, .spr] s (execSwapTime d r s) := by
  unfold execSwapTime
  split
  · refine OutKeeps.next ?_
    exact Keeps.refl
  · refine OutKeeps.ite (fun _ => ?_) (fun _ => ?_)
    · refine OutKeeps.next ?_
      exact Keeps.refl
    · refine OutKeeps.ite (fun _ => ?_) (fun _ => ?_)
      · refine OutKeeps.next ?_
        refine Keeps.via (State.abortOp_keeps ..) rfl ?_
        exact Keeps.via (State.clearOut_keeps ..) rfl Keeps.refl
      · try extract_lets
        refine OutKeeps.next ?_
        refine Keeps.via (State.setOp_keeps ..) rfl ?_
        refine Keeps.via (State.setTin_keeps ..) rfl ?_
        exact Keeps.via (State.freezeTin_keeps ..) rfl Keeps.refl


theorem execSourceQuiescent_keeps (d : DieIx) (r : Fin 12) (s : State) : OutKeeps [.regs, .events, .tins, .hqe, .spr] s (execSourceQuiescent d r s) := by
  unfold execSourceQuiescent
  split
  · refine OutKeeps.next ?_
    exact Keeps.refl
  · try extract_lets
    refine OutKeeps.ite (fun _ => ?_) (fun _ => ?_)
    · refine OutKeeps.next ?_
      refine Keeps.via (State.abortOp_keeps ..) rfl ?_
      exact Keeps.via (State.clearOut_keeps ..) rfl Keeps.refl
    · refine OutKeeps.ite (fun _ => ?_) (fun _ => ?_)
      · refine OutKeeps.next ?_
        exact Keeps.via (State.setOp_keeps ..) rfl Keeps.refl
      · refine OutKeeps.next ?_
        exact Keeps.refl


theorem execHotFrameInterval_keeps (t : TinIx) (s : State) : OutKeeps [.regs, .events, .tins, .dueSeq] s (execHotFrameInterval t s) := by
  unfold execHotFrameInterval
  try extract_lets
  refine OutKeeps.ite (fun _ => ?_) (fun _ => ?_)
  · refine OutKeeps.next ?_
    exact Keeps.refl
  · try extract_lets
    refine OutKeeps.next ?_
    refine Keeps.ite (fun _ => ?_) (fun _ => ?_)
    · refine Keeps.via (State.kneadDue_keeps ..) rfl ?_
      exact Keeps.via (State.setTin_keeps ..) rfl Keeps.refl
    · exact Keeps.via (State.setTin_keeps ..) rfl Keeps.refl


theorem execRelocationFreeze_keeps (d : DieIx) (r : Fin 12) (s : State) : OutKeeps [.regs, .events, .tins, .hqe, .spr] s (execRelocationFreeze d r s) := by
  unfold execRelocationFreeze
  split
  · refine OutKeeps.next ?_
    exact Keeps.refl
  · refine OutKeeps.ite (fun _ => ?_) (fun _ => ?_)
    · refine OutKeeps.next ?_
      exact Keeps.refl
    · refine OutKeeps.ite (fun _ => ?_) (fun _ => ?_)
      · refine OutKeeps.next ?_
        refine Keeps.via (State.abortOp_keeps ..) rfl ?_
        exact Keeps.via (State.clearOut_keeps ..) rfl Keeps.refl
      · refine OutKeeps.next ?_
        refine Keeps.via (State.setOp_keeps ..) rfl ?_
        exact Keeps.via (State.freezeTin_keeps ..) rfl Keeps.refl


theorem execDramEvacuated_keeps (s : State) : OutKeeps [.regs, .events, .noc, .dram, .hqe] s (execDramEvacuated s) := by
  unfold execDramEvacuated
  split
  · refine OutKeeps.ite (fun _ => ?_) (fun _ => ?_)
    · try extract_lets
      refine OutKeeps.next ?_
      refine Keeps.foldl (fun _ _ => ?_) ?_
      · exact Keeps.via (State.dueChannel_keeps ..) rfl Keeps.refl
      · refine Keeps.via (State.finishWait_keeps ..) rfl ?_
        refine Keeps.via (State.chPost_keeps ..) rfl ?_
        refine Keeps.via (State.rerouteStep_keeps ..) rfl ?_
        refine Keeps.via (State.setChState_keeps ..) rfl ?_
        exact Keeps.via (State.clearOut_keeps ..) rfl Keeps.refl
    · refine OutKeeps.next ?_
      exact Keeps.refl
  · refine OutKeeps.next ?_
    exact Keeps.refl


theorem execAutoRelocationStart_keeps (d : DieIx) (s : State) : OutKeeps [.regs, .spr] s (execAutoRelocationStart d s) := by
  unfold execAutoRelocationStart
  refine OutKeeps.ite (fun _ => ?_) (fun _ => ?_)
  · split
    · refine OutKeeps.next ?_
      exact Keeps.refl
    · refine OutKeeps.next ?_
      exact Keeps.via (State.startReloc_keeps ..) rfl Keeps.refl
  · refine OutKeeps.next ?_
    exact Keeps.refl


theorem execTargetLoaded_keeps (d : DieIx) (r : Fin 12) (ok : Bool) (s : State) : OutKeeps [.regs, .events, .tins, .hqe, .spr] s (execTargetLoaded d r ok s) := by
  unfold execTargetLoaded
  split
  · refine OutKeeps.next ?_
    exact Keeps.refl
  · try extract_lets
    split
    · refine OutKeeps.next ?_
      refine Keeps.via (State.abortOp_keeps ..) rfl ?_
      exact Keeps.via (State.clearOut_keeps ..) rfl Keeps.refl
    · refine OutKeeps.ite (fun _ => ?_) (fun _ => ?_)
      · refine OutKeeps.next ?_
        refine Keeps.via (State.abortOp_keeps ..) rfl ?_
        exact Keeps.via (State.clearOut_keeps ..) rfl Keeps.refl
      · try extract_lets
        refine OutKeeps.next ?_
        refine Keeps.ite (fun _ => ?_) (fun _ => ?_)
        · refine Keeps.via (State.abortOp_keeps ..) rfl ?_
          refine Keeps.via (State.setTinState_keeps ..) rfl ?_
          refine Keeps.via (State.setTin_keeps ..) rfl ?_
          refine Keeps.via (State.loadCopy_keeps ..) rfl ?_
          exact Keeps.via (State.clearOut_keeps ..) rfl Keeps.refl
        · refine Keeps.via (State.setOp_keeps ..) rfl ?_
          refine Keeps.via (State.setTinState_keeps ..) rfl ?_
          refine Keeps.via (State.setTin_keeps ..) rfl ?_
          refine Keeps.via (State.loadCopy_keeps ..) rfl ?_
          exact Keeps.via (State.clearOut_keeps ..) rfl Keeps.refl


end Sys2Proof.Machine
end

