-- ==== Sys2Proof/Laws/Keeps/Dies.lean ====
section
/-! SUPPORT. What the operations of Machine/Dies.lean may change, and that they keep the invariant. -/

namespace Sys2Proof.Machine

theorem State.abortDie_keeps (s : State) (d : Nat) : Keeps [.regs, .events, .tins, .hqe, .spr] s (State.abortDie s d) := by
  unfold State.abortDie
  try extract_lets
  refine Keeps.upd_spr rfl ?_
  refine Keeps.foldl (fun _ _ => ?_) ?_
  · refine Keeps.ite (fun _ => ?_) (fun _ => ?_)
    · exact Keeps.via (State.dropOp_keeps ..) rfl Keeps.refl
    · exact Keeps.via (State.abortOp_keeps ..) rfl Keeps.refl
  · exact Keeps.refl


theorem State.allCause_keeps (s : State) (cause : Nat) : Keeps [.regs] s (State.allCause s cause) := by
  unfold State.allCause
  refine Keeps.foldl (fun _ _ => ?_) ?_
  · exact Keeps.via (State.fset_keeps ..) rfl Keeps.refl
  · exact Keeps.refl


theorem State.assignRoles_keeps (s : State) (d : Nat) : Keeps [.roles] s (State.assignRoles s d) := by
  unfold State.assignRoles
  extract_lets
  refine Keeps.upd_roles rfl Keeps.refl (fun h j => ?_)
  simp only [State.roleMap]
  rw [Tab.get_put]
  split
  · exact split_ok _
  · exact h j

theorem State.engineOff_keeps (s : State) (c : Nat) : Keeps [.dram] s (State.engineOff s c) := by
  unfold State.engineOff
  exact Keeps.via (State.setChan_keeps ..) rfl Keeps.refl


theorem State.channelLost_keeps (s : State) (c : Nat) : Keeps [.regs, .events, .dram, .free] s (State.channelLost s c) := by
  unfold State.channelLost
  try extract_lets
  refine Keeps.ite (fun _ => ?_) (fun _ => ?_)
  · refine Keeps.ite (fun _ => ?_) (fun _ => ?_)
    · exact Keeps.via (State.engineOff_keeps ..) rfl Keeps.refl
    · refine Keeps.via (State.drawKeys_keeps ..) rfl ?_
      exact Keeps.via (State.engineOff_keeps ..) rfl Keeps.refl
  · refine Keeps.via (State.chPost_keeps ..) rfl ?_
    refine Keeps.via (State.setChState_keeps ..) rfl ?_
    refine Keeps.via (State.setChan_keeps ..) rfl ?_
    refine Keeps.ite (fun _ => ?_) (fun _ => ?_)
    · exact Keeps.via (State.engineOff_keeps ..) rfl Keeps.refl
    · refine Keeps.via (State.drawKeys_keeps ..) rfl ?_
      exact Keeps.via (State.engineOff_keeps ..) rfl Keeps.refl


theorem State.writeBack_keeps (s : State) (c : Nat) (key : Nat) : Keeps [.regs, .dram] s (State.writeBack s c key) := by
  unfold State.writeBack
  try extract_lets
  split
  · exact Keeps.refl
  · try extract_lets
    refine Keeps.ite (fun _ => ?_) (fun _ => ?_)
    · refine Keeps.via (State.touch_keeps ..) rfl ?_
      refine Keeps.via (State.setCtr_keeps ..) rfl ?_
      refine Keeps.ite (fun _ => ?_) (fun _ => ?_)
      · exact Keeps.via (State.takeCounter_keeps _ _ _ ‹_›) rfl Keeps.refl
      · refine Keeps.via (State.takeCounter_getD_keeps ..) rfl ?_
        exact Keeps.via (State.takeCounter_keeps _ _ _ ‹_›) rfl Keeps.refl
    · refine Keeps.via (State.setCtr_keeps ..) rfl ?_
      refine Keeps.ite (fun _ => ?_) (fun _ => ?_)
      · exact Keeps.via (State.takeCounter_keeps _ _ _ ‹_›) rfl Keeps.refl
      · refine Keeps.via (State.takeCounter_getD_keeps ..) rfl ?_
        exact Keeps.via (State.takeCounter_keeps _ _ _ ‹_›) rfl Keeps.refl


theorem State.flushLevel_keeps (s : State) (c : Nat) (l : Nat) : Keeps [.regs, .dram] s (State.flushLevel s c l) := by
  unfold State.flushLevel
  refine Keeps.foldl (fun _ _ => ?_) ?_
  · exact Keeps.via (State.writeBack_keeps ..) rfl Keeps.refl
  · exact Keeps.refl


theorem State.finishProofs_keeps (s : State) (c : Nat) : Keeps [.regs, .events, .tins, .larder, .pool, .corr, .noc, .dram, .breadbox, .pads, .mac, .cfg, .free] s (State.finishProofs s c) := by
  unfold State.finishProofs
  try extract_lets
  refine Keeps.foldl (fun _ _ => ?_) ?_
  · exact Keeps.via (State.sealedReadProof_keeps ..) rfl Keeps.refl
  · exact Keeps.refl


theorem State.sealSave_keeps (s : State) (c : Nat) : Keeps [.regs, .events, .tins, .larder, .pool, .corr, .noc, .dram, .breadbox, .pads, .mac, .cfg, .free] s (State.sealSave s c) := by
  unfold State.sealSave
  refine Keeps.ite (fun _ => ?_) (fun _ => ?_)
  · try extract_lets
    refine Keeps.via (State.setChan_keeps ..) rfl ?_
    refine Keeps.via (State.flushLevel_keeps ..) rfl ?_
    refine Keeps.via (State.flushLevel_keeps ..) rfl ?_
    refine Keeps.via (State.flushLevel_keeps ..) rfl ?_
    exact Keeps.via (State.finishProofs_keeps ..) rfl Keeps.refl
  · exact Keeps.refl


theorem State.channelSave_keeps (s : State) (c : Nat) : Keeps [.regs, .events, .tins, .larder, .pool, .corr, .noc, .dram, .breadbox, .pads, .mac, .cfg, .free] s (State.channelSave s c) := by
  unfold State.channelSave
  try extract_lets
  refine Keeps.ite (fun _ => ?_) (fun _ => ?_)
  · refine Keeps.via (State.setChState_keeps ..) rfl ?_
    refine Keeps.via (State.engineOff_keeps ..) rfl ?_
    refine Keeps.via (State.selfRefresh_keeps ..) rfl ?_
    exact Keeps.via (State.sealSave_keeps ..) rfl Keeps.refl
  · refine Keeps.via (State.engineOff_keeps ..) rfl ?_
    refine Keeps.via (State.selfRefresh_keeps ..) rfl ?_
    exact Keeps.via (State.sealSave_keeps ..) rfl Keeps.refl


theorem State.dropFlights_keeps (s : State) (d : Nat) : Keeps [.noc] s (State.dropFlights s d) := by
  unfold State.dropFlights
  try extract_lets
  exact Keeps.upd_noc rfl Keeps.refl


theorem State.clearDie_keeps (s : State) (d : Nat) : Keeps [.regs, .tins, .ring, .laneIn, .laneOut, .seamCh, .noc, .clk, .mac, .dbg] s (State.clearDie s d) := by
  unfold State.clearDie
  try extract_lets
  refine Keeps.via (State.fset_keeps ..) rfl ?_
  refine Keeps.foldl (fun _ _ => ?_) ?_
  · exact Keeps.via (State.takeEpoch_keeps ..) rfl Keeps.refl
  · refine Keeps.via (State.nextEpoch_keeps ..) rfl ?_
    refine Keeps.foldl (fun _ _ => ?_) ?_
    · exact Keeps.via (State.fset_keeps ..) rfl Keeps.refl
    · refine Keeps.via (State.resetRegs_keeps ..) rfl ?_
      refine Keeps.via (State.dropFlights_keeps ..) rfl ?_
      refine Keeps.upd_ring_laneIn_laneOut_seamCh_clk_mac_dbg rfl ?_
      refine Keeps.foldl (fun _ _ => ?_) ?_
      · try extract_lets
        refine Keeps.ite (fun _ => ?_) (fun _ => ?_)
        · exact Keeps.refl
        · exact Keeps.via (State.setTin_keeps ..) rfl Keeps.refl
      · exact Keeps.refl


theorem State.keepFld_keeps (s : State) (old : State) (f : Fld) (p : Nat → Bool) : Keeps [.regs] s (State.keepFld s old f p) := by
  unfold State.keepFld
  refine Keeps.ite (fun _ => ?_) (fun _ => ?_)
  · exact Keeps.via (State.fset_keeps ..) rfl Keeps.refl
  · exact Keeps.refl


theorem State.dropProofs_keeps (s : State) (d : Nat) : Keeps [.regs, .events, .tins, .dram] s (State.dropProofs s d) := by
  unfold State.dropProofs
  refine Keeps.foldl (fun _ _ => ?_) ?_
  · try extract_lets
    refine Keeps.foldl (fun _ _ => ?_) ?_
    · exact Keeps.via (State.proofLost_keeps ..) rfl Keeps.refl
    · exact Keeps.via (State.setChan_keeps ..) rfl Keeps.refl
  · exact Keeps.refl


theorem State.facesLost_keeps (s : State) (d : Nat) : Keeps [.regs, .events, .seamCh] s (State.facesLost s d) := by
  unfold State.facesLost
  try extract_lets
  refine Keeps.ite (fun _ => ?_) (fun _ => ?_)
  · refine Keeps.via (State.seamPeerLost_keeps ..) rfl ?_
    refine Keeps.ite (fun _ => ?_) (fun _ => ?_)
    · exact Keeps.via (State.seamPeerLost_keeps ..) rfl Keeps.refl
    · exact Keeps.refl
  · refine Keeps.ite (fun _ => ?_) (fun _ => ?_)
    · exact Keeps.via (State.seamPeerLost_keeps ..) rfl Keeps.refl
    · exact Keeps.refl


theorem State.inventory_keeps (s : State) (old : State) : Keeps [.regs] s (State.inventory s old) := by
  unfold State.inventory
  try extract_lets
  refine Keeps.foldl (fun _ _ => ?_) ?_
  · refine Keeps.via (State.keepFld_keeps ..) rfl ?_
    exact Keeps.via (State.keepFld_keeps ..) rfl Keeps.refl
  · refine Keeps.via (State.fset_keeps ..) rfl ?_
    refine Keeps.via (State.fset_keeps ..) rfl ?_
    refine Keeps.via (State.fset_keeps ..) rfl ?_
    refine Keeps.foldl (fun _ _ => ?_) ?_
    · exact Keeps.via (State.keepFld_keeps ..) rfl Keeps.refl
    · refine Keeps.foldl (fun _ _ => ?_) ?_
      · exact Keeps.via (State.keepFld_keeps ..) rfl Keeps.refl
      · refine Keeps.foldl (fun _ _ => ?_) ?_
        · exact Keeps.via (State.keepFld_keeps ..) rfl Keeps.refl
        · exact Keeps.refl


theorem rolesOk_range : rolesOk (List.range 13) := ⟨by simp, by simp⟩

theorem State.hardReset_keeps (s : State) (por : Bool) : Keeps [.regs, .events, .now, .roles, .tins, .ring, .laneIn, .laneOut, .seamCh, .dozens, .bench, .foldMap, .kept, .dieCopy, .dueSeq, .vgoal, .larder, .pool, .corr, .noc, .dram, .breadbox, .pads, .lanes, .eqTable, .clk, .time, .mac, .dbg, .mgc, .hqe, .cfg, .spr, .ptm, .away, .smbus, .answer] s (State.hardReset s por) := by
  unfold State.hardReset
  extract_lets base stopped
  refine Keeps.ite (fun _ => ?_) (fun _ => ?_)
  · refine Keeps.via (State.allCause_keeps ..) rfl ?_
    exact ⟨fun p hp => by cases p <;> first | exact absurd (by decide) hp | rfl, fun i => ⟨rfl, rfl, rfl, fun _ => rolesOk_range⟩⟩
  · extract_lets retired
    refine Keeps.via (State.allCause_keeps ..) rfl ?_
    refine Keeps.via (State.inventory_keeps ..) rfl ?_
    exact ⟨fun p hp => by cases p <;> first | exact absurd (by decide) hp | rfl, fun i => ⟨rfl, rfl, memDrop_wf (p := fun k => decide (0x4000 ≤ k) && decide (k < 0x6000)) i.breadbox, fun _ => rolesOk_range⟩⟩


theorem State.latchPads_keeps (s : State) (d : Nat) : Keeps [.regs, .pads] s (State.latchPads s d) := by
  unfold State.latchPads
  try extract_lets
  refine Keeps.via (State.fset_keeps ..) rfl ?_
  refine Keeps.foldl (fun _ _ => ?_) ?_
  · exact Keeps.via (State.setPad_keeps ..) rfl Keeps.refl
  · exact Keeps.refl


theorem State.postLost_keeps (s : State) (d : Nat) (l : List Nat) : Keeps [.events] s (State.postLost s d l) := by
  unfold State.postLost
  refine Keeps.foldl (fun _ _ => ?_) ?_
  · exact Keeps.via (State.tinPost_keeps ..) rfl Keeps.refl
  · exact Keeps.refl


theorem State.reloadRole_keeps (s : State) (d : Nat) (r : Nat) (held : Nat) : Keeps [.regs, .events, .tins, .ring] s (State.reloadRole s d r held) := by
  unfold State.reloadRole
  try extract_lets
  refine Keeps.ite (fun _ => ?_) (fun _ => ?_)
  · exact Keeps.refl
  · split
    · refine Keeps.via (State.releaseTin_keeps ..) rfl ?_
      refine Keeps.via (State.loadCopy_keeps ..) rfl ?_
      exact Keeps.via (State.addEntries_keeps ..) rfl Keeps.refl
    · refine Keeps.ite (fun _ => ?_) (fun _ => ?_)
      · exact Keeps.via (State.stopRole_keeps ..) rfl Keeps.refl
      · exact Keeps.refl


theorem State.restTins_keeps (s : State) (d : Nat) : Keeps [.regs] s (State.restTins s d) := by
  unfold State.restTins
  refine Keeps.foldl (fun _ _ => ?_) ?_
  · try extract_lets
    refine Keeps.ite (fun _ => ?_) (fun _ => ?_)
    · exact Keeps.refl
    · exact Keeps.via (State.setTinState_keeps ..) rfl Keeps.refl
  · exact Keeps.refl


theorem State.returnDie_keeps (s : State) (d : Nat) (bad : List Nat) : Keeps [.regs, .events, .roles, .tins, .ring, .hqe, .away] s (State.returnDie s d bad) := by
  unfold State.returnDie
  try extract_lets
  refine Keeps.via (State.post_keeps ..) rfl ?_
  refine Keeps.via (State.finishWait_keeps ..) rfl ?_
  refine Keeps.upd_away rfl ?_
  refine Keeps.foldl (fun _ _ => ?_) ?_
  · exact Keeps.via (State.reloadRole_keeps ..) rfl Keeps.refl
  · refine Keeps.via (State.fset_keeps ..) rfl ?_
    try dsimp +zetaDelta only
    split
    · refine Keeps.via (State.addEntries_keeps ..) rfl ?_
      refine Keeps.via (State.restTins_keeps ..) rfl ?_
      refine Keeps.via (State.postLost_keeps ..) rfl ?_
      refine Keeps.ite (fun _ => ?_) (fun _ => ?_)
      · refine Keeps.foldl (fun _ _ => ?_) ?_
        · exact Keeps.via (State.retireTin_keeps ..) rfl Keeps.refl
        · exact Keeps.refl
      · refine Keeps.via (State.assignRoles_keeps ..) rfl ?_
        refine Keeps.foldl (fun _ _ => ?_) ?_
        · exact Keeps.via (State.retireTin_keeps ..) rfl Keeps.refl
        · exact Keeps.refl
    · refine Keeps.via (State.restTins_keeps ..) rfl ?_
      refine Keeps.via (State.postLost_keeps ..) rfl ?_
      refine Keeps.ite (fun _ => ?_) (fun _ => ?_)
      · refine Keeps.foldl (fun _ _ => ?_) ?_
        · exact Keeps.via (State.retireTin_keeps ..) rfl Keeps.refl
        · exact Keeps.refl
      · refine Keeps.via (State.assignRoles_keeps ..) rfl ?_
        refine Keeps.foldl (fun _ _ => ?_) ?_
        · exact Keeps.via (State.retireTin_keeps ..) rfl Keeps.refl
        · exact Keeps.refl


theorem State.takeAway_keeps (s : State) (d : Nat) (st : Nat) (cause : Nat) : Keeps [.regs, .events, .tins, .seamCh, .larder, .pool, .corr, .pads, .lanes, .time, .mac, .hqe, .cfg, .spr, .away, .free] s (State.takeAway s d st cause) := by
  unfold State.takeAway
  try extract_lets
  refine Keeps.foldl (fun _ _ => ?_) ?_
  · exact Keeps.via (State.laneReach_keeps ..) rfl Keeps.refl
  · refine Keeps.upd_time_away rfl ?_
    refine Keeps.foldl (fun _ _ => ?_) ?_
    · try extract_lets
      refine Keeps.ite (fun _ => ?_) (fun _ => ?_)
      · exact Keeps.refl
      · exact Keeps.via (State.setTin_keeps ..) rfl Keeps.refl
    · refine Keeps.via (State.fset_keeps ..) rfl ?_
      refine Keeps.via (State.fset_keeps ..) rfl ?_
      refine Keeps.via (State.facesLost_keeps ..) rfl ?_
      refine Keeps.via (State.latchPads_keeps ..) rfl ?_
      refine Keeps.via (State.abortDie_keeps ..) rfl ?_
      exact Keeps.via (State.loadDieLost_keeps ..) rfl Keeps.refl


end Sys2Proof.Machine
end

