-- ==== Sys2Proof/Laws/Keeps/Fabric.lean ====
section
/-! SUPPORT. What the operations of Machine/Fabric.lean may change, and that they keep the invariant. -/

namespace Sys2Proof.Machine

theorem execHoldAckFall_keeps (t : TinIx) (b : Fin 2048) (c : Fin 16) (m : Fin 4) (s : State) : OutKeeps [.tins] s (execHoldAckFall t b c m s) := by
  unfold execHoldAckFall
  try extract_lets
  refine OutKeeps.ite (fun _ => ?_) (fun _ => ?_)
  · refine OutKeeps.next ?_
    exact Keeps.via (State.setTin_keeps ..) rfl Keeps.refl
  · refine OutKeeps.next ?_
    exact Keeps.refl


theorem execHoldAcknowledge_keeps (t : TinIx) (b : Fin 2048) (c : Fin 16) (m : Fin 4) (s : State) : OutKeeps [.tins] s (execHoldAcknowledge t b c m s) := by
  unfold execHoldAcknowledge
  try extract_lets
  refine OutKeeps.ite (fun _ => ?_) (fun _ => ?_)
  · refine OutKeeps.next ?_
    exact Keeps.via (State.setTin_keeps ..) rfl Keeps.refl
  · refine OutKeeps.next ?_
    exact Keeps.refl


theorem execHoldEmpty_keeps (t : TinIx) (b : Fin 2048) (c : Fin 16) (m : Fin 4) (s : State) : OutKeeps [.tins] s (execHoldEmpty t b c m s) := by
  unfold execHoldEmpty
  try extract_lets
  refine OutKeeps.ite (fun _ => ?_) (fun _ => ?_)
  · refine OutKeeps.next ?_
    exact Keeps.via (State.setTin_keeps ..) rfl Keeps.refl
  · refine OutKeeps.next ?_
    exact Keeps.refl


end Sys2Proof.Machine
end

