-- ==== Sys2Proof/Laws/Keeps/HqeCmd.lean ====
section
/-! SUPPORT. What the operations of Machine/HqeCmd.lean may change, and that they keep the invariant. -/

namespace Sys2Proof.Machine

theorem State.beginDelete_keeps (s : State) (t : Nat) (cids : List Nat) : Keeps [.regs, .events, .tins, .hqe, .cfg] s (State.beginDelete s t cids) := by
  unfold State.beginDelete
  try extract_lets
  refine Keeps.via (State.setQueue_keeps ..) rfl ?_
  refine Keeps.ite (fun _ => ?_) (fun _ => ?_)
  · exact Keeps.via (State.chainBreak_keeps ..) rfl Keeps.refl
  · exact Keeps.refl


theorem State.adminDisable_keeps (s : State) (cids : List Nat) : Keeps [.regs, .events, .tins, .hqe, .cfg] s (State.adminDisable s cids) := by
  unfold State.adminDisable
  refine Keeps.ite (fun _ => ?_) (fun _ => ?_)
  · exact Keeps.refl
  · refine Keeps.via (State.settleQueue_keeps ..) rfl ?_
    exact Keeps.via (State.beginDelete_keeps ..) rfl Keeps.refl


theorem State.adminEnable_keeps (s : State) : Keeps [.hqe] s (State.adminEnable s) := by
  unfold State.adminEnable
  refine Keeps.ite (fun _ => ?_) (fun _ => ?_)
  · exact Keeps.refl
  · exact Keeps.via (State.setQueue_keeps ..) rfl Keeps.refl


theorem State.clearMsix_keeps (s : State) (p : Nat → Bool) : Keeps [.hqe] s (State.clearMsix s p) := by
  unfold State.clearMsix
  exact Keeps.upd_hqe rfl Keeps.refl


theorem State.disableQueue_keeps (s : State) (t : Nat) : Keeps [.regs, .events, .tins, .hqe, .cfg] s (State.disableQueue s t) := by
  unfold State.disableQueue
  try extract_lets
  refine Keeps.ite (fun _ => ?_) (fun _ => ?_)
  · refine Keeps.via (State.fset_keeps ..) rfl ?_
    refine Keeps.via (State.setQueue_keeps ..) rfl ?_
    refine Keeps.ite (fun _ => ?_) (fun _ => ?_)
    · exact Keeps.via (State.chainBreak_keeps ..) rfl Keeps.refl
    · exact Keeps.refl
  · refine Keeps.via (State.setQueue_keeps ..) rfl ?_
    refine Keeps.ite (fun _ => ?_) (fun _ => ?_)
    · exact Keeps.via (State.chainBreak_keeps ..) rfl Keeps.refl
    · exact Keeps.refl


theorem State.disableQueues_keeps (s : State) (p : Nat → Bool) : Keeps [.regs, .events, .tins, .hqe, .cfg] s (State.disableQueues s p) := by
  unfold State.disableQueues
  try extract_lets
  refine Keeps.foldl (fun _ _ => ?_) ?_
  · exact Keeps.via (State.finishWait_keeps ..) rfl Keeps.refl
  · refine Keeps.foldl (fun _ _ => ?_) ?_
    · exact Keeps.via (State.disableQueue_keeps ..) rfl Keeps.refl
    · exact Keeps.refl


theorem State.granuleEnd_keeps (s : State) (g : Nat) : Keeps [.regs, .events, .dram, .hqe] s (State.granuleEnd s g) := by
  unfold State.granuleEnd
  split
  · exact Keeps.refl
  · split
    · exact Keeps.refl
    · try extract_lets
      refine Keeps.via (State.endJob_keeps ..) rfl ?_
      refine Keeps.ite (fun _ => ?_) (fun _ => ?_)
      · exact Keeps.via (State.setGran_keeps ..) rfl Keeps.refl
      · exact Keeps.refl


theorem State.queueCommand_via {M : List Part} {s t : State} {q op : Nat} {states : List Nat} {fields : Nat → Desc → Bool}
    {go : State → Nat → Job → Nat → State}
    (hs : Part.sub [.regs, .events, .hqe] M = true) (hgo : ∀ u k j n, Keeps M u (go u k j n)) (k : Keeps M s t) :
    Keeps M s (State.queueCommand t q op states fields go) := by
  unfold State.queueCommand
  split
  · exact k
  · exact Keeps.ite (fun _ => Keeps.via (State.mgmtEnd_keeps ..) (Part.sub_trans rfl hs) k) (fun _ => Keeps.ite (fun _ => Keeps.via (State.mgmtEnd_keeps ..) (Part.sub_trans rfl hs) k)
      (fun _ => Keeps.ite (fun _ => Keeps.via (State.mgmtEnd_keeps ..) (Part.sub_trans rfl hs) k) (fun _ => Keeps.trans (hgo _ _ _ _) (Keeps.via (State.clearOut_keeps ..) (Part.sub_trans rfl hs) k))))


theorem State.resetHqe_keeps (s : State) (scope : Nat) : Keeps [.regs, .events, .tins, .hqe, .cfg] s (State.resetHqe s scope) := by
  unfold State.resetHqe
  try extract_lets
  refine Keeps.via (State.fset_keeps ..) rfl ?_
  refine Keeps.via (State.fset_keeps ..) rfl ?_
  refine Keeps.via (State.resetRegs_keeps ..) rfl ?_
  refine Keeps.upd_hqe rfl ?_
  refine Keeps.foldl (fun _ _ => ?_) ?_
  · refine Keeps.ite (fun _ => ?_) (fun _ => ?_)
    · exact Keeps.refl
    · exact Keeps.via (State.setQueue_keeps ..) rfl Keeps.refl
  · refine Keeps.via (State.clearMsix_keeps ..) rfl ?_
    exact Keeps.via (State.disableQueues_keeps ..) rfl Keeps.refl


theorem State.setMinSev_keeps (s : State) (t : Nat) (sev : Nat) : Keeps [.events] s (State.setMinSev s t sev) := by
  unfold State.setMinSev
  refine Keeps.ite (fun _ => ?_) (fun _ => ?_)
  · exact Keeps.upd_events rfl Keeps.refl
  · refine Keeps.ite (fun _ => ?_) (fun _ => ?_)
    · exact Keeps.upd_events rfl Keeps.refl
    · exact Keeps.refl


theorem State.storeEnd_keeps (s : State) : Keeps [.regs, .events, .hqe] s (State.storeEnd s) := by
  unfold State.storeEnd
  split
  · exact Keeps.refl
  · split
    · exact Keeps.refl
    · refine Keeps.ite (fun _ => ?_) (fun _ => ?_)
      · exact Keeps.refl
      · refine Keeps.via (State.endJob_keeps ..) rfl ?_
        exact Keeps.via (State.fset_keeps ..) rfl Keeps.refl


theorem execQueuePause_keeps (q : QueueIx) (s : State) : OutKeeps [.regs, .events, .hqe] s (execQueuePause q s) := by
  unfold execQueuePause
  refine OutKeeps.next ?_
  refine State.queueCommand_via rfl (fun _ _ _ _ => ?_) ?_
  · refine Keeps.via (State.endJob_keeps ..) rfl ?_
    exact Keeps.via (State.setQueue_keeps ..) rfl Keeps.refl
  · exact Keeps.refl


theorem execClusterEventMove_keeps (s : State) : OutKeeps [.events, .larder, .mgc] s (execClusterEventMove s) := by
  unfold execClusterEventMove
  try extract_lets
  refine OutKeeps.ite (fun _ => ?_) (fun _ => ?_)
  · refine OutKeeps.next ?_
    exact Keeps.refl
  · split
    · refine OutKeeps.next ?_
      exact Keeps.refl
    · try extract_lets
      refine OutKeeps.next ?_
      refine Keeps.upd_events_larder_mgc rfl ?_ ?_
      rotate_left
      · exact Larder.write_markWords_wf
      exact Keeps.refl


theorem execResealRange_keeps (q : QueueIx) (s : State) : OutKeeps [.regs, .events, .dram, .hqe] s (execResealRange q s) := by
  unfold execResealRange
  refine OutKeeps.next ?_
  refine State.command_via rfl (fun _ _ _ => ?_) ?_
  · try extract_lets
    refine Keeps.ite (fun _ => ?_) (fun _ => ?_)
    · exact Keeps.via (State.mgmtEnd_keeps ..) rfl Keeps.refl
    · refine Keeps.ite (fun _ => ?_) (fun _ => ?_)
      · exact Keeps.via (State.mgmtEnd_keeps ..) rfl Keeps.refl
      · refine Keeps.via (State.mgmtWait_keeps ..) rfl ?_
        exact Keeps.via (State.setGran_keeps ..) rfl Keeps.refl
  · exact Keeps.refl


theorem execGranuleRefillDone_keeps (g : Fin 128) (s : State) : OutKeeps [.regs, .events, .dram, .hqe, .free] s (execGranuleRefillDone g s) := by
  unfold execGranuleRefillDone
  refine OutKeeps.ite (fun _ => ?_) (fun _ => ?_)
  · refine OutKeeps.next ?_
    exact Keeps.refl
  · refine OutKeeps.next ?_
    refine Keeps.via (State.storeEnd_keeps ..) rfl ?_
    refine Keeps.via (State.granuleEnd_keeps ..) rfl ?_
    refine Keeps.via (State.refillDone_keeps ..) rfl ?_
    exact Keeps.via (State.clearOut_keeps ..) rfl Keeps.refl


theorem execHostCompletionTimeout_keeps (q : QueueIx) (k : Nat) (s : State) : OutKeeps [.regs, .events, .tins, .larder, .pool, .corr, .noc, .dram, .breadbox, .pads, .mac, .hqe, .cfg, .answer, .free] s (execHostCompletionTimeout q k s) := by
  unfold execHostCompletionTimeout
  split
  · refine OutKeeps.next ?_
    exact Keeps.refl
  · split
    · refine OutKeeps.next ?_
      exact Keeps.via (State.copyToDevice_keeps ..) rfl Keeps.refl
    · refine OutKeeps.next ?_
      exact Keeps.via (State.streamSend_keeps ..) rfl Keeps.refl
    · refine OutKeeps.next ?_
      exact Keeps.via (State.loadImage_keeps ..) rfl Keeps.refl
    · refine OutKeeps.next ?_
      exact Keeps.refl


theorem execQueueReset_keeps (q : QueueIx) (s : State) : OutKeeps [.regs, .events, .hqe] s (execQueueReset q s) := by
  unfold execQueueReset
  refine OutKeeps.next ?_
  refine State.queueCommand_via rfl (fun _ _ _ _ => ?_) ?_
  · refine Keeps.via (State.endJob_keeps ..) rfl ?_
    refine Keeps.via (State.heldBells_keeps ..) rfl ?_
    exact Keeps.via (State.setQueue_keeps ..) rfl Keeps.refl
  · exact Keeps.refl


theorem execQueueQuery_keeps (q : QueueIx) (s : State) : OutKeeps [.regs, .events, .hqe] s (execQueueQuery q s) := by
  unfold execQueueQuery
  refine OutKeeps.next ?_
  refine State.queueCommand_via rfl (fun _ _ _ _ => ?_) ?_
  · exact Keeps.via (State.endJob_keeps ..) rfl Keeps.refl
  · exact Keeps.refl


theorem execSealResealed_keeps (g : Fin 128) (s : State) : OutKeeps [.regs, .events, .dram, .hqe, .free] s (execSealResealed g s) := by
  unfold execSealResealed
  refine OutKeeps.ite (fun _ => ?_) (fun _ => ?_)
  · refine OutKeeps.next ?_
    exact Keeps.refl
  · refine OutKeeps.next ?_
    refine Keeps.via (State.finishWait_keeps ..) rfl ?_
    refine Keeps.via (State.resealDone_keeps ..) rfl ?_
    exact Keeps.via (State.clearOut_keeps ..) rfl Keeps.refl


theorem execQueueDelete_keeps (q : QueueIx) (cids : List (Fin 65536)) (s : State) : OutKeeps [.regs, .events, .tins, .hqe, .cfg] s (execQueueDelete q cids s) := by
  unfold execQueueDelete
  refine OutKeeps.next ?_
  refine State.queueCommand_via rfl (fun _ _ _ _ => ?_) ?_
  · refine Keeps.ite (fun _ => ?_) (fun _ => ?_)
    · exact Keeps.refl
    · refine Keeps.via (State.settleQueue_keeps ..) rfl ?_
      refine Keeps.via (State.beginDelete_keeps ..) rfl ?_
      exact Keeps.via (State.mgmtWait_keeps ..) rfl Keeps.refl
  · exact Keeps.refl


theorem execQueueCreate_keeps (q : QueueIx) (s : State) : OutKeeps [.regs, .events, .hqe] s (execQueueCreate q s) := by
  unfold execQueueCreate
  refine OutKeeps.next ?_
  refine State.queueCommand_via rfl (fun _ _ _ _ => ?_) ?_
  · try extract_lets
    refine Keeps.ite (fun _ => ?_) (fun _ => ?_)
    · exact Keeps.via (State.mgmtEnd_keeps ..) rfl Keeps.refl
    · refine Keeps.ite (fun _ => ?_) (fun _ => ?_)
      · exact Keeps.via (State.mgmtEnd_keeps ..) rfl Keeps.refl
      · refine Keeps.via (State.endJob_keeps ..) rfl ?_
        refine Keeps.via (State.setMinSev_keeps ..) rfl ?_
        exact Keeps.via (State.setQueue_keeps ..) rfl Keeps.refl
  · exact Keeps.refl


theorem execQueueAssign_keeps (q : QueueIx) (s : State) : OutKeeps [.regs, .events, .hqe] s (execQueueAssign q s) := by
  unfold execQueueAssign
  refine OutKeeps.next ?_
  refine State.queueCommand_via rfl (fun _ _ _ _ => ?_) ?_
  · try extract_lets
    refine Keeps.ite (fun _ => ?_) (fun _ => ?_)
    · exact Keeps.via (State.mgmtEnd_keeps ..) rfl Keeps.refl
    · refine Keeps.via (State.endJob_keeps ..) rfl ?_
      exact Keeps.via (State.setQueue_keeps ..) rfl Keeps.refl
  · exact Keeps.refl


theorem execFlr_keeps (fn : Fin 66) (s : State) : OutKeeps [.regs, .events, .tins, .hqe, .cfg] s (execFlr fn s) := by
  unfold execFlr
  refine OutKeeps.ite (fun _ => ?_) (fun _ => ?_)
  · try extract_lets
    refine OutKeeps.next ?_
    refine Keeps.upd_events rfl ?_
    refine Keeps.via (State.clearMsix_keeps ..) rfl ?_
    refine Keeps.via (State.disableQueues_keeps ..) rfl ?_
    exact Keeps.via (State.clearOut_keeps ..) rfl Keeps.refl
  · refine OutKeeps.next ?_
    exact Keeps.refl


theorem execPerstN_keeps (s : State) : OutKeeps [.regs, .events, .tins, .hqe, .cfg] s (execPerstN s) := by
  unfold execPerstN
  refine OutKeeps.ite (fun _ => ?_) (fun _ => ?_)
  · refine OutKeeps.next ?_
    refine Keeps.via (State.resetHqe_keeps ..) rfl ?_
    exact Keeps.via (State.clearOut_keeps ..) rfl Keeps.refl
  · refine OutKeeps.next ?_
    exact Keeps.refl


theorem execStoreSet_keeps (q : QueueIx) (s : State) : OutKeeps [.regs, .events, .dram, .hqe] s (execStoreSet q s) := by
  unfold execStoreSet
  refine OutKeeps.next ?_
  refine State.command_via rfl (fun _ _ _ => ?_) ?_
  · try extract_lets
    refine Keeps.ite (fun _ => ?_) (fun _ => ?_)
    · exact Keeps.via (State.mgmtEnd_keeps ..) rfl Keeps.refl
    · refine Keeps.ite (fun _ => ?_) (fun _ => ?_)
      · refine Keeps.ite (fun _ => ?_) (fun _ => ?_)
        · exact Keeps.via (State.endJob_keeps ..) rfl Keeps.refl
        · exact Keeps.via (State.mgmtEnd_keeps ..) rfl Keeps.refl
      · refine Keeps.ite (fun _ => ?_) (fun _ => ?_)
        · exact Keeps.via (State.mgmtEnd_keeps ..) rfl Keeps.refl
        · refine Keeps.ite (fun _ => ?_) (fun _ => ?_)
          · exact Keeps.via (State.mgmtEnd_keeps ..) rfl Keeps.refl
          · refine Keeps.ite (fun _ => ?_) (fun _ => ?_)
            · exact Keeps.via (State.mgmtEnd_keeps ..) rfl Keeps.refl
            · refine Keeps.ite (fun _ => ?_) (fun _ => ?_)
              · exact Keeps.via (State.endJob_keeps ..) rfl Keeps.refl
              · try extract_lets
                refine Keeps.via (State.mgmtWait_keeps ..) rfl ?_
                refine Keeps.ite (fun _ => ?_) (fun _ => ?_)
                · refine Keeps.via (State.fset_keeps ..) rfl ?_
                  refine Keeps.foldl (fun _ _ => ?_) ?_
                  · exact Keeps.via (State.startRefill_keeps ..) rfl Keeps.refl
                  · exact Keeps.refl
                · refine Keeps.foldl (fun _ _ => ?_) ?_
                  · exact Keeps.via (State.startRefill_keeps ..) rfl Keeps.refl
                  · exact Keeps.refl
  · exact Keeps.refl


theorem execQueueResume_keeps (q : QueueIx) (s : State) : OutKeeps [.regs, .events, .hqe] s (execQueueResume q s) := by
  unfold execQueueResume
  refine OutKeeps.next ?_
  refine State.queueCommand_via rfl (fun _ _ _ _ => ?_) ?_
  · refine Keeps.via (State.endJob_keeps ..) rfl ?_
    refine Keeps.via (State.heldBells_keeps ..) rfl ?_
    exact Keeps.via (State.setQueue_keeps ..) rfl Keeps.refl
  · exact Keeps.refl


theorem execGranuleSet_keeps (q : QueueIx) (s : State) : OutKeeps [.regs, .events, .dram, .hqe] s (execGranuleSet q s) := by
  unfold execGranuleSet
  refine OutKeeps.next ?_
  refine State.command_via rfl (fun _ _ _ => ?_) ?_
  · try extract_lets
    split
    · exact Keeps.via (State.mgmtEnd_keeps ..) rfl Keeps.refl
    · refine Keeps.ite (fun _ => ?_) (fun _ => ?_)
      · exact Keeps.via (State.mgmtEnd_keeps ..) rfl Keeps.refl
      · refine Keeps.ite (fun _ => ?_) (fun _ => ?_)
        · try extract_lets
          refine Keeps.ite (fun _ => ?_) (fun _ => ?_)
          · exact Keeps.via (State.mgmtEnd_keeps ..) rfl Keeps.refl
          · refine Keeps.via (State.mgmtWait_keeps ..) rfl ?_
            exact Keeps.via (State.startRefill_keeps ..) rfl Keeps.refl
        · refine Keeps.via (State.endJob_keeps ..) rfl ?_
          refine Keeps.ite (fun _ => ?_) (fun _ => ?_)
          · exact Keeps.via (State.setGran_keeps ..) rfl Keeps.refl
          · exact Keeps.refl
  · exact Keeps.refl


end Sys2Proof.Machine
end

