-- ==== Sys2Proof/Laws/Keeps/Mixer.lean ====
section
/-! SUPPORT. What the operations of Machine/Mixer.lean may change, and that they keep the invariant. -/

namespace Sys2Proof.Machine

theorem execMixerOperation_keeps (t : TinIx) (q : MixerIx) (parity : Nat) (s : State) : OutKeeps [.events, .tins] s (execMixerOperation t q parity s) := by
  unfold execMixerOperation
  try extract_lets
  refine OutKeeps.ite (fun _ => ?_) (fun _ => ?_)
  · split
    · refine OutKeeps.next ?_
      exact Keeps.refl
    · try extract_lets
      refine OutKeeps.next ?_
      refine Keeps.ite (fun _ => ?_) (fun _ => ?_)
      · exact Keeps.via (State.setTin_keeps ..) rfl Keeps.refl
      · refine Keeps.via (State.post_keeps ..) rfl ?_
        exact Keeps.via (State.setTin_keeps ..) rfl Keeps.refl
  · refine OutKeeps.next ?_
    exact Keeps.refl


theorem execMixerSearch_keeps (t : TinIx) (q : MixerIx) (parity : Bool) (s : State) : OutKeeps [.events, .tins] s (execMixerSearch t q parity s) := by
  unfold execMixerSearch
  try extract_lets
  refine OutKeeps.ite (fun _ => ?_) (fun _ => ?_)
  · split
    · try extract_lets
      refine OutKeeps.next ?_
      refine Keeps.ite (fun _ => ?_) (fun _ => ?_)
      · refine Keeps.via (State.post_keeps ..) rfl ?_
        exact Keeps.via (State.setTin_keeps ..) rfl Keeps.refl
      · exact Keeps.via (State.setTin_keeps ..) rfl Keeps.refl
    · refine OutKeeps.next ?_
      exact Keeps.refl
  · refine OutKeeps.next ?_
    exact Keeps.refl


end Sys2Proof.Machine
end

