-- ==== Sys2Proof/Laws/Keeps/Reset.lean ====
section
/-! SUPPORT. What the operations of Machine/Reset.lean may change, and that they keep the invariant. -/

namespace Sys2Proof.Machine

theorem State.bootRegs_keeps (s : State) (b : BootSettings) : Keeps [.regs] s (State.bootRegs s b) := by
  unfold State.bootRegs
  try extract_lets
  refine Keeps.via (State.fset_keeps ..) rfl ?_
  refine Keeps.via (State.fset_keeps ..) rfl ?_
  refine Keeps.ite (fun _ => ?_) (fun _ => ?_)
  · refine Keeps.via (State.fset_keeps ..) rfl ?_
    refine Keeps.foldl (fun _ _ => ?_) ?_
    · refine Keeps.via (State.fset_keeps ..) rfl ?_
      refine Keeps.via (State.fset_keeps ..) rfl ?_
      refine Keeps.via (State.fset_keeps ..) rfl ?_
      refine Keeps.via (State.fset_keeps ..) rfl ?_
      refine Keeps.via (State.fset_keeps ..) rfl ?_
      exact Keeps.via (State.fset_keeps ..) rfl Keeps.refl
    · exact Keeps.refl
  · refine Keeps.foldl (fun _ _ => ?_) ?_
    · refine Keeps.via (State.fset_keeps ..) rfl ?_
      refine Keeps.via (State.fset_keeps ..) rfl ?_
      refine Keeps.via (State.fset_keeps ..) rfl ?_
      refine Keeps.via (State.fset_keeps ..) rfl ?_
      refine Keeps.via (State.fset_keeps ..) rfl ?_
      exact Keeps.via (State.fset_keeps ..) rfl Keeps.refl
    · exact Keeps.refl


theorem State.dieLost_keeps (s : State) (d : Nat) : Keeps [.regs, .events, .hqe] s (State.dieLost s d) := by
  unfold State.dieLost
  refine Keeps.via (State.finishWait_keeps ..) rfl ?_
  refine Keeps.via (State.post_keeps ..) rfl ?_
  exact Keeps.via (State.fset_keeps ..) rfl Keeps.refl


theorem State.hubForget_keeps (s : State) (n : Nat) : Keeps [.noc] s (State.hubForget s n) := by
  unfold State.hubForget
  try extract_lets
  exact Keeps.upd_noc rfl Keeps.refl


theorem State.loadBaselines_keeps (s : State) (bad : List TinIx) : Keeps [.regs] s (State.loadBaselines s bad) := by
  unfold State.loadBaselines
  refine Keeps.foldl (fun _ _ => ?_) ?_
  · exact Keeps.via (State.fset_keeps ..) rfl Keeps.refl
  · exact Keeps.refl


theorem State.powerBack_keeps (s : State) (d : Nat) : Keeps [.regs, .tins, .ring, .laneIn, .laneOut, .seamCh, .vgoal, .noc, .clk, .mac, .dbg, .away] s (State.powerBack s d) := by
  unfold State.powerBack
  try extract_lets
  refine Keeps.via (State.fset_keeps ..) rfl ?_
  try extract_lets
  refine Keeps.upd_vgoal_away rfl ?_
  exact Keeps.via (State.clearDie_keeps ..) rfl Keeps.refl


theorem State.resetUnit_via {M : List Part} {s t : State} {q : Nat} {mine : Nat → Bool} {go : State → Nat → Job → State}
    (hs : Part.sub [.regs, .events, .hqe] M = true) (hgo : ∀ u k j, Keeps M u (go u k j)) (h : Keeps M s t) : Keeps M s (State.resetUnit t q mine go) := by
  unfold State.resetUnit
  split
  · exact h
  · exact Keeps.ite (fun _ => State.command_via (Part.sub_trans rfl hs) hgo h) (fun _ => h)


theorem State.sample_keeps (s : State) (straps : Nat) : Keeps [.regs, .straps] s (State.sample s straps) := by
  unfold State.sample
  try extract_lets
  refine Keeps.upd_straps rfl ?_
  exact Keeps.via (State.fset_keeps ..) rfl Keeps.refl


theorem State.startCores_keeps (s : State) (bad : Nat) : Keeps [.regs, .events, .mgc] s (State.startCores s bad) := by
  unfold State.startCores
  try extract_lets
  refine Keeps.foldl (fun _ _ => ?_) ?_
  · refine Keeps.ite (fun _ => ?_) (fun _ => ?_)
    · exact Keeps.refl
    · try extract_lets
      refine Keeps.ite (fun _ => ?_) (fun _ => ?_)
      · refine Keeps.via (State.hartPost_keeps ..) rfl ?_
        refine Keeps.via (State.fset_keeps ..) rfl ?_
        exact Keeps.upd_mgc rfl Keeps.refl
      · refine Keeps.via (State.hartPost_keeps ..) rfl ?_
        refine Keeps.via (State.fset_keeps ..) rfl ?_
        exact Keeps.upd_mgc rfl Keeps.refl
  · refine Keeps.ite (fun _ => ?_) (fun _ => ?_)
    · exact Keeps.upd_mgc rfl Keeps.refl
    · exact Keeps.refl


theorem State.tinReset_keeps (s : State) (d : Nat) (r : Nat) : Keeps [.regs, .tins, .noc] s (State.tinReset s d r) := by
  unfold State.tinReset
  try extract_lets
  refine Keeps.via (State.setTinState_keeps ..) rfl ?_
  refine Keeps.via (State.newEpoch_keeps ..) rfl ?_
  refine Keeps.via (State.resetRegs_keeps ..) rfl ?_
  exact Keeps.via (State.setTin_keeps ..) rfl Keeps.refl


theorem State.warmReset_keeps (s : State) (ok : Nat) (ok4 : Bool) : Keeps [.regs, .events, .tins, .noc, .dbg, .mgc, .hqe, .cfg] s (State.warmReset s ok ok4) := by
  unfold State.warmReset
  try extract_lets
  refine Keeps.via (State.post_keeps ..) rfl ?_
  refine Keeps.via (State.hubForget_keeps ..) rfl ?_
  refine Keeps.via (State.hubForget_keeps ..) rfl ?_
  refine Keeps.upd_dbg rfl ?_
  refine Keeps.via (State.resetHqe_keeps ..) rfl ?_
  refine Keeps.via (State.resetRegs_keeps ..) rfl ?_
  refine Keeps.foldl (fun _ _ => ?_) ?_
  · exact Keeps.via (State.coreReset_keeps ..) rfl Keeps.refl
  · refine Keeps.via (State.setLevel_keeps ..) rfl ?_
    refine Keeps.ite (fun _ => ?_) (fun _ => ?_)
    · exact Keeps.via (State.fset_keeps ..) rfl Keeps.refl
    · exact Keeps.refl


theorem execSecBoot_keeps (b : BootSettings) (fuses : FuseRead) (selfOk : Bool) (trngOk : Bool) (s : State) : OutKeeps [.regs, .events, .tins, .larder, .pool, .corr, .dram, .breadbox, .pads, .mac, .fuses, .cfg, .free] s (execSecBoot b fuses selfOk trngOk s) := by
  unfold execSecBoot
  refine OutKeeps.ite (fun _ => ?_) (fun _ => ?_)
  · refine OutKeeps.next ?_
    exact Keeps.refl
  · try extract_lets
    refine OutKeeps.ite (fun _ => ?_) (fun _ => ?_)
    · refine OutKeeps.next ?_
      refine Keeps.via (State.securityHalt_keeps ..) rfl ?_
      refine Keeps.via (State.showFuses_keeps ..) rfl ?_
      refine Keeps.via (State.fset_keeps ..) rfl ?_
      exact Keeps.upd_fuses rfl Keeps.refl
    · refine OutKeeps.ite (fun _ => ?_) (fun _ => ?_)
      · refine OutKeeps.next ?_
        refine Keeps.via (State.securityHalt_keeps ..) rfl ?_
        refine Keeps.via (State.showFuses_keeps ..) rfl ?_
        refine Keeps.via (State.fset_keeps ..) rfl ?_
        exact Keeps.upd_fuses rfl Keeps.refl
      · refine OutKeeps.ite (fun _ => ?_) (fun _ => ?_)
        · refine OutKeeps.next ?_
          refine Keeps.via (State.securityHalt_keeps ..) rfl ?_
          refine Keeps.via (State.showFuses_keeps ..) rfl ?_
          refine Keeps.via (State.fset_keeps ..) rfl ?_
          exact Keeps.upd_fuses rfl Keeps.refl
        · try extract_lets
          refine OutKeeps.next ?_
          refine Keeps.ite (fun _ => ?_) (fun _ => ?_)
          · refine Keeps.ite (fun _ => ?_) (fun _ => ?_)
            · refine Keeps.ite (fun _ => ?_) (fun _ => ?_)
              · refine Keeps.via (State.post_keeps ..) rfl ?_
                refine Keeps.via (State.loadBaselines_keeps ..) rfl ?_
                refine Keeps.via (State.bootRegs_keeps ..) rfl ?_
                refine Keeps.via (State.fset_keeps ..) rfl ?_
                refine Keeps.via (State.fset_keeps ..) rfl ?_
                refine Keeps.via (State.showFuses_keeps ..) rfl ?_
                refine Keeps.via (State.fset_keeps ..) rfl ?_
                exact Keeps.upd_fuses rfl Keeps.refl
              · refine Keeps.via (State.loadBaselines_keeps ..) rfl ?_
                refine Keeps.via (State.bootRegs_keeps ..) rfl ?_
                refine Keeps.via (State.fset_keeps ..) rfl ?_
                refine Keeps.via (State.fset_keeps ..) rfl ?_
                refine Keeps.via (State.showFuses_keeps ..) rfl ?_
                refine Keeps.via (State.fset_keeps ..) rfl ?_
                exact Keeps.upd_fuses rfl Keeps.refl
            · refine Keeps.via (State.post_keeps ..) rfl ?_
              refine Keeps.ite (fun _ => ?_) (fun _ => ?_)
              · refine Keeps.via (State.post_keeps ..) rfl ?_
                refine Keeps.via (State.loadBaselines_keeps ..) rfl ?_
                refine Keeps.via (State.bootRegs_keeps ..) rfl ?_
                refine Keeps.via (State.fset_keeps ..) rfl ?_
                refine Keeps.via (State.fset_keeps ..) rfl ?_
                refine Keeps.via (State.showFuses_keeps ..) rfl ?_
                refine Keeps.via (State.fset_keeps ..) rfl ?_
                exact Keeps.upd_fuses rfl Keeps.refl
              · refine Keeps.via (State.loadBaselines_keeps ..) rfl ?_
                refine Keeps.via (State.bootRegs_keeps ..) rfl ?_
                refine Keeps.via (State.fset_keeps ..) rfl ?_
                refine Keeps.via (State.fset_keeps ..) rfl ?_
                refine Keeps.via (State.showFuses_keeps ..) rfl ?_
                refine Keeps.via (State.fset_keeps ..) rfl ?_
                exact Keeps.upd_fuses rfl Keeps.refl
          · refine Keeps.foldl (fun _ _ => ?_) ?_
            · exact Keeps.via (State.drawKeys_keeps ..) rfl Keeps.refl
            · refine Keeps.ite (fun _ => ?_) (fun _ => ?_)
              · refine Keeps.ite (fun _ => ?_) (fun _ => ?_)
                · refine Keeps.via (State.post_keeps ..) rfl ?_
                  refine Keeps.via (State.loadBaselines_keeps ..) rfl ?_
                  refine Keeps.via (State.bootRegs_keeps ..) rfl ?_
                  refine Keeps.via (State.fset_keeps ..) rfl ?_
                  refine Keeps.via (State.fset_keeps ..) rfl ?_
                  refine Keeps.via (State.showFuses_keeps ..) rfl ?_
                  refine Keeps.via (State.fset_keeps ..) rfl ?_
                  exact Keeps.upd_fuses rfl Keeps.refl
                · refine Keeps.via (State.loadBaselines_keeps ..) rfl ?_
                  refine Keeps.via (State.bootRegs_keeps ..) rfl ?_
                  refine Keeps.via (State.fset_keeps ..) rfl ?_
                  refine Keeps.via (State.fset_keeps ..) rfl ?_
                  refine Keeps.via (State.showFuses_keeps ..) rfl ?_
                  refine Keeps.via (State.fset_keeps ..) rfl ?_
                  exact Keeps.upd_fuses rfl Keeps.refl
              · refine Keeps.via (State.post_keeps ..) rfl ?_
                refine Keeps.ite (fun _ => ?_) (fun _ => ?_)
                · refine Keeps.via (State.post_keeps ..) rfl ?_
                  refine Keeps.via (State.loadBaselines_keeps ..) rfl ?_
                  refine Keeps.via (State.bootRegs_keeps ..) rfl ?_
                  refine Keeps.via (State.fset_keeps ..) rfl ?_
                  refine Keeps.via (State.fset_keeps ..) rfl ?_
                  refine Keeps.via (State.showFuses_keeps ..) rfl ?_
                  refine Keeps.via (State.fset_keeps ..) rfl ?_
                  exact Keeps.upd_fuses rfl Keeps.refl
                · refine Keeps.via (State.loadBaselines_keeps ..) rfl ?_
                  refine Keeps.via (State.bootRegs_keeps ..) rfl ?_
                  refine Keeps.via (State.fset_keeps ..) rfl ?_
                  refine Keeps.via (State.fset_keeps ..) rfl ?_
                  refine Keeps.via (State.showFuses_keeps ..) rfl ?_
                  refine Keeps.via (State.fset_keeps ..) rfl ?_
                  exact Keeps.upd_fuses rfl Keeps.refl


theorem execCfgErrNRelease_keeps (badCores : Fin 32) (s : State) : OutKeeps [.regs, .events, .roles, .mgc, .cfg] s (execCfgErrNRelease badCores s) := by
  unfold execCfgErrNRelease
  refine OutKeeps.ite (fun _ => ?_) (fun _ => ?_)
  · refine OutKeeps.next ?_
    exact Keeps.refl
  · try extract_lets
    refine OutKeeps.next ?_
    refine Keeps.upd_cfg rfl ?_
    refine Keeps.foldl (fun _ _ => ?_) ?_
    · try extract_lets
      refine Keeps.via (State.postLost_keeps ..) rfl ?_
      refine Keeps.via (State.restTins_keeps ..) rfl ?_
      exact Keeps.via (State.assignRoles_keeps ..) rfl Keeps.refl
    · exact Keeps.via (State.startCores_keeps ..) rfl Keeps.refl


theorem execDieReset_keeps (q : QueueIx) (s : State) : OutKeeps [.regs, .events, .tins, .seamCh, .larder, .pool, .corr, .noc, .dram, .breadbox, .pads, .lanes, .time, .mac, .hqe, .cfg, .spr, .away, .free] s (execDieReset q s) := by
  unfold execDieReset
  refine OutKeeps.next ?_
  refine State.resetUnit_via rfl (fun _ _ _ => ?_) ?_
  · try extract_lets
    refine Keeps.ite (fun _ => ?_) (fun _ => ?_)
    · exact Keeps.via (State.mgmtEnd_keeps ..) rfl Keeps.refl
    · refine Keeps.ite (fun _ => ?_) (fun _ => ?_)
      · exact Keeps.via (State.mgmtEnd_keeps ..) rfl Keeps.refl
      · try extract_lets
        refine Keeps.via (State.channelSave_keeps ..) rfl ?_
        refine Keeps.via (State.channelSave_keeps ..) rfl ?_
        refine Keeps.via (State.fsat_keeps ..) rfl ?_
        refine Keeps.via (State.takeAway_keeps ..) rfl ?_
        exact Keeps.via (State.mgmtWait_keeps ..) rfl Keeps.refl
  · exact Keeps.refl


theorem execClockLock_keeps (absent : Fin 16) (s : State) : OutKeeps [.regs, .events, .vgoal, .clk] s (execClockLock absent s) := by
  unfold execClockLock
  refine OutKeeps.ite (fun _ => ?_) (fun _ => ?_)
  · refine OutKeeps.next ?_
    exact Keeps.refl
  · try extract_lets
    refine OutKeeps.next ?_
    refine Keeps.foldl (fun _ _ => ?_) ?_
    · refine Keeps.ite (fun _ => ?_) (fun _ => ?_)
      · exact Keeps.refl
      · exact Keeps.via (State.setTinState_keeps ..) rfl Keeps.refl
    · refine Keeps.foldl (fun _ _ => ?_) ?_
      · try extract_lets
        refine Keeps.ite (fun _ => ?_) (fun _ => ?_)
        · try extract_lets
          refine Keeps.upd_vgoal_clk rfl ?_
          refine Keeps.via (State.fset_keeps ..) rfl ?_
          exact Keeps.via (State.fset_keeps ..) rfl Keeps.refl
        · refine Keeps.via (State.fset_keeps ..) rfl ?_
          try extract_lets
          refine Keeps.upd_vgoal_clk rfl ?_
          refine Keeps.via (State.fset_keeps ..) rfl ?_
          exact Keeps.via (State.fset_keeps ..) rfl Keeps.refl
      · refine Keeps.foldl (fun _ _ => ?_) ?_
        · refine Keeps.ite (fun _ => ?_) (fun _ => ?_)
          · exact Keeps.via (State.post_keeps ..) rfl Keeps.refl
          · exact Keeps.refl
        · refine Keeps.via (State.fset_keeps ..) rfl ?_
          refine Keeps.via (State.fset_keeps ..) rfl ?_
          refine Keeps.via (State.fset_keeps ..) rfl ?_
          exact Keeps.via (State.fset_keeps ..) rfl Keeps.refl


theorem execCoreReset_keeps (q : QueueIx) (ok : Bool) (ok4 : Bool) (s : State) : OutKeeps [.regs, .events, .mgc, .hqe] s (execCoreReset q ok ok4 s) := by
  unfold execCoreReset
  refine OutKeeps.next ?_
  refine State.resetUnit_via rfl (fun _ _ _ => ?_) ?_
  · try extract_lets
    refine Keeps.ite (fun _ => ?_) (fun _ => ?_)
    · exact Keeps.via (State.mgmtEnd_keeps ..) rfl Keeps.refl
    · refine Keeps.via (State.endJob_keeps ..) rfl ?_
      exact Keeps.via (State.coreReset_keeps ..) rfl Keeps.refl
  · exact Keeps.refl


theorem execResetN_keeps (straps : Fin 8) (s : State) : OutKeeps [.regs, .events, .now, .roles, .tins, .ring, .laneIn, .laneOut, .seamCh, .dozens, .bench, .foldMap, .kept, .dieCopy, .dueSeq, .vgoal, .larder, .pool, .corr, .noc, .dram, .breadbox, .pads, .lanes, .eqTable, .clk, .time, .mac, .dbg, .mgc, .hqe, .cfg, .spr, .ptm, .away, .smbus, .straps, .answer] s (execResetN straps s) := by
  unfold execResetN
  refine OutKeeps.ite (fun _ => ?_) (fun _ => ?_)
  · refine OutKeeps.next ?_
    exact Keeps.refl
  · try extract_lets
    refine OutKeeps.ite (fun _ => ?_) (fun _ => ?_)
    · refine OutKeeps.next ?_
      refine Keeps.via (State.post_keeps ..) rfl ?_
      refine Keeps.via (State.loadHaltRegs_keeps ..) rfl ?_
      refine Keeps.via (State.sample_keeps ..) rfl ?_
      exact Keeps.via (State.hardReset_keeps ..) rfl Keeps.refl
    · refine OutKeeps.next ?_
      refine Keeps.via (State.sample_keeps ..) rfl ?_
      exact Keeps.via (State.hardReset_keeps ..) rfl Keeps.refl


theorem execDiePowerLost_keeps (d : DieIx) (s : State) : OutKeeps [.regs, .events, .tins, .seamCh, .larder, .pool, .corr, .dram, .pads, .lanes, .time, .mac, .hqe, .cfg, .spr, .away, .free] s (execDiePowerLost d s) := by
  unfold execDiePowerLost
  try extract_lets
  refine OutKeeps.ite (fun _ => ?_) (fun _ => ?_)
  · refine OutKeeps.next ?_
    exact Keeps.refl
  · try extract_lets
    refine OutKeeps.next ?_
    refine Keeps.ite (fun _ => ?_) (fun _ => ?_)
    · refine Keeps.via (State.dieLost_keeps ..) rfl ?_
      refine Keeps.via (State.post_keeps ..) rfl ?_
      refine Keeps.via (State.channelLost_keeps ..) rfl ?_
      refine Keeps.via (State.channelLost_keeps ..) rfl ?_
      refine Keeps.via (State.fsat_keeps ..) rfl ?_
      refine Keeps.via (State.takeAway_keeps ..) rfl ?_
      refine Keeps.via (State.dropProofs_keeps ..) rfl ?_
      exact Keeps.via (State.clearOut_keeps ..) rfl Keeps.refl
    · refine Keeps.via (State.post_keeps ..) rfl ?_
      refine Keeps.via (State.channelLost_keeps ..) rfl ?_
      refine Keeps.via (State.channelLost_keeps ..) rfl ?_
      refine Keeps.via (State.fsat_keeps ..) rfl ?_
      refine Keeps.via (State.takeAway_keeps ..) rfl ?_
      refine Keeps.via (State.dropProofs_keeps ..) rfl ?_
      exact Keeps.via (State.clearOut_keeps ..) rfl Keeps.refl


theorem execTinReset_keeps (q : QueueIx) (s : State) : OutKeeps [.regs, .events, .tins, .noc, .hqe] s (execTinReset q s) := by
  unfold execTinReset
  refine OutKeeps.next ?_
  refine State.resetUnit_via rfl (fun _ _ _ => ?_) ?_
  · try extract_lets
    refine Keeps.ite (fun _ => ?_) (fun _ => ?_)
    · exact Keeps.via (State.mgmtEnd_keeps ..) rfl Keeps.refl
    · refine Keeps.ite (fun _ => ?_) (fun _ => ?_)
      · exact Keeps.via (State.mgmtEnd_keeps ..) rfl Keeps.refl
      · refine Keeps.ite (fun _ => ?_) (fun _ => ?_)
        · exact Keeps.via (State.mgmtEnd_keeps ..) rfl Keeps.refl
        · refine Keeps.via (State.endJob_keeps ..) rfl ?_
          exact Keeps.via (State.tinReset_keeps ..) rfl Keeps.refl
  · exact Keeps.refl


theorem execHubWarmReset_keeps (q : QueueIx) (ok : Fin 16) (ok4 : Bool) (s : State) : OutKeeps [.regs, .events, .tins, .noc, .dbg, .mgc, .hqe, .cfg] s (execHubWarmReset q ok ok4 s) := by
  unfold execHubWarmReset
  refine OutKeeps.next ?_
  refine State.resetUnit_via rfl (fun _ _ _ => ?_) ?_
  · refine Keeps.via (State.warmReset_keeps ..) rfl ?_
    exact Keeps.via (State.endJob_keeps ..) rfl Keeps.refl
  · exact Keeps.refl


theorem execDieReturned_keeps (d : DieIx) (bad : List (Fin 13)) (s : State) : OutKeeps [.regs, .events, .roles, .tins, .ring, .hqe, .away] s (execDieReturned d bad s) := by
  unfold execDieReturned
  refine OutKeeps.ite (fun _ => ?_) (fun _ => ?_)
  · refine OutKeeps.next ?_
    refine Keeps.via (State.returnDie_keeps ..) rfl ?_
    exact Keeps.via (State.clearOut_keeps ..) rfl Keeps.refl
  · refine OutKeeps.next ?_
    exact Keeps.refl


theorem execPowerOnReset_keeps (good : Bool) (straps : Fin 8) (s : State) : OutKeeps [.regs, .events, .now, .roles, .tins, .ring, .laneIn, .laneOut, .seamCh, .dozens, .bench, .foldMap, .kept, .dieCopy, .dueSeq, .vgoal, .larder, .pool, .corr, .noc, .dram, .breadbox, .pads, .lanes, .eqTable, .clk, .time, .mac, .dbg, .mgc, .hqe, .cfg, .spr, .ptm, .away, .smbus, .powerGood, .straps, .answer] s (execPowerOnReset good straps s) := by
  unfold execPowerOnReset
  refine OutKeeps.ite (fun _ => ?_) (fun _ => ?_)
  · refine OutKeeps.ite (fun _ => ?_) (fun _ => ?_)
    · refine OutKeeps.next ?_
      exact Keeps.refl
    · refine OutKeeps.next ?_
      try extract_lets
      refine Keeps.upd_powerGood rfl ?_
      exact Keeps.via (State.sample_keeps ..) rfl Keeps.refl
  · refine OutKeeps.next ?_
    try extract_lets
    refine Keeps.upd_powerGood rfl ?_
    exact Keeps.via (State.hardReset_keeps ..) rfl Keeps.refl


theorem execDiePowerRetry_keeps (d : DieIx) (holds : Bool) (s : State) : OutKeeps [.regs, .events, .tins, .ring, .laneIn, .laneOut, .seamCh, .vgoal, .noc, .clk, .mac, .dbg, .hqe, .ptm, .away] s (execDiePowerRetry d holds s) := by
  unfold execDiePowerRetry
  try extract_lets
  refine OutKeeps.ite (fun _ => ?_) (fun _ => ?_)
  · refine OutKeeps.next ?_
    exact Keeps.refl
  · refine OutKeeps.ite (fun _ => ?_) (fun _ => ?_)
    · try extract_lets
      refine OutKeeps.next ?_
      refine Keeps.via (State.powerBack_keeps ..) rfl ?_
      exact Keeps.upd_ptm rfl Keeps.refl
    · refine OutKeeps.next ?_
      refine Keeps.via (State.dieLost_keeps ..) rfl ?_
      exact Keeps.via (State.clearOut_keeps ..) rfl Keeps.refl


theorem execDieResetRelease_keeps (d : DieIx) (s : State) : OutKeeps [.regs, .tins, .ring, .laneIn, .laneOut, .seamCh, .noc, .clk, .mac, .dbg] s (execDieResetRelease d s) := by
  unfold execDieResetRelease
  refine OutKeeps.ite (fun _ => ?_) (fun _ => ?_)
  · refine OutKeeps.next ?_
    exact Keeps.via (State.clearDie_keeps ..) rfl Keeps.refl
  · refine OutKeeps.next ?_
    exact Keeps.refl


end Sys2Proof.Machine
end

