-- ==== Sys2Proof/Laws/Keeps/Ptm.lean ====
section
/-! SUPPORT. What the operations of Machine/Ptm.lean may change, and that they keep the invariant. -/

namespace Sys2Proof.Machine

theorem State.barBoost_keeps (s : State) (d : Nat) : Keeps [.ptm] s (State.barBoost s d) := by
  unfold State.barBoost
  try extract_lets
  refine Keeps.ite (fun _ => ?_) (fun _ => ?_)
  · refine Keeps.ite (fun _ => ?_) (fun _ => ?_)
    · exact Keeps.refl
    · exact Keeps.upd_ptm rfl Keeps.refl
  · refine Keeps.ite (fun _ => ?_) (fun _ => ?_)
    · exact Keeps.upd_ptm rfl Keeps.refl
    · exact Keeps.refl


theorem State.setGoal_keeps (s : State) (d : Nat) (v : Nat) : Keeps [.vgoal] s (State.setGoal s d v) := by
  unfold State.setGoal
  exact Keeps.upd_vgoal rfl Keeps.refl


theorem State.demand_keeps (s : State) (d : Nat) (v : Nat) : Keeps [.regs, .events, .vgoal] s (State.demand s d v) := by
  unfold State.demand
  try extract_lets
  refine Keeps.ite (fun _ => ?_) (fun _ => ?_)
  · try extract_lets
    refine Keeps.ite (fun _ => ?_) (fun _ => ?_)
    · refine Keeps.via (State.fset_keeps ..) rfl ?_
      exact Keeps.via (State.setGoal_keeps ..) rfl Keeps.refl
    · refine Keeps.via (State.post_keeps ..) rfl ?_
      refine Keeps.via (State.fset_keeps ..) rfl ?_
      exact Keeps.via (State.setGoal_keeps ..) rfl Keeps.refl
  · refine Keeps.via (State.fset_keeps ..) rfl ?_
    exact Keeps.via (State.setGoal_keeps ..) rfl Keeps.refl


theorem State.vsetWritten_keeps (s : State) (d : Nat) : Keeps [.regs, .events, .vgoal] s (State.vsetWritten s d) := by
  unfold State.vsetWritten
  refine Keeps.ite (fun _ => ?_) (fun _ => ?_)
  · exact Keeps.via (State.demand_keeps ..) rfl Keeps.refl
  · exact Keeps.refl


theorem State.padRelease_keeps (s : State) (d : Nat) : Keeps [.regs, .pads] s (State.padRelease s d) := by
  unfold State.padRelease
  refine Keeps.ite (fun _ => ?_) (fun _ => ?_)
  · try extract_lets
    refine Keeps.via (State.fset_keeps ..) rfl ?_
    refine Keeps.foldl (fun _ _ => ?_) ?_
    · exact Keeps.via (State.setPad_keeps ..) rfl Keeps.refl
    · exact Keeps.refl
  · exact Keeps.refl


theorem State.startWake_keeps (s : State) (cause : Nat) : Keeps [.regs, .ptm] s (State.startWake s cause) := by
  unfold State.startWake
  refine Keeps.ite (fun _ => ?_) (fun _ => ?_)
  · exact Keeps.refl
  · try extract_lets
    refine Keeps.upd_ptm rfl ?_
    refine Keeps.via (State.fset_keeps ..) rfl ?_
    refine Keeps.via (State.fset_keeps ..) rfl ?_
    exact Keeps.via (State.fset_keeps ..) rfl Keeps.refl


theorem State.wakeSource_keeps (s : State) (cause : Nat) : Keeps [.regs, .ptm] s (State.wakeSource s cause) := by
  unfold State.wakeSource
  split
  · refine Keeps.ite (fun _ => ?_) (fun _ => ?_)
    · exact Keeps.upd_ptm rfl Keeps.refl
    · exact Keeps.refl
  · exact Keeps.via (State.startWake_keeps ..) rfl Keeps.refl


theorem State.endBoost_keeps (s : State) (d : Nat) (cause : Nat) : Keeps [.regs, .events, .vgoal] s (State.endBoost s d cause) := by
  unfold State.endBoost
  refine Keeps.ite (fun _ => ?_) (fun _ => ?_)
  · exact Keeps.refl
  · refine Keeps.via (State.post_keeps ..) rfl ?_
    refine Keeps.via (State.fset_keeps ..) rfl ?_
    exact Keeps.via (State.setGoal_keeps ..) rfl Keeps.refl


theorem State.boostCheck_keeps (s : State) (d : Nat) : Keeps [.regs, .events, .vgoal] s (State.boostCheck s d) := by
  unfold State.boostCheck
  refine Keeps.ite (fun _ => ?_) (fun _ => ?_)
  · exact Keeps.refl
  · exact Keeps.via (State.endBoost_keeps ..) rfl Keeps.refl


theorem State.setShort_keeps (s : State) (d : Nat) (n : Nat) : Keeps [.ptm] s (State.setShort s d n) := by
  unfold State.setShort
  exact Keeps.upd_ptm rfl Keeps.refl


theorem State.rateLoop_keeps (s : State) (d : Nat) : Keeps [.regs, .events, .vgoal, .ptm] s (State.rateLoop s d) := by
  unfold State.rateLoop
  try extract_lets
  refine Keeps.ite (fun _ => ?_) (fun _ => ?_)
  · exact Keeps.refl
  · try extract_lets
    refine Keeps.ite (fun _ => ?_) (fun _ => ?_)
    · refine Keeps.via (State.fset_keeps ..) rfl ?_
      refine Keeps.via (State.setShort_keeps ..) rfl ?_
      refine Keeps.ite (fun _ => ?_) (fun _ => ?_)
      · exact Keeps.via (State.setGoal_keeps ..) rfl Keeps.refl
      · refine Keeps.ite (fun _ => ?_) (fun _ => ?_)
        · exact Keeps.via (State.setGoal_keeps ..) rfl Keeps.refl
        · exact Keeps.refl
    · refine Keeps.ite (fun _ => ?_) (fun _ => ?_)
      · refine Keeps.via (State.setShort_keeps ..) rfl ?_
        refine Keeps.ite (fun _ => ?_) (fun _ => ?_)
        · exact Keeps.via (State.setGoal_keeps ..) rfl Keeps.refl
        · refine Keeps.ite (fun _ => ?_) (fun _ => ?_)
          · exact Keeps.via (State.setGoal_keeps ..) rfl Keeps.refl
          · exact Keeps.refl
      · try extract_lets
        refine Keeps.ite (fun _ => ?_) (fun _ => ?_)
        · refine Keeps.via (State.post_keeps ..) rfl ?_
          refine Keeps.via (State.fset_keeps ..) rfl ?_
          refine Keeps.via (State.setShort_keeps ..) rfl ?_
          refine Keeps.ite (fun _ => ?_) (fun _ => ?_)
          · exact Keeps.via (State.setGoal_keeps ..) rfl Keeps.refl
          · refine Keeps.ite (fun _ => ?_) (fun _ => ?_)
            · exact Keeps.via (State.setGoal_keeps ..) rfl Keeps.refl
            · exact Keeps.refl
        · refine Keeps.via (State.setShort_keeps ..) rfl ?_
          refine Keeps.ite (fun _ => ?_) (fun _ => ?_)
          · exact Keeps.via (State.setGoal_keeps ..) rfl Keeps.refl
          · refine Keeps.ite (fun _ => ?_) (fun _ => ?_)
            · exact Keeps.via (State.setGoal_keeps ..) rfl Keeps.refl
            · exact Keeps.refl


theorem State.control_keeps (s : State) (d : Nat) : Keeps [.regs, .events, .vgoal, .ptm] s (State.control s d) := by
  unfold State.control
  try extract_lets
  refine Keeps.ite (fun _ => ?_) (fun _ => ?_)
  · exact Keeps.upd_ptm rfl Keeps.refl
  · try extract_lets
    refine Keeps.ite (fun _ => ?_) (fun _ => ?_)
    · try extract_lets
      refine Keeps.ite (fun _ => ?_) (fun _ => ?_)
      · refine Keeps.via (State.fset_keeps ..) rfl ?_
        refine Keeps.via (State.setGoal_keeps ..) rfl ?_
        refine Keeps.via (State.boostCheck_keeps ..) rfl ?_
        exact Keeps.upd_ptm rfl Keeps.refl
      · refine Keeps.via (State.setGoal_keeps ..) rfl ?_
        refine Keeps.via (State.boostCheck_keeps ..) rfl ?_
        exact Keeps.upd_ptm rfl Keeps.refl
    · refine Keeps.ite (fun _ => ?_) (fun _ => ?_)
      · refine Keeps.via (State.demand_keeps ..) rfl ?_
        refine Keeps.via (State.boostCheck_keeps ..) rfl ?_
        exact Keeps.upd_ptm rfl Keeps.refl
      · refine Keeps.ite (fun _ => ?_) (fun _ => ?_)
        · refine Keeps.via (State.demand_keeps ..) rfl ?_
          refine Keeps.via (State.fset_keeps ..) rfl ?_
          refine Keeps.via (State.setShort_keeps ..) rfl ?_
          refine Keeps.via (State.boostCheck_keeps ..) rfl ?_
          exact Keeps.upd_ptm rfl Keeps.refl
        · refine Keeps.ite (fun _ => ?_) (fun _ => ?_)
          · refine Keeps.via (State.fset_keeps ..) rfl ?_
            refine Keeps.via (State.boostCheck_keeps ..) rfl ?_
            exact Keeps.upd_ptm rfl Keeps.refl
          · refine Keeps.via (State.rateLoop_keeps ..) rfl ?_
            refine Keeps.via (State.fset_keeps ..) rfl ?_
            refine Keeps.via (State.boostCheck_keeps ..) rfl ?_
            exact Keeps.upd_ptm rfl Keeps.refl


theorem State.countCool_keeps (s : State) (d : Nat) : Keeps [.ptm] s (State.countCool s d) := by
  unfold State.countCool
  try extract_lets
  exact Keeps.upd_ptm rfl Keeps.refl


theorem State.countRefusal_keeps (s : State) (t : Nat) (i : Nat) (aborted : Bool) : Keeps [.regs, .events] s (State.countRefusal s t i aborted) := by
  unfold State.countRefusal
  try extract_lets
  refine Keeps.via (State.post_keeps ..) rfl ?_
  refine Keeps.via (State.fsat_keeps ..) rfl ?_
  refine Keeps.via (State.fset_keeps ..) rfl ?_
  refine Keeps.via (State.fset_keeps ..) rfl ?_
  refine Keeps.via (State.fset_keeps ..) rfl ?_
  exact Keeps.via (State.fsat_keeps ..) rfl Keeps.refl


theorem State.creditStep_keeps (s : State) (d : Nat) : Keeps [.regs, .ptm] s (State.creditStep s d) := by
  unfold State.creditStep
  try extract_lets
  refine Keeps.ite (fun _ => ?_) (fun _ => ?_)
  · refine Keeps.via (State.fset_keeps ..) rfl ?_
    exact Keeps.upd_ptm rfl Keeps.refl
  · refine Keeps.ite (fun _ => ?_) (fun _ => ?_)
    · refine Keeps.via (State.fset_keeps ..) rfl ?_
      exact Keeps.upd_ptm rfl Keeps.refl
    · exact Keeps.upd_ptm rfl Keeps.refl


theorem State.deepRegs_keeps (s : State) : Keeps [.regs, .events] s (State.deepRegs s) := by
  unfold State.deepRegs
  try extract_lets
  refine Keeps.via (State.fset_keeps ..) rfl ?_
  refine Keeps.via (State.fset_keeps ..) rfl ?_
  refine Keeps.foldl (fun _ _ => ?_) ?_
  · exact Keeps.via (State.keepFld_keeps ..) rfl Keeps.refl
  · refine Keeps.foldl (fun _ _ => ?_) ?_
    · exact Keeps.via (State.keepFld_keeps ..) rfl Keeps.refl
    · refine Keeps.foldl (fun _ _ => ?_) ?_
      · exact Keeps.via (State.setChState_keeps ..) rfl Keeps.refl
      · exact Keeps.upd_regs_events rfl Keeps.refl


theorem State.standbyOff_keeps (s : State) : Keeps [.regs, .clk] s (State.standbyOff s) := by
  unfold State.standbyOff
  try extract_lets
  refine Keeps.via (State.fset_keeps ..) rfl ?_
  refine Keeps.via (State.fset_keeps ..) rfl ?_
  exact Keeps.via (State.setFaulted_keeps ..) rfl Keeps.refl


theorem State.eachTin_keeps (s : State) (p : State → Nat → Bool) (f : Tin → Tin) : Keeps [.tins] s (State.eachTin s p f) := by
  unfold State.eachTin
  refine Keeps.foldl (fun _ _ => ?_) ?_
  · refine Keeps.ite (fun _ => ?_) (fun _ => ?_)
    · exact Keeps.via (State.setTin_keeps ..) rfl Keeps.refl
    · exact Keeps.refl
  · exact Keeps.refl


theorem State.deepRails_keeps (s : State) : Keeps [.regs, .events, .tins, .vgoal, .dram, .clk] s (State.deepRails s) := by
  unfold State.deepRails
  try extract_lets
  refine Keeps.via (State.standbyOff_keeps ..) rfl ?_
  refine Keeps.via (State.deepRegs_keeps ..) rfl ?_
  refine Keeps.foldl (fun _ _ => ?_) ?_
  · refine Keeps.via (State.fset_keeps ..) rfl ?_
    exact Keeps.via (State.setGoal_keeps ..) rfl Keeps.refl
  · refine Keeps.via (State.eachTin_keeps ..) rfl ?_
    refine Keeps.foldl (fun _ _ => ?_) ?_
    · exact Keeps.via (State.engineOff_keeps ..) rfl Keeps.refl
    · exact Keeps.refl


theorem State.dieHigh_keeps (s : State) (d : Nat) : Keeps [.regs, .events, .ptm] s (State.dieHigh s d) := by
  unfold State.dieHigh
  try extract_lets
  refine Keeps.ite (fun _ => ?_) (fun _ => ?_)
  · refine Keeps.ite (fun _ => ?_) (fun _ => ?_)
    · refine Keeps.via (State.fset_keeps ..) rfl ?_
      refine Keeps.via (State.barBoost_keeps ..) rfl ?_
      exact Keeps.via (State.countCool_keeps ..) rfl Keeps.refl
    · refine Keeps.via (State.barBoost_keeps ..) rfl ?_
      exact Keeps.via (State.countCool_keeps ..) rfl Keeps.refl
  · refine Keeps.ite (fun _ => ?_) (fun _ => ?_)
    · refine Keeps.via (State.post_keeps ..) rfl ?_
      refine Keeps.via (State.fset_keeps ..) rfl ?_
      refine Keeps.via (State.barBoost_keeps ..) rfl ?_
      exact Keeps.via (State.countCool_keeps ..) rfl Keeps.refl
    · refine Keeps.via (State.barBoost_keeps ..) rfl ?_
      exact Keeps.via (State.countCool_keeps ..) rfl Keeps.refl


theorem State.setEntry_keeps (s : State) (e : Option (Nat × Nat)) : Keeps [.ptm] s (State.setEntry s e) := by
  unfold State.setEntry
  exact Keeps.upd_ptm rfl Keeps.refl


theorem State.endEntry_keeps (s : State) : Keeps [.regs, .ptm] s (State.endEntry s) := by
  unfold State.endEntry
  refine Keeps.via (State.fset_keeps ..) rfl ?_
  refine Keeps.via (State.fset_keeps ..) rfl ?_
  exact Keeps.via (State.setEntry_keeps ..) rfl Keeps.refl


theorem State.enterDoze_keeps (s : State) : Keeps [.regs, .events, .tins, .vgoal, .hqe, .ptm] s (State.enterDoze s) := by
  unfold State.enterDoze
  try extract_lets
  refine Keeps.via (State.finishWait_keeps ..) rfl ?_
  refine Keeps.via (State.eachTin_keeps ..) rfl ?_
  refine Keeps.foldl (fun _ _ => ?_) ?_
  · refine Keeps.ite (fun _ => ?_) (fun _ => ?_)
    · exact Keeps.via (State.demand_keeps ..) rfl Keeps.refl
    · exact Keeps.refl
  · refine Keeps.via (State.fset_keeps ..) rfl ?_
    refine Keeps.via (State.fset_keeps ..) rfl ?_
    exact Keeps.via (State.setEntry_keeps ..) rfl Keeps.refl


theorem State.govern_keeps (s : State) : Keeps [.regs] s (State.govern s) := by
  unfold State.govern
  exact Keeps.via (State.fset_keeps ..) rfl Keeps.refl


theorem State.hubHigh_keeps (s : State) : Keeps [.regs, .events, .ptm] s (State.hubHigh s) := by
  unfold State.hubHigh
  try extract_lets
  refine Keeps.ite (fun _ => ?_) (fun _ => ?_)
  · refine Keeps.ite (fun _ => ?_) (fun _ => ?_)
    · refine Keeps.via (State.fset_keeps ..) rfl ?_
      exact Keeps.via (State.countCool_keeps ..) rfl Keeps.refl
    · exact Keeps.via (State.countCool_keeps ..) rfl Keeps.refl
  · refine Keeps.ite (fun _ => ?_) (fun _ => ?_)
    · refine Keeps.via (State.post_keeps ..) rfl ?_
      refine Keeps.via (State.fset_keeps ..) rfl ?_
      exact Keeps.via (State.countCool_keeps ..) rfl Keeps.refl
    · exact Keeps.via (State.countCool_keeps ..) rfl Keeps.refl


theorem State.setSensor_keeps (s : State) (k : Nat) (v : Sensor) : Keeps [.ptm] s (State.setSensor s k v) := by
  unfold State.setSensor
  exact Keeps.upd_ptm rfl Keeps.refl


theorem State.ptmPost_keeps (s : State) (d : Nat) (code : Nat) (sev : Nat) (unit : Nat) (arg : Nat) : Keeps [.events] s (State.ptmPost s d code sev unit arg) := by
  unfold State.ptmPost
  exact Keeps.via (State.post_keeps ..) rfl Keeps.refl


theorem State.judgeSensor_keeps (s : State) (d : Nat) (med : Int) (k : Nat) : Keeps [.events, .ptm] s (State.judgeSensor s d med k) := by
  unfold State.judgeSensor
  try extract_lets
  refine Keeps.ite (fun _ => ?_) (fun _ => ?_)
  · exact Keeps.refl
  · try extract_lets
    refine Keeps.ite (fun _ => ?_) (fun _ => ?_)
    · refine Keeps.via (State.ptmPost_keeps ..) rfl ?_
      exact Keeps.via (State.setSensor_keeps ..) rfl Keeps.refl
    · exact Keeps.via (State.setSensor_keeps ..) rfl Keeps.refl


theorem State.napRails_keeps (s : State) : Keeps [.vgoal] s (State.napRails s) := by
  unfold State.napRails
  refine Keeps.foldl (fun _ _ => ?_) ?_
  · refine Keeps.ite (fun _ => ?_) (fun _ => ?_)
    · exact Keeps.via (State.setGoal_keeps ..) rfl Keeps.refl
    · exact Keeps.refl
  · exact Keeps.refl


theorem State.railOff_keeps (s : State) (d : Nat) : Keeps [.regs, .vgoal, .away] s (State.railOff s d) := by
  unfold State.railOff
  try extract_lets
  refine Keeps.upd_away rfl ?_
  refine Keeps.via (State.fset_keeps ..) rfl ?_
  exact Keeps.via (State.setGoal_keeps ..) rfl Keeps.refl


theorem State.showTj_keeps (s : State) (d : Nat) : Keeps [.regs, .events, .ptm] s (State.showTj s d) := by
  unfold State.showTj
  try extract_lets
  refine Keeps.ite (fun _ => ?_) (fun _ => ?_)
  · refine Keeps.via (State.ptmPost_keeps ..) rfl ?_
    refine Keeps.upd_ptm rfl ?_
    refine Keeps.via (State.fset_keeps ..) rfl ?_
    exact Keeps.via (State.fset_keeps ..) rfl Keeps.refl
  · refine Keeps.via (State.fset_keeps ..) rfl ?_
    exact Keeps.via (State.fset_keeps ..) rfl Keeps.refl


theorem State.readSensors_keeps (s : State) (l : List (Nat × Int)) : Keeps [.regs, .events, .ptm] s (State.readSensors s l) := by
  unfold State.readSensors
  try extract_lets
  refine Keeps.foldl (fun _ _ => ?_) ?_
  · try extract_lets
    refine Keeps.ite (fun _ => ?_) (fun _ => ?_)
    · exact Keeps.refl
    · refine Keeps.via (State.showTj_keeps ..) rfl ?_
      refine Keeps.foldl (fun _ _ => ?_) ?_
      · exact Keeps.via (State.judgeSensor_keeps ..) rfl Keeps.refl
      · exact Keeps.refl
  · refine Keeps.foldl (fun _ _ => ?_) ?_
    · refine Keeps.ite (fun _ => ?_) (fun _ => ?_)
      · exact Keeps.refl
      · exact Keeps.via (State.setSensor_keeps ..) rfl Keeps.refl
    · exact Keeps.refl


theorem State.restoreRegs_keeps (s : State) : Keeps [.regs, .ptm] s (State.restoreRegs s) := by
  unfold State.restoreRegs
  try extract_lets
  refine Keeps.upd_ptm rfl ?_
  refine Keeps.foldl (fun _ _ => ?_) ?_
  · exact Keeps.via (State.setReg_keeps ..) rfl Keeps.refl
  · exact Keeps.refl


theorem State.saveRegs_keeps (s : State) : Keeps [.ptm] s (State.saveRegs s) := by
  unfold State.saveRegs
  exact Keeps.upd_ptm rfl Keeps.refl


theorem State.startEntry_keeps (s : State) (t : Nat) : Keeps [.regs, .events, .tins, .vgoal, .ptm] s (State.startEntry s t) := by
  unfold State.startEntry
  try extract_lets
  refine Keeps.via (State.eachTin_keeps ..) rfl ?_
  refine Keeps.foldl (fun _ _ => ?_) ?_
  · exact Keeps.via (State.endBoost_keeps ..) rfl Keeps.refl
  · refine Keeps.via (State.fset_keeps ..) rfl ?_
    exact Keeps.via (State.setEntry_keeps ..) rfl Keeps.refl


theorem State.wakeClocks_keeps (s : State) (ok : Nat) (ok4 : Bool) : Keeps [.regs, .events, .mgc, .ptm] s (State.wakeClocks s ok ok4) := by
  unfold State.wakeClocks
  refine Keeps.ite (fun _ => ?_) (fun _ => ?_)
  · refine Keeps.foldl (fun _ _ => ?_) ?_
    · exact Keeps.via (State.coreReset_keeps ..) rfl Keeps.refl
    · exact Keeps.via (State.restoreRegs_keeps ..) rfl Keeps.refl
  · exact Keeps.refl


theorem State.wakeCrust_keeps (s : State) (bad : List TinIx) : Keeps [.regs, .events, .roles, .tins, .ring, .hqe, .ptm, .away] s (State.wakeCrust s bad) := by
  unfold State.wakeCrust
  try extract_lets
  refine Keeps.via (State.post_keeps ..) rfl ?_
  refine Keeps.via (State.finishWait_keeps ..) rfl ?_
  refine Keeps.foldl (fun _ _ => ?_) ?_
  · refine Keeps.ite (fun _ => ?_) (fun _ => ?_)
    · exact Keeps.via (State.heldBells_keeps ..) rfl Keeps.refl
    · exact Keeps.refl
  · refine Keeps.upd_ptm rfl ?_
    refine Keeps.via (State.fset_keeps ..) rfl ?_
    refine Keeps.via (State.fset_keeps ..) rfl ?_
    refine Keeps.via (State.fset_keeps ..) rfl ?_
    refine Keeps.ite (fun _ => ?_) (fun _ => ?_)
    · refine Keeps.foldl (fun _ _ => ?_) ?_
      · refine Keeps.ite (fun _ => ?_) (fun _ => ?_)
        · exact Keeps.via (State.returnDie_keeps ..) rfl Keeps.refl
        · exact Keeps.refl
      · exact Keeps.refl
    · try extract_lets
      refine Keeps.via (State.eachTin_keeps ..) rfl ?_
      exact Keeps.via (State.eachTin_keeps ..) rfl Keeps.refl


theorem State.wakeRail_keeps (s : State) (d : Nat) : Keeps [.regs, .vgoal] s (State.wakeRail s d) := by
  unfold State.wakeRail
  try extract_lets
  refine Keeps.via (State.fset_keeps ..) rfl ?_
  exact Keeps.via (State.setGoal_keeps ..) rfl Keeps.refl


theorem State.wakeRails_keeps (s : State) : Keeps [.regs, .tins, .ring, .laneIn, .laneOut, .seamCh, .vgoal, .noc, .clk, .mac, .dbg, .away] s (State.wakeRails s) := by
  unfold State.wakeRails
  refine Keeps.foldl (fun _ _ => ?_) ?_
  · try extract_lets
    refine Keeps.ite (fun _ => ?_) (fun _ => ?_)
    · exact Keeps.refl
    · refine Keeps.ite (fun _ => ?_) (fun _ => ?_)
      · exact Keeps.via (State.powerBack_keeps ..) rfl Keeps.refl
      · refine Keeps.ite (fun _ => ?_) (fun _ => ?_)
        · try extract_lets
          refine Keeps.via (State.fset_keeps ..) rfl ?_
          refine Keeps.ite (fun _ => ?_) (fun _ => ?_)
          · exact Keeps.via (State.clearDie_keeps ..) rfl Keeps.refl
          · refine Keeps.via (State.wakeRail_keeps ..) rfl ?_
            exact Keeps.via (State.clearDie_keeps ..) rfl Keeps.refl
        · refine Keeps.ite (fun _ => ?_) (fun _ => ?_)
          · exact Keeps.refl
          · refine Keeps.ite (fun _ => ?_) (fun _ => ?_)
            · exact Keeps.via (State.wakeRail_keeps ..) rfl Keeps.refl
            · exact Keeps.refl
  · exact Keeps.refl


theorem execEntryAbort_keeps (s : State) : OutKeeps [.regs, .events, .tins, .hqe, .ptm] s (execEntryAbort s) := by
  unfold execEntryAbort
  split
  · split
    · refine OutKeeps.next ?_
      exact Keeps.refl
    · try extract_lets
      refine OutKeeps.next ?_
      refine Keeps.via (State.finishWait_keeps ..) rfl ?_
      refine Keeps.via (State.countRefusal_keeps ..) rfl ?_
      refine Keeps.via (State.endEntry_keeps ..) rfl ?_
      refine Keeps.via (State.eachTin_keeps ..) rfl ?_
      exact Keeps.via (State.clearOut_keeps ..) rfl Keeps.refl
  · refine OutKeeps.next ?_
    exact Keeps.refl


theorem execWakeStep_keeps (late : Bool) (ok : Fin 16) (ok4 : Bool) (bad : List TinIx) (s : State) : OutKeeps [.regs, .events, .roles, .tins, .ring, .laneIn, .laneOut, .seamCh, .vgoal, .noc, .clk, .mac, .dbg, .mgc, .hqe, .ptm, .away] s (execWakeStep late ok ok4 bad s) := by
  unfold execWakeStep
  split
  · refine OutKeeps.next ?_
    exact Keeps.refl
  · try extract_lets
    split
    · refine OutKeeps.next ?_
      refine Keeps.via (State.wakeRails_keeps ..) rfl ?_
      refine Keeps.upd_ptm rfl ?_
      refine Keeps.ite (fun _ => ?_) (fun _ => ?_)
      · refine Keeps.via (State.post_keeps ..) rfl ?_
        exact Keeps.via (State.clearOut_keeps ..) rfl Keeps.refl
      · exact Keeps.via (State.clearOut_keeps ..) rfl Keeps.refl
    · refine OutKeeps.next ?_
      refine Keeps.via (State.wakeClocks_keeps ..) rfl ?_
      refine Keeps.upd_ptm rfl ?_
      refine Keeps.ite (fun _ => ?_) (fun _ => ?_)
      · refine Keeps.via (State.post_keeps ..) rfl ?_
        exact Keeps.via (State.clearOut_keeps ..) rfl Keeps.refl
      · exact Keeps.via (State.clearOut_keeps ..) rfl Keeps.refl
    · refine OutKeeps.next ?_
      refine Keeps.upd_ptm rfl ?_
      refine Keeps.ite (fun _ => ?_) (fun _ => ?_)
      · refine Keeps.via (State.post_keeps ..) rfl ?_
        exact Keeps.via (State.clearOut_keeps ..) rfl Keeps.refl
      · exact Keeps.via (State.clearOut_keeps ..) rfl Keeps.refl
    · refine OutKeeps.next ?_
      refine Keeps.via (State.wakeCrust_keeps ..) rfl ?_
      refine Keeps.upd_ptm rfl ?_
      refine Keeps.ite (fun _ => ?_) (fun _ => ?_)
      · refine Keeps.via (State.post_keeps ..) rfl ?_
        exact Keeps.via (State.clearOut_keeps ..) rfl Keeps.refl
      · exact Keeps.via (State.clearOut_keeps ..) rfl Keeps.refl


theorem execGpioWake_keeps (s : State) : OutKeeps [.regs, .ptm] s (execGpioWake s) := by
  unfold execGpioWake
  refine OutKeeps.ite (fun _ => ?_) (fun _ => ?_)
  · refine OutKeeps.next ?_
    exact Keeps.via (State.wakeSource_keeps ..) rfl Keeps.refl
  · refine OutKeeps.next ?_
    exact Keeps.refl


theorem execRefusersAnswered_keeps (s : State) : OutKeeps [.regs, .events, .tins, .vgoal, .hqe, .ptm] s (execRefusersAnswered s) := by
  unfold execRefusersAnswered
  split
  · split
    · refine OutKeeps.next ?_
      refine Keeps.via (State.finishWait_keeps ..) rfl ?_
      refine Keeps.via (State.countRefusal_keeps ..) rfl ?_
      refine Keeps.via (State.endEntry_keeps ..) rfl ?_
      exact Keeps.via (State.clearOut_keeps ..) rfl Keeps.refl
    · refine OutKeeps.ite (fun _ => ?_) (fun _ => ?_)
      · refine OutKeeps.next ?_
        refine Keeps.via (State.enterDoze_keeps ..) rfl ?_
        exact Keeps.via (State.clearOut_keeps ..) rfl Keeps.refl
      · refine OutKeeps.next ?_
        exact Keeps.via (State.startEntry_keeps ..) rfl Keeps.refl
  · refine OutKeeps.next ?_
    exact Keeps.refl


theorem execThermTrip_keeps (k : Fin 136) (s : State) : OutKeeps [.regs, .events, .now, .roles, .tins, .ring, .laneIn, .laneOut, .seamCh, .dozens, .bench, .foldMap, .kept, .dieCopy, .dueSeq, .vgoal, .larder, .pool, .corr, .noc, .dram, .breadbox, .pads, .lanes, .eqTable, .clk, .time, .mac, .dbg, .mgc, .hqe, .cfg, .spr, .ptm, .away, .smbus, .answer] s (execThermTrip k s) := by
  unfold execThermTrip
  refine OutKeeps.ite (fun _ => ?_) (fun _ => ?_)
  · refine OutKeeps.next ?_
    exact Keeps.refl
  · try extract_lets
    refine OutKeeps.ite (fun _ => ?_) (fun _ => ?_)
    · try extract_lets
      refine OutKeeps.next ?_
      refine Keeps.via (State.post_keeps ..) rfl ?_
      refine Keeps.upd_ptm rfl ?_
      refine Keeps.via (State.fset_keeps ..) rfl ?_
      refine Keeps.via (State.fset_keeps ..) rfl ?_
      exact Keeps.via (State.hardReset_keeps ..) rfl Keeps.refl
    · try extract_lets
      refine OutKeeps.next ?_
      refine Keeps.via (State.post_keeps ..) rfl ?_
      refine Keeps.upd_ptm rfl ?_
      refine Keeps.via (State.fset_keeps ..) rfl ?_
      refine Keeps.foldl (fun _ _ => ?_) ?_
      · refine Keeps.ite (fun _ => ?_) (fun _ => ?_)
        · exact Keeps.via (State.railOff_keeps ..) rfl Keeps.refl
        · exact Keeps.refl
      · exact Keeps.refl


theorem execHubRailFault_keeps (s : State) : OutKeeps [.regs, .events, .now, .roles, .tins, .ring, .laneIn, .laneOut, .seamCh, .dozens, .bench, .foldMap, .kept, .dieCopy, .dueSeq, .vgoal, .larder, .pool, .corr, .noc, .dram, .breadbox, .pads, .lanes, .eqTable, .clk, .time, .mac, .dbg, .mgc, .hqe, .cfg, .spr, .ptm, .away, .smbus, .powerGood, .answer] s (execHubRailFault s) := by
  unfold execHubRailFault
  refine OutKeeps.next ?_
  try extract_lets
  refine Keeps.upd_powerGood rfl ?_
  exact Keeps.via (State.hardReset_keeps ..) rfl Keeps.refl


theorem execPointOfNoReturn_keeps (s : State) : OutKeeps [.regs, .events, .tins, .vgoal, .larder, .pool, .corr, .dram, .pads, .lanes, .clk, .mac, .ptm, .free] s (execPointOfNoReturn s) := by
  unfold execPointOfNoReturn
  split
  · try extract_lets
    refine OutKeeps.next ?_
    refine Keeps.ite (fun _ => ?_) (fun _ => ?_)
    · refine Keeps.ite (fun _ => ?_) (fun _ => ?_)
      · refine Keeps.via (State.saveRegs_keeps ..) rfl ?_
        refine Keeps.via (State.eachTin_keeps ..) rfl ?_
        refine Keeps.via (State.fset_keeps ..) rfl ?_
        refine Keeps.foldl (fun _ _ => ?_) ?_
        · exact Keeps.via (State.laneReach_keeps ..) rfl Keeps.refl
        · refine Keeps.foldl (fun _ _ => ?_) ?_
          · exact Keeps.via (State.latchPads_keeps ..) rfl Keeps.refl
          · exact Keeps.via (State.setEntry_keeps ..) rfl Keeps.refl
      · refine Keeps.via (State.eachTin_keeps ..) rfl ?_
        refine Keeps.via (State.fset_keeps ..) rfl ?_
        refine Keeps.foldl (fun _ _ => ?_) ?_
        · exact Keeps.via (State.laneReach_keeps ..) rfl Keeps.refl
        · refine Keeps.foldl (fun _ _ => ?_) ?_
          · exact Keeps.via (State.latchPads_keeps ..) rfl Keeps.refl
          · exact Keeps.via (State.setEntry_keeps ..) rfl Keeps.refl
    · refine Keeps.ite (fun _ => ?_) (fun _ => ?_)
      · refine Keeps.via (State.napRails_keeps ..) rfl ?_
        refine Keeps.ite (fun _ => ?_) (fun _ => ?_)
        · refine Keeps.via (State.saveRegs_keeps ..) rfl ?_
          refine Keeps.via (State.eachTin_keeps ..) rfl ?_
          refine Keeps.via (State.fset_keeps ..) rfl ?_
          refine Keeps.foldl (fun _ _ => ?_) ?_
          · exact Keeps.via (State.laneReach_keeps ..) rfl Keeps.refl
          · refine Keeps.foldl (fun _ _ => ?_) ?_
            · exact Keeps.via (State.latchPads_keeps ..) rfl Keeps.refl
            · exact Keeps.via (State.setEntry_keeps ..) rfl Keeps.refl
        · refine Keeps.via (State.eachTin_keeps ..) rfl ?_
          refine Keeps.via (State.fset_keeps ..) rfl ?_
          refine Keeps.foldl (fun _ _ => ?_) ?_
          · exact Keeps.via (State.laneReach_keeps ..) rfl Keeps.refl
          · refine Keeps.foldl (fun _ _ => ?_) ?_
            · exact Keeps.via (State.latchPads_keeps ..) rfl Keeps.refl
            · exact Keeps.via (State.setEntry_keeps ..) rfl Keeps.refl
      · refine Keeps.ite (fun _ => ?_) (fun _ => ?_)
        · refine Keeps.via (State.deepRails_keeps ..) rfl ?_
          refine Keeps.ite (fun _ => ?_) (fun _ => ?_)
          · refine Keeps.via (State.saveRegs_keeps ..) rfl ?_
            refine Keeps.via (State.eachTin_keeps ..) rfl ?_
            refine Keeps.via (State.fset_keeps ..) rfl ?_
            refine Keeps.foldl (fun _ _ => ?_) ?_
            · exact Keeps.via (State.laneReach_keeps ..) rfl Keeps.refl
            · refine Keeps.foldl (fun _ _ => ?_) ?_
              · exact Keeps.via (State.latchPads_keeps ..) rfl Keeps.refl
              · exact Keeps.via (State.setEntry_keeps ..) rfl Keeps.refl
          · refine Keeps.via (State.eachTin_keeps ..) rfl ?_
            refine Keeps.via (State.fset_keeps ..) rfl ?_
            refine Keeps.foldl (fun _ _ => ?_) ?_
            · exact Keeps.via (State.laneReach_keeps ..) rfl Keeps.refl
            · refine Keeps.foldl (fun _ _ => ?_) ?_
              · exact Keeps.via (State.latchPads_keeps ..) rfl Keeps.refl
              · exact Keeps.via (State.setEntry_keeps ..) rfl Keeps.refl
        · refine Keeps.ite (fun _ => ?_) (fun _ => ?_)
          · refine Keeps.via (State.saveRegs_keeps ..) rfl ?_
            refine Keeps.via (State.eachTin_keeps ..) rfl ?_
            refine Keeps.via (State.fset_keeps ..) rfl ?_
            refine Keeps.foldl (fun _ _ => ?_) ?_
            · exact Keeps.via (State.laneReach_keeps ..) rfl Keeps.refl
            · refine Keeps.foldl (fun _ _ => ?_) ?_
              · exact Keeps.via (State.latchPads_keeps ..) rfl Keeps.refl
              · exact Keeps.via (State.setEntry_keeps ..) rfl Keeps.refl
          · refine Keeps.via (State.eachTin_keeps ..) rfl ?_
            refine Keeps.via (State.fset_keeps ..) rfl ?_
            refine Keeps.foldl (fun _ _ => ?_) ?_
            · exact Keeps.via (State.laneReach_keeps ..) rfl Keeps.refl
            · refine Keeps.foldl (fun _ _ => ?_) ?_
              · exact Keeps.via (State.latchPads_keeps ..) rfl Keeps.refl
              · exact Keeps.via (State.setEntry_keeps ..) rfl Keeps.refl
  · refine OutKeeps.next ?_
    exact Keeps.refl


theorem execThermTripRelease_keeps (s : State) : OutKeeps [.regs] s (execThermTripRelease s) := by
  unfold execThermTripRelease
  refine OutKeeps.ite (fun _ => ?_) (fun _ => ?_)
  · refine OutKeeps.next ?_
    exact Keeps.via (State.fset_keeps ..) rfl Keeps.refl
  · refine OutKeeps.next ?_
    exact Keeps.refl


theorem execPwrRailFault_keeps (d : DieIx) (lane : Bool) (s : State) : OutKeeps [.regs, .events, .vgoal, .away] s (execPwrRailFault d lane s) := by
  unfold execPwrRailFault
  refine OutKeeps.ite (fun _ => ?_) (fun _ => ?_)
  · refine OutKeeps.next ?_
    refine Keeps.via (State.post_keeps ..) rfl ?_
    exact Keeps.via (State.railOff_keeps ..) rfl Keeps.refl
  · refine OutKeeps.next ?_
    exact Keeps.refl


theorem execOvercurrentRelease_keeps (s : State) : OutKeeps [.regs, .ptm] s (execOvercurrentRelease s) := by
  unfold execOvercurrentRelease
  refine OutKeeps.ite (fun _ => ?_) (fun _ => ?_)
  · refine OutKeeps.next ?_
    refine Keeps.via (State.govern_keeps ..) rfl ?_
    try extract_lets
    refine Keeps.upd_ptm rfl ?_
    exact Keeps.via (State.fset_keeps ..) rfl Keeps.refl
  · refine OutKeeps.next ?_
    exact Keeps.refl


theorem execEntryQuiescent_keeps (s : State) : OutKeeps [.regs, .events, .tins, .larder, .pool, .corr, .noc, .dram, .breadbox, .pads, .mac, .cfg, .ptm, .free] s (execEntryQuiescent s) := by
  unfold execEntryQuiescent
  split
  · refine OutKeeps.ite (fun _ => ?_) (fun _ => ?_)
    · try extract_lets
      refine OutKeeps.next ?_
      refine Keeps.via (State.setEntry_keeps ..) rfl ?_
      refine Keeps.foldl (fun _ _ => ?_) ?_
      · refine Keeps.via (State.selfRefresh_keeps ..) rfl ?_
        refine Keeps.ite (fun _ => ?_) (fun _ => ?_)
        · exact Keeps.refl
        · exact Keeps.via (State.sealSave_keeps ..) rfl Keeps.refl
      · exact Keeps.refl
    · refine OutKeeps.next ?_
      exact Keeps.refl
  · refine OutKeeps.next ?_
    exact Keeps.refl


theorem execTelemetryInterval_keeps (temps : List (Nat × Int)) (mv : Fin 65536) (ma : Fin 65536) (s : State) : OutKeeps [.regs, .events, .vgoal, .ptm] s (execTelemetryInterval temps mv ma s) := by
  unfold execTelemetryInterval
  refine OutKeeps.ite (fun _ => ?_) (fun _ => ?_)
  · refine OutKeeps.next ?_
    exact Keeps.refl
  · refine OutKeeps.ite (fun _ => ?_) (fun _ => ?_)
    · refine OutKeeps.next ?_
      refine Keeps.foldl (fun _ _ => ?_) ?_
      · exact Keeps.via (State.creditStep_keeps ..) rfl Keeps.refl
      · exact Keeps.refl
    · try extract_lets
      refine OutKeeps.next ?_
      refine Keeps.foldl (fun _ _ => ?_) ?_
      · exact Keeps.via (State.control_keeps ..) rfl Keeps.refl
      · refine Keeps.via (State.govern_keeps ..) rfl ?_
        refine Keeps.via (State.hubHigh_keeps ..) rfl ?_
        refine Keeps.foldl (fun _ _ => ?_) ?_
        · exact Keeps.via (State.dieHigh_keeps ..) rfl Keeps.refl
        · refine Keeps.foldl (fun _ _ => ?_) ?_
          · exact Keeps.via (State.creditStep_keeps ..) rfl Keeps.refl
          · refine Keeps.via (State.fset_keeps ..) rfl ?_
            refine Keeps.via (State.fset_keeps ..) rfl ?_
            exact Keeps.via (State.readSensors_keeps ..) rfl Keeps.refl


theorem execPwrStateEntered_keeps (s : State) : OutKeeps [.regs, .events, .now, .roles, .tins, .ring, .laneIn, .laneOut, .seamCh, .dozens, .bench, .foldMap, .kept, .dieCopy, .dueSeq, .vgoal, .larder, .pool, .corr, .noc, .dram, .breadbox, .pads, .lanes, .eqTable, .clk, .time, .mac, .dbg, .mgc, .hqe, .cfg, .spr, .ptm, .away, .smbus, .answer] s (execPwrStateEntered s) := by
  unfold execPwrStateEntered
  split
  · refine OutKeeps.ite (fun _ => ?_) (fun _ => ?_)
    · try extract_lets
      refine OutKeeps.next ?_
      refine Keeps.via (State.post_keeps ..) rfl ?_
      refine Keeps.upd_pads rfl ?_
      refine Keeps.via (State.fset_keeps ..) rfl ?_
      exact Keeps.via (State.hardReset_keeps ..) rfl Keeps.refl
    · try extract_lets
      refine OutKeeps.next ?_
      refine Keeps.ite (fun _ => ?_) (fun _ => ?_)
      · refine Keeps.via (State.finishWait_keeps ..) rfl ?_
        refine Keeps.via (State.post_keeps ..) rfl ?_
        refine Keeps.foldl (fun _ _ => ?_) ?_
        · exact Keeps.via (State.fset_keeps ..) rfl Keeps.refl
        · refine Keeps.via (State.fset_keeps ..) rfl ?_
          refine Keeps.via (State.endEntry_keeps ..) rfl ?_
          exact Keeps.via (State.clearOut_keeps ..) rfl Keeps.refl
      · refine Keeps.via (State.startWake_keeps ..) rfl ?_
        refine Keeps.via (State.finishWait_keeps ..) rfl ?_
        refine Keeps.via (State.post_keeps ..) rfl ?_
        refine Keeps.foldl (fun _ _ => ?_) ?_
        · exact Keeps.via (State.fset_keeps ..) rfl Keeps.refl
        · refine Keeps.via (State.fset_keeps ..) rfl ?_
          refine Keeps.via (State.endEntry_keeps ..) rfl ?_
          exact Keeps.via (State.clearOut_keeps ..) rfl Keeps.refl
  · refine OutKeeps.next ?_
    exact Keeps.refl


theorem execPowerState_keeps (q : QueueIx) (s : State) : OutKeeps [.regs, .events, .vgoal, .hqe, .ptm] s (execPowerState q s) := by
  unfold execPowerState
  refine OutKeeps.next ?_
  refine State.command_via rfl (fun _ _ _ => ?_) ?_
  · try extract_lets
    refine Keeps.ite (fun _ => ?_) (fun _ => ?_)
    · exact Keeps.via (State.endJob_keeps ..) rfl Keeps.refl
    · refine Keeps.ite (fun _ => ?_) (fun _ => ?_)
      · exact Keeps.via (State.mgmtEnd_keeps ..) rfl Keeps.refl
      · refine Keeps.ite (fun _ => ?_) (fun _ => ?_)
        · exact Keeps.via (State.mgmtEnd_keeps ..) rfl Keeps.refl
        · refine Keeps.ite (fun _ => ?_) (fun _ => ?_)
          · try extract_lets
            refine Keeps.via (State.endJob_keeps ..) rfl ?_
            refine Keeps.foldl (fun _ _ => ?_) ?_
            · refine Keeps.ite (fun _ => ?_) (fun _ => ?_)
              · exact Keeps.via (State.demand_keeps ..) rfl Keeps.refl
              · exact Keeps.refl
            · exact Keeps.via (State.fset_keeps ..) rfl Keeps.refl
          · refine Keeps.ite (fun _ => ?_) (fun _ => ?_)
            · refine Keeps.via (State.startWake_keeps ..) rfl ?_
              exact Keeps.via (State.mgmtWait_keeps ..) rfl Keeps.refl
            · refine Keeps.via (State.fset_keeps ..) rfl ?_
              refine Keeps.via (State.setEntry_keeps ..) rfl ?_
              exact Keeps.via (State.mgmtWait_keeps ..) rfl Keeps.refl
  · exact Keeps.refl


theorem execPadRelease_keeps (d : DieIx) (s : State) : OutKeeps [.regs, .pads] s (execPadRelease d s) := by
  unfold execPadRelease
  refine OutKeeps.next ?_
  exact Keeps.via (State.padRelease_keeps ..) rfl Keeps.refl


theorem execPwrOvercurrent_keeps (s : State) : OutKeeps [.regs, .events, .vgoal, .ptm] s (execPwrOvercurrent s) := by
  unfold execPwrOvercurrent
  refine OutKeeps.ite (fun _ => ?_) (fun _ => ?_)
  · refine OutKeeps.next ?_
    exact Keeps.refl
  · try extract_lets
    refine OutKeeps.next ?_
    refine Keeps.via (State.post_keeps ..) rfl ?_
    refine Keeps.via (State.govern_keeps ..) rfl ?_
    refine Keeps.ite (fun _ => ?_) (fun _ => ?_)
    · refine Keeps.foldl (fun _ _ => ?_) ?_
      · refine Keeps.ite (fun _ => ?_) (fun _ => ?_)
        · exact Keeps.via (State.setGoal_keeps ..) rfl Keeps.refl
        · exact Keeps.refl
      · refine Keeps.upd_ptm rfl ?_
        exact Keeps.via (State.fset_keeps ..) rfl Keeps.refl
    · refine Keeps.foldl (fun _ _ => ?_) ?_
      · exact Keeps.via (State.endBoost_keeps ..) rfl Keeps.refl
      · exact Keeps.via (State.fset_keeps ..) rfl Keeps.refl


theorem execWakeNow_keeps (s : State) : OutKeeps [.regs, .ptm] s (execWakeNow s) := by
  unfold execWakeNow
  refine OutKeeps.next ?_
  exact Keeps.via (State.wakeSource_keeps ..) rfl Keeps.refl


theorem execTimerWake_keeps (s : State) : OutKeeps [.regs, .ptm] s (execTimerWake s) := by
  unfold execTimerWake
  refine OutKeeps.ite (fun _ => ?_) (fun _ => ?_)
  · refine OutKeeps.next ?_
    exact Keeps.via (State.wakeSource_keeps ..) rfl Keeps.refl
  · refine OutKeeps.next ?_
    exact Keeps.refl


end Sys2Proof.Machine
end

