-- ==== Sys2Proof/Laws/Keeps/Regs.lean ====
section
/-! SUPPORT. What the operations of Machine/Regs.lean may change, and that they keep the invariant. -/

namespace Sys2Proof.Machine

theorem State.answerRead_keeps (s : State) (a : RegAns) : Keeps [.answer] s (State.answerRead s a) := by
  unfold State.answerRead
  exact Keeps.upd_answer rfl Keeps.refl


theorem State.attnClear_keeps (s : State) (key : Nat) (v : Nat) (hw : Nat) : Keeps [.events] s (State.attnClear s key v hw) := by
  unfold State.attnClear
  exact Keeps.upd_events rfl Keeps.refl


theorem State.attnSetBits_keeps (s : State) (key : Nat) (v : Nat) : Keeps [.events] s (State.attnSetBits s key v) := by
  unfold State.attnSetBits
  exact Keeps.upd_events rfl Keeps.refl


theorem State.regErr_keeps (s : State) (cause : Nat) (dom : Nat) (src : Nat) (off : Nat) : Keeps [.regs] s (State.regErr s cause dom src off) := by
  unfold State.regErr
  exact Keeps.via (State.accErr_keeps ..) rfl Keeps.refl


theorem State.latchNow_keeps (s : State) (peek : Bool) : Keeps [.time] s (State.latchNow s peek) := by
  unfold State.latchNow
  refine Keeps.ite (fun _ => ?_) (fun _ => ?_)
  · exact Keeps.upd_time rfl Keeps.refl
  · exact Keeps.upd_time rfl Keeps.refl


theorem State.latchMtime_keeps (s : State) (peek : Bool) : Keeps [.time] s (State.latchMtime s peek) := by
  unfold State.latchMtime
  refine Keeps.ite (fun _ => ?_) (fun _ => ?_)
  · exact Keeps.upd_time rfl Keeps.refl
  · exact Keeps.upd_time rfl Keeps.refl


theorem State.readEffect_keeps (s : State) (off : Nat) (peek : Bool) (hw : Nat) : Keeps [.regs, .tins, .time, .mgc] s (State.readEffect s off peek hw) := by
  unfold State.readEffect
  refine Keeps.ite (fun _ => ?_) (fun _ => ?_)
  · exact Keeps.via (State.latchNow_keeps ..) rfl Keeps.refl
  · refine Keeps.ite (fun _ => ?_) (fun _ => ?_)
    · exact Keeps.via (State.latchMtime_keeps ..) rfl Keeps.refl
    · refine Keeps.ite (fun _ => ?_) (fun _ => ?_)
      · exact Keeps.refl
      · refine Keeps.ite (fun _ => ?_) (fun _ => ?_)
        · exact Keeps.upd_mgc rfl Keeps.refl
        · refine Keeps.ite (fun _ => ?_) (fun _ => ?_)
          · try extract_lets
            exact Keeps.via (State.setTin_keeps ..) rfl Keeps.refl
          · refine Keeps.ite (fun _ => ?_) (fun _ => ?_)
            · exact Keeps.via (State.fset_keeps ..) rfl Keeps.refl
            · split
              · exact Keeps.via (State.setReg_keeps ..) rfl Keeps.refl
              · exact Keeps.refl


theorem State.regStop_keeps (s : State) (dom : Nat) (src : Nat) (off : Nat) (write : Bool) (posted : Bool) :
    ∀ p, (State.regStop s dom src off write posted) = some p → Keeps [.regs] s p.2 := by
  intro r hr
  unfold State.regStop at hr
  have h : ∀ c, Keeps [.regs] s (s.regErr c dom src off) := fun c => State.regErr_keeps .. |>.via rfl Keeps.refl
  split at hr
  · cases hr; exact Keeps.refl
  · split at hr
    · cases hr; exact h _
    · split at hr
      · cases hr
        exact Keeps.ite (fun _ => h _) (fun _ => Keeps.refl)
      · split at hr
        · cases hr; exact h _
        · cases hr


theorem State.regRead1_keeps (s : State) (dom : Nat) (src : Nat) (off : Nat) (peek : Bool) (hw : Nat) : Keeps [.regs, .tins, .time, .mgc] s (State.regRead1 s dom src off peek hw).2 := by
  unfold State.regRead1
  split
  · exact Keeps.via (State.regStop_keeps _ _ _ _ _ _ _ ‹_›) rfl Keeps.refl
  · refine Keeps.snd_mk ?_
    exact Keeps.via (State.readEffect_keeps ..) rfl Keeps.refl


theorem State.regReadN_keeps (s : State) (dom src off : Nat) (peek : Bool) (n : Nat) : Keeps [.regs, .tins, .time, .mgc] s (State.regReadN s dom src off peek n).2.2 := by
  induction n generalizing s off with
  | zero => exact Keeps.refl
  | succ n ih => exact Keeps.trans (ih _ _) (Keeps.via (State.regRead1_keeps ..) rfl Keeps.refl)


theorem State.regRead_keeps (s : State) (dom : Nat) (src : Nat) (off : Nat) (n : Nat) (peek : Bool) : Keeps [.regs, .tins, .time, .mgc] s (State.regRead s dom src off n peek).2.2 := by
  unfold State.regRead
  refine Keeps.ite_p11 (fun _ => ?_) (fun _ => ?_)
  · exact Keeps.via (State.regReadN_keeps ..) rfl Keeps.refl
  · refine Keeps.snd_mk2 ?_
    refine Keeps.snd_mk ?_
    exact Keeps.via (State.regErr_keeps ..) rfl Keeps.refl


theorem execXAttnClear_keeps (blk : Fin 24) (value : Word) (hwSet : Word) (s : State) : OutKeeps [.events] s (execXAttnClear blk value hwSet s) := by
  unfold execXAttnClear
  refine OutKeeps.ite (fun _ => ?_) (fun _ => ?_)
  · refine OutKeeps.next ?_
    exact Keeps.via (State.attnClear_keeps ..) rfl Keeps.refl
  · refine OutKeeps.next ?_
    exact Keeps.refl


theorem execTimeNowLatch_keeps (peek : Bool) (s : State) : OutKeeps [.time, .answer] s (execTimeNowLatch peek s) := by
  unfold execTimeNowLatch
  refine OutKeeps.next ?_
  refine Keeps.via (State.answerRead_keeps ..) rfl ?_
  exact Keeps.via (State.latchNow_keeps ..) rfl Keeps.refl


theorem execMtimeLatch_keeps (peek : Bool) (s : State) : OutKeeps [.time, .answer] s (execMtimeLatch peek s) := by
  unfold execMtimeLatch
  refine OutKeeps.next ?_
  refine Keeps.via (State.answerRead_keeps ..) rfl ?_
  exact Keeps.via (State.latchMtime_keeps ..) rfl Keeps.refl


theorem execRcFieldRead_keeps (off : Nat) (dom : Dom) (src : Nat) (hwSet : Word) (s : State) : OutKeeps [.regs, .tins, .time, .mgc, .answer] s (execRcFieldRead off dom src hwSet s) := by
  unfold execRcFieldRead
  refine OutKeeps.ite (fun _ => ?_) (fun _ => ?_)
  · refine OutKeeps.next ?_
    exact Keeps.via (State.answerRead_keeps ..) rfl Keeps.refl
  · refine OutKeeps.ite (fun _ => ?_) (fun _ => ?_)
    · try extract_lets
      refine OutKeeps.next ?_
      refine Keeps.via (State.answerRead_keeps ..) rfl ?_
      exact Keeps.via (State.regRead1_keeps ..) rfl Keeps.refl
    · refine OutKeeps.next ?_
      refine Keeps.via (State.answerRead_keeps ..) rfl ?_
      exact Keeps.via (State.regErr_keeps ..) rfl Keeps.refl


theorem execXAttnSet_keeps (blk : Fin 24) (value : Word) (s : State) : OutKeeps [.events] s (execXAttnSet blk value s) := by
  unfold execXAttnSet
  refine OutKeeps.ite (fun _ => ?_) (fun _ => ?_)
  · refine OutKeeps.next ?_
    exact Keeps.via (State.attnSetBits_keeps ..) rfl Keeps.refl
  · refine OutKeeps.next ?_
    exact Keeps.refl


end Sys2Proof.Machine
end

