-- ==== Sys2Proof/Laws/Keeps/TimeKeeper.lean ====
section
/-! SUPPORT. What the operations of Machine/TimeKeeper.lean may change, and that they keep the invariant. -/

namespace Sys2Proof.Machine

theorem State.setSlew_keeps (s : State) (v : Nat) : Keeps [.time] s (State.setSlew s v) := by
  unfold State.setSlew
  exact Keeps.upd_time rfl Keeps.refl


theorem State.setDisc_keeps (s : State) (st : Nat) : Keeps [.regs, .events] s (State.setDisc s st) := by
  unfold State.setDisc
  refine Keeps.ite (fun _ => ?_) (fun _ => ?_)
  · exact Keeps.refl
  · try extract_lets
    refine Keeps.ite (fun _ => ?_) (fun _ => ?_)
    · refine Keeps.via (State.post_keeps ..) rfl ?_
      exact Keeps.via (State.fset_keeps ..) rfl Keeps.refl
    · refine Keeps.ite (fun _ => ?_) (fun _ => ?_)
      · refine Keeps.via (State.post_keeps ..) rfl ?_
        exact Keeps.via (State.fset_keeps ..) rfl Keeps.refl
      · exact Keeps.via (State.fset_keeps ..) rfl Keeps.refl


theorem State.timeStep_keeps (s : State) (t : Nat) : Keeps [.regs, .events, .now, .dram, .time, .mac] s (State.timeStep s t) := by
  unfold State.timeStep
  try extract_lets
  refine Keeps.via (State.post_keeps ..) rfl ?_
  refine Keeps.foldl (fun _ _ => ?_) ?_
  · try extract_lets
    try dsimp +zetaDelta only
    split
    · refine Keeps.ite (fun _ => ?_) (fun _ => ?_)
      · refine Keeps.via (State.stat_keeps ..) rfl ?_
        exact Keeps.upd_mac rfl Keeps.refl
      · exact Keeps.refl
    · exact Keeps.refl
  · refine Keeps.foldl (fun _ _ => ?_) ?_
    · try extract_lets
      refine Keeps.foldl (fun _ _ => ?_) ?_
      · exact Keeps.via (State.stat_keeps ..) rfl Keeps.refl
      · exact Keeps.upd_mac rfl Keeps.refl
    · refine Keeps.upd_now_dram_time rfl ?_ ?_
      rotate_left
      · first | exact fun h => h | exact memDrop_wf | exact writeBytes_wf | exact fun _ => rfl | (dsimp only; exact memDrop_wf)
      exact Keeps.refl


theorem State.timeSet_keeps (s : State) (dom : Nat) (src : Nat) : Keeps [.regs, .events, .now, .dram, .time, .mac] s (State.timeSet s dom src) := by
  unfold State.timeSet
  try extract_lets
  refine Keeps.ite (fun _ => ?_) (fun _ => ?_)
  · exact Keeps.via (State.accErr_keeps ..) rfl Keeps.refl
  · exact Keeps.via (State.timeStep_keeps ..) rfl Keeps.refl


theorem State.setMtip_keeps (s : State) (h : Nat) : Keeps [.mgc] s (State.setMtip s h) := by
  unfold State.setMtip
  exact Keeps.via (State.setHart_keeps ..) rfl Keeps.refl


theorem State.tickTime_keeps (s : State) : Keeps [.now, .dram, .time, .mgc] s (State.tickTime s) := by
  unfold State.tickTime
  refine Keeps.ite (fun _ => ?_) (fun _ => ?_)
  · exact Keeps.refl
  · try extract_lets
    refine Keeps.foldl (fun _ _ => ?_) ?_
    · refine Keeps.ite (fun _ => ?_) (fun _ => ?_)
      · exact Keeps.refl
      · exact Keeps.via (State.setMtip_keeps ..) rfl Keeps.refl
    · refine Keeps.upd_now_dram_time rfl ?_ ?_
      rotate_left
      · first | exact fun h => h | exact memDrop_wf | exact writeBytes_wf | exact fun _ => rfl | (dsimp only; exact memDrop_wf)
      exact Keeps.refl


theorem execTimerInterrupt_keeps (h : HartIx) (s : State) : OutKeeps [.mgc] s (execTimerInterrupt h s) := by
  unfold execTimerInterrupt
  refine OutKeeps.next ?_
  exact Keeps.via (State.setMtip_keeps ..) rfl Keeps.refl


theorem execPpsInEdge_keeps (fall : Bool) (s : State) : OutKeeps [.regs, .events, .now, .dram, .time, .mac] s (execPpsInEdge fall s) := by
  unfold execPpsInEdge
  refine OutKeeps.ite (fun _ => ?_) (fun _ => ?_)
  · try extract_lets
    refine OutKeeps.ite (fun _ => ?_) (fun _ => ?_)
    · refine OutKeeps.next ?_
      refine Keeps.via (State.fset_keeps ..) rfl ?_
      refine Keeps.via (State.fset_keeps ..) rfl ?_
      exact Keeps.via (State.fset_keeps ..) rfl Keeps.refl
    · try extract_lets
      refine OutKeeps.ite (fun _ => ?_) (fun _ => ?_)
      · refine OutKeeps.next ?_
        refine Keeps.via (State.setSlew_keeps ..) rfl ?_
        refine Keeps.via (State.fset_keeps ..) rfl ?_
        refine Keeps.via (State.setDisc_keeps ..) rfl ?_
        refine Keeps.upd_time rfl ?_
        refine Keeps.via (State.fset_keeps ..) rfl ?_
        refine Keeps.via (State.fset_keeps ..) rfl ?_
        refine Keeps.via (State.fset_keeps ..) rfl ?_
        exact Keeps.via (State.fset_keeps ..) rfl Keeps.refl
      · refine OutKeeps.next ?_
        refine Keeps.via (State.timeStep_keeps ..) rfl ?_
        refine Keeps.via (State.setDisc_keeps ..) rfl ?_
        refine Keeps.upd_time rfl ?_
        refine Keeps.via (State.fset_keeps ..) rfl ?_
        refine Keeps.via (State.fset_keeps ..) rfl ?_
        refine Keeps.via (State.fset_keeps ..) rfl ?_
        exact Keeps.via (State.fset_keeps ..) rfl Keeps.refl
  · refine OutKeeps.next ?_
    exact Keeps.refl


theorem execTimeStep_keeps (dom : Dom) (src : Fin 4096) (s : State) : OutKeeps [.regs, .events, .now, .dram, .time, .mac] s (execTimeStep dom src s) := by
  unfold execTimeStep
  refine OutKeeps.next ?_
  exact Keeps.via (State.timeSet_keeps ..) rfl Keeps.refl


theorem execTimeHoldover_keeps (s : State) : OutKeeps [.regs, .events, .time] s (execTimeHoldover s) := by
  unfold execTimeHoldover
  refine OutKeeps.ite (fun _ => ?_) (fun _ => ?_)
  · refine OutKeeps.next ?_
    refine Keeps.via (State.setDisc_keeps ..) rfl ?_
    exact Keeps.upd_time rfl Keeps.refl
  · refine OutKeeps.next ?_
    exact Keeps.refl


theorem execDieTimeAlign_keeps (d : DieIx) (s : State) : OutKeeps [.time] s (execDieTimeAlign d s) := by
  unfold execDieTimeAlign
  refine OutKeeps.ite (fun _ => ?_) (fun _ => ?_)
  · refine OutKeeps.next ?_
    exact Keeps.refl
  · refine OutKeeps.next ?_
    exact Keeps.upd_time rfl Keeps.refl


theorem execTimeAdjWrite_keeps (v : Word) (s : State) : OutKeeps [.time] s (execTimeAdjWrite v s) := by
  unfold execTimeAdjWrite
  refine OutKeeps.next ?_
  exact Keeps.via (State.setSlew_keeps ..) rfl Keeps.refl


theorem execPpsOut_keeps (s : State) : OutKeeps [.regs, .events, .tins, .larder, .time, .dbg, .mgc, .free] s (execPpsOut s) := by
  unfold execPpsOut
  refine OutKeeps.next ?_
  refine Keeps.via (State.xt_keeps ..) rfl ?_
  exact Keeps.upd_time rfl Keeps.refl


end Sys2Proof.Machine
end

