-- ==== Sys2Proof/Laws/Keeps/RegWrite.lean ====
section
/-! SUPPORT. What the operations of Machine/RegWrite.lean may change, and that they keep the invariant. -/

namespace Sys2Proof.Machine

theorem State.dmCommand_keeps (s : State) (v : Nat) : Keeps [.dbg, .mgc] s (State.dmCommand s v) := by
  unfold State.dmCommand
  try extract_lets
  refine Keeps.ite (fun _ => ?_) (fun _ => ?_)
  · exact Keeps.refl
  · refine Keeps.ite (fun _ => ?_) (fun _ => ?_)
    · exact Keeps.via (State.cmdErr_keeps ..) rfl Keeps.refl
    · refine Keeps.ite (fun _ => ?_) (fun _ => ?_)
      · exact Keeps.via (State.cmdErr_keeps ..) rfl Keeps.refl
      · refine Keeps.ite (fun _ => ?_) (fun _ => ?_)
        · exact Keeps.via (State.accessRegister_keeps ..) rfl Keeps.refl
        · exact Keeps.refl


theorem State.dmControl_keeps (s : State) (v : Nat) : Keeps [.regs, .events, .dbg, .mgc, .free] s (State.dmControl s v) := by
  unfold State.dmControl
  refine Keeps.ite (fun _ => ?_) (fun _ => ?_)
  · exact Keeps.upd_dbg rfl Keeps.refl
  · try extract_lets
    refine Keeps.ite (fun _ => ?_) (fun _ => ?_)
    · exact Keeps.via (State.setDm_keeps ..) rfl Keeps.refl
    · refine Keeps.ite (fun _ => ?_) (fun _ => ?_)
      · refine Keeps.via (State.haltHart_keeps ..) rfl ?_
        exact Keeps.via (State.setDm_keeps ..) rfl Keeps.refl
      · refine Keeps.ite (fun _ => ?_) (fun _ => ?_)
        · refine Keeps.via (State.setDm_keeps ..) rfl ?_
          refine Keeps.via (State.resumeHart_keeps ..) rfl ?_
          exact Keeps.via (State.setDm_keeps ..) rfl Keeps.refl
        · exact Keeps.via (State.setDm_keeps ..) rfl Keeps.refl


theorem State.writeDm_keeps (s : State) (a : Nat) (v : Nat) : Keeps [.regs, .events, .dbg, .mgc, .free] s (State.writeDm s a v) := by
  unfold State.writeDm
  refine Keeps.ite (fun _ => ?_) (fun _ => ?_)
  · exact Keeps.via (State.dmControl_keeps ..) rfl Keeps.refl
  · refine Keeps.ite (fun _ => ?_) (fun _ => ?_)
    · exact Keeps.via (State.dmCommand_keeps ..) rfl Keeps.refl
    · refine Keeps.ite (fun _ => ?_) (fun _ => ?_)
      · exact Keeps.via (State.setDm_keeps ..) rfl Keeps.refl
      · refine Keeps.ite (fun _ => ?_) (fun _ => ?_)
        · exact Keeps.via (State.setDm_keeps ..) rfl Keeps.refl
        · exact Keeps.refl


theorem State.regStore_keeps (s : State) (dom : Nat) (src : Nat) (off : Nat) (v : Nat) (locked : Bool) : Keeps [.regs] s (State.regStore s dom src off v locked) := by
  unfold State.regStore
  split
  · exact Keeps.refl
  · try extract_lets
    refine Keeps.ite (fun _ => ?_) (fun _ => ?_)
    · refine Keeps.via (State.regErr_keeps ..) rfl ?_
      exact Keeps.via (State.setReg_keeps ..) rfl Keeps.refl
    · exact Keeps.via (State.setReg_keeps ..) rfl Keeps.refl


theorem State.hqeQctl_keeps (s : State) (dom : Nat) (src : Nat) (v : Nat) (cids : List Nat) : Keeps [.regs, .events, .tins, .hqe, .cfg] s (State.hqeQctl s dom src v cids) := by
  unfold State.hqeQctl
  refine Keeps.ite (fun _ => ?_) (fun _ => ?_)
  · refine Keeps.ite (fun _ => ?_) (fun _ => ?_)
    · exact Keeps.refl
    · exact Keeps.via (State.adminDisable_keeps ..) rfl Keeps.refl
  · try extract_lets
    refine Keeps.ite (fun _ => ?_) (fun _ => ?_)
    · refine Keeps.via (State.adminEnable_keeps ..) rfl ?_
      exact Keeps.via (State.regStore_keeps ..) rfl Keeps.refl
    · exact Keeps.via (State.regStore_keeps ..) rfl Keeps.refl


theorem State.writeQctl_keeps (s : State) (dom : Nat) (src : Nat) (v : Nat) : Keeps [.regs, .events, .tins, .hqe, .cfg, .free] s (State.writeQctl s dom src v) := by
  unfold State.writeQctl
  try extract_lets
  refine Keeps.via (State.hqeQctl_keeps ..) rfl ?_
  exact Keeps.via (State.takeFree_keeps ..) rfl Keeps.refl


theorem State.writeTinCtl_keeps (s : State) (dom : Nat) (src : Nat) (v : Nat) : Keeps [.regs, .tins, .ring, .laneOut, .seamCh, .larder, .dbg, .answer] s (State.writeTinCtl s dom src v) := by
  unfold State.writeTinCtl
  try extract_lets
  refine Keeps.ite (fun _ => ?_) (fun _ => ?_)
  · refine Keeps.via (State.tinOp_keeps ..) rfl ?_
    exact Keeps.via (State.regStore_keeps ..) rfl Keeps.refl
  · exact Keeps.via (State.regStore_keeps ..) rfl Keeps.refl


theorem State.writeWdg_keeps (s : State) (dom : Nat) (src : Nat) (h : Nat) (v : Nat) : Keeps [.regs, .mgc] s (State.writeWdg s dom src h v) := by
  unfold State.writeWdg
  refine Keeps.ite (fun _ => ?_) (fun _ => ?_)
  · exact Keeps.via (State.fset_keeps ..) rfl Keeps.refl
  · try extract_lets
    refine Keeps.ite (fun _ => ?_) (fun _ => ?_)
    · refine Keeps.via (State.setHart_keeps ..) rfl ?_
      exact Keeps.via (State.regStore_keeps ..) rfl Keeps.refl
    · refine Keeps.ite (fun _ => ?_) (fun _ => ?_)
      · exact Keeps.via (State.regStore_keeps ..) rfl Keeps.refl
      · refine Keeps.via (State.setHart_keeps ..) rfl ?_
        exact Keeps.via (State.regStore_keeps ..) rfl Keeps.refl


theorem State.writeTracePort_keeps (s : State) (dom : Nat) (src : Nat) (v : Nat) : Keeps [.regs] s (State.writeTracePort s dom src v) := by
  unfold State.writeTracePort
  try extract_lets
  refine Keeps.ite (fun _ => ?_) (fun _ => ?_)
  · exact Keeps.via (State.regErr_keeps ..) rfl Keeps.refl
  · exact Keeps.via (State.regStore_keeps ..) rfl Keeps.refl


theorem State.releasePads_keeps (s : State) (v : Nat) : Keeps [.regs, .pads] s (State.releasePads s v) := by
  unfold State.releasePads
  refine Keeps.foldl (fun _ _ => ?_) ?_
  · refine Keeps.ite (fun _ => ?_) (fun _ => ?_)
    · exact Keeps.via (State.padRelease_keeps ..) rfl Keeps.refl
    · exact Keeps.refl
  · exact Keeps.refl


theorem State.writeTimeCtl_keeps (s : State) (dom : Nat) (src : Nat) (v : Nat) : Keeps [.regs, .events, .now, .dram, .time, .mac] s (State.writeTimeCtl s dom src v) := by
  unfold State.writeTimeCtl
  try extract_lets
  refine Keeps.ite (fun _ => ?_) (fun _ => ?_)
  · refine Keeps.via (State.timeSet_keeps ..) rfl ?_
    refine Keeps.ite (fun _ => ?_) (fun _ => ?_)
    · refine Keeps.via (State.setDisc_keeps ..) rfl ?_
      exact Keeps.via (State.regStore_keeps ..) rfl Keeps.refl
    · refine Keeps.ite (fun _ => ?_) (fun _ => ?_)
      · refine Keeps.via (State.setDisc_keeps ..) rfl ?_
        refine Keeps.upd_time rfl ?_
        exact Keeps.via (State.regStore_keeps ..) rfl Keeps.refl
      · exact Keeps.via (State.regStore_keeps ..) rfl Keeps.refl
  · refine Keeps.ite (fun _ => ?_) (fun _ => ?_)
    · refine Keeps.via (State.setDisc_keeps ..) rfl ?_
      exact Keeps.via (State.regStore_keeps ..) rfl Keeps.refl
    · refine Keeps.ite (fun _ => ?_) (fun _ => ?_)
      · refine Keeps.via (State.setDisc_keeps ..) rfl ?_
        refine Keeps.upd_time rfl ?_
        exact Keeps.via (State.regStore_keeps ..) rfl Keeps.refl
      · exact Keeps.via (State.regStore_keeps ..) rfl Keeps.refl


theorem State.writeCmo_keeps (s : State) (dom : Nat) (src : Nat) (v : Nat) : Keeps [.regs, .events, .tins, .larder, .pool, .corr, .noc, .dram, .breadbox, .pads, .mac, .mgc, .cfg, .free] s (State.writeCmo s dom src v) := by
  unfold State.writeCmo
  refine Keeps.ite (fun _ => ?_) (fun _ => ?_)
  · exact Keeps.refl
  · try extract_lets
    refine Keeps.ite (fun _ => ?_) (fun _ => ?_)
    · refine Keeps.via (State.cmo_keeps ..) rfl ?_
      exact Keeps.via (State.regStore_keeps ..) rfl Keeps.refl
    · exact Keeps.via (State.regStore_keeps ..) rfl Keeps.refl


theorem State.writeTraceCtl_keeps (s : State) (dom : Nat) (src : Nat) (v : Nat) : Keeps [.regs, .events, .larder, .dbg] s (State.writeTraceCtl s dom src v) := by
  unfold State.writeTraceCtl
  try extract_lets
  refine Keeps.via (State.regStore_keeps ..) rfl ?_
  refine Keeps.ite (fun _ => ?_) (fun _ => ?_)
  · exact Keeps.via (State.traceStart_keeps ..) rfl Keeps.refl
  · exact Keeps.via (State.traceStop_keeps ..) rfl Keeps.refl


theorem State.writeEvtCtl_keeps (s : State) (dom : Nat) (src : Nat) (v : Nat) : Keeps [.regs, .mgc] s (State.writeEvtCtl s dom src v) := by
  unfold State.writeEvtCtl
  try extract_lets
  refine Keeps.ite (fun _ => ?_) (fun _ => ?_)
  · refine Keeps.upd_mgc rfl ?_
    exact Keeps.via (State.regStore_keeps ..) rfl Keeps.refl
  · exact Keeps.via (State.regStore_keeps ..) rfl Keeps.refl


theorem State.writeLayout_keeps (s : State) (dom : Nat) (src : Nat) (v : Nat) : Keeps [.regs] s (State.writeLayout s dom src v) := by
  unfold State.writeLayout
  refine Keeps.ite (fun _ => ?_) (fun _ => ?_)
  · exact Keeps.refl
  · refine Keeps.ite (fun _ => ?_) (fun _ => ?_)
    · exact Keeps.via (State.regErr_keeps ..) rfl Keeps.refl
    · exact Keeps.via (State.regStore_keeps ..) rfl Keeps.refl


theorem State.writeHub_keeps (s : State) (dom : Nat) (src : Nat) (off : Nat) (v : Nat) : Keeps [.regs, .events, .now, .tins, .ring, .laneOut, .seamCh, .vgoal, .larder, .pool, .corr, .noc, .dram, .breadbox, .pads, .time, .mac, .dbg, .mgc, .hqe, .cfg, .ptm, .answer, .free] s (State.writeHub s dom src off v) := by
  unfold State.writeHub
  try extract_lets
  refine Keeps.ite (fun _ => ?_) (fun _ => ?_)
  · refine Keeps.ite (fun _ => ?_) (fun _ => ?_)
    · refine Keeps.via (State.wakeSource_keeps ..) rfl ?_
      exact Keeps.via (State.regStore_keeps ..) rfl Keeps.refl
    · exact Keeps.via (State.regStore_keeps ..) rfl Keeps.refl
  · refine Keeps.ite (fun _ => ?_) (fun _ => ?_)
    · refine Keeps.via (State.vsetWritten_keeps ..) rfl ?_
      exact Keeps.via (State.regStore_keeps ..) rfl Keeps.refl
    · refine Keeps.ite (fun _ => ?_) (fun _ => ?_)
      · refine Keeps.foldl (fun _ _ => ?_) ?_
        · exact Keeps.via (State.boostCheck_keeps ..) rfl Keeps.refl
        · exact Keeps.via (State.regStore_keeps ..) rfl Keeps.refl
      · refine Keeps.ite (fun _ => ?_) (fun _ => ?_)
        · exact Keeps.via (State.releasePads_keeps ..) rfl Keeps.refl
        · refine Keeps.ite (fun _ => ?_) (fun _ => ?_)
          · refine Keeps.ite (fun _ => ?_) (fun _ => ?_)
            · refine Keeps.via (State.clkSwitch_keeps ..) rfl ?_
              exact Keeps.via (State.regStore_keeps ..) rfl Keeps.refl
            · exact Keeps.via (State.regStore_keeps ..) rfl Keeps.refl
          · refine Keeps.ite (fun _ => ?_) (fun _ => ?_)
            · exact Keeps.via (State.writeTimeCtl_keeps ..) rfl Keeps.refl
            · refine Keeps.ite (fun _ => ?_) (fun _ => ?_)
              · exact Keeps.via (State.setSlew_keeps ..) rfl Keeps.refl
              · refine Keeps.ite (fun _ => ?_) (fun _ => ?_)
                · exact Keeps.via (State.dtx_keeps ..) rfl Keeps.refl
                · refine Keeps.ite (fun _ => ?_) (fun _ => ?_)
                  · exact Keeps.via (State.writeTraceCtl_keeps ..) rfl Keeps.refl
                  · refine Keeps.ite (fun _ => ?_) (fun _ => ?_)
                    · exact Keeps.via (State.writeTracePort_keeps ..) rfl Keeps.refl
                    · refine Keeps.ite (fun _ => ?_) (fun _ => ?_)
                      · exact Keeps.via (State.writeTinCtl_keeps ..) rfl Keeps.refl
                      · refine Keeps.ite (fun _ => ?_) (fun _ => ?_)
                        · exact Keeps.via (State.stimulus_keeps ..) rfl Keeps.refl
                        · refine Keeps.ite (fun _ => ?_) (fun _ => ?_)
                          · refine Keeps.ite (fun _ => ?_) (fun _ => ?_)
                            · refine Keeps.via (State.bootStart_keeps ..) rfl ?_
                              exact Keeps.via (State.regStore_keeps ..) rfl Keeps.refl
                            · exact Keeps.via (State.regStore_keeps ..) rfl Keeps.refl
                          · refine Keeps.ite (fun _ => ?_) (fun _ => ?_)
                            · exact Keeps.via (State.writeWdg_keeps ..) rfl Keeps.refl
                            · refine Keeps.ite (fun _ => ?_) (fun _ => ?_)
                              · exact Keeps.via (State.kick_keeps ..) rfl Keeps.refl
                              · refine Keeps.ite (fun _ => ?_) (fun _ => ?_)
                                · refine Keeps.via (State.setMtip_keeps ..) rfl ?_
                                  exact Keeps.via (State.regStore_keeps ..) rfl Keeps.refl
                                · refine Keeps.ite (fun _ => ?_) (fun _ => ?_)
                                  · exact Keeps.via (State.writeCmo_keeps ..) rfl Keeps.refl
                                  · refine Keeps.ite (fun _ => ?_) (fun _ => ?_)
                                    · exact Keeps.via (State.writeEvtCtl_keeps ..) rfl Keeps.refl
                                    · refine Keeps.ite (fun _ => ?_) (fun _ => ?_)
                                      · exact Keeps.upd_mgc rfl Keeps.refl
                                      · refine Keeps.ite (fun _ => ?_) (fun _ => ?_)
                                        · refine Keeps.ite (fun _ => ?_) (fun _ => ?_)
                                          · exact Keeps.via (State.secGo_keeps ..) rfl Keeps.refl
                                          · exact Keeps.refl
                                        · refine Keeps.ite (fun _ => ?_) (fun _ => ?_)
                                          · exact Keeps.via (State.writeQctl_keeps ..) rfl Keeps.refl
                                          · refine Keeps.ite (fun _ => ?_) (fun _ => ?_)
                                            · refine Keeps.ite (fun _ => ?_) (fun _ => ?_)
                                              · exact Keeps.refl
                                              · exact Keeps.via (State.regStore_keeps ..) rfl Keeps.refl
                                            · refine Keeps.ite (fun _ => ?_) (fun _ => ?_)
                                              · exact Keeps.via (State.writeLayout_keeps ..) rfl Keeps.refl
                                              · exact Keeps.via (State.regStore_keeps ..) rfl Keeps.refl


theorem State.gpioOut_keeps (s : State) (d : Nat) (dom : Nat) (v : Nat) : Keeps [.regs] s (State.gpioOut s d dom v) := by
  unfold State.gpioOut
  try extract_lets
  exact Keeps.via (State.fset_keeps ..) rfl Keeps.refl


theorem State.writeLane_keeps (s : State) (dom : Nat) (src : Nat) (l : Nat) (v : Nat) : Keeps [.regs, .events, .larder, .pool, .corr, .lanes, .mac, .free] s (State.writeLane s dom src l v) := by
  unfold State.writeLane
  try extract_lets
  refine Keeps.ite (fun _ => ?_) (fun _ => ?_)
  · refine Keeps.via (State.regErr_keeps ..) rfl ?_
    refine Keeps.ite (fun _ => ?_) (fun _ => ?_)
    · refine Keeps.via (State.chkClear_keeps ..) rfl ?_
      refine Keeps.ite (fun _ => ?_) (fun _ => ?_)
      · refine Keeps.via (State.injOnce_keeps ..) rfl ?_
        refine Keeps.ite (fun _ => ?_) (fun _ => ?_)
        · try extract_lets
          refine Keeps.via (State.retrain_keeps ..) rfl ?_
          refine Keeps.via (State.takeFree_keeps ..) rfl ?_
          refine Keeps.via (State.setLoopback_keeps ..) rfl ?_
          refine Keeps.via (State.setRate_keeps ..) rfl ?_
          refine Keeps.ite (fun _ => ?_) (fun _ => ?_)
          · refine Keeps.via (State.fset_keeps ..) rfl ?_
            refine Keeps.via (State.fset_keeps ..) rfl ?_
            refine Keeps.via (State.fset_keeps ..) rfl ?_
            exact Keeps.via (State.fset_keeps ..) rfl Keeps.refl
          · refine Keeps.via (State.updateLinks_keeps ..) rfl ?_
            refine Keeps.via (State.fset_keeps ..) rfl ?_
            refine Keeps.via (State.fset_keeps ..) rfl ?_
            refine Keeps.via (State.fset_keeps ..) rfl ?_
            refine Keeps.via (State.fset_keeps ..) rfl ?_
            exact Keeps.via (State.fset_keeps ..) rfl Keeps.refl
        · refine Keeps.via (State.setLoopback_keeps ..) rfl ?_
          refine Keeps.via (State.setRate_keeps ..) rfl ?_
          refine Keeps.ite (fun _ => ?_) (fun _ => ?_)
          · refine Keeps.via (State.fset_keeps ..) rfl ?_
            refine Keeps.via (State.fset_keeps ..) rfl ?_
            refine Keeps.via (State.fset_keeps ..) rfl ?_
            exact Keeps.via (State.fset_keeps ..) rfl Keeps.refl
          · refine Keeps.via (State.updateLinks_keeps ..) rfl ?_
            refine Keeps.via (State.fset_keeps ..) rfl ?_
            refine Keeps.via (State.fset_keeps ..) rfl ?_
            refine Keeps.via (State.fset_keeps ..) rfl ?_
            refine Keeps.via (State.fset_keeps ..) rfl ?_
            exact Keeps.via (State.fset_keeps ..) rfl Keeps.refl
      · refine Keeps.ite (fun _ => ?_) (fun _ => ?_)
        · try extract_lets
          refine Keeps.via (State.retrain_keeps ..) rfl ?_
          refine Keeps.via (State.takeFree_keeps ..) rfl ?_
          refine Keeps.via (State.setLoopback_keeps ..) rfl ?_
          refine Keeps.via (State.setRate_keeps ..) rfl ?_
          refine Keeps.ite (fun _ => ?_) (fun _ => ?_)
          · refine Keeps.via (State.fset_keeps ..) rfl ?_
            refine Keeps.via (State.fset_keeps ..) rfl ?_
            refine Keeps.via (State.fset_keeps ..) rfl ?_
            exact Keeps.via (State.fset_keeps ..) rfl Keeps.refl
          · refine Keeps.via (State.updateLinks_keeps ..) rfl ?_
            refine Keeps.via (State.fset_keeps ..) rfl ?_
            refine Keeps.via (State.fset_keeps ..) rfl ?_
            refine Keeps.via (State.fset_keeps ..) rfl ?_
            refine Keeps.via (State.fset_keeps ..) rfl ?_
            exact Keeps.via (State.fset_keeps ..) rfl Keeps.refl
        · refine Keeps.via (State.setLoopback_keeps ..) rfl ?_
          refine Keeps.via (State.setRate_keeps ..) rfl ?_
          refine Keeps.ite (fun _ => ?_) (fun _ => ?_)
          · refine Keeps.via (State.fset_keeps ..) rfl ?_
            refine Keeps.via (State.fset_keeps ..) rfl ?_
            refine Keeps.via (State.fset_keeps ..) rfl ?_
            exact Keeps.via (State.fset_keeps ..) rfl Keeps.refl
          · refine Keeps.via (State.updateLinks_keeps ..) rfl ?_
            refine Keeps.via (State.fset_keeps ..) rfl ?_
            refine Keeps.via (State.fset_keeps ..) rfl ?_
            refine Keeps.via (State.fset_keeps ..) rfl ?_
            refine Keeps.via (State.fset_keeps ..) rfl ?_
            exact Keeps.via (State.fset_keeps ..) rfl Keeps.refl
    · refine Keeps.ite (fun _ => ?_) (fun _ => ?_)
      · refine Keeps.via (State.injOnce_keeps ..) rfl ?_
        refine Keeps.ite (fun _ => ?_) (fun _ => ?_)
        · try extract_lets
          refine Keeps.via (State.retrain_keeps ..) rfl ?_
          refine Keeps.via (State.takeFree_keeps ..) rfl ?_
          refine Keeps.via (State.setLoopback_keeps ..) rfl ?_
          refine Keeps.via (State.setRate_keeps ..) rfl ?_
          refine Keeps.ite (fun _ => ?_) (fun _ => ?_)
          · refine Keeps.via (State.fset_keeps ..) rfl ?_
            refine Keeps.via (State.fset_keeps ..) rfl ?_
            refine Keeps.via (State.fset_keeps ..) rfl ?_
            exact Keeps.via (State.fset_keeps ..) rfl Keeps.refl
          · refine Keeps.via (State.updateLinks_keeps ..) rfl ?_
            refine Keeps.via (State.fset_keeps ..) rfl ?_
            refine Keeps.via (State.fset_keeps ..) rfl ?_
            refine Keeps.via (State.fset_keeps ..) rfl ?_
            refine Keeps.via (State.fset_keeps ..) rfl ?_
            exact Keeps.via (State.fset_keeps ..) rfl Keeps.refl
        · refine Keeps.via (State.setLoopback_keeps ..) rfl ?_
          refine Keeps.via (State.setRate_keeps ..) rfl ?_
          refine Keeps.ite (fun _ => ?_) (fun _ => ?_)
          · refine Keeps.via (State.fset_keeps ..) rfl ?_
            refine Keeps.via (State.fset_keeps ..) rfl ?_
            refine Keeps.via (State.fset_keeps ..) rfl ?_
            exact Keeps.via (State.fset_keeps ..) rfl Keeps.refl
          · refine Keeps.via (State.updateLinks_keeps ..) rfl ?_
            refine Keeps.via (State.fset_keeps ..) rfl ?_
            refine Keeps.via (State.fset_keeps ..) rfl ?_
            refine Keeps.via (State.fset_keeps ..) rfl ?_
            refine Keeps.via (State.fset_keeps ..) rfl ?_
            exact Keeps.via (State.fset_keeps ..) rfl Keeps.refl
      · refine Keeps.ite (fun _ => ?_) (fun _ => ?_)
        · try extract_lets
          refine Keeps.via (State.retrain_keeps ..) rfl ?_
          refine Keeps.via (State.takeFree_keeps ..) rfl ?_
          refine Keeps.via (State.setLoopback_keeps ..) rfl ?_
          refine Keeps.via (State.setRate_keeps ..) rfl ?_
          refine Keeps.ite (fun _ => ?_) (fun _ => ?_)
          · refine Keeps.via (State.fset_keeps ..) rfl ?_
            refine Keeps.via (State.fset_keeps ..) rfl ?_
            refine Keeps.via (State.fset_keeps ..) rfl ?_
            exact Keeps.via (State.fset_keeps ..) rfl Keeps.refl
          · refine Keeps.via (State.updateLinks_keeps ..) rfl ?_
            refine Keeps.via (State.fset_keeps ..) rfl ?_
            refine Keeps.via (State.fset_keeps ..) rfl ?_
            refine Keeps.via (State.fset_keeps ..) rfl ?_
            refine Keeps.via (State.fset_keeps ..) rfl ?_
            exact Keeps.via (State.fset_keeps ..) rfl Keeps.refl
        · refine Keeps.via (State.setLoopback_keeps ..) rfl ?_
          refine Keeps.via (State.setRate_keeps ..) rfl ?_
          refine Keeps.ite (fun _ => ?_) (fun _ => ?_)
          · refine Keeps.via (State.fset_keeps ..) rfl ?_
            refine Keeps.via (State.fset_keeps ..) rfl ?_
            refine Keeps.via (State.fset_keeps ..) rfl ?_
            exact Keeps.via (State.fset_keeps ..) rfl Keeps.refl
          · refine Keeps.via (State.updateLinks_keeps ..) rfl ?_
            refine Keeps.via (State.fset_keeps ..) rfl ?_
            refine Keeps.via (State.fset_keeps ..) rfl ?_
            refine Keeps.via (State.fset_keeps ..) rfl ?_
            refine Keeps.via (State.fset_keeps ..) rfl ?_
            exact Keeps.via (State.fset_keeps ..) rfl Keeps.refl
  · refine Keeps.ite (fun _ => ?_) (fun _ => ?_)
    · refine Keeps.via (State.chkClear_keeps ..) rfl ?_
      refine Keeps.ite (fun _ => ?_) (fun _ => ?_)
      · refine Keeps.via (State.injOnce_keeps ..) rfl ?_
        refine Keeps.ite (fun _ => ?_) (fun _ => ?_)
        · try extract_lets
          refine Keeps.via (State.retrain_keeps ..) rfl ?_
          refine Keeps.via (State.takeFree_keeps ..) rfl ?_
          refine Keeps.via (State.setLoopback_keeps ..) rfl ?_
          refine Keeps.via (State.setRate_keeps ..) rfl ?_
          refine Keeps.ite (fun _ => ?_) (fun _ => ?_)
          · refine Keeps.via (State.fset_keeps ..) rfl ?_
            refine Keeps.via (State.fset_keeps ..) rfl ?_
            refine Keeps.via (State.fset_keeps ..) rfl ?_
            exact Keeps.via (State.fset_keeps ..) rfl Keeps.refl
          · refine Keeps.via (State.updateLinks_keeps ..) rfl ?_
            refine Keeps.via (State.fset_keeps ..) rfl ?_
            refine Keeps.via (State.fset_keeps ..) rfl ?_
            refine Keeps.via (State.fset_keeps ..) rfl ?_
            refine Keeps.via (State.fset_keeps ..) rfl ?_
            exact Keeps.via (State.fset_keeps ..) rfl Keeps.refl
        · refine Keeps.via (State.setLoopback_keeps ..) rfl ?_
          refine Keeps.via (State.setRate_keeps ..) rfl ?_
          refine Keeps.ite (fun _ => ?_) (fun _ => ?_)
          · refine Keeps.via (State.fset_keeps ..) rfl ?_
            refine Keeps.via (State.fset_keeps ..) rfl ?_
            refine Keeps.via (State.fset_keeps ..) rfl ?_
            exact Keeps.via (State.fset_keeps ..) rfl Keeps.refl
          · refine Keeps.via (State.updateLinks_keeps ..) rfl ?_
            refine Keeps.via (State.fset_keeps ..) rfl ?_
            refine Keeps.via (State.fset_keeps ..) rfl ?_
            refine Keeps.via (State.fset_keeps ..) rfl ?_
            refine Keeps.via (State.fset_keeps ..) rfl ?_
            exact Keeps.via (State.fset_keeps ..) rfl Keeps.refl
      · refine Keeps.ite (fun _ => ?_) (fun _ => ?_)
        · try extract_lets
          refine Keeps.via (State.retrain_keeps ..) rfl ?_
          refine Keeps.via (State.takeFree_keeps ..) rfl ?_
          refine Keeps.via (State.setLoopback_keeps ..) rfl ?_
          refine Keeps.via (State.setRate_keeps ..) rfl ?_
          refine Keeps.ite (fun _ => ?_) (fun _ => ?_)
          · refine Keeps.via (State.fset_keeps ..) rfl ?_
            refine Keeps.via (State.fset_keeps ..) rfl ?_
            refine Keeps.via (State.fset_keeps ..) rfl ?_
            exact Keeps.via (State.fset_keeps ..) rfl Keeps.refl
          · refine Keeps.via (State.updateLinks_keeps ..) rfl ?_
            refine Keeps.via (State.fset_keeps ..) rfl ?_
            refine Keeps.via (State.fset_keeps ..) rfl ?_
            refine Keeps.via (State.fset_keeps ..) rfl ?_
            refine Keeps.via (State.fset_keeps ..) rfl ?_
            exact Keeps.via (State.fset_keeps ..) rfl Keeps.refl
        · refine Keeps.via (State.setLoopback_keeps ..) rfl ?_
          refine Keeps.via (State.setRate_keeps ..) rfl ?_
          refine Keeps.ite (fun _ => ?_) (fun _ => ?_)
          · refine Keeps.via (State.fset_keeps ..) rfl ?_
            refine Keeps.via (State.fset_keeps ..) rfl ?_
            refine Keeps.via (State.fset_keeps ..) rfl ?_
            exact Keeps.via (State.fset_keeps ..) rfl Keeps.refl
          · refine Keeps.via (State.updateLinks_keeps ..) rfl ?_
            refine Keeps.via (State.fset_keeps ..) rfl ?_
            refine Keeps.via (State.fset_keeps ..) rfl ?_
            refine Keeps.via (State.fset_keeps ..) rfl ?_
            refine Keeps.via (State.fset_keeps ..) rfl ?_
            exact Keeps.via (State.fset_keeps ..) rfl Keeps.refl
    · refine Keeps.ite (fun _ => ?_) (fun _ => ?_)
      · refine Keeps.via (State.injOnce_keeps ..) rfl ?_
        refine Keeps.ite (fun _ => ?_) (fun _ => ?_)
        · try extract_lets
          refine Keeps.via (State.retrain_keeps ..) rfl ?_
          refine Keeps.via (State.takeFree_keeps ..) rfl ?_
          refine Keeps.via (State.setLoopback_keeps ..) rfl ?_
          refine Keeps.via (State.setRate_keeps ..) rfl ?_
          refine Keeps.ite (fun _ => ?_) (fun _ => ?_)
          · refine Keeps.via (State.fset_keeps ..) rfl ?_
            refine Keeps.via (State.fset_keeps ..) rfl ?_
            refine Keeps.via (State.fset_keeps ..) rfl ?_
            exact Keeps.via (State.fset_keeps ..) rfl Keeps.refl
          · refine Keeps.via (State.updateLinks_keeps ..) rfl ?_
            refine Keeps.via (State.fset_keeps ..) rfl ?_
            refine Keeps.via (State.fset_keeps ..) rfl ?_
            refine Keeps.via (State.fset_keeps ..) rfl ?_
            refine Keeps.via (State.fset_keeps ..) rfl ?_
            exact Keeps.via (State.fset_keeps ..) rfl Keeps.refl
        · refine Keeps.via (State.setLoopback_keeps ..) rfl ?_
          refine Keeps.via (State.setRate_keeps ..) rfl ?_
          refine Keeps.ite (fun _ => ?_) (fun _ => ?_)
          · refine Keeps.via (State.fset_keeps ..) rfl ?_
            refine Keeps.via (State.fset_keeps ..) rfl ?_
            refine Keeps.via (State.fset_keeps ..) rfl ?_
            exact Keeps.via (State.fset_keeps ..) rfl Keeps.refl
          · refine Keeps.via (State.updateLinks_keeps ..) rfl ?_
            refine Keeps.via (State.fset_keeps ..) rfl ?_
            refine Keeps.via (State.fset_keeps ..) rfl ?_
            refine Keeps.via (State.fset_keeps ..) rfl ?_
            refine Keeps.via (State.fset_keeps ..) rfl ?_
            exact Keeps.via (State.fset_keeps ..) rfl Keeps.refl
      · refine Keeps.ite (fun _ => ?_) (fun _ => ?_)
        · try extract_lets
          refine Keeps.via (State.retrain_keeps ..) rfl ?_
          refine Keeps.via (State.takeFree_keeps ..) rfl ?_
          refine Keeps.via (State.setLoopback_keeps ..) rfl ?_
          refine Keeps.via (State.setRate_keeps ..) rfl ?_
          refine Keeps.ite (fun _ => ?_) (fun _ => ?_)
          · refine Keeps.via (State.fset_keeps ..) rfl ?_
            refine Keeps.via (State.fset_keeps ..) rfl ?_
            refine Keeps.via (State.fset_keeps ..) rfl ?_
            exact Keeps.via (State.fset_keeps ..) rfl Keeps.refl
          · refine Keeps.via (State.updateLinks_keeps ..) rfl ?_
            refine Keeps.via (State.fset_keeps ..) rfl ?_
            refine Keeps.via (State.fset_keeps ..) rfl ?_
            refine Keeps.via (State.fset_keeps ..) rfl ?_
            refine Keeps.via (State.fset_keeps ..) rfl ?_
            exact Keeps.via (State.fset_keeps ..) rfl Keeps.refl
        · refine Keeps.via (State.setLoopback_keeps ..) rfl ?_
          refine Keeps.via (State.setRate_keeps ..) rfl ?_
          refine Keeps.ite (fun _ => ?_) (fun _ => ?_)
          · refine Keeps.via (State.fset_keeps ..) rfl ?_
            refine Keeps.via (State.fset_keeps ..) rfl ?_
            refine Keeps.via (State.fset_keeps ..) rfl ?_
            exact Keeps.via (State.fset_keeps ..) rfl Keeps.refl
          · refine Keeps.via (State.updateLinks_keeps ..) rfl ?_
            refine Keeps.via (State.fset_keeps ..) rfl ?_
            refine Keeps.via (State.fset_keeps ..) rfl ?_
            refine Keeps.via (State.fset_keeps ..) rfl ?_
            refine Keeps.via (State.fset_keeps ..) rfl ?_
            exact Keeps.via (State.fset_keeps ..) rfl Keeps.refl


theorem State.writeMemCfg_keeps (s : State) (dom : Nat) (src : Nat) (c : Nat) (v : Nat) : Keeps [.regs] s (State.writeMemCfg s dom src c v) := by
  unfold State.writeMemCfg
  try extract_lets
  refine Keeps.ite (fun _ => ?_) (fun _ => ?_)
  · exact Keeps.via (State.regStore_keeps ..) rfl Keeps.refl
  · refine Keeps.via (State.fset_keeps ..) rfl ?_
    exact Keeps.via (State.regStore_keeps ..) rfl Keeps.refl


theorem State.writeSdi_keeps (s : State) (dom : Nat) (src : Nat) (d : Nat) (m : Nat) (v : Nat) : Keeps [.regs, .events, .larder, .pool, .corr, .mac, .free] s (State.writeSdi s dom src d m v) := by
  unfold State.writeSdi
  try extract_lets
  refine Keeps.ite (fun _ => ?_) (fun _ => ?_)
  · exact Keeps.via (State.regErr_keeps ..) rfl Keeps.refl
  · refine Keeps.via (State.updateLinks_keeps ..) rfl ?_
    exact Keeps.via (State.regStore_keeps ..) rfl Keeps.refl


theorem State.writeMacBase_keeps (s : State) (dom : Nat) (src : Nat) (d : Nat) (v : Nat) : Keeps [.regs, .events, .larder, .pool, .corr, .mac, .free] s (State.writeMacBase s dom src d v) := by
  unfold State.writeMacBase
  refine Keeps.ite (fun _ => ?_) (fun _ => ?_)
  · exact Keeps.via (State.fset_keeps ..) rfl Keeps.refl
  · try extract_lets
    refine Keeps.ite (fun _ => ?_) (fun _ => ?_)
    · refine Keeps.foldl (fun _ _ => ?_) ?_
      · exact Keeps.via (State.cqDrain_keeps ..) rfl Keeps.refl
      · exact Keeps.via (State.regStore_keeps ..) rfl Keeps.refl
    · exact Keeps.via (State.regStore_keeps ..) rfl Keeps.refl


theorem State.writeTe_keeps (s : State) (dom : Nat) (src : Nat) (d : Nat) (v : Nat) : Keeps [.regs] s (State.writeTe s dom src d v) := by
  unfold State.writeTe
  try extract_lets
  refine Keeps.ite (fun _ => ?_) (fun _ => ?_)
  · exact Keeps.via (State.regStore_keeps ..) rfl Keeps.refl
  · refine Keeps.via (State.regErr_keeps ..) rfl ?_
    exact Keeps.via (State.regStore_keeps ..) rfl Keeps.refl


theorem State.writeCqHead_keeps (s : State) (dom : Nat) (src : Nat) (d : Nat) (v : Nat) : Keeps [.regs, .events, .larder, .pool, .corr, .mac, .free] s (State.writeCqHead s dom src d v) := by
  unfold State.writeCqHead
  try extract_lets
  refine Keeps.ite (fun _ => ?_) (fun _ => ?_)
  · exact Keeps.via (State.regErr_keeps ..) rfl Keeps.refl
  · refine Keeps.ite (fun _ => ?_) (fun _ => ?_)
    · exact Keeps.via (State.cqReset_keeps ..) rfl Keeps.refl
    · refine Keeps.via (State.cqDrain_keeps ..) rfl ?_
      exact Keeps.via (State.setCq_keeps ..) rfl Keeps.refl


theorem State.writePort_keeps (s : State) (dom : Nat) (src : Nat) (d : Nat) (p : Nat) (v : Nat) : Keeps [.regs, .events, .larder, .pool, .corr, .mac, .free] s (State.writePort s dom src d p v) := by
  unfold State.writePort
  try extract_lets
  refine Keeps.ite (fun _ => ?_) (fun _ => ?_)
  · refine Keeps.via (State.updateLinks_keeps ..) rfl ?_
    exact Keeps.via (State.fset_keeps ..) rfl Keeps.refl
  · try extract_lets
    refine Keeps.ite (fun _ => ?_) (fun _ => ?_)
    · exact Keeps.via (State.regErr_keeps ..) rfl Keeps.refl
    · refine Keeps.via (State.updateLinks_keeps ..) rfl ?_
      exact Keeps.via (State.regStore_keeps ..) rfl Keeps.refl


theorem State.writeDie_keeps (s : State) (dom : Nat) (src : Nat) (d : Nat) (off : Nat) (v : Nat) : Keeps [.regs, .events, .dozens, .larder, .pool, .corr, .lanes, .mac, .free] s (State.writeDie s dom src d off v) := by
  unfold State.writeDie
  try extract_lets
  refine Keeps.ite (fun _ => ?_) (fun _ => ?_)
  · exact Keeps.via (State.gpioOut_keeps ..) rfl Keeps.refl
  · refine Keeps.ite (fun _ => ?_) (fun _ => ?_)
    · try extract_lets
      refine Keeps.ite (fun _ => ?_) (fun _ => ?_)
      · refine Keeps.via (State.clearMin_keeps ..) rfl ?_
        exact Keeps.via (State.regStore_keeps ..) rfl Keeps.refl
      · exact Keeps.via (State.regStore_keeps ..) rfl Keeps.refl
    · refine Keeps.ite (fun _ => ?_) (fun _ => ?_)
      · try extract_lets
        refine Keeps.ite (fun _ => ?_) (fun _ => ?_)
        · refine Keeps.via (State.clearMin_keeps ..) rfl ?_
          exact Keeps.via (State.regStore_keeps ..) rfl Keeps.refl
        · exact Keeps.via (State.regStore_keeps ..) rfl Keeps.refl
      · refine Keeps.ite (fun _ => ?_) (fun _ => ?_)
        · exact Keeps.via (State.writeMemCfg_keeps ..) rfl Keeps.refl
        · refine Keeps.ite (fun _ => ?_) (fun _ => ?_)
          · exact Keeps.via (State.regStore_keeps ..) rfl Keeps.refl
          · refine Keeps.ite (fun _ => ?_) (fun _ => ?_)
            · exact Keeps.via (State.writeLane_keeps ..) rfl Keeps.refl
            · refine Keeps.ite (fun _ => ?_) (fun _ => ?_)
              · exact Keeps.via (State.writeLane_keeps ..) rfl Keeps.refl
              · refine Keeps.ite (fun _ => ?_) (fun _ => ?_)
                · exact Keeps.via (State.writePort_keeps ..) rfl Keeps.refl
                · refine Keeps.ite (fun _ => ?_) (fun _ => ?_)
                  · exact Keeps.via (State.writeSdi_keeps ..) rfl Keeps.refl
                  · refine Keeps.ite (fun _ => ?_) (fun _ => ?_)
                    · exact Keeps.via (State.writeTe_keeps ..) rfl Keeps.refl
                    · refine Keeps.ite (fun _ => ?_) (fun _ => ?_)
                      · exact Keeps.via (State.writeMacBase_keeps ..) rfl Keeps.refl
                      · refine Keeps.ite (fun _ => ?_) (fun _ => ?_)
                        · exact Keeps.via (State.writeCqHead_keeps ..) rfl Keeps.refl
                        · exact Keeps.via (State.regStore_keeps ..) rfl Keeps.refl


theorem State.writeEffect_keeps (s : State) (dom : Nat) (src : Nat) (off : Nat) (v : Nat) : Keeps [.regs, .events, .now, .tins, .ring, .laneOut, .seamCh, .dozens, .vgoal, .larder, .pool, .corr, .noc, .dram, .breadbox, .pads, .lanes, .time, .mac, .dbg, .mgc, .hqe, .cfg, .ptm, .answer, .free] s (State.writeEffect s dom src off v) := by
  unfold State.writeEffect
  split
  · exact Keeps.via (State.writeDm_keeps ..) rfl Keeps.refl
  · refine Keeps.ite (fun _ => ?_) (fun _ => ?_)
    · exact Keeps.via (State.attnClear_keeps ..) rfl Keeps.refl
    · refine Keeps.ite (fun _ => ?_) (fun _ => ?_)
      · exact Keeps.via (State.attnSetBits_keeps ..) rfl Keeps.refl
      · split
        · exact Keeps.via (State.writeDie_keeps ..) rfl Keeps.refl
        · exact Keeps.via (State.writeHub_keeps ..) rfl Keeps.refl


theorem State.regWrite1_keeps (s : State) (dom : Nat) (src : Nat) (off : Nat) (v : Nat) (posted : Bool) : Keeps [.regs, .events, .now, .tins, .ring, .laneOut, .seamCh, .dozens, .vgoal, .larder, .pool, .corr, .noc, .dram, .breadbox, .pads, .lanes, .time, .mac, .dbg, .mgc, .hqe, .cfg, .ptm, .answer, .free] s (State.regWrite1 s dom src off v posted).2 := by
  unfold State.regWrite1
  split
  · exact Keeps.via (State.regStop_keeps _ _ _ _ _ _ _ ‹_›) rfl Keeps.refl
  · refine Keeps.snd_mk ?_
    exact Keeps.via (State.writeEffect_keeps ..) rfl Keeps.refl


theorem State.regWriteN_keeps (s : State) (dom src off : Nat) (posted : Bool) (l : List Byte) (n : Nat) :
    Keeps [.regs, .events, .now, .tins, .ring, .laneOut, .seamCh, .dozens, .vgoal, .larder, .pool, .corr, .noc, .dram, .breadbox, .pads, .lanes, .time, .mac, .dbg, .mgc, .hqe, .cfg, .ptm, .answer, .free] s (State.regWriteN s dom src off posted l n).2 := by
  induction n generalizing s off l with
  | zero => exact Keeps.refl
  | succ n ih => exact Keeps.trans (ih _ _ _) (Keeps.via (State.regWrite1_keeps ..) rfl Keeps.refl)


theorem State.regWrite_keeps (s : State) (dom : Nat) (src : Nat) (off : Nat) (l : List Byte) (posted : Bool) : Keeps [.regs, .events, .now, .tins, .ring, .laneOut, .seamCh, .dozens, .vgoal, .larder, .pool, .corr, .noc, .dram, .breadbox, .pads, .lanes, .time, .mac, .dbg, .mgc, .hqe, .cfg, .ptm, .answer, .free] s (State.regWrite s dom src off l posted).2 := by
  unfold State.regWrite
  refine Keeps.ite_p1 (fun _ => ?_) (fun _ => ?_)
  · exact Keeps.via (State.regWriteN_keeps ..) rfl Keeps.refl
  · refine Keeps.snd_mk ?_
    exact Keeps.via (State.regErr_keeps ..) rfl Keeps.refl


theorem execHqeQctlWrite_keeps (v : Word) (cids : List (Fin 65536)) (s : State) : OutKeeps [.regs, .events, .tins, .hqe, .cfg] s (execHqeQctlWrite v cids s) := by
  unfold execHqeQctlWrite
  refine OutKeeps.next ?_
  exact Keeps.via (State.hqeQctl_keeps ..) rfl Keeps.refl


theorem execRegisterWrite_keeps (off : Nat) (value : Word) (dom : Dom) (src : Nat) (s : State) : OutKeeps [.regs, .events, .now, .tins, .ring, .laneOut, .seamCh, .dozens, .vgoal, .larder, .pool, .corr, .noc, .dram, .breadbox, .pads, .lanes, .time, .mac, .dbg, .mgc, .hqe, .cfg, .ptm, .answer, .free] s (execRegisterWrite off value dom src s) := by
  unfold execRegisterWrite
  refine OutKeeps.ite (fun _ => ?_) (fun _ => ?_)
  · refine OutKeeps.next ?_
    exact Keeps.via (State.answerRead_keeps ..) rfl Keeps.refl
  · try extract_lets
    refine OutKeeps.next ?_
    try extract_lets
    refine Keeps.upd_answer rfl ?_
    exact Keeps.via (State.regWrite_keeps ..) rfl Keeps.refl


end Sys2Proof.Machine
end

