-- ==== Sys2Proof/Laws/Keeps/Pads.lean ====
section
/-! SUPPORT. What the operations of Machine/Pads.lean may change, and that they keep the invariant. -/

namespace Sys2Proof.Machine

theorem State.nack_keeps (s : State) : Keeps [.answer] s (State.nack s) := by
  unfold State.nack
  exact Keeps.upd_answer rfl Keeps.refl


theorem State.smbusAnswer_keeps (s : State) (status : Nat) (d : List Byte) : Keeps [.answer] s (State.smbusAnswer s status d) := by
  unfold State.smbusAnswer
  exact Keeps.upd_answer rfl Keeps.refl


theorem State.smbusRun_via {M : List Part} {s t : State} {pec : Bool} {f : State → State}
    (hs : Part.sub [.answer] M = true) (hf : ∀ u, Keeps M u (f u)) (h : Keeps M s t) : OutKeeps M s (State.smbusRun t pec f) := by
  unfold State.smbusRun
  exact OutKeeps.ite (fun _ => OutKeeps.next (Keeps.trans (hf _) h)) (fun _ => OutKeeps.next (Keeps.via (State.nack_keeps ..) (Part.sub_trans rfl hs) h))


theorem execPcieLinkChange_keeps (p : Fin 2) (up : Bool) (flit : Bool) (gen : Fin 7) (width : Fin 3) (ltssm : Fin 8) (corr : Nat) (uncorr : Nat) (s : State) : OutKeeps [.regs] s (execPcieLinkChange p up flit gen width ltssm corr uncorr s) := by
  unfold execPcieLinkChange
  refine OutKeeps.ite (fun _ => ?_) (fun _ => ?_)
  · refine OutKeeps.next ?_
    exact Keeps.refl
  · try extract_lets
    refine OutKeeps.next ?_
    refine Keeps.via (State.fsat_keeps ..) rfl ?_
    refine Keeps.via (State.fsat_keeps ..) rfl ?_
    refine Keeps.via (State.fset_keeps ..) rfl ?_
    refine Keeps.via (State.fset_keeps ..) rfl ?_
    refine Keeps.via (State.fset_keeps ..) rfl ?_
    refine Keeps.via (State.fset_keeps ..) rfl ?_
    refine Keeps.via (State.fset_keeps ..) rfl ?_
    refine Keeps.ite (fun _ => ?_) (fun _ => ?_)
    · exact Keeps.via (State.fsat_keeps ..) rfl Keeps.refl
    · exact Keeps.refl


theorem execSmbusSetPointer_keeps (a : Fin 16777216) (pec : Bool) (s : State) : OutKeeps [.smbus, .answer] s (execSmbusSetPointer a pec s) := by
  unfold execSmbusSetPointer
  refine State.smbusRun_via rfl (fun _ => ?_) ?_
  · exact Keeps.upd_smbus_answer rfl Keeps.refl
  · exact Keeps.refl


theorem execSmbusCurrent_keeps (pec : Bool) (s : State) : OutKeeps [.answer] s (execSmbusCurrent pec s) := by
  unfold execSmbusCurrent
  refine State.smbusRun_via rfl (fun _ => ?_) ?_
  · exact Keeps.via (State.smbusAnswer_keeps ..) rfl Keeps.refl
  · exact Keeps.refl


theorem execSmbusWrite_keeps (v : Word) (pec : Bool) (s : State) : OutKeeps [.regs, .events, .now, .tins, .ring, .laneOut, .seamCh, .dozens, .vgoal, .larder, .pool, .corr, .noc, .dram, .breadbox, .pads, .lanes, .time, .mac, .dbg, .mgc, .hqe, .cfg, .ptm, .smbus, .answer, .free] s (execSmbusWrite v pec s) := by
  unfold execSmbusWrite
  refine State.smbusRun_via rfl (fun _ => ?_) ?_
  · try extract_lets
    refine Keeps.upd_smbus_answer rfl ?_
    refine Keeps.ite_p1 (fun _ => ?_) (fun _ => ?_)
    · exact Keeps.via (State.regWrite1_keeps ..) rfl Keeps.refl
    · refine Keeps.snd_mk ?_
      exact Keeps.refl
  · exact Keeps.refl


theorem execSmbusAttnSum_keeps (pec : Bool) (s : State) : OutKeeps [.answer] s (execSmbusAttnSum pec s) := by
  unfold execSmbusAttnSum
  refine State.smbusRun_via rfl (fun _ => ?_) ?_
  · exact Keeps.via (State.smbusAnswer_keeps ..) rfl Keeps.refl
  · exact Keeps.refl


theorem execGpioOutWrite_keeps (d : DieIx) (value : Fin 16) (dom : Dom) (src : Fin 4096) (posted : Bool) (s : State) : OutKeeps [.regs, .events, .now, .tins, .ring, .laneOut, .seamCh, .dozens, .vgoal, .larder, .pool, .corr, .noc, .dram, .breadbox, .pads, .lanes, .time, .mac, .dbg, .mgc, .hqe, .cfg, .ptm, .answer, .free] s (execGpioOutWrite d value dom src posted s) := by
  unfold execGpioOutWrite
  dsimp only
  skip
  refine OutKeeps.ite (fun _ => ?_) (fun _ => ?_)
  · refine OutKeeps.next ?_
    refine Keeps.via (State.answerRead_keeps ..) rfl ?_
    exact Keeps.refl
  · skip
    refine OutKeeps.next ?_
    skip
    refine Keeps.upd_answer rfl ?_
    refine Keeps.via (State.regWrite1_keeps ..) rfl ?_
    exact Keeps.refl


theorem execSmbusTj_keeps (pec : Bool) (s : State) : OutKeeps [.answer] s (execSmbusTj pec s) := by
  unfold execSmbusTj
  refine State.smbusRun_via rfl (fun _ => ?_) ?_
  · exact Keeps.via (State.smbusAnswer_keeps ..) rfl Keeps.refl
  · exact Keeps.refl


theorem execSmbusRead_keeps (pec : Bool) (s : State) : OutKeeps [.regs, .tins, .time, .mgc, .smbus, .answer] s (execSmbusRead pec s) := by
  unfold execSmbusRead
  refine State.smbusRun_via rfl (fun _ => ?_) ?_
  · try extract_lets
    refine Keeps.ite (fun _ => ?_) (fun _ => ?_)
    · refine Keeps.via (State.smbusAnswer_keeps ..) rfl ?_
      exact Keeps.upd_smbus rfl Keeps.refl
    · try extract_lets
      refine Keeps.via (State.smbusAnswer_keeps ..) rfl ?_
      refine Keeps.via (State.regRead_keeps ..) rfl ?_
      exact Keeps.upd_smbus rfl Keeps.refl
  · exact Keeps.refl


theorem execPadInputChange_keeps (p : Fin 32) (level : Bool) (s : State) : OutKeeps [.pads] s (execPadInputChange p level s) := by
  unfold execPadInputChange
  refine OutKeeps.next ?_
  exact Keeps.via (State.setPad_keeps ..) rfl Keeps.refl


theorem execSmbusWriteStatus_keeps (pec : Bool) (s : State) : OutKeeps [.answer] s (execSmbusWriteStatus pec s) := by
  unfold execSmbusWriteStatus
  refine State.smbusRun_via rfl (fun _ => ?_) ?_
  · exact Keeps.via (State.smbusAnswer_keeps ..) rfl Keeps.refl
  · exact Keeps.refl


end Sys2Proof.Machine
end

