-- ==== Sys2Proof/Laws/Keeps/Pantry.lean ====
section
/-! SUPPORT. What the operations of Machine/Pantry.lean may change, and that they keep the invariant. -/

namespace Sys2Proof.Machine

theorem State.fifoFault_keeps (s : State) (t : Nat) (p : Nat) (v : Pantry) : Keeps [.regs, .events, .tins] s (State.fifoFault s t p v) := by
  unfold State.fifoFault
  try extract_lets
  refine Keeps.via (State.post_keeps ..) rfl ?_
  refine Keeps.via (State.fsat_keeps ..) rfl ?_
  exact Keeps.via (State.setTin_keeps ..) rfl Keeps.refl


theorem State.pantryDecode_keeps (s : State) (t : Nat) (p : Nat) (r : Nat) (err : MemErr) : Keeps [.regs, .events, .tins, .corr, .free] s (State.pantryDecode s t p r err) := by
  unfold State.pantryDecode
  try extract_lets
  split
  · exact Keeps.refl
  · refine Keeps.via (State.countCorr_keeps ..) rfl ?_
    exact Keeps.via (State.fsat_keeps ..) rfl Keeps.refl
  · refine Keeps.ite (fun _ => ?_) (fun _ => ?_)
    · refine Keeps.via (State.setTin_keeps ..) rfl ?_
      refine Keeps.via (State.countCorr_keeps ..) rfl ?_
      exact Keeps.via (State.fsat_keeps ..) rfl Keeps.refl
    · refine Keeps.ite (fun _ => ?_) (fun _ => ?_)
      · refine Keeps.via (State.setTin_keeps ..) rfl ?_
        refine Keeps.via (State.countCorr_keeps ..) rfl ?_
        exact Keeps.via (State.fsat_keeps ..) rfl Keeps.refl
      · try extract_lets
        refine Keeps.via (State.post_keeps ..) rfl ?_
        refine Keeps.ite (fun _ => ?_) (fun _ => ?_)
        · refine Keeps.via (State.fsat_keeps ..) rfl ?_
          refine Keeps.via (State.setTin_keeps ..) rfl ?_
          refine Keeps.via (State.countCorr_keeps ..) rfl ?_
          exact Keeps.via (State.fsat_keeps ..) rfl Keeps.refl
        · refine Keeps.via (State.setTin_keeps ..) rfl ?_
          refine Keeps.via (State.countCorr_keeps ..) rfl ?_
          exact Keeps.via (State.fsat_keeps ..) rfl Keeps.refl
  · try extract_lets
    refine Keeps.ite (fun _ => ?_) (fun _ => ?_)
    · refine Keeps.via (State.setTin_keeps ..) rfl ?_
      refine Keeps.via (State.post_keeps ..) rfl ?_
      refine Keeps.via (State.fsat_keeps ..) rfl ?_
      exact Keeps.via (State.takeFree_keeps ..) rfl Keeps.refl
    · refine Keeps.ite (fun _ => ?_) (fun _ => ?_)
      · refine Keeps.via (State.setTin_keeps ..) rfl ?_
        refine Keeps.via (State.post_keeps ..) rfl ?_
        refine Keeps.via (State.fsat_keeps ..) rfl ?_
        exact Keeps.via (State.takeFree_keeps ..) rfl Keeps.refl
      · try extract_lets
        refine Keeps.via (State.post_keeps ..) rfl ?_
        refine Keeps.ite (fun _ => ?_) (fun _ => ?_)
        · refine Keeps.via (State.fsat_keeps ..) rfl ?_
          refine Keeps.via (State.setTin_keeps ..) rfl ?_
          refine Keeps.via (State.post_keeps ..) rfl ?_
          refine Keeps.via (State.fsat_keeps ..) rfl ?_
          exact Keeps.via (State.takeFree_keeps ..) rfl Keeps.refl
        · refine Keeps.via (State.setTin_keeps ..) rfl ?_
          refine Keeps.via (State.post_keeps ..) rfl ?_
          refine Keeps.via (State.fsat_keeps ..) rfl ?_
          exact Keeps.via (State.takeFree_keeps ..) rfl Keeps.refl


theorem State.pantryAccess_keeps (s : State) (t : Nat) (p : Nat) (portB : Bool) (want : Nat) (err : MemErr) : Keeps [.regs, .events, .tins, .corr, .free] s (State.pantryAccess s t p portB want err) := by
  unfold State.pantryAccess
  try extract_lets
  split
  · exact Keeps.refl
  · refine Keeps.ite (fun _ => ?_) (fun _ => ?_)
    · exact Keeps.refl
    · try extract_lets
      refine Keeps.via (State.setTin_keeps ..) rfl ?_
      refine Keeps.ite (fun _ => ?_) (fun _ => ?_)
      · exact Keeps.via (State.pantryDecode_keeps ..) rfl Keeps.refl
      · exact Keeps.refl


theorem execPantryRead_keeps (t : TinIx) (p : PantryIx) (portB : Bool) (err : MemErr) (s : State) : OutKeeps [.regs, .events, .tins, .corr, .free] s (execPantryRead t p portB err s) := by
  unfold execPantryRead
  refine OutKeeps.next ?_
  exact Keeps.via (State.pantryAccess_keeps ..) rfl Keeps.refl


theorem execFifoEventConsume_keeps (t : TinIx) (p : PantryIx) (s : State) : OutKeeps [.tins] s (execFifoEventConsume t p s) := by
  unfold execFifoEventConsume
  try extract_lets
  refine OutKeeps.ite (fun _ => ?_) (fun _ => ?_)
  · refine OutKeeps.next ?_
    exact Keeps.via (State.setTin_keeps ..) rfl Keeps.refl
  · refine OutKeeps.next ?_
    exact Keeps.refl


theorem execPantrySwap_keeps (t : TinIx) (p : PantryIx) (portB : Bool) (err : MemErr) (s : State) : OutKeeps [.regs, .events, .tins, .corr, .free] s (execPantrySwap t p portB err s) := by
  unfold execPantrySwap
  refine OutKeeps.next ?_
  exact Keeps.via (State.pantryAccess_keeps ..) rfl Keeps.refl


theorem execStale_keeps (t : TinIx) (p : PantryIx) (s : State) : OutKeeps [.tins] s (execStale t p s) := by
  unfold execStale
  try extract_lets
  refine OutKeeps.ite (fun _ => ?_) (fun _ => ?_)
  · refine OutKeeps.next ?_
    exact Keeps.via (State.setTin_keeps ..) rfl Keeps.refl
  · refine OutKeeps.next ?_
    exact Keeps.refl


theorem execFifoWrite_keeps (t : TinIx) (p : PantryIx) (upset : Bool) (s : State) : OutKeeps [.regs, .events, .tins] s (execFifoWrite t p upset s) := by
  unfold execFifoWrite
  try extract_lets
  refine OutKeeps.ite (fun _ => ?_) (fun _ => ?_)
  · split
    · refine OutKeeps.next ?_
      exact Keeps.refl
    · try extract_lets
      refine OutKeeps.ite (fun _ => ?_) (fun _ => ?_)
      · refine OutKeeps.next ?_
        exact Keeps.via (State.fifoFault_keeps ..) rfl Keeps.refl
      · refine OutKeeps.next ?_
        exact Keeps.via (State.setTin_keeps ..) rfl Keeps.refl
  · refine OutKeeps.next ?_
    exact Keeps.refl


theorem execFifoRead_keeps (t : TinIx) (p : PantryIx) (upset : Bool) (err : MemErr) (s : State) : OutKeeps [.regs, .events, .tins, .corr, .free] s (execFifoRead t p upset err s) := by
  unfold execFifoRead
  try extract_lets
  refine OutKeeps.ite (fun _ => ?_) (fun _ => ?_)
  · refine OutKeeps.ite (fun _ => ?_) (fun _ => ?_)
    · refine OutKeeps.next ?_
      exact Keeps.via (State.setTin_keeps ..) rfl Keeps.refl
    · try extract_lets
      refine OutKeeps.ite (fun _ => ?_) (fun _ => ?_)
      · refine OutKeeps.next ?_
        exact Keeps.via (State.fifoFault_keeps ..) rfl Keeps.refl
      · try extract_lets
        refine OutKeeps.next ?_
        refine Keeps.via (State.setTin_keeps ..) rfl ?_
        refine Keeps.ite (fun _ => ?_) (fun _ => ?_)
        · exact Keeps.via (State.setTin_keeps ..) rfl Keeps.refl
        · refine Keeps.via (State.pantryDecode_keeps ..) rfl ?_
          exact Keeps.via (State.setTin_keeps ..) rfl Keeps.refl
  · refine OutKeeps.next ?_
    exact Keeps.refl


theorem execPantryWrite_keeps (t : TinIx) (p : PantryIx) (portB : Bool) (err : MemErr) (s : State) : OutKeeps [.regs, .events, .tins, .corr, .free] s (execPantryWrite t p portB err s) := by
  unfold execPantryWrite
  refine OutKeeps.next ?_
  exact Keeps.via (State.pantryAccess_keeps ..) rfl Keeps.refl


theorem execPantryRowSpared_keeps (t : TinIx) (p : PantryIx) (row : Fin 1024) (s : State) : OutKeeps [.events, .tins] s (execPantryRowSpared t p row s) := by
  unfold execPantryRowSpared
  try extract_lets
  refine OutKeeps.ite (fun _ => ?_) (fun _ => ?_)
  · refine OutKeeps.next ?_
    refine Keeps.via (State.post_keeps ..) rfl ?_
    exact Keeps.via (State.setTin_keeps ..) rfl Keeps.refl
  · refine OutKeeps.next ?_
    exact Keeps.refl


theorem execPantryScrub_keeps (t : TinIx) (p : PantryIx) (err : MemErr) (s : State) : OutKeeps [.regs, .events, .tins, .corr, .free] s (execPantryScrub t p err s) := by
  unfold execPantryScrub
  try extract_lets
  refine OutKeeps.next ?_
  refine Keeps.via (State.setTin_keeps ..) rfl ?_
  exact Keeps.via (State.pantryDecode_keeps ..) rfl Keeps.refl


end Sys2Proof.Machine
end

