-- ==== Sys2Proof/Laws/Keeps/SprCmd.lean ====
section
/-! SUPPORT. What the operations of Machine/SprCmd.lean may change, and that they keep the invariant. -/

namespace Sys2Proof.Machine

theorem State.retireSwap_keeps (s : State) (d : Nat) (r : Nat) : Keeps [.regs, .events, .roles, .tins] s (State.retireSwap s d r) := by
  unfold State.retireSwap
  try extract_lets
  refine Keeps.via (State.retireTin_keeps ..) rfl ?_
  refine Keeps.via (State.setTinState_keeps ..) rfl ?_
  refine Keeps.via (State.fset_keeps ..) rfl ?_
  exact Keeps.via (State.exchange_keeps ..) rfl Keeps.refl


theorem State.retireUnit_via {M : List Part} {s t : State} {q : Nat} {kinds : Nat → Bool} {fields : Desc → Bool} {go : State → Nat → Job → State}
    (hs : Part.sub [.regs, .events, .hqe] M = true) (hgo : ∀ u k j, Keeps M u (go u k j)) (h : Keeps M s t) : Keeps M s (State.retireUnit t q kinds fields go) := by
  unfold State.retireUnit
  split
  · exact h
  · exact Keeps.ite (fun _ => State.command_via (Part.sub_trans rfl hs) hgo h) (fun _ => h)


theorem execRetireSpineRouter_keeps (q : QueueIx) (s : State) : OutKeeps [.regs, .events, .noc, .hqe] s (execRetireSpineRouter q s) := by
  unfold execRetireSpineRouter
  refine OutKeeps.next ?_
  refine State.retireUnit_via rfl (fun _ _ _ => ?_) ?_
  · try extract_lets
    refine Keeps.ite (fun _ => ?_) (fun _ => ?_)
    · exact Keeps.via (State.endJob_keeps ..) rfl Keeps.refl
    · refine Keeps.via (State.endJob_keeps ..) rfl ?_
      exact Keeps.via (State.failSpine_keeps ..) rfl Keeps.refl
  · exact Keeps.refl


theorem execRetireCore_keeps (q : QueueIx) (ok4 : Bool) (s : State) : OutKeeps [.regs, .events, .mgc, .hqe] s (execRetireCore q ok4 s) := by
  unfold execRetireCore
  refine OutKeeps.next ?_
  refine State.retireUnit_via rfl (fun _ _ _ => ?_) ?_
  · try extract_lets
    refine Keeps.ite (fun _ => ?_) (fun _ => ?_)
    · exact Keeps.via (State.endJob_keeps ..) rfl Keeps.refl
    · refine Keeps.ite (fun _ => ?_) (fun _ => ?_)
      · refine Keeps.ite (fun _ => ?_) (fun _ => ?_)
        · exact Keeps.via (State.endJob_keeps ..) rfl Keeps.refl
        · refine Keeps.via (State.endJob_keeps ..) rfl ?_
          exact Keeps.upd_mgc rfl Keeps.refl
      · refine Keeps.ite (fun _ => ?_) (fun _ => ?_)
        · exact Keeps.via (State.endJob_keeps ..) rfl Keeps.refl
        · split
          · exact Keeps.via (State.endJob_keeps ..) rfl Keeps.refl
          · refine Keeps.via (State.endJob_keeps ..) rfl ?_
            exact Keeps.via (State.failCore_keeps ..) rfl Keeps.refl
  · exact Keeps.refl


theorem execRetireChannel_keeps (q : QueueIx) (s : State) : OutKeeps [.regs, .events, .dram, .hqe] s (execRetireChannel q s) := by
  unfold execRetireChannel
  refine OutKeeps.next ?_
  refine State.retireUnit_via rfl (fun _ _ _ => ?_) ?_
  · try extract_lets
    refine Keeps.ite (fun _ => ?_) (fun _ => ?_)
    · exact Keeps.via (State.endJob_keeps ..) rfl Keeps.refl
    · refine Keeps.ite (fun _ => ?_) (fun _ => ?_)
      · exact Keeps.via (State.endJob_keeps ..) rfl Keeps.refl
      · refine Keeps.ite (fun _ => ?_) (fun _ => ?_)
        · exact Keeps.via (State.endJob_keeps ..) rfl Keeps.refl
        · refine Keeps.via (State.retireChannel_keeps ..) rfl ?_
          exact Keeps.via (State.mgmtWait_keeps ..) rfl Keeps.refl
  · exact Keeps.refl


theorem execSparePolicy_keeps (q : QueueIx) (s : State) : OutKeeps [.regs, .events, .dram, .hqe] s (execSparePolicy q s) := by
  unfold execSparePolicy
  refine OutKeeps.next ?_
  refine State.command_via rfl (fun _ _ _ => ?_) ?_
  · try extract_lets
    refine Keeps.via (State.endJob_keeps ..) rfl ?_
    refine Keeps.foldl (fun _ _ => ?_) ?_
    · exact Keeps.via (State.dueChannel_keeps ..) rfl Keeps.refl
    · refine Keeps.via (State.fset_keeps ..) rfl ?_
      exact Keeps.via (State.fset_keeps ..) rfl Keeps.refl
  · exact Keeps.refl


theorem execRetireBenchLink_keeps (q : QueueIx) (s : State) : OutKeeps [.regs, .events, .noc, .hqe] s (execRetireBenchLink q s) := by
  unfold execRetireBenchLink
  refine OutKeeps.next ?_
  refine State.retireUnit_via rfl (fun _ _ _ => ?_) ?_
  · try extract_lets
    refine Keeps.ite (fun _ => ?_) (fun _ => ?_)
    · exact Keeps.via (State.endJob_keeps ..) rfl Keeps.refl
    · refine Keeps.ite (fun _ => ?_) (fun _ => ?_)
      · exact Keeps.via (State.endJob_keeps ..) rfl Keeps.refl
      · refine Keeps.via (State.endJob_keeps ..) rfl ?_
        exact Keeps.via (State.retireBench_keeps ..) rfl Keeps.refl
  · exact Keeps.refl


theorem execRelocateTin_keeps (q : QueueIx) (s : State) : OutKeeps [.regs, .events, .hqe, .spr] s (execRelocateTin q s) := by
  unfold execRelocateTin
  refine OutKeeps.next ?_
  refine State.command_via rfl (fun _ _ _ => ?_) ?_
  · try extract_lets
    split
    · exact Keeps.via (State.endJob_keeps ..) rfl Keeps.refl
    · try extract_lets
      refine Keeps.ite (fun _ => ?_) (fun _ => ?_)
      · exact Keeps.via (State.endJob_keeps ..) rfl Keeps.refl
      · refine Keeps.via (State.startReloc_keeps ..) rfl ?_
        exact Keeps.via (State.mgmtWait_keeps ..) rfl Keeps.refl
  · exact Keeps.refl


theorem execSwapCancel_keeps (q : QueueIx) (s : State) : OutKeeps [.regs, .events, .tins, .hqe, .spr] s (execSwapCancel q s) := by
  unfold execSwapCancel
  split
  · refine OutKeeps.next ?_
    exact Keeps.refl
  · refine OutKeeps.ite (fun _ => ?_) (fun _ => ?_)
    · refine OutKeeps.next ?_
      exact Keeps.refl
    · refine OutKeeps.next ?_
      refine State.command_via rfl (fun _ _ _ => ?_) ?_
      · try extract_lets
        split
        · exact Keeps.via (State.endJob_keeps ..) rfl Keeps.refl
        · refine Keeps.via (State.abortOp_keeps ..) rfl ?_
          exact Keeps.via (State.endJob_keeps ..) rfl Keeps.refl
      · exact Keeps.refl


theorem execSwapAt_keeps (q : QueueIx) (s : State) : OutKeeps [.regs, .events, .hqe, .spr] s (execSwapAt q s) := by
  unfold execSwapAt
  split
  · refine OutKeeps.next ?_
    exact Keeps.refl
  · refine OutKeeps.ite (fun _ => ?_) (fun _ => ?_)
    · refine OutKeeps.next ?_
      exact Keeps.refl
    · refine OutKeeps.next ?_
      refine State.command_via rfl (fun _ _ _ => ?_) ?_
      · try extract_lets
        split
        · exact Keeps.via (State.endJob_keeps ..) rfl Keeps.refl
        · try extract_lets
          refine Keeps.ite (fun _ => ?_) (fun _ => ?_)
          · exact Keeps.via (State.endJob_keeps ..) rfl Keeps.refl
          · refine Keeps.via (State.setOps_keeps ..) rfl ?_
            exact Keeps.via (State.mgmtWait_keeps ..) rfl Keeps.refl
      · exact Keeps.refl


theorem execRetireTin_keeps (q : QueueIx) (s : State) : OutKeeps [.regs, .events, .roles, .tins, .hqe, .spr] s (execRetireTin q s) := by
  unfold execRetireTin
  refine OutKeeps.next ?_
  refine State.retireUnit_via rfl (fun _ _ _ => ?_) ?_
  · try extract_lets
    refine Keeps.ite (fun _ => ?_) (fun _ => ?_)
    · exact Keeps.via (State.endJob_keeps ..) rfl Keeps.refl
    · refine Keeps.ite (fun _ => ?_) (fun _ => ?_)
      · exact Keeps.via (State.endJob_keeps ..) rfl Keeps.refl
      · refine Keeps.ite (fun _ => ?_) (fun _ => ?_)
        · exact Keeps.via (State.endJob_keeps ..) rfl Keeps.refl
        · refine Keeps.ite (fun _ => ?_) (fun _ => ?_)
          · refine Keeps.via (State.endJob_keeps ..) rfl ?_
            exact Keeps.via (State.retireTin_keeps ..) rfl Keeps.refl
          · refine Keeps.ite (fun _ => ?_) (fun _ => ?_)
            · exact Keeps.via (State.endJob_keeps ..) rfl Keeps.refl
            · refine Keeps.ite (fun _ => ?_) (fun _ => ?_)
              · exact Keeps.via (State.endJob_keeps ..) rfl Keeps.refl
              · refine Keeps.ite (fun _ => ?_) (fun _ => ?_)
                · refine Keeps.via (State.startReloc_keeps ..) rfl ?_
                  exact Keeps.via (State.mgmtWait_keeps ..) rfl Keeps.refl
                · refine Keeps.ite (fun _ => ?_) (fun _ => ?_)
                  · refine Keeps.via (State.endJob_keeps ..) rfl ?_
                    exact Keeps.via (State.retireSwap_keeps ..) rfl Keeps.refl
                  · refine Keeps.via (State.endJob_keeps ..) rfl ?_
                    refine Keeps.via (State.tinPost_keeps ..) rfl ?_
                    exact Keeps.via (State.retireTin_keeps ..) rfl Keeps.refl
  · exact Keeps.refl


end Sys2Proof.Machine
end

