-- ==== Sys2Proof/Laws/Keeps/Targets.lean ====
section
/-! SUPPORT. What the operations of Machine/Targets.lean may change, and that they keep the invariant. -/

namespace Sys2Proof.Machine

theorem State.atCmd_via {M : List Part} {s : State} {f : Nat} {cmd : PCmd} {go : Packet → Nat → State} (hs : Part.sub [] M = true)
    (hgo : ∀ p l, Keeps M s (go p l)) : OutKeeps M s (State.atCmd s f cmd go) := by
  unfold State.atCmd
  split
  · exact OutKeeps.ite (fun _ => OutKeeps.next (hgo _ _)) (fun _ => OutKeeps.next Keeps.refl)
  · exact OutKeeps.next Keeps.refl


theorem State.barCount_keeps (s : State) (b : BarReq) (status : Nat) : Keeps [.regs] s (State.barCount s b status) := by
  unfold State.barCount
  refine Keeps.ite (fun _ => ?_) (fun _ => ?_)
  · exact Keeps.refl
  · exact Keeps.via (State.fsat_keeps ..) rfl Keeps.refl


theorem State.barEnd_keeps (s : State) (b : BarReq) : Keeps [.hqe, .answer] s (State.barEnd s b) := by
  unfold State.barEnd
  refine Keeps.ite (fun _ => ?_) (fun _ => ?_)
  · exact Keeps.upd_answer rfl Keeps.refl
  · exact Keeps.upd_hqe_answer rfl Keeps.refl


theorem State.barPart_keeps (s : State) (fn : Nat) (read : Bool) (a : Nat) (n : Nat) (data : List Byte) (poison : Bool) (err : MemErr) : Keeps [.regs, .events, .now, .tins, .ring, .laneOut, .seamCh, .dozens, .vgoal, .larder, .pool, .corr, .noc, .dram, .breadbox, .pads, .lanes, .time, .mac, .dbg, .mgc, .hqe, .cfg, .ptm, .answer, .free] s (State.barPart s fn read a n data poison err).2.2 := by
  unfold State.barPart
  refine Keeps.ite_p11 (fun _ => ?_) (fun _ => ?_)
  · refine Keeps.snd_mk2 ?_
    refine Keeps.snd_mk ?_
    exact Keeps.refl
  · split
    · refine Keeps.ite_p11 (fun _ => ?_) (fun _ => ?_)
      · refine Keeps.snd_mk2 ?_
        refine Keeps.snd_mk ?_
        exact Keeps.refl
      · refine Keeps.ite_p11 (fun _ => ?_) (fun _ => ?_)
        · try extract_lets
          refine Keeps.snd_mk2 ?_
          refine Keeps.snd_mk ?_
          exact Keeps.via (State.regRead_keeps ..) rfl Keeps.refl
        · refine Keeps.ite_p11 (fun _ => ?_) (fun _ => ?_)
          · refine Keeps.snd_mk2 ?_
            refine Keeps.snd_mk ?_
            exact Keeps.refl
          · try extract_lets
            refine Keeps.snd_mk2 ?_
            refine Keeps.snd_mk ?_
            exact Keeps.via (State.regWrite_keeps ..) rfl Keeps.refl
    · try extract_lets
      split
      · refine Keeps.snd_mk2 ?_
        refine Keeps.snd_mk ?_
        exact Keeps.via (State.hqeReq_keeps ..) rfl Keeps.refl
      · refine Keeps.snd_mk2 ?_
        refine Keeps.snd_mk ?_
        exact Keeps.via (State.hqeReq_keeps ..) rfl Keeps.refl
      · refine Keeps.snd_mk2 ?_
        refine Keeps.snd_mk ?_
        exact Keeps.via (State.hqeReq_keeps ..) rfl Keeps.refl


theorem State.barReply_keeps (s : State) (t : Nat) (status : Nat) (data : List Byte) (poison : Bool) :
    ∀ p, (State.barReply s t status data poison) = some p → Keeps [.regs, .hqe, .answer] s p := by
  intro r hr
  unfold State.barReply at hr
  split at hr
  · cases hr
  · dsimp only at hr
    cases hr
    refine Keeps.ite (fun _ => ?_) (fun _ => ?_)
    · exact Keeps.upd_hqe_answer rfl (Keeps.via (State.barCount_keeps ..) rfl Keeps.refl)
    · exact Keeps.upd_hqe rfl (Keeps.via (State.barCount_keeps ..) rfl Keeps.refl)


theorem State.barRun_keeps (s : State) (fn : Nat) (b : BarReq) (base : Nat) (data : List Byte) (poison : Bool) (err : MemErr) (l : List (Nat × Nat)) :
    Keeps [.regs, .events, .now, .tins, .ring, .laneOut, .seamCh, .dozens, .vgoal, .larder, .pool, .corr, .noc, .dram, .breadbox, .pads, .lanes, .time, .mac, .dbg, .mgc, .hqe, .cfg, .ptm, .answer, .free] s (State.barRun s fn b base data poison err l).2 := by
  induction l generalizing s b with
  | nil => exact Keeps.refl
  | cons x r ih =>
    unfold State.barRun
    dsimp only
    split
    · exact Keeps.trans (ih _ _) (Keeps.via (State.barCount_keeps ..) rfl (Keeps.via (State.barPart_keeps ..) rfl Keeps.refl))
    · exact Keeps.trans (ih _ _) (Keeps.via (State.barPart_keeps ..) rfl Keeps.refl)
    · exact Keeps.trans (ih _ _) (Keeps.via (State.barPart_keeps ..) rfl Keeps.refl)


theorem State.dapDone_keeps (s : State) (status : Nat) (data : List Byte) : Keeps [.dbg] s (State.dapDone s status data) := by
  unfold State.dapDone
  exact Keeps.upd_dbg rfl Keeps.refl


theorem State.hubReply_keeps (s : State) (src : Nat) (tag : Nat) (addr : Nat) (status : Nat) (data : List Byte) (poison : Bool) : Keeps [.regs, .dbg, .mgc, .hqe, .answer] s (State.hubReply s src tag addr status data poison) := by
  unfold State.hubReply
  refine Keeps.ite (fun _ => ?_) (fun _ => ?_)
  · split
    · exact Keeps.via (State.barReply_keeps _ _ _ _ _ _ ‹_›) rfl Keeps.refl
    · split
      · exact Keeps.via (State.copyReply_keeps ..) rfl Keeps.refl
      · exact Keeps.refl
  · refine Keeps.ite (fun _ => ?_) (fun _ => ?_)
    · refine Keeps.ite (fun _ => ?_) (fun _ => ?_)
      · refine Keeps.ite (fun _ => ?_) (fun _ => ?_)
        · exact Keeps.upd_answer rfl Keeps.refl
        · exact Keeps.via (State.trap_keeps ..) rfl Keeps.refl
      · refine Keeps.ite (fun _ => ?_) (fun _ => ?_)
        · exact Keeps.refl
        · exact Keeps.via (State.busErr_keeps ..) rfl Keeps.refl
    · refine Keeps.ite (fun _ => ?_) (fun _ => ?_)
      · exact Keeps.via (State.dapDone_keeps ..) rfl Keeps.refl
      · exact Keeps.upd_answer rfl Keeps.refl


theorem State.complete_keeps (s : State) (o : Outst) (p : Packet) : Keeps [.regs, .tins, .noc, .dbg, .mgc, .hqe, .answer] s (State.complete s o p) := by
  unfold State.complete
  try extract_lets
  split
  · try extract_lets
    refine Keeps.ite (fun _ => ?_) (fun _ => ?_)
    · refine Keeps.upd_answer rfl ?_
      exact Keeps.upd_noc rfl Keeps.refl
    · refine Keeps.via (State.setTin_keeps ..) rfl ?_
      refine Keeps.upd_answer rfl ?_
      exact Keeps.upd_noc rfl Keeps.refl
  · refine Keeps.via (State.hubReply_keeps ..) rfl ?_
    exact Keeps.upd_noc rfl Keeps.refl


theorem State.dapGo_keeps (s : State) (a : Nat) (data : List Byte) (write : Bool) (consume : Bool) (err : MemErr) : Keeps [.regs, .events, .now, .tins, .ring, .laneOut, .seamCh, .dozens, .vgoal, .larder, .pool, .corr, .noc, .dram, .breadbox, .pads, .lanes, .time, .mac, .dbg, .mgc, .hqe, .cfg, .ptm, .answer, .free] s (State.dapGo s a data write consume err) := by
  unfold State.dapGo
  refine Keeps.ite (fun _ => ?_) (fun _ => ?_)
  · exact Keeps.via (State.dapDone_keeps ..) rfl Keeps.refl
  · refine Keeps.ite (fun _ => ?_) (fun _ => ?_)
    · exact Keeps.via (State.dapDone_keeps ..) rfl Keeps.refl
    · try extract_lets
      split
      · refine Keeps.ite (fun _ => ?_) (fun _ => ?_)
        · exact Keeps.via (State.dapDone_keeps ..) rfl Keeps.refl
        · try extract_lets
          refine Keeps.ite (fun _ => ?_) (fun _ => ?_)
          · refine Keeps.upd_dbg rfl ?_
            exact Keeps.via (State.inject_keeps ..) rfl Keeps.refl
          · refine Keeps.via (State.dapDone_keeps ..) rfl ?_
            exact Keeps.via (State.inject_keeps ..) rfl Keeps.refl
      · refine Keeps.ite (fun _ => ?_) (fun _ => ?_)
        · exact Keeps.via (State.dapDone_keeps ..) rfl Keeps.refl
        · refine Keeps.ite (fun _ => ?_) (fun _ => ?_)
          · try extract_lets
            refine Keeps.via (State.dapDone_keeps ..) rfl ?_
            exact Keeps.via (State.regWrite_keeps ..) rfl Keeps.refl
          · try extract_lets
            refine Keeps.via (State.dapDone_keeps ..) rfl ?_
            exact Keeps.via (State.regRead_keeps ..) rfl Keeps.refl
      · try extract_lets
        split
        · refine Keeps.via (State.dapDone_keeps ..) rfl ?_
          exact Keeps.via (State.memAccess_keeps ..) rfl Keeps.refl
        · refine Keeps.via (State.dapDone_keeps ..) rfl ?_
          exact Keeps.via (State.memAccess_keeps ..) rfl Keeps.refl


theorem State.dapScan_keeps (s : State) (a : Nat) (data : List Byte) (write : Bool) (consume : Bool) (err : MemErr) : Keeps [.regs, .events, .now, .tins, .ring, .laneOut, .seamCh, .dozens, .vgoal, .larder, .pool, .corr, .noc, .dram, .breadbox, .pads, .lanes, .time, .mac, .dbg, .mgc, .hqe, .cfg, .ptm, .answer, .free] s (State.dapScan s a data write consume err) := by
  unfold State.dapScan
  refine Keeps.ite (fun _ => ?_) (fun _ => ?_)
  · exact Keeps.refl
  · refine Keeps.ite (fun _ => ?_) (fun _ => ?_)
    · exact Keeps.via (State.bypassIr_keeps ..) rfl Keeps.refl
    · refine Keeps.ite (fun _ => ?_) (fun _ => ?_)
      · exact Keeps.via (State.selectIr_keeps ..) rfl Keeps.refl
      · refine Keeps.via (State.dapGo_keeps ..) rfl ?_
        exact Keeps.via (State.selectIr_keeps ..) rfl Keeps.refl


theorem State.giveUp_keeps (s : State) (src : Nat) (tags : List Nat) : Keeps [.regs, .noc] s (State.giveUp s src tags) := by
  unfold State.giveUp
  try extract_lets
  refine Keeps.via (State.fsat_keeps ..) rfl ?_
  exact Keeps.upd_noc rfl Keeps.refl


theorem State.larderTarget_keeps (s : State) (f : Nat) (p : Packet) (loc : Nat) (err : MemErr) : Keeps [.regs, .events, .larder, .corr, .noc, .free] s (State.larderTarget s f p loc err) := by
  unfold State.larderTarget
  try extract_lets
  split
  · refine Keeps.via (State.launch_keeps ..) rfl ?_
    refine Keeps.via (State.larderAccess_keeps ..) rfl ?_
    exact Keeps.via (State.dropFlight_keeps ..) rfl Keeps.refl
  · refine Keeps.via (State.larderAccess_keeps ..) rfl ?_
    exact Keeps.via (State.dropFlight_keeps ..) rfl Keeps.refl


theorem State.postedLost_keeps (s : State) (node : Nat) : Keeps [.events] s (State.postedLost s node) := by
  unfold State.postedLost
  exact Keeps.via (State.postLimited_keeps ..) rfl Keeps.refl


theorem State.railFault_keeps (s : State) (t : Nat) (b : Nat) (c : Nat) : Keeps [.regs, .events, .tins, .dbg, .hqe, .spr] s (State.railFault s t b c) := by
  unfold State.railFault
  try extract_lets
  refine Keeps.ite (fun _ => ?_) (fun _ => ?_)
  · refine Keeps.via (State.beginRestart_keeps ..) rfl ?_
    refine Keeps.via (State.post_keeps ..) rfl ?_
    refine Keeps.via (State.fsat_keeps ..) rfl ?_
    exact Keeps.via (State.setTin_keeps ..) rfl Keeps.refl
  · refine Keeps.via (State.post_keeps ..) rfl ?_
    refine Keeps.via (State.fsat_keeps ..) rfl ?_
    exact Keeps.via (State.setTin_keeps ..) rfl Keeps.refl


theorem State.regTarget_keeps (s : State) (f : Nat) (p : Packet) (loc : Nat) (node : Nat) (off : Nat) : Keeps [.regs, .events, .now, .tins, .ring, .laneOut, .seamCh, .dozens, .vgoal, .larder, .pool, .corr, .noc, .dram, .breadbox, .pads, .lanes, .time, .mac, .dbg, .mgc, .hqe, .cfg, .ptm, .answer, .free] s (State.regTarget s f p loc node off) := by
  unfold State.regTarget
  try extract_lets
  split
  · try extract_lets
    refine Keeps.via (State.launch_keeps ..) rfl ?_
    refine Keeps.via (State.regRead_keeps ..) rfl ?_
    exact Keeps.via (State.dropFlight_keeps ..) rfl Keeps.refl
  · refine Keeps.ite (fun _ => ?_) (fun _ => ?_)
    · refine Keeps.via (State.launch_keeps ..) rfl ?_
      exact Keeps.via (State.dropFlight_keeps ..) rfl Keeps.refl
    · try extract_lets
      refine Keeps.via (State.launch_keeps ..) rfl ?_
      refine Keeps.via (State.regWrite_keeps ..) rfl ?_
      exact Keeps.via (State.dropFlight_keeps ..) rfl Keeps.refl
  · refine Keeps.ite (fun _ => ?_) (fun _ => ?_)
    · refine Keeps.via (State.postedLost_keeps ..) rfl ?_
      exact Keeps.via (State.dropFlight_keeps ..) rfl Keeps.refl
    · try extract_lets
      refine Keeps.ite (fun _ => ?_) (fun _ => ?_)
      · refine Keeps.via (State.regWrite_keeps ..) rfl ?_
        exact Keeps.via (State.dropFlight_keeps ..) rfl Keeps.refl
      · refine Keeps.via (State.postedLost_keeps ..) rfl ?_
        refine Keeps.via (State.regWrite_keeps ..) rfl ?_
        exact Keeps.via (State.dropFlight_keeps ..) rfl Keeps.refl
  · refine Keeps.via (State.launch_keeps ..) rfl ?_
    exact Keeps.via (State.dropFlight_keeps ..) rfl Keeps.refl


theorem State.streamTarget_keeps (s : State) (f : Nat) (p : Packet) (d : Nat) (k : Nat) : Keeps [.regs, .noc, .mac] s (State.streamTarget s f p d k) := by
  unfold State.streamTarget
  try extract_lets
  refine Keeps.ite (fun _ => ?_) (fun _ => ?_)
  · refine Keeps.via (State.fsat_keeps ..) rfl ?_
    exact Keeps.via (State.dropFlight_keeps ..) rfl Keeps.refl
  · try extract_lets
    refine Keeps.ite (fun _ => ?_) (fun _ => ?_)
    · refine Keeps.ite (fun _ => ?_) (fun _ => ?_)
      · refine Keeps.via (State.badRecord_keeps ..) rfl ?_
        exact Keeps.via (State.dropFlight_keeps ..) rfl Keeps.refl
      · exact Keeps.via (State.dropFlight_keeps ..) rfl Keeps.refl
    · try extract_lets
      refine Keeps.ite (fun _ => ?_) (fun _ => ?_)
      · try extract_lets
        refine Keeps.via (State.setSp_keeps ..) rfl ?_
        refine Keeps.ite (fun _ => ?_) (fun _ => ?_)
        · refine Keeps.via (State.badRecord_keeps ..) rfl ?_
          exact Keeps.via (State.dropFlight_keeps ..) rfl Keeps.refl
        · exact Keeps.via (State.dropFlight_keeps ..) rfl Keeps.refl
      · refine Keeps.via (State.setSp_keeps ..) rfl ?_
        refine Keeps.ite (fun _ => ?_) (fun _ => ?_)
        · refine Keeps.via (State.badRecord_keeps ..) rfl ?_
          exact Keeps.via (State.dropFlight_keeps ..) rfl Keeps.refl
        · exact Keeps.via (State.dropFlight_keeps ..) rfl Keeps.refl


theorem State.tinTarget_keeps (s : State) (f : Nat) (p : Packet) (loc : Nat) (node : Nat) (t : Nat) : Keeps [.regs, .events, .tins, .noc, .answer] s (State.tinTarget s f p loc node t) := by
  unfold State.tinTarget
  try extract_lets
  refine Keeps.ite (fun _ => ?_) (fun _ => ?_)
  · refine State.answerAt_via rfl (fun _ => ?_) ?_
    · refine Keeps.ite (fun _ => ?_) (fun _ => ?_)
      · exact Keeps.via (State.discard_keeps ..) rfl Keeps.refl
      · exact Keeps.via (State.postedLost_keeps ..) rfl Keeps.refl
    · exact Keeps.refl
  · refine Keeps.ite (fun _ => ?_) (fun _ => ?_)
    · exact Keeps.refl
    · refine Keeps.ite (fun _ => ?_) (fun _ => ?_)
      · refine State.answerAt_via rfl (fun _ => ?_) ?_
        · exact Keeps.refl
        · exact Keeps.refl
      · refine Keeps.ite (fun _ => ?_) (fun _ => ?_)
        · try extract_lets
          refine Keeps.upd_answer rfl ?_
          exact Keeps.via (State.dropFlight_keeps ..) rfl Keeps.refl
        · refine Keeps.via (State.setTin_keeps ..) rfl ?_
          exact Keeps.via (State.dropFlight_keeps ..) rfl Keeps.refl


theorem State.targetReq_keeps (s : State) (f : Nat) (p : Packet) (loc : Nat) (err : MemErr) : Keeps [.regs, .events, .now, .tins, .ring, .laneOut, .seamCh, .dozens, .vgoal, .larder, .pool, .corr, .noc, .dram, .breadbox, .pads, .lanes, .time, .mac, .dbg, .mgc, .hqe, .cfg, .ptm, .answer, .free] s (State.targetReq s f p loc err) := by
  unfold State.targetReq
  split
  · exact Keeps.via (State.memArrive_keeps ..) rfl Keeps.refl
  · exact Keeps.via (State.tinTarget_keeps ..) rfl Keeps.refl
  · exact Keeps.via (State.regTarget_keeps ..) rfl Keeps.refl
  · refine Keeps.ite (fun _ => ?_) (fun _ => ?_)
    · exact Keeps.via (State.larderTarget_keeps ..) rfl Keeps.refl
    · refine Keeps.ite (fun _ => ?_) (fun _ => ?_)
      · exact Keeps.via (State.regTarget_keeps ..) rfl Keeps.refl
      · refine State.answerAt_via rfl (fun _ => ?_) ?_
        · exact Keeps.via (State.discard_keeps ..) rfl Keeps.refl
        · exact Keeps.refl
  · refine State.answerAt_via rfl (fun _ => ?_) ?_
    · exact Keeps.via (State.discard_keeps ..) rfl Keeps.refl
    · exact Keeps.refl
  · exact Keeps.refl


theorem execAtomicAdd_keeps (f : Nat) (err : MemErr) (s : State) : OutKeeps [.regs, .events, .now, .tins, .ring, .laneOut, .seamCh, .dozens, .vgoal, .larder, .pool, .corr, .noc, .dram, .breadbox, .pads, .lanes, .time, .mac, .dbg, .mgc, .hqe, .cfg, .ptm, .answer, .free] s (execAtomicAdd f err s) := by
  unfold execAtomicAdd
  refine State.atCmd_via rfl (fun _ _ => ?_)
  · exact Keeps.via (State.targetReq_keeps ..) rfl Keeps.refl


theorem execWritePosted_keeps (f : Nat) (err : MemErr) (s : State) : OutKeeps [.regs, .events, .now, .tins, .ring, .laneOut, .seamCh, .dozens, .vgoal, .larder, .pool, .corr, .noc, .dram, .breadbox, .pads, .lanes, .time, .mac, .dbg, .mgc, .hqe, .cfg, .ptm, .answer, .free] s (execWritePosted f err s) := by
  unfold execWritePosted
  refine State.atCmd_via rfl (fun _ _ => ?_)
  · exact Keeps.via (State.targetReq_keeps ..) rfl Keeps.refl


theorem execRead_keeps (f : Nat) (err : MemErr) (s : State) : OutKeeps [.regs, .events, .now, .tins, .ring, .laneOut, .seamCh, .dozens, .vgoal, .larder, .pool, .corr, .noc, .dram, .breadbox, .pads, .lanes, .time, .mac, .dbg, .mgc, .hqe, .cfg, .ptm, .answer, .free] s (execRead f err s) := by
  unfold execRead
  refine State.atCmd_via rfl (fun _ _ => ?_)
  · exact Keeps.via (State.targetReq_keeps ..) rfl Keeps.refl


theorem execBarWrite_keeps (fn : Fin 2) (bar4 : Bool) (off : Nat) (data : List Byte) (ep : Bool) (err : MemErr) (s : State) : OutKeeps [.regs, .events, .now, .tins, .ring, .laneOut, .seamCh, .dozens, .vgoal, .larder, .pool, .corr, .noc, .dram, .breadbox, .pads, .lanes, .time, .mac, .dbg, .mgc, .hqe, .cfg, .ptm, .answer, .free] s (execBarWrite fn bar4 off data ep err s) := by
  unfold execBarWrite
  refine OutKeeps.ite (fun _ => ?_) (fun _ => ?_)
  · refine OutKeeps.next ?_
    exact Keeps.refl
  · refine OutKeeps.ite (fun _ => ?_) (fun _ => ?_)
    · refine OutKeeps.next ?_
      exact Keeps.via (State.fsat_keeps ..) rfl Keeps.refl
    · refine OutKeeps.ite (fun _ => ?_) (fun _ => ?_)
      · refine OutKeeps.next ?_
        exact Keeps.refl
      · try extract_lets
        refine OutKeeps.next ?_
        refine Keeps.via (State.barEnd_keeps ..) rfl ?_
        exact Keeps.via (State.barRun_keeps ..) rfl Keeps.refl


theorem execTinRailFault_keeps (t : TinIx) (b : Fin 2048) (c : Fin 16) (s : State) : OutKeeps [.regs, .events, .tins, .dbg, .hqe, .spr] s (execTinRailFault t b c s) := by
  unfold execTinRailFault
  try extract_lets
  refine OutKeeps.ite (fun _ => ?_) (fun _ => ?_)
  · refine OutKeeps.next ?_
    exact Keeps.via (State.railFault_keeps ..) rfl Keeps.refl
  · refine OutKeeps.next ?_
    exact Keeps.refl


theorem execAtomicSwap_keeps (f : Nat) (err : MemErr) (s : State) : OutKeeps [.regs, .events, .now, .tins, .ring, .laneOut, .seamCh, .dozens, .vgoal, .larder, .pool, .corr, .noc, .dram, .breadbox, .pads, .lanes, .time, .mac, .dbg, .mgc, .hqe, .cfg, .ptm, .answer, .free] s (execAtomicSwap f err s) := by
  unfold execAtomicSwap
  refine State.atCmd_via rfl (fun _ _ => ?_)
  · exact Keeps.via (State.targetReq_keeps ..) rfl Keeps.refl


theorem execAtomicCas_keeps (f : Nat) (err : MemErr) (s : State) : OutKeeps [.regs, .events, .now, .tins, .ring, .laneOut, .seamCh, .dozens, .vgoal, .larder, .pool, .corr, .noc, .dram, .breadbox, .pads, .lanes, .time, .mac, .dbg, .mgc, .hqe, .cfg, .ptm, .answer, .free] s (execAtomicCas f err s) := by
  unfold execAtomicCas
  refine State.atCmd_via rfl (fun _ _ => ?_)
  · exact Keeps.via (State.targetReq_keeps ..) rfl Keeps.refl


theorem execWrite_keeps (f : Nat) (err : MemErr) (s : State) : OutKeeps [.regs, .events, .now, .tins, .ring, .laneOut, .seamCh, .dozens, .vgoal, .larder, .pool, .corr, .noc, .dram, .breadbox, .pads, .lanes, .time, .mac, .dbg, .mgc, .hqe, .cfg, .ptm, .answer, .free] s (execWrite f err s) := by
  unfold execWrite
  refine State.atCmd_via rfl (fun _ _ => ?_)
  · exact Keeps.via (State.targetReq_keeps ..) rfl Keeps.refl


theorem execHoldFill_keeps (t : TinIx) (b : Fin 2048) (c : Fin 16) (m : Fin 4) (s : State) : OutKeeps [.regs, .events, .tins, .dbg, .hqe, .spr] s (execHoldFill t b c m s) := by
  unfold execHoldFill
  split
  · refine OutKeeps.next ?_
    exact Keeps.refl
  · refine OutKeeps.ite (fun _ => ?_) (fun _ => ?_)
    · refine OutKeeps.next ?_
      exact Keeps.via (State.setTin_keeps ..) rfl Keeps.refl
    · refine OutKeeps.next ?_
      exact Keeps.via (State.railFault_keeps ..) rfl Keeps.refl


theorem execResponse_keeps (f : Nat) (s : State) : OutKeeps [.regs, .tins, .noc, .dbg, .mgc, .hqe, .answer] s (execResponse f s) := by
  unfold execResponse
  refine State.atCmd_via rfl (fun _ _ => ?_)
  · try extract_lets
    refine Keeps.ite (fun _ => ?_) (fun _ => ?_)
    · split
      · try extract_lets
        refine Keeps.via (State.setTin_keeps ..) rfl ?_
        exact Keeps.via (State.dropFlight_keeps ..) rfl Keeps.refl
      · exact Keeps.via (State.dropFlight_keeps ..) rfl Keeps.refl
    · split
      · refine Keeps.ite (fun _ => ?_) (fun _ => ?_)
        · exact Keeps.refl
        · refine Keeps.via (State.complete_keeps ..) rfl ?_
          exact Keeps.via (State.dropFlight_keeps ..) rfl Keeps.refl
      · split
        · refine Keeps.via (State.fsat_keeps ..) rfl ?_
          refine Keeps.upd_noc rfl ?_
          exact Keeps.via (State.dropFlight_keeps ..) rfl Keeps.refl
        · refine Keeps.via (State.fsat_keeps ..) rfl ?_
          exact Keeps.via (State.dropFlight_keeps ..) rfl Keeps.refl


theorem execDapRead_keeps (a : Fin 1099511627776) (consume : Bool) (inc : Bool) (err : MemErr) (s : State) : OutKeeps [.regs, .events, .now, .tins, .ring, .laneOut, .seamCh, .dozens, .vgoal, .larder, .pool, .corr, .noc, .dram, .breadbox, .pads, .lanes, .time, .mac, .dbg, .mgc, .hqe, .cfg, .ptm, .answer, .free] s (execDapRead a consume inc err s) := by
  unfold execDapRead
  refine OutKeeps.next ?_
  exact Keeps.via (State.dapScan_keeps ..) rfl Keeps.refl


theorem execDapWrite_keeps (a : Fin 1099511627776) (w : Word) (inc : Bool) (err : MemErr) (s : State) : OutKeeps [.regs, .events, .now, .tins, .ring, .laneOut, .seamCh, .dozens, .vgoal, .larder, .pool, .corr, .noc, .dram, .breadbox, .pads, .lanes, .time, .mac, .dbg, .mgc, .hqe, .cfg, .ptm, .answer, .free] s (execDapWrite a w inc err s) := by
  unfold execDapWrite
  refine OutKeeps.next ?_
  exact Keeps.via (State.dapScan_keeps ..) rfl Keeps.refl


theorem execBarRead_keeps (fn : Fin 2) (bar4 : Bool) (off : Nat) (n : Nat) (err : MemErr) (s : State) : OutKeeps [.regs, .events, .now, .tins, .ring, .laneOut, .seamCh, .dozens, .vgoal, .larder, .pool, .corr, .noc, .dram, .breadbox, .pads, .lanes, .time, .mac, .dbg, .mgc, .hqe, .cfg, .ptm, .answer, .free] s (execBarRead fn bar4 off n err s) := by
  unfold execBarRead
  refine OutKeeps.ite (fun _ => ?_) (fun _ => ?_)
  · refine OutKeeps.next ?_
    exact Keeps.refl
  · refine OutKeeps.ite (fun _ => ?_) (fun _ => ?_)
    · refine OutKeeps.next ?_
      exact Keeps.upd_answer rfl Keeps.refl
    · refine OutKeeps.ite (fun _ => ?_) (fun _ => ?_)
      · refine OutKeeps.next ?_
        exact Keeps.refl
      · try extract_lets
        refine OutKeeps.next ?_
        refine Keeps.via (State.barEnd_keeps ..) rfl ?_
        exact Keeps.via (State.barRun_keeps ..) rfl Keeps.refl


theorem execBarTimeout_keeps (i : Nat) (s : State) : OutKeeps [.regs, .noc, .hqe, .answer] s (execBarTimeout i s) := by
  unfold execBarTimeout
  split
  · refine OutKeeps.next ?_
    exact Keeps.refl
  · try extract_lets
    refine OutKeeps.next ?_
    refine Keeps.ite (fun _ => ?_) (fun _ => ?_)
    · refine Keeps.upd_answer rfl ?_
      refine Keeps.upd_hqe rfl ?_
      exact Keeps.via (State.giveUp_keeps ..) rfl Keeps.refl
    · refine Keeps.via (State.fsat_keeps ..) rfl ?_
      refine Keeps.upd_hqe rfl ?_
      exact Keeps.via (State.giveUp_keeps ..) rfl Keeps.refl


theorem execMessage_keeps (f : Nat) (s : State) : OutKeeps [.regs, .events, .tins, .noc, .mac, .answer] s (execMessage f s) := by
  unfold execMessage
  refine State.atCmd_via rfl (fun _ _ => ?_)
  · split
    · exact Keeps.via (State.tinTarget_keeps ..) rfl Keeps.refl
    · exact Keeps.via (State.streamTarget_keeps ..) rfl Keeps.refl
    · refine Keeps.via (State.discard_keeps ..) rfl ?_
      exact Keeps.via (State.dropFlight_keeps ..) rfl Keeps.refl


theorem execNocTimeout_keeps (i : Nat) (s : State) : OutKeeps [.regs, .events, .noc, .dbg, .mgc, .hqe, .answer] s (execNocTimeout i s) := by
  unfold execNocTimeout
  split
  · refine OutKeeps.next ?_
    exact Keeps.refl
  · refine OutKeeps.ite (fun _ => ?_) (fun _ => ?_)
    · refine OutKeeps.next ?_
      exact Keeps.refl
    · try extract_lets
      refine OutKeeps.next ?_
      refine Keeps.via (State.postLimited_keeps ..) rfl ?_
      refine Keeps.via (State.fsat_keeps ..) rfl ?_
      refine Keeps.ite (fun _ => ?_) (fun _ => ?_)
      · refine Keeps.via (State.hubReply_keeps ..) rfl ?_
        exact Keeps.upd_noc rfl Keeps.refl
      · refine Keeps.upd_answer rfl ?_
        exact Keeps.upd_noc rfl Keeps.refl


end Sys2Proof.Machine
end

