-- ==== Sys2Proof/Laws/Exec.lean ====
section
/-! SUPPORT. For every command the parts of the state it can change, and that it always answers a next state. -/

namespace Sys2Proof.Machine

/-- The parts of the state a command can change. -/
def footprint : Instr → List Part
  | .registerWrite .. => [.regs, .events, .now, .tins, .ring, .laneOut, .seamCh, .dozens, .vgoal, .larder, .pool, .corr, .noc, .dram, .breadbox, .pads, .lanes, .time, .mac, .dbg, .mgc, .hqe, .cfg, .ptm, .answer, .free]
  | .rcFieldRead .. => [.regs, .tins, .time, .mgc, .answer]
  | .xAttnClear .. => [.events]
  | .xAttnSet .. => [.events]
  | .timeNowLatch .. => [.time, .answer]
  | .mtimeLatch .. => [.time, .answer]
  | .holdFill .. => [.regs, .events, .tins, .dbg, .hqe, .spr]
  | .holdAcknowledge .. => [.tins]
  | .holdEmpty .. => [.tins]
  | .holdAckFall .. => [.tins]
  | .tinRailFault .. => [.regs, .events, .tins, .dbg, .hqe, .spr]
  | .crustPortModeChange .. => [.tins]
  | .crustInboundToken .. => [.tins]
  | .crustOutboundToken .. => [.tins]
  | .proofingGateRelease .. => [.regs, .events, .tins, .noc, .answer]
  | .proofNotice .. => [.tins]
  | .rateRingWindow .. => [.regs, .events, .tins, .dueSeq]
  | .wearCheck .. => [.regs, .events, .tins, .dueSeq]
  | .telemetryInterval .. => [.regs, .events, .vgoal, .ptm]
  | .vfabRamp .. => [.regs]
  | .channelTokenSend .. => [.tins, .ring, .laneIn, .seamCh, .bench]
  | .channelTokenCapture .. => [.regs, .events, .tins, .ring, .laneOut, .seamCh, .dozens, .bench]
  | .channelAckReceived .. => [.regs, .events, .ring, .seamCh, .dozens, .bench]
  | .sweep .. => [.regs, .events, .seamCh, .dozens]
  | .sweepGap .. => [.seamCh]
  | .spareWireCopyStart .. => [.dozens]
  | .seamWireSpared .. => [.regs, .events, .seamCh, .dozens]
  | .channelMoveHold .. => [.seamCh]
  | .seamChannelMoved .. => [.regs, .events, .seamCh, .dozens]
  | .seamFold .. => [.regs, .events, .seamCh, .dozens]
  | .seamPeerLost .. => [.regs, .events, .seamCh]
  | .seamTraining .. => [.regs, .events, .seamCh, .dozens]
  | .clearMin .. => [.dozens]
  | .pantryRead .. => [.regs, .events, .tins, .corr, .free]
  | .pantryWrite .. => [.regs, .events, .tins, .corr, .free]
  | .pantrySwap .. => [.regs, .events, .tins, .corr, .free]
  | .pantryRowSpared .. => [.events, .tins]
  | .pantryScrub .. => [.regs, .events, .tins, .corr, .free]
  | .fifoWrite .. => [.regs, .events, .tins]
  | .fifoRead .. => [.regs, .events, .tins, .corr, .free]
  | .fifoEventConsume .. => [.tins]
  | .stale .. => [.tins]
  | .larderRead .. => [.regs, .events, .larder, .corr, .answer, .free]
  | .larderWrite .. => [.regs, .events, .larder, .corr, .answer, .free]
  | .larderScrub .. => [.regs, .events, .larder, .corr, .free]
  | .larderCheckerTest .. => [.regs, .events, .larder, .corr]
  | .poolPush .. => [.regs, .events, .pool, .hqe]
  | .poolPop .. => [.regs, .events, .pool, .hqe]
  | .poolSweep => [.regs, .events, .pool]
  | .selfTestAndFill .. => [.regs, .events, .tins, .larder, .pool, .corr]
  | .memCorrected .. => [.events, .corr]
  | .mixerOperation .. => [.events, .tins]
  | .mixerSearch .. => [.events, .tins]
  | .clkRefLost .. => [.regs, .events]
  | .clkRefRestored .. => [.regs, .events]
  | .clkSwitchover .. => [.regs, .events, .clk]
  | .clkCtlSwitch => [.regs, .events]
  | .clkGenReady => [.regs, .events, .clk]
  | .clkGenFault .. => [.regs, .events, .clk]
  | .clkOutputGate => [.clk]
  | .clkPathSpared .. => [.regs, .events]
  | .controlCrossing .. => [.clk]
  | .eventCrossing .. => [.regs, .events, .clk]
  | .valuePublish .. => [.clk]
  | .edgeUnstable .. => [.regs, .events]
  | .edgeFifoWrite .. => [.regs, .events, .clk]
  | .edgeFifoRead .. => [.regs, .events, .clk, .answer]
  | .dieClkLost .. => [.regs, .events, .larder, .pool, .corr, .lanes, .clk, .time, .mac, .free]
  | .dieClkRestored .. => [.regs, .events, .larder, .pool, .corr, .lanes, .clk, .time, .mac, .free]
  | .nocInject .. => [.regs, .events, .tins, .noc, .answer]
  | .routerHop .. => [.regs, .events, .corr, .noc]
  | .read .. => [.regs, .events, .now, .tins, .ring, .laneOut, .seamCh, .dozens, .vgoal, .larder, .pool, .corr, .noc, .dram, .breadbox, .pads, .lanes, .time, .mac, .dbg, .mgc, .hqe, .cfg, .ptm, .answer, .free]
  | .write .. => [.regs, .events, .now, .tins, .ring, .laneOut, .seamCh, .dozens, .vgoal, .larder, .pool, .corr, .noc, .dram, .breadbox, .pads, .lanes, .time, .mac, .dbg, .mgc, .hqe, .cfg, .ptm, .answer, .free]
  | .writePosted .. => [.regs, .events, .now, .tins, .ring, .laneOut, .seamCh, .dozens, .vgoal, .larder, .pool, .corr, .noc, .dram, .breadbox, .pads, .lanes, .time, .mac, .dbg, .mgc, .hqe, .cfg, .ptm, .answer, .free]
  | .atomicAdd .. => [.regs, .events, .now, .tins, .ring, .laneOut, .seamCh, .dozens, .vgoal, .larder, .pool, .corr, .noc, .dram, .breadbox, .pads, .lanes, .time, .mac, .dbg, .mgc, .hqe, .cfg, .ptm, .answer, .free]
  | .atomicSwap .. => [.regs, .events, .now, .tins, .ring, .laneOut, .seamCh, .dozens, .vgoal, .larder, .pool, .corr, .noc, .dram, .breadbox, .pads, .lanes, .time, .mac, .dbg, .mgc, .hqe, .cfg, .ptm, .answer, .free]
  | .atomicCas .. => [.regs, .events, .now, .tins, .ring, .laneOut, .seamCh, .dozens, .vgoal, .larder, .pool, .corr, .noc, .dram, .breadbox, .pads, .lanes, .time, .mac, .dbg, .mgc, .hqe, .cfg, .ptm, .answer, .free]
  | .message .. => [.regs, .events, .tins, .noc, .mac, .answer]
  | .response .. => [.regs, .tins, .noc, .dbg, .mgc, .hqe, .answer]
  | .nocTimeout .. => [.regs, .events, .noc, .dbg, .mgc, .hqe, .answer]
  | .quarantineEnd .. => [.noc]
  | .benchWireSpared .. => [.regs, .events, .bench]
  | .benchDozenSpared .. => [.regs, .events, .bench]
  | .benchLinkRetired .. => [.regs, .events, .noc]
  | .rerouteStep => [.events, .noc, .dram]
  | .spineRouterSpared .. => [.regs, .events, .noc]
  | .spineRouterRetired .. => [.regs, .events, .noc]
  | .memoryRequest .. => [.regs, .events, .tins, .larder, .pool, .corr, .noc, .dram, .breadbox, .pads, .mac, .cfg, .free]
  | .beatWarn => [.dram]
  | .beatStall .. => [.regs, .dram]
  | .beatEnd => [.dram]
  | .sliceBeatEnd .. => [.regs, .events, .dram]
  | .dramRefreshHot => [.regs, .events, .dram]
  | .dramRefreshNormal => [.regs, .events, .dram]
  | .patrolRead .. => [.regs, .events, .corr, .dram, .free]
  | .channelTrained .. => [.regs, .events, .dram]
  | .channelFilled .. => [.regs, .dram]
  | .selfRefreshExit .. => [.regs, .events, .dram]
  | .evacuationLineMove .. => [.regs, .events, .corr, .dram, .free]
  | .dramEvacuated => [.regs, .events, .noc, .dram, .hqe]
  | .counterRequest .. => [.regs, .events, .tins, .larder, .pool, .corr, .dram, .breadbox, .pads, .mac, .cfg, .free]
  | .sealedReadProof .. => [.regs, .events, .tins, .larder, .pool, .corr, .noc, .dram, .breadbox, .pads, .mac, .cfg, .free]
  | .securityHalt .. => [.regs, .events, .tins, .larder, .pool, .corr, .dram, .breadbox, .pads, .mac, .mgc, .cfg, .free]
  | .granuleRefillDone .. => [.regs, .events, .dram, .hqe, .free]
  | .sealResealed .. => [.regs, .events, .dram, .hqe, .free]
  | .flr .. => [.regs, .events, .tins, .hqe, .cfg]
  | .perstN => [.regs, .events, .tins, .hqe, .cfg]
  | .barRead .. => [.regs, .events, .now, .tins, .ring, .laneOut, .seamCh, .dozens, .vgoal, .larder, .pool, .corr, .noc, .dram, .breadbox, .pads, .lanes, .time, .mac, .dbg, .mgc, .hqe, .cfg, .ptm, .answer, .free]
  | .barWrite .. => [.regs, .events, .now, .tins, .ring, .laneOut, .seamCh, .dozens, .vgoal, .larder, .pool, .corr, .noc, .dram, .breadbox, .pads, .lanes, .time, .mac, .dbg, .mgc, .hqe, .cfg, .ptm, .answer, .free]
  | .barTimeout .. => [.regs, .noc, .hqe, .answer]
  | .sqDoorbell .. => [.regs, .events, .hqe]
  | .cqDoorbell .. => [.regs, .events, .hqe]
  | .descriptorFetch .. => [.regs, .events, .hqe]
  | .copyToDevice .. => [.regs, .events, .tins, .larder, .pool, .corr, .noc, .dram, .breadbox, .pads, .mac, .hqe, .cfg, .answer, .free]
  | .copyFromDevice .. => [.regs, .events, .tins, .larder, .pool, .corr, .noc, .dram, .breadbox, .pads, .mac, .hqe, .cfg, .answer, .free]
  | .copyDevice .. => [.regs, .events, .tins, .larder, .pool, .corr, .noc, .dram, .breadbox, .pads, .mac, .hqe, .cfg, .answer, .free]
  | .copyComplete .. => [.regs, .events, .hqe]
  | .streamSend .. => [.regs, .events, .noc, .hqe]
  | .streamSendTimeout .. => [.regs, .events, .hqe]
  | .streamBuffer .. => [.regs, .events, .hqe]
  | .streamRecord .. => [.regs, .events, .mac, .hqe]
  | .streamBufferFlush .. => [.regs, .events, .hqe]
  | .queueCreate .. => [.regs, .events, .hqe]
  | .queueDelete .. => [.regs, .events, .tins, .hqe, .cfg]
  | .queuePause .. => [.regs, .events, .hqe]
  | .queueResume .. => [.regs, .events, .hqe]
  | .queueReset .. => [.regs, .events, .hqe]
  | .queueAssign .. => [.regs, .events, .hqe]
  | .queueQuery .. => [.regs, .events, .hqe]
  | .interruptCoalesce .. => [.hqe]
  | .cqStale .. => [.hqe]
  | .eventRingMove .. => [.events, .hqe]
  | .hqeQctlWrite .. => [.regs, .events, .tins, .hqe, .cfg]
  | .loadImage .. => [.regs, .events, .tins, .hqe, .cfg]
  | .relocateTin .. => [.regs, .events, .hqe, .spr]
  | .swapAt .. => [.regs, .events, .hqe, .spr]
  | .swapCancel .. => [.regs, .events, .tins, .hqe, .spr]
  | .sparePolicy .. => [.regs, .events, .dram, .hqe]
  | .retireTin .. => [.regs, .events, .roles, .tins, .hqe, .spr]
  | .retireChannel .. => [.regs, .events, .dram, .hqe]
  | .retireBenchLink .. => [.regs, .events, .noc, .hqe]
  | .retireCore .. => [.regs, .events, .mgc, .hqe]
  | .retireSpineRouter .. => [.regs, .events, .noc, .hqe]
  | .granuleSet .. => [.regs, .events, .dram, .hqe]
  | .storeSet .. => [.regs, .events, .dram, .hqe]
  | .resealRange .. => [.regs, .events, .dram, .hqe]
  | .powerState .. => [.regs, .events, .vgoal, .hqe, .ptm]
  | .tinReset .. => [.regs, .events, .tins, .noc, .hqe]
  | .dieReset .. => [.regs, .events, .tins, .seamCh, .larder, .pool, .corr, .noc, .dram, .breadbox, .pads, .lanes, .time, .mac, .hqe, .cfg, .spr, .away, .free]
  | .hubWarmReset .. => [.regs, .events, .tins, .noc, .dbg, .mgc, .hqe, .cfg]
  | .coreReset .. => [.regs, .events, .mgc, .hqe]
  | .laneSignalDetect .. => [.regs]
  | .linkTrainingRequest .. => [.regs, .answer]
  | .laneUp .. => [.regs, .events, .larder, .pool, .corr, .lanes, .mac, .free]
  | .laneAttemptTimeout .. => [.regs, .events, .larder, .pool, .corr, .lanes, .mac, .free]
  | .laneSelfTestDone .. => [.regs, .events, .larder, .pool, .corr, .lanes, .mac, .free]
  | .laneRetry .. => [.regs, .events, .larder, .pool, .corr, .lanes, .mac, .free]
  | .eyeMeasurement .. => [.regs, .events, .lanes]
  | .laneSignalLost .. => [.regs, .events, .larder, .pool, .corr, .lanes, .mac, .free]
  | .laneRelockTimeout .. => [.regs, .events, .larder, .pool, .corr, .lanes, .mac, .free]
  | .laneStateReached .. => [.regs, .events, .larder, .pool, .corr, .lanes, .mac, .free]
  | .laneReqState .. => [.regs]
  | .laneRateWrite .. => [.regs, .events, .larder, .pool, .corr, .lanes, .mac, .free]
  | .laneRetrain .. => [.regs, .events, .larder, .pool, .corr, .lanes, .mac, .free]
  | .injOnce .. => [.regs, .lanes]
  | .injRate .. => [.regs]
  | .chkClear .. => [.regs]
  | .loopbackChange .. => [.regs, .events, .larder, .pool, .corr, .lanes, .mac, .free]
  | .ppsInEdge .. => [.regs, .events, .now, .dram, .time, .mac]
  | .timeHoldover => [.regs, .events, .time]
  | .timeStep .. => [.regs, .events, .now, .dram, .time, .mac]
  | .timeAdjWrite .. => [.time]
  | .ppsOut => [.regs, .events, .tins, .larder, .time, .dbg, .mgc, .free]
  | .dieTimeAlign .. => [.time]
  | .frameReceive .. => [.regs, .events, .laneIn, .mac]
  | .transmitRecord .. => [.regs, .laneOut, .mac, .answer]
  | .frameTransmit .. => [.regs, .events, .larder, .pool, .corr, .lanes, .mac, .answer, .free]
  | .sdiLocked .. => [.regs, .events, .larder, .pool, .corr, .mac, .free]
  | .sdiUnlocked .. => [.regs, .events, .larder, .pool, .corr, .mac, .free]
  | .sdiLine .. => [.regs, .laneIn, .mac]
  | .st352Change .. => [.regs, .events, .larder, .pool, .corr, .mac, .free]
  | .recordPresentation .. => [.regs, .events, .larder, .corr, .mac, .free]
  | .recordAccept .. => [.mac]
  | .packetLaunch .. => [.regs, .events, .tins, .larder, .pool, .corr, .lanes, .mac, .dbg, .mgc, .answer, .free]
  | .statisticsWrite .. => [.regs, .events, .larder, .corr, .free]
  | .macCqHead .. => [.regs, .events, .larder, .pool, .corr, .mac, .free]
  | .macCqReset .. => [.regs, .pool, .mac]
  | .push .. => [.regs, .cfg, .answer]
  | .stat => [.answer]
  | .headerAuthenticated .. => [.regs, .events, .tins, .hqe, .cfg]
  | .imageSegment .. => [.regs, .events, .tins, .hqe, .cfg]
  | .endMarker .. => [.regs, .events, .tins, .hqe, .cfg]
  | .fullImageCommit => [.regs, .events, .tins, .ring, .foldMap, .kept, .dieCopy, .larder, .pool, .corr, .noc, .breadbox, .lanes, .eqTable, .mac, .fuses, .hqe, .cfg, .spr, .free]
  | .partialImageCommit => [.regs, .events, .tins, .ring, .kept, .noc, .hqe, .cfg, .spr]
  | .earlyEnd => [.regs, .events, .tins, .hqe, .cfg]
  | .cfgIdleTimeout => [.regs, .events, .tins, .hqe, .cfg]
  | .fabricWipeDone => [.regs, .events, .tins, .ring, .kept, .dieCopy, .hqe, .cfg, .spr]
  | .fallbackTimeout => [.regs, .events, .cfg]
  | .autoRelocationStart .. => [.regs, .spr]
  | .targetLoaded .. => [.regs, .events, .tins, .hqe, .spr]
  | .relocationFreeze .. => [.regs, .events, .tins, .hqe, .spr]
  | .sourceQuiescent .. => [.regs, .events, .tins, .hqe, .spr]
  | .stateTransferDone .. => [.regs, .events, .tins, .hqe, .spr]
  | .tinRelocated .. => [.regs, .events, .roles, .tins, .ring, .kept, .hqe, .spr]
  | .quiescenceTimeout .. => [.regs, .events, .tins, .hqe, .spr]
  | .relocationRetry .. => [.regs, .spr]
  | .swapTime .. => [.regs, .events, .tins, .hqe, .spr]
  | .tinSwapped .. => [.regs, .events, .roles, .tins, .ring, .kept, .noc, .hqe, .spr]
  | .tinRestarted .. => [.regs, .events, .roles, .tins, .noc, .dbg, .hqe, .spr]
  | .returnTestDone .. => [.regs, .events, .tins, .hqe, .spr]
  | .kneaderFrameRead .. => [.regs, .events, .tins, .dueSeq]
  | .hotFrameInterval .. => [.regs, .events, .tins, .dueSeq]
  | .kneaderHeartbeat .. => [.regs, .events, .spr]
  | .watchdogKick .. => [.mgc]
  | .watchdogPreBite .. => [.mgc]
  | .wdgBite .. => [.regs, .events, .mgc]
  | .bootStart .. => [.regs, .mgc]
  | .firmwareVerified .. => [.regs, .events, .mgc]
  | .getRandom => [.mgc, .free]
  | .hashRange => [.mgc]
  | .verifyBlob .. => [.mgc]
  | .deviceInfo => [.mgc]
  | .lifecycleAdvance .. => [.regs, .events, .mgc, .fuses]
  | .keyProgram .. => [.regs, .events, .mgc, .fuses]
  | .keyRevoke .. => [.regs, .events, .mgc, .fuses]
  | .forceHalt => [.regs, .events, .tins, .larder, .pool, .corr, .dram, .breadbox, .pads, .mac, .mgc, .cfg, .free]
  | .mailboxComplete => [.regs, .mgc]
  | .secResponseRead => [.mgc, .answer]
  | .l2Clean => [.regs, .events, .tins, .larder, .pool, .corr, .noc, .dram, .breadbox, .pads, .mac, .mgc, .cfg, .free]
  | .l2Invalidate => [.regs, .events, .tins, .larder, .pool, .corr, .noc, .dram, .breadbox, .pads, .mac, .mgc, .cfg, .free]
  | .l2CleanInvalidate => [.regs, .events, .tins, .larder, .pool, .corr, .noc, .dram, .breadbox, .pads, .mac, .mgc, .cfg, .free]
  | .l2CmoDone => [.regs]
  | .loadReserved .. => [.regs, .events, .tins, .larder, .pool, .corr, .noc, .dram, .breadbox, .pads, .mac, .mgc, .cfg, .answer, .free]
  | .storeConditional .. => [.mgc, .answer]
  | .amo .. => [.regs, .events, .tins, .larder, .pool, .corr, .noc, .dram, .breadbox, .pads, .mac, .mgc, .cfg, .answer, .free]
  | .uncachedStore .. => [.regs, .events, .tins, .noc, .mgc, .answer]
  | .mgcL2Uncorr .. => [.events, .mgc]
  | .timerInterrupt .. => [.mgc]
  | .clusterEventMove => [.events, .larder, .mgc]
  | .pwrRailFault .. => [.regs, .events, .vgoal, .away]
  | .hubRailFault => [.regs, .events, .now, .roles, .tins, .ring, .laneIn, .laneOut, .seamCh, .dozens, .bench, .foldMap, .kept, .dieCopy, .dueSeq, .vgoal, .larder, .pool, .corr, .noc, .dram, .breadbox, .pads, .lanes, .eqTable, .clk, .time, .mac, .dbg, .mgc, .hqe, .cfg, .spr, .ptm, .away, .smbus, .powerGood, .answer]
  | .refusersAnswered => [.regs, .events, .tins, .vgoal, .hqe, .ptm]
  | .entryQuiescent => [.regs, .events, .tins, .larder, .pool, .corr, .noc, .dram, .breadbox, .pads, .mac, .cfg, .ptm, .free]
  | .entryAbort => [.regs, .events, .tins, .hqe, .ptm]
  | .pointOfNoReturn => [.regs, .events, .tins, .vgoal, .larder, .pool, .corr, .dram, .pads, .lanes, .clk, .mac, .ptm, .free]
  | .pwrStateEntered => [.regs, .events, .now, .roles, .tins, .ring, .laneIn, .laneOut, .seamCh, .dozens, .bench, .foldMap, .kept, .dieCopy, .dueSeq, .vgoal, .larder, .pool, .corr, .noc, .dram, .breadbox, .pads, .lanes, .eqTable, .clk, .time, .mac, .dbg, .mgc, .hqe, .cfg, .spr, .ptm, .away, .smbus, .answer]
  | .wakeNow => [.regs, .ptm]
  | .gpioWake => [.regs, .ptm]
  | .timerWake => [.regs, .ptm]
  | .wakeStep .. => [.regs, .events, .roles, .tins, .ring, .laneIn, .laneOut, .seamCh, .vgoal, .noc, .clk, .mac, .dbg, .mgc, .hqe, .ptm, .away]
  | .padRelease .. => [.regs, .pads]
  | .thermTrip .. => [.regs, .events, .now, .roles, .tins, .ring, .laneIn, .laneOut, .seamCh, .dozens, .bench, .foldMap, .kept, .dieCopy, .dueSeq, .vgoal, .larder, .pool, .corr, .noc, .dram, .breadbox, .pads, .lanes, .eqTable, .clk, .time, .mac, .dbg, .mgc, .hqe, .cfg, .spr, .ptm, .away, .smbus, .answer]
  | .thermTripRelease => [.regs]
  | .pwrOvercurrent => [.regs, .events, .vgoal, .ptm]
  | .overcurrentRelease => [.regs, .ptm]
  | .powerOnReset .. => [.regs, .events, .now, .roles, .tins, .ring, .laneIn, .laneOut, .seamCh, .dozens, .bench, .foldMap, .kept, .dieCopy, .dueSeq, .vgoal, .larder, .pool, .corr, .noc, .dram, .breadbox, .pads, .lanes, .eqTable, .clk, .time, .mac, .dbg, .mgc, .hqe, .cfg, .spr, .ptm, .away, .smbus, .powerGood, .straps, .answer]
  | .resetN .. => [.regs, .events, .now, .roles, .tins, .ring, .laneIn, .laneOut, .seamCh, .dozens, .bench, .foldMap, .kept, .dieCopy, .dueSeq, .vgoal, .larder, .pool, .corr, .noc, .dram, .breadbox, .pads, .lanes, .eqTable, .clk, .time, .mac, .dbg, .mgc, .hqe, .cfg, .spr, .ptm, .away, .smbus, .straps, .answer]
  | .secBoot .. => [.regs, .events, .tins, .larder, .pool, .corr, .dram, .breadbox, .pads, .mac, .fuses, .cfg, .free]
  | .clockLock .. => [.regs, .events, .vgoal, .clk]
  | .cfgErrNRelease .. => [.regs, .events, .roles, .mgc, .cfg]
  | .dieResetRelease .. => [.regs, .tins, .ring, .laneIn, .laneOut, .seamCh, .noc, .clk, .mac, .dbg]
  | .dieReturned .. => [.regs, .events, .roles, .tins, .ring, .hqe, .away]
  | .diePowerLost .. => [.regs, .events, .tins, .seamCh, .larder, .pool, .corr, .dram, .pads, .lanes, .time, .mac, .hqe, .cfg, .spr, .away, .free]
  | .diePowerRetry .. => [.regs, .events, .tins, .ring, .laneIn, .laneOut, .seamCh, .vgoal, .noc, .clk, .mac, .dbg, .hqe, .ptm, .away]
  | .trngHealthFail => [.regs, .events]
  | .trngRetest .. => [.regs, .events]
  | .glitchDetect => [.regs, .events, .tins, .larder, .pool, .corr, .dram, .breadbox, .pads, .mac, .mgc, .cfg, .free]
  | .challengeLockoutEnd => [.dbg]
  | .tapReset => [.regs, .events, .larder, .pool, .corr, .lanes, .mac, .dbg, .free]
  | .extest .. => [.regs, .events, .larder, .pool, .corr, .lanes, .mac, .dbg, .answer, .free]
  | .samplePreload .. => [.regs, .events, .larder, .pool, .corr, .lanes, .mac, .dbg, .answer, .free]
  | .idcode => [.regs, .events, .larder, .pool, .corr, .lanes, .mac, .dbg, .answer, .free]
  | .clamp => [.regs, .events, .larder, .pool, .corr, .lanes, .mac, .dbg, .answer, .free]
  | .highz => [.regs, .events, .larder, .pool, .corr, .lanes, .mac, .dbg, .answer, .free]
  | .extestPulse .. => [.regs, .events, .larder, .pool, .corr, .lanes, .mac, .dbg, .answer, .free]
  | .extestTrain .. => [.regs, .events, .larder, .pool, .corr, .lanes, .mac, .dbg, .answer, .free]
  | .boundaryScanEnd => [.regs, .events, .larder, .pool, .corr, .lanes, .mac, .dbg, .free]
  | .bypass => [.regs, .events, .larder, .pool, .corr, .lanes, .mac, .dbg, .answer, .free]
  | .haltCause => [.regs, .events, .larder, .pool, .corr, .lanes, .mac, .dbg, .answer, .free]
  | .auth .. => [.regs, .events, .tins, .larder, .pool, .corr, .lanes, .mac, .dbg, .mgc, .answer, .free]
  | .dapRead .. => [.regs, .events, .now, .tins, .ring, .laneOut, .seamCh, .dozens, .vgoal, .larder, .pool, .corr, .noc, .dram, .breadbox, .pads, .lanes, .time, .mac, .dbg, .mgc, .hqe, .cfg, .ptm, .answer, .free]
  | .dapWrite .. => [.regs, .events, .now, .tins, .ring, .laneOut, .seamCh, .dozens, .vgoal, .larder, .pool, .corr, .noc, .dram, .breadbox, .pads, .lanes, .time, .mac, .dbg, .mgc, .hqe, .cfg, .ptm, .answer, .free]
  | .dtermUpdate .. => [.regs, .events, .larder, .pool, .corr, .lanes, .mac, .dbg, .answer, .free]
  | .cfgLoad .. => [.regs, .events, .larder, .pool, .corr, .lanes, .mac, .dbg, .cfg, .answer, .free]
  | .cfgReadback .. => [.regs, .events, .larder, .pool, .corr, .lanes, .mac, .dbg, .answer, .free]
  | .dmHalt .. => [.regs, .events, .tins, .larder, .dbg, .mgc, .free]
  | .dmResume .. => [.regs, .events, .mgc]
  | .accessRegister .. => [.dbg, .mgc]
  | .xtChannelFire .. => [.regs, .events, .tins, .larder, .dbg, .mgc, .free]
  | .stimulusWrite .. => [.regs, .events, .tins, .larder, .dbg, .mgc, .free]
  | .traceFrameSend => [.dbg, .answer]
  | .dtxWrite .. => [.regs]
  | .drxConsume => [.regs, .answer]
  | .tinFreeze .. => [.regs, .tins, .ring, .laneOut, .seamCh, .larder, .dbg, .answer]
  | .dbgTinFrozen .. => [.regs, .events, .dbg]
  | .tinRelease .. => [.regs, .tins, .ring, .laneOut, .seamCh, .larder, .dbg, .answer]
  | .tokenStep .. => [.regs, .tins, .ring, .laneOut, .seamCh, .larder, .dbg, .answer]
  | .tinReadback .. => [.regs, .tins, .ring, .laneOut, .seamCh, .larder, .dbg, .answer]
  | .tinStateWrite .. => [.regs, .tins, .ring, .laneOut, .seamCh, .larder, .dbg, .answer]
  | .gpioOutWrite .. => [.regs, .events, .now, .tins, .ring, .laneOut, .seamCh, .dozens, .vgoal, .larder, .pool, .corr, .noc, .dram, .breadbox, .pads, .lanes, .time, .mac, .dbg, .mgc, .hqe, .cfg, .ptm, .answer, .free]
  | .padInputChange .. => [.pads]
  | .smbusSetPointer .. => [.smbus, .answer]
  | .smbusRead .. => [.regs, .tins, .time, .mgc, .smbus, .answer]
  | .smbusWrite .. => [.regs, .events, .now, .tins, .ring, .laneOut, .seamCh, .dozens, .vgoal, .larder, .pool, .corr, .noc, .dram, .breadbox, .pads, .lanes, .time, .mac, .dbg, .mgc, .hqe, .cfg, .ptm, .smbus, .answer, .free]
  | .smbusWriteStatus .. => [.answer]
  | .smbusAttnSum .. => [.answer]
  | .smbusTj .. => [.answer]
  | .smbusCurrent .. => [.answer]
  | .fetchLoadStore .. => [.regs, .events, .tins, .larder, .pool, .corr, .noc, .dram, .breadbox, .pads, .mac, .mgc, .cfg, .answer, .free]
  | .pcieLinkChange .. => [.regs]
  | .hostCompletionTimeout .. => [.regs, .events, .tins, .larder, .pool, .corr, .noc, .dram, .breadbox, .pads, .mac, .hqe, .cfg, .answer, .free]
  | .patternCheckerLock .. => [.regs]
  | .otherGeneratorLocked => [.regs, .events, .clk]
  | .standbyGeneratorFault .. => [.regs, .clk]

theorem exec_keeps_registerWrite (off : Nat) (value : Word) (dom : Dom) (src : Nat) (σ : State) : OutKeeps (footprint (.registerWrite off value dom src)) σ (exec (.registerWrite off value dom src) σ) := execRegisterWrite_keeps off value dom src σ
theorem exec_keeps_rcFieldRead (off : Nat) (dom : Dom) (src : Nat) (hwSet : Word) (σ : State) : OutKeeps (footprint (.rcFieldRead off dom src hwSet)) σ (exec (.rcFieldRead off dom src hwSet) σ) := execRcFieldRead_keeps off dom src hwSet σ
theorem exec_keeps_xAttnClear (blk : Fin 24) (value : Word) (hwSet : Word) (σ : State) : OutKeeps (footprint (.xAttnClear blk value hwSet)) σ (exec (.xAttnClear blk value hwSet) σ) := execXAttnClear_keeps blk value hwSet σ
theorem exec_keeps_xAttnSet (blk : Fin 24) (value : Word) (σ : State) : OutKeeps (footprint (.xAttnSet blk value)) σ (exec (.xAttnSet blk value) σ) := execXAttnSet_keeps blk value σ
theorem exec_keeps_timeNowLatch (peek : Bool) (σ : State) : OutKeeps (footprint (.timeNowLatch peek)) σ (exec (.timeNowLatch peek) σ) := execTimeNowLatch_keeps peek σ
theorem exec_keeps_mtimeLatch (peek : Bool) (σ : State) : OutKeeps (footprint (.mtimeLatch peek)) σ (exec (.mtimeLatch peek) σ) := execMtimeLatch_keeps peek σ
theorem exec_keeps_holdFill (t : TinIx) (b : Fin 2048) (c : Fin 16) (m : Fin 4) (σ : State) : OutKeeps (footprint (.holdFill t b c m)) σ (exec (.holdFill t b c m) σ) := execHoldFill_keeps t b c m σ
theorem exec_keeps_holdAcknowledge (t : TinIx) (b : Fin 2048) (c : Fin 16) (m : Fin 4) (σ : State) : OutKeeps (footprint (.holdAcknowledge t b c m)) σ (exec (.holdAcknowledge t b c m) σ) := execHoldAcknowledge_keeps t b c m σ
theorem exec_keeps_holdEmpty (t : TinIx) (b : Fin 2048) (c : Fin 16) (m : Fin 4) (σ : State) : OutKeeps (footprint (.holdEmpty t b c m)) σ (exec (.holdEmpty t b c m) σ) := execHoldEmpty_keeps t b c m σ
theorem exec_keeps_holdAckFall (t : TinIx) (b : Fin 2048) (c : Fin 16) (m : Fin 4) (σ : State) : OutKeeps (footprint (.holdAckFall t b c m)) σ (exec (.holdAckFall t b c m) σ) := execHoldAckFall_keeps t b c m σ
theorem exec_keeps_tinRailFault (t : TinIx) (b : Fin 2048) (c : Fin 16) (σ : State) : OutKeeps (footprint (.tinRailFault t b c)) σ (exec (.tinRailFault t b c) σ) := execTinRailFault_keeps t b c σ
theorem exec_keeps_crustPortModeChange (t : TinIx) (p : Fin 384) (σ : State) : OutKeeps (footprint (.crustPortModeChange t p)) σ (exec (.crustPortModeChange t p) σ) := execCrustPortModeChange_keeps t p σ
theorem exec_keeps_crustInboundToken (t : TinIx) (p : Fin 384) (tok : BitVec 10) (σ : State) : OutKeeps (footprint (.crustInboundToken t p tok)) σ (exec (.crustInboundToken t p tok) σ) := execCrustInboundToken_keeps t p tok σ
theorem exec_keeps_crustOutboundToken (t : TinIx) (p : Fin 384) (σ : State) : OutKeeps (footprint (.crustOutboundToken t p)) σ (exec (.crustOutboundToken t p) σ) := execCrustOutboundToken_keeps t p σ
theorem exec_keeps_proofingGateRelease (t : TinIx) (p : Fin 385) (σ : State) : OutKeeps (footprint (.proofingGateRelease t p)) σ (exec (.proofingGateRelease t p) σ) := execProofingGateRelease_keeps t p σ
theorem exec_keeps_proofNotice (t : TinIx) (tag : Nat) (epoch : Nat) (σ : State) : OutKeeps (footprint (.proofNotice t tag epoch)) σ (exec (.proofNotice t tag epoch) σ) := execProofNotice_keeps t tag epoch σ
theorem exec_keeps_rateRingWindow (t : Fin 105) (c0 c1 c2 c3 : Nat) (stable : Bool) (σ : State) : OutKeeps (footprint (.rateRingWindow t c0 c1 c2 c3 stable)) σ (exec (.rateRingWindow t c0 c1 c2 c3 stable) σ) := execRateRingWindow_keeps t c0 c1 c2 c3 stable σ
theorem exec_keeps_wearCheck (t : TinIx) (σ : State) : OutKeeps (footprint (.wearCheck t)) σ (exec (.wearCheck t) σ) := execWearCheck_keeps t σ
theorem exec_keeps_telemetryInterval (temps : List (Nat × Int)) (mv ma : Fin 65536) (σ : State) : OutKeeps (footprint (.telemetryInterval temps mv ma)) σ (exec (.telemetryInterval temps mv ma) σ) := execTelemetryInterval_keeps temps mv ma σ
theorem exec_keeps_vfabRamp (d : DieIx) (σ : State) : OutKeeps (footprint (.vfabRamp d)) σ (exec (.vfabRamp d) σ) := execVfabRamp_keeps d σ
theorem exec_keeps_channelTokenSend (r : ChanRef) (σ : State) : OutKeeps (footprint (.channelTokenSend r)) σ (exec (.channelTokenSend r) σ) := execChannelTokenSend_keeps r σ
theorem exec_keeps_channelTokenCapture (r : ChanRef) (ms : List Margin) (σ : State) : OutKeeps (footprint (.channelTokenCapture r ms)) σ (exec (.channelTokenCapture r ms) σ) := execChannelTokenCapture_keeps r ms σ
theorem exec_keeps_channelAckReceived (r : ChanRef) (ms : List Margin) (σ : State) : OutKeeps (footprint (.channelAckReceived r ms)) σ (exec (.channelAckReceived r ms) σ) := execChannelAckReceived_keeps r ms σ
theorem exec_keeps_sweep (s : DieIx) (z : Fin 4224) (ms : List Margin) (σ : State) : OutKeeps (footprint (.sweep s z ms)) σ (exec (.sweep s z ms) σ) := execSweep_keeps s z ms σ
theorem exec_keeps_sweepGap (s : DieIx) (c : Fin 4096) (σ : State) : OutKeeps (footprint (.sweepGap s c)) σ (exec (.sweepGap s c) σ) := execSweepGap_keeps s c σ
theorem exec_keeps_spareWireCopyStart (s : DieIx) (z : Fin 4224) (w : Fin 12) (σ : State) : OutKeeps (footprint (.spareWireCopyStart s z w)) σ (exec (.spareWireCopyStart s z w) σ) := execSpareWireCopyStart_keeps s z w σ
theorem exec_keeps_seamWireSpared (s : DieIx) (z : Fin 4224) (agree : Bool) (σ : State) : OutKeeps (footprint (.seamWireSpared s z agree)) σ (exec (.seamWireSpared s z agree) σ) := execSeamWireSpared_keeps s z agree σ
theorem exec_keeps_channelMoveHold (s : DieIx) (c : Fin 4096) (σ : State) : OutKeeps (footprint (.channelMoveHold s c)) σ (exec (.channelMoveHold s c) σ) := execChannelMoveHold_keeps s c σ
theorem exec_keeps_seamChannelMoved (s : DieIx) (c : Fin 4096) (σ : State) : OutKeeps (footprint (.seamChannelMoved s c)) σ (exec (.seamChannelMoved s c) σ) := execSeamChannelMoved_keeps s c σ
theorem exec_keeps_seamFold (s : DieIx) (entry : Nat) (σ : State) : OutKeeps (footprint (.seamFold s entry)) σ (exec (.seamFold s entry) σ) := execSeamFold_keeps s entry σ
theorem exec_keeps_seamPeerLost (e : SeamEndIx) (σ : State) : OutKeeps (footprint (.seamPeerLost e)) σ (exec (.seamPeerLost e) σ) := execSeamPeerLost_keeps e σ
theorem exec_keeps_seamTraining (s : DieIx) (ms : List (Nat × Margin)) (σ : State) : OutKeeps (footprint (.seamTraining s ms)) σ (exec (.seamTraining s ms) σ) := execSeamTraining_keeps s ms σ
theorem exec_keeps_clearMin (e : SeamEndIx) (σ : State) : OutKeeps (footprint (.clearMin e)) σ (exec (.clearMin e) σ) := execClearMin_keeps e σ
theorem exec_keeps_pantryRead (t : TinIx) (p : PantryIx) (portB : Bool) (err : MemErr) (σ : State) : OutKeeps (footprint (.pantryRead t p portB err)) σ (exec (.pantryRead t p portB err) σ) := execPantryRead_keeps t p portB err σ
theorem exec_keeps_pantryWrite (t : TinIx) (p : PantryIx) (portB : Bool) (err : MemErr) (σ : State) : OutKeeps (footprint (.pantryWrite t p portB err)) σ (exec (.pantryWrite t p portB err) σ) := execPantryWrite_keeps t p portB err σ
theorem exec_keeps_pantrySwap (t : TinIx) (p : PantryIx) (portB : Bool) (err : MemErr) (σ : State) : OutKeeps (footprint (.pantrySwap t p portB err)) σ (exec (.pantrySwap t p portB err) σ) := execPantrySwap_keeps t p portB err σ
theorem exec_keeps_pantryRowSpared (t : TinIx) (p : PantryIx) (row : Fin 1024) (σ : State) : OutKeeps (footprint (.pantryRowSpared t p row)) σ (exec (.pantryRowSpared t p row) σ) := execPantryRowSpared_keeps t p row σ
theorem exec_keeps_pantryScrub (t : TinIx) (p : PantryIx) (err : MemErr) (σ : State) : OutKeeps (footprint (.pantryScrub t p err)) σ (exec (.pantryScrub t p err) σ) := execPantryScrub_keeps t p err σ
theorem exec_keeps_fifoWrite (t : TinIx) (p : PantryIx) (upset : Bool) (σ : State) : OutKeeps (footprint (.fifoWrite t p upset)) σ (exec (.fifoWrite t p upset) σ) := execFifoWrite_keeps t p upset σ
theorem exec_keeps_fifoRead (t : TinIx) (p : PantryIx) (upset : Bool) (err : MemErr) (σ : State) : OutKeeps (footprint (.fifoRead t p upset err)) σ (exec (.fifoRead t p upset err) σ) := execFifoRead_keeps t p upset err σ
theorem exec_keeps_fifoEventConsume (t : TinIx) (p : PantryIx) (σ : State) : OutKeeps (footprint (.fifoEventConsume t p)) σ (exec (.fifoEventConsume t p) σ) := execFifoEventConsume_keeps t p σ
theorem exec_keeps_stale (t : TinIx) (p : PantryIx) (σ : State) : OutKeeps (footprint (.stale t p)) σ (exec (.stale t p) σ) := execStale_keeps t p σ
theorem exec_keeps_larderRead (addr : Nat) (bytes : Nat) (dom : Dom) (err : MemErr) (σ : State) : OutKeeps (footprint (.larderRead addr bytes dom err)) σ (exec (.larderRead addr bytes dom err) σ) := execLarderRead_keeps addr bytes dom err σ
theorem exec_keeps_larderWrite (addr : Nat) (data : List Byte) (dom : Dom) (posted : Bool) (poison : Bool) (err : MemErr) (σ : State) : OutKeeps (footprint (.larderWrite addr data dom posted poison err)) σ (exec (.larderWrite addr data dom posted poison err) σ) := execLarderWrite_keeps addr data dom posted poison err σ
theorem exec_keeps_larderScrub (bank : Fin 16) (err : MemErr) (σ : State) : OutKeeps (footprint (.larderScrub bank err)) σ (exec (.larderScrub bank err) σ) := execLarderScrub_keeps bank err σ
theorem exec_keeps_larderCheckerTest (bank : Fin 16) (activeOk : Bool) (standbyOk : Bool) (disagree : Bool) (σ : State) : OutKeeps (footprint (.larderCheckerTest bank activeOk standbyOk disagree)) σ (exec (.larderCheckerTest bank activeOk standbyOk disagree) σ) := execLarderCheckerTest_keeps bank activeOk standbyOk disagree σ
theorem exec_keeps_poolPush (list : Nat) (entry : Nat) (upset : Bool) (ownerErr : Bool) (σ : State) : OutKeeps (footprint (.poolPush list entry upset ownerErr)) σ (exec (.poolPush list entry upset ownerErr) σ) := execPoolPush_keeps list entry upset ownerErr σ
theorem exec_keeps_poolPop (list : Nat) (upset : Bool) (nextErr : Bool) (ownerErr : Bool) (σ : State) : OutKeeps (footprint (.poolPop list upset nextErr ownerErr)) σ (exec (.poolPop list upset nextErr ownerErr) σ) := execPoolPop_keeps list upset nextErr ownerErr σ
theorem exec_keeps_poolSweep  (σ : State) : OutKeeps (footprint (.poolSweep)) σ (exec (.poolSweep) σ) := execPoolSweep_keeps σ
theorem exec_keeps_selfTestAndFill (die : Option DieIx) (badTins : List (Fin 13)) (badBanks : List (Fin 16)) (poolOk : Fin 3) (σ : State) : OutKeeps (footprint (.selfTestAndFill die badTins badBanks poolOk)) σ (exec (.selfTestAndFill die badTins badBanks poolOk) σ) := execSelfTestAndFill_keeps die badTins badBanks poolOk σ
theorem exec_keeps_memCorrected (inst : Nat) (σ : State) : OutKeeps (footprint (.memCorrected inst)) σ (exec (.memCorrected inst) σ) := execMemCorrected_keeps inst σ
theorem exec_keeps_mixerOperation (t : TinIx) (q : MixerIx) (parity : Nat) (σ : State) : OutKeeps (footprint (.mixerOperation t q parity)) σ (exec (.mixerOperation t q parity) σ) := execMixerOperation_keeps t q parity σ
theorem exec_keeps_mixerSearch (t : TinIx) (q : MixerIx) (parity : Bool) (σ : State) : OutKeeps (footprint (.mixerSearch t q parity)) σ (exec (.mixerSearch t q parity) σ) := execMixerSearch_keeps t q parity σ
theorem exec_keeps_clkRefLost (f : Fin 4) (σ : State) : OutKeeps (footprint (.clkRefLost f)) σ (exec (.clkRefLost f) σ) := execClkRefLost_keeps f σ
theorem exec_keeps_clkRefRestored (f : Fin 4) (σ : State) : OutKeeps (footprint (.clkRefRestored f)) σ (exec (.clkRefRestored f) σ) := execClkRefRestored_keeps f σ
theorem exec_keeps_clkSwitchover (lostLock : Bool) (σ : State) : OutKeeps (footprint (.clkSwitchover lostLock)) σ (exec (.clkSwitchover lostLock) σ) := execClkSwitchover_keeps lostLock σ
theorem exec_keeps_clkCtlSwitch  (σ : State) : OutKeeps (footprint (.clkCtlSwitch)) σ (exec (.clkCtlSwitch) σ) := execClkCtlSwitch_keeps σ
theorem exec_keeps_clkGenReady  (σ : State) : OutKeeps (footprint (.clkGenReady)) σ (exec (.clkGenReady) σ) := execClkGenReady_keeps σ
theorem exec_keeps_clkGenFault (lostLock : Bool) (σ : State) : OutKeeps (footprint (.clkGenFault lostLock)) σ (exec (.clkGenFault lostLock) σ) := execClkGenFault_keeps lostLock σ
theorem exec_keeps_clkOutputGate  (σ : State) : OutKeeps (footprint (.clkOutputGate)) σ (exec (.clkOutputGate) σ) := execClkOutputGate_keeps σ
theorem exec_keeps_clkPathSpared (d : DieIx) (σ : State) : OutKeeps (footprint (.clkPathSpared d)) σ (exec (.clkPathSpared d) σ) := execClkPathSpared_keeps d σ
theorem exec_keeps_controlCrossing (d : DieIx) (g : Fin 4) (n : Fin 64) (level : Bool) (σ : State) : OutKeeps (footprint (.controlCrossing d g n level)) σ (exec (.controlCrossing d g n level) σ) := execControlCrossing_keeps d g n level σ
theorem exec_keeps_eventCrossing (d : DieIx) (g : Fin 4) (n : Fin 64) (clocked : Bool) (ack : Bool) (σ : State) : OutKeeps (footprint (.eventCrossing d g n clocked ack)) σ (exec (.eventCrossing d g n clocked ack) σ) := execEventCrossing_keeps d g n clocked ack σ
theorem exec_keeps_valuePublish (d : DieIx) (g : Fin 4) (n : Fin 64) (v : Nat) (σ : State) : OutKeeps (footprint (.valuePublish d g n v)) σ (exec (.valuePublish d g n v) σ) := execValuePublish_keeps d g n v σ
theorem exec_keeps_edgeUnstable (d : DieIx) (g : Fin 4) (n : Fin 64) (σ : State) : OutKeeps (footprint (.edgeUnstable d g n)) σ (exec (.edgeUnstable d g n) σ) := execEdgeUnstable_keeps d g n σ
theorem exec_keeps_edgeFifoWrite (d : DieIx) (g : Fin 4) (n : Fin 64) (clocked : Bool) (w : BitVec 64) (σ : State) : OutKeeps (footprint (.edgeFifoWrite d g n clocked w)) σ (exec (.edgeFifoWrite d g n clocked w) σ) := execEdgeFifoWrite_keeps d g n clocked w σ
theorem exec_keeps_edgeFifoRead (d : DieIx) (g : Fin 4) (n : Fin 64) (reader : Fin 3) (σ : State) : OutKeeps (footprint (.edgeFifoRead d g n reader)) σ (exec (.edgeFifoRead d g n reader) σ) := execEdgeFifoRead_keeps d g n reader σ
theorem exec_keeps_dieClkLost (d : DieIx) (fam : Fin 8) (ovr und evt : Fin 16) (σ : State) : OutKeeps (footprint (.dieClkLost d fam ovr und evt)) σ (exec (.dieClkLost d fam ovr und evt) σ) := execDieClkLost_keeps d fam ovr und evt σ
theorem exec_keeps_dieClkRestored (d : DieIx) (σ : State) : OutKeeps (footprint (.dieClkRestored d)) σ (exec (.dieClkRestored d) σ) := execDieClkRestored_keeps d σ
theorem exec_keeps_nocInject (id : Fin 4096) (p : Packet) (σ : State) : OutKeeps (footprint (.nocInject id p)) σ (exec (.nocInject id p) σ) := execNocInject_keeps id p σ
theorem exec_keeps_routerHop (f : Nat) (u : Nat) (err : MemErr) (σ : State) : OutKeeps (footprint (.routerHop f u err)) σ (exec (.routerHop f u err) σ) := execRouterHop_keeps f u err σ
theorem exec_keeps_read (f : Nat) (err : MemErr) (σ : State) : OutKeeps (footprint (.read f err)) σ (exec (.read f err) σ) := execRead_keeps f err σ
theorem exec_keeps_write (f : Nat) (err : MemErr) (σ : State) : OutKeeps (footprint (.write f err)) σ (exec (.write f err) σ) := execWrite_keeps f err σ
theorem exec_keeps_writePosted (f : Nat) (err : MemErr) (σ : State) : OutKeeps (footprint (.writePosted f err)) σ (exec (.writePosted f err) σ) := execWritePosted_keeps f err σ
theorem exec_keeps_atomicAdd (f : Nat) (err : MemErr) (σ : State) : OutKeeps (footprint (.atomicAdd f err)) σ (exec (.atomicAdd f err) σ) := execAtomicAdd_keeps f err σ
theorem exec_keeps_atomicSwap (f : Nat) (err : MemErr) (σ : State) : OutKeeps (footprint (.atomicSwap f err)) σ (exec (.atomicSwap f err) σ) := execAtomicSwap_keeps f err σ
theorem exec_keeps_atomicCas (f : Nat) (err : MemErr) (σ : State) : OutKeeps (footprint (.atomicCas f err)) σ (exec (.atomicCas f err) σ) := execAtomicCas_keeps f err σ
theorem exec_keeps_message (f : Nat) (σ : State) : OutKeeps (footprint (.message f)) σ (exec (.message f) σ) := execMessage_keeps f σ
theorem exec_keeps_response (f : Nat) (σ : State) : OutKeeps (footprint (.response f)) σ (exec (.response f) σ) := execResponse_keeps f σ
theorem exec_keeps_nocTimeout (i : Nat) (σ : State) : OutKeeps (footprint (.nocTimeout i)) σ (exec (.nocTimeout i) σ) := execNocTimeout_keeps i σ
theorem exec_keeps_quarantineEnd (i : Nat) (σ : State) : OutKeeps (footprint (.quarantineEnd i)) σ (exec (.quarantineEnd i) σ) := execQuarantineEnd_keeps i σ
theorem exec_keeps_benchWireSpared (d : DieIx) (k : Fin 4) (out : Bool) (z : Fin 32) (w : Fin 12) (σ : State) : OutKeeps (footprint (.benchWireSpared d k out z w)) σ (exec (.benchWireSpared d k out z w) σ) := execBenchWireSpared_keeps d k out z w σ
theorem exec_keeps_benchDozenSpared (d : DieIx) (k : Fin 4) (out : Bool) (z : Fin 32) (σ : State) : OutKeeps (footprint (.benchDozenSpared d k out z)) σ (exec (.benchDozenSpared d k out z) σ) := execBenchDozenSpared_keeps d k out z σ
theorem exec_keeps_benchLinkRetired (d : DieIx) (k : Fin 4) (σ : State) : OutKeeps (footprint (.benchLinkRetired d k)) σ (exec (.benchLinkRetired d k) σ) := execBenchLinkRetired_keeps d k σ
theorem exec_keeps_rerouteStep  (σ : State) : OutKeeps (footprint (.rerouteStep)) σ (exec (.rerouteStep) σ) := execRerouteStep_keeps σ
theorem exec_keeps_spineRouterSpared (i : Fin 12) (σ : State) : OutKeeps (footprint (.spineRouterSpared i)) σ (exec (.spineRouterSpared i) σ) := execSpineRouterSpared_keeps i σ
theorem exec_keeps_spineRouterRetired (i : SpineIx) (σ : State) : OutKeeps (footprint (.spineRouterRetired i)) σ (exec (.spineRouterRetired i) σ) := execSpineRouterRetired_keeps i σ
theorem exec_keeps_memoryRequest (c : ChIx) (err : MemErr) (tagOk : Bool) (σ : State) : OutKeeps (footprint (.memoryRequest c err tagOk)) σ (exec (.memoryRequest c err tagOk) σ) := execMemoryRequest_keeps c err tagOk σ
theorem exec_keeps_beatWarn  (σ : State) : OutKeeps (footprint (.beatWarn)) σ (exec (.beatWarn) σ) := execBeatWarn_keeps σ
theorem exec_keeps_beatStall (k : Nat) (σ : State) : OutKeeps (footprint (.beatStall k)) σ (exec (.beatStall k) σ) := execBeatStall_keeps k σ
theorem exec_keeps_beatEnd  (σ : State) : OutKeeps (footprint (.beatEnd)) σ (exec (.beatEnd) σ) := execBeatEnd_keeps σ
theorem exec_keeps_sliceBeatEnd (failed : List ChIx) (hot : List ChIx) (σ : State) : OutKeeps (footprint (.sliceBeatEnd failed hot)) σ (exec (.sliceBeatEnd failed hot) σ) := execSliceBeatEnd_keeps failed hot σ
theorem exec_keeps_dramRefreshHot  (σ : State) : OutKeeps (footprint (.dramRefreshHot)) σ (exec (.dramRefreshHot) σ) := execDramRefreshHot_keeps σ
theorem exec_keeps_dramRefreshNormal  (σ : State) : OutKeeps (footprint (.dramRefreshNormal)) σ (exec (.dramRefreshNormal) σ) := execDramRefreshNormal_keeps σ
theorem exec_keeps_patrolRead (c : ChIx) (err : MemErr) (σ : State) : OutKeeps (footprint (.patrolRead c err)) σ (exec (.patrolRead c err) σ) := execPatrolRead_keeps c err σ
theorem exec_keeps_channelTrained (c : ChIx) (ok : Bool) (σ : State) : OutKeeps (footprint (.channelTrained c ok)) σ (exec (.channelTrained c ok) σ) := execChannelTrained_keeps c ok σ
theorem exec_keeps_channelFilled (c : ChIx) (σ : State) : OutKeeps (footprint (.channelFilled c)) σ (exec (.channelFilled c) σ) := execChannelFilled_keeps c σ
theorem exec_keeps_selfRefreshExit (c : ChIx) (ok : Bool) (σ : State) : OutKeeps (footprint (.selfRefreshExit c ok)) σ (exec (.selfRefreshExit c ok) σ) := execSelfRefreshExit_keeps c ok σ
theorem exec_keeps_evacuationLineMove (err : MemErr) (σ : State) : OutKeeps (footprint (.evacuationLineMove err)) σ (exec (.evacuationLineMove err) σ) := execEvacuationLineMove_keeps err σ
theorem exec_keeps_dramEvacuated  (σ : State) : OutKeeps (footprint (.dramEvacuated)) σ (exec (.dramEvacuated) σ) := execDramEvacuated_keeps σ
theorem exec_keeps_counterRequest (c : ChIx) (l : Fin 4) (g : Fin 128) (x : Nat) (err : MemErr) (tagOk : Bool) (mirror : MemErr) (mirrorOk : Bool) (σ : State) : OutKeeps (footprint (.counterRequest c l g x err tagOk mirror mirrorOk)) σ (exec (.counterRequest c l g x err tagOk mirror mirrorOk) σ) := execCounterRequest_keeps c l g x err tagOk mirror mirrorOk σ
theorem exec_keeps_sealedReadProof (c : ChIx) (i : Nat) (tagOk : Bool) (σ : State) : OutKeeps (footprint (.sealedReadProof c i tagOk)) σ (exec (.sealedReadProof c i tagOk) σ) := execSealedReadProof_keeps c i tagOk σ
theorem exec_keeps_securityHalt (cause : Nat) (die : Nat) (chan : Nat) (level : Nat) (addr : Nat) (node : Nat) (σ : State) : OutKeeps (footprint (.securityHalt cause die chan level addr node)) σ (exec (.securityHalt cause die chan level addr node) σ) := execSecurityHalt_keeps cause die chan level addr node σ
theorem exec_keeps_granuleRefillDone (g : Fin 128) (σ : State) : OutKeeps (footprint (.granuleRefillDone g)) σ (exec (.granuleRefillDone g) σ) := execGranuleRefillDone_keeps g σ
theorem exec_keeps_sealResealed (g : Fin 128) (σ : State) : OutKeeps (footprint (.sealResealed g)) σ (exec (.sealResealed g) σ) := execSealResealed_keeps g σ
theorem exec_keeps_flr (fn : Fin 66) (σ : State) : OutKeeps (footprint (.flr fn)) σ (exec (.flr fn) σ) := execFlr_keeps fn σ
theorem exec_keeps_perstN  (σ : State) : OutKeeps (footprint (.perstN)) σ (exec (.perstN) σ) := execPerstN_keeps σ
theorem exec_keeps_barRead (fn : Fin 2) (bar4 : Bool) (off n : Nat) (err : MemErr) (σ : State) : OutKeeps (footprint (.barRead fn bar4 off n err)) σ (exec (.barRead fn bar4 off n err) σ) := execBarRead_keeps fn bar4 off n err σ
theorem exec_keeps_barWrite (fn : Fin 2) (bar4 : Bool) (off : Nat) (data : List Byte) (ep : Bool) (err : MemErr) (σ : State) : OutKeeps (footprint (.barWrite fn bar4 off data ep err)) σ (exec (.barWrite fn bar4 off data ep err) σ) := execBarWrite_keeps fn bar4 off data ep err σ
theorem exec_keeps_barTimeout (i : Nat) (σ : State) : OutKeeps (footprint (.barTimeout i)) σ (exec (.barTimeout i) σ) := execBarTimeout_keeps i σ
theorem exec_keeps_sqDoorbell (fn : Fin 66) (page : QueueIx) (v : Word) (σ : State) : OutKeeps (footprint (.sqDoorbell fn page v)) σ (exec (.sqDoorbell fn page v) σ) := execSqDoorbell_keeps fn page v σ
theorem exec_keeps_cqDoorbell (fn : Fin 66) (page : QueueIx) (v : Word) (σ : State) : OutKeeps (footprint (.cqDoorbell fn page v)) σ (exec (.cqDoorbell fn page v) σ) := execCqDoorbell_keeps fn page v σ
theorem exec_keeps_descriptorFetch (q : QueueIx) (d : Option Desc) (σ : State) : OutKeeps (footprint (.descriptorFetch q d)) σ (exec (.descriptorFetch q d) σ) := execDescriptorFetch_keeps q d σ
theorem exec_keeps_copyToDevice (q : QueueIx) (k : Nat) (host : HostRead) (err : MemErr) (σ : State) : OutKeeps (footprint (.copyToDevice q k host err)) σ (exec (.copyToDevice q k host err) σ) := execCopyToDevice_keeps q k host err σ
theorem exec_keeps_copyFromDevice (q : QueueIx) (k : Nat) (err : MemErr) (σ : State) : OutKeeps (footprint (.copyFromDevice q k err)) σ (exec (.copyFromDevice q k err) σ) := execCopyFromDevice_keeps q k err σ
theorem exec_keeps_copyDevice (q : QueueIx) (k : Nat) (err : MemErr) (σ : State) : OutKeeps (footprint (.copyDevice q k err)) σ (exec (.copyDevice q k err) σ) := execCopyDevice_keeps q k err σ
theorem exec_keeps_copyComplete (q : QueueIx) (k : Nat) (ok : Bool) (σ : State) : OutKeeps (footprint (.copyComplete q k ok)) σ (exec (.copyComplete q k ok) σ) := execCopyComplete_keeps q k ok σ
theorem exec_keeps_streamSend (q : QueueIx) (host : HostRead) (σ : State) : OutKeeps (footprint (.streamSend q host)) σ (exec (.streamSend q host) σ) := execStreamSend_keeps q host σ
theorem exec_keeps_streamSendTimeout (q : QueueIx) (σ : State) : OutKeeps (footprint (.streamSendTimeout q)) σ (exec (.streamSendTimeout q) σ) := execStreamSendTimeout_keeps q σ
theorem exec_keeps_streamBuffer (q : QueueIx) (σ : State) : OutKeeps (footprint (.streamBuffer q)) σ (exec (.streamBuffer q) σ) := execStreamBuffer_keeps q σ
theorem exec_keeps_streamRecord (q : QueueIx) (σ : State) : OutKeeps (footprint (.streamRecord q)) σ (exec (.streamRecord q) σ) := execStreamRecord_keeps q σ
theorem exec_keeps_streamBufferFlush (q : QueueIx) (σ : State) : OutKeeps (footprint (.streamBufferFlush q)) σ (exec (.streamBufferFlush q) σ) := execStreamBufferFlush_keeps q σ
theorem exec_keeps_queueCreate (q : QueueIx) (σ : State) : OutKeeps (footprint (.queueCreate q)) σ (exec (.queueCreate q) σ) := execQueueCreate_keeps q σ
theorem exec_keeps_queueDelete (q : QueueIx) (cids : List (Fin 65536)) (σ : State) : OutKeeps (footprint (.queueDelete q cids)) σ (exec (.queueDelete q cids) σ) := execQueueDelete_keeps q cids σ
theorem exec_keeps_queuePause (q : QueueIx) (σ : State) : OutKeeps (footprint (.queuePause q)) σ (exec (.queuePause q) σ) := execQueuePause_keeps q σ
theorem exec_keeps_queueResume (q : QueueIx) (σ : State) : OutKeeps (footprint (.queueResume q)) σ (exec (.queueResume q) σ) := execQueueResume_keeps q σ
theorem exec_keeps_queueReset (q : QueueIx) (σ : State) : OutKeeps (footprint (.queueReset q)) σ (exec (.queueReset q) σ) := execQueueReset_keeps q σ
theorem exec_keeps_queueAssign (q : QueueIx) (σ : State) : OutKeeps (footprint (.queueAssign q)) σ (exec (.queueAssign q) σ) := execQueueAssign_keeps q σ
theorem exec_keeps_queueQuery (q : QueueIx) (σ : State) : OutKeeps (footprint (.queueQuery q)) σ (exec (.queueQuery q) σ) := execQueueQuery_keeps q σ
theorem exec_keeps_interruptCoalesce (q : QueueIx) (σ : State) : OutKeeps (footprint (.interruptCoalesce q)) σ (exec (.interruptCoalesce q) σ) := execInterruptCoalesce_keeps q σ
theorem exec_keeps_cqStale (q : QueueIx) (σ : State) : OutKeeps (footprint (.cqStale q)) σ (exec (.cqStale q) σ) := execCqStale_keeps q σ
theorem exec_keeps_eventRingMove (pf : Fin 2) (σ : State) : OutKeeps (footprint (.eventRingMove pf)) σ (exec (.eventRingMove pf) σ) := execEventRingMove_keeps pf σ
theorem exec_keeps_hqeQctlWrite (v : Word) (cids : List (Fin 65536)) (σ : State) : OutKeeps (footprint (.hqeQctlWrite v cids)) σ (exec (.hqeQctlWrite v cids) σ) := execHqeQctlWrite_keeps v cids σ
theorem exec_keeps_loadImage (q : QueueIx) (host : HostRead) (σ : State) : OutKeeps (footprint (.loadImage q host)) σ (exec (.loadImage q host) σ) := execLoadImage_keeps q host σ
theorem exec_keeps_relocateTin (q : QueueIx) (σ : State) : OutKeeps (footprint (.relocateTin q)) σ (exec (.relocateTin q) σ) := execRelocateTin_keeps q σ
theorem exec_keeps_swapAt (q : QueueIx) (σ : State) : OutKeeps (footprint (.swapAt q)) σ (exec (.swapAt q) σ) := execSwapAt_keeps q σ
theorem exec_keeps_swapCancel (q : QueueIx) (σ : State) : OutKeeps (footprint (.swapCancel q)) σ (exec (.swapCancel q) σ) := execSwapCancel_keeps q σ
theorem exec_keeps_sparePolicy (q : QueueIx) (σ : State) : OutKeeps (footprint (.sparePolicy q)) σ (exec (.sparePolicy q) σ) := execSparePolicy_keeps q σ
theorem exec_keeps_retireTin (q : QueueIx) (σ : State) : OutKeeps (footprint (.retireTin q)) σ (exec (.retireTin q) σ) := execRetireTin_keeps q σ
theorem exec_keeps_retireChannel (q : QueueIx) (σ : State) : OutKeeps (footprint (.retireChannel q)) σ (exec (.retireChannel q) σ) := execRetireChannel_keeps q σ
theorem exec_keeps_retireBenchLink (q : QueueIx) (σ : State) : OutKeeps (footprint (.retireBenchLink q)) σ (exec (.retireBenchLink q) σ) := execRetireBenchLink_keeps q σ
theorem exec_keeps_retireCore (q : QueueIx) (ok4 : Bool) (σ : State) : OutKeeps (footprint (.retireCore q ok4)) σ (exec (.retireCore q ok4) σ) := execRetireCore_keeps q ok4 σ
theorem exec_keeps_retireSpineRouter (q : QueueIx) (σ : State) : OutKeeps (footprint (.retireSpineRouter q)) σ (exec (.retireSpineRouter q) σ) := execRetireSpineRouter_keeps q σ
theorem exec_keeps_granuleSet (q : QueueIx) (σ : State) : OutKeeps (footprint (.granuleSet q)) σ (exec (.granuleSet q) σ) := execGranuleSet_keeps q σ
theorem exec_keeps_storeSet (q : QueueIx) (σ : State) : OutKeeps (footprint (.storeSet q)) σ (exec (.storeSet q) σ) := execStoreSet_keeps q σ
theorem exec_keeps_resealRange (q : QueueIx) (σ : State) : OutKeeps (footprint (.resealRange q)) σ (exec (.resealRange q) σ) := execResealRange_keeps q σ
theorem exec_keeps_powerState (q : QueueIx) (σ : State) : OutKeeps (footprint (.powerState q)) σ (exec (.powerState q) σ) := execPowerState_keeps q σ
theorem exec_keeps_tinReset (q : QueueIx) (σ : State) : OutKeeps (footprint (.tinReset q)) σ (exec (.tinReset q) σ) := execTinReset_keeps q σ
theorem exec_keeps_dieReset (q : QueueIx) (σ : State) : OutKeeps (footprint (.dieReset q)) σ (exec (.dieReset q) σ) := execDieReset_keeps q σ
theorem exec_keeps_hubWarmReset (q : QueueIx) (ok : Fin 16) (ok4 : Bool) (σ : State) : OutKeeps (footprint (.hubWarmReset q ok ok4)) σ (exec (.hubWarmReset q ok ok4) σ) := execHubWarmReset_keeps q ok ok4 σ
theorem exec_keeps_coreReset (q : QueueIx) (ok ok4 : Bool) (σ : State) : OutKeeps (footprint (.coreReset q ok ok4)) σ (exec (.coreReset q ok ok4) σ) := execCoreReset_keeps q ok ok4 σ
theorem exec_keeps_laneSignalDetect (l : LaneIx) (locked : Bool) (σ : State) : OutKeeps (footprint (.laneSignalDetect l locked)) σ (exec (.laneSignalDetect l locked) σ) := execLaneSignalDetect_keeps l locked σ
theorem exec_keeps_linkTrainingRequest (l : LaneIx) (tap : Fin 3) (inc : Bool) (σ : State) : OutKeeps (footprint (.linkTrainingRequest l tap inc)) σ (exec (.linkTrainingRequest l tap inc) σ) := execLinkTrainingRequest_keeps l tap inc σ
theorem exec_keeps_laneUp (l : LaneIx) (eye : Nat) (ctle : Nat) (σ : State) : OutKeeps (footprint (.laneUp l eye ctle)) σ (exec (.laneUp l eye ctle) σ) := execLaneUp_keeps l eye ctle σ
theorem exec_keeps_laneAttemptTimeout (l : LaneIx) (σ : State) : OutKeeps (footprint (.laneAttemptTimeout l)) σ (exec (.laneAttemptTimeout l) σ) := execLaneAttemptTimeout_keeps l σ
theorem exec_keeps_laneSelfTestDone (l : LaneIx) (pass : Bool) (σ : State) : OutKeeps (footprint (.laneSelfTestDone l pass)) σ (exec (.laneSelfTestDone l pass) σ) := execLaneSelfTestDone_keeps l pass σ
theorem exec_keeps_laneRetry (l : LaneIx) (σ : State) : OutKeeps (footprint (.laneRetry l)) σ (exec (.laneRetry l) σ) := execLaneRetry_keeps l σ
theorem exec_keeps_eyeMeasurement (l : LaneIx) (eye : Nat) (dir : Fin 3) (σ : State) : OutKeeps (footprint (.eyeMeasurement l eye dir)) σ (exec (.eyeMeasurement l eye dir) σ) := execEyeMeasurement_keeps l eye dir σ
theorem exec_keeps_laneSignalLost (l : LaneIx) (σ : State) : OutKeeps (footprint (.laneSignalLost l)) σ (exec (.laneSignalLost l) σ) := execLaneSignalLost_keeps l σ
theorem exec_keeps_laneRelockTimeout (l : LaneIx) (σ : State) : OutKeeps (footprint (.laneRelockTimeout l)) σ (exec (.laneRelockTimeout l) σ) := execLaneRelockTimeout_keeps l σ
theorem exec_keeps_laneStateReached (l : LaneIx) (pass : Bool) (σ : State) : OutKeeps (footprint (.laneStateReached l pass)) σ (exec (.laneStateReached l pass) σ) := execLaneStateReached_keeps l pass σ
theorem exec_keeps_laneReqState (l : LaneIx) (v : Fin 5) (σ : State) : OutKeeps (footprint (.laneReqState l v)) σ (exec (.laneReqState l v) σ) := execLaneReqState_keeps l v σ
theorem exec_keeps_laneRateWrite (l : LaneIx) (r : Fin 16) (σ : State) : OutKeeps (footprint (.laneRateWrite l r)) σ (exec (.laneRateWrite l r) σ) := execLaneRateWrite_keeps l r σ
theorem exec_keeps_laneRetrain (l : LaneIx) (pass : Bool) (σ : State) : OutKeeps (footprint (.laneRetrain l pass)) σ (exec (.laneRetrain l pass) σ) := execLaneRetrain_keeps l pass σ
theorem exec_keeps_injOnce (l : LaneIx) (σ : State) : OutKeeps (footprint (.injOnce l)) σ (exec (.injOnce l) σ) := execInjOnce_keeps l σ
theorem exec_keeps_injRate (l : LaneIx) (k : Fin 64) (σ : State) : OutKeeps (footprint (.injRate l k)) σ (exec (.injRate l k) σ) := execInjRate_keeps l k σ
theorem exec_keeps_chkClear (l : LaneIx) (σ : State) : OutKeeps (footprint (.chkClear l)) σ (exec (.chkClear l) σ) := execChkClear_keeps l σ
theorem exec_keeps_loopbackChange (l : LaneIx) (v : Fin 3) (σ : State) : OutKeeps (footprint (.loopbackChange l v)) σ (exec (.loopbackChange l v) σ) := execLoopbackChange_keeps l v σ
theorem exec_keeps_ppsInEdge (fall : Bool) (σ : State) : OutKeeps (footprint (.ppsInEdge fall)) σ (exec (.ppsInEdge fall) σ) := execPpsInEdge_keeps fall σ
theorem exec_keeps_timeHoldover  (σ : State) : OutKeeps (footprint (.timeHoldover)) σ (exec (.timeHoldover) σ) := execTimeHoldover_keeps σ
theorem exec_keeps_timeStep (dom : Dom) (src : Fin 4096) (σ : State) : OutKeeps (footprint (.timeStep dom src)) σ (exec (.timeStep dom src) σ) := execTimeStep_keeps dom src σ
theorem exec_keeps_timeAdjWrite (v : Word) (σ : State) : OutKeeps (footprint (.timeAdjWrite v)) σ (exec (.timeAdjWrite v) σ) := execTimeAdjWrite_keeps v σ
theorem exec_keeps_ppsOut  (σ : State) : OutKeeps (footprint (.ppsOut)) σ (exec (.ppsOut) σ) := execPpsOut_keeps σ
theorem exec_keeps_dieTimeAlign (d : DieIx) (σ : State) : OutKeeps (footprint (.dieTimeAlign d)) σ (exec (.dieTimeAlign d) σ) := execDieTimeAlign_keeps d σ
theorem exec_keeps_frameReceive (d : DieIx) (p : Fin 12) (f : List Byte) (bufErr : Bool) (corr uncorr : Nat) (σ : State) : OutKeeps (footprint (.frameReceive d p f bufErr corr uncorr)) σ (exec (.frameReceive d p f bufErr corr uncorr) σ) := execFrameReceive_keeps d p f bufErr corr uncorr σ
theorem exec_keeps_transmitRecord (d : DieIx) (src : Fin 20) (σ : State) : OutKeeps (footprint (.transmitRecord d src)) σ (exec (.transmitRecord d src) σ) := execTransmitRecord_keeps d src σ
theorem exec_keeps_frameTransmit (d : DieIx) (p : Fin 12) (underrun : Bool) (σ : State) : OutKeeps (footprint (.frameTransmit d p underrun)) σ (exec (.frameTransmit d p underrun) σ) := execFrameTransmit_keeps d p underrun σ
theorem exec_keeps_sdiLocked (d : DieIx) (m : Fin 4) (σ : State) : OutKeeps (footprint (.sdiLocked d m)) σ (exec (.sdiLocked d m) σ) := execSdiLocked_keeps d m σ
theorem exec_keeps_sdiUnlocked (d : DieIx) (m : Fin 4) (σ : State) : OutKeeps (footprint (.sdiUnlocked d m)) σ (exec (.sdiUnlocked d m) σ) := execSdiUnlocked_keeps d m σ
theorem exec_keeps_sdiLine (d : DieIx) (m : Fin 4) (tx : Bool) (ws : List (List (BitVec 10))) (crcAt bad : Nat) (σ : State) : OutKeeps (footprint (.sdiLine d m tx ws crcAt bad)) σ (exec (.sdiLine d m tx ws crcAt bad) σ) := execSdiLine_keeps d m tx ws crcAt bad σ
theorem exec_keeps_st352Change (d : DieIx) (m : Fin 4) (v : Word) (σ : State) : OutKeeps (footprint (.st352Change d m v)) σ (exec (.st352Change d m v) σ) := execSt352Change_keeps d m v σ
theorem exec_keeps_recordPresentation (d : DieIx) (k : Fin 8) (σ : State) : OutKeeps (footprint (.recordPresentation d k)) σ (exec (.recordPresentation d k) σ) := execRecordPresentation_keeps d k σ
theorem exec_keeps_recordAccept (d : DieIx) (k : Fin 8) (σ : State) : OutKeeps (footprint (.recordAccept d k)) σ (exec (.recordAccept d k) σ) := execRecordAccept_keeps d k σ
theorem exec_keeps_packetLaunch (d : DieIx) (p : Fin 12) (σ : State) : OutKeeps (footprint (.packetLaunch d p)) σ (exec (.packetLaunch d p) σ) := execPacketLaunch_keeps d p σ
theorem exec_keeps_statisticsWrite (d : DieIx) (p : Fin 12) (σ : State) : OutKeeps (footprint (.statisticsWrite d p)) σ (exec (.statisticsWrite d p) σ) := execStatisticsWrite_keeps d p σ
theorem exec_keeps_macCqHead (d : DieIx) (k : Fin 13) (head : Fin 64) (σ : State) : OutKeeps (footprint (.macCqHead d k head)) σ (exec (.macCqHead d k head) σ) := execMacCqHead_keeps d k head σ
theorem exec_keeps_macCqReset (d : DieIx) (k : Fin 13) (σ : State) : OutKeeps (footprint (.macCqReset d k)) σ (exec (.macCqReset d k) σ) := execMacCqReset_keeps d k σ
theorem exec_keeps_push (par : Bool) (bytes : List Byte) (σ : State) : OutKeeps (footprint (.push par bytes)) σ (exec (.push par bytes) σ) := execPush_keeps par bytes σ
theorem exec_keeps_stat  (σ : State) : OutKeeps (footprint (.stat)) σ (exec (.stat) σ) := execStat_keeps σ
theorem exec_keeps_headerAuthenticated (key : Option (Fin 4)) (sigOk : Bool) (σ : State) : OutKeeps (footprint (.headerAuthenticated key sigOk)) σ (exec (.headerAuthenticated key sigOk) σ) := execHeaderAuthenticated_keeps key sigOk σ
theorem exec_keeps_imageSegment (plain : List Byte) (σ : State) : OutKeeps (footprint (.imageSegment plain)) σ (exec (.imageSegment plain) σ) := execImageSegment_keeps plain σ
theorem exec_keeps_endMarker (hashOk tagOk : Bool) (σ : State) : OutKeeps (footprint (.endMarker hashOk tagOk)) σ (exec (.endMarker hashOk tagOk) σ) := execEndMarker_keeps hashOk tagOk σ
theorem exec_keeps_fullImageCommit  (σ : State) : OutKeeps (footprint (.fullImageCommit)) σ (exec (.fullImageCommit) σ) := execFullImageCommit_keeps σ
theorem exec_keeps_partialImageCommit  (σ : State) : OutKeeps (footprint (.partialImageCommit)) σ (exec (.partialImageCommit) σ) := execPartialImageCommit_keeps σ
theorem exec_keeps_earlyEnd  (σ : State) : OutKeeps (footprint (.earlyEnd)) σ (exec (.earlyEnd) σ) := execEarlyEnd_keeps σ
theorem exec_keeps_cfgIdleTimeout  (σ : State) : OutKeeps (footprint (.cfgIdleTimeout)) σ (exec (.cfgIdleTimeout) σ) := execCfgIdleTimeout_keeps σ
theorem exec_keeps_fabricWipeDone  (σ : State) : OutKeeps (footprint (.fabricWipeDone)) σ (exec (.fabricWipeDone) σ) := execFabricWipeDone_keeps σ
theorem exec_keeps_fallbackTimeout  (σ : State) : OutKeeps (footprint (.fallbackTimeout)) σ (exec (.fallbackTimeout) σ) := execFallbackTimeout_keeps σ
theorem exec_keeps_autoRelocationStart (d : DieIx) (σ : State) : OutKeeps (footprint (.autoRelocationStart d)) σ (exec (.autoRelocationStart d) σ) := execAutoRelocationStart_keeps d σ
theorem exec_keeps_targetLoaded (d : DieIx) (r : Fin 12) (ok : Bool) (σ : State) : OutKeeps (footprint (.targetLoaded d r ok)) σ (exec (.targetLoaded d r ok) σ) := execTargetLoaded_keeps d r ok σ
theorem exec_keeps_relocationFreeze (d : DieIx) (r : Fin 12) (σ : State) : OutKeeps (footprint (.relocationFreeze d r)) σ (exec (.relocationFreeze d r) σ) := execRelocationFreeze_keeps d r σ
theorem exec_keeps_sourceQuiescent (d : DieIx) (r : Fin 12) (σ : State) : OutKeeps (footprint (.sourceQuiescent d r)) σ (exec (.sourceQuiescent d r) σ) := execSourceQuiescent_keeps d r σ
theorem exec_keeps_stateTransferDone (d : DieIx) (r : Fin 12) (ok : Bool) (σ : State) : OutKeeps (footprint (.stateTransferDone d r ok)) σ (exec (.stateTransferDone d r ok) σ) := execStateTransferDone_keeps d r ok σ
theorem exec_keeps_tinRelocated (d : DieIx) (r : Fin 12) (σ : State) : OutKeeps (footprint (.tinRelocated d r)) σ (exec (.tinRelocated d r) σ) := execTinRelocated_keeps d r σ
theorem exec_keeps_quiescenceTimeout (d : DieIx) (r : Fin 12) (σ : State) : OutKeeps (footprint (.quiescenceTimeout d r)) σ (exec (.quiescenceTimeout d r) σ) := execQuiescenceTimeout_keeps d r σ
theorem exec_keeps_relocationRetry (d : DieIx) (r : Fin 12) (σ : State) : OutKeeps (footprint (.relocationRetry d r)) σ (exec (.relocationRetry d r) σ) := execRelocationRetry_keeps d r σ
theorem exec_keeps_swapTime (d : DieIx) (r : Fin 12) (σ : State) : OutKeeps (footprint (.swapTime d r)) σ (exec (.swapTime d r) σ) := execSwapTime_keeps d r σ
theorem exec_keeps_tinSwapped (d : DieIx) (r : Fin 12) (σ : State) : OutKeeps (footprint (.tinSwapped d r)) σ (exec (.tinSwapped d r) σ) := execTinSwapped_keeps d r σ
theorem exec_keeps_tinRestarted (d : DieIx) (r : Fin 12) (ok : Bool) (σ : State) : OutKeeps (footprint (.tinRestarted d r ok)) σ (exec (.tinRestarted d r ok) σ) := execTinRestarted_keeps d r ok σ
theorem exec_keeps_returnTestDone (t : TinIx) (pass : Bool) (σ : State) : OutKeeps (footprint (.returnTestDone t pass)) σ (exec (.returnTestDone t pass) σ) := execReturnTestDone_keeps t pass σ
theorem exec_keeps_kneaderFrameRead (t : TinIx) (f : Fin 40960) (err : MemErr) (σ : State) : OutKeeps (footprint (.kneaderFrameRead t f err)) σ (exec (.kneaderFrameRead t f err) σ) := execKneaderFrameRead_keeps t f err σ
theorem exec_keeps_hotFrameInterval (t : TinIx) (σ : State) : OutKeeps (footprint (.hotFrameInterval t)) σ (exec (.hotFrameInterval t) σ) := execHotFrameInterval_keeps t σ
theorem exec_keeps_kneaderHeartbeat (d : DieIx) (beatA beatB sigOk okA okB : Bool) (σ : State) : OutKeeps (footprint (.kneaderHeartbeat d beatA beatB sigOk okA okB)) σ (exec (.kneaderHeartbeat d beatA beatB sigOk okA okB) σ) := execKneaderHeartbeat_keeps d beatA beatB sigOk okA okB σ
theorem exec_keeps_watchdogKick (h : HartIx) (key : Word) (σ : State) : OutKeeps (footprint (.watchdogKick h key)) σ (exec (.watchdogKick h key) σ) := execWatchdogKick_keeps h key σ
theorem exec_keeps_watchdogPreBite (h : HartIx) (σ : State) : OutKeeps (footprint (.watchdogPreBite h)) σ (exec (.watchdogPreBite h) σ) := execWatchdogPreBite_keeps h σ
theorem exec_keeps_wdgBite (h : HartIx) (ok ok4 : Bool) (σ : State) : OutKeeps (footprint (.wdgBite h ok ok4)) σ (exec (.wdgBite h ok ok4) σ) := execWdgBite_keeps h ok ok4 σ
theorem exec_keeps_bootStart (offset : Fin 32768) (σ : State) : OutKeeps (footprint (.bootStart offset)) σ (exec (.bootStart offset) σ) := execBootStart_keeps offset σ
theorem exec_keeps_firmwareVerified (key : Option (Fin 4)) (sigOk hashOk : Bool) (σ : State) : OutKeeps (footprint (.firmwareVerified key sigOk hashOk)) σ (exec (.firmwareVerified key sigOk hashOk) σ) := execFirmwareVerified_keeps key sigOk hashOk σ
theorem exec_keeps_getRandom  (σ : State) : OutKeeps (footprint (.getRandom)) σ (exec (.getRandom) σ) := execGetRandom_keeps σ
theorem exec_keeps_hashRange  (σ : State) : OutKeeps (footprint (.hashRange)) σ (exec (.hashRange) σ) := execHashRange_keeps σ
theorem exec_keeps_verifyBlob (key : Option (Fin 4)) (sigOk hashOk : Bool) (σ : State) : OutKeeps (footprint (.verifyBlob key sigOk hashOk)) σ (exec (.verifyBlob key sigOk hashOk) σ) := execVerifyBlob_keeps key sigOk hashOk σ
theorem exec_keeps_deviceInfo  (σ : State) : OutKeeps (footprint (.deviceInfo)) σ (exec (.deviceInfo) σ) := execDeviceInfo_keeps σ
theorem exec_keeps_lifecycleAdvance (key : Option (Fin 4)) (sigOk : Bool) (σ : State) : OutKeeps (footprint (.lifecycleAdvance key sigOk)) σ (exec (.lifecycleAdvance key sigOk) σ) := execLifecycleAdvance_keeps key sigOk σ
theorem exec_keeps_keyProgram (key : Option (Fin 4)) (sigOk : Bool) (σ : State) : OutKeeps (footprint (.keyProgram key sigOk)) σ (exec (.keyProgram key sigOk) σ) := execKeyProgram_keeps key sigOk σ
theorem exec_keeps_keyRevoke (key : Option (Fin 4)) (sigOk : Bool) (σ : State) : OutKeeps (footprint (.keyRevoke key sigOk)) σ (exec (.keyRevoke key sigOk) σ) := execKeyRevoke_keeps key sigOk σ
theorem exec_keeps_forceHalt  (σ : State) : OutKeeps (footprint (.forceHalt)) σ (exec (.forceHalt) σ) := execForceHalt_keeps σ
theorem exec_keeps_mailboxComplete  (σ : State) : OutKeeps (footprint (.mailboxComplete)) σ (exec (.mailboxComplete) σ) := execMailboxComplete_keeps σ
theorem exec_keeps_secResponseRead  (σ : State) : OutKeeps (footprint (.secResponseRead)) σ (exec (.secResponseRead) σ) := execSecResponseRead_keeps σ
theorem exec_keeps_l2Clean  (σ : State) : OutKeeps (footprint (.l2Clean)) σ (exec (.l2Clean) σ) := execL2Clean_keeps σ
theorem exec_keeps_l2Invalidate  (σ : State) : OutKeeps (footprint (.l2Invalidate)) σ (exec (.l2Invalidate) σ) := execL2Invalidate_keeps σ
theorem exec_keeps_l2CleanInvalidate  (σ : State) : OutKeeps (footprint (.l2CleanInvalidate)) σ (exec (.l2CleanInvalidate) σ) := execL2CleanInvalidate_keeps σ
theorem exec_keeps_l2CmoDone  (σ : State) : OutKeeps (footprint (.l2CmoDone)) σ (exec (.l2CmoDone) σ) := execL2CmoDone_keeps σ
theorem exec_keeps_loadReserved (h : HartIx) (a : Nat) (dbl : Bool) (victim : Nat) (err : MemErr) (σ : State) : OutKeeps (footprint (.loadReserved h a dbl victim err)) σ (exec (.loadReserved h a dbl victim err) σ) := execLoadReserved_keeps h a dbl victim err σ
theorem exec_keeps_storeConditional (h : HartIx) (a : Nat) (d : List Byte) (σ : State) : OutKeeps (footprint (.storeConditional h a d)) σ (exec (.storeConditional h a d) σ) := execStoreConditional_keeps h a d σ
theorem exec_keeps_amo (h : HartIx) (op : AmoOp) (a : Nat) (dbl : Bool) (v : BitVec 64) (victim : Nat) (err : MemErr) (σ : State) : OutKeeps (footprint (.amo h op a dbl v victim err)) σ (exec (.amo h op a dbl v victim err) σ) := execAmo_keeps h op a dbl v victim err σ
theorem exec_keeps_uncachedStore (h : HartIx) (a : Nat) (d : List Byte) (σ : State) : OutKeeps (footprint (.uncachedStore h a d)) σ (exec (.uncachedStore h a d) σ) := execUncachedStore_keeps h a d σ
theorem exec_keeps_mgcL2Uncorr (k : Nat) (σ : State) : OutKeeps (footprint (.mgcL2Uncorr k)) σ (exec (.mgcL2Uncorr k) σ) := execMgcL2Uncorr_keeps k σ
theorem exec_keeps_timerInterrupt (h : HartIx) (σ : State) : OutKeeps (footprint (.timerInterrupt h)) σ (exec (.timerInterrupt h) σ) := execTimerInterrupt_keeps h σ
theorem exec_keeps_clusterEventMove  (σ : State) : OutKeeps (footprint (.clusterEventMove)) σ (exec (.clusterEventMove) σ) := execClusterEventMove_keeps σ
theorem exec_keeps_pwrRailFault (d : DieIx) (lane : Bool) (σ : State) : OutKeeps (footprint (.pwrRailFault d lane)) σ (exec (.pwrRailFault d lane) σ) := execPwrRailFault_keeps d lane σ
theorem exec_keeps_hubRailFault  (σ : State) : OutKeeps (footprint (.hubRailFault)) σ (exec (.hubRailFault) σ) := execHubRailFault_keeps σ
theorem exec_keeps_refusersAnswered  (σ : State) : OutKeeps (footprint (.refusersAnswered)) σ (exec (.refusersAnswered) σ) := execRefusersAnswered_keeps σ
theorem exec_keeps_entryQuiescent  (σ : State) : OutKeeps (footprint (.entryQuiescent)) σ (exec (.entryQuiescent) σ) := execEntryQuiescent_keeps σ
theorem exec_keeps_entryAbort  (σ : State) : OutKeeps (footprint (.entryAbort)) σ (exec (.entryAbort) σ) := execEntryAbort_keeps σ
theorem exec_keeps_pointOfNoReturn  (σ : State) : OutKeeps (footprint (.pointOfNoReturn)) σ (exec (.pointOfNoReturn) σ) := execPointOfNoReturn_keeps σ
theorem exec_keeps_pwrStateEntered  (σ : State) : OutKeeps (footprint (.pwrStateEntered)) σ (exec (.pwrStateEntered) σ) := execPwrStateEntered_keeps σ
theorem exec_keeps_wakeNow  (σ : State) : OutKeeps (footprint (.wakeNow)) σ (exec (.wakeNow) σ) := execWakeNow_keeps σ
theorem exec_keeps_gpioWake  (σ : State) : OutKeeps (footprint (.gpioWake)) σ (exec (.gpioWake) σ) := execGpioWake_keeps σ
theorem exec_keeps_timerWake  (σ : State) : OutKeeps (footprint (.timerWake)) σ (exec (.timerWake) σ) := execTimerWake_keeps σ
theorem exec_keeps_wakeStep (late : Bool) (ok : Fin 16) (ok4 : Bool) (bad : List TinIx) (σ : State) : OutKeeps (footprint (.wakeStep late ok ok4 bad)) σ (exec (.wakeStep late ok ok4 bad) σ) := execWakeStep_keeps late ok ok4 bad σ
theorem exec_keeps_padRelease (d : DieIx) (σ : State) : OutKeeps (footprint (.padRelease d)) σ (exec (.padRelease d) σ) := execPadRelease_keeps d σ
theorem exec_keeps_thermTrip (k : Fin 136) (σ : State) : OutKeeps (footprint (.thermTrip k)) σ (exec (.thermTrip k) σ) := execThermTrip_keeps k σ
theorem exec_keeps_thermTripRelease  (σ : State) : OutKeeps (footprint (.thermTripRelease)) σ (exec (.thermTripRelease) σ) := execThermTripRelease_keeps σ
theorem exec_keeps_pwrOvercurrent  (σ : State) : OutKeeps (footprint (.pwrOvercurrent)) σ (exec (.pwrOvercurrent) σ) := execPwrOvercurrent_keeps σ
theorem exec_keeps_overcurrentRelease  (σ : State) : OutKeeps (footprint (.overcurrentRelease)) σ (exec (.overcurrentRelease) σ) := execOvercurrentRelease_keeps σ
theorem exec_keeps_powerOnReset (good : Bool) (straps : Fin 8) (σ : State) : OutKeeps (footprint (.powerOnReset good straps)) σ (exec (.powerOnReset good straps) σ) := execPowerOnReset_keeps good straps σ
theorem exec_keeps_resetN (straps : Fin 8) (σ : State) : OutKeeps (footprint (.resetN straps)) σ (exec (.resetN straps) σ) := execResetN_keeps straps σ
theorem exec_keeps_secBoot (b : BootSettings) (fuses : FuseRead) (selfOk trngOk : Bool) (σ : State) : OutKeeps (footprint (.secBoot b fuses selfOk trngOk)) σ (exec (.secBoot b fuses selfOk trngOk) σ) := execSecBoot_keeps b fuses selfOk trngOk σ
theorem exec_keeps_clockLock (absent : Fin 16) (σ : State) : OutKeeps (footprint (.clockLock absent)) σ (exec (.clockLock absent) σ) := execClockLock_keeps absent σ
theorem exec_keeps_cfgErrNRelease (badCores : Fin 32) (σ : State) : OutKeeps (footprint (.cfgErrNRelease badCores)) σ (exec (.cfgErrNRelease badCores) σ) := execCfgErrNRelease_keeps badCores σ
theorem exec_keeps_dieResetRelease (d : DieIx) (σ : State) : OutKeeps (footprint (.dieResetRelease d)) σ (exec (.dieResetRelease d) σ) := execDieResetRelease_keeps d σ
theorem exec_keeps_dieReturned (d : DieIx) (bad : List (Fin 13)) (σ : State) : OutKeeps (footprint (.dieReturned d bad)) σ (exec (.dieReturned d bad) σ) := execDieReturned_keeps d bad σ
theorem exec_keeps_diePowerLost (d : DieIx) (σ : State) : OutKeeps (footprint (.diePowerLost d)) σ (exec (.diePowerLost d) σ) := execDiePowerLost_keeps d σ
theorem exec_keeps_diePowerRetry (d : DieIx) (holds : Bool) (σ : State) : OutKeeps (footprint (.diePowerRetry d holds)) σ (exec (.diePowerRetry d holds) σ) := execDiePowerRetry_keeps d holds σ
theorem exec_keeps_trngHealthFail  (σ : State) : OutKeeps (footprint (.trngHealthFail)) σ (exec (.trngHealthFail) σ) := execTrngHealthFail_keeps σ
theorem exec_keeps_trngRetest (ok : Bool) (σ : State) : OutKeeps (footprint (.trngRetest ok)) σ (exec (.trngRetest ok) σ) := execTrngRetest_keeps ok σ
theorem exec_keeps_glitchDetect  (σ : State) : OutKeeps (footprint (.glitchDetect)) σ (exec (.glitchDetect) σ) := execGlitchDetect_keeps σ
theorem exec_keeps_challengeLockoutEnd  (σ : State) : OutKeeps (footprint (.challengeLockoutEnd)) σ (exec (.challengeLockoutEnd) σ) := execChallengeLockoutEnd_keeps σ
theorem exec_keeps_tapReset  (σ : State) : OutKeeps (footprint (.tapReset)) σ (exec (.tapReset) σ) := execTapReset_keeps σ
theorem exec_keeps_extest (cells : Nat) (σ : State) : OutKeeps (footprint (.extest cells)) σ (exec (.extest cells) σ) := execExtest_keeps cells σ
theorem exec_keeps_samplePreload (cells : Nat) (σ : State) : OutKeeps (footprint (.samplePreload cells)) σ (exec (.samplePreload cells) σ) := execSamplePreload_keeps cells σ
theorem exec_keeps_idcode  (σ : State) : OutKeeps (footprint (.idcode)) σ (exec (.idcode) σ) := execIdcode_keeps σ
theorem exec_keeps_clamp  (σ : State) : OutKeeps (footprint (.clamp)) σ (exec (.clamp) σ) := execClamp_keeps σ
theorem exec_keeps_highz  (σ : State) : OutKeeps (footprint (.highz)) σ (exec (.highz) σ) := execHighz_keeps σ
theorem exec_keeps_extestPulse (cells : Nat) (σ : State) : OutKeeps (footprint (.extestPulse cells)) σ (exec (.extestPulse cells) σ) := execExtestPulse_keeps cells σ
theorem exec_keeps_extestTrain (cells : Nat) (σ : State) : OutKeeps (footprint (.extestTrain cells)) σ (exec (.extestTrain cells) σ) := execExtestTrain_keeps cells σ
theorem exec_keeps_boundaryScanEnd  (σ : State) : OutKeeps (footprint (.boundaryScanEnd)) σ (exec (.boundaryScanEnd) σ) := execBoundaryScanEnd_keeps σ
theorem exec_keeps_bypass  (σ : State) : OutKeeps (footprint (.bypass)) σ (exec (.bypass) σ) := execBypass_keeps σ
theorem exec_keeps_haltCause  (σ : State) : OutKeeps (footprint (.haltCause)) σ (exec (.haltCause) σ) := execHaltCause_keeps σ
theorem exec_keeps_auth (resp : Option (List Byte)) (key : Option (Fin 4)) (sigOk : Bool) (σ : State) : OutKeeps (footprint (.auth resp key sigOk)) σ (exec (.auth resp key sigOk) σ) := execAuth_keeps resp key sigOk σ
theorem exec_keeps_dapRead (a : Fin 1099511627776) (consume inc : Bool) (err : MemErr) (σ : State) : OutKeeps (footprint (.dapRead a consume inc err)) σ (exec (.dapRead a consume inc err) σ) := execDapRead_keeps a consume inc err σ
theorem exec_keeps_dapWrite (a : Fin 1099511627776) (w : Word) (inc : Bool) (err : MemErr) (σ : State) : OutKeeps (footprint (.dapWrite a w inc err)) σ (exec (.dapWrite a w inc err) σ) := execDapWrite_keeps a w inc err σ
theorem exec_keeps_dtermUpdate (v : BitVec 34) (σ : State) : OutKeeps (footprint (.dtermUpdate v)) σ (exec (.dtermUpdate v) σ) := execDtermUpdate_keeps v σ
theorem exec_keeps_cfgLoad (bytes : List Byte) (σ : State) : OutKeeps (footprint (.cfgLoad bytes)) σ (exec (.cfgLoad bytes) σ) := execCfgLoad_keeps bytes σ
theorem exec_keeps_cfgReadback (sel : Option (Fin 128 × Fin 65536)) (σ : State) : OutKeeps (footprint (.cfgReadback sel)) σ (exec (.cfgReadback sel) σ) := execCfgReadback_keeps sel σ
theorem exec_keeps_dmHalt (h : HartIx) (σ : State) : OutKeeps (footprint (.dmHalt h)) σ (exec (.dmHalt h) σ) := execDmHalt_keeps h σ
theorem exec_keeps_dmResume (h : HartIx) (ok ok4 : Bool) (σ : State) : OutKeeps (footprint (.dmResume h ok ok4)) σ (exec (.dmResume h ok ok4) σ) := execDmResume_keeps h ok ok4 σ
theorem exec_keeps_accessRegister (h : HartIx) (regno : Fin 65536) (write dbl : Bool) (σ : State) : OutKeeps (footprint (.accessRegister h regno write dbl)) σ (exec (.accessRegister h regno write dbl) σ) := execAccessRegister_keeps h regno write dbl σ
theorem exec_keeps_xtChannelFire (c : Fin 8) (h : HartIx) (σ : State) : OutKeeps (footprint (.xtChannelFire c h)) σ (exec (.xtChannelFire c h) σ) := execXtChannelFire_keeps c h σ
theorem exec_keeps_stimulusWrite (n : Fin 256) (w : Word) (src : Fin 4096) (σ : State) : OutKeeps (footprint (.stimulusWrite n w src)) σ (exec (.stimulusWrite n w src) σ) := execStimulusWrite_keeps n w src σ
theorem exec_keeps_traceFrameSend  (σ : State) : OutKeeps (footprint (.traceFrameSend)) σ (exec (.traceFrameSend) σ) := execTraceFrameSend_keeps σ
theorem exec_keeps_dtxWrite (w : Word) (σ : State) : OutKeeps (footprint (.dtxWrite w)) σ (exec (.dtxWrite w) σ) := execDtxWrite_keeps w σ
theorem exec_keeps_drxConsume  (σ : State) : OutKeeps (footprint (.drxConsume)) σ (exec (.drxConsume) σ) := execDrxConsume_keeps σ
theorem exec_keeps_tinFreeze (d : DieIx) (r : Fin 12) (σ : State) : OutKeeps (footprint (.tinFreeze d r)) σ (exec (.tinFreeze d r) σ) := execTinFreeze_keeps d r σ
theorem exec_keeps_dbgTinFrozen (d : DieIx) (r : Fin 12) (σ : State) : OutKeeps (footprint (.dbgTinFrozen d r)) σ (exec (.dbgTinFrozen d r) σ) := execDbgTinFrozen_keeps d r σ
theorem exec_keeps_tinRelease (d : DieIx) (r : Fin 12) (σ : State) : OutKeeps (footprint (.tinRelease d r)) σ (exec (.tinRelease d r) σ) := execTinRelease_keeps d r σ
theorem exec_keeps_tokenStep (d : DieIx) (r : Fin 12) (port : Fin 512) (σ : State) : OutKeeps (footprint (.tokenStep d r port)) σ (exec (.tokenStep d r port) σ) := execTokenStep_keeps d r port σ
theorem exec_keeps_tinReadback (d : DieIx) (r : Fin 12) (σ : State) : OutKeeps (footprint (.tinReadback d r)) σ (exec (.tinReadback d r) σ) := execTinReadback_keeps d r σ
theorem exec_keeps_tinStateWrite (d : DieIx) (r : Fin 12) (σ : State) : OutKeeps (footprint (.tinStateWrite d r)) σ (exec (.tinStateWrite d r) σ) := execTinStateWrite_keeps d r σ
theorem exec_keeps_gpioOutWrite (d : DieIx) (value : Fin 16) (dom : Dom) (src : Fin 4096) (posted : Bool) (σ : State) : OutKeeps (footprint (.gpioOutWrite d value dom src posted)) σ (exec (.gpioOutWrite d value dom src posted) σ) := execGpioOutWrite_keeps d value dom src posted σ
theorem exec_keeps_padInputChange (p : Fin 32) (level : Bool) (σ : State) : OutKeeps (footprint (.padInputChange p level)) σ (exec (.padInputChange p level) σ) := execPadInputChange_keeps p level σ
theorem exec_keeps_smbusSetPointer (a : Fin 16777216) (pec : Bool) (σ : State) : OutKeeps (footprint (.smbusSetPointer a pec)) σ (exec (.smbusSetPointer a pec) σ) := execSmbusSetPointer_keeps a pec σ
theorem exec_keeps_smbusRead (pec : Bool) (σ : State) : OutKeeps (footprint (.smbusRead pec)) σ (exec (.smbusRead pec) σ) := execSmbusRead_keeps pec σ
theorem exec_keeps_smbusWrite (v : Word) (pec : Bool) (σ : State) : OutKeeps (footprint (.smbusWrite v pec)) σ (exec (.smbusWrite v pec) σ) := execSmbusWrite_keeps v pec σ
theorem exec_keeps_smbusWriteStatus (pec : Bool) (σ : State) : OutKeeps (footprint (.smbusWriteStatus pec)) σ (exec (.smbusWriteStatus pec) σ) := execSmbusWriteStatus_keeps pec σ
theorem exec_keeps_smbusAttnSum (pec : Bool) (σ : State) : OutKeeps (footprint (.smbusAttnSum pec)) σ (exec (.smbusAttnSum pec) σ) := execSmbusAttnSum_keeps pec σ
theorem exec_keeps_smbusTj (pec : Bool) (σ : State) : OutKeeps (footprint (.smbusTj pec)) σ (exec (.smbusTj pec) σ) := execSmbusTj_keeps pec σ
theorem exec_keeps_smbusCurrent (pec : Bool) (σ : State) : OutKeeps (footprint (.smbusCurrent pec)) σ (exec (.smbusCurrent pec) σ) := execSmbusCurrent_keeps pec σ
theorem exec_keeps_fetchLoadStore (h : HartIx) (k : AccKind) (a n : Nat) (d : List Byte) (victim : Nat) (err : MemErr) (σ : State) : OutKeeps (footprint (.fetchLoadStore h k a n d victim err)) σ (exec (.fetchLoadStore h k a n d victim err) σ) := execFetchLoadStore_keeps h k a n d victim err σ
theorem exec_keeps_pcieLinkChange (p : Fin 2) (up flit : Bool) (gen : Fin 7) (width : Fin 3) (ltssm : Fin 8) (corr uncorr : Nat) (σ : State) : OutKeeps (footprint (.pcieLinkChange p up flit gen width ltssm corr uncorr)) σ (exec (.pcieLinkChange p up flit gen width ltssm corr uncorr) σ) := execPcieLinkChange_keeps p up flit gen width ltssm corr uncorr σ
theorem exec_keeps_hostCompletionTimeout (q : QueueIx) (k : Nat) (σ : State) : OutKeeps (footprint (.hostCompletionTimeout q k)) σ (exec (.hostCompletionTimeout q k) σ) := execHostCompletionTimeout_keeps q k σ
theorem exec_keeps_patternCheckerLock (l : LaneIx) (locked : Bool) (errors : Nat) (σ : State) : OutKeeps (footprint (.patternCheckerLock l locked errors)) σ (exec (.patternCheckerLock l locked errors) σ) := execPatternCheckerLock_keeps l locked errors σ
theorem exec_keeps_otherGeneratorLocked  (σ : State) : OutKeeps (footprint (.otherGeneratorLocked)) σ (exec (.otherGeneratorLocked) σ) := execOtherGeneratorLocked_keeps σ
theorem exec_keeps_standbyGeneratorFault (lostLock : Bool) (σ : State) : OutKeeps (footprint (.standbyGeneratorFault lostLock)) σ (exec (.standbyGeneratorFault lostLock) σ) := execStandbyGeneratorFault_keeps lostLock σ

/-- Every command answers a next state, changes at most the parts of its footprint and keeps the invariant. -/
theorem exec_keeps (c : Instr) (σ : State) : OutKeeps (footprint c) σ (exec c σ) := by
  cases c with
  | registerWrite _ _ _ _ => exact exec_keeps_registerWrite ..
  | rcFieldRead _ _ _ _ => exact exec_keeps_rcFieldRead ..
  | xAttnClear _ _ _ => exact exec_keeps_xAttnClear ..
  | xAttnSet _ _ => exact exec_keeps_xAttnSet ..
  | timeNowLatch _ => exact exec_keeps_timeNowLatch ..
  | mtimeLatch _ => exact exec_keeps_mtimeLatch ..
  | holdFill _ _ _ _ => exact exec_keeps_holdFill ..
  | holdAcknowledge _ _ _ _ => exact exec_keeps_holdAcknowledge ..
  | holdEmpty _ _ _ _ => exact exec_keeps_holdEmpty ..
  | holdAckFall _ _ _ _ => exact exec_keeps_holdAckFall ..
  | tinRailFault _ _ _ => exact exec_keeps_tinRailFault ..
  | crustPortModeChange _ _ => exact exec_keeps_crustPortModeChange ..
  | crustInboundToken _ _ _ => exact exec_keeps_crustInboundToken ..
  | crustOutboundToken _ _ => exact exec_keeps_crustOutboundToken ..
  | proofingGateRelease _ _ => exact exec_keeps_proofingGateRelease ..
  | proofNotice _ _ _ => exact exec_keeps_proofNotice ..
  | rateRingWindow _ _ _ _ _ _ => exact exec_keeps_rateRingWindow ..
  | wearCheck _ => exact exec_keeps_wearCheck ..
  | telemetryInterval _ _ _ => exact exec_keeps_telemetryInterval ..
  | vfabRamp _ => exact exec_keeps_vfabRamp ..
  | channelTokenSend _ => exact exec_keeps_channelTokenSend ..
  | channelTokenCapture _ _ => exact exec_keeps_channelTokenCapture ..
  | channelAckReceived _ _ => exact exec_keeps_channelAckReceived ..
  | sweep _ _ _ => exact exec_keeps_sweep ..
  | sweepGap _ _ => exact exec_keeps_sweepGap ..
  | spareWireCopyStart _ _ _ => exact exec_keeps_spareWireCopyStart ..
  | seamWireSpared _ _ _ => exact exec_keeps_seamWireSpared ..
  | channelMoveHold _ _ => exact exec_keeps_channelMoveHold ..
  | seamChannelMoved _ _ => exact exec_keeps_seamChannelMoved ..
  | seamFold _ _ => exact exec_keeps_seamFold ..
  | seamPeerLost _ => exact exec_keeps_seamPeerLost ..
  | seamTraining _ _ => exact exec_keeps_seamTraining ..
  | clearMin _ => exact exec_keeps_clearMin ..
  | pantryRead _ _ _ _ => exact exec_keeps_pantryRead ..
  | pantryWrite _ _ _ _ => exact exec_keeps_pantryWrite ..
  | pantrySwap _ _ _ _ => exact exec_keeps_pantrySwap ..
  | pantryRowSpared _ _ _ => exact exec_keeps_pantryRowSpared ..
  | pantryScrub _ _ _ => exact exec_keeps_pantryScrub ..
  | fifoWrite _ _ _ => exact exec_keeps_fifoWrite ..
  | fifoRead _ _ _ _ => exact exec_keeps_fifoRead ..
  | fifoEventConsume _ _ => exact exec_keeps_fifoEventConsume ..
  | stale _ _ => exact exec_keeps_stale ..
  | larderRead _ _ _ _ => exact exec_keeps_larderRead ..
  | larderWrite _ _ _ _ _ _ => exact exec_keeps_larderWrite ..
  | larderScrub _ _ => exact exec_keeps_larderScrub ..
  | larderCheckerTest _ _ _ _ => exact exec_keeps_larderCheckerTest ..
  | poolPush _ _ _ _ => exact exec_keeps_poolPush ..
  | poolPop _ _ _ _ => exact exec_keeps_poolPop ..
  | poolSweep => exact exec_keeps_poolSweep ..
  | selfTestAndFill _ _ _ _ => exact exec_keeps_selfTestAndFill ..
  | memCorrected _ => exact exec_keeps_memCorrected ..
  | mixerOperation _ _ _ => exact exec_keeps_mixerOperation ..
  | mixerSearch _ _ _ => exact exec_keeps_mixerSearch ..
  | clkRefLost _ => exact exec_keeps_clkRefLost ..
  | clkRefRestored _ => exact exec_keeps_clkRefRestored ..
  | clkSwitchover _ => exact exec_keeps_clkSwitchover ..
  | clkCtlSwitch => exact exec_keeps_clkCtlSwitch ..
  | clkGenReady => exact exec_keeps_clkGenReady ..
  | clkGenFault _ => exact exec_keeps_clkGenFault ..
  | clkOutputGate => exact exec_keeps_clkOutputGate ..
  | clkPathSpared _ => exact exec_keeps_clkPathSpared ..
  | controlCrossing _ _ _ _ => exact exec_keeps_controlCrossing ..
  | eventCrossing _ _ _ _ _ => exact exec_keeps_eventCrossing ..
  | valuePublish _ _ _ _ => exact exec_keeps_valuePublish ..
  | edgeUnstable _ _ _ => exact exec_keeps_edgeUnstable ..
  | edgeFifoWrite _ _ _ _ _ => exact exec_keeps_edgeFifoWrite ..
  | edgeFifoRead _ _ _ _ => exact exec_keeps_edgeFifoRead ..
  | dieClkLost _ _ _ _ _ => exact exec_keeps_dieClkLost ..
  | dieClkRestored _ => exact exec_keeps_dieClkRestored ..
  | nocInject _ _ => exact exec_keeps_nocInject ..
  | routerHop _ _ _ => exact exec_keeps_routerHop ..
  | read _ _ => exact exec_keeps_read ..
  | write _ _ => exact exec_keeps_write ..
  | writePosted _ _ => exact exec_keeps_writePosted ..
  | atomicAdd _ _ => exact exec_keeps_atomicAdd ..
  | atomicSwap _ _ => exact exec_keeps_atomicSwap ..
  | atomicCas _ _ => exact exec_keeps_atomicCas ..
  | message _ => exact exec_keeps_message ..
  | response _ => exact exec_keeps_response ..
  | nocTimeout _ => exact exec_keeps_nocTimeout ..
  | quarantineEnd _ => exact exec_keeps_quarantineEnd ..
  | benchWireSpared _ _ _ _ _ => exact exec_keeps_benchWireSpared ..
  | benchDozenSpared _ _ _ _ => exact exec_keeps_benchDozenSpared ..
  | benchLinkRetired _ _ => exact exec_keeps_benchLinkRetired ..
  | rerouteStep => exact exec_keeps_rerouteStep ..
  | spineRouterSpared _ => exact exec_keeps_spineRouterSpared ..
  | spineRouterRetired _ => exact exec_keeps_spineRouterRetired ..
  | memoryRequest _ _ _ => exact exec_keeps_memoryRequest ..
  | beatWarn => exact exec_keeps_beatWarn ..
  | beatStall _ => exact exec_keeps_beatStall ..
  | beatEnd => exact exec_keeps_beatEnd ..
  | sliceBeatEnd _ _ => exact exec_keeps_sliceBeatEnd ..
  | dramRefreshHot => exact exec_keeps_dramRefreshHot ..
  | dramRefreshNormal => exact exec_keeps_dramRefreshNormal ..
  | patrolRead _ _ => exact exec_keeps_patrolRead ..
  | channelTrained _ _ => exact exec_keeps_channelTrained ..
  | channelFilled _ => exact exec_keeps_channelFilled ..
  | selfRefreshExit _ _ => exact exec_keeps_selfRefreshExit ..
  | evacuationLineMove _ => exact exec_keeps_evacuationLineMove ..
  | dramEvacuated => exact exec_keeps_dramEvacuated ..
  | counterRequest _ _ _ _ _ _ _ _ => exact exec_keeps_counterRequest ..
  | sealedReadProof _ _ _ => exact exec_keeps_sealedReadProof ..
  | securityHalt _ _ _ _ _ _ => exact exec_keeps_securityHalt ..
  | granuleRefillDone _ => exact exec_keeps_granuleRefillDone ..
  | sealResealed _ => exact exec_keeps_sealResealed ..
  | flr _ => exact exec_keeps_flr ..
  | perstN => exact exec_keeps_perstN ..
  | barRead _ _ _ _ _ => exact exec_keeps_barRead ..
  | barWrite _ _ _ _ _ _ => exact exec_keeps_barWrite ..
  | barTimeout _ => exact exec_keeps_barTimeout ..
  | sqDoorbell _ _ _ => exact exec_keeps_sqDoorbell ..
  | cqDoorbell _ _ _ => exact exec_keeps_cqDoorbell ..
  | descriptorFetch _ _ => exact exec_keeps_descriptorFetch ..
  | copyToDevice _ _ _ _ => exact exec_keeps_copyToDevice ..
  | copyFromDevice _ _ _ => exact exec_keeps_copyFromDevice ..
  | copyDevice _ _ _ => exact exec_keeps_copyDevice ..
  | copyComplete _ _ _ => exact exec_keeps_copyComplete ..
  | streamSend _ _ => exact exec_keeps_streamSend ..
  | streamSendTimeout _ => exact exec_keeps_streamSendTimeout ..
  | streamBuffer _ => exact exec_keeps_streamBuffer ..
  | streamRecord _ => exact exec_keeps_streamRecord ..
  | streamBufferFlush _ => exact exec_keeps_streamBufferFlush ..
  | queueCreate _ => exact exec_keeps_queueCreate ..
  | queueDelete _ _ => exact exec_keeps_queueDelete ..
  | queuePause _ => exact exec_keeps_queuePause ..
  | queueResume _ => exact exec_keeps_queueResume ..
  | queueReset _ => exact exec_keeps_queueReset ..
  | queueAssign _ => exact exec_keeps_queueAssign ..
  | queueQuery _ => exact exec_keeps_queueQuery ..
  | interruptCoalesce _ => exact exec_keeps_interruptCoalesce ..
  | cqStale _ => exact exec_keeps_cqStale ..
  | eventRingMove _ => exact exec_keeps_eventRingMove ..
  | hqeQctlWrite _ _ => exact exec_keeps_hqeQctlWrite ..
  | loadImage _ _ => exact exec_keeps_loadImage ..
  | relocateTin _ => exact exec_keeps_relocateTin ..
  | swapAt _ => exact exec_keeps_swapAt ..
  | swapCancel _ => exact exec_keeps_swapCancel ..
  | sparePolicy _ => exact exec_keeps_sparePolicy ..
  | retireTin _ => exact exec_keeps_retireTin ..
  | retireChannel _ => exact exec_keeps_retireChannel ..
  | retireBenchLink _ => exact exec_keeps_retireBenchLink ..
  | retireCore _ _ => exact exec_keeps_retireCore ..
  | retireSpineRouter _ => exact exec_keeps_retireSpineRouter ..
  | granuleSet _ => exact exec_keeps_granuleSet ..
  | storeSet _ => exact exec_keeps_storeSet ..
  | resealRange _ => exact exec_keeps_resealRange ..
  | powerState _ => exact exec_keeps_powerState ..
  | tinReset _ => exact exec_keeps_tinReset ..
  | dieReset _ => exact exec_keeps_dieReset ..
  | hubWarmReset _ _ _ => exact exec_keeps_hubWarmReset ..
  | coreReset _ _ _ => exact exec_keeps_coreReset ..
  | laneSignalDetect _ _ => exact exec_keeps_laneSignalDetect ..
  | linkTrainingRequest _ _ _ => exact exec_keeps_linkTrainingRequest ..
  | laneUp _ _ _ => exact exec_keeps_laneUp ..
  | laneAttemptTimeout _ => exact exec_keeps_laneAttemptTimeout ..
  | laneSelfTestDone _ _ => exact exec_keeps_laneSelfTestDone ..
  | laneRetry _ => exact exec_keeps_laneRetry ..
  | eyeMeasurement _ _ _ => exact exec_keeps_eyeMeasurement ..
  | laneSignalLost _ => exact exec_keeps_laneSignalLost ..
  | laneRelockTimeout _ => exact exec_keeps_laneRelockTimeout ..
  | laneStateReached _ _ => exact exec_keeps_laneStateReached ..
  | laneReqState _ _ => exact exec_keeps_laneReqState ..
  | laneRateWrite _ _ => exact exec_keeps_laneRateWrite ..
  | laneRetrain _ _ => exact exec_keeps_laneRetrain ..
  | injOnce _ => exact exec_keeps_injOnce ..
  | injRate _ _ => exact exec_keeps_injRate ..
  | chkClear _ => exact exec_keeps_chkClear ..
  | loopbackChange _ _ => exact exec_keeps_loopbackChange ..
  | ppsInEdge _ => exact exec_keeps_ppsInEdge ..
  | timeHoldover => exact exec_keeps_timeHoldover ..
  | timeStep _ _ => exact exec_keeps_timeStep ..
  | timeAdjWrite _ => exact exec_keeps_timeAdjWrite ..
  | ppsOut => exact exec_keeps_ppsOut ..
  | dieTimeAlign _ => exact exec_keeps_dieTimeAlign ..
  | frameReceive _ _ _ _ _ _ => exact exec_keeps_frameReceive ..
  | transmitRecord _ _ => exact exec_keeps_transmitRecord ..
  | frameTransmit _ _ _ => exact exec_keeps_frameTransmit ..
  | sdiLocked _ _ => exact exec_keeps_sdiLocked ..
  | sdiUnlocked _ _ => exact exec_keeps_sdiUnlocked ..
  | sdiLine _ _ _ _ _ _ => exact exec_keeps_sdiLine ..
  | st352Change _ _ _ => exact exec_keeps_st352Change ..
  | recordPresentation _ _ => exact exec_keeps_recordPresentation ..
  | recordAccept _ _ => exact exec_keeps_recordAccept ..
  | packetLaunch _ _ => exact exec_keeps_packetLaunch ..
  | statisticsWrite _ _ => exact exec_keeps_statisticsWrite ..
  | macCqHead _ _ _ => exact exec_keeps_macCqHead ..
  | macCqReset _ _ => exact exec_keeps_macCqReset ..
  | push _ _ => exact exec_keeps_push ..
  | stat => exact exec_keeps_stat ..
  | headerAuthenticated _ _ => exact exec_keeps_headerAuthenticated ..
  | imageSegment _ => exact exec_keeps_imageSegment ..
  | endMarker _ _ => exact exec_keeps_endMarker ..
  | fullImageCommit => exact exec_keeps_fullImageCommit ..
  | partialImageCommit => exact exec_keeps_partialImageCommit ..
  | earlyEnd => exact exec_keeps_earlyEnd ..
  | cfgIdleTimeout => exact exec_keeps_cfgIdleTimeout ..
  | fabricWipeDone => exact exec_keeps_fabricWipeDone ..
  | fallbackTimeout => exact exec_keeps_fallbackTimeout ..
  | autoRelocationStart _ => exact exec_keeps_autoRelocationStart ..
  | targetLoaded _ _ _ => exact exec_keeps_targetLoaded ..
  | relocationFreeze _ _ => exact exec_keeps_relocationFreeze ..
  | sourceQuiescent _ _ => exact exec_keeps_sourceQuiescent ..
  | stateTransferDone _ _ _ => exact exec_keeps_stateTransferDone ..
  | tinRelocated _ _ => exact exec_keeps_tinRelocated ..
  | quiescenceTimeout _ _ => exact exec_keeps_quiescenceTimeout ..
  | relocationRetry _ _ => exact exec_keeps_relocationRetry ..
  | swapTime _ _ => exact exec_keeps_swapTime ..
  | tinSwapped _ _ => exact exec_keeps_tinSwapped ..
  | tinRestarted _ _ _ => exact exec_keeps_tinRestarted ..
  | returnTestDone _ _ => exact exec_keeps_returnTestDone ..
  | kneaderFrameRead _ _ _ => exact exec_keeps_kneaderFrameRead ..
  | hotFrameInterval _ => exact exec_keeps_hotFrameInterval ..
  | kneaderHeartbeat _ _ _ _ _ _ => exact exec_keeps_kneaderHeartbeat ..
  | watchdogKick _ _ => exact exec_keeps_watchdogKick ..
  | watchdogPreBite _ => exact exec_keeps_watchdogPreBite ..
  | wdgBite _ _ _ => exact exec_keeps_wdgBite ..
  | bootStart _ => exact exec_keeps_bootStart ..
  | firmwareVerified _ _ _ => exact exec_keeps_firmwareVerified ..
  | getRandom => exact exec_keeps_getRandom ..
  | hashRange => exact exec_keeps_hashRange ..
  | verifyBlob _ _ _ => exact exec_keeps_verifyBlob ..
  | deviceInfo => exact exec_keeps_deviceInfo ..
  | lifecycleAdvance _ _ => exact exec_keeps_lifecycleAdvance ..
  | keyProgram _ _ => exact exec_keeps_keyProgram ..
  | keyRevoke _ _ => exact exec_keeps_keyRevoke ..
  | forceHalt => exact exec_keeps_forceHalt ..
  | mailboxComplete => exact exec_keeps_mailboxComplete ..
  | secResponseRead => exact exec_keeps_secResponseRead ..
  | l2Clean => exact exec_keeps_l2Clean ..
  | l2Invalidate => exact exec_keeps_l2Invalidate ..
  | l2CleanInvalidate => exact exec_keeps_l2CleanInvalidate ..
  | l2CmoDone => exact exec_keeps_l2CmoDone ..
  | loadReserved _ _ _ _ _ => exact exec_keeps_loadReserved ..
  | storeConditional _ _ _ => exact exec_keeps_storeConditional ..
  | amo _ _ _ _ _ _ _ => exact exec_keeps_amo ..
  | uncachedStore _ _ _ => exact exec_keeps_uncachedStore ..
  | mgcL2Uncorr _ => exact exec_keeps_mgcL2Uncorr ..
  | timerInterrupt _ => exact exec_keeps_timerInterrupt ..
  | clusterEventMove => exact exec_keeps_clusterEventMove ..
  | pwrRailFault _ _ => exact exec_keeps_pwrRailFault ..
  | hubRailFault => exact exec_keeps_hubRailFault ..
  | refusersAnswered => exact exec_keeps_refusersAnswered ..
  | entryQuiescent => exact exec_keeps_entryQuiescent ..
  | entryAbort => exact exec_keeps_entryAbort ..
  | pointOfNoReturn => exact exec_keeps_pointOfNoReturn ..
  | pwrStateEntered => exact exec_keeps_pwrStateEntered ..
  | wakeNow => exact exec_keeps_wakeNow ..
  | gpioWake => exact exec_keeps_gpioWake ..
  | timerWake => exact exec_keeps_timerWake ..
  | wakeStep _ _ _ _ => exact exec_keeps_wakeStep ..
  | padRelease _ => exact exec_keeps_padRelease ..
  | thermTrip _ => exact exec_keeps_thermTrip ..
  | thermTripRelease => exact exec_keeps_thermTripRelease ..
  | pwrOvercurrent => exact exec_keeps_pwrOvercurrent ..
  | overcurrentRelease => exact exec_keeps_overcurrentRelease ..
  | powerOnReset _ _ => exact exec_keeps_powerOnReset ..
  | resetN _ => exact exec_keeps_resetN ..
  | secBoot _ _ _ _ => exact exec_keeps_secBoot ..
  | clockLock _ => exact exec_keeps_clockLock ..
  | cfgErrNRelease _ => exact exec_keeps_cfgErrNRelease ..
  | dieResetRelease _ => exact exec_keeps_dieResetRelease ..
  | dieReturned _ _ => exact exec_keeps_dieReturned ..
  | diePowerLost _ => exact exec_keeps_diePowerLost ..
  | diePowerRetry _ _ => exact exec_keeps_diePowerRetry ..
  | trngHealthFail => exact exec_keeps_trngHealthFail ..
  | trngRetest _ => exact exec_keeps_trngRetest ..
  | glitchDetect => exact exec_keeps_glitchDetect ..
  | challengeLockoutEnd => exact exec_keeps_challengeLockoutEnd ..
  | tapReset => exact exec_keeps_tapReset ..
  | extest _ => exact exec_keeps_extest ..
  | samplePreload _ => exact exec_keeps_samplePreload ..
  | idcode => exact exec_keeps_idcode ..
  | clamp => exact exec_keeps_clamp ..
  | highz => exact exec_keeps_highz ..
  | extestPulse _ => exact exec_keeps_extestPulse ..
  | extestTrain _ => exact exec_keeps_extestTrain ..
  | boundaryScanEnd => exact exec_keeps_boundaryScanEnd ..
  | bypass => exact exec_keeps_bypass ..
  | haltCause => exact exec_keeps_haltCause ..
  | auth _ _ _ => exact exec_keeps_auth ..
  | dapRead _ _ _ _ => exact exec_keeps_dapRead ..
  | dapWrite _ _ _ _ => exact exec_keeps_dapWrite ..
  | dtermUpdate _ => exact exec_keeps_dtermUpdate ..
  | cfgLoad _ => exact exec_keeps_cfgLoad ..
  | cfgReadback _ => exact exec_keeps_cfgReadback ..
  | dmHalt _ => exact exec_keeps_dmHalt ..
  | dmResume _ _ _ => exact exec_keeps_dmResume ..
  | accessRegister _ _ _ _ => exact exec_keeps_accessRegister ..
  | xtChannelFire _ _ => exact exec_keeps_xtChannelFire ..
  | stimulusWrite _ _ _ => exact exec_keeps_stimulusWrite ..
  | traceFrameSend => exact exec_keeps_traceFrameSend ..
  | dtxWrite _ => exact exec_keeps_dtxWrite ..
  | drxConsume => exact exec_keeps_drxConsume ..
  | tinFreeze _ _ => exact exec_keeps_tinFreeze ..
  | dbgTinFrozen _ _ => exact exec_keeps_dbgTinFrozen ..
  | tinRelease _ _ => exact exec_keeps_tinRelease ..
  | tokenStep _ _ _ => exact exec_keeps_tokenStep ..
  | tinReadback _ _ => exact exec_keeps_tinReadback ..
  | tinStateWrite _ _ => exact exec_keeps_tinStateWrite ..
  | gpioOutWrite _ _ _ _ _ => exact exec_keeps_gpioOutWrite ..
  | padInputChange _ _ => exact exec_keeps_padInputChange ..
  | smbusSetPointer _ _ => exact exec_keeps_smbusSetPointer ..
  | smbusRead _ => exact exec_keeps_smbusRead ..
  | smbusWrite _ _ => exact exec_keeps_smbusWrite ..
  | smbusWriteStatus _ => exact exec_keeps_smbusWriteStatus ..
  | smbusAttnSum _ => exact exec_keeps_smbusAttnSum ..
  | smbusTj _ => exact exec_keeps_smbusTj ..
  | smbusCurrent _ => exact exec_keeps_smbusCurrent ..
  | fetchLoadStore _ _ _ _ _ _ _ => exact exec_keeps_fetchLoadStore ..
  | pcieLinkChange _ _ _ _ _ _ _ _ => exact exec_keeps_pcieLinkChange ..
  | hostCompletionTimeout _ _ => exact exec_keeps_hostCompletionTimeout ..
  | patternCheckerLock _ _ _ => exact exec_keeps_patternCheckerLock ..
  | otherGeneratorLocked => exact exec_keeps_otherGeneratorLocked ..
  | standbyGeneratorFault _ => exact exec_keeps_standbyGeneratorFault ..

/-- No command can change the queue of commands. -/
theorem pending_not_mem_footprint (c : Instr) : Part.pending ∉ footprint c := by
  cases c <;> exact of_decide_eq_true rfl

end Sys2Proof.Machine
end

