-- ==== Sys2Proof/Laws/Fabric.lean ====
section
/-! SUPPORT. What the operations on one tin leave alone. -/

namespace Sys2Proof.Machine

/-- Two tins that differ at most in their ports, pantries and mixers. -/
structure Tin.SameCore (x y : Tin) : Prop where
  frames : y.frames = x.frames
  holds : y.holds = x.holds
  faults : y.faults = x.faults
  nocGate : y.nocGate = x.nocGate
  nocIn : y.nocIn = x.nocIn
  reads : y.reads = x.reads
  seq : y.seq = x.seq
  released : y.released = x.released
  frozen : y.frozen = x.frozen
  stopped : y.stopped = x.stopped
  drain : y.drain = x.drain
  design : y.design = x.design

theorem Tin.SameCore.refl (x : Tin) : Tin.SameCore x x := ⟨rfl, rfl, rfl, rfl, rfl, rfl, rfl, rfl, rfl, rfl, rfl, rfl⟩

theorem Tin.SameCore.trans {x y z : Tin} (h : Tin.SameCore x y) (k : Tin.SameCore y z) : Tin.SameCore x z :=
  ⟨k.frames.trans h.frames, k.holds.trans h.holds, k.faults.trans h.faults, k.nocGate.trans h.nocGate, k.nocIn.trans h.nocIn, k.reads.trans h.reads,
    k.seq.trans h.seq, k.released.trans h.released, k.frozen.trans h.frozen, k.stopped.trans h.stopped, k.drain.trans h.drain, k.design.trans h.design⟩

theorem Tin.setPort_core (x : Tin) (p : Nat) (v : Port) : Tin.SameCore x (x.setPort p v) :=
  ⟨rfl, rfl, rfl, rfl, rfl, rfl, rfl, rfl, rfl, rfl, rfl, rfl⟩
theorem Tin.setPantry_core (x : Tin) (p : Nat) (v : Pantry) : Tin.SameCore x (x.setPantry p v) :=
  ⟨rfl, rfl, rfl, rfl, rfl, rfl, rfl, rfl, rfl, rfl, rfl, rfl⟩
theorem Tin.setMixer_core (x : Tin) (q : Nat) (v : Mixer) : Tin.SameCore x (x.setMixer q v) :=
  ⟨rfl, rfl, rfl, rfl, rfl, rfl, rfl, rfl, rfl, rfl, rfl, rfl⟩

theorem Tin.settlePort_core (x : Tin) (p : Nat) : Tin.SameCore x (x.settlePort p) := by
  unfold Tin.settlePort
  extract_lets
  split
  · split
    · exact Tin.setPort_core ..
    · exact .refl x
  · split
    · split
      · exact Tin.setPort_core ..
      · exact .refl x
    · split
      · exact Tin.setPort_core ..
      · exact .refl x

theorem Tin.settleBlock_core (x : Tin) (k : Blk) : Tin.SameCore x (x.settleBlock k) := by
  unfold Tin.settleBlock
  split
  · exact Tin.setPantry_core ..
  · extract_lets
    split
    · exact Tin.setMixer_core ..
    · split
      · exact Tin.setMixer_core ..
      · exact Tin.setMixer_core ..

theorem Tin.foldl_core {α : Type} (f : Tin → α → Tin) (h : ∀ x a, Tin.SameCore x (f x a)) (l : List α) (x : Tin) : Tin.SameCore x (l.foldl f x) := by
  induction l generalizing x with
  | nil => exact .refl x
  | cons a r ih => exact (h x a).trans (ih _)

/-- Settling a tin acts on its ports, pantries and mixers alone. -/
theorem Tin.settle_core (x : Tin) : Tin.SameCore x x.settle :=
  (Tin.foldl_core _ Tin.settlePort_core _ _).trans (Tin.foldl_core _ Tin.settleBlock_core _ _)

@[simp] theorem Tin.settle_holds (x : Tin) : x.settle.holds = x.holds := (Tin.settle_core x).holds
@[simp] theorem Tin.settle_frames (x : Tin) : x.settle.frames = x.frames := (Tin.settle_core x).frames
@[simp] theorem Tin.settle_drain (x : Tin) : x.settle.drain = x.drain := (Tin.settle_core x).drain
@[simp] theorem Tin.settle_reads (x : Tin) : x.settle.reads = x.reads := (Tin.settle_core x).reads
@[simp] theorem Tin.settle_nocGate (x : Tin) : x.settle.nocGate = x.nocGate := (Tin.settle_core x).nocGate

@[simp] theorem Tin.settle_hold (x : Tin) (b c m : Nat) : x.settle.hold b c m = x.hold b c m := by unfold Tin.hold; rw [Tin.settle_holds]

@[simp] theorem Tin.hold_setHold (x : Tin) (b c m : Nat) (h : Hold) : (x.setHold b c m h).hold b c m = h := by simp [Tin.hold, Tin.setHold]

/-- The hold written reads as given; every other hold of the tin as before. -/
theorem Tin.holds_setHold_ne (x : Tin) {b c m k : Nat} (h : Hold) (n : k ≠ holdKey b c m) :
    Tab.get Hold.empty (x.setHold b c m h).holds k = Tab.get Hold.empty x.holds k := by
  simp [Tin.setHold, Tab.get_put, n]

@[simp] theorem Tin.port_setPort (x : Tin) (p : Nat) (v : Port) : (x.setPort p v).port p = v := by simp [Tin.port, Tin.setPort]

theorem Tin.port_setPort_ne (x : Tin) {p q : Nat} (v : Port) (n : q ≠ p) : (x.setPort p v).port q = x.port q := by simp [Tin.port, Tin.setPort, Tab.get_put, n]

end Sys2Proof.Machine
end

