-- ==== Sys2Proof/Laws/State.lean ====
section
/-! SUPPORT. What reads of the state give after its updates: one lemma per field and update, and the laws of register fields. -/

namespace Sys2Proof.Machine

/-! ### Fields left alone by an update -/

@[simp] theorem State.setReg_pending (s : State) (o : Nat) (w : Word) : (s.setReg o w).pending = s.pending := rfl
@[simp] theorem State.setReg_events (s : State) (o : Nat) (w : Word) : (s.setReg o w).events = s.events := rfl
@[simp] theorem State.setReg_now (s : State) (o : Nat) (w : Word) : (s.setReg o w).now = s.now := rfl
@[simp] theorem State.setReg_roles (s : State) (o : Nat) (w : Word) : (s.setReg o w).roles = s.roles := rfl
@[simp] theorem State.setReg_tins (s : State) (o : Nat) (w : Word) : (s.setReg o w).tins = s.tins := rfl
@[simp] theorem State.setReg_ring (s : State) (o : Nat) (w : Word) : (s.setReg o w).ring = s.ring := rfl
@[simp] theorem State.setReg_laneIn (s : State) (o : Nat) (w : Word) : (s.setReg o w).laneIn = s.laneIn := rfl
@[simp] theorem State.setReg_laneOut (s : State) (o : Nat) (w : Word) : (s.setReg o w).laneOut = s.laneOut := rfl
@[simp] theorem State.setReg_seamCh (s : State) (o : Nat) (w : Word) : (s.setReg o w).seamCh = s.seamCh := rfl
@[simp] theorem State.setReg_dozens (s : State) (o : Nat) (w : Word) : (s.setReg o w).dozens = s.dozens := rfl
@[simp] theorem State.setReg_bench (s : State) (o : Nat) (w : Word) : (s.setReg o w).bench = s.bench := rfl
@[simp] theorem State.setReg_foldMap (s : State) (o : Nat) (w : Word) : (s.setReg o w).foldMap = s.foldMap := rfl
@[simp] theorem State.setReg_kept (s : State) (o : Nat) (w : Word) : (s.setReg o w).kept = s.kept := rfl
@[simp] theorem State.setReg_dieCopy (s : State) (o : Nat) (w : Word) : (s.setReg o w).dieCopy = s.dieCopy := rfl
@[simp] theorem State.setReg_dueSeq (s : State) (o : Nat) (w : Word) : (s.setReg o w).dueSeq = s.dueSeq := rfl
@[simp] theorem State.setReg_vgoal (s : State) (o : Nat) (w : Word) : (s.setReg o w).vgoal = s.vgoal := rfl
@[simp] theorem State.setReg_larder (s : State) (o : Nat) (w : Word) : (s.setReg o w).larder = s.larder := rfl
@[simp] theorem State.setReg_pool (s : State) (o : Nat) (w : Word) : (s.setReg o w).pool = s.pool := rfl
@[simp] theorem State.setReg_corr (s : State) (o : Nat) (w : Word) : (s.setReg o w).corr = s.corr := rfl
@[simp] theorem State.setReg_noc (s : State) (o : Nat) (w : Word) : (s.setReg o w).noc = s.noc := rfl
@[simp] theorem State.setReg_dram (s : State) (o : Nat) (w : Word) : (s.setReg o w).dram = s.dram := rfl
@[simp] theorem State.setReg_breadbox (s : State) (o : Nat) (w : Word) : (s.setReg o w).breadbox = s.breadbox := rfl
@[simp] theorem State.setReg_pads (s : State) (o : Nat) (w : Word) : (s.setReg o w).pads = s.pads := rfl
@[simp] theorem State.setReg_lanes (s : State) (o : Nat) (w : Word) : (s.setReg o w).lanes = s.lanes := rfl
@[simp] theorem State.setReg_eqTable (s : State) (o : Nat) (w : Word) : (s.setReg o w).eqTable = s.eqTable := rfl
@[simp] theorem State.setReg_clk (s : State) (o : Nat) (w : Word) : (s.setReg o w).clk = s.clk := rfl
@[simp] theorem State.setReg_time (s : State) (o : Nat) (w : Word) : (s.setReg o w).time = s.time := rfl
@[simp] theorem State.setReg_mac (s : State) (o : Nat) (w : Word) : (s.setReg o w).mac = s.mac := rfl
@[simp] theorem State.setReg_dbg (s : State) (o : Nat) (w : Word) : (s.setReg o w).dbg = s.dbg := rfl
@[simp] theorem State.setReg_mgc (s : State) (o : Nat) (w : Word) : (s.setReg o w).mgc = s.mgc := rfl
@[simp] theorem State.setReg_fuses (s : State) (o : Nat) (w : Word) : (s.setReg o w).fuses = s.fuses := rfl
@[simp] theorem State.setReg_hqe (s : State) (o : Nat) (w : Word) : (s.setReg o w).hqe = s.hqe := rfl
@[simp] theorem State.setReg_cfg (s : State) (o : Nat) (w : Word) : (s.setReg o w).cfg = s.cfg := rfl
@[simp] theorem State.setReg_spr (s : State) (o : Nat) (w : Word) : (s.setReg o w).spr = s.spr := rfl
@[simp] theorem State.setReg_ptm (s : State) (o : Nat) (w : Word) : (s.setReg o w).ptm = s.ptm := rfl
@[simp] theorem State.setReg_away (s : State) (o : Nat) (w : Word) : (s.setReg o w).away = s.away := rfl
@[simp] theorem State.setReg_smbus (s : State) (o : Nat) (w : Word) : (s.setReg o w).smbus = s.smbus := rfl
@[simp] theorem State.setReg_powerGood (s : State) (o : Nat) (w : Word) : (s.setReg o w).powerGood = s.powerGood := rfl
@[simp] theorem State.setReg_straps (s : State) (o : Nat) (w : Word) : (s.setReg o w).straps = s.straps := rfl
@[simp] theorem State.setReg_answer (s : State) (o : Nat) (w : Word) : (s.setReg o w).answer = s.answer := rfl
@[simp] theorem State.setReg_free (s : State) (o : Nat) (w : Word) : (s.setReg o w).free = s.free := rfl

@[simp] theorem State.fset_pending (s : State) (f : Fld) (v : Nat) : (s.fset f v).pending = s.pending := rfl
@[simp] theorem State.fset_events (s : State) (f : Fld) (v : Nat) : (s.fset f v).events = s.events := rfl
@[simp] theorem State.fset_now (s : State) (f : Fld) (v : Nat) : (s.fset f v).now = s.now := rfl
@[simp] theorem State.fset_roles (s : State) (f : Fld) (v : Nat) : (s.fset f v).roles = s.roles := rfl
@[simp] theorem State.fset_tins (s : State) (f : Fld) (v : Nat) : (s.fset f v).tins = s.tins := rfl
@[simp] theorem State.fset_ring (s : State) (f : Fld) (v : Nat) : (s.fset f v).ring = s.ring := rfl
@[simp] theorem State.fset_laneIn (s : State) (f : Fld) (v : Nat) : (s.fset f v).laneIn = s.laneIn := rfl
@[simp] theorem State.fset_laneOut (s : State) (f : Fld) (v : Nat) : (s.fset f v).laneOut = s.laneOut := rfl
@[simp] theorem State.fset_seamCh (s : State) (f : Fld) (v : Nat) : (s.fset f v).seamCh = s.seamCh := rfl
@[simp] theorem State.fset_dozens (s : State) (f : Fld) (v : Nat) : (s.fset f v).dozens = s.dozens := rfl
@[simp] theorem State.fset_bench (s : State) (f : Fld) (v : Nat) : (s.fset f v).bench = s.bench := rfl
@[simp] theorem State.fset_foldMap (s : State) (f : Fld) (v : Nat) : (s.fset f v).foldMap = s.foldMap := rfl
@[simp] theorem State.fset_kept (s : State) (f : Fld) (v : Nat) : (s.fset f v).kept = s.kept := rfl
@[simp] theorem State.fset_dieCopy (s : State) (f : Fld) (v : Nat) : (s.fset f v).dieCopy = s.dieCopy := rfl
@[simp] theorem State.fset_dueSeq (s : State) (f : Fld) (v : Nat) : (s.fset f v).dueSeq = s.dueSeq := rfl
@[simp] theorem State.fset_vgoal (s : State) (f : Fld) (v : Nat) : (s.fset f v).vgoal = s.vgoal := rfl
@[simp] theorem State.fset_larder (s : State) (f : Fld) (v : Nat) : (s.fset f v).larder = s.larder := rfl
@[simp] theorem State.fset_pool (s : State) (f : Fld) (v : Nat) : (s.fset f v).pool = s.pool := rfl
@[simp] theorem State.fset_corr (s : State) (f : Fld) (v : Nat) : (s.fset f v).corr = s.corr := rfl
@[simp] theorem State.fset_noc (s : State) (f : Fld) (v : Nat) : (s.fset f v).noc = s.noc := rfl
@[simp] theorem State.fset_dram (s : State) (f : Fld) (v : Nat) : (s.fset f v).dram = s.dram := rfl
@[simp] theorem State.fset_breadbox (s : State) (f : Fld) (v : Nat) : (s.fset f v).breadbox = s.breadbox := rfl
@[simp] theorem State.fset_pads (s : State) (f : Fld) (v : Nat) : (s.fset f v).pads = s.pads := rfl
@[simp] theorem State.fset_lanes (s : State) (f : Fld) (v : Nat) : (s.fset f v).lanes = s.lanes := rfl
@[simp] theorem State.fset_eqTable (s : State) (f : Fld) (v : Nat) : (s.fset f v).eqTable = s.eqTable := rfl
@[simp] theorem State.fset_clk (s : State) (f : Fld) (v : Nat) : (s.fset f v).clk = s.clk := rfl
@[simp] theorem State.fset_time (s : State) (f : Fld) (v : Nat) : (s.fset f v).time = s.time := rfl
@[simp] theorem State.fset_mac (s : State) (f : Fld) (v : Nat) : (s.fset f v).mac = s.mac := rfl
@[simp] theorem State.fset_dbg (s : State) (f : Fld) (v : Nat) : (s.fset f v).dbg = s.dbg := rfl
@[simp] theorem State.fset_mgc (s : State) (f : Fld) (v : Nat) : (s.fset f v).mgc = s.mgc := rfl
@[simp] theorem State.fset_fuses (s : State) (f : Fld) (v : Nat) : (s.fset f v).fuses = s.fuses := rfl
@[simp] theorem State.fset_hqe (s : State) (f : Fld) (v : Nat) : (s.fset f v).hqe = s.hqe := rfl
@[simp] theorem State.fset_cfg (s : State) (f : Fld) (v : Nat) : (s.fset f v).cfg = s.cfg := rfl
@[simp] theorem State.fset_spr (s : State) (f : Fld) (v : Nat) : (s.fset f v).spr = s.spr := rfl
@[simp] theorem State.fset_ptm (s : State) (f : Fld) (v : Nat) : (s.fset f v).ptm = s.ptm := rfl
@[simp] theorem State.fset_away (s : State) (f : Fld) (v : Nat) : (s.fset f v).away = s.away := rfl
@[simp] theorem State.fset_smbus (s : State) (f : Fld) (v : Nat) : (s.fset f v).smbus = s.smbus := rfl
@[simp] theorem State.fset_powerGood (s : State) (f : Fld) (v : Nat) : (s.fset f v).powerGood = s.powerGood := rfl
@[simp] theorem State.fset_straps (s : State) (f : Fld) (v : Nat) : (s.fset f v).straps = s.straps := rfl
@[simp] theorem State.fset_answer (s : State) (f : Fld) (v : Nat) : (s.fset f v).answer = s.answer := rfl
@[simp] theorem State.fset_free (s : State) (f : Fld) (v : Nat) : (s.fset f v).free = s.free := rfl

@[simp] theorem State.fsat_pending (s : State) (f : Fld) (n : Nat) : (s.fsat f n).pending = s.pending := rfl
@[simp] theorem State.fsat_events (s : State) (f : Fld) (n : Nat) : (s.fsat f n).events = s.events := rfl
@[simp] theorem State.fsat_now (s : State) (f : Fld) (n : Nat) : (s.fsat f n).now = s.now := rfl
@[simp] theorem State.fsat_roles (s : State) (f : Fld) (n : Nat) : (s.fsat f n).roles = s.roles := rfl
@[simp] theorem State.fsat_tins (s : State) (f : Fld) (n : Nat) : (s.fsat f n).tins = s.tins := rfl
@[simp] theorem State.fsat_ring (s : State) (f : Fld) (n : Nat) : (s.fsat f n).ring = s.ring := rfl
@[simp] theorem State.fsat_laneIn (s : State) (f : Fld) (n : Nat) : (s.fsat f n).laneIn = s.laneIn := rfl
@[simp] theorem State.fsat_laneOut (s : State) (f : Fld) (n : Nat) : (s.fsat f n).laneOut = s.laneOut := rfl
@[simp] theorem State.fsat_seamCh (s : State) (f : Fld) (n : Nat) : (s.fsat f n).seamCh = s.seamCh := rfl
@[simp] theorem State.fsat_dozens (s : State) (f : Fld) (n : Nat) : (s.fsat f n).dozens = s.dozens := rfl
@[simp] theorem State.fsat_bench (s : State) (f : Fld) (n : Nat) : (s.fsat f n).bench = s.bench := rfl
@[simp] theorem State.fsat_foldMap (s : State) (f : Fld) (n : Nat) : (s.fsat f n).foldMap = s.foldMap := rfl
@[simp] theorem State.fsat_kept (s : State) (f : Fld) (n : Nat) : (s.fsat f n).kept = s.kept := rfl
@[simp] theorem State.fsat_dieCopy (s : State) (f : Fld) (n : Nat) : (s.fsat f n).dieCopy = s.dieCopy := rfl
@[simp] theorem State.fsat_dueSeq (s : State) (f : Fld) (n : Nat) : (s.fsat f n).dueSeq = s.dueSeq := rfl
@[simp] theorem State.fsat_vgoal (s : State) (f : Fld) (n : Nat) : (s.fsat f n).vgoal = s.vgoal := rfl
@[simp] theorem State.fsat_larder (s : State) (f : Fld) (n : Nat) : (s.fsat f n).larder = s.larder := rfl
@[simp] theorem State.fsat_pool (s : State) (f : Fld) (n : Nat) : (s.fsat f n).pool = s.pool := rfl
@[simp] theorem State.fsat_corr (s : State) (f : Fld) (n : Nat) : (s.fsat f n).corr = s.corr := rfl
@[simp] theorem State.fsat_noc (s : State) (f : Fld) (n : Nat) : (s.fsat f n).noc = s.noc := rfl
@[simp] theorem State.fsat_dram (s : State) (f : Fld) (n : Nat) : (s.fsat f n).dram = s.dram := rfl
@[simp] theorem State.fsat_breadbox (s : State) (f : Fld) (n : Nat) : (s.fsat f n).breadbox = s.breadbox := rfl
@[simp] theorem State.fsat_pads (s : State) (f : Fld) (n : Nat) : (s.fsat f n).pads = s.pads := rfl
@[simp] theorem State.fsat_lanes (s : State) (f : Fld) (n : Nat) : (s.fsat f n).lanes = s.lanes := rfl
@[simp] theorem State.fsat_eqTable (s : State) (f : Fld) (n : Nat) : (s.fsat f n).eqTable = s.eqTable := rfl
@[simp] theorem State.fsat_clk (s : State) (f : Fld) (n : Nat) : (s.fsat f n).clk = s.clk := rfl
@[simp] theorem State.fsat_time (s : State) (f : Fld) (n : Nat) : (s.fsat f n).time = s.time := rfl
@[simp] theorem State.fsat_mac (s : State) (f : Fld) (n : Nat) : (s.fsat f n).mac = s.mac := rfl
@[simp] theorem State.fsat_dbg (s : State) (f : Fld) (n : Nat) : (s.fsat f n).dbg = s.dbg := rfl
@[simp] theorem State.fsat_mgc (s : State) (f : Fld) (n : Nat) : (s.fsat f n).mgc = s.mgc := rfl
@[simp] theorem State.fsat_fuses (s : State) (f : Fld) (n : Nat) : (s.fsat f n).fuses = s.fuses := rfl
@[simp] theorem State.fsat_hqe (s : State) (f : Fld) (n : Nat) : (s.fsat f n).hqe = s.hqe := rfl
@[simp] theorem State.fsat_cfg (s : State) (f : Fld) (n : Nat) : (s.fsat f n).cfg = s.cfg := rfl
@[simp] theorem State.fsat_spr (s : State) (f : Fld) (n : Nat) : (s.fsat f n).spr = s.spr := rfl
@[simp] theorem State.fsat_ptm (s : State) (f : Fld) (n : Nat) : (s.fsat f n).ptm = s.ptm := rfl
@[simp] theorem State.fsat_away (s : State) (f : Fld) (n : Nat) : (s.fsat f n).away = s.away := rfl
@[simp] theorem State.fsat_smbus (s : State) (f : Fld) (n : Nat) : (s.fsat f n).smbus = s.smbus := rfl
@[simp] theorem State.fsat_powerGood (s : State) (f : Fld) (n : Nat) : (s.fsat f n).powerGood = s.powerGood := rfl
@[simp] theorem State.fsat_straps (s : State) (f : Fld) (n : Nat) : (s.fsat f n).straps = s.straps := rfl
@[simp] theorem State.fsat_answer (s : State) (f : Fld) (n : Nat) : (s.fsat f n).answer = s.answer := rfl
@[simp] theorem State.fsat_free (s : State) (f : Fld) (n : Nat) : (s.fsat f n).free = s.free := rfl

@[simp] theorem State.setTin_pending (s : State) (k : Nat) (x : Tin) : (s.setTin k x).pending = s.pending := rfl
@[simp] theorem State.setTin_regs (s : State) (k : Nat) (x : Tin) : (s.setTin k x).regs = s.regs := rfl
@[simp] theorem State.setTin_events (s : State) (k : Nat) (x : Tin) : (s.setTin k x).events = s.events := rfl
@[simp] theorem State.setTin_now (s : State) (k : Nat) (x : Tin) : (s.setTin k x).now = s.now := rfl
@[simp] theorem State.setTin_roles (s : State) (k : Nat) (x : Tin) : (s.setTin k x).roles = s.roles := rfl
@[simp] theorem State.setTin_ring (s : State) (k : Nat) (x : Tin) : (s.setTin k x).ring = s.ring := rfl
@[simp] theorem State.setTin_laneIn (s : State) (k : Nat) (x : Tin) : (s.setTin k x).laneIn = s.laneIn := rfl
@[simp] theorem State.setTin_laneOut (s : State) (k : Nat) (x : Tin) : (s.setTin k x).laneOut = s.laneOut := rfl
@[simp] theorem State.setTin_seamCh (s : State) (k : Nat) (x : Tin) : (s.setTin k x).seamCh = s.seamCh := rfl
@[simp] theorem State.setTin_dozens (s : State) (k : Nat) (x : Tin) : (s.setTin k x).dozens = s.dozens := rfl
@[simp] theorem State.setTin_bench (s : State) (k : Nat) (x : Tin) : (s.setTin k x).bench = s.bench := rfl
@[simp] theorem State.setTin_foldMap (s : State) (k : Nat) (x : Tin) : (s.setTin k x).foldMap = s.foldMap := rfl
@[simp] theorem State.setTin_kept (s : State) (k : Nat) (x : Tin) : (s.setTin k x).kept = s.kept := rfl
@[simp] theorem State.setTin_dieCopy (s : State) (k : Nat) (x : Tin) : (s.setTin k x).dieCopy = s.dieCopy := rfl
@[simp] theorem State.setTin_dueSeq (s : State) (k : Nat) (x : Tin) : (s.setTin k x).dueSeq = s.dueSeq := rfl
@[simp] theorem State.setTin_vgoal (s : State) (k : Nat) (x : Tin) : (s.setTin k x).vgoal = s.vgoal := rfl
@[simp] theorem State.setTin_larder (s : State) (k : Nat) (x : Tin) : (s.setTin k x).larder = s.larder := rfl
@[simp] theorem State.setTin_pool (s : State) (k : Nat) (x : Tin) : (s.setTin k x).pool = s.pool := rfl
@[simp] theorem State.setTin_corr (s : State) (k : Nat) (x : Tin) : (s.setTin k x).corr = s.corr := rfl
@[simp] theorem State.setTin_noc (s : State) (k : Nat) (x : Tin) : (s.setTin k x).noc = s.noc := rfl
@[simp] theorem State.setTin_dram (s : State) (k : Nat) (x : Tin) : (s.setTin k x).dram = s.dram := rfl
@[simp] theorem State.setTin_breadbox (s : State) (k : Nat) (x : Tin) : (s.setTin k x).breadbox = s.breadbox := rfl
@[simp] theorem State.setTin_pads (s : State) (k : Nat) (x : Tin) : (s.setTin k x).pads = s.pads := rfl
@[simp] theorem State.setTin_lanes (s : State) (k : Nat) (x : Tin) : (s.setTin k x).lanes = s.lanes := rfl
@[simp] theorem State.setTin_eqTable (s : State) (k : Nat) (x : Tin) : (s.setTin k x).eqTable = s.eqTable := rfl
@[simp] theorem State.setTin_clk (s : State) (k : Nat) (x : Tin) : (s.setTin k x).clk = s.clk := rfl
@[simp] theorem State.setTin_time (s : State) (k : Nat) (x : Tin) : (s.setTin k x).time = s.time := rfl
@[simp] theorem State.setTin_mac (s : State) (k : Nat) (x : Tin) : (s.setTin k x).mac = s.mac := rfl
@[simp] theorem State.setTin_dbg (s : State) (k : Nat) (x : Tin) : (s.setTin k x).dbg = s.dbg := rfl
@[simp] theorem State.setTin_mgc (s : State) (k : Nat) (x : Tin) : (s.setTin k x).mgc = s.mgc := rfl
@[simp] theorem State.setTin_fuses (s : State) (k : Nat) (x : Tin) : (s.setTin k x).fuses = s.fuses := rfl
@[simp] theorem State.setTin_hqe (s : State) (k : Nat) (x : Tin) : (s.setTin k x).hqe = s.hqe := rfl
@[simp] theorem State.setTin_cfg (s : State) (k : Nat) (x : Tin) : (s.setTin k x).cfg = s.cfg := rfl
@[simp] theorem State.setTin_spr (s : State) (k : Nat) (x : Tin) : (s.setTin k x).spr = s.spr := rfl
@[simp] theorem State.setTin_ptm (s : State) (k : Nat) (x : Tin) : (s.setTin k x).ptm = s.ptm := rfl
@[simp] theorem State.setTin_away (s : State) (k : Nat) (x : Tin) : (s.setTin k x).away = s.away := rfl
@[simp] theorem State.setTin_smbus (s : State) (k : Nat) (x : Tin) : (s.setTin k x).smbus = s.smbus := rfl
@[simp] theorem State.setTin_powerGood (s : State) (k : Nat) (x : Tin) : (s.setTin k x).powerGood = s.powerGood := rfl
@[simp] theorem State.setTin_straps (s : State) (k : Nat) (x : Tin) : (s.setTin k x).straps = s.straps := rfl
@[simp] theorem State.setTin_answer (s : State) (k : Nat) (x : Tin) : (s.setTin k x).answer = s.answer := rfl
@[simp] theorem State.setTin_free (s : State) (k : Nat) (x : Tin) : (s.setTin k x).free = s.free := rfl

@[simp] theorem State.post_pending (s : State) (c v : Nat) (d : Option Nat) (u a b : Nat) : (s.post c v d u a b).pending = s.pending := rfl
@[simp] theorem State.post_regs (s : State) (c v : Nat) (d : Option Nat) (u a b : Nat) : (s.post c v d u a b).regs = s.regs := rfl
@[simp] theorem State.post_now (s : State) (c v : Nat) (d : Option Nat) (u a b : Nat) : (s.post c v d u a b).now = s.now := rfl
@[simp] theorem State.post_roles (s : State) (c v : Nat) (d : Option Nat) (u a b : Nat) : (s.post c v d u a b).roles = s.roles := rfl
@[simp] theorem State.post_tins (s : State) (c v : Nat) (d : Option Nat) (u a b : Nat) : (s.post c v d u a b).tins = s.tins := rfl
@[simp] theorem State.post_ring (s : State) (c v : Nat) (d : Option Nat) (u a b : Nat) : (s.post c v d u a b).ring = s.ring := rfl
@[simp] theorem State.post_laneIn (s : State) (c v : Nat) (d : Option Nat) (u a b : Nat) : (s.post c v d u a b).laneIn = s.laneIn := rfl
@[simp] theorem State.post_laneOut (s : State) (c v : Nat) (d : Option Nat) (u a b : Nat) : (s.post c v d u a b).laneOut = s.laneOut := rfl
@[simp] theorem State.post_seamCh (s : State) (c v : Nat) (d : Option Nat) (u a b : Nat) : (s.post c v d u a b).seamCh = s.seamCh := rfl
@[simp] theorem State.post_dozens (s : State) (c v : Nat) (d : Option Nat) (u a b : Nat) : (s.post c v d u a b).dozens = s.dozens := rfl
@[simp] theorem State.post_bench (s : State) (c v : Nat) (d : Option Nat) (u a b : Nat) : (s.post c v d u a b).bench = s.bench := rfl
@[simp] theorem State.post_foldMap (s : State) (c v : Nat) (d : Option Nat) (u a b : Nat) : (s.post c v d u a b).foldMap = s.foldMap := rfl
@[simp] theorem State.post_kept (s : State) (c v : Nat) (d : Option Nat) (u a b : Nat) : (s.post c v d u a b).kept = s.kept := rfl
@[simp] theorem State.post_dieCopy (s : State) (c v : Nat) (d : Option Nat) (u a b : Nat) : (s.post c v d u a b).dieCopy = s.dieCopy := rfl
@[simp] theorem State.post_dueSeq (s : State) (c v : Nat) (d : Option Nat) (u a b : Nat) : (s.post c v d u a b).dueSeq = s.dueSeq := rfl
@[simp] theorem State.post_vgoal (s : State) (c v : Nat) (d : Option Nat) (u a b : Nat) : (s.post c v d u a b).vgoal = s.vgoal := rfl
@[simp] theorem State.post_larder (s : State) (c v : Nat) (d : Option Nat) (u a b : Nat) : (s.post c v d u a b).larder = s.larder := rfl
@[simp] theorem State.post_pool (s : State) (c v : Nat) (d : Option Nat) (u a b : Nat) : (s.post c v d u a b).pool = s.pool := rfl
@[simp] theorem State.post_corr (s : State) (c v : Nat) (d : Option Nat) (u a b : Nat) : (s.post c v d u a b).corr = s.corr := rfl
@[simp] theorem State.post_noc (s : State) (c v : Nat) (d : Option Nat) (u a b : Nat) : (s.post c v d u a b).noc = s.noc := rfl
@[simp] theorem State.post_dram (s : State) (c v : Nat) (d : Option Nat) (u a b : Nat) : (s.post c v d u a b).dram = s.dram := rfl
@[simp] theorem State.post_breadbox (s : State) (c v : Nat) (d : Option Nat) (u a b : Nat) : (s.post c v d u a b).breadbox = s.breadbox := rfl
@[simp] theorem State.post_pads (s : State) (c v : Nat) (d : Option Nat) (u a b : Nat) : (s.post c v d u a b).pads = s.pads := rfl
@[simp] theorem State.post_lanes (s : State) (c v : Nat) (d : Option Nat) (u a b : Nat) : (s.post c v d u a b).lanes = s.lanes := rfl
@[simp] theorem State.post_eqTable (s : State) (c v : Nat) (d : Option Nat) (u a b : Nat) : (s.post c v d u a b).eqTable = s.eqTable := rfl
@[simp] theorem State.post_clk (s : State) (c v : Nat) (d : Option Nat) (u a b : Nat) : (s.post c v d u a b).clk = s.clk := rfl
@[simp] theorem State.post_time (s : State) (c v : Nat) (d : Option Nat) (u a b : Nat) : (s.post c v d u a b).time = s.time := rfl
@[simp] theorem State.post_mac (s : State) (c v : Nat) (d : Option Nat) (u a b : Nat) : (s.post c v d u a b).mac = s.mac := rfl
@[simp] theorem State.post_dbg (s : State) (c v : Nat) (d : Option Nat) (u a b : Nat) : (s.post c v d u a b).dbg = s.dbg := rfl
@[simp] theorem State.post_mgc (s : State) (c v : Nat) (d : Option Nat) (u a b : Nat) : (s.post c v d u a b).mgc = s.mgc := rfl
@[simp] theorem State.post_fuses (s : State) (c v : Nat) (d : Option Nat) (u a b : Nat) : (s.post c v d u a b).fuses = s.fuses := rfl
@[simp] theorem State.post_hqe (s : State) (c v : Nat) (d : Option Nat) (u a b : Nat) : (s.post c v d u a b).hqe = s.hqe := rfl
@[simp] theorem State.post_cfg (s : State) (c v : Nat) (d : Option Nat) (u a b : Nat) : (s.post c v d u a b).cfg = s.cfg := rfl
@[simp] theorem State.post_spr (s : State) (c v : Nat) (d : Option Nat) (u a b : Nat) : (s.post c v d u a b).spr = s.spr := rfl
@[simp] theorem State.post_ptm (s : State) (c v : Nat) (d : Option Nat) (u a b : Nat) : (s.post c v d u a b).ptm = s.ptm := rfl
@[simp] theorem State.post_away (s : State) (c v : Nat) (d : Option Nat) (u a b : Nat) : (s.post c v d u a b).away = s.away := rfl
@[simp] theorem State.post_smbus (s : State) (c v : Nat) (d : Option Nat) (u a b : Nat) : (s.post c v d u a b).smbus = s.smbus := rfl
@[simp] theorem State.post_powerGood (s : State) (c v : Nat) (d : Option Nat) (u a b : Nat) : (s.post c v d u a b).powerGood = s.powerGood := rfl
@[simp] theorem State.post_straps (s : State) (c v : Nat) (d : Option Nat) (u a b : Nat) : (s.post c v d u a b).straps = s.straps := rfl
@[simp] theorem State.post_answer (s : State) (c v : Nat) (d : Option Nat) (u a b : Nat) : (s.post c v d u a b).answer = s.answer := rfl
@[simp] theorem State.post_free (s : State) (c v : Nat) (d : Option Nat) (u a b : Nat) : (s.post c v d u a b).free = s.free := rfl

@[simp] theorem State.takeFree_pending (s : State) (n : Nat) : (s.takeFree n).2.pending = s.pending := rfl
@[simp] theorem State.takeFree_regs (s : State) (n : Nat) : (s.takeFree n).2.regs = s.regs := rfl
@[simp] theorem State.takeFree_events (s : State) (n : Nat) : (s.takeFree n).2.events = s.events := rfl
@[simp] theorem State.takeFree_now (s : State) (n : Nat) : (s.takeFree n).2.now = s.now := rfl
@[simp] theorem State.takeFree_roles (s : State) (n : Nat) : (s.takeFree n).2.roles = s.roles := rfl
@[simp] theorem State.takeFree_tins (s : State) (n : Nat) : (s.takeFree n).2.tins = s.tins := rfl
@[simp] theorem State.takeFree_ring (s : State) (n : Nat) : (s.takeFree n).2.ring = s.ring := rfl
@[simp] theorem State.takeFree_laneIn (s : State) (n : Nat) : (s.takeFree n).2.laneIn = s.laneIn := rfl
@[simp] theorem State.takeFree_laneOut (s : State) (n : Nat) : (s.takeFree n).2.laneOut = s.laneOut := rfl
@[simp] theorem State.takeFree_seamCh (s : State) (n : Nat) : (s.takeFree n).2.seamCh = s.seamCh := rfl
@[simp] theorem State.takeFree_dozens (s : State) (n : Nat) : (s.takeFree n).2.dozens = s.dozens := rfl
@[simp] theorem State.takeFree_bench (s : State) (n : Nat) : (s.takeFree n).2.bench = s.bench := rfl
@[simp] theorem State.takeFree_foldMap (s : State) (n : Nat) : (s.takeFree n).2.foldMap = s.foldMap := rfl
@[simp] theorem State.takeFree_kept (s : State) (n : Nat) : (s.takeFree n).2.kept = s.kept := rfl
@[simp] theorem State.takeFree_dieCopy (s : State) (n : Nat) : (s.takeFree n).2.dieCopy = s.dieCopy := rfl
@[simp] theorem State.takeFree_dueSeq (s : State) (n : Nat) : (s.takeFree n).2.dueSeq = s.dueSeq := rfl
@[simp] theorem State.takeFree_vgoal (s : State) (n : Nat) : (s.takeFree n).2.vgoal = s.vgoal := rfl
@[simp] theorem State.takeFree_larder (s : State) (n : Nat) : (s.takeFree n).2.larder = s.larder := rfl
@[simp] theorem State.takeFree_pool (s : State) (n : Nat) : (s.takeFree n).2.pool = s.pool := rfl
@[simp] theorem State.takeFree_corr (s : State) (n : Nat) : (s.takeFree n).2.corr = s.corr := rfl
@[simp] theorem State.takeFree_noc (s : State) (n : Nat) : (s.takeFree n).2.noc = s.noc := rfl
@[simp] theorem State.takeFree_dram (s : State) (n : Nat) : (s.takeFree n).2.dram = s.dram := rfl
@[simp] theorem State.takeFree_breadbox (s : State) (n : Nat) : (s.takeFree n).2.breadbox = s.breadbox := rfl
@[simp] theorem State.takeFree_pads (s : State) (n : Nat) : (s.takeFree n).2.pads = s.pads := rfl
@[simp] theorem State.takeFree_lanes (s : State) (n : Nat) : (s.takeFree n).2.lanes = s.lanes := rfl
@[simp] theorem State.takeFree_eqTable (s : State) (n : Nat) : (s.takeFree n).2.eqTable = s.eqTable := rfl
@[simp] theorem State.takeFree_clk (s : State) (n : Nat) : (s.takeFree n).2.clk = s.clk := rfl
@[simp] theorem State.takeFree_time (s : State) (n : Nat) : (s.takeFree n).2.time = s.time := rfl
@[simp] theorem State.takeFree_mac (s : State) (n : Nat) : (s.takeFree n).2.mac = s.mac := rfl
@[simp] theorem State.takeFree_dbg (s : State) (n : Nat) : (s.takeFree n).2.dbg = s.dbg := rfl
@[simp] theorem State.takeFree_mgc (s : State) (n : Nat) : (s.takeFree n).2.mgc = s.mgc := rfl
@[simp] theorem State.takeFree_fuses (s : State) (n : Nat) : (s.takeFree n).2.fuses = s.fuses := rfl
@[simp] theorem State.takeFree_hqe (s : State) (n : Nat) : (s.takeFree n).2.hqe = s.hqe := rfl
@[simp] theorem State.takeFree_cfg (s : State) (n : Nat) : (s.takeFree n).2.cfg = s.cfg := rfl
@[simp] theorem State.takeFree_spr (s : State) (n : Nat) : (s.takeFree n).2.spr = s.spr := rfl
@[simp] theorem State.takeFree_ptm (s : State) (n : Nat) : (s.takeFree n).2.ptm = s.ptm := rfl
@[simp] theorem State.takeFree_away (s : State) (n : Nat) : (s.takeFree n).2.away = s.away := rfl
@[simp] theorem State.takeFree_smbus (s : State) (n : Nat) : (s.takeFree n).2.smbus = s.smbus := rfl
@[simp] theorem State.takeFree_powerGood (s : State) (n : Nat) : (s.takeFree n).2.powerGood = s.powerGood := rfl
@[simp] theorem State.takeFree_straps (s : State) (n : Nat) : (s.takeFree n).2.straps = s.straps := rfl
@[simp] theorem State.takeFree_answer (s : State) (n : Nat) : (s.takeFree n).2.answer = s.answer := rfl

@[simp] theorem State.countCorr_pending (s : State) (n : Nat) : (s.countCorr n).pending = s.pending := rfl
@[simp] theorem State.countCorr_regs (s : State) (n : Nat) : (s.countCorr n).regs = s.regs := rfl
@[simp] theorem State.countCorr_events (s : State) (n : Nat) : (s.countCorr n).events = s.events := rfl
@[simp] theorem State.countCorr_now (s : State) (n : Nat) : (s.countCorr n).now = s.now := rfl
@[simp] theorem State.countCorr_roles (s : State) (n : Nat) : (s.countCorr n).roles = s.roles := rfl
@[simp] theorem State.countCorr_tins (s : State) (n : Nat) : (s.countCorr n).tins = s.tins := rfl
@[simp] theorem State.countCorr_ring (s : State) (n : Nat) : (s.countCorr n).ring = s.ring := rfl
@[simp] theorem State.countCorr_laneIn (s : State) (n : Nat) : (s.countCorr n).laneIn = s.laneIn := rfl
@[simp] theorem State.countCorr_laneOut (s : State) (n : Nat) : (s.countCorr n).laneOut = s.laneOut := rfl
@[simp] theorem State.countCorr_seamCh (s : State) (n : Nat) : (s.countCorr n).seamCh = s.seamCh := rfl
@[simp] theorem State.countCorr_dozens (s : State) (n : Nat) : (s.countCorr n).dozens = s.dozens := rfl
@[simp] theorem State.countCorr_bench (s : State) (n : Nat) : (s.countCorr n).bench = s.bench := rfl
@[simp] theorem State.countCorr_foldMap (s : State) (n : Nat) : (s.countCorr n).foldMap = s.foldMap := rfl
@[simp] theorem State.countCorr_kept (s : State) (n : Nat) : (s.countCorr n).kept = s.kept := rfl
@[simp] theorem State.countCorr_dieCopy (s : State) (n : Nat) : (s.countCorr n).dieCopy = s.dieCopy := rfl
@[simp] theorem State.countCorr_dueSeq (s : State) (n : Nat) : (s.countCorr n).dueSeq = s.dueSeq := rfl
@[simp] theorem State.countCorr_vgoal (s : State) (n : Nat) : (s.countCorr n).vgoal = s.vgoal := rfl
@[simp] theorem State.countCorr_larder (s : State) (n : Nat) : (s.countCorr n).larder = s.larder := rfl
@[simp] theorem State.countCorr_pool (s : State) (n : Nat) : (s.countCorr n).pool = s.pool := rfl
@[simp] theorem State.countCorr_noc (s : State) (n : Nat) : (s.countCorr n).noc = s.noc := rfl
@[simp] theorem State.countCorr_dram (s : State) (n : Nat) : (s.countCorr n).dram = s.dram := rfl
@[simp] theorem State.countCorr_breadbox (s : State) (n : Nat) : (s.countCorr n).breadbox = s.breadbox := rfl
@[simp] theorem State.countCorr_pads (s : State) (n : Nat) : (s.countCorr n).pads = s.pads := rfl
@[simp] theorem State.countCorr_lanes (s : State) (n : Nat) : (s.countCorr n).lanes = s.lanes := rfl
@[simp] theorem State.countCorr_eqTable (s : State) (n : Nat) : (s.countCorr n).eqTable = s.eqTable := rfl
@[simp] theorem State.countCorr_clk (s : State) (n : Nat) : (s.countCorr n).clk = s.clk := rfl
@[simp] theorem State.countCorr_time (s : State) (n : Nat) : (s.countCorr n).time = s.time := rfl
@[simp] theorem State.countCorr_mac (s : State) (n : Nat) : (s.countCorr n).mac = s.mac := rfl
@[simp] theorem State.countCorr_dbg (s : State) (n : Nat) : (s.countCorr n).dbg = s.dbg := rfl
@[simp] theorem State.countCorr_mgc (s : State) (n : Nat) : (s.countCorr n).mgc = s.mgc := rfl
@[simp] theorem State.countCorr_fuses (s : State) (n : Nat) : (s.countCorr n).fuses = s.fuses := rfl
@[simp] theorem State.countCorr_hqe (s : State) (n : Nat) : (s.countCorr n).hqe = s.hqe := rfl
@[simp] theorem State.countCorr_cfg (s : State) (n : Nat) : (s.countCorr n).cfg = s.cfg := rfl
@[simp] theorem State.countCorr_spr (s : State) (n : Nat) : (s.countCorr n).spr = s.spr := rfl
@[simp] theorem State.countCorr_ptm (s : State) (n : Nat) : (s.countCorr n).ptm = s.ptm := rfl
@[simp] theorem State.countCorr_away (s : State) (n : Nat) : (s.countCorr n).away = s.away := rfl
@[simp] theorem State.countCorr_smbus (s : State) (n : Nat) : (s.countCorr n).smbus = s.smbus := rfl
@[simp] theorem State.countCorr_powerGood (s : State) (n : Nat) : (s.countCorr n).powerGood = s.powerGood := rfl
@[simp] theorem State.countCorr_straps (s : State) (n : Nat) : (s.countCorr n).straps = s.straps := rfl
@[simp] theorem State.countCorr_answer (s : State) (n : Nat) : (s.countCorr n).answer = s.answer := rfl
@[simp] theorem State.countCorr_free (s : State) (n : Nat) : (s.countCorr n).free = s.free := rfl

@[simp] theorem State.launch_pending (s : State) (p : Packet) (l : Nat) : (s.launch p l).pending = s.pending := rfl
@[simp] theorem State.launch_regs (s : State) (p : Packet) (l : Nat) : (s.launch p l).regs = s.regs := rfl
@[simp] theorem State.launch_events (s : State) (p : Packet) (l : Nat) : (s.launch p l).events = s.events := rfl
@[simp] theorem State.launch_now (s : State) (p : Packet) (l : Nat) : (s.launch p l).now = s.now := rfl
@[simp] theorem State.launch_roles (s : State) (p : Packet) (l : Nat) : (s.launch p l).roles = s.roles := rfl
@[simp] theorem State.launch_tins (s : State) (p : Packet) (l : Nat) : (s.launch p l).tins = s.tins := rfl
@[simp] theorem State.launch_ring (s : State) (p : Packet) (l : Nat) : (s.launch p l).ring = s.ring := rfl
@[simp] theorem State.launch_laneIn (s : State) (p : Packet) (l : Nat) : (s.launch p l).laneIn = s.laneIn := rfl
@[simp] theorem State.launch_laneOut (s : State) (p : Packet) (l : Nat) : (s.launch p l).laneOut = s.laneOut := rfl
@[simp] theorem State.launch_seamCh (s : State) (p : Packet) (l : Nat) : (s.launch p l).seamCh = s.seamCh := rfl
@[simp] theorem State.launch_dozens (s : State) (p : Packet) (l : Nat) : (s.launch p l).dozens = s.dozens := rfl
@[simp] theorem State.launch_bench (s : State) (p : Packet) (l : Nat) : (s.launch p l).bench = s.bench := rfl
@[simp] theorem State.launch_foldMap (s : State) (p : Packet) (l : Nat) : (s.launch p l).foldMap = s.foldMap := rfl
@[simp] theorem State.launch_kept (s : State) (p : Packet) (l : Nat) : (s.launch p l).kept = s.kept := rfl
@[simp] theorem State.launch_dieCopy (s : State) (p : Packet) (l : Nat) : (s.launch p l).dieCopy = s.dieCopy := rfl
@[simp] theorem State.launch_dueSeq (s : State) (p : Packet) (l : Nat) : (s.launch p l).dueSeq = s.dueSeq := rfl
@[simp] theorem State.launch_vgoal (s : State) (p : Packet) (l : Nat) : (s.launch p l).vgoal = s.vgoal := rfl
@[simp] theorem State.launch_larder (s : State) (p : Packet) (l : Nat) : (s.launch p l).larder = s.larder := rfl
@[simp] theorem State.launch_pool (s : State) (p : Packet) (l : Nat) : (s.launch p l).pool = s.pool := rfl
@[simp] theorem State.launch_corr (s : State) (p : Packet) (l : Nat) : (s.launch p l).corr = s.corr := rfl
@[simp] theorem State.launch_dram (s : State) (p : Packet) (l : Nat) : (s.launch p l).dram = s.dram := rfl
@[simp] theorem State.launch_breadbox (s : State) (p : Packet) (l : Nat) : (s.launch p l).breadbox = s.breadbox := rfl
@[simp] theorem State.launch_pads (s : State) (p : Packet) (l : Nat) : (s.launch p l).pads = s.pads := rfl
@[simp] theorem State.launch_lanes (s : State) (p : Packet) (l : Nat) : (s.launch p l).lanes = s.lanes := rfl
@[simp] theorem State.launch_eqTable (s : State) (p : Packet) (l : Nat) : (s.launch p l).eqTable = s.eqTable := rfl
@[simp] theorem State.launch_clk (s : State) (p : Packet) (l : Nat) : (s.launch p l).clk = s.clk := rfl
@[simp] theorem State.launch_time (s : State) (p : Packet) (l : Nat) : (s.launch p l).time = s.time := rfl
@[simp] theorem State.launch_mac (s : State) (p : Packet) (l : Nat) : (s.launch p l).mac = s.mac := rfl
@[simp] theorem State.launch_dbg (s : State) (p : Packet) (l : Nat) : (s.launch p l).dbg = s.dbg := rfl
@[simp] theorem State.launch_mgc (s : State) (p : Packet) (l : Nat) : (s.launch p l).mgc = s.mgc := rfl
@[simp] theorem State.launch_fuses (s : State) (p : Packet) (l : Nat) : (s.launch p l).fuses = s.fuses := rfl
@[simp] theorem State.launch_hqe (s : State) (p : Packet) (l : Nat) : (s.launch p l).hqe = s.hqe := rfl
@[simp] theorem State.launch_cfg (s : State) (p : Packet) (l : Nat) : (s.launch p l).cfg = s.cfg := rfl
@[simp] theorem State.launch_spr (s : State) (p : Packet) (l : Nat) : (s.launch p l).spr = s.spr := rfl
@[simp] theorem State.launch_ptm (s : State) (p : Packet) (l : Nat) : (s.launch p l).ptm = s.ptm := rfl
@[simp] theorem State.launch_away (s : State) (p : Packet) (l : Nat) : (s.launch p l).away = s.away := rfl
@[simp] theorem State.launch_smbus (s : State) (p : Packet) (l : Nat) : (s.launch p l).smbus = s.smbus := rfl
@[simp] theorem State.launch_powerGood (s : State) (p : Packet) (l : Nat) : (s.launch p l).powerGood = s.powerGood := rfl
@[simp] theorem State.launch_straps (s : State) (p : Packet) (l : Nat) : (s.launch p l).straps = s.straps := rfl
@[simp] theorem State.launch_answer (s : State) (p : Packet) (l : Nat) : (s.launch p l).answer = s.answer := rfl
@[simp] theorem State.launch_free (s : State) (p : Packet) (l : Nat) : (s.launch p l).free = s.free := rfl

@[simp] theorem State.dropFlight_pending (s : State) (f : Nat) : (s.dropFlight f).pending = s.pending := rfl
@[simp] theorem State.dropFlight_regs (s : State) (f : Nat) : (s.dropFlight f).regs = s.regs := rfl
@[simp] theorem State.dropFlight_events (s : State) (f : Nat) : (s.dropFlight f).events = s.events := rfl
@[simp] theorem State.dropFlight_now (s : State) (f : Nat) : (s.dropFlight f).now = s.now := rfl
@[simp] theorem State.dropFlight_roles (s : State) (f : Nat) : (s.dropFlight f).roles = s.roles := rfl
@[simp] theorem State.dropFlight_tins (s : State) (f : Nat) : (s.dropFlight f).tins = s.tins := rfl
@[simp] theorem State.dropFlight_ring (s : State) (f : Nat) : (s.dropFlight f).ring = s.ring := rfl
@[simp] theorem State.dropFlight_laneIn (s : State) (f : Nat) : (s.dropFlight f).laneIn = s.laneIn := rfl
@[simp] theorem State.dropFlight_laneOut (s : State) (f : Nat) : (s.dropFlight f).laneOut = s.laneOut := rfl
@[simp] theorem State.dropFlight_seamCh (s : State) (f : Nat) : (s.dropFlight f).seamCh = s.seamCh := rfl
@[simp] theorem State.dropFlight_dozens (s : State) (f : Nat) : (s.dropFlight f).dozens = s.dozens := rfl
@[simp] theorem State.dropFlight_bench (s : State) (f : Nat) : (s.dropFlight f).bench = s.bench := rfl
@[simp] theorem State.dropFlight_foldMap (s : State) (f : Nat) : (s.dropFlight f).foldMap = s.foldMap := rfl
@[simp] theorem State.dropFlight_kept (s : State) (f : Nat) : (s.dropFlight f).kept = s.kept := rfl
@[simp] theorem State.dropFlight_dieCopy (s : State) (f : Nat) : (s.dropFlight f).dieCopy = s.dieCopy := rfl
@[simp] theorem State.dropFlight_dueSeq (s : State) (f : Nat) : (s.dropFlight f).dueSeq = s.dueSeq := rfl
@[simp] theorem State.dropFlight_vgoal (s : State) (f : Nat) : (s.dropFlight f).vgoal = s.vgoal := rfl
@[simp] theorem State.dropFlight_larder (s : State) (f : Nat) : (s.dropFlight f).larder = s.larder := rfl
@[simp] theorem State.dropFlight_pool (s : State) (f : Nat) : (s.dropFlight f).pool = s.pool := rfl
@[simp] theorem State.dropFlight_corr (s : State) (f : Nat) : (s.dropFlight f).corr = s.corr := rfl
@[simp] theorem State.dropFlight_dram (s : State) (f : Nat) : (s.dropFlight f).dram = s.dram := rfl
@[simp] theorem State.dropFlight_breadbox (s : State) (f : Nat) : (s.dropFlight f).breadbox = s.breadbox := rfl
@[simp] theorem State.dropFlight_pads (s : State) (f : Nat) : (s.dropFlight f).pads = s.pads := rfl
@[simp] theorem State.dropFlight_lanes (s : State) (f : Nat) : (s.dropFlight f).lanes = s.lanes := rfl
@[simp] theorem State.dropFlight_eqTable (s : State) (f : Nat) : (s.dropFlight f).eqTable = s.eqTable := rfl
@[simp] theorem State.dropFlight_clk (s : State) (f : Nat) : (s.dropFlight f).clk = s.clk := rfl
@[simp] theorem State.dropFlight_time (s : State) (f : Nat) : (s.dropFlight f).time = s.time := rfl
@[simp] theorem State.dropFlight_mac (s : State) (f : Nat) : (s.dropFlight f).mac = s.mac := rfl
@[simp] theorem State.dropFlight_dbg (s : State) (f : Nat) : (s.dropFlight f).dbg = s.dbg := rfl
@[simp] theorem State.dropFlight_mgc (s : State) (f : Nat) : (s.dropFlight f).mgc = s.mgc := rfl
@[simp] theorem State.dropFlight_fuses (s : State) (f : Nat) : (s.dropFlight f).fuses = s.fuses := rfl
@[simp] theorem State.dropFlight_hqe (s : State) (f : Nat) : (s.dropFlight f).hqe = s.hqe := rfl
@[simp] theorem State.dropFlight_cfg (s : State) (f : Nat) : (s.dropFlight f).cfg = s.cfg := rfl
@[simp] theorem State.dropFlight_spr (s : State) (f : Nat) : (s.dropFlight f).spr = s.spr := rfl
@[simp] theorem State.dropFlight_ptm (s : State) (f : Nat) : (s.dropFlight f).ptm = s.ptm := rfl
@[simp] theorem State.dropFlight_away (s : State) (f : Nat) : (s.dropFlight f).away = s.away := rfl
@[simp] theorem State.dropFlight_smbus (s : State) (f : Nat) : (s.dropFlight f).smbus = s.smbus := rfl
@[simp] theorem State.dropFlight_powerGood (s : State) (f : Nat) : (s.dropFlight f).powerGood = s.powerGood := rfl
@[simp] theorem State.dropFlight_straps (s : State) (f : Nat) : (s.dropFlight f).straps = s.straps := rfl
@[simp] theorem State.dropFlight_answer (s : State) (f : Nat) : (s.dropFlight f).answer = s.answer := rfl
@[simp] theorem State.dropFlight_free (s : State) (f : Nat) : (s.dropFlight f).free = s.free := rfl

@[simp] theorem State.setChan_pending (s : State) (c : Nat) (v : ChanSt) : (s.setChan c v).pending = s.pending := rfl
@[simp] theorem State.setChan_regs (s : State) (c : Nat) (v : ChanSt) : (s.setChan c v).regs = s.regs := rfl
@[simp] theorem State.setChan_events (s : State) (c : Nat) (v : ChanSt) : (s.setChan c v).events = s.events := rfl
@[simp] theorem State.setChan_now (s : State) (c : Nat) (v : ChanSt) : (s.setChan c v).now = s.now := rfl
@[simp] theorem State.setChan_roles (s : State) (c : Nat) (v : ChanSt) : (s.setChan c v).roles = s.roles := rfl
@[simp] theorem State.setChan_tins (s : State) (c : Nat) (v : ChanSt) : (s.setChan c v).tins = s.tins := rfl
@[simp] theorem State.setChan_ring (s : State) (c : Nat) (v : ChanSt) : (s.setChan c v).ring = s.ring := rfl
@[simp] theorem State.setChan_laneIn (s : State) (c : Nat) (v : ChanSt) : (s.setChan c v).laneIn = s.laneIn := rfl
@[simp] theorem State.setChan_laneOut (s : State) (c : Nat) (v : ChanSt) : (s.setChan c v).laneOut = s.laneOut := rfl
@[simp] theorem State.setChan_seamCh (s : State) (c : Nat) (v : ChanSt) : (s.setChan c v).seamCh = s.seamCh := rfl
@[simp] theorem State.setChan_dozens (s : State) (c : Nat) (v : ChanSt) : (s.setChan c v).dozens = s.dozens := rfl
@[simp] theorem State.setChan_bench (s : State) (c : Nat) (v : ChanSt) : (s.setChan c v).bench = s.bench := rfl
@[simp] theorem State.setChan_foldMap (s : State) (c : Nat) (v : ChanSt) : (s.setChan c v).foldMap = s.foldMap := rfl
@[simp] theorem State.setChan_kept (s : State) (c : Nat) (v : ChanSt) : (s.setChan c v).kept = s.kept := rfl
@[simp] theorem State.setChan_dieCopy (s : State) (c : Nat) (v : ChanSt) : (s.setChan c v).dieCopy = s.dieCopy := rfl
@[simp] theorem State.setChan_dueSeq (s : State) (c : Nat) (v : ChanSt) : (s.setChan c v).dueSeq = s.dueSeq := rfl
@[simp] theorem State.setChan_vgoal (s : State) (c : Nat) (v : ChanSt) : (s.setChan c v).vgoal = s.vgoal := rfl
@[simp] theorem State.setChan_larder (s : State) (c : Nat) (v : ChanSt) : (s.setChan c v).larder = s.larder := rfl
@[simp] theorem State.setChan_pool (s : State) (c : Nat) (v : ChanSt) : (s.setChan c v).pool = s.pool := rfl
@[simp] theorem State.setChan_corr (s : State) (c : Nat) (v : ChanSt) : (s.setChan c v).corr = s.corr := rfl
@[simp] theorem State.setChan_noc (s : State) (c : Nat) (v : ChanSt) : (s.setChan c v).noc = s.noc := rfl
@[simp] theorem State.setChan_breadbox (s : State) (c : Nat) (v : ChanSt) : (s.setChan c v).breadbox = s.breadbox := rfl
@[simp] theorem State.setChan_pads (s : State) (c : Nat) (v : ChanSt) : (s.setChan c v).pads = s.pads := rfl
@[simp] theorem State.setChan_lanes (s : State) (c : Nat) (v : ChanSt) : (s.setChan c v).lanes = s.lanes := rfl
@[simp] theorem State.setChan_eqTable (s : State) (c : Nat) (v : ChanSt) : (s.setChan c v).eqTable = s.eqTable := rfl
@[simp] theorem State.setChan_clk (s : State) (c : Nat) (v : ChanSt) : (s.setChan c v).clk = s.clk := rfl
@[simp] theorem State.setChan_time (s : State) (c : Nat) (v : ChanSt) : (s.setChan c v).time = s.time := rfl
@[simp] theorem State.setChan_mac (s : State) (c : Nat) (v : ChanSt) : (s.setChan c v).mac = s.mac := rfl
@[simp] theorem State.setChan_dbg (s : State) (c : Nat) (v : ChanSt) : (s.setChan c v).dbg = s.dbg := rfl
@[simp] theorem State.setChan_mgc (s : State) (c : Nat) (v : ChanSt) : (s.setChan c v).mgc = s.mgc := rfl
@[simp] theorem State.setChan_fuses (s : State) (c : Nat) (v : ChanSt) : (s.setChan c v).fuses = s.fuses := rfl
@[simp] theorem State.setChan_hqe (s : State) (c : Nat) (v : ChanSt) : (s.setChan c v).hqe = s.hqe := rfl
@[simp] theorem State.setChan_cfg (s : State) (c : Nat) (v : ChanSt) : (s.setChan c v).cfg = s.cfg := rfl
@[simp] theorem State.setChan_spr (s : State) (c : Nat) (v : ChanSt) : (s.setChan c v).spr = s.spr := rfl
@[simp] theorem State.setChan_ptm (s : State) (c : Nat) (v : ChanSt) : (s.setChan c v).ptm = s.ptm := rfl
@[simp] theorem State.setChan_away (s : State) (c : Nat) (v : ChanSt) : (s.setChan c v).away = s.away := rfl
@[simp] theorem State.setChan_smbus (s : State) (c : Nat) (v : ChanSt) : (s.setChan c v).smbus = s.smbus := rfl
@[simp] theorem State.setChan_powerGood (s : State) (c : Nat) (v : ChanSt) : (s.setChan c v).powerGood = s.powerGood := rfl
@[simp] theorem State.setChan_straps (s : State) (c : Nat) (v : ChanSt) : (s.setChan c v).straps = s.straps := rfl
@[simp] theorem State.setChan_answer (s : State) (c : Nat) (v : ChanSt) : (s.setChan c v).answer = s.answer := rfl
@[simp] theorem State.setChan_free (s : State) (c : Nat) (v : ChanSt) : (s.setChan c v).free = s.free := rfl

@[simp] theorem State.setBank_pending (s : State) (b : Nat) (v : Bank) : (s.setBank b v).pending = s.pending := rfl
@[simp] theorem State.setBank_regs (s : State) (b : Nat) (v : Bank) : (s.setBank b v).regs = s.regs := rfl
@[simp] theorem State.setBank_events (s : State) (b : Nat) (v : Bank) : (s.setBank b v).events = s.events := rfl
@[simp] theorem State.setBank_now (s : State) (b : Nat) (v : Bank) : (s.setBank b v).now = s.now := rfl
@[simp] theorem State.setBank_roles (s : State) (b : Nat) (v : Bank) : (s.setBank b v).roles = s.roles := rfl
@[simp] theorem State.setBank_tins (s : State) (b : Nat) (v : Bank) : (s.setBank b v).tins = s.tins := rfl
@[simp] theorem State.setBank_ring (s : State) (b : Nat) (v : Bank) : (s.setBank b v).ring = s.ring := rfl
@[simp] theorem State.setBank_laneIn (s : State) (b : Nat) (v : Bank) : (s.setBank b v).laneIn = s.laneIn := rfl
@[simp] theorem State.setBank_laneOut (s : State) (b : Nat) (v : Bank) : (s.setBank b v).laneOut = s.laneOut := rfl
@[simp] theorem State.setBank_seamCh (s : State) (b : Nat) (v : Bank) : (s.setBank b v).seamCh = s.seamCh := rfl
@[simp] theorem State.setBank_dozens (s : State) (b : Nat) (v : Bank) : (s.setBank b v).dozens = s.dozens := rfl
@[simp] theorem State.setBank_bench (s : State) (b : Nat) (v : Bank) : (s.setBank b v).bench = s.bench := rfl
@[simp] theorem State.setBank_foldMap (s : State) (b : Nat) (v : Bank) : (s.setBank b v).foldMap = s.foldMap := rfl
@[simp] theorem State.setBank_kept (s : State) (b : Nat) (v : Bank) : (s.setBank b v).kept = s.kept := rfl
@[simp] theorem State.setBank_dieCopy (s : State) (b : Nat) (v : Bank) : (s.setBank b v).dieCopy = s.dieCopy := rfl
@[simp] theorem State.setBank_dueSeq (s : State) (b : Nat) (v : Bank) : (s.setBank b v).dueSeq = s.dueSeq := rfl
@[simp] theorem State.setBank_vgoal (s : State) (b : Nat) (v : Bank) : (s.setBank b v).vgoal = s.vgoal := rfl
@[simp] theorem State.setBank_pool (s : State) (b : Nat) (v : Bank) : (s.setBank b v).pool = s.pool := rfl
@[simp] theorem State.setBank_corr (s : State) (b : Nat) (v : Bank) : (s.setBank b v).corr = s.corr := rfl
@[simp] theorem State.setBank_noc (s : State) (b : Nat) (v : Bank) : (s.setBank b v).noc = s.noc := rfl
@[simp] theorem State.setBank_dram (s : State) (b : Nat) (v : Bank) : (s.setBank b v).dram = s.dram := rfl
@[simp] theorem State.setBank_breadbox (s : State) (b : Nat) (v : Bank) : (s.setBank b v).breadbox = s.breadbox := rfl
@[simp] theorem State.setBank_pads (s : State) (b : Nat) (v : Bank) : (s.setBank b v).pads = s.pads := rfl
@[simp] theorem State.setBank_lanes (s : State) (b : Nat) (v : Bank) : (s.setBank b v).lanes = s.lanes := rfl
@[simp] theorem State.setBank_eqTable (s : State) (b : Nat) (v : Bank) : (s.setBank b v).eqTable = s.eqTable := rfl
@[simp] theorem State.setBank_clk (s : State) (b : Nat) (v : Bank) : (s.setBank b v).clk = s.clk := rfl
@[simp] theorem State.setBank_time (s : State) (b : Nat) (v : Bank) : (s.setBank b v).time = s.time := rfl
@[simp] theorem State.setBank_mac (s : State) (b : Nat) (v : Bank) : (s.setBank b v).mac = s.mac := rfl
@[simp] theorem State.setBank_dbg (s : State) (b : Nat) (v : Bank) : (s.setBank b v).dbg = s.dbg := rfl
@[simp] theorem State.setBank_mgc (s : State) (b : Nat) (v : Bank) : (s.setBank b v).mgc = s.mgc := rfl
@[simp] theorem State.setBank_fuses (s : State) (b : Nat) (v : Bank) : (s.setBank b v).fuses = s.fuses := rfl
@[simp] theorem State.setBank_hqe (s : State) (b : Nat) (v : Bank) : (s.setBank b v).hqe = s.hqe := rfl
@[simp] theorem State.setBank_cfg (s : State) (b : Nat) (v : Bank) : (s.setBank b v).cfg = s.cfg := rfl
@[simp] theorem State.setBank_spr (s : State) (b : Nat) (v : Bank) : (s.setBank b v).spr = s.spr := rfl
@[simp] theorem State.setBank_ptm (s : State) (b : Nat) (v : Bank) : (s.setBank b v).ptm = s.ptm := rfl
@[simp] theorem State.setBank_away (s : State) (b : Nat) (v : Bank) : (s.setBank b v).away = s.away := rfl
@[simp] theorem State.setBank_smbus (s : State) (b : Nat) (v : Bank) : (s.setBank b v).smbus = s.smbus := rfl
@[simp] theorem State.setBank_powerGood (s : State) (b : Nat) (v : Bank) : (s.setBank b v).powerGood = s.powerGood := rfl
@[simp] theorem State.setBank_straps (s : State) (b : Nat) (v : Bank) : (s.setBank b v).straps = s.straps := rfl
@[simp] theorem State.setBank_answer (s : State) (b : Nat) (v : Bank) : (s.setBank b v).answer = s.answer := rfl
@[simp] theorem State.setBank_free (s : State) (b : Nat) (v : Bank) : (s.setBank b v).free = s.free := rfl

@[simp] theorem State.postLimited_pending (s : State) (k c v : Nat) (d : Option Nat) (u n : Nat) : (s.postLimited k c v d u n).pending = s.pending := by unfold State.postLimited; dsimp only; split <;> rfl
@[simp] theorem State.postLimited_regs (s : State) (k c v : Nat) (d : Option Nat) (u n : Nat) : (s.postLimited k c v d u n).regs = s.regs := by unfold State.postLimited; dsimp only; split <;> rfl
@[simp] theorem State.postLimited_now (s : State) (k c v : Nat) (d : Option Nat) (u n : Nat) : (s.postLimited k c v d u n).now = s.now := by unfold State.postLimited; dsimp only; split <;> rfl
@[simp] theorem State.postLimited_roles (s : State) (k c v : Nat) (d : Option Nat) (u n : Nat) : (s.postLimited k c v d u n).roles = s.roles := by unfold State.postLimited; dsimp only; split <;> rfl
@[simp] theorem State.postLimited_tins (s : State) (k c v : Nat) (d : Option Nat) (u n : Nat) : (s.postLimited k c v d u n).tins = s.tins := by unfold State.postLimited; dsimp only; split <;> rfl
@[simp] theorem State.postLimited_ring (s : State) (k c v : Nat) (d : Option Nat) (u n : Nat) : (s.postLimited k c v d u n).ring = s.ring := by unfold State.postLimited; dsimp only; split <;> rfl
@[simp] theorem State.postLimited_laneIn (s : State) (k c v : Nat) (d : Option Nat) (u n : Nat) : (s.postLimited k c v d u n).laneIn = s.laneIn := by unfold State.postLimited; dsimp only; split <;> rfl
@[simp] theorem State.postLimited_laneOut (s : State) (k c v : Nat) (d : Option Nat) (u n : Nat) : (s.postLimited k c v d u n).laneOut = s.laneOut := by unfold State.postLimited; dsimp only; split <;> rfl
@[simp] theorem State.postLimited_seamCh (s : State) (k c v : Nat) (d : Option Nat) (u n : Nat) : (s.postLimited k c v d u n).seamCh = s.seamCh := by unfold State.postLimited; dsimp only; split <;> rfl
@[simp] theorem State.postLimited_dozens (s : State) (k c v : Nat) (d : Option Nat) (u n : Nat) : (s.postLimited k c v d u n).dozens = s.dozens := by unfold State.postLimited; dsimp only; split <;> rfl
@[simp] theorem State.postLimited_bench (s : State) (k c v : Nat) (d : Option Nat) (u n : Nat) : (s.postLimited k c v d u n).bench = s.bench := by unfold State.postLimited; dsimp only; split <;> rfl
@[simp] theorem State.postLimited_foldMap (s : State) (k c v : Nat) (d : Option Nat) (u n : Nat) : (s.postLimited k c v d u n).foldMap = s.foldMap := by unfold State.postLimited; dsimp only; split <;> rfl
@[simp] theorem State.postLimited_kept (s : State) (k c v : Nat) (d : Option Nat) (u n : Nat) : (s.postLimited k c v d u n).kept = s.kept := by unfold State.postLimited; dsimp only; split <;> rfl
@[simp] theorem State.postLimited_dieCopy (s : State) (k c v : Nat) (d : Option Nat) (u n : Nat) : (s.postLimited k c v d u n).dieCopy = s.dieCopy := by unfold State.postLimited; dsimp only; split <;> rfl
@[simp] theorem State.postLimited_dueSeq (s : State) (k c v : Nat) (d : Option Nat) (u n : Nat) : (s.postLimited k c v d u n).dueSeq = s.dueSeq := by unfold State.postLimited; dsimp only; split <;> rfl
@[simp] theorem State.postLimited_vgoal (s : State) (k c v : Nat) (d : Option Nat) (u n : Nat) : (s.postLimited k c v d u n).vgoal = s.vgoal := by unfold State.postLimited; dsimp only; split <;> rfl
@[simp] theorem State.postLimited_larder (s : State) (k c v : Nat) (d : Option Nat) (u n : Nat) : (s.postLimited k c v d u n).larder = s.larder := by unfold State.postLimited; dsimp only; split <;> rfl
@[simp] theorem State.postLimited_pool (s : State) (k c v : Nat) (d : Option Nat) (u n : Nat) : (s.postLimited k c v d u n).pool = s.pool := by unfold State.postLimited; dsimp only; split <;> rfl
@[simp] theorem State.postLimited_corr (s : State) (k c v : Nat) (d : Option Nat) (u n : Nat) : (s.postLimited k c v d u n).corr = s.corr := by unfold State.postLimited; dsimp only; split <;> rfl
@[simp] theorem State.postLimited_noc (s : State) (k c v : Nat) (d : Option Nat) (u n : Nat) : (s.postLimited k c v d u n).noc = s.noc := by unfold State.postLimited; dsimp only; split <;> rfl
@[simp] theorem State.postLimited_dram (s : State) (k c v : Nat) (d : Option Nat) (u n : Nat) : (s.postLimited k c v d u n).dram = s.dram := by unfold State.postLimited; dsimp only; split <;> rfl
@[simp] theorem State.postLimited_breadbox (s : State) (k c v : Nat) (d : Option Nat) (u n : Nat) : (s.postLimited k c v d u n).breadbox = s.breadbox := by unfold State.postLimited; dsimp only; split <;> rfl
@[simp] theorem State.postLimited_pads (s : State) (k c v : Nat) (d : Option Nat) (u n : Nat) : (s.postLimited k c v d u n).pads = s.pads := by unfold State.postLimited; dsimp only; split <;> rfl
@[simp] theorem State.postLimited_lanes (s : State) (k c v : Nat) (d : Option Nat) (u n : Nat) : (s.postLimited k c v d u n).lanes = s.lanes := by unfold State.postLimited; dsimp only; split <;> rfl
@[simp] theorem State.postLimited_eqTable (s : State) (k c v : Nat) (d : Option Nat) (u n : Nat) : (s.postLimited k c v d u n).eqTable = s.eqTable := by unfold State.postLimited; dsimp only; split <;> rfl
@[simp] theorem State.postLimited_clk (s : State) (k c v : Nat) (d : Option Nat) (u n : Nat) : (s.postLimited k c v d u n).clk = s.clk := by unfold State.postLimited; dsimp only; split <;> rfl
@[simp] theorem State.postLimited_time (s : State) (k c v : Nat) (d : Option Nat) (u n : Nat) : (s.postLimited k c v d u n).time = s.time := by unfold State.postLimited; dsimp only; split <;> rfl
@[simp] theorem State.postLimited_mac (s : State) (k c v : Nat) (d : Option Nat) (u n : Nat) : (s.postLimited k c v d u n).mac = s.mac := by unfold State.postLimited; dsimp only; split <;> rfl
@[simp] theorem State.postLimited_dbg (s : State) (k c v : Nat) (d : Option Nat) (u n : Nat) : (s.postLimited k c v d u n).dbg = s.dbg := by unfold State.postLimited; dsimp only; split <;> rfl
@[simp] theorem State.postLimited_mgc (s : State) (k c v : Nat) (d : Option Nat) (u n : Nat) : (s.postLimited k c v d u n).mgc = s.mgc := by unfold State.postLimited; dsimp only; split <;> rfl
@[simp] theorem State.postLimited_fuses (s : State) (k c v : Nat) (d : Option Nat) (u n : Nat) : (s.postLimited k c v d u n).fuses = s.fuses := by unfold State.postLimited; dsimp only; split <;> rfl
@[simp] theorem State.postLimited_hqe (s : State) (k c v : Nat) (d : Option Nat) (u n : Nat) : (s.postLimited k c v d u n).hqe = s.hqe := by unfold State.postLimited; dsimp only; split <;> rfl
@[simp] theorem State.postLimited_cfg (s : State) (k c v : Nat) (d : Option Nat) (u n : Nat) : (s.postLimited k c v d u n).cfg = s.cfg := by unfold State.postLimited; dsimp only; split <;> rfl
@[simp] theorem State.postLimited_spr (s : State) (k c v : Nat) (d : Option Nat) (u n : Nat) : (s.postLimited k c v d u n).spr = s.spr := by unfold State.postLimited; dsimp only; split <;> rfl
@[simp] theorem State.postLimited_ptm (s : State) (k c v : Nat) (d : Option Nat) (u n : Nat) : (s.postLimited k c v d u n).ptm = s.ptm := by unfold State.postLimited; dsimp only; split <;> rfl
@[simp] theorem State.postLimited_away (s : State) (k c v : Nat) (d : Option Nat) (u n : Nat) : (s.postLimited k c v d u n).away = s.away := by unfold State.postLimited; dsimp only; split <;> rfl
@[simp] theorem State.postLimited_smbus (s : State) (k c v : Nat) (d : Option Nat) (u n : Nat) : (s.postLimited k c v d u n).smbus = s.smbus := by unfold State.postLimited; dsimp only; split <;> rfl
@[simp] theorem State.postLimited_powerGood (s : State) (k c v : Nat) (d : Option Nat) (u n : Nat) : (s.postLimited k c v d u n).powerGood = s.powerGood := by unfold State.postLimited; dsimp only; split <;> rfl
@[simp] theorem State.postLimited_straps (s : State) (k c v : Nat) (d : Option Nat) (u n : Nat) : (s.postLimited k c v d u n).straps = s.straps := by unfold State.postLimited; dsimp only; split <;> rfl
@[simp] theorem State.postLimited_answer (s : State) (k c v : Nat) (d : Option Nat) (u n : Nat) : (s.postLimited k c v d u n).answer = s.answer := by unfold State.postLimited; dsimp only; split <;> rfl
@[simp] theorem State.postLimited_free (s : State) (k c v : Nat) (d : Option Nat) (u n : Nat) : (s.postLimited k c v d u n).free = s.free := by unfold State.postLimited; dsimp only; split <;> rfl

/-! ### Bit fields -/

theorem bits_lt (n lo len : Nat) : bits n lo len < 2 ^ len := Nat.mod_lt _ (Nat.two_pow_pos len)

/-- The field written reads as the low bits of the value. -/
theorem bits_setBits (n lo len v : Nat) : bits (setBits n lo len v) lo len = v % 2 ^ len := by
  unfold bits setBits
  have h1 : n % 2 ^ lo < 2 ^ lo := Nat.mod_lt _ (Nat.two_pow_pos lo)
  have e : n / 2 ^ (lo + len) * 2 ^ (lo + len) + v % 2 ^ len * 2 ^ lo + n % 2 ^ lo
      = n % 2 ^ lo + 2 ^ lo * (v % 2 ^ len + 2 ^ len * (n / 2 ^ (lo + len))) := by
    rw [Nat.pow_add, Nat.mul_add]; ac_rfl
  rw [e, Nat.add_mul_div_left _ _ (Nat.two_pow_pos lo), Nat.div_eq_of_lt h1, Nat.zero_add, Nat.add_mul_mod_self_left, Nat.mod_mod]

/-- A field below the one written reads as before. -/
theorem bits_setBits_below (n lo len v a b : Nat) (h : a + b ≤ lo) : bits (setBits n lo len v) a b = bits n a b := by
  unfold bits setBits
  have key : ∀ m q : Nat, (m % 2 ^ lo + 2 ^ lo * q) / 2 ^ a % 2 ^ b = m / 2 ^ a % 2 ^ b := by
    intro m q
    have hq : 2 ^ lo * q = 2 ^ a * (2 ^ b * (2 ^ (lo - a - b) * q)) := by
      rw [← Nat.mul_assoc, ← Nat.mul_assoc, ← Nat.pow_add, ← Nat.pow_add]; congr 2; omega
    rw [hq, Nat.add_mul_div_left _ _ (Nat.two_pow_pos a), Nat.add_mul_mod_self_left]
    have hs : 2 ^ lo = 2 ^ a * (2 ^ b * 2 ^ (lo - a - b)) := by
      rw [← Nat.pow_add, ← Nat.pow_add]; congr 1; omega
    rw [hs, Nat.mod_mul_right_div_self, Nat.mod_mul_right_mod]
  have e : n / 2 ^ (lo + len) * 2 ^ (lo + len) + v % 2 ^ len * 2 ^ lo + n % 2 ^ lo
      = n % 2 ^ lo + 2 ^ lo * (v % 2 ^ len + 2 ^ len * (n / 2 ^ (lo + len))) := by
    rw [Nat.pow_add, Nat.mul_add]; ac_rfl
  rw [e, key]

/-- A field above the one written reads as before. -/
theorem bits_setBits_above (n lo len v a b : Nat) (h : lo + len ≤ a) : bits (setBits n lo len v) a b = bits n a b := by
  unfold bits setBits
  have h1 : v % 2 ^ len * 2 ^ lo + n % 2 ^ lo < 2 ^ (lo + len) := by
    have a1 : v % 2 ^ len < 2 ^ len := Nat.mod_lt _ (Nat.two_pow_pos len)
    have a2 : n % 2 ^ lo < 2 ^ lo := Nat.mod_lt _ (Nat.two_pow_pos lo)
    calc v % 2 ^ len * 2 ^ lo + n % 2 ^ lo < v % 2 ^ len * 2 ^ lo + 2 ^ lo := by omega
      _ = (v % 2 ^ len + 1) * 2 ^ lo := by rw [Nat.add_mul, Nat.one_mul]
      _ ≤ 2 ^ len * 2 ^ lo := Nat.mul_le_mul_right _ a1
      _ = 2 ^ (lo + len) := by rw [Nat.mul_comm, Nat.pow_add]
  have hs : 2 ^ a = 2 ^ (lo + len) * 2 ^ (a - lo - len) := by rw [← Nat.pow_add]; congr 1; omega
  rw [hs, ← Nat.div_div_eq_div_mul, ← Nat.div_div_eq_div_mul, Nat.add_assoc, Nat.mul_comm (n / _) _,
    Nat.mul_add_div (Nat.two_pow_pos _), Nat.div_eq_of_lt h1, Nat.add_zero]

/-! ### Registers -/

/-- The register written reads as the word. -/
@[simp] theorem State.reg_setReg (s : State) (o : Nat) (w : Word) : (s.setReg o w).reg o = w := by simp [State.reg, State.setReg]

/-- Every other register reads as before. -/
theorem State.reg_setReg_ne (s : State) {o p : Nat} (w : Word) (h : p ≠ o) : (s.setReg o w).reg p = s.reg p := by
  unfold State.reg State.setReg
  dsimp only
  rw [Tab.put_eq]
  split
  · exact Tab.get_del_ne h
  · rw [Tab.get_ins_ne h, Tab.get_del_ne h]

/-- A register reads as the table of registers says. -/
theorem State.reg_congr {s t : State} (h : t.regs = s.regs) (o : Nat) : t.reg o = s.reg o := by unfold State.reg; rw [h]

theorem State.fget_congr {s t : State} (h : t.regs = s.regs) (f : Fld) : t.fget f = s.fget f := by unfold State.fget; rw [State.reg_congr h]

/-- Every register but the one of the field written reads as before. -/
theorem State.reg_fset_ne (s : State) {f : Fld} (v : Nat) {o : Nat} (h : o ≠ f.off) : (s.fset f v).reg o = s.reg o := State.reg_setReg_ne s _ h

theorem State.reg_fsat_ne (s : State) {f : Fld} (n : Nat) {o : Nat} (h : o ≠ f.off) : (s.fsat f n).reg o = s.reg o := State.reg_fset_ne s _ h

theorem bits_toNat_ofNat {n lo len : Nat} (h : lo + len ≤ 32) : bits (BitVec.ofNat 32 n).toNat lo len = bits n lo len := by
  unfold bits
  rw [BitVec.toNat_ofNat]
  have hs : (2 : Nat) ^ 32 = 2 ^ lo * (2 ^ len * 2 ^ (32 - lo - len)) := by
    rw [← Nat.pow_add, ← Nat.pow_add]; congr 1; omega
  rw [hs, Nat.mod_mul_right_div_self, Nat.mod_mul_right_mod]

/-- The field written reads as the low bits of the value. -/
theorem State.fget_fset (s : State) {f : Fld} (v : Nat) (h : f.lo + f.len ≤ 32) : (s.fset f v).fget f = v % 2 ^ f.len := by
  unfold State.fget State.fset
  rw [State.reg_setReg, bits_toNat_ofNat h, bits_setBits]

/-- A field of another register reads as before. -/
theorem State.fget_fset_ne (s : State) {f g : Fld} (v : Nat) (h : g.off ≠ f.off) : (s.fset f v).fget g = s.fget g := by
  unfold State.fget
  rw [State.reg_fset_ne s v h]

/-- Another field of the same register reads as before. -/
theorem State.fget_fset_apart (s : State) {f g : Fld} (v : Nat) (ho : g.off = f.off) (hg : g.lo + g.len ≤ 32)
    (h : g.lo + g.len ≤ f.lo ∨ f.lo + f.len ≤ g.lo) : (s.fset f v).fget g = s.fget g := by
  unfold State.fget State.fset
  rw [ho, State.reg_setReg, bits_toNat_ofNat hg]
  rcases h with h | h
  · exact bits_setBits_below _ _ _ _ _ _ h
  · exact bits_setBits_above _ _ _ _ _ _ h

/-- A saturating count reads as the count plus `n`, or as the top of its field. -/
theorem State.fget_fsat (s : State) {f : Fld} (n : Nat) (h : f.lo + f.len ≤ 32) : (s.fsat f n).fget f = satAdd f.len (s.fget f) n := by
  unfold State.fsat
  rw [State.fget_fset s _ h]
  apply Nat.mod_eq_of_lt
  have := Nat.two_pow_pos f.len
  unfold satAdd
  omega

/-! ### Tins -/

/-- The tin written reads as given; every other tin as before. -/
theorem State.tin_setTin (s : State) (k j : Nat) (x : Tin) : (s.setTin k x).tin j = if j = k then x else s.tin j := by
  simp [State.tin, State.setTin, Tab.get_put]

@[simp] theorem State.tin_setTin_self (s : State) (k : Nat) (x : Tin) : (s.setTin k x).tin k = x := by simp [State.tin_setTin]

theorem State.tin_congr {s t : State} (h : t.tins = s.tins) (k : Nat) : t.tin k = s.tin k := by unfold State.tin; rw [h]

/-- Exactly one tin is written. -/
theorem State.setTin_tinOnly (s : State) (k : Nat) (x : Tin) : s.TinOnly k (s.setTin k x) := fun j h => by simp [State.tin_setTin, h]

/-! ### Frames -/

theorem State.RegsOnly.of_regs {s t : State} {l : List Nat} (h : t.regs = s.regs) : s.RegsOnly l t := fun o _ => State.reg_congr h o

theorem State.RegsOnly.fset {s t : State} {l : List Nat} {f : Fld} {v : Nat} (h : f.off ∈ l) (k : s.RegsOnly l t) :
    s.RegsOnly l (t.fset f v) :=
  fun o ho => (State.reg_fset_ne t v (by rintro rfl; exact ho h)).trans (k o ho)

theorem State.RegsOnly.setReg {s t : State} {l : List Nat} {p : Nat} {w : Word} (h : p ∈ l) (k : s.RegsOnly l t) : s.RegsOnly l (t.setReg p w) :=
  fun o ho => (State.reg_setReg_ne t w (by rintro rfl; exact ho h)).trans (k o ho)

@[simp] theorem State.setReg_tin (s : State) (o : Nat) (w : Word) (g : Nat) : (s.setReg o w).tin g = s.tin g := State.tin_congr (by simp) g
@[simp] theorem State.fset_tin (s : State) (f : Fld) (v : Nat) (g : Nat) : (s.fset f v).tin g = s.tin g := State.tin_congr (by simp) g
@[simp] theorem State.fsat_tin (s : State) (f : Fld) (n : Nat) (g : Nat) : (s.fsat f n).tin g = s.tin g := State.tin_congr (by simp) g
@[simp] theorem State.setTin_reg (s : State) (k : Nat) (x : Tin) (g : Nat) : (s.setTin k x).reg g = s.reg g := State.reg_congr (by simp) g
@[simp] theorem State.setTin_fget (s : State) (k : Nat) (x : Tin) (g : Fld) : (s.setTin k x).fget g = s.fget g := State.fget_congr (by simp) g
@[simp] theorem State.post_reg (s : State) (c v : Nat) (d : Option Nat) (u a b : Nat) (g : Nat) : (s.post c v d u a b).reg g = s.reg g := State.reg_congr (by simp) g
@[simp] theorem State.post_fget (s : State) (c v : Nat) (d : Option Nat) (u a b : Nat) (g : Fld) : (s.post c v d u a b).fget g = s.fget g := State.fget_congr (by simp) g
@[simp] theorem State.post_tin (s : State) (c v : Nat) (d : Option Nat) (u a b : Nat) (g : Nat) : (s.post c v d u a b).tin g = s.tin g := State.tin_congr (by simp) g
@[simp] theorem State.takeFree_reg (s : State) (n : Nat) (g : Nat) : (s.takeFree n).2.reg g = s.reg g := State.reg_congr (by simp) g
@[simp] theorem State.takeFree_fget (s : State) (n : Nat) (g : Fld) : (s.takeFree n).2.fget g = s.fget g := State.fget_congr (by simp) g
@[simp] theorem State.takeFree_tin (s : State) (n : Nat) (g : Nat) : (s.takeFree n).2.tin g = s.tin g := State.tin_congr (by simp) g
@[simp] theorem State.countCorr_reg (s : State) (n : Nat) (g : Nat) : (s.countCorr n).reg g = s.reg g := State.reg_congr (by simp) g
@[simp] theorem State.countCorr_fget (s : State) (n : Nat) (g : Fld) : (s.countCorr n).fget g = s.fget g := State.fget_congr (by simp) g
@[simp] theorem State.countCorr_tin (s : State) (n : Nat) (g : Nat) : (s.countCorr n).tin g = s.tin g := State.tin_congr (by simp) g
@[simp] theorem State.launch_reg (s : State) (p : Packet) (l : Nat) (g : Nat) : (s.launch p l).reg g = s.reg g := State.reg_congr (by simp) g
@[simp] theorem State.launch_fget (s : State) (p : Packet) (l : Nat) (g : Fld) : (s.launch p l).fget g = s.fget g := State.fget_congr (by simp) g
@[simp] theorem State.launch_tin (s : State) (p : Packet) (l : Nat) (g : Nat) : (s.launch p l).tin g = s.tin g := State.tin_congr (by simp) g
@[simp] theorem State.dropFlight_reg (s : State) (f : Nat) (g : Nat) : (s.dropFlight f).reg g = s.reg g := State.reg_congr (by simp) g
@[simp] theorem State.dropFlight_fget (s : State) (f : Nat) (g : Fld) : (s.dropFlight f).fget g = s.fget g := State.fget_congr (by simp) g
@[simp] theorem State.dropFlight_tin (s : State) (f : Nat) (g : Nat) : (s.dropFlight f).tin g = s.tin g := State.tin_congr (by simp) g
@[simp] theorem State.setChan_reg (s : State) (c : Nat) (v : ChanSt) (g : Nat) : (s.setChan c v).reg g = s.reg g := State.reg_congr (by simp) g
@[simp] theorem State.setChan_fget (s : State) (c : Nat) (v : ChanSt) (g : Fld) : (s.setChan c v).fget g = s.fget g := State.fget_congr (by simp) g
@[simp] theorem State.setChan_tin (s : State) (c : Nat) (v : ChanSt) (g : Nat) : (s.setChan c v).tin g = s.tin g := State.tin_congr (by simp) g
@[simp] theorem State.setBank_reg (s : State) (b : Nat) (v : Bank) (g : Nat) : (s.setBank b v).reg g = s.reg g := State.reg_congr (by simp) g
@[simp] theorem State.setBank_fget (s : State) (b : Nat) (v : Bank) (g : Fld) : (s.setBank b v).fget g = s.fget g := State.fget_congr (by simp) g
@[simp] theorem State.setBank_tin (s : State) (b : Nat) (v : Bank) (g : Nat) : (s.setBank b v).tin g = s.tin g := State.tin_congr (by simp) g
@[simp] theorem State.postLimited_reg (s : State) (k c v : Nat) (d : Option Nat) (u n : Nat) (g : Nat) : (s.postLimited k c v d u n).reg g = s.reg g := State.reg_congr (by simp) g
@[simp] theorem State.postLimited_fget (s : State) (k c v : Nat) (d : Option Nat) (u n : Nat) (g : Fld) : (s.postLimited k c v d u n).fget g = s.fget g := State.fget_congr (by simp) g
@[simp] theorem State.postLimited_tin (s : State) (k c v : Nat) (d : Option Nat) (u n : Nat) (g : Nat) : (s.postLimited k c v d u n).tin g = s.tin g := State.tin_congr (by simp) g

end Sys2Proof.Machine
end

