-- ==== Sys2Proof/WellFormed.lean ====
section
/-! DEFINITION. When the operands of a command are of their fields' widths: what the spec's own fields can carry.  The meanings do not rely
on it; it says which commands can be spelled. -/

namespace Sys2Proof

/-- The fields of a packet header fit their widths (R269, R270). -/
def Packet.wf (p : Packet) : Bool :=
  decide (p.dst < 4096 ∧ p.src < 4096 ∧ p.tag < 4096 ∧ p.prio < 4 ∧ p.domain < 16 ∧ p.addr < 2 ^ 40 ∧ p.bytes ≤ 512 ∧ p.epoch < 2 ^ 16 ∧
    p.data.length ≤ 512 ∧ p.status < 256 ∧ p.detail < 2 ^ 16)

/-- Every dword of a descriptor has 32 bits (R419). -/
def Desc.wf (d : Desc) : Bool :=
  decide (d.dw0 < 2 ^ 32 ∧ d.dw1 < 2 ^ 32 ∧ d.dw2 < 2 ^ 32 ∧ d.dw3 < 2 ^ 32 ∧ d.dw4 < 2 ^ 32 ∧ d.dw5 < 2 ^ 32 ∧ d.dw6 < 2 ^ 32 ∧ d.dw7 < 2 ^ 32)

/-- The start of a crust-ring connection is a 16-bit endpoint (R546). -/
def ChanRef.wf : ChanRef → Bool
  | .seam _ _ => true
  | .ring _ e => decide (e < 2 ^ 16)
  | .bench _ _ _ _ => true

/-- The blocks that have an attention register (R783). -/
def blockWf (k : Nat) : Bool := k < 13 || 16 ≤ k

/-- The sizes of a larder access (R190), and those of an access of a hart. -/
def sizeWf (n : Nat) : Bool := n == 4 || n == 8 || n == 16 || n == 32 || n == 64
def accessWf (n : Nat) : Bool := n == 1 || n == 2 || n == 4 || n == 8

/-- Whether every operand of a command fits the field that carries it. -/
def Instr.wf : Instr → Bool
  | .registerWrite off _ _ src => decide (off < 2 ^ 24 ∧ src < 4096)
  | .rcFieldRead off _ src _ => decide (off < 2 ^ 24 ∧ src < 4096)
  | .xAttnClear blk _ _ => blockWf blk.val
  | .xAttnSet blk _ => blockWf blk.val
  | .timeNowLatch _ => true
  | .mtimeLatch _ => true
  | .holdFill _ _ _ _ => true
  | .holdAcknowledge _ _ _ _ => true
  | .holdEmpty _ _ _ _ => true
  | .holdAckFall _ _ _ _ => true
  | .tinRailFault _ _ _ => true
  | .crustPortModeChange _ _ => true
  | .crustInboundToken _ _ _ => true
  | .crustOutboundToken _ _ => true
  | .proofingGateRelease _ _ => true
  | .proofNotice _ tag epoch => decide (tag < 4096 ∧ epoch < 2 ^ 16)
  | .rateRingWindow _ _ _ _ _ _ => true
  | .wearCheck _ => true
  | .telemetryInterval temps _ _ => temps.all (fun x => decide (x.1 < 136))
  | .vfabRamp _ => true
  | .channelTokenSend r => r.wf
  | .channelTokenCapture r _ => r.wf
  | .channelAckReceived r _ => r.wf
  | .sweep _ _ _ => true
  | .sweepGap _ _ => true
  | .spareWireCopyStart _ _ _ => true
  | .seamWireSpared _ _ _ => true
  | .channelMoveHold _ _ => true
  | .seamChannelMoved _ _ => true
  | .seamFold _ entry => decide (entry < 2 ^ 32)
  | .seamPeerLost _ => true
  | .seamTraining _ ms => ms.all (fun x => decide (x.1 < 4224))
  | .clearMin _ => true
  | .pantryRead _ _ _ _ => true
  | .pantryWrite _ _ _ _ => true
  | .pantrySwap _ _ _ _ => true
  | .pantryRowSpared _ _ _ => true
  | .pantryScrub _ _ _ => true
  | .fifoWrite _ _ _ => true
  | .fifoRead _ _ _ _ => true
  | .fifoEventConsume _ _ => true
  | .stale _ _ => true
  | .larderRead addr bytes _ _ => decide (addr < 2 ^ 40) && sizeWf bytes
  | .larderWrite addr data _ _ _ _ => decide (addr < 2 ^ 40) && sizeWf data.length
  | .larderScrub _ _ => true
  | .larderCheckerTest _ _ _ _ => true
  | .poolPush list _ _ _ => decide (list < 0xFFF)
  | .poolPop list _ _ _ => decide (list < 0xFFF)
  | .poolSweep => true
  | .selfTestAndFill _ _ _ _ => true
  | .memCorrected _ => true
  | .mixerOperation _ _ _ => true
  | .mixerSearch _ _ _ => true
  | .clkRefLost _ => true
  | .clkRefRestored _ => true
  | .clkSwitchover _ => true
  | .clkCtlSwitch => true
  | .clkGenReady => true
  | .clkGenFault _ => true
  | .clkOutputGate => true
  | .clkPathSpared _ => true
  | .controlCrossing _ _ _ _ => true
  | .eventCrossing _ _ _ _ _ => true
  | .valuePublish _ _ _ _ => true
  | .edgeUnstable _ _ _ => true
  | .edgeFifoWrite _ _ _ _ _ => true
  | .edgeFifoRead _ _ _ _ => true
  | .dieClkLost _ _ _ _ _ => true
  | .dieClkRestored _ => true
  | .nocInject _ p => p.wf
  | .routerHop _ _ _ => true
  | .read _ _ => true
  | .write _ _ => true
  | .writePosted _ _ => true
  | .atomicAdd _ _ => true
  | .atomicSwap _ _ => true
  | .atomicCas _ _ => true
  | .message _ => true
  | .response _ => true
  | .nocTimeout _ => true
  | .quarantineEnd _ => true
  | .benchWireSpared _ _ _ _ _ => true
  | .benchDozenSpared _ _ _ _ => true
  | .benchLinkRetired _ _ => true
  | .rerouteStep => true
  | .spineRouterSpared _ => true
  | .spineRouterRetired _ => true
  | .memoryRequest _ _ _ => true
  | .beatWarn => true
  | .beatStall _ => true
  | .beatEnd => true
  | .sliceBeatEnd _ _ => true
  | .dramRefreshHot => true
  | .dramRefreshNormal => true
  | .patrolRead _ _ => true
  | .channelTrained _ _ => true
  | .channelFilled _ => true
  | .selfRefreshExit _ _ => true
  | .evacuationLineMove _ => true
  | .dramEvacuated => true
  | .counterRequest _ _ _ _ _ _ _ _ => true
  | .sealedReadProof _ _ _ => true
  | .securityHalt _ die chan _ addr node => decide (die < 8 ∧ chan < 16 ∧ addr < 2 ^ 40 ∧ node < 4096)
  | .granuleRefillDone _ => true
  | .sealResealed _ => true
  | .flr _ => true
  | .perstN => true
  | .barRead _ bar4 off n _ => decide (off + n ≤ 2 ^ (if bar4 then 36 else 24))
  | .barWrite _ bar4 off data _ _ => decide (off + data.length ≤ 2 ^ (if bar4 then 36 else 24))
  | .barTimeout _ => true
  | .sqDoorbell _ _ _ => true
  | .cqDoorbell _ _ _ => true
  | .descriptorFetch _ d => (match d with | some x => x.wf | none => true)
  | .copyToDevice _ _ _ _ => true
  | .copyFromDevice _ _ _ => true
  | .copyDevice _ _ _ => true
  | .copyComplete _ _ _ => true
  | .streamSend _ _ => true
  | .streamSendTimeout _ => true
  | .streamBuffer _ => true
  | .streamRecord _ => true
  | .streamBufferFlush _ => true
  | .queueCreate _ => true
  | .queueDelete _ _ => true
  | .queuePause _ => true
  | .queueResume _ => true
  | .queueReset _ => true
  | .queueAssign _ => true
  | .queueQuery _ => true
  | .interruptCoalesce _ => true
  | .cqStale _ => true
  | .eventRingMove _ => true
  | .hqeQctlWrite _ _ => true
  | .loadImage _ _ => true
  | .relocateTin _ => true
  | .swapAt _ => true
  | .swapCancel _ => true
  | .sparePolicy _ => true
  | .retireTin _ => true
  | .retireChannel _ => true
  | .retireBenchLink _ => true
  | .retireCore _ _ => true
  | .retireSpineRouter _ => true
  | .granuleSet _ => true
  | .storeSet _ => true
  | .resealRange _ => true
  | .powerState _ => true
  | .tinReset _ => true
  | .dieReset _ => true
  | .hubWarmReset _ _ _ => true
  | .coreReset _ _ _ => true
  | .laneSignalDetect _ _ => true
  | .linkTrainingRequest _ _ _ => true
  | .laneUp _ eye ctle => decide (eye ≤ 128 ∧ ctle < 256)
  | .laneAttemptTimeout _ => true
  | .laneSelfTestDone _ _ => true
  | .laneRetry _ => true
  | .eyeMeasurement _ eye _ => decide (eye ≤ 128)
  | .laneSignalLost _ => true
  | .laneRelockTimeout _ => true
  | .laneStateReached _ _ => true
  | .laneReqState _ _ => true
  | .laneRateWrite _ _ => true
  | .laneRetrain _ _ => true
  | .injOnce _ => true
  | .injRate _ _ => true
  | .chkClear _ => true
  | .loopbackChange _ _ => true
  | .ppsInEdge _ => true
  | .timeHoldover => true
  | .timeStep _ _ => true
  | .timeAdjWrite _ => true
  | .ppsOut => true
  | .dieTimeAlign _ => true
  | .frameReceive _ _ f _ _ _ => decide (f.length < 2 ^ 16)
  | .transmitRecord _ _ => true
  | .frameTransmit _ _ _ => true
  | .sdiLocked _ _ => true
  | .sdiUnlocked _ _ => true
  | .sdiLine _ _ _ _ _ _ => true
  | .st352Change _ _ _ => true
  | .recordPresentation _ _ => true
  | .recordAccept _ _ => true
  | .packetLaunch _ _ => true
  | .statisticsWrite _ _ => true
  | .macCqHead _ _ _ => true
  | .macCqReset _ _ => true
  | .push _ _ => true
  | .stat => true
  | .headerAuthenticated _ _ => true
  | .imageSegment _ => true
  | .endMarker _ _ => true
  | .fullImageCommit => true
  | .partialImageCommit => true
  | .earlyEnd => true
  | .cfgIdleTimeout => true
  | .fabricWipeDone => true
  | .fallbackTimeout => true
  | .autoRelocationStart _ => true
  | .targetLoaded _ _ _ => true
  | .relocationFreeze _ _ => true
  | .sourceQuiescent _ _ => true
  | .stateTransferDone _ _ _ => true
  | .tinRelocated _ _ => true
  | .quiescenceTimeout _ _ => true
  | .relocationRetry _ _ => true
  | .swapTime _ _ => true
  | .tinSwapped _ _ => true
  | .tinRestarted _ _ _ => true
  | .returnTestDone _ _ => true
  | .kneaderFrameRead _ _ _ => true
  | .hotFrameInterval _ => true
  | .kneaderHeartbeat _ _ _ _ _ _ => true
  | .watchdogKick _ _ => true
  | .watchdogPreBite _ => true
  | .wdgBite _ _ _ => true
  | .bootStart _ => true
  | .firmwareVerified _ _ _ => true
  | .getRandom => true
  | .hashRange => true
  | .verifyBlob _ _ _ => true
  | .deviceInfo => true
  | .lifecycleAdvance _ _ => true
  | .keyProgram _ _ => true
  | .keyRevoke _ _ => true
  | .forceHalt => true
  | .mailboxComplete => true
  | .secResponseRead => true
  | .l2Clean => true
  | .l2Invalidate => true
  | .l2CleanInvalidate => true
  | .l2CmoDone => true
  | .loadReserved _ a _ _ _ => decide (a < 2 ^ 40)
  | .storeConditional _ a d => decide (a < 2 ^ 40) && (d.length == 4 || d.length == 8)
  | .amo _ _ a _ _ _ _ => decide (a < 2 ^ 40)
  | .uncachedStore _ a d => decide (a < 2 ^ 40) && accessWf d.length
  | .mgcL2Uncorr _ => true
  | .timerInterrupt _ => true
  | .clusterEventMove => true
  | .pwrRailFault _ _ => true
  | .hubRailFault => true
  | .refusersAnswered => true
  | .entryQuiescent => true
  | .entryAbort => true
  | .pointOfNoReturn => true
  | .pwrStateEntered => true
  | .wakeNow => true
  | .gpioWake => true
  | .timerWake => true
  | .wakeStep _ _ _ _ => true
  | .padRelease _ => true
  | .thermTrip _ => true
  | .thermTripRelease => true
  | .pwrOvercurrent => true
  | .overcurrentRelease => true
  | .powerOnReset _ _ => true
  | .resetN _ => true
  | .secBoot _ _ _ _ => true
  | .clockLock _ => true
  | .cfgErrNRelease _ => true
  | .dieResetRelease _ => true
  | .dieReturned _ _ => true
  | .diePowerLost _ => true
  | .diePowerRetry _ _ => true
  | .trngHealthFail => true
  | .trngRetest _ => true
  | .glitchDetect => true
  | .challengeLockoutEnd => true
  | .tapReset => true
  | .extest _ => true
  | .samplePreload _ => true
  | .idcode => true
  | .clamp => true
  | .highz => true
  | .extestPulse _ => true
  | .extestTrain _ => true
  | .boundaryScanEnd => true
  | .bypass => true
  | .haltCause => true
  | .auth _ _ _ => true
  | .dapRead _ _ _ _ => true
  | .dapWrite _ _ _ _ => true
  | .dtermUpdate _ => true
  | .cfgLoad _ => true
  | .cfgReadback _ => true
  | .dmHalt _ => true
  | .dmResume _ _ _ => true
  | .accessRegister _ _ _ _ => true
  | .xtChannelFire _ _ => true
  | .stimulusWrite _ _ _ => true
  | .traceFrameSend => true
  | .dtxWrite _ => true
  | .drxConsume => true
  | .tinFreeze _ _ => true
  | .dbgTinFrozen _ _ => true
  | .tinRelease _ _ => true
  | .tokenStep _ _ _ => true
  | .tinReadback _ _ => true
  | .tinStateWrite _ _ => true
  | .gpioOutWrite _ _ _ _ _ => true
  | .padInputChange _ _ => true
  | .smbusSetPointer _ _ => true
  | .smbusRead _ => true
  | .smbusWrite _ _ => true
  | .smbusWriteStatus _ => true
  | .smbusAttnSum _ => true
  | .smbusTj _ => true
  | .smbusCurrent _ => true
  | .fetchLoadStore _ _ a n d _ _ => decide (a < 2 ^ 40) && accessWf n && decide (d.length = 0 ∨ d.length = n)
  | .pcieLinkChange _ _ _ _ _ _ _ _ => true
  | .hostCompletionTimeout _ _ => true
  | .patternCheckerLock _ _ errors => decide (errors < 2 ^ 32)
  | .otherGeneratorLocked => true
  | .standbyGeneratorFault _ => true

end Sys2Proof
end

