-- ==== Sys2Proof/Tests/Slice0.lean ====
section
/-! SUPPORT. Tests: an ill-formed term for each check, and for each statement a state and operands that meet its hypotheses. -/

namespace Sys2Proof.Tests

open Sys2Proof Sys2Proof.Machine

/-! ### Ill-formed terms, one for each check of `Instr.wf` -/

def okPacket : Packet :=
  { dst := 1, src := 2, tag := 3, cmd := .read, prio := 1, domain := 0, addr := 0x2000000000, bytes := 64, epoch := 1, data := [],
    proof := true, poison := false, notice := false, status := 0, detail := 0 }

def okDesc : Desc := ⟨0x50, 0, 0, 0, 0, 0, 0, 0⟩

theorem test_wf_packet : (Instr.nocInject 0 okPacket).wf = true := by decide
theorem test_wf_packet_dst : (Instr.nocInject 0 { okPacket with dst := 4096 }).wf = false := by decide
theorem test_wf_packet_src : (Instr.nocInject 0 { okPacket with src := 4096 }).wf = false := by decide
theorem test_wf_packet_tag : (Instr.nocInject 0 { okPacket with tag := 4096 }).wf = false := by decide
theorem test_wf_packet_prio : (Instr.nocInject 0 { okPacket with prio := 4 }).wf = false := by decide
theorem test_wf_packet_domain : (Instr.nocInject 0 { okPacket with domain := 16 }).wf = false := by decide
theorem test_wf_packet_addr : (Instr.nocInject 0 { okPacket with addr := 0x10000000000 }).wf = false := by decide
theorem test_wf_packet_bytes : (Instr.nocInject 0 { okPacket with bytes := 513 }).wf = false := by decide
theorem test_wf_packet_epoch : (Instr.nocInject 0 { okPacket with epoch := 65536 }).wf = false := by decide
theorem test_wf_packet_status : (Instr.nocInject 0 { okPacket with status := 256 }).wf = false := by decide
theorem test_wf_packet_detail : (Instr.nocInject 0 { okPacket with detail := 65536 }).wf = false := by decide
theorem test_wf_packet_data : (Instr.nocInject 0 { okPacket with data := List.replicate 513 0 }).wf = false := by decide +kernel
theorem test_wf_desc : (Instr.descriptorFetch 0 (some okDesc)).wf = true := by decide
theorem test_wf_desc_wide : (Instr.descriptorFetch 0 (some { okDesc with dw6 := 0x100000000 })).wf = false := by decide
theorem test_wf_register_off : (Instr.registerWrite 0x1000000 0 0 0).wf = false := by decide
theorem test_wf_register_src : (Instr.rcFieldRead 0 0 4096 0).wf = false := by decide
theorem test_wf_block : (Instr.xAttnSet 13 0).wf = false := by decide
theorem test_wf_notice_tag : (Instr.proofNotice 0 4096 0).wf = false := by decide
theorem test_wf_notice_epoch : (Instr.proofNotice 0 0 65536).wf = false := by decide
theorem test_wf_sensor : (Instr.telemetryInterval [(136, 0)] 0 0).wf = false := by decide
theorem test_wf_endpoint : (Instr.channelTokenCapture (.ring 0 65536) []).wf = false := by decide
theorem test_wf_fold_entry : (Instr.seamFold 0 0x100000000).wf = false := by decide
theorem test_wf_dozen : (Instr.seamTraining 0 [(4224, ⟨0, 100⟩)]).wf = false := by decide
theorem test_wf_larder_size : (Instr.larderRead 0x2000000000 5 0 .clean).wf = false := by decide
theorem test_wf_larder_addr : (Instr.larderWrite 0x10000000000 [0, 0, 0, 0] 0 false false .clean).wf = false := by decide
theorem test_wf_pool_list : (Instr.poolPush 0xFFF 0 false false).wf = false := by decide
theorem test_wf_halt_channel : (Instr.securityHalt 1 0 16 0 0 0).wf = false := by decide
theorem test_wf_bar0 : (Instr.barRead 0 false 0xFFFFFF 2 .clean).wf = false := by decide
theorem test_wf_bar4 : (Instr.barWrite 0 true 0x1000000000 [0] false .clean).wf = false := by decide
theorem test_wf_eye : (Instr.eyeMeasurement 0 129 0).wf = false := by decide
theorem test_wf_hart_addr : (Instr.loadReserved 0 0x10000000000 true 0 .clean).wf = false := by decide
theorem test_wf_hart_size : (Instr.uncachedStore 0 0 [0, 0, 0]).wf = false := by decide
theorem test_wf_conditional_size : (Instr.storeConditional 0 0 [0]).wf = false := by decide
theorem test_wf_access_size : (Instr.fetchLoadStore 0 .load 0 3 [] 0 .clean).wf = false := by decide
theorem test_wf_errors : (Instr.patternCheckerLock 0 true 0x100000000).wf = false := by decide

end Sys2Proof.Tests
end

section
/-! SUPPORT. Which command a step runs, and what becomes of the queue (log 1). -/

namespace Sys2Proof.Machine

/-- With a command at the front, a step hands the state with the rest of the queue to that command's meaning. -/
theorem step_of_pending_cons {s : State} {c : Instr} {rest : List Instr} (h : s.pending = c :: rest) :
    step s = exec c { s with pending := rest } := by
  unfold step
  rw [h]

/-- Every command answers a next state, and no command adds to the queue or takes from it: the queue is in no command's footprint. -/
theorem exec_keeps_pending (c : Instr) (s : State) : ∃ u, exec c s = .next u ∧ u.pending = s.pending := by
  obtain ⟨u, hu, hk⟩ := exec_keeps c s
  exact ⟨u, hu, hk.only .pending (pending_not_mem_footprint c)⟩

/-- Settles O1: the step takes the front command off the queue, and the command's own footprint leaves the rest alone. -/
theorem stepRunsFrontCommand : Obligations.StepRunsFrontCommand := by
  unfold Obligations.StepRunsFrontCommand
  intro s c rest h
  have hstep := step_of_pending_cons h
  obtain ⟨u, hu, hpending⟩ := exec_keeps_pending c { s with pending := rest }
  exact ⟨hstep, u, hstep.trans hu, hpending⟩

/-- A state that meets the hypothesis of O1: two commands wait after reset, and a step leaves the second. -/
theorem stepRunsFrontCommand_witness :
    ∃ u, step { State.reset with pending := [.dmHalt 0, .tapReset] } = .next u ∧ u.pending = [.tapReset] :=
  (stepRunsFrontCommand _ (.dmHalt 0) [.tapReset] rfl).2

end Sys2Proof.Machine
end

section
/-! SUPPORT. The invariant of the device: the memories in canonical form and every role of a die at a tin of its own (R33, R34). -/

namespace Sys2Proof.Machine

/-- The invariant reads nothing of the queue of commands. -/
theorem State.Inv.setPending {s : State} (h : s.Inv) (q : List Instr) : State.Inv { s with pending := q } :=
  ⟨h.larder, h.dram, h.breadbox, h.roles⟩

/-- Nothing is stored yet and every die stands in the order of its tins. -/
theorem State.reset_inv : State.reset.Inv where
  larder := rfl
  dram := rfl
  breadbox := rfl
  roles := fun _ => rolesOk_range

/-- What a command answers satisfies the invariant, whatever its operands: the frame of every command carries it. -/
theorem exec_preserves_inv {c : Instr} {s u : State} (hs : s.Inv) (h : exec c s = .next u) : u.Inv := by
  obtain ⟨t, ht, hkeeps⟩ := exec_keeps c s
  cases ht.symm.trans h
  exact hkeeps.inv hs

/-- A tick of the time keeper touches the beat of the DRAM, never its bytes, and the stream ports move after it (R484). -/
theorem State.Inv.tick {s : State} (hs : s.Inv) : s.tickTime.pumpAll.Inv :=
  s.tickTime.pumpAll_keeps.inv (s.tickTime_keeps.inv hs)

/-- Settles O4: a step is a tick on an empty queue, or else a command on the rest of the queue, and each keeps the invariant. -/
theorem stepKeepsInvariant : Obligations.StepKeepsInvariant := by
  unfold Obligations.StepKeepsInvariant
  intro s u hs h
  cases hq : s.pending with
  | nil =>
    have htick : step s = .next s.tickTime.pumpAll := by unfold step; rw [hq]
    cases htick.symm.trans h
    exact hs.tick
  | cons c rest => exact exec_preserves_inv (hs.setPending rest) ((step_of_pending_cons hq).symm.trans h)

/-- Settles O3: the reset values are canonical, and neither a command nor power is there. -/
theorem resetMeetsInvariant : Obligations.ResetMeetsInvariant := by
  unfold Obligations.ResetMeetsInvariant
  exact ⟨State.reset_inv, rfl, rfl⟩

/-- Die 2 holds roles 0 and 12 at each other's tins, the larder holds a byte, and role 3 is at the last stage of a live relocation, whose
command is at the front of the queue (R572). -/
def liveRelocation : State :=
  { State.reset with
    pending := [.tinRelocated 2 3]
    roles := [(2, swapRoles (List.range 13) 0 12)]
    larder := { Larder.empty with mem := [(5, 0xA7)] }
    spr := { Spr.fresh with ops := [{ SprOp.new .relocate 2 3 with stage := 4 }] } }

theorem liveRelocation_inv : liveRelocation.Inv where
  larder := by decide
  dram := rfl
  breadbox := rfl
  roles := fun d => by
    unfold State.roleMap liveRelocation
    by_cases hd : 2 = d
    · simpa [Tab.get, hd] using swapRoles_ok rolesOk_range (by decide : 0 < 13) (by decide : 12 < 13)
    · simpa [Tab.get, hd] using rolesOk_range

/-- A state that meets the hypotheses of O4, on a step that moves roles: role 3 takes tin 0, which held the spare's role, and tin 3 is the
spare from then on. -/
theorem stepKeepsInvariant_witness :
    ∃ u, step liveRelocation = .next u ∧ u.Inv ∧ u.roleMap 2 = [12, 1, 2, 0, 4, 5, 6, 7, 8, 9, 10, 11, 3] := by
  have hroles : (match step liveRelocation with | .next u => u.roleMap 2 | _ => []) = [12, 1, 2, 0, 4, 5, 6, 7, 8, 9, 10, 11, 3] := by
    decide +kernel
  obtain ⟨u, hu, -⟩ := exec_keeps_pending (.tinRelocated 2 3) { liveRelocation with pending := [] }
  have hstep : step liveRelocation = .next u := (step_of_pending_cons rfl).trans hu
  rw [hstep] at hroles
  exact ⟨u, hstep, stepKeepsInvariant _ u liveRelocation_inv hstep, hroles⟩

end Sys2Proof.Machine
end

section
/-! SUPPORT. What the steps of a hold change and what they leave alone (R55–R58, R792). -/

namespace Sys2Proof.Machine

/-- A tin with one hold replaced and then settled differs from the tin it was in that hold alone, as far as holds and frames go: what follows
a step of a hold in the ports, pantries and mixers touches neither. -/
theorem holdOnly_setHold_settle (s : State) (t b c m : Nat) (h : Hold) :
    HoldOnly s (s.setTin t ((s.tin t).setHold b c m h).settle) t b c m h where
  hold := by simp
  others := fun k hk => by simpa using Tin.holds_setHold_ne (s.tin t) h hk
  frames := by rw [State.tin_setTin_self, Tin.settle_frames]; rfl
  tins := s.setTin_tinOnly t _
  only := (s.setTin_keeps t _).only

section
variable {s : State} {t : TinIx} {b : Fin 2048} {c : Fin 16} {m : Fin 4}

/-- t1 with data on the sums. -/
theorem exec_holdFill_of_data {r : Rails} (hfire : (s.tin t.val).fireRails b.val c.val m.val = some r) (hdata : r.isData = true) :
    exec (.holdFill t b c m) s = .next (s.setTin t.val ((s.tin t.val).fill b.val c.val m.val r.t).settle) := by
  change execHoldFill t b c m s = _
  simp [execHoldFill, hfire, hdata]

/-- t1 with both sums high (R59). -/
theorem exec_holdFill_of_not_data {r : Rails} (hfire : (s.tin t.val).fireRails b.val c.val m.val = some r) (hdata : r.isData = false) :
    exec (.holdFill t b c m) s = .next (s.railFault t.val b.val c.val) := by
  change execHoldFill t b c m s = _
  simp [execHoldFill, hfire, hdata]

/-- t2. -/
theorem exec_holdAcknowledge_of_canAck (h : (s.tin t.val).canAck b.val c.val m.val = true) :
    exec (.holdAcknowledge t b c m) s = .next (s.setTin t.val ((s.tin t.val).setHold b.val c.val m.val
      { (s.tin t.val).hold b.val c.val m.val with ack := true }).settle) := if_pos h

/-- t5. -/
theorem exec_holdEmpty_of_canEmpty (h : (s.tin t.val).canEmpty b.val c.val m.val = true) :
    exec (.holdEmpty t b c m) s = .next (s.setTin t.val ((s.tin t.val).setHold b.val c.val m.val
      { (s.tin t.val).hold b.val c.val m.val with full := false, value := false }).settle) := if_pos h

/-- t6. -/
theorem exec_holdAckFall_of_canAckFall (h : (s.tin t.val).canAckFall b.val c.val m.val = true) :
    exec (.holdAckFall t b c m) s = .next (s.setTin t.val ((s.tin t.val).setHold b.val c.val m.val
      { (s.tin t.val).hold b.val c.val m.val with ack := false }).settle) := if_pos h

end

/-- Settles O6: each step sets one hold and settles the tin. -/
theorem holdSteps : Obligations.HoldSteps := by
  unfold Obligations.HoldSteps
  refine ⟨?fill, ?acknowledge, ?empty, ?ackFall, ?railFault⟩
  case fill => exact fun s _ _ _ _ _ hfire hdata => ⟨_, exec_holdFill_of_data hfire hdata, holdOnly_setHold_settle s ..⟩
  case acknowledge => exact fun s _ _ _ _ h => ⟨_, exec_holdAcknowledge_of_canAck h, holdOnly_setHold_settle s ..⟩
  case empty => exact fun s _ _ _ _ h => ⟨_, exec_holdEmpty_of_canEmpty h, holdOnly_setHold_settle s ..⟩
  case ackFall => exact fun s _ _ _ _ h => ⟨_, exec_holdAckFall_of_canAckFall h, holdOnly_setHold_settle s ..⟩
  case railFault => exact fun _ _ _ _ _ _ hfire hdata => exec_holdFill_of_not_data hfire hdata

/-- A released tin in which input 0 of crumb 0 of batch 0 reads the hold `h1` of crumb 1.  Term 0 of crumb 0 fires while that input is 1 and
feeds the true sum of its macrocell 0, whose hold is `h0`; with `both`, term 1 fires with it and feeds the false sum. -/
def twoCrumbs (both : Bool) (h0 h1 : Hold) : Tin :=
  { Tin.blank with
    frames := [(0, BitVec.ofNat 1024 (1 + 2 ^ 654 + 2 ^ 687 + if both then 2 ^ 24 + 2 ^ 579 else 0)), (1, BitVec.ofNat 1024 (2 ^ 334)),
      (0x5800, 1)]
    holds := [(holdKey 0 0 0, h0), (holdKey 0 1 0, h1)]
    released := true }

/-- The device with that tin as tin 0. -/
def twoCrumbsState (both : Bool) (h0 h1 : Hold) : State := { State.reset with tins := [(0, twoCrumbs both h0 h1)] }

/-- States that meet the hypotheses of O6: a 1 passes from crumb 1 to crumb 0, which takes it (t1), acknowledges it (t2), returns to spacer
after crumb 1 has (t5) and lowers its acknowledge (t6); where both sums fire, t1 is a rail fault. -/
theorem holdSteps_witness :
    (∃ u, exec (.holdFill 0 0 0 0) (twoCrumbsState false ⟨false, false, false⟩ ⟨true, true, false⟩) = .next u ∧
      (u.tin 0).hold 0 0 0 = ⟨true, true, false⟩) ∧
    (∃ u, exec (.holdAcknowledge 0 0 0 0) (twoCrumbsState false ⟨true, true, false⟩ ⟨true, true, false⟩) = .next u ∧
      (u.tin 0).hold 0 0 0 = ⟨true, true, true⟩) ∧
    (∃ u, exec (.holdEmpty 0 0 0 0) (twoCrumbsState false ⟨true, true, true⟩ ⟨false, false, false⟩) = .next u ∧
      (u.tin 0).hold 0 0 0 = ⟨false, false, true⟩) ∧
    (∃ u, exec (.holdAckFall 0 0 0 0) (twoCrumbsState false ⟨false, false, true⟩ ⟨false, false, false⟩) = .next u ∧
      (u.tin 0).hold 0 0 0 = ⟨false, false, false⟩) ∧
    exec (.holdFill 0 0 0 0) (twoCrumbsState true ⟨false, false, false⟩ ⟨true, true, false⟩) =
      .next ((twoCrumbsState true ⟨false, false, false⟩ ⟨true, true, false⟩).railFault 0 0 0) := by
  obtain ⟨fill, acknowledge, empty, ackFall, railFault⟩ := holdSteps
  obtain ⟨u1, h1, o1⟩ := fill (twoCrumbsState false ⟨false, false, false⟩ ⟨true, true, false⟩) 0 0 0 0 ⟨true, false⟩ (by decide +kernel) rfl
  obtain ⟨u2, h2, o2⟩ := acknowledge (twoCrumbsState false ⟨true, true, false⟩ ⟨true, true, false⟩) 0 0 0 0 (by decide +kernel)
  obtain ⟨u3, h3, o3⟩ := empty (twoCrumbsState false ⟨true, true, true⟩ ⟨false, false, false⟩) 0 0 0 0 (by decide +kernel)
  obtain ⟨u4, h4, o4⟩ := ackFall (twoCrumbsState false ⟨false, false, true⟩ ⟨false, false, false⟩) 0 0 0 0 (by decide +kernel)
  exact ⟨⟨u1, h1, o1.hold⟩, ⟨u2, h2, o2.hold⟩, ⟨u3, h3, o3.hold⟩, ⟨u4, h4, o4.hold⟩, railFault _ 0 0 0 0 ⟨true, true⟩ (by decide +kernel) rfl⟩

end Sys2Proof.Machine
end

section
/-! SUPPORT. How packets enter the NoC (R264, R272, R276–R279), the proofing gate (R83, R379), and requests delivered to a design (R47,
R275). -/

namespace Sys2Proof.Machine

/-! ### The injection interface -/

/-- Outside a reroute no injection interface holds a packet. -/
theorem State.held_of_not_reroute {s : State} (h : s.noc.reroute = false) (loc : Nat) (t : Site) (n : Nat) : s.held loc t n = false := by
  cases n <;> simp [State.held, h]

/-- A request of a role's node is the business of its injection interface. -/
theorem State.inject_of_role {s : State} {id d r : Nat} {p : Packet} (hn : nodeOf id = some (.role d r)) (hc : p.cmd ≠ .response) :
    s.inject id p = s.injectReq id (.role d r) p := by
  unfold State.inject
  simp only [hn]
  split
  · exact absurd ‹_› hc
  · exact absurd ‹_› hc
  · rfl

/-- A response of a role's node answers a request delivered to its design. -/
theorem State.inject_of_role_response {s : State} {id d r : Nat} {p : Packet} (hn : nodeOf id = some (.role d r)) (hc : p.cmd = .response) :
    s.inject id p = s.injectResp id d r p := by
  unfold State.inject
  simp only [hn, hc]

/-- A well-shaped request with a free tag and a destination enters the NoC as its interface stamps it; unless posted, it is outstanding. -/
theorem State.injectReq_eq {s : State} {id dst : Nat} {n : Node} {p : Packet} (hshape : p.shapeOk = true)
    (htag : p.cmd.posted = false → s.tagBusy id p.tag = false) (hdst : (if p.cmd = .message then some p.dst else s.dstOf p.addr) = some dst)
    (hroute : s.noc.reroute = false) :
    s.injectReq id n p = { s with noc := { s.noc with
      flights := s.noc.flights ++ [Packet.flightAt (s.stamp id n p dst) (s.entry n ((nodeOf dst).map s.site))]
      out := if p.cmd.posted then s.noc.out else s.noc.out ++ [⟨id, p.tag, s.nodeEpoch n, p.addr, p.cmd, p.bytes⟩] } } := by
  have hbusy : (!p.cmd.posted && s.tagBusy id p.tag) = false := by
    cases hp : p.cmd.posted
    · simpa using htag hp
    · rfl
  have hheld : ∀ loc, ((nodeOf dst).map s.site).any (fun x => s.held loc x 40) = false := fun loc => by
    simp [State.held_of_not_reroute hroute]
  unfold State.injectReq
  simp only [hshape, hbusy, hdst, hheld, Bool.not_true, Bool.false_eq_true, if_false]
  split <;> rfl

/-- The answer of a design to a request in its tin window leaves the tin and enters the NoC at the tin's router (R279). -/
theorem State.injectResp_eq {s : State} {id d r : Nat} {p q : Packet}
    (hq : (s.tin (s.tinOf d r)).nocIn.find? (fun q => q.tag == p.tag && q.src == p.dst) = some q) :
    s.injectResp id d r p =
      (s.setTin (s.tinOf d r) { s.tin (s.tinOf d r) with nocIn := (s.tin (s.tinOf d r)).nocIn.erase q }).launch
        (q.reply id p.status p.detail (slice p.data 0 q.respBytes) p.poison true) (18 * d + tinPos (s.localTin d r)) := by
  unfold State.injectResp
  simp only [hq]

/-! ### `NOC_INJECT` at a tin -/

section
variable {s : State} {id : Fin 4096} {p : Packet} {d r : Nat} (hn : nodeOf id.val = some (.role d r))
  (hrel : (s.tin (s.tinOf d r)).released = true) (hfrz : (s.tin (s.tinOf d r)).frozen = false)
  (hstop : (s.tin (s.tinOf d r)).stopped = false)
include hn hrel hfrz hstop

/-- With its gate open, a running tin's packet passes to the injection interface. -/
theorem exec_nocInject_open (hgate : (s.tin (s.tinOf d r)).nocGate = [])
    (hproof : (s.tin (s.tinOf d r)).proofedUpTo (s.tin (s.tinOf d r)).seq = true) :
    exec (.nocInject id p) s = .next (s.inject id.val p) := by
  change execNocInject id p s = _
  simp [execNocInject, hn, hrel, hfrz, hstop, hgate, hproof]

/-- Behind unproofed reads, or behind a packet that waits for them, the packet stays in the gate with the number of the reads so far. -/
theorem exec_nocInject_gated
    (hgate : (s.tin (s.tinOf d r)).nocGate ≠ [] ∨ (s.tin (s.tinOf d r)).proofedUpTo (s.tin (s.tinOf d r)).seq = false) :
    exec (.nocInject id p) s = .next (s.setTin (s.tinOf d r)
      { s.tin (s.tinOf d r) with nocGate := (s.tin (s.tinOf d r)).nocGate ++ [(p, (s.tin (s.tinOf d r)).seq)] }) := by
  change execNocInject id p s = _
  have hclosed : ((s.tin (s.tinOf d r)).nocGate.isEmpty && (s.tin (s.tinOf d r)).proofedUpTo (s.tin (s.tinOf d r)).seq) = false := by
    rcases hgate with h | h <;> simp [h]
  simp only [execNocInject, hn, hrel, hfrz, hstop, hclosed, Bool.not_true, Bool.or_self, Bool.false_eq_true, if_false]

end

/-! ### The proofing gate -/

/-- The oldest token behind the gate of a crust port is offered to the ring (R83, R379). -/
theorem exec_proofingGateRelease_port {s : State} {t : TinIx} {p : Fin 385} {e : GateTok} {l : List GateTok} (hp : p.val < 384)
    (hgate : ((s.tin t.val).port p.val).gate = e :: l) (hoffer : ((s.tin t.val).port p.val).offer = none)
    (hmode : ((s.tin t.val).port p.val).mode = .pass) (hproof : (s.tin t.val).proofedUpTo e.stamp = true) :
    exec (.proofingGateRelease t p) s = .next (s.setTin t.val
      ((s.tin t.val).setPort p.val { (s.tin t.val).port p.val with gate := l, offer := some e.tok }).settle) := by
  change execProofingGateRelease t p s = _
  unfold execProofingGateRelease
  simp only [hp, hgate, hoffer, hmode, hproof, if_true, and_self]

/-- The oldest packet behind the gate of the NoC crust port passes to the injection interface (R379). -/
theorem exec_proofingGateRelease_noc {s : State} {t : TinIx} {p : Fin 385} {e : Packet × Nat} {l : List (Packet × Nat)} (hp : p.val = 384)
    (hgate : (s.tin t.val).nocGate = e :: l) (hproof : (s.tin t.val).proofedUpTo e.2 = true) (hrel : (s.tin t.val).released = true)
    (hfrz : (s.tin t.val).frozen = false) (hstop : (s.tin t.val).stopped = false) :
    exec (.proofingGateRelease t p) s =
      .next ((s.setTin t.val { s.tin t.val with nocGate := l }).inject (roleNode (t.val / 13) (s.roleOf t.val)) e.1) := by
  change execProofingGateRelease t p s = _
  unfold execProofingGateRelease
  simp [hp, hgate, hproof, hrel, hfrz, hstop]

/-! ### Requests at the tin window of a design -/

/-- A request that has reached its target acts there when it is of the command's kind. -/
theorem State.atCmd_eq {s : State} {f loc : Nat} {p : Packet} {cmd : PCmd} {go : Packet → Nat → State} (hat : s.atTarget f = some (p, loc))
    (hc : p.cmd = cmd) : s.atCmd f cmd go = .next (go p loc) := by
  unfold State.atCmd
  simp [hat, hc]

/-- An open, running tin takes a non-posted request that its design answers. -/
theorem State.tinTarget_eq {s : State} {f loc node t : Nat} {p : Packet} (hopen : s.roleOpen t = true) (hfrz : (s.tin t).frozen = false)
    (hhalt : s.halted = false) (hatomic : p.cmd.atomic = true → (s.tin t).acceptAtomic = true) (hposted : p.cmd.posted = false) :
    s.tinTarget f p loc node t = (s.dropFlight f).setTin t { s.tin t with nocIn := (s.tin t).nocIn ++ [p] } := by
  have hrefuse : (p.cmd.atomic && !(s.tin t).acceptAtomic) = false := by
    cases ha : p.cmd.atomic
    · rfl
    · simp [hatomic ha]
  unfold State.tinTarget
  simp only [hopen, hfrz, hhalt, hrefuse, hposted, Bool.not_true, Bool.or_self, Bool.false_eq_true, if_false]

/-- A command of the NoC that hands its packet to the target and finds an open, running tin there. -/
theorem runs_delivery {s : State} {f loc d r : Nat} {p : Packet} {c : Instr} {cmd : PCmd}
    (hexec : exec c s = s.atCmd f cmd (fun p loc => s.targetReq f p loc .clean)) (hcmd : p.cmd = cmd)
    (hat : s.atTarget f = some (p, loc)) (hdst : nodeOf p.dst = some (.role d r)) (hopen : s.roleOpen (s.tinOf d r) = true)
    (hfrz : (s.tin (s.tinOf d r)).frozen = false) (hhalt : s.halted = false)
    (hatomic : p.cmd.atomic = true → (s.tin (s.tinOf d r)).acceptAtomic = true) (hposted : p.cmd.posted = false) :
    Runs c s [.noc, .tins] fun u => s.Consumed u f ∧ s.TinOnly (s.tinOf d r) u ∧
      u.tin (s.tinOf d r) = { s.tin (s.tinOf d r) with nocIn := (s.tin (s.tinOf d r)).nocIn ++ [p] } := by
  have htarget : s.targetReq f p loc .clean =
      (s.dropFlight f).setTin (s.tinOf d r) { s.tin (s.tinOf d r) with nocIn := (s.tin (s.tinOf d r)).nocIn ++ [p] } := by
    unfold State.targetReq
    simp only [hdst]
    exact State.tinTarget_eq hopen hfrz hhalt hatomic hposted
  refine Runs.of (hexec.trans ((State.atCmd_eq hat hcmd).trans (congrArg _ htarget)))
    (Keeps.via (State.setTin_keeps ..) rfl (Keeps.via (State.dropFlight_keeps s f) rfl Keeps.refl)) ⟨rfl, ?_, by simp⟩
  exact fun j hj => by simp [State.tin_setTin, hj]

/-- Settles O9: the injection interface stamps a request and keeps its entry, the gate holds what waits for a proof, and a delivered request
is answered by the design that took it. -/
theorem nocInjection : Obligations.NocInjection := by
  unfold Obligations.NocInjection
  refine ⟨?request, ?gated, ?response, ?portGate, ?nocGate, ?delivery⟩
  case request =>
    intro s id p d r dst hn hrel hfrz hstop hgate hproof hshape hc htag hdst hroute
    have hinject := (State.inject_of_role hn hc).trans (State.injectReq_eq (n := .role d r) hshape htag hdst hroute)
    exact Runs.of ((exec_nocInject_open hn hrel hfrz hstop hgate hproof).trans (congrArg _ hinject)) (Keeps.upd_noc rfl Keeps.refl) rfl
  case gated =>
    intro s id p d r hn hrel hfrz hstop hgate
    exact Runs.of (exec_nocInject_gated hn hrel hfrz hstop hgate) (State.setTin_keeps ..) ⟨s.setTin_tinOnly _ _, State.tin_setTin_self ..⟩
  case response =>
    intro s id p q d r hn hrel hfrz hstop hgate hproof hc hq
    have hinject := (State.inject_of_role_response hn hc).trans (State.injectResp_eq (id := id.val) hq)
    refine Runs.of ((exec_nocInject_open hn hrel hfrz hstop hgate hproof).trans (congrArg _ hinject))
      (Keeps.via (State.launch_keeps ..) rfl (Keeps.via (State.setTin_keeps ..) rfl Keeps.refl)) ⟨?_, by simp, rfl⟩
    exact fun j hj => by simp [State.tin_setTin, hj]
  case portGate =>
    intro s t p e l hp hgate hoffer hmode hproof
    exact Runs.of (exec_proofingGateRelease_port hp hgate hoffer hmode hproof) (State.setTin_keeps ..)
      ⟨s.setTin_tinOnly _ _, State.tin_setTin_self ..⟩
  case nocGate =>
    intro s t p e l hp hgate hproof hrel hfrz hstop
    exact ⟨_, rfl, (s.setTin_keeps t.val _).only, exec_proofingGateRelease_noc hp hgate hproof hrel hfrz hstop⟩
  case delivery =>
    intro s f p loc d r c hat hdst hc hopen hfrz hhalt
    obtain ⟨rfl, hcmd⟩ | ⟨rfl, hcmd⟩ | ⟨⟨rfl, hcmd⟩ | ⟨rfl, hcmd⟩ | ⟨rfl, hcmd⟩, hatomic⟩ := hc
    · exact runs_delivery rfl hcmd hat hdst hopen hfrz hhalt (by simp [hcmd, PCmd.atomic]) (by simp [hcmd, PCmd.posted])
    · exact runs_delivery rfl hcmd hat hdst hopen hfrz hhalt (by simp [hcmd, PCmd.atomic]) (by simp [hcmd, PCmd.posted])
    · exact runs_delivery rfl hcmd hat hdst hopen hfrz hhalt (fun _ => hatomic) (by simp [hcmd, PCmd.posted])
    · exact runs_delivery rfl hcmd hat hdst hopen hfrz hhalt (fun _ => hatomic) (by simp [hcmd, PCmd.posted])
    · exact runs_delivery rfl hcmd hat hdst hopen hfrz hhalt (fun _ => hatomic) (by simp [hcmd, PCmd.posted])

/-- A read of the larder that role 0 of die 0 sends with tag 3. -/
def larderReadReq : Packet :=
  { dst := 0, src := 0x100, tag := 3, cmd := .read, prio := 1, domain := 0, addr := larderBase, bytes := 64, epoch := 1, data := [],
    proof := false, poison := false, notice := false, status := 0, detail := 0 }

/-- A read that the HQE sends to the tin window of role 0 of die 0, and the design's answer to it. -/
def windowReadReq : Packet := { larderReadReq with dst := 0x100, src := nodeHqe, tag := 5, addr := 0x3000000000, bytes := 8 }
def windowAnswer : Packet := { windowReadReq with dst := nodeHqe, src := 0x100, cmd := .response, data := [1, 2, 3, 4, 5, 6, 7, 8] }

/-- A released tin that has taken one read. -/
def injectingTin : Tin := { Tin.blank with released := true, frames := [(0, 1)], seq := 1 }

/-- The device with tin 0 in service as `x`, and the packets `l` under way. -/
def injectingState (x : Tin) (l : List Flight) : State := { State.reset with tins := [(0, x)], noc := { Noc.idle with flights := l } }

/-- The tin whose read has not been proofed, with a token and a packet behind its gates that do not wait for it. -/
def unproofedTin : Tin :=
  { injectingTin with
    reads := [⟨3, 1, 1⟩], nocGate := [(larderReadReq, 0)], ports := [(1, { Port.blank with mode := .pass, gate := [⟨9, 0⟩] })] }

/-- States that meet the hypotheses of O9, clause by clause. -/
theorem nocInjection_witness :
    (∃ u, exec (.nocInject 0x100 larderReadReq) (injectingState injectingTin []) = .next u ∧ u.noc.flights.length = 1 ∧ u.noc.out.length = 1) ∧
    (∃ u, exec (.nocInject 0x100 larderReadReq) (injectingState unproofedTin []) = .next u ∧
      (u.tin 0).nocGate = [(larderReadReq, 0), (larderReadReq, 1)]) ∧
    (∃ u, exec (.nocInject 0x100 windowAnswer) (injectingState { injectingTin with nocIn := [windowReadReq] } []) = .next u ∧
      (u.tin 0).nocIn = [] ∧ u.noc.flights.length = 1) ∧
    (∃ u, exec (.proofingGateRelease 0 1) (injectingState unproofedTin []) = .next u ∧ (u.tin 0).nocGate = [(larderReadReq, 0)]) ∧
    (∃ v : State, v.tins = [(0, { unproofedTin with nocGate := [] })] ∧
      exec (.proofingGateRelease 0 384) (injectingState unproofedTin []) = .next (v.inject 0x100 larderReadReq)) ∧
    (∃ u, exec (.read 0 .clean) (injectingState injectingTin [Packet.flightAt windowReadReq 1]) = .next u ∧
      (u.tin 0).nocIn = [windowReadReq] ∧ u.noc.flights = []) := by
  obtain ⟨request, gated, response, portGate, nocGate, delivery⟩ := nocInjection
  obtain ⟨u1, h1, n1, -⟩ := request (injectingState injectingTin []) 0x100 larderReadReq 0 0 1 (by decide) rfl rfl rfl rfl (by decide) (by decide)
    (by decide) (fun _ => by decide) (by decide) rfl
  obtain ⟨u2, h2, ⟨-, t2⟩, -⟩ := gated (injectingState unproofedTin []) 0x100 larderReadReq 0 0 (by decide) rfl rfl rfl (.inr (by decide))
  obtain ⟨u3, h3, ⟨-, t3, n3⟩, -⟩ := response (injectingState { injectingTin with nocIn := [windowReadReq] } []) 0x100 windowAnswer windowReadReq 0 0
    (by decide) rfl rfl rfl rfl (by decide) rfl (by decide)
  obtain ⟨u4, h4, ⟨-, t4⟩, -⟩ := portGate (injectingState unproofedTin []) 0 1 ⟨9, 0⟩ [] (by decide) rfl rfl rfl (by decide)
  obtain ⟨v, hv, -, h5⟩ := nocGate (injectingState unproofedTin []) 0 384 (larderReadReq, 0) [] rfl rfl (by decide) rfl rfl rfl
  obtain ⟨u6, h6, ⟨c6, -, t6⟩, -⟩ := delivery (injectingState injectingTin [Packet.flightAt windowReadReq 1]) 0 windowReadReq 1 0 0 (.read 0 .clean)
    (by decide) (by decide) (.inl ⟨rfl, rfl⟩) (by decide +kernel) rfl (by decide +kernel)
  refine ⟨⟨u1, h1, ?_, ?_⟩, ⟨u2, h2, congrArg Tin.nocGate t2⟩, ⟨u3, h3, congrArg Tin.nocIn t3, ?_⟩, ⟨u4, h4, ?_⟩, ⟨v, hv, h5⟩,
    ⟨u6, h6, congrArg Tin.nocIn t6, congrArg Noc.flights c6⟩⟩
  · rw [n1]; rfl
  · rw [n1]; rfl
  · rw [n3]; rfl
  · exact (congrArg Tin.nocGate t4).trans (Tin.settle_nocGate _)

end Sys2Proof.Machine
end

section
/-! SUPPORT. Requests of the hub's units at the larder (R190, R193), BAR requests (R405, R408) and their timeouts (R409). -/

namespace Sys2Proof.Machine

/-! ### The larder and its addresses -/

/-- The sizes and the alignment of R190. -/
theorem larderShape_iff {off n : Nat} : larderShape off n = true ↔ (n = 4 ∨ n = 8 ∨ n = 16 ∨ n = 32 ∨ n = 64) ∧ off % n = 0 := by
  simp [larderShape, or_assoc]

theorem State.place_larder (s : State) {off : Nat} (h : off < larderSize) : s.place (larderBase + off) = some (.larder off) := by
  unfold State.place larderBase larderSize at *
  rw [if_neg (by omega), if_pos (by omega), Nat.add_sub_cancel_left]

/-- Such an access keeps to 4-byte boundaries of the device address space. -/
theorem larderShape_word {off n : Nat} (hshape : larderShape off n = true) : (larderBase + off) % 4 = 0 ∧ n % 4 = 0 := by
  rw [larderShape_iff] at hshape
  unfold larderBase
  obtain ⟨rfl | rfl | rfl | rfl | rfl, halign⟩ := hshape <;> omega

/-- Such an access does not cross a 512-byte boundary. -/
theorem larderShape_page {off n : Nat} (hshape : larderShape off n = true) : min n (512 - (larderBase + off) % 512) = n := by
  rw [larderShape_iff] at hshape
  unfold larderBase
  obtain ⟨rfl | rfl | rfl | rfl | rfl, halign⟩ := hshape <;> omega

theorem larderShape_ne_zero {off n : Nat} (hshape : larderShape off n = true) : n ≠ 0 := by
  rw [larderShape_iff] at hshape
  omega

/-- A request of R190's shape is one piece, whatever 64-byte line it lies in. -/
theorem reqLen_of_larderShape {off n : Nat} (h : off < larderSize) (hshape : larderShape off n = true) : reqLen (larderBase + off) n = n := by
  rw [larderShape_iff] at hshape
  unfold reqLen pieceLen larderBase larderSize at *
  rw [if_pos (by omega)]
  obtain ⟨rfl | rfl | rfl | rfl | rfl, halign⟩ := hshape <;> simp <;> omega

/-- The BAR hands such a request on as it stands (R408). -/
theorem barParts_of_larderShape {off n : Nat} (h : off < larderSize) (hshape : larderShape off n = true) :
    barParts n (larderBase + off) n = [(larderBase + off, n)] := by
  have hend : ∀ k a, barParts k a 0 = [] := fun k a => by cases k <;> rfl
  obtain ⟨k, hk⟩ : ∃ k, n = k + 1 := ⟨n - 1, by have := larderShape_ne_zero hshape; omega⟩
  rw [hk, barParts, ← hk, if_neg (larderShape_ne_zero hshape)]
  simp only [larderShape_page hshape, if_pos (larderShape_word hshape), reqLen_of_larderShape h hshape, Nat.sub_self, hend]

/-- A read of a domain that may, at a bank in service (R190, R193). -/
theorem State.larderRead_clean {s : State} {off n k : Nat} (hshape : larderShape off n = true)
    (hlost : (s.bank (larderBank off)).lost = false) (hmay : s.larderMay k off false = true) :
    s.larderRead off n k .clean = (⟨stDone, readBytes 0 s.larder.mem off n, s.larder.anyPoison off n⟩, s) := by
  simp [State.larderRead, hshape, hmay, hlost, State.larderDecode, Larder.read]

/-- A write of a domain that may, at a bank in service; one of part of a word finds the word unpoisoned (R190, R193, R286). -/
theorem State.larderWrite_clean {s : State} {off k : Nat} {d : List Byte} {poison : Bool} (hshape : larderShape off d.length = true)
    (hlost : (s.bank (larderBank off)).lost = false) (hmay : s.larderMay k off true = true)
    (hword : 8 ≤ d.length ∨ s.larder.poisoned off = false) :
    s.larderWrite off k d poison .clean = (stDone, { s with larder := (s.larder.write off d).markWords off d.length poison }) := by
  have hwhole : (decide (d.length < 8) && s.larder.poisoned off) = false := by
    rcases hword with h | h
    · simp [Nat.not_lt.mpr h]
    · simp [h]
  simp only [State.larderWrite, hshape, hmay, hlost, State.larderDecode, ite_self, hwhole, Bool.not_true, Bool.false_eq_true, if_false]

/-- The bytes stored, and no others, change. -/
theorem Larder.bytesOnly_write_markWords (l : Larder) (off n : Nat) (d : List Byte) (p : Bool) :
    BytesOnly l.mem ((l.write off d).markWords off n p).mem off d := by
  rw [Larder.markWords_mem]
  exact ⟨readBytes_writeBytes, fun _ => get_writeBytes_out⟩

/-! ### Requests of the hub's units -/

theorem readBytes_length (z : Byte) (m : Tab Byte) (a n : Nat) : (readBytes z m a n).length = n := by simp [readBytes]

theorem readBytes_isEmpty {m : Tab Byte} {a n : Nat} (h : n ≠ 0) : (readBytes 0 m a n).isEmpty = false := by
  rw [List.isEmpty_eq_false_iff, ← List.length_pos_iff, readBytes_length]
  omega

theorem slice_zero_length (l : List Byte) : slice l 0 l.length = l := by
  apply List.ext_getElem
  · simp [slice]
  · intro i _ hi
    simp [slice, List.getElem?_eq_getElem hi]

section
variable {s : State} {off n k node prio : Nat} {data : List Byte} {poison : Bool} (hoff : off < larderSize)
include hoff

/-- A read of a hub unit at the larder is answered with the stored bytes. -/
theorem State.memAccess_larder_read (hshape : larderShape off n = true) (hlost : (s.bank (larderBank off)).lost = false)
    (hmay : s.larderMay k off false = true) :
    s.memAccess (hubReq node .read k prio (larderBase + off) n data poison) .clean =
      (some ((hubReq node .read k prio (larderBase + off) n data poison).reply nodeLarder stDone 0 (readBytes 0 s.larder.mem off n)
        (s.larder.anyPoison off n) true), s) := by
  unfold State.memAccess
  simp only [hubReq, s.place_larder hoff]
  unfold State.larderAccess
  simp only [Nat.add_sub_cancel_left, State.larderRead_clean hshape hlost hmay, readBytes_isEmpty (larderShape_ne_zero hshape), Bool.false_eq_true, if_false]

/-- A write of a hub unit at the larder stores its bytes. -/
theorem State.memAccess_larder_write (hshape : larderShape off data.length = true) (hlost : (s.bank (larderBank off)).lost = false)
    (hmay : s.larderMay k off true = true) (hword : 8 ≤ data.length ∨ s.larder.poisoned off = false) :
    s.memAccess (hubReq node .write k prio (larderBase + off) n data poison) .clean =
      (some ((hubReq node .write k prio (larderBase + off) n data poison).refuse nodeLarder stDone 0),
        { s with larder := (s.larder.write off data).markWords off data.length poison }) := by
  unfold State.memAccess
  simp only [hubReq, s.place_larder hoff]
  unfold State.larderAccess
  simp only [Nat.add_sub_cancel_left, State.larderWrite_clean hshape hlost hmay hword]

/-- The memory answers the HQE at once. -/
theorem State.hqeReq_larder {p : Packet} (hp : p.addr = larderBase + off) {err : MemErr} :
    s.hqeReq p err = ((s.memAccess p err).1, none, (s.memAccess p err).2) := by
  unfold State.hqeReq
  simp only [hp, s.place_larder hoff]

end

/-! ### BAR requests -/

/-- The larder lies at the foot of BAR_4 (R405). -/
theorem barAddr_larder {off : Nat} (h : off < larderSize) : barAddr true off = larderBase + off := by
  unfold larderSize at h
  unfold barAddr
  rw [if_pos rfl, if_pos (by omega)]

theorem barOk_larder {fn off n : Nat} (h : off < larderSize) (hshape : larderShape off n = true) : barOk fn true off n = true := by
  rw [larderShape_iff] at hshape
  unfold larderSize at h
  simp only [barOk, if_true, decide_eq_true_eq]
  omega

/-- A request of R190's shape keeps the 4-byte rule. -/
theorem barMisaligned_larder (s : State) {off n : Nat} (hshape : larderShape off n = true) : barMisaligned s (larderBase + off) n = false := by
  simp [barMisaligned, larderShape_word hshape]

/-- A part of a BAR request at the larder is a request of the HQE there. -/
theorem State.barPart_larder {s : State} {off n fn : Nat} {read poison : Bool} {data : List Byte} {err : MemErr} (hoff : off < larderSize)
    (hshape : larderShape off n = true) {p : Packet} {u : State}
    (hmem : s.memAccess (hubReq nodeHqe (if read then .read else .write) fn 1 (larderBase + off) n data poison) err = (some p, u)) :
    s.barPart fn read (larderBase + off) n data poison err = (some (p.status, p.data, p.poison), none, u) := by
  unfold State.barPart
  simp only [barMisaligned_larder s hshape, s.place_larder hoff, State.hqeReq_larder hoff (p := hubReq nodeHqe _ fn 1 (larderBase + off) n data poison) rfl,
    hmem, Bool.false_eq_true, if_false]

/-- A BAR read of the larder is answered with the stored bytes. -/
theorem exec_barRead_larder {s : State} {fn : Fin 2} {off n : Nat} (hoff : off < larderSize) (hshape : larderShape off n = true)
    (hhalt : s.halted = false) (hroute : s.noc.reroute = false) (hbars : s.hqe.bars.any (fun b => b.fn == fn.val && !b.read) = false)
    (hmay : s.larderMay fn.val off false = true) (hlost : (s.bank (larderBank off)).lost = false) :
    exec (.barRead fn true off n .clean) s =
      .next { s with answer := some ⟨stDone, readBytes 0 s.larder.mem off n, s.larder.anyPoison off n⟩ } := by
  have hpart := State.barPart_larder (read := true) hoff hshape
    (State.memAccess_larder_read (node := nodeHqe) (prio := 1) (data := slice [] 0 n) (poison := false) hoff hshape hlost hmay)
  change execBarRead fn true off n .clean s = _
  unfold execBarRead
  simp only [barOk_larder hoff hshape, hhalt, hroute, hbars, barAddr_larder hoff, barParts_of_larderShape hoff hshape, Bool.not_true,
    Bool.false_and, Bool.or_self, Bool.false_eq_true, if_false, State.barRun, Nat.sub_self, hpart]
  simp [State.barEnd, barAnswer, BarReq.take, State.barCount, Packet.reply, stOk, readBytes_length, stDone, stPoisoned]

/-- A BAR write of the larder stores its bytes. -/
theorem exec_barWrite_larder {s : State} {fn : Fin 2} {off : Nat} {data : List Byte} (hoff : off < larderSize)
    (hshape : larderShape off data.length = true) (hhalt : s.halted = false) (hroute : s.noc.reroute = false)
    (hmay : s.larderMay fn.val off true = true) (hlost : (s.bank (larderBank off)).lost = false)
    (hword : 8 ≤ data.length ∨ s.larder.poisoned off = false) :
    exec (.barWrite fn true off data false .clean) s =
      .next { s with larder := (s.larder.write off data).markWords off data.length false, answer := none } := by
  have hpart := State.barPart_larder (read := false) hoff hshape
    (State.memAccess_larder_write (node := nodeHqe) (prio := 1) (n := data.length) (poison := false) hoff hshape hlost hmay hword)
  change execBarWrite fn true off data false .clean s = _
  unfold execBarWrite
  simp only [barOk_larder hoff hshape, hhalt, hroute, barAddr_larder hoff, barParts_of_larderShape hoff hshape, Bool.not_true,
    Bool.false_eq_true, if_false, State.barRun, Nat.sub_self, slice_zero_length, hpart]
  simp [State.barEnd, barAnswer, BarReq.take, State.barCount, Packet.refuse, Packet.reply, stOk, stDone]

/-! ### BAR timeouts -/

/-- The tags given up leave the outstanding requests for quarantine (R289). -/
theorem State.giveUp_moves {s : State} {src : Nat} {tags : List Nat} {o : Outst} (ho : o ∈ s.noc.out) (hsrc : o.src = src) (htag : o.tag ∈ tags) :
    o ∉ (s.giveUp src tags).noc.out ∧ o ∈ (s.giveUp src tags).noc.quar := by
  simp [State.giveUp, ho, hsrc, htag]

/-- Giving up the HQE's tags counts in `NOC_LATE` alone. -/
theorem State.giveUp_hqe_bar_denied (s : State) (tags : List Nat) : (s.giveUp nodeHqe tags).fget HQE_ERR.bar_denied = s.fget HQE_ERR.bar_denied := by
  have hne : HQE_ERR.bar_denied.off ≠ (timeoutsFld nodeHqe).off := by decide
  simp only [State.giveUp, State.fsat, State.fget_fset_ne _ _ hne]
  rfl

/-- The state after the `i`-th BAR request has been given up. -/
def State.barGone (s : State) (i : Nat) (b : BarReq) : State :=
  { s.giveUp nodeHqe (b.waits.map (·.1)) with hqe := { s.hqe with bars := s.hqe.bars.eraseIdx i } }

theorem State.barGone_keeps (s : State) (i : Nat) (b : BarReq) : Keeps [.regs, .noc, .hqe] s (s.barGone i b) := by
  unfold State.barGone
  exact Keeps.upd_hqe rfl (Keeps.via (State.giveUp_keeps ..) rfl Keeps.refl)

theorem State.barGone_regs (s : State) (i : Nat) (b : BarReq) : (s.barGone i b).regs = (s.giveUp nodeHqe (b.waits.map (·.1))).regs := rfl
theorem State.barGone_noc (s : State) (i : Nat) (b : BarReq) : (s.barGone i b).noc = (s.giveUp nodeHqe (b.waits.map (·.1))).noc := rfl

/-- The tags of the request are outstanding no more; they are in quarantine (R289). -/
theorem State.barGone_moves {s : State} {i : Nat} {b : BarReq} {o : Outst} (ho : o ∈ s.noc.out) (hsrc : o.src = nodeHqe)
    (htag : o.tag ∈ b.waits.map (·.1)) : o ∉ (s.barGone i b).noc.out ∧ o ∈ (s.barGone i b).noc.quar := by
  rw [State.barGone_noc]
  exact State.giveUp_moves ho hsrc htag

/-- The parts of a write still unanswered are added to `bar_denied`. -/
theorem State.barGone_bar_denied (s : State) (i n : Nat) (b : BarReq) :
    ((s.barGone i b).fsat HQE_ERR.bar_denied n).fget HQE_ERR.bar_denied = satAdd 8 (s.fget HQE_ERR.bar_denied) n := by
  have hfits : HQE_ERR.bar_denied.lo + HQE_ERR.bar_denied.len ≤ 32 := by decide
  rw [State.fget_fsat _ _ hfits, State.fget_congr (s.barGone_regs i b), s.giveUp_hqe_bar_denied]
  rfl

/-- A read that times out ends with a completer abort. -/
theorem exec_barTimeout_read {s : State} {i : Nat} {b : BarReq} (hi : s.hqe.bars[i]? = some b) (hread : b.read = true) :
    exec (.barTimeout i) s = .next { s.barGone i b with answer := some ⟨stAborted, [], false⟩ } := by
  change execBarTimeout i s = _
  unfold execBarTimeout
  simp only [hi, hread, if_true]
  rfl

/-- A write that times out counts the parts still unanswered. -/
theorem exec_barTimeout_write {s : State} {i : Nat} {b : BarReq} (hi : s.hqe.bars[i]? = some b) (hread : b.read = false) :
    exec (.barTimeout i) s = .next ((s.barGone i b).fsat HQE_ERR.bar_denied b.waits.length) := by
  change execBarTimeout i s = _
  unfold execBarTimeout
  simp only [hi, hread, Bool.false_eq_true, if_false]
  rfl

end Sys2Proof.Machine
end

section
/-! SUPPORT. Requests of the debug access port at the larder (R725, R730, R731). -/

namespace Sys2Proof.Machine

/-- With no boundary instruction in force an instruction is selected and its scan answered; nothing else happens (R723, R727). -/
theorem State.selectIr_of_no_boundary {s : State} (h : s.dbg.boundary = none) (code status : Nat) (dr : List Byte) :
    s.selectIr code status dr =
      { s with dbg := { s.dbg with ir := code }, answer := some ⟨status, leBytes 1 s.irCapture ++ dr, false⟩ } := by
  simp [State.selectIr, State.endBoundary, h]

/-- The state in which the port takes a request: the DAP is selected and its data register has been scanned out (R725, R730). -/
def State.dapScanned (s : State) : State :=
  { s with dbg := { s.dbg with ir := 0x12 }, answer := some ⟨stDone, leBytes 1 s.irCapture ++ s.dapCapture, false⟩ }

theorem State.dapScanned_debugLevel (s : State) : s.dapScanned.debugLevel = s.debugLevel := rfl
theorem State.dapScanned_larderMay (s : State) (k off : Nat) (write : Bool) : s.dapScanned.larderMay k off write = s.larderMay k off write := rfl
theorem State.dapScanned_bank (s : State) (b : Nat) : s.dapScanned.bank b = s.bank b := rfl

theorem State.dapScanned_keeps (s : State) : Keeps [.dbg, .answer] s s.dapScanned := by
  unfold State.dapScanned
  exact Keeps.upd_dbg_answer rfl Keeps.refl

/-- At level FULL a scan that finds the port idle takes its request (R730, R731). -/
theorem State.dapScan_full {s : State} {a : Nat} {data : List Byte} {write consume : Bool} {err : MemErr} (htap : s.tapOn = true)
    (hhalt : s.halted = false) (hlevel : s.debugLevel = 3) (hbound : s.dbg.boundary = none) (hwait : s.dbg.dapWait = none) :
    s.dapScan a data write consume err = s.dapScanned.dapGo a data write consume err := by
  have hjt : s.mayJt = true := by simp [State.mayJt, htap, hhalt, hlevel]
  simp [State.dapScan, htap, hjt, hwait, State.selectIr_of_no_boundary hbound, State.dapScanned]

/-- A request of the port at the larder ends with the answer of the memory. -/
theorem State.dapGo_larder {s u : State} {off : Nat} {data : List Byte} {write consume : Bool} {err : MemErr} {q : Packet}
    (hoff : off < larderSize) (hshape : larderShape off 4 = true) (hlevel : s.debugLevel = 3)
    (hmem : s.memAccess (hubReq nodeDbg (if write then .write else .read) 15 1 (larderBase + off) 4 data false) err = (some q, u)) :
    s.dapGo (larderBase + off) data write consume err = u.dapDone q.status q.data := by
  have hword : (larderBase + off) % 4 = 0 := (larderShape_word hshape).1
  unfold State.dapGo
  simp only [hword, State.dapMay, hlevel, s.place_larder hoff, hmem, ne_eq, not_true_eq_false, if_true, if_false, Bool.not_true,
    Bool.false_eq_true]

theorem leBytes_length (n v : Nat) : (leBytes n v).length = n := by
  induction n generalizing v with
  | zero => rfl
  | succ n ih => simp [leBytes, ih]

/-- The value of a list of bytes is the value of all of them. -/
theorem leAt_zero_length (l : List Byte) : leAt l 0 l.length = leVal l := by rw [leAt, slice_zero_length]

section
variable {s : State} {a : Fin 1099511627776} {inc : Bool} {off : Nat} (htap : s.tapOn = true) (hhalt : s.halted = false)
  (hlevel : s.debugLevel = 3) (hbound : s.dbg.boundary = none) (hwait : s.dbg.dapWait = none) (ha : a.val = larderBase + off)
  (hoff : off < larderSize) (hshape : larderShape off 4 = true) (hlost : (s.bank (larderBank off)).lost = false)
include htap hhalt hlevel hbound hwait ha hoff hshape hlost

/-- The debug port reads a word of the larder. -/
theorem exec_dapRead_larder {consume : Bool} (hmay : s.larderMay 15 off false = true) :
    exec (.dapRead a consume inc .clean) s =
      .next { s.dapScanned with dbg := { s.dbg with ir := 0x12, dapStatus := stDone, dapData := leVal (readBytes 0 s.larder.mem off 4) } } := by
  have hval : leAt (readBytes 0 s.larder.mem off 4) 0 4 = leVal (readBytes 0 s.larder.mem off 4) := by
    simpa [readBytes_length] using leAt_zero_length (readBytes 0 s.larder.mem off 4)
  have hmem := State.memAccess_larder_read (s := s.dapScanned) (node := nodeDbg) (prio := 1) (data := []) (poison := false) hoff hshape hlost
    ((s.dapScanned_larderMay ..).trans hmay)
  have hgo := (State.dapScan_full (data := []) (write := false) (consume := consume) htap hhalt hlevel hbound hwait).trans
    (State.dapGo_larder hoff hshape hlevel hmem)
  have hdone : s.dapScanned.dapDone stDone (readBytes 0 s.larder.mem off 4) =
      { s.dapScanned with dbg := { s.dbg with ir := 0x12, dapStatus := stDone, dapData := leVal (readBytes 0 s.larder.mem off 4) } } := by
    rw [State.dapDone, hval, ← hwait]
    rfl
  change Host.Outcome.next (s.dapScan a.val [] false consume .clean) = _
  rw [ha, hgo]
  exact congrArg _ hdone

/-- The debug port writes a word of the larder. -/
theorem exec_dapWrite_larder {w : Word} (hmay : s.larderMay 15 off true = true) (hpoison : s.larder.poisoned off = false) :
    exec (.dapWrite a w inc .clean) s =
      .next { s.dapScanned with
        larder := (s.larder.write off (leBytes 4 w.toNat)).markWords off (leBytes 4 w.toNat).length false
        dbg := { s.dbg with ir := 0x12, dapStatus := stDone, dapData := 0 } } := by
  have hshape' : larderShape off (leBytes 4 w.toNat).length = true := by rw [leBytes_length]; exact hshape
  have hmem := State.memAccess_larder_write (s := s.dapScanned) (node := nodeDbg) (prio := 1) (n := 4) (poison := false) hoff hshape' hlost
    ((s.dapScanned_larderMay ..).trans hmay) (.inr hpoison)
  have hgo := (State.dapScan_full (write := true) (consume := false) htap hhalt hlevel hbound hwait).trans
    (State.dapGo_larder hoff hshape hlevel hmem)
  change Host.Outcome.next (s.dapScan a.val (leBytes 4 w.toNat) true false .clean) = _
  rw [ha, hgo, State.dapDone, ← hwait]
  rfl

end

end Sys2Proof.Machine
end

section
/-! SUPPORT. Rail faults: the tin stops, and the spare manager restarts its role in the spare (R59, R584). -/

namespace Sys2Proof.Machine

/-- What a change of every listed value makes of a value: a changed value or the unlisted one. -/
theorem Tab.get_mapVals_of {α : Type} [DecidableEq α] {d : α} {f : α → α} {P : α → Prop} (hf : ∀ v, P (f v)) (hd : P d) (t : Tab α) (k : Nat) :
    P (Tab.get d (Tab.mapVals d f t) k) := by
  induction t with
  | nil => exact hd
  | cons e r ih =>
    unfold Tab.mapVals
    split
    · exact ih
    · rw [Tab.get]
      split
      · exact hf e.2
      · exact ih

/-- No port of a tin whose crust has stalled is in another mode. -/
theorem Tin.stallAll_port_mode (x : Tin) (p : Nat) : (x.stallAll.port p).mode = .stall :=
  Tab.get_mapVals_of (P := fun v => v.mode = .stall) (fun _ => rfl) rfl x.ports p

/-- Every tin has a `TIN_STAT` of its own (R598). -/
theorem TIN_STAT_inj {a b : Nat} (h : TIN_STAT a = TIN_STAT b) : a = b := by unfold TIN_STAT dieBase at h; omega

theorem TIN_STAT_faults_fits (t : Nat) : (TIN_STAT.faults t).lo + (TIN_STAT.faults t).len ≤ 32 := by simp [TIN_STAT.faults]
theorem TIN_STAT_state_fits (t : Nat) : (TIN_STAT.state t).lo + (TIN_STAT.state t).len ≤ 32 := by simp [TIN_STAT.state]
theorem TIN_STAT_faults_below_state (t : Nat) : (TIN_STAT.faults t).lo + (TIN_STAT.faults t).len ≤ (TIN_STAT.state t).lo := by
  simp [TIN_STAT.faults, TIN_STAT.state]

/-- A tin that a rail fault at crumb `c` of batch `b` has stopped: its ports stall, and the fault is recorded, counted and posted (R59). -/
def State.railStopped (s : State) (t b c : Nat) : State :=
  ((s.setTin t { (s.tin t).stallAll with stopped := true, faults := (s.tin t).faults ++ [16 * b + c] }).fsat (TIN_STAT.faults t) 1).post 0x0100 3
    (some (t / 13)) (tinUnit (s.roleOf t) (t % 13)) (16 * b + c)

theorem State.railStopped_keeps (s : State) (t b c : Nat) : Keeps [.regs, .events, .tins] s (s.railStopped t b c) := by
  unfold State.railStopped
  exact Keeps.via (State.post_keeps ..) rfl (Keeps.via (State.fsat_keeps ..) rfl (Keeps.via (State.setTin_keeps ..) rfl Keeps.refl))

/-- The fault is counted in its field alone: no state of a tin changes by it. -/
theorem State.railStopped_tinState (s : State) (t b c k : Nat) : (s.railStopped t b c).tinState k = s.tinState k := by
  unfold State.railStopped State.tinState State.fsat
  rw [State.post_fget]
  by_cases h : k = t
  · subst h
    rw [State.fget_fset_apart (f := TIN_STAT.faults k) (g := TIN_STAT.state k) _ _ rfl (TIN_STAT_state_fits k)
      (.inr (TIN_STAT_faults_below_state k)), State.setTin_fget]
  · rw [State.fget_fset_ne _ _ (fun e => h (TIN_STAT_inj e)), State.setTin_fget]

theorem State.railStopped_faults (s : State) (t b c : Nat) :
    (s.railStopped t b c).fget (TIN_STAT.faults t) = satAdd 2 (s.fget (TIN_STAT.faults t)) 1 := by
  unfold State.railStopped
  rw [State.post_fget, State.fget_fsat _ _ (TIN_STAT_faults_fits t), State.setTin_fget]
  rfl

/-- The tin states of a restart in the spare (R584): the spare of die `d` is LOADING, the role's own tin `t` is STOPPED. -/
def State.restartStates (s : State) (d t : Nat) : State := (s.setTinState (s.tinOf d 12) tsLoading).setTinState t tsStopped

section
variable (s : State) {d t : Nat} (hne : s.tinOf d 12 ≠ t)

theorem State.restartStates_stopped : (s.restartStates d t).tinState t = tsStopped := State.fget_fset _ _ (TIN_STAT_state_fits t)

include hne in
theorem State.restartStates_loading : (s.restartStates d t).tinState (s.tinOf d 12) = tsLoading := by
  unfold State.restartStates State.tinState State.setTinState
  rw [State.fget_fset_ne _ _ (fun e => hne (TIN_STAT_inj e)), State.fget_fset _ _ (TIN_STAT_state_fits _)]
  rfl

include hne in
theorem State.restartStates_faults : (s.restartStates d t).fget (TIN_STAT.faults t) = s.fget (TIN_STAT.faults t) := by
  unfold State.restartStates State.setTinState
  rw [State.fget_fset_apart (f := TIN_STAT.state t) (g := TIN_STAT.faults t) _ _ rfl (TIN_STAT_faults_fits t)
    (.inl (TIN_STAT_faults_below_state t)), State.fget_fset_ne _ _ (fun e => hne (TIN_STAT_inj e).symm)]

end

theorem State.restartStates_keeps (s : State) (d t : Nat) : Keeps [.regs] s (s.restartStates d t) := by
  unfold State.restartStates
  exact Keeps.via (State.setTinState_keeps ..) rfl (State.setTinState_keeps ..)

theorem State.setOps_tins (s : State) (l : List SprOp) : (s.setOps l).tins = s.tins := rfl
theorem State.restartStates_tins (s : State) (d t : Nat) : (s.restartStates d t).tins = s.tins := rfl

/-- The operations of the spare manager are no part of a register. -/
theorem State.setOps_fget (s : State) (l : List SprOp) (f : Fld) : (s.setOps l).fget f = s.fget f := State.fget_congr rfl f

/-- A role with a kept copy, nothing under way and a spare at hand restarts in the spare (R584). -/
theorem State.beginRestart_spare {s : State} {d r : Nat} (hop : s.roleOp d r = none) (hfrz : s.dbgFrozen d r = false)
    (hkept : s.hasKept d r = true) (hspare : s.spareAvail d = true) :
    s.beginRestart d r false = (s.restartStates d (s.tinOf d r)).setOps
      (s.spr.ops ++ [{ SprOp.new .restart d r with retire := decide (2 ≤ s.fget (TIN_STAT.faults (s.tinOf d r))), stage := 1 }]) := by
  unfold State.beginRestart
  simp only [hop, State.endFreeze, hfrz, hkept, hspare, Bool.false_eq_true, Bool.true_eq_false, Bool.not_true, and_false, if_false, if_true]
  rfl

/-- The restart that a rail fault of tin `t` starts in its die's spare (R584). -/
def State.railRestart (s : State) (t b c : Nat) : SprOp :=
  { SprOp.new .restart (t / 13) (s.roleOf t) with retire := decide (2 ≤ (s.railStopped t b c).fget (TIN_STAT.faults t)), stage := 1 }

/-- The state in which tin `t` has stopped on a rail fault and its role restarts in the spare. -/
def State.railRestarted (s : State) (t b c : Nat) : State :=
  ((s.railStopped t b c).restartStates (t / 13) t).setOps (s.spr.ops ++ [s.railRestart t b c])

/-- A rail fault of a role with a kept copy, where the die's spare is at hand: the tin stops and the role restarts in the spare. -/
theorem State.railFault_spare {s : State} {t b c : Nat} (hr : s.roleOf t < 12) (htin : s.tinOf (t / 13) (s.roleOf t) = t)
    (hop : s.roleOp (t / 13) (s.roleOf t) = none) (hfrz : s.dbgFrozen (t / 13) (s.roleOf t) = false)
    (hkept : s.hasKept (t / 13) (s.roleOf t) = true) (hspare : s.spareAvail (t / 13) = true) : s.railFault t b c = s.railRestarted t b c := by
  have hspare' : (s.railStopped t b c).spareAvail (t / 13) = true := (congrArg (· == tsSpare) (s.railStopped_tinState t b c _)).trans hspare
  have hrestart := State.beginRestart_spare (s := s.railStopped t b c) (d := t / 13) (r := s.roleOf t) hop hfrz hkept hspare'
  have htin' : (s.railStopped t b c).tinOf (t / 13) (s.roleOf t) = t := htin
  rw [htin'] at hrestart
  have hfault : s.railFault t b c = (s.railStopped t b c).beginRestart (t / 13) (s.roleOf t) false := if_pos hr
  exact hfault.trans hrestart

/-- A rail fault of a used input of a running tin (R59). -/
theorem exec_tinRailFault_running {s : State} {t : TinIx} {b : Fin 2048} {c : Fin 16} (hrun : (s.tin t.val).running = true)
    (hused : (List.range 12).any (crumbInputUsed ((s.tin t.val).crumb b.val c.val)) = true) :
    exec (.tinRailFault t b c) s = .next (s.railFault t.val b.val c.val) := by
  change execTinRailFault t b c s = _
  simp only [execTinRailFault, hrun, hused, Bool.and_self, if_true]

/-! What tins, registers and the rest are after the rail fault. -/

theorem State.railRestarted_tins (s : State) (t b c : Nat) : (s.railRestarted t b c).tins = (s.railStopped t b c).tins :=
  (State.setOps_tins ..).trans (State.restartStates_tins ..)

theorem State.railRestarted_tin (s : State) (t b c : Nat) :
    (s.railRestarted t b c).tin t = { (s.tin t).stallAll with stopped := true, faults := (s.tin t).faults ++ [16 * b + c] } := by
  rw [State.tin_congr (s.railRestarted_tins t b c)]
  simp [State.railStopped]

theorem State.railRestarted_tinOnly (s : State) (t b c : Nat) : s.TinOnly t (s.railRestarted t b c) := by
  intro j hj
  rw [State.tin_congr (s.railRestarted_tins t b c)]
  simp [State.railStopped, State.tin_setTin, hj]

theorem State.railRestarted_port_mode (s : State) (t b c p : Nat) : (((s.railRestarted t b c).tin t).port p).mode = .stall := by
  rw [State.railRestarted_tin]
  exact (s.tin t).stallAll_port_mode p

theorem State.railRestarted_keeps (s : State) (t b c : Nat) : Keeps [.regs, .events, .tins, .spr] s (s.railRestarted t b c) := by
  unfold State.railRestarted
  exact Keeps.via (State.setOps_keeps ..) rfl (Keeps.via (State.restartStates_keeps ..) rfl (Keeps.via (s.railStopped_keeps ..) rfl Keeps.refl))

section
variable {s : State} {t b c : Nat} (hne : s.tinOf (t / 13) 12 ≠ t)

theorem State.railRestarted_stopped : (s.railRestarted t b c).tinState t = tsStopped :=
  (State.setOps_fget ..).trans (State.restartStates_stopped ..)

include hne in
theorem State.railRestarted_loading : (s.railRestarted t b c).tinState (s.tinOf (t / 13) 12) = tsLoading :=
  (State.setOps_fget ..).trans (State.restartStates_loading (s.railStopped t b c) hne)

include hne in
theorem State.railRestarted_faults : (s.railRestarted t b c).fget (TIN_STAT.faults t) = satAdd 2 (s.fget (TIN_STAT.faults t)) 1 := by
  unfold State.railRestarted
  rw [State.setOps_fget, State.restartStates_faults (s.railStopped t b c) hne, s.railStopped_faults]

end

end Sys2Proof.Machine
end

section
/-! SUPPORT. BAR and debug-port accesses of the larder, and the restart after a rail fault. -/

namespace Sys2Proof.Machine

/-- Settles O19: a request of the host or of the debug port at the larder is one request of R190's shape, a BAR request that times out gives
up its tags, and a rail fault stops its tin before the spare manager takes the spare for its role. -/
theorem hostWindowAndRailFault : Obligations.HostWindowAndRailFault := by
  unfold Obligations.HostWindowAndRailFault
  refine ⟨?barRead, ?barWrite, ?readTimeout, ?writeTimeout, ?dapRead, ?dapWrite, ?railFault⟩
  case barRead =>
    intro s fn off n hoff hshape hhalt hroute hbars hmay hlost
    exact Runs.of (exec_barRead_larder hoff hshape hhalt hroute hbars hmay hlost) (Keeps.upd_answer rfl Keeps.refl) rfl
  case barWrite =>
    intro s fn off data hoff hshape hhalt hroute hmay hlost hword
    exact Runs.of (exec_barWrite_larder hoff hshape hhalt hroute hmay hlost hword)
      (Keeps.upd_answer rfl (Keeps.upd_larder rfl Keeps.refl Larder.write_markWords_wf)) ⟨s.larder.bytesOnly_write_markWords .., rfl⟩
  case readTimeout =>
    intro s i b hi hread
    exact Runs.of (exec_barTimeout_read hi hread) (Keeps.upd_answer rfl (Keeps.via (s.barGone_keeps i b) rfl Keeps.refl))
      ⟨rfl, rfl, fun _ => State.barGone_moves (i := i)⟩
  case writeTimeout =>
    intro s i b hi hread
    exact Runs.of (exec_barTimeout_write hi hread) (Keeps.via (State.fsat_keeps ..) rfl (s.barGone_keeps i b)) ⟨rfl, s.barGone_bar_denied ..⟩
  case dapRead =>
    intro s a consume inc off htap hhalt hlevel hbound hwait ha hoff hshape hmay hlost
    exact Runs.of (exec_dapRead_larder htap hhalt hlevel hbound hwait ha hoff hshape hlost hmay)
      (Keeps.upd_dbg rfl (Keeps.via s.dapScanned_keeps rfl Keeps.refl)) ⟨rfl, rfl⟩
  case dapWrite =>
    intro s a w inc off htap hhalt hlevel hbound hwait ha hoff hshape hmay hlost hpoison
    exact Runs.of (exec_dapWrite_larder htap hhalt hlevel hbound hwait ha hoff hshape hlost hmay hpoison)
      (Keeps.upd_dbg rfl (Keeps.upd_larder rfl (Keeps.via s.dapScanned_keeps rfl Keeps.refl) Larder.write_markWords_wf))
      ⟨s.larder.bytesOnly_write_markWords .., rfl⟩
  case railFault =>
    intro s t b c d r hrun hused hd hr hr12 htin hop hfrz hkept hspare hne
    subst hd hr
    have hexec := (exec_tinRailFault_running hrun hused).trans (congrArg _ (State.railFault_spare hr12 htin hop hfrz hkept hspare))
    exact Runs.of hexec (s.railRestarted_keeps ..) ⟨s.railRestarted_tinOnly _ _ _, congrArg Tin.stopped (s.railRestarted_tin ..),
      congrArg Tin.faults (s.railRestarted_tin ..), s.railRestarted_port_mode _ _ _, State.railRestarted_faults hne, State.railRestarted_stopped,
      State.railRestarted_loading hne, s.railRestart t.val b.val c.val, rfl, rfl, rfl, rfl, rfl, rfl⟩

/-- The larder with one byte of its last word stored and that word poisoned, where domains 0 and 15 may read and write; the debug level is
FULL, and a BAR read of PF0 and a BAR write of PF1 wait for answers of tin windows. -/
def hostWindow : State :=
  { State.reset with
    regs := [(SEC_LIFECYCLE, 0x0C000000), (LRD_RIGHTS, 0x80000002)]
    larder := { Larder.empty with mem := [(0x7FFFFFD, 0xA7)], poison := [(0xFFFFFF, true)] }
    noc := { Noc.idle with out := [⟨nodeHqe, 7, 1, 0x3000000000, .read, 8⟩, ⟨nodeHqe, 9, 1, 0x3000000008, .write, 8⟩] }
    hqe := { Hqe.fresh with bars := [⟨0, true, [(7, 0)], List.replicate 8 0, false, false⟩, ⟨1, false, [(9, 0)], [], false, false⟩] } }

/-- Tin 0 runs a design with a used input in crumb 0 of batch 0, its role has a kept copy, and tin 12 is a spare. -/
def spareReady : State :=
  { State.reset with
    tins := [(0, { Tin.blank with frames := [(0, BitVec.ofNat 1024 (2 ^ 687))], released := true })]
    kept := [(0, some ⟨[(0, BitVec.ofNat 1024 (2 ^ 687))], []⟩)]
    regs := [(TIN_STAT 12, 0)] }

/-- States that meet the hypotheses of O19, clause by clause. -/
theorem hostWindowAndRailFault_witness :
    (∃ u, exec (.barRead 0 true 0x7FFFFFC 4 .clean) hostWindow = .next u ∧ u.answer = some ⟨stDone, [0, 0xA7, 0, 0], true⟩) ∧
    (∃ u, exec (.barWrite 0 true 0x7FFFFF8 [1, 2, 3, 4, 5, 6, 7, 8] false .clean) hostWindow = .next u ∧
      readBytes 0 u.larder.mem 0x7FFFFF8 8 = [1, 2, 3, 4, 5, 6, 7, 8]) ∧
    (∃ u, exec (.barTimeout 0) hostWindow = .next u ∧ u.answer = some ⟨stAborted, [], false⟩ ∧
      (⟨nodeHqe, 7, 1, 0x3000000000, .read, 8⟩ : Outst) ∈ u.noc.quar) ∧
    (∃ u, exec (.barTimeout 1) hostWindow = .next u ∧ u.fget HQE_ERR.bar_denied = 1) ∧
    (∃ u, exec (.dapRead 0x2007FFFFFC false false .clean) hostWindow = .next u ∧ u.dbg.dapData = 0xA700) ∧
    (∃ u, exec (.dapWrite 0x2007FFFFF0 0x12345678 false .clean) hostWindow = .next u ∧
      readBytes 0 u.larder.mem 0x7FFFFF0 4 = [0x78, 0x56, 0x34, 0x12]) ∧
    (∃ u, exec (.tinRailFault 0 0 0) spareReady = .next u ∧ (u.tin 0).faults = [0] ∧ u.tinState 0 = tsStopped ∧ u.tinState 12 = tsLoading) := by
  obtain ⟨barRead, barWrite, readTimeout, writeTimeout, dapRead, dapWrite, railFault⟩ := hostWindowAndRailFault
  obtain ⟨u1, h1, a1, -⟩ := barRead hostWindow 0 0x7FFFFFC 4 (by decide) (by decide) (by decide +kernel) rfl (by decide) (by decide +kernel) (by decide)
  obtain ⟨u2, h2, ⟨⟨b2, -⟩, -⟩, -⟩ := barWrite hostWindow 0 0x7FFFFF8 [1, 2, 3, 4, 5, 6, 7, 8] (by decide) (by decide) (by decide +kernel) rfl
    (by decide +kernel) (by decide) (.inl (by decide))
  obtain ⟨u3, h3, ⟨a3, -, q3⟩, -⟩ := readTimeout hostWindow 0 ⟨0, true, [(7, 0)], List.replicate 8 0, false, false⟩ rfl rfl
  obtain ⟨u4, h4, ⟨-, d4⟩, -⟩ := writeTimeout hostWindow 1 ⟨1, false, [(9, 0)], [], false, false⟩ rfl rfl
  obtain ⟨u5, h5, ⟨d5, -⟩, -⟩ := dapRead hostWindow 0x2007FFFFFC false false 0x7FFFFFC (by decide +kernel) (by decide +kernel) (by decide +kernel) rfl rfl
    (by decide) (by decide) (by decide) (by decide +kernel) (by decide)
  obtain ⟨u6, h6, ⟨⟨b6, -⟩, -⟩, -⟩ := dapWrite hostWindow 0x2007FFFFF0 0x12345678 false 0x7FFFFF0 (by decide +kernel) (by decide +kernel)
    (by decide +kernel) rfl rfl (by decide) (by decide) (by decide) (by decide +kernel) (by decide) (by decide)
  obtain ⟨u7, h7, ⟨-, -, f7, -, -, s7, l7, -⟩, -⟩ := railFault spareReady 0 0 0 0 0 rfl (by decide +kernel) rfl (by decide) (by decide) (by decide) rfl
    (by decide) (by decide) (by decide +kernel) (by decide)
  exact ⟨⟨u1, h1, a1⟩, ⟨u2, h2, b2⟩, ⟨u3, h3, a3, (q3 _ (by decide) rfl (by decide)).2⟩, ⟨u4, h4, d4.trans (by decide +kernel)⟩,
    ⟨u5, h5, congrArg Dbg.dapData d5⟩, ⟨u6, h6, b6⟩, ⟨u7, h7, f7, s7, l7⟩⟩

end Sys2Proof.Machine
end

section
/-! SUPPORT. Sparing and retirement of bench links and spine routers, and the reroute that follows (R141–R144, R292–R295). -/

namespace Sys2Proof.Machine

/-! ### Frames of the registers -/

theorem State.RegsOnly.trans {s t u : State} {l : List Nat} (h : s.RegsOnly l t) (k : t.RegsOnly l u) : s.RegsOnly l u :=
  fun o ho => (k o ho).trans (h o ho)

theorem State.RegsOnly.fsat {s t : State} {l : List Nat} {f : Fld} {n : Nat} (h : f.off ∈ l) (k : s.RegsOnly l t) : s.RegsOnly l (t.fsat f n) :=
  k.fset h

theorem State.RegsOnly.post {s t : State} {l : List Nat} {c v : Nat} {d : Option Nat} {u a b : Nat} (k : s.RegsOnly l t) :
    s.RegsOnly l (t.post c v d u a b) :=
  k.trans (.of_regs rfl)

/-- A field of a register outside the frame reads as before. -/
theorem State.RegsOnly.fget {s t : State} {l : List Nat} (h : s.RegsOnly l t) {f : Fld} (hf : f.off ∉ l) : t.fget f = s.fget f := by
  unfold State.fget
  rw [h _ hf]

/-- A loop whose every step stays within the frame stays within it. -/
theorem State.RegsOnly.foldl {α : Type} {s : State} {l : List Nat} {f : State → α → State} (hf : ∀ (a : State) x, a.RegsOnly l (f a x)) (r : List α) :
    s.RegsOnly l (r.foldl f s) :=
  List.foldlRecOn r f (motive := fun t => s.RegsOnly l t) (fun _ _ => rfl) (fun t ht x _ => ht.trans (hf t x))

/-- What an event leaves in the log depends on the log and the time before it. -/
theorem State.post_events_congr {s t : State} {c v : Nat} {d : Option Nat} {u a b : Nat} (he : t.events = s.events) (hn : t.now = s.now) :
    (t.post c v d u a b).events = (s.post c v d u a b).events := by
  unfold State.post
  rw [he, hn]

/-- What one element of a loop establishes and no element undoes holds after the loop. -/
theorem foldl_of_mem {σ α : Type} {f : σ → α → σ} {P : σ → Prop} {x : α} {l : List α} (hx : x ∈ l) (hset : ∀ t, P (f t x))
    (hkeep : ∀ t y, P t → P (f t y)) (s : σ) : P (l.foldl f s) := by
  obtain ⟨pre, suf, rfl⟩ := List.append_of_mem hx
  rw [List.foldl_append, List.foldl_cons]
  exact List.foldlRecOn suf f (hset _) (fun t ht y _ => hkeep t y ht)

/-! ### Bench links -/

theorem BL_STAT_state_fits (d k : Nat) : (BL_STAT.state d k).lo + (BL_STAT.state d k).len ≤ 32 := by simp [BL_STAT.state]
theorem BL_STAT_wires_spared_fits (d k : Nat) : (BL_STAT.wires_spared d k).lo + (BL_STAT.wires_spared d k).len ≤ 32 := by simp [BL_STAT.wires_spared]

/-- Setting any link's state to RETIRED leaves every retired link retired. -/
theorem State.fget_fset_bench_retired {s : State} {d k e j : Nat} (h : s.fget (BL_STAT.state e j) = 3) :
    (s.fset (BL_STAT.state d k) 3).fget (BL_STAT.state e j) = 3 := by
  by_cases ho : (BL_STAT.state e j).off = (BL_STAT.state d k).off
  · have hf : BL_STAT.state e j = BL_STAT.state d k := congrArg (fun o => (⟨o, 30, 2⟩ : Fld)) ho
    rw [hf, State.fget_fset _ _ (BL_STAT_state_fits d k)]
    rfl
  · rwa [State.fget_fset_ne _ _ ho]

/-- A link in service is retired by its state, an event and a reroute (R293). -/
theorem State.retireBench_of_in_service {s : State} {d k : Nat} (h : s.fget (BL_STAT.state d k) ≠ 3) :
    (s.retireBench d k).regs = (s.fset (BL_STAT.state d k) 3).regs ∧ (s.retireBench d k).noc = { s.noc with reroute := true } ∧
    (s.retireBench d k).events = (s.post 0x0406 2 (some d) (4 * d + k)).events := by
  unfold State.retireBench
  rw [if_neg h]
  dsimp only
  exact ⟨rfl, rfl, State.post_events_congr rfl rfl⟩

theorem State.retireBench_of_retired {s : State} {d k : Nat} (h : s.fget (BL_STAT.state d k) = 3) : s.retireBench d k = s := if_pos h

theorem State.retireBench_retired (s : State) (d k : Nat) : (s.retireBench d k).fget (BL_STAT.state d k) = 3 := by
  by_cases h : s.fget (BL_STAT.state d k) = 3
  · rwa [State.retireBench_of_retired h]
  · obtain ⟨hregs, -, -⟩ := State.retireBench_of_in_service h
    exact (State.fget_congr hregs _).trans (State.fget_fset _ _ (BL_STAT_state_fits d k))

theorem State.retireBench_keeps_retired {s : State} {d k e j : Nat} (h : s.fget (BL_STAT.state e j) = 3) :
    (s.retireBench d k).fget (BL_STAT.state e j) = 3 := by
  by_cases hd : s.fget (BL_STAT.state d k) = 3
  · rw [State.retireBench_of_retired hd]
    exact h
  · obtain ⟨hregs, -, -⟩ := State.retireBench_of_in_service hd
    exact (State.fget_congr hregs _).trans (State.fget_fset_bench_retired h)

theorem State.retireBench_reroute {s : State} {d k : Nat} (h : s.noc.reroute = true) : (s.retireBench d k).noc.reroute = true := by
  by_cases hd : s.fget (BL_STAT.state d k) = 3
  · rwa [State.retireBench_of_retired hd]
  · obtain ⟨-, hnoc, -⟩ := State.retireBench_of_in_service hd
    rw [hnoc]

section
variable {s : State} {d : DieIx} {k : Fin 4} {out : Bool} {z : Fin 32} {i : Nat} {v : BenchDozen}
  (hi : i = 256 * d.val + 64 * k.val + (if out then 32 else 0) + z.val) (hv : v = Tab.get .fresh s.bench i)
include hi hv

theorem exec_benchWireSpared_of_failed {w : Fin 12} (hfail : (Tab.get .fresh v.wires w.val).failed = true) (hnone : v.spareFor = none)
    (hspare : (Tab.get .fresh v.wires 12).failed = false) :
    exec (.benchWireSpared d k out z w) s = .next ((({ s with bench := Tab.put .fresh s.bench i { v with spareFor := some w.val } }).fsat
      (BL_STAT.wires_spared d.val k.val) 1).post 0x0404 2 (some d.val) (4 * d.val + k.val) z.val w.val) := by
  subst hi hv
  exact if_pos (by simp [hfail, hnone, hspare])

theorem exec_benchDozenSpared_of_two_failed {f : Fld} (hf : f = (if out then BL_STAT.spare_out d.val k.val else BL_STAT.spare_in d.val k.val))
    (htwo : 2 ≤ (v.wires.filter (fun w => w.2.failed)).length) (hroom : s.fget f < 2) (hup : s.fget (BL_STAT.state d.val k.val) ≠ 3) :
    exec (.benchDozenSpared d k out z) s = .next ((({ s with bench := Tab.put .fresh s.bench i .fresh }).fset f (s.fget f + 1)).post 0x0405 2
      (some d.val) (4 * d.val + k.val) z.val) := by
  subst hi hv hf
  exact if_pos ⟨htwo, hroom, hup⟩

end

theorem exec_benchLinkRetired_of_needs {s : State} {d : DieIx} {k : Fin 4}
    (h : s.benchNeeds d.val k.val true = true ∨ s.benchNeeds d.val k.val false = true) :
    exec (.benchLinkRetired d k) s = .next (s.retireBench d.val k.val) :=
  if_pos (by simpa using h)

/-! ### Spine routers -/

/-- What the loss of a router's packets changes of the registers is the count of discarded packets (R290). -/
theorem State.discard_regsOnly (s : State) (n : Nat) : s.RegsOnly [NOC_ERR] (s.discard n) := by
  have hcount : s.RegsOnly [NOC_ERR] (s.fsat NOC_ERR.discard 1) := State.RegsOnly.fsat (by simp [NOC_ERR.discard]) (fun _ _ => rfl)
  exact hcount.trans (.of_regs (by simp [State.discard, State.lostPosted]))

theorem State.loseRouter_regsOnly (s : State) (i : Nat) : s.RegsOnly [NOC_ERR] (s.loseRouter i) := by
  unfold State.loseRouter
  refine State.RegsOnly.trans (.of_regs rfl) (State.RegsOnly.foldl (fun a v => ?_) _)
  split
  · exact a.discard_regsOnly _
  · exact fun _ _ => rfl

/-- The packets inside the router are gone; of the NoC nothing else changes (R295). -/
theorem State.loseRouter_noc (s : State) (i : Nat) : (s.loseRouter i).noc =
    { s.noc with flights := s.noc.flights.filter (fun v => !(List.range v.idx.length).any (fun n => v.locOf n == 144 + i)) } := by
  unfold State.loseRouter
  refine List.foldlRecOn _ _ (motive := fun t : State => t.noc = _) rfl (fun t ht v _ => ?_)
  rw [← ht]
  split
  · exact (t.discard_keeps _).only .noc (by decide)
  · rfl

/-- Spine router `i` out of service and its packets lost, and `SPINE_12` in its place (R295). -/
def State.spineSpared (s : State) (i : Nat) : State :=
  (((s.markSpine i).fset NOC_SPINE.spare_used 1).fset NOC_SPINE.spare_for i).loseRouter i

theorem State.failSpine_of_spare {s : State} {i : Nat} (hi : i ≠ 12) (hfree : s.fbit NOC_SPINE.spare_used = false)
    (hgood : bit (s.fget NOC_SPINE.failed) 12 = false) (hok : bit (s.fget NOC_SPINE.failed) i = false) :
    s.failSpine i = { (s.spineSpared i).post 0x0407 2 none i with noc := { (s.spineSpared i).noc with reroute := true } } := by
  simp [State.failSpine, hi, hfree, hgood, hok, State.spineSpared]

/-- Spine router `i` out of service, its packets lost, and a reroute due (R295). -/
def State.spineLost (s : State) (i : Nat) : State :=
  { ((s.markSpine i).loseRouter i).post 0x0408 2 none i with noc := { ((s.markSpine i).loseRouter i).noc with reroute := true } }

/-- Bench link number `l` retired if it ends at spine position `slot`. -/
def State.retireAt (slot : Nat) (s : State) (l : Nat) : State := if benchSlot (l / 4) (l % 4) = slot then s.retireBench (l / 4) (l % 4) else s

theorem State.failSpine_of_no_spare {s : State} {i : Nat} (hi : i ≠ 12)
    (hnone : s.fbit NOC_SPINE.spare_used = true ∨ bit (s.fget NOC_SPINE.failed) 12 = true) (hok : bit (s.fget NOC_SPINE.failed) i = false) :
    s.failSpine i = (List.range 32).foldl (State.retireAt i) (s.spineLost i) := by
  have hspare : (!s.fbit NOC_SPINE.spare_used && !bit (s.fget NOC_SPINE.failed) 12) = false := by
    rcases hnone with h | h <;> simp [h]
  unfold State.failSpine
  simp only [hok, hi, hspare, Bool.false_eq_true, if_false]
  rfl

theorem State.retireAt_keeps_retired {s : State} {slot l e j : Nat} (h : s.fget (BL_STAT.state e j) = 3) :
    (s.retireAt slot l).fget (BL_STAT.state e j) = 3 := by
  unfold State.retireAt
  split
  · exact State.retireBench_keeps_retired h
  · exact h

theorem State.retireAt_reroute {s : State} {slot l : Nat} (h : s.noc.reroute = true) : (s.retireAt slot l).noc.reroute = true := by
  unfold State.retireAt
  split
  · exact State.retireBench_reroute h
  · exact h

/-- A router without a replacement takes every bench link of its position with it, and a reroute is due (R295). -/
theorem State.foldl_retireAt {s : State} {slot : Nat} (hroute : s.noc.reroute = true) :
    ((List.range 32).foldl (State.retireAt slot) s).noc.reroute = true ∧ ∀ l, l < 32 → benchSlot (l / 4) (l % 4) = slot →
      ((List.range 32).foldl (State.retireAt slot) s).fget (BL_STAT.state (l / 4) (l % 4)) = 3 := by
  refine ⟨List.foldlRecOn (motive := fun t : State => t.noc.reroute = true) _ _ hroute (fun _ ht _ _ => State.retireAt_reroute ht),
    fun l hl hslot => ?_⟩
  refine foldl_of_mem (P := fun t : State => t.fget (BL_STAT.state (l / 4) (l % 4)) = 3) (List.mem_range.mpr hl) (fun t => ?_)
    (fun _ _ ht => State.retireAt_keeps_retired ht) s
  rw [State.retireAt, if_pos hslot]
  exact t.retireBench_retired ..

theorem exec_spineRouterSpared_of_spare {s : State} {i : Fin 12} (hfree : s.fbit NOC_SPINE.spare_used = false)
    (hgood : bit (s.fget NOC_SPINE.failed) 12 = false) : exec (.spineRouterSpared i) s = .next (s.failSpine i.val) :=
  if_pos (by simp [hfree, hgood])

theorem exec_spineRouterRetired_of_no_spare {s : State} {i : SpineIx}
    (h : s.fbit NOC_SPINE.spare_used = true ∨ bit (s.fget NOC_SPINE.failed) 12 = true) :
    exec (.spineRouterRetired i) s = .next (s.failSpine i.val) :=
  if_pos (Or.inr h)

/-- `NOC_SPINE` after `SPINE_12` has taken the place of router `i`. -/
theorem State.spineSpared_fget {s : State} {i : Nat} (hi : i < 16) :
    (s.spineSpared i).fget NOC_SPINE.failed = setBit (s.fget NOC_SPINE.failed) i true % 2 ^ 13 ∧
    (s.spineSpared i).fget NOC_SPINE.spare_used = 1 ∧ (s.spineSpared i).fget NOC_SPINE.spare_for = i := by
  have hlost : ∀ f : Fld, f.off = NOC_SPINE → (s.spineSpared i).fget f =
      (((s.markSpine i).fset NOC_SPINE.spare_used 1).fset NOC_SPINE.spare_for i).fget f := fun f hf =>
    (State.loseRouter_regsOnly _ i).fget (by rw [hf]; decide)
  refine ⟨?_, ?_, ?_⟩
  · rw [hlost _ rfl, State.fget_fset_apart (f := NOC_SPINE.spare_for) (g := NOC_SPINE.failed) _ _ rfl (by decide) (by decide),
      State.fget_fset_apart (f := NOC_SPINE.spare_used) (g := NOC_SPINE.failed) _ _ rfl (by decide) (by decide)]
    exact State.fget_fset s _ (by decide)
  · rw [hlost _ rfl, State.fget_fset_apart (f := NOC_SPINE.spare_for) (g := NOC_SPINE.spare_used) _ _ rfl (by decide) (by decide),
      State.fget_fset _ _ (by decide)]
    rfl
  · rw [hlost _ rfl, State.fget_fset _ _ (by decide)]
    exact Nat.mod_eq_of_lt hi

/-! ### The reroute step -/

theorem exec_rerouteStep_of_due {s : State} (h : s.noc.reroute = true) : exec .rerouteStep s = .next s.rerouteStep := if_pos h

/-- The routes installed go around the retired links. -/
theorem State.mem_rerouteStep_downLinks {s : State} {i : Nat} :
    i ∈ s.rerouteStep.noc.downLinks ↔ i < 32 ∧ s.fget (BL_STAT.state (i / 4) (i % 4)) = 3 := by
  simp [State.rerouteStep]

/-- The routes installed go around the spine positions without a router. -/
theorem State.mem_rerouteStep_downSpines {s : State} {i : Nat} : i ∈ s.rerouteStep.noc.downSpines ↔ i < 12 ∧ s.spineUp i = false := by
  simp [State.rerouteStep]

/-- Settles O11: a wire and a dozen are replaced from the dozen's own spares, a link without a spare is retired, a router without a
replacement retires the links of its position, and the reroute step reads the retired links and routers off the registers. -/
theorem nocSparing : Obligations.NocSparing := by
  unfold Obligations.NocSparing
  refine ⟨?wire, ?dozen, ?link, ?spared, ?retired, ?reroute⟩
  case wire =>
    intro s d k out z w i v hi hv hfail hnone hspare
    have hexec := exec_benchWireSpared_of_failed hi hv hfail hnone hspare
    refine Runs.keeps ((execBenchWireSpared_keeps d k out z w s).via rfl Keeps.refl) fun u hu => ?_
    cases hexec.symm.trans hu
    refine ⟨rfl, ?_, .post (.fsat (List.mem_singleton_self _) (.of_regs rfl)), State.post_events_congr rfl rfl⟩
    rw [State.post_fget, State.fget_fsat _ _ (BL_STAT_wires_spared_fits d.val k.val)]
    rfl
  case dozen =>
    intro s d k out z i v f hi hv hf htwo hroom hup
    have hexec := exec_benchDozenSpared_of_two_failed hi hv hf htwo hroom hup
    have hfits : f.lo + f.len ≤ 32 ∧ f.len = 2 := by subst hf; cases out <;> simp [BL_STAT.spare_out, BL_STAT.spare_in]
    refine Runs.keeps ((execBenchDozenSpared_keeps d k out z s).via rfl Keeps.refl) fun u hu => ?_
    cases hexec.symm.trans hu
    refine ⟨rfl, ?_, .post (.fset (List.mem_singleton_self _) (.of_regs rfl)), State.post_events_congr rfl rfl⟩
    rw [State.post_fget, State.fget_fset _ _ hfits.1, hfits.2, Nat.mod_eq_of_lt (by omega)]
  case link =>
    intro s d k hneeds hup
    have hexec := exec_benchLinkRetired_of_needs hneeds
    obtain ⟨hregs, hnoc, hevents⟩ := State.retireBench_of_in_service hup
    exact Runs.of hexec ((s.retireBench_keeps d.val k.val).via rfl Keeps.refl)
      ⟨s.retireBench_retired .., (State.RegsOnly.fset (List.mem_singleton_self _) (.of_regs rfl)).trans (.of_regs hregs), hnoc, hevents⟩
  case spared =>
    intro s i hfree hgood hok
    have hfail := State.failSpine_of_spare (by omega) hfree hgood hok
    obtain ⟨hfailed, hused, hfor⟩ := s.spineSpared_fget (i := i.val) (by omega)
    refine Runs.of (exec_spineRouterSpared_of_spare hfree hgood) ((s.failSpine_keeps i.val).via rfl Keeps.refl) ?_
    rw [hfail]
    exact ⟨hfailed, beq_iff_eq.mpr hused, hfor, rfl, congrArg Noc.flights (State.loseRouter_noc ..)⟩
  case retired =>
    intro s i hnone hi hok
    refine Runs.of (exec_spineRouterRetired_of_no_spare hnone) ((s.failSpine_keeps i.val).via rfl Keeps.refl) ?_
    rw [State.failSpine_of_no_spare hi hnone hok]
    exact State.foldl_retireAt rfl
  case reroute =>
    exact fun s hdue => Runs.of (exec_rerouteStep_of_due hdue) (s.rerouteStep_keeps.via rfl Keeps.refl)
      ⟨rfl, rfl, rfl, fun _ => State.mem_rerouteStep_downLinks, fun _ => State.mem_rerouteStep_downSpines, rfl, rfl⟩

/-- Wire 0 of dozen 0 of the in direction of `BL_0_0` has failed, and wires 3 and 4 of dozen 0 of its out direction, which has used both of
its spare dozens as `spares` says; with `used`, `SPINE_12` has taken the place of router 3. -/
def benchFailures (spares : Nat) (used : Bool) : State :=
  ({ State.reset with
    bench := [(0, { BenchDozen.fresh with wires := [(0, { Wire.fresh with failed := true })] }),
      (32, { BenchDozen.fresh with wires := [(3, { Wire.fresh with failed := true }), (4, { Wire.fresh with failed := true })] })]
    noc := { Noc.idle with reroute := true } }.fset (BL_STAT.spare_out 0 0) spares).fset NOC_SPINE.spare_used (b2n used)

/-- States that meet the hypotheses of O11, clause by clause; `BL_0_0`, `BL_4_0` end at spine position 0. -/
theorem nocSparing_witness :
    (∃ u, exec (.benchWireSpared 0 0 false 0 0) (benchFailures 0 false) = .next u ∧ u.fget (BL_STAT.wires_spared 0 0) = 1) ∧
    (∃ u, exec (.benchDozenSpared 0 0 true 0) (benchFailures 1 false) = .next u ∧ u.fget (BL_STAT.spare_out 0 0) = 2) ∧
    (∃ u, exec (.benchLinkRetired 0 0) (benchFailures 2 false) = .next u ∧ u.fget (BL_STAT.state 0 0) = 3) ∧
    (∃ u, exec (.spineRouterSpared 11) (benchFailures 0 false) = .next u ∧ u.fget NOC_SPINE.spare_for = 11) ∧
    (∃ u, exec (.spineRouterRetired 0) (benchFailures 0 true) = .next u ∧ u.fget (BL_STAT.state 0 0) = 3 ∧ u.fget (BL_STAT.state 4 0) = 3) ∧
    (∃ u, exec .rerouteStep ((benchFailures 2 false).fset (BL_STAT.state 7 3) 3) = .next u ∧ u.noc.reroute = false ∧ 31 ∈ u.noc.downLinks) := by
  obtain ⟨wire, dozen, link, spared, retired, reroute⟩ := nocSparing
  obtain ⟨u1, h1, ⟨-, c1, -⟩, -⟩ := wire (benchFailures 0 false) 0 0 false 0 0 _ _ rfl rfl (by decide +kernel) (by decide +kernel) (by decide +kernel)
  obtain ⟨u2, h2, ⟨-, c2, -⟩, -⟩ := dozen (benchFailures 1 false) 0 0 true 0 _ _ _ rfl rfl rfl (by decide +kernel) (by decide +kernel) (by decide +kernel)
  obtain ⟨u3, h3, ⟨c3, -⟩, -⟩ := link (benchFailures 2 false) 0 0 (.inl (by decide +kernel)) (by decide +kernel)
  obtain ⟨u4, h4, ⟨-, -, c4, -⟩, -⟩ := spared (benchFailures 0 false) 11 (by decide +kernel) (by decide +kernel) (by decide +kernel)
  obtain ⟨u5, h5, ⟨-, c5⟩, -⟩ := retired (benchFailures 0 true) 0 (.inl (by decide +kernel)) (by decide) (by decide +kernel)
  obtain ⟨u6, h6, ⟨r6, -, -, l6, -⟩, -⟩ := reroute ((benchFailures 2 false).fset (BL_STAT.state 7 3) 3) rfl
  exact ⟨⟨u1, h1, c1.trans (by decide +kernel)⟩, ⟨u2, h2, c2.trans (by decide +kernel)⟩, ⟨u3, h3, c3⟩, ⟨u4, h4, c4⟩,
    ⟨u5, h5, c5 0 (by decide) (by decide), c5 16 (by decide) (by decide)⟩, ⟨u6, h6, r6, (l6 31).mpr ⟨by decide, by decide +kernel⟩⟩⟩

end Sys2Proof.Machine
end

section
/-! SUPPORT. Self-test and fill of the memories (R204–R206), the pool sweep (R201, R202) and the control queues of a MAC (R522). -/

namespace Sys2Proof.Machine

/-! ### A fabric die -/

/-- The self-test and fill leaves a pantry blank but for its spare rows. -/
theorem Tin.filled_pantry (x : Tin) (bad : Bool) (p : Nat) : ((x.filled bad).pantry p).rows = [] ∧ ((x.filled bad).pantry p).poison = [] :=
  Tab.get_mapVals_of (P := fun v : Pantry => v.rows = [] ∧ v.poison = []) (fun _ => ⟨rfl, rfl⟩) ⟨rfl, rfl⟩ x.pantries p

/-- The first `n` tins of a die after the self-test and fill of their memories. -/
def State.fillFirst (s : State) (d : Nat) (bad : List (Fin 13)) (n : Nat) : State :=
  (List.range n).foldl (fun a t => a.setTin (13 * d + t) ((a.tin (13 * d + t)).filled (bad.any (fun b => b.val == t)))) s

theorem State.fillFirst_succ (s : State) (d : Nat) (bad : List (Fin 13)) (n : Nat) : s.fillFirst d bad (n + 1) =
    (s.fillFirst d bad n).setTin (13 * d + n) (((s.fillFirst d bad n).tin (13 * d + n)).filled (bad.any (fun b => b.val == n))) := by
  unfold State.fillFirst
  rw [List.range_succ, List.foldl_append, List.foldl_cons, List.foldl_nil]

/-- The first `n` tins of the die are filled, and every other tin is as before. -/
theorem State.tin_fillFirst (s : State) (d : Nat) (bad : List (Fin 13)) (n j : Nat) : (s.fillFirst d bad n).tin j =
    if 13 * d ≤ j ∧ j < 13 * d + n then (s.tin j).filled (bad.any (fun b => b.val == j - 13 * d)) else s.tin j := by
  induction n generalizing j with
  | zero => rw [if_neg (by omega)]; rfl
  | succ n ih =>
    have hnext := ih (13 * d + n)
    rw [if_neg (by omega)] at hnext
    rw [State.fillFirst_succ, State.tin_setTin, hnext]
    by_cases hj : j = 13 * d + n
    · rw [if_pos hj, if_pos (by omega), hj, Nat.add_sub_cancel_left]
    · rw [if_neg hj, ih]
      have hrange : (13 * d ≤ j ∧ j < 13 * d + n) ↔ (13 * d ≤ j ∧ j < 13 * d + (n + 1)) := by omega
      simp only [hrange]

theorem State.tin_fillTins (s : State) {d t : Nat} (bad : List (Fin 13)) (ht : t < 13) :
    (s.fillTins d bad).tin (13 * d + t) = (s.tin (13 * d + t)).filled (bad.any (fun b => b.val == t)) := by
  change (s.fillFirst d bad 13).tin (13 * d + t) = _
  rw [State.tin_fillFirst, if_pos ⟨by omega, by omega⟩, Nat.add_sub_cancel_left]

/-- Training its bench links writes `BL_STAT` of the die alone. -/
theorem State.trainLinks_fget (s : State) {d : Nat} {f : Fld} (h : ∀ k, f.off ≠ BL_STAT d k) : (s.trainLinks d).fget f = s.fget f := by
  unfold State.trainLinks
  refine List.foldlRecOn _ _ (motive := fun t : State => t.fget f = s.fget f) rfl (fun t ht k _ => ?_)
  split
  · rwa [State.fget_fset_ne _ _ (h k)]
  · exact ht

/-- Training a seam writes `SEAM_STAT` of its two ends alone. -/
theorem State.trainSeam_fget (s : State) (k : Nat) {f : Fld} (h : ∀ e i, f.off ≠ SEAM_STAT e i) : (s.trainSeam k).fget f = s.fget f := by
  rw [State.trainSeam, State.fget_fset_ne _ _ (h _ _), State.fget_fset_ne _ _ (h _ _)]

theorem State.trainSeams_fget (s : State) (d : Nat) {f : Fld} (h : ∀ e i, f.off ≠ SEAM_STAT e i) : (s.trainSeams d).fget f = s.fget f := by
  unfold State.trainSeams
  dsimp only
  split <;> split <;> simp [State.trainSeam_fget, h]

theorem DIE_STAT_ne_BL_STAT (d k : Nat) : DIE_STAT d ≠ BL_STAT d k := by unfold DIE_STAT BL_STAT; omega
theorem DIE_STAT_ne_SEAM_STAT (d e i : Nat) : DIE_STAT d ≠ SEAM_STAT e i := by unfold DIE_STAT SEAM_STAT dieBase; omega

/-- A starting die runs once its memories are filled (R204, R206). -/
theorem State.fillDie_runs {s : State} {d : Nat} (bad : List (Fin 13)) (h : s.fget (DIE_STAT.state d) = 1) :
    (s.fillDie d bad).fget (DIE_STAT.state d) = 2 := by
  have hstarts : (s.fillTins d bad).fget (DIE_STAT.state d) = 1 := by
    rw [State.fget_congr ((s.fillTins_keeps d bad).only .regs (by decide)), h]
  unfold State.fillDie
  rw [State.trainSeams_fget _ _ (DIE_STAT_ne_SEAM_STAT d), State.trainLinks_fget _ (DIE_STAT_ne_BL_STAT d), if_pos hstarts,
    State.fget_fset _ _ (by simp [DIE_STAT.state])]
  rfl

/-- The tins of the die after the fill; training the links and seams touches none. -/
theorem State.tin_fillDie (s : State) {d t : Nat} (bad : List (Fin 13)) (ht : t < 13) :
    (s.fillDie d bad).tin (13 * d + t) = (s.tin (13 * d + t)).filled (bad.any (fun b => b.val == t)) := by
  have htrain : ∀ u : State, ((u.trainLinks d).trainSeams d).tins = u.tins := fun u =>
    ((State.trainSeams_keeps _ d).only .tins (by decide)).trans ((u.trainLinks_keeps d).only .tins (by decide))
  have htins : (s.fillDie d bad).tins = (s.fillTins d bad).tins := by
    unfold State.fillDie
    dsimp only
    rw [htrain]
    split
    · exact State.fset_tins ..
    · rfl
  rw [State.tin_congr htins, State.tin_fillTins s bad ht]

theorem exec_selfTestAndFill_starting {s : State} {d : DieIx} (bad : List (Fin 13)) (bb : List (Fin 16)) (k : Fin 3)
    (h : s.fget (DIE_STAT.state d.val) = 1) : exec (.selfTestAndFill (some d) bad bb k) s = .next (s.fillDie d.val bad) :=
  if_pos (Or.inl h)

/-! ### The hub -/

theorem exec_selfTestAndFill_hub {s : State} (bad : List (Fin 13)) (bb : List (Fin 16)) (k : Fin 3) (hpower : s.powerGood = true)
    (hlocked : s.fbit CLK_STAT.a_locked = true) (hready : s.cfg.ready = false) :
    exec (.selfTestAndFill none bad bb k) s = .next (s.fillHub bb k) :=
  if_pos (by simp [hpower, hlocked, hready])

/-- With every bank's checkers good and a working checker of the pool, the fill leaves the larder zero and the pool fresh (R205, R206). -/
theorem State.fillHub_of_checkers (s : State) {k : Fin 3} (hk : k.val ≠ 0) :
    s.fillHub [] k = (State.fset { s with
      larder := { Larder.empty with banks := s.larder.banks }, pool := { Pool.fresh with checkers := k.val, lost := false } }
        POOL_STAT.free 16384).fset POOL_STAT.retired 0 := by
  have hlost : (k.val == 0) = false := by simpa using hk
  unfold State.fillHub
  simp only [hlost, hk, if_false, List.foldl_nil]

/-! ### The cell pool and the control queues -/

theorem exec_poolSweep_of_free_list {s : State} (h : s.pool.freeBroken = false) :
    exec .poolSweep s = .next (State.fset { s with pool := { s.pool with marked := [], markedCells := 0 } } POOL_STAT.free
      (s.fget POOL_STAT.free + s.pool.markedCells)) := by
  change execPoolSweep s = _
  simp [execPoolSweep, h]

/-- The low bits of a number are bits of the number. -/
theorem bit_mod_two_pow {n i m : Nat} (h : i < m) : bit (n % 2 ^ m) i = bit n i := by
  have hm : (2 : Nat) ^ m = 2 ^ i * (2 ^ 1 * 2 ^ (m - i - 1)) := by
    rw [← Nat.pow_add, ← Nat.pow_add]; congr 1; omega
  unfold bit bits
  rw [hm, Nat.mod_mul_right_div_self, Nat.mod_mul_right_mod]

@[simp] theorem bit_setBit (n i : Nat) (b : Bool) : bit (setBit n i b) i = b := by
  cases b <;> simp [bit, setBit, bits_setBits]

@[simp] theorem State.cq_setCq (s : State) (d k : Nat) (v : Cq) : (s.setCq d k v).cq d k = v := by simp [State.cq, State.setCq]

theorem State.cq_congr {s t : State} (h : t.mac = s.mac) {d k : Nat} : t.cq d k = s.cq d k := by unfold State.cq; rw [h]

/-- A control queue whose list is not marked for reclaim is reset: its ring and its list are empty and its error bit is 0 (R522). -/
theorem State.cqReset_of_unmarked {s : State} {d k : Nat} (hk : k < 13) (h : cqList d k ∉ s.pool.marked) :
    (s.cqReset d k).cq d k = .fresh ∧ (s.cqReset d k).pool.entries (cqList d k) = [] ∧
    bit ((s.cqReset d k).fget (MAC_CQ_STAT.error d)) k = false := by
  unfold State.cqReset
  rw [if_neg (by simpa using h)]
  dsimp only
  refine ⟨(State.cq_congr (State.fset_mac ..)).trans (State.cq_setCq ..), Tab.get_put_self, ?_⟩
  rw [State.fget_fset _ _ (by simp [MAC_CQ_STAT.error])]
  exact (bit_mod_two_pow (show k < (MAC_CQ_STAT.error d).len from hk)).trans (bit_setBit _ k false)

/-- Nothing moves to the ring while nothing waits. -/
theorem State.cqDrain_of_empty {s : State} {d k : Nat} (n : Nat) (h : s.pool.entries (cqList d k) = []) : s.cqDrain d k n = s := by
  cases n with
  | zero => rfl
  | succ n =>
    unfold State.cqDrain
    rw [h]

theorem exec_macCqHead_of_empty {s : State} {d : DieIx} {k : Fin 13} {h : Fin 64} (hempty : s.pool.entries (cqList d.val k.val) = []) :
    exec (.macCqHead d k h) s = .next (s.setCq d.val k.val { s.cq d.val k.val with head := h.val }) :=
  congrArg Host.Outcome.next (State.cqDrain_of_empty 256 hempty)

/-- Settles O18: a starting die's tins are each filled once and its state register alone says that it runs; the hub's fill, the sweep, the
reset and the new head write what their clauses name. -/
theorem memoryFill : Obligations.MemoryFill := by
  unfold Obligations.MemoryFill
  refine ⟨?die, ?hub, ?sweep, ?reset, ?head⟩
  case die =>
    intro s d bad bb k hstarting
    have hkeeps := s.fillDie_keeps d.val bad
    refine Runs.of (exec_selfTestAndFill_starting bad bb k hstarting) (hkeeps.via rfl Keeps.refl) ⟨State.fillDie_runs bad hstarting,
      hkeeps.only .larder (by decide), hkeeps.only .events (by decide), fun t ht => ?_⟩
    rw [State.tin_fillDie s bad ht]
    exact ⟨rfl, rfl, Tin.filled_pantry _ _, by simp [Tin.filled]⟩
  case hub =>
    intro s bad k hpower hlocked hready hk
    refine Runs.of (exec_selfTestAndFill_hub bad [] k hpower hlocked hready) ((s.fillHub_keeps [] k).via rfl Keeps.refl) ?_
    rw [State.fillHub_of_checkers s hk]
    refine ⟨rfl, rfl, rfl, rfl, ?_, State.fget_fset _ _ (by decide), rfl⟩
    rw [State.fget_fset_apart (f := POOL_STAT.retired) (g := POOL_STAT.free) _ _ rfl (by decide) (by decide), State.fget_fset _ _ (by decide)]
    rfl
  case sweep =>
    intro s hfree hroom
    refine Runs.of (exec_poolSweep_of_free_list hfree) (Keeps.via (State.fset_keeps ..) rfl (Keeps.upd_pool rfl Keeps.refl))
      ⟨?_, .fset (by decide) (.of_regs rfl), rfl⟩
    rw [State.fget_fset _ _ (by decide)]
    exact Nat.mod_eq_of_lt hroom
  case reset =>
    exact fun s d k hunmarked => Runs.of rfl (s.cqReset_keeps d.val k.val) (State.cqReset_of_unmarked k.isLt hunmarked)
  case head =>
    exact fun s d k h hempty => Runs.of (exec_macCqHead_of_empty hempty) (s.setCq_keeps ..) ⟨State.cq_setCq .., fun _ hj => Tab.get_put_ne hj⟩

/-- Die 0 starts with a token in tin 3 and a word in one of its pantries; the device has power and the clock, bytes in the larder, ten free
cells in the pool and three in a list marked for reclaim; an entry waits for control queue 0 of die 0, whose error bit is set. -/
def beforeFill : State :=
  ((((State.fset { State.reset with
    tins := [(3, { Tin.blank with holds := [(0, ⟨true, true, false⟩)], pantries := [(0, { Pantry.blank with rows := [(0, 5)] })] })]
    larder := { Larder.empty with mem := [(0, 0xA7)], poison := [(0, true)] }
    pool := { Pool.fresh with lists := [(cqList 0 0, [7])], marked := [5], markedCells := 3 }
    powerGood := true } (DIE_STAT.state 0) 1).fset CLK_STAT.a_locked 1).fset POOL_STAT.free 10).fset (MAC_CQ_STAT.error 0) 1)

/-- States that meet the hypotheses of O18, clause by clause. -/
theorem memoryFill_witness :
    (∃ u, exec (.selfTestAndFill (some 0) [12] [] 2) beforeFill = .next u ∧ u.fget (DIE_STAT.state 0) = 2 ∧ (u.tin 3).holds = [] ∧
      ((u.tin 3).pantry 0).rows = [] ∧ (u.tin 12).unhealthy = true) ∧
    (∃ u, exec (.selfTestAndFill none [] [] 1) beforeFill = .next u ∧ u.larder.mem = [] ∧ u.fget POOL_STAT.free = 16384) ∧
    (∃ u, exec .poolSweep beforeFill = .next u ∧ u.fget POOL_STAT.free = 13 ∧ u.pool.marked = []) ∧
    (∃ u, exec (.macCqReset 0 0) beforeFill = .next u ∧ u.pool.entries (cqList 0 0) = [] ∧ bit (u.fget (MAC_CQ_STAT.error 0)) 0 = false) ∧
    (∃ u, exec (.macCqHead 0 12 63) beforeFill = .next u ∧ (u.cq 0 12).head = 63) := by
  obtain ⟨die, hub, sweep, reset, head⟩ := memoryFill
  obtain ⟨u1, h1, ⟨r1, -, -, t1⟩, -⟩ := die beforeFill 0 [12] [] 2 (by decide +kernel)
  obtain ⟨hholds, -, hpantries, -⟩ := t1 3 (by decide)
  obtain ⟨-, -, -, hhealth⟩ := t1 12 (by decide)
  obtain ⟨u2, h2, ⟨m2, -, -, -, f2, -⟩, -⟩ := hub beforeFill [] 1 rfl (by decide +kernel) rfl (by decide)
  obtain ⟨u3, h3, ⟨f3, -, p3⟩, -⟩ := sweep beforeFill rfl (by decide +kernel)
  obtain ⟨u4, h4, ⟨-, e4, b4⟩, -⟩ := reset beforeFill 0 0 (by decide)
  obtain ⟨u5, h5, ⟨c5, -⟩, -⟩ := head beforeFill 0 12 63 (by decide)
  exact ⟨⟨u1, h1, r1, hholds, (hpantries 0).1, hhealth.mpr (.inr ⟨12, by decide, rfl⟩)⟩, ⟨u2, h2, m2, f2⟩,
    ⟨u3, h3, f3.trans (by decide +kernel), congrArg Pool.marked p3⟩, ⟨u4, h4, e4, b4⟩, ⟨u5, h5, congrArg Cq.head c5⟩⟩

end Sys2Proof.Machine
end

section
/-! SUPPORT. How a load ends: the registers that show its outcome (R532, R538, R553), and the command of the host that waits for it
(R413, R432, R436). -/

namespace Sys2Proof.Machine

/-! ### The end of a command of the host -/

/-- What a job's end writes of the registers: the count of completions that no queue receives. -/
theorem State.dropJob_regsOnly (s : State) (q k status detail result : Nat) :
    s.RegsOnly [HQE_ERR, HQE_QCTL] (s.dropJob q k status detail result) := by
  unfold State.dropJob
  split
  · exact fun _ _ => rfl
  · dsimp only
    split
    · split
      · exact (State.RegsOnly.fsat (by decide) (.of_regs rfl)).trans (.of_regs rfl)
      · exact .of_regs rfl
    · split
      · exact .of_regs ((State.cqEntryOut_keeps ..).only .regs (by decide))
      · exact .of_regs rfl

/-- What the end of a queue's deletion writes of the registers: the enable of the admin queue. -/
theorem State.settleQueue_regsOnly (n : Nat) (s : State) (q : Nat) : s.RegsOnly [HQE_ERR, HQE_QCTL] (State.settleQueue n s q) := by
  induction n generalizing s q with
  | zero => exact fun _ _ => rfl
  | succ n ih =>
    have hdisabled : ∀ w, s.RegsOnly [HQE_ERR, HQE_QCTL] (if q = 0 then (s.setQueue q w).fset HQE_QCTL.enable 0 else s.setQueue q w) := fun w => by
      split
      · exact .fset (by decide) (.of_regs rfl)
      · exact .of_regs rfl
    unfold State.settleQueue
    dsimp only
    split
    · exact fun _ _ => rfl
    · split
      · exact State.RegsOnly.trans (.of_regs rfl) (ih _ _)
      · split
        · exact fun _ _ => rfl
        · refine State.RegsOnly.trans (.of_regs ?_) (ih _ _)
          exact (Keeps.trans (State.cqEntryOut_keeps ..) (s.setQueue_keeps ..)).only .regs (by decide)
    · split
      · exact fun _ _ => rfl
      · split
        · exact hdisabled _
        · exact ((hdisabled _).trans (State.dropJob_regsOnly _ _ _ _ _ _)).trans (ih _ _)

theorem State.finishWait_regsOnly (s : State) (w : Wait) (status detail result : Nat) :
    s.RegsOnly [HQE_ERR, HQE_QCTL] (s.finishWait w status detail result) := by
  unfold State.finishWait
  split
  · exact (s.dropJob_regsOnly _ _ _ _ _).trans (State.settleQueue_regsOnly _ _ _)
  · exact fun _ _ => rfl

/-! ### The outcome of a load -/

/-- No register holds anything of `CFG`'s own state. -/
theorem State.fget_withCfg (s : State) (c : Cfg) (f : Fld) : State.fget { s with cfg := c } f = s.fget f := rfl

theorem State.setLoad_fget (s : State) (l : Option Load) (f : Fld) : (s.setLoad l).fget f = (s.fset CFG_STAT.loading (b2n l.isSome)).fget f := by
  unfold State.setLoad
  exact State.fget_withCfg ..

/-- The outcome in the registers of the status word, the load over (R532). -/
def State.outcomeRegs (s : State) (st off : Nat) : State :=
  (((s.fset CFG_STAT.last_status st).fset (CFG_OFFSET.offset 0) (off % 2 ^ 32)).fset (CFG_OFFSET.offset 1) (off / 2 ^ 32)).setLoad none

/-- The outcome in the registers and at the pin (R532, R538). -/
def State.outcomeShown (s : State) (st off : Nat) : State :=
  { s.outcomeRegs st off with cfg := { (s.outcomeRegs st off).cfg with errN := stOk st } }

theorem State.outcomeShown_fget (s : State) (st off : Nat) (f : Fld) : (s.outcomeShown st off).fget f = (s.outcomeRegs st off).fget f := by
  unfold State.outcomeShown
  exact State.fget_withCfg ..

theorem State.outcomeRegs_fget (s : State) (st off : Nat) {f : Fld} (hf : f.off ∉ [CFG_STAT, CFG_OFFSET 0, CFG_OFFSET 1]) :
    (s.outcomeRegs st off).fget f = s.fget f := by
  simp only [List.mem_cons, List.not_mem_nil, or_false, not_or] at hf
  obtain ⟨hstat, hoff0, hoff1⟩ := hf
  unfold State.outcomeRegs
  rw [State.setLoad_fget, State.fget_fset_ne _ _ hstat, State.fget_fset_ne _ _ hoff1, State.fget_fset_ne _ _ hoff0, State.fget_fset_ne _ _ hstat]

theorem State.outcomeRegs_last_status (s : State) (st off : Nat) : (s.outcomeRegs st off).fget CFG_STAT.last_status = st % 2 ^ 8 := by
  unfold State.outcomeRegs
  rw [State.setLoad_fget, State.fget_fset_apart (f := CFG_STAT.loading) (g := CFG_STAT.last_status) _ _ rfl (by decide) (by decide),
    State.fget_fset_ne _ _ (by decide), State.fget_fset_ne _ _ (by decide), State.fget_fset _ _ (by decide)]
  rfl

/-- Once the outcome is shown, what is left is the host's: a waiting command ends, or the chain keeps the outcome for its last piece. -/
theorem State.loadOutcome_frame (s : State) (l : Load) (st detail off : Nat) :
    (s.outcomeShown st off).RegsOnly [HQE_ERR, HQE_QCTL] (s.loadOutcome l st detail off) ∧ (s.loadOutcome l st detail off).cfg.load = none := by
  have heq : s.loadOutcome l st detail off = (let s2 := s.outcomeShown st off
      if l.src ≠ 2 then s2
      else if (s2.waiter .image).isSome then s2.finishWait .image st detail off
      else if (s2.queue l.queue).chain then { s2 with cfg := { s2.cfg with chainEnd := some (l.queue, st, detail, off) } }
      else s2) := rfl
  rw [heq]
  dsimp only
  split
  · exact ⟨fun _ _ => rfl, rfl⟩
  · split
    · exact ⟨State.finishWait_regsOnly _ _ _ _ _, congrArg Cfg.load ((State.finishWait_keeps ..).only .cfg (by decide))⟩
    · split
      · exact ⟨.of_regs rfl, rfl⟩
      · exact ⟨fun _ _ => rfl, rfl⟩

theorem State.loadDone_load (s : State) (l : Load) (st : Nat) : (s.loadDone l st).cfg.load = none := (State.loadOutcome_frame ..).2

theorem State.loadDone_last_status (s : State) (l : Load) (st : Nat) : (s.loadDone l st).fget CFG_STAT.last_status = st % 2 ^ 8 := by
  obtain ⟨hregs, -⟩ := State.loadOutcome_frame (s.post 0x0A00 0 none 0 st (l.used % 2 ^ 32)) l st 0 l.used
  rw [State.loadDone, hregs.fget (by decide), State.outcomeShown_fget, State.outcomeRegs_last_status]

/-- A register that shows nothing of the outcome reads as before the load ended. -/
theorem State.loadDone_fget (s : State) (l : Load) (st : Nat) {f : Fld} (hf : f.off ∉ [CFG_STAT, CFG_OFFSET 0, CFG_OFFSET 1])
    (hq : f.off ∉ [HQE_ERR, HQE_QCTL]) : (s.loadDone l st).fget f = s.fget f := by
  obtain ⟨hregs, -⟩ := State.loadOutcome_frame (s.post 0x0A00 0 none 0 st (l.used % 2 ^ 32)) l st 0 l.used
  rw [State.loadDone, hregs.fget hq, State.outcomeShown_fget, State.outcomeRegs_fget _ _ _ hf, State.post_fget]

end Sys2Proof.Machine
end

section
/-! SUPPORT. The body of an image (R543–R548, R552) and its commit (R553, R558, R561). -/

namespace Sys2Proof.Machine

/-! ### Segments and the end marker -/

/-- A tin segment of a full image fills the tin that holds the role (R552). -/
theorem State.takeSegment_tin {s : State} {l : Load} {x d : List Byte} (htype : leAt x 0 2 = 1) (hfull : hdrPartial l.hdr = false)
    (hlost : s.roleLost (leAt x 2 1) (leAt x 3 1) = false) :
    s.takeSegment l x d = some (s.setTin (s.tinOf (leAt x 2 1) (leAt x 3 1))
        ((s.tin (s.tinOf (leAt x 2 1) (leAt x 3 1))).writeFrames (leAt x 4 4) d),
      { l with roles := (if l.roles.contains (13 * leAt x 2 1 + leAt x 3 1) then l.roles else l.roles ++ [13 * leAt x 2 1 + leAt x 3 1])
               given := l.given ++ [(13 * leAt x 2 1 + leAt x 3 1, leAt x 4 4, leAt x 8 4)] }) := by
  unfold State.takeSegment
  simp only [htype, hfull, hlost, Bool.false_eq_true, if_false]

section
variable {s : State} {plain x d : List Byte} {l : Load} {n : Nat} (hload : s.cfg.load = some l) (hstage : l.stage = 1) (hhalt : s.halted = false)
include hload hstage hhalt

/-- A segment of a full image that is all there, whose fields and padding are right, and which the load takes. -/
theorem exec_imageSegment_of_taken {v : State} {l' : Load} (hsegs : l.segs ≠ 0) (hfull : hdrPartial l.hdr = false)
    (hx : x = (if hdrKeySrc l.hdr = 0 then l.inbox else plain)) (hn : n = 32 + (leAt x 0x10 4 + 31) / 32 * 32)
    (hplain : n ≤ x.length) (hinbox : n ≤ l.inbox.length) (hbody : l.used + n ≤ hdrLength l.hdr - 128) (hfields : segFieldsOk l.hdr l x = true)
    (haway : s.dieAway (leAt x 2 1) = false)
    (hpad : ((x.drop (32 + leAt x 0x10 4)).take (n - 32 - leAt x 0x10 4)).any (· != 0) = false) (hdata : segData x = some d)
    (htake : s.clearOut.takeSegment l x d = some (v, l')) :
    exec (.imageSegment plain) s =
      .next (v.setLoad (some { l' with inbox := l.inbox.drop n, used := l.used + n, segs := l.segs - 1 })) := by
  change execImageSegment plain s = _
  unfold execImageSegment
  rw [hload]
  dsimp only
  rw [← hx, ← hn, if_neg (by simp [hstage, hsegs, hhalt]), if_neg (by simp [hfull]), if_neg (by omega), if_neg (by omega),
    if_neg (by simp [hfields]; omega), if_neg (by omega), if_neg (by simp [haway]), if_neg (by simp only [hpad, Bool.false_eq_true, not_false_iff]),
    hdata, Option.bind_some, htake]

/-- The end marker after the last segment, with the fields it must have and a good hash. -/
theorem exec_endMarker_of_ok {tagOk : Bool} (hsegs : l.segs = 0) (hlen : 128 ≤ l.inbox.length) (hused : l.used = hdrLength l.hdr - 128)
    (hmagic : leAt l.inbox 0 8 = endMagic) (hcount : leAt l.inbox 8 8 = hdrLength l.hdr - 4224)
    (hhash : leAt l.inbox 0x10 48 = leAt l.hdr 0x40 48) (hzero : leAt l.inbox 0x50 48 = 0)
    (hclear : hdrKeySrc l.hdr = 0 → leAt l.inbox 0x40 16 = 0) (htag : hdrKeySrc l.hdr ≠ 0 → tagOk = true) :
    exec (.endMarker true tagOk) s = .next (s.setLoad (some { l with stage := 2, inbox := [], used := hdrLength l.hdr })) := by
  change execEndMarker true tagOk s = _
  unfold execEndMarker
  rw [hload]
  dsimp only
  rw [if_neg (by simp [hstage, hsegs, hhalt]), if_neg (by simp [hused]), if_neg (by omega)]
  by_cases hkey : hdrKeySrc l.hdr = 0
  · simp [firstBad, hmagic, hcount, hhash, hzero, hkey, hclear hkey]
  · simp [firstBad, hmagic, hcount, hhash, hzero, hkey, htag hkey]

end

/-! ### The commit of a full image -/

/-- The connections an image carries, put on every die. -/
def State.addAllEntries (s : State) (l : Load) : State := (List.range 8).foldl (fun a d => a.addEntries d (l.entries d)) s

/-- The fold maps an image carries. -/
def Load.foldMaps (l : Load) : Tab (List Nat) := (List.range 8).foldl (fun t d => Tab.put [] t d (l.foldOf d)) []

/-- The fold maps of the image alone, and no connection yet. -/
def State.commitMaps (s : State) (l : Load) : State := { s with foldMap := l.foldMaps, ring := [] }

/-- Steps 1 to 3 of R553: the equalisation table, the fold maps and the connections of the image. -/
def State.fullStaged (s : State) (l : Load) : State := ((s.clearOut.commitEq l.eq).commitMaps l).addAllEntries l

/-- Steps 4 to 7 of R553: the copies, the anti-rollback count, the golden address and the release of the loaded roles. -/
def State.fullReleased (s : State) (l : Load) : State := (((s.commitCopies l).commitArv l).commitGolden l.hdr).commitRelease l

/-- The device in RUNNING under the image's version (R553). -/
def State.fullRunning (s : State) (l : Load) : State :=
  ((s.setDev 3).fset CFG_STAT.fallback_req 0).fset CFG_IMAGE_VER.version (leAt l.hdr 0x14 4)

theorem State.addAllEntries_keeps (s : State) (l : Load) : Keeps [.ring] s (s.addAllEntries l) :=
  Keeps.foldl (fun a d => a.addEntries_keeps d _) Keeps.refl

theorem State.commitMaps_foldMap (s : State) (l : Load) : (s.commitMaps l).foldMap = l.foldMaps := by simp only [State.commitMaps]

theorem State.commitMaps_keeps (s : State) (l : Load) : Keeps [.ring, .foldMap] s (s.commitMaps l) := Keeps.upd_ring_foldMap rfl Keeps.refl

theorem State.fullRunning_keeps (s : State) (l : Load) : Keeps [.regs] s (s.fullRunning l) :=
  Keeps.trans (State.fset_keeps ..) (Keeps.trans (State.fset_keeps ..) (s.setDev_keeps 3))

/-- Staging leaves the anti-rollback count and the golden address, and the fold maps are the image's alone. -/
theorem State.fullStaged_frame (s : State) (l : Load) :
    (s.fullStaged l).foldMap = l.foldMaps ∧ (s.fullStaged l).fuses = s.fuses ∧ (s.fullStaged l).breadbox = s.breadbox := by
  have hclear := s.clearOut_keeps
  have heq := s.clearOut.commitEq_keeps l.eq
  have hadd := ((s.clearOut.commitEq l.eq).commitMaps l).addAllEntries_keeps l
  have hmaps := (s.clearOut.commitEq l.eq).commitMaps_keeps l
  unfold State.fullStaged
  rw [hadd.only .foldMap (by decide), hadd.only .fuses (by decide), hadd.only .breadbox (by decide), hmaps.only .fuses (by decide),
    hmaps.only .breadbox (by decide), heq.only .fuses (by decide), heq.only .breadbox (by decide), hclear.only .fuses (by decide),
    hclear.only .breadbox (by decide), State.commitMaps_foldMap]
  exact ⟨rfl, rfl, rfl⟩

/-- The anti-rollback count rises to the image's where the image asks for it (R553, log 76). -/
theorem State.commitArv_arv (s : State) (l : Load) :
    (s.commitArv l).fuses.arv = if hdrFlag l.hdr 1 then max s.fuses.arv (min (leAt l.hdr 0x18 1) 64) else s.fuses.arv := by
  unfold State.commitArv
  dsimp only
  by_cases hflag : hdrFlag l.hdr 1 = true
  · rw [if_pos hflag]
    split
    · rw [State.post_fuses, (State.showFuses_keeps _).only .fuses (by decide)]
      dsimp only
      omega
    · rename_i hlow
      simp only [hflag, true_and] at hlow
      omega
  · rw [if_neg hflag, if_neg (fun h => hflag h.1)]

theorem State.commitGolden_breadbox (s : State) (h : List Byte) :
    (s.commitGolden h).breadbox = if leAt h 0x28 8 = 0 then s.breadbox else writeBytes 0 s.breadbox 0x2000 (leBytes 8 (leAt h 0x28 8)) := by
  unfold State.commitGolden
  dsimp only
  split <;> rfl

/-- What the release leaves: the fold maps as they were, the anti-rollback count and the golden address of the image. -/
theorem State.fullReleased_frame (s : State) (l : Load) : (s.fullReleased l).foldMap = s.foldMap ∧
    (s.fullReleased l).fuses.arv = (if hdrFlag l.hdr 1 then max s.fuses.arv (min (leAt l.hdr 0x18 1) 64) else s.fuses.arv) ∧
    (s.fullReleased l).breadbox =
      (if leAt l.hdr 0x28 8 = 0 then s.breadbox else writeBytes 0 s.breadbox 0x2000 (leBytes 8 (leAt l.hdr 0x28 8))) := by
  have hcopies := s.commitCopies_keeps l
  have harv := (s.commitCopies l).commitArv_keeps l
  have hgolden := ((s.commitCopies l).commitArv l).commitGolden_keeps l.hdr
  have hrelease := (((s.commitCopies l).commitArv l).commitGolden l.hdr).commitRelease_keeps l
  unfold State.fullReleased
  rw [hrelease.only .foldMap (by decide), hrelease.only .fuses (by decide), hrelease.only .breadbox (by decide), hgolden.only .foldMap (by decide),
    hgolden.only .fuses (by decide), State.commitGolden_breadbox, harv.only .foldMap (by decide), State.commitArv_arv, harv.only .breadbox (by decide),
    hcopies.only .foldMap (by decide), hcopies.only .fuses (by decide), hcopies.only .breadbox (by decide)]
  exact ⟨rfl, rfl, rfl⟩

theorem State.fullRunning_fget (s : State) (l : Load) : (s.fullRunning l).fget HQE_STAT.dev_state = 3 ∧
    (s.fullRunning l).fget CFG_IMAGE_VER.version = leAt l.hdr 0x14 4 % 2 ^ 32 := by
  unfold State.fullRunning State.setDev
  refine ⟨?_, State.fget_fset _ _ (by decide)⟩
  rw [State.fget_fset_ne _ _ (by decide), State.fget_fset_ne _ _ (by decide), State.fget_fset_ne _ _ (by decide), State.fget_fset _ _ (by decide)]
  rfl

/-- The device as the commit of a full image leaves it before the load ends. -/
def State.fullCommitted (s : State) (l : Load) : State :=
  { ((s.fullStaged l).fullReleased l).fullRunning l with
    cfg := { (((s.fullStaged l).fullReleased l).fullRunning l).cfg with clearOk := hdrFlag l.hdr 0 } }

/-- A full image that passes its checks goes through the steps of R553 and ends DONE or DEGRADED. -/
theorem exec_fullImageCommit_of_ok {s : State} {l : Load} (hload : s.cfg.load = some l) (hstage : l.stage = 2) (hfull : hdrPartial l.hdr = false)
    (hhalt : s.halted = false) (hok : s.fullOk l = true) :
    ∃ st, (st = stDone ∨ st = stDegraded) ∧ exec .fullImageCommit s = .next ((s.fullCommitted l).loadDone l st) := by
  refine ⟨if l.lost || (List.range 8).any (fun d => (s.fullCommitted l).anyFolded d (l.entries d)) then stDegraded else stDone, ?_, ?_⟩
  · split
    · exact .inr rfl
    · exact .inl rfl
  · change execFullImageCommit s = _
    unfold execFullImageCommit
    rw [hload]
    dsimp only
    rw [if_neg (by simp [hstage, hfull, hhalt]), if_neg (by simp [hok])]
    rfl

/-- What the commit of a full image shows in the registers once the load has ended, and what of the staged image it keeps. -/
theorem State.fullCommitted_loadDone {s u : State} {l : Load} {st : Nat} (hu : u = (s.fullCommitted l).loadDone l st) :
    u.fget HQE_STAT.dev_state = 3 ∧ u.fget CFG_IMAGE_VER.version = leAt l.hdr 0x14 4 % 2 ^ 32 ∧ u.foldMap = l.foldMaps ∧
    u.fuses.arv = (if hdrFlag l.hdr 1 then max s.fuses.arv (min (leAt l.hdr 0x18 1) 64) else s.fuses.arv) ∧
    u.breadbox = (if leAt l.hdr 0x28 8 = 0 then s.breadbox else writeBytes 0 s.breadbox 0x2000 (leBytes 8 (leAt l.hdr 0x28 8))) := by
  subst hu
  obtain ⟨hdev, hver⟩ := State.fullRunning_fget ((s.fullStaged l).fullReleased l) l
  obtain ⟨hfold, hfuses, hbread⟩ := s.fullStaged_frame l
  obtain ⟨hfold', harv', hbread'⟩ := (s.fullStaged l).fullReleased_frame l
  have hkeeps : Keeps [.regs, .events, .hqe, .cfg] ((s.fullStaged l).fullReleased l) ((s.fullCommitted l).loadDone l st) :=
    Keeps.trans (State.loadDone_keeps ..) (Keeps.upd_cfg rfl ((State.fullRunning_keeps ..).via rfl Keeps.refl))
  refine ⟨?_, ?_, ?_, ?_, ?_⟩
  · rw [State.loadDone_fget _ _ _ (by decide) (by decide), State.fullCommitted, State.fget_withCfg, hdev]
  · rw [State.loadDone_fget _ _ _ (by decide) (by decide), State.fullCommitted, State.fget_withCfg, hver]
  · rw [hkeeps.only .foldMap (by decide), hfold', hfold]
  · rw [hkeeps.only .fuses (by decide), harv', hfuses]
  · rw [hkeeps.only .breadbox (by decide), hbread', hbread]

/-! ### The commit of a partial image -/

/-- `TIN_STAT` of a tin lies in the window of its die, above the registers of the hub (R776). -/
theorem TIN_STAT_not_mem {t : Nat} {l : List Nat} (h : ∀ o ∈ l, o < 0x800000) : TIN_STAT t ∉ l := fun hm => by
  have hlow := h _ hm
  unfold TIN_STAT dieBase at hlow
  omega

/-- What a load leaves that ends with tin `t` replaced by `x` and its state set to `code`. -/
theorem State.setTin_loadDone {v u : State} {t code st : Nat} {x : Tin} {l : Load}
    (hu : u = ((v.setTin t x).setTinState t code).loadDone l st) (hcode : code < 8) :
    u.tinState t = code ∧ u.tin t = x ∧ v.TinOnly t u ∧ u.cfg.load = none := by
  have htins : u.tins = (v.setTin t x).tins := by
    rw [hu]
    exact ((State.loadDone_keeps ..).only .tins (by decide)).trans ((State.setTinState_keeps ..).only .tins (by decide))
  refine ⟨?_, ?_, fun j hj => ?_, ?_⟩
  · rw [hu, State.tinState, State.loadDone_fget _ _ _ (TIN_STAT_not_mem (by decide)) (TIN_STAT_not_mem (by decide)), State.setTinState,
      State.fget_fset _ _ (TIN_STAT_state_fits t)]
    exact Nat.mod_eq_of_lt hcode
  · rw [State.tin_congr htins, State.tin_setTin_self]
  · rw [State.tin_congr htins, State.setTin_tinOnly v t x j hj]
  · rw [hu, State.loadDone_load]

/-- A spare that a partial image has filled, with the role and the connections that it is loaded for (R558). -/
def Tin.loadedBy (x : Tin) (l : Load) : Tin :=
  { x with design := some (hdrRole l.hdr), partialImg := true, designRing := l.entries (hdrDie l.hdr) }

/-- The copy of a design that has been loaded into the spare waits for its role, where the image asks for one and it fits (R559, R561). -/
def State.keepWaiting (s : State) (l : Load) (t : Nat) (c : KeptCopy) : State :=
  let i := 13 * hdrDie l.hdr + hdrRole l.hdr
  let s1 := { s with spr := { s.spr with waitCopy := Tab.put none s.spr.waitCopy i none } }
  if !hdrFlag l.hdr 2 then s1
  else if c.size ≤ s1.copyRoom then { s1 with spr := { s1.spr with waitCopy := Tab.put none s1.spr.waitCopy i (some c) } }
  else s1.copyNoRoom (hdrDie l.hdr) (tinUnit (hdrRole l.hdr) (t % 13)) l.used

theorem State.keepWaiting_keeps (s : State) (l : Load) (t : Nat) (c : KeptCopy) : Keeps [.events, .spr] s (s.keepWaiting l t c) := by
  unfold State.keepWaiting
  dsimp only
  refine Keeps.ite (fun _ => ?_) (fun _ => Keeps.ite (fun _ => ?_) (fun _ => ?_))
  · exact Keeps.upd_spr rfl Keeps.refl
  · exact Keeps.upd_spr rfl (Keeps.upd_spr rfl Keeps.refl)
  · exact (State.copyNoRoom_keeps ..).via rfl (Keeps.upd_spr rfl Keeps.refl)

/-- A role replaced in place takes its new connections and a new epoch, and its kept copy is the new design's, where the image asks for one
(R559, R561). -/
def State.roleReplaced (s : State) (l : Load) (c : KeptCopy) : State :=
  let d := hdrDie l.hdr
  let r := hdrRole l.hdr
  let s1 := { s with kept := Tab.put none s.kept (13 * d + r) none }
  ((if hdrFlag l.hdr 2 then s1.keepCopy d r l.used c else s1).replaceEntries d r (l.entries d)).newEpoch d r

theorem State.roleReplaced_keeps (s : State) (l : Load) (c : KeptCopy) :
    Keeps [.regs, .events, .ring, .kept, .noc] s (s.roleReplaced l c) := by
  unfold State.roleReplaced
  refine (State.newEpoch_keeps ..).via rfl ((State.replaceEntries_keeps ..).via rfl (Keeps.ite (fun _ => ?_) (fun _ => ?_)))
  · exact (State.keepCopy_keeps ..).via rfl (Keeps.upd_kept rfl Keeps.refl)
  · exact Keeps.upd_kept rfl Keeps.refl

section
variable {s : State} {l : Load} (hload : s.cfg.load = some l) (hstage : l.stage = 2) (hpart : hdrPartial l.hdr = true) (hhalt : s.halted = false)
  (hok : s.partialOk l = true)
include hload hstage hpart hhalt hok

/-- The spare that a partial image has filled is LOADED with the design (R558). -/
theorem exec_partialImageCommit_spare (hplace : hdrInPlace l.hdr = false) : ∃ (c : KeptCopy) (st : Nat), exec .partialImageCommit s =
    .next ((((s.clearOut.keepWaiting l (s.partialTin l.hdr) c).setTin (s.partialTin l.hdr)
      (((s.clearOut.keepWaiting l (s.partialTin l.hdr) c).tin (s.partialTin l.hdr)).loadedBy l)).setTinState (s.partialTin l.hdr) tsLoaded).loadDone
        l st) := by
  refine ⟨⟨(s.tin (s.partialTin l.hdr)).frames, l.entries (hdrDie l.hdr)⟩,
    if s.clearOut.anyFolded (hdrDie l.hdr) (l.entries (hdrDie l.hdr)) then stDegraded else stDone, ?_⟩
  change execPartialImageCommit s = _
  unfold execPartialImageCommit
  rw [hload]
  dsimp only
  rw [if_neg (by simp [hstage, hpart, hhalt]), if_neg (by simp [hok]), if_neg (by simp [hplace])]
  rfl

/-- A role replaced in place is released in its own tin under a new epoch (R559). -/
theorem exec_partialImageCommit_inPlace (hplace : hdrInPlace l.hdr = true) : ∃ (c : KeptCopy) (st : Nat), exec .partialImageCommit s =
    .next ((((s.clearOut.roleReplaced l c).releaseTin (s.partialTin l.hdr)).setTinState (s.partialTin l.hdr) tsInService).loadDone l st) := by
  refine ⟨⟨(s.tin (s.partialTin l.hdr)).frames, l.entries (hdrDie l.hdr)⟩,
    if s.clearOut.anyFolded (hdrDie l.hdr) (l.entries (hdrDie l.hdr)) then stDegraded else stDone, ?_⟩
  change execPartialImageCommit s = _
  unfold execPartialImageCommit
  rw [hload]
  dsimp only
  rw [if_neg (by simp [hstage, hpart, hhalt]), if_neg (by simp [hok]), if_pos hplace]
  rfl

end

/-- Settles O26: a segment fills one tin, the end marker is the last of the body, and a commit shows its outcome after the steps of R553 or
R558 have written what their clauses name. -/
theorem imageBodiesAndCommits : Obligations.ImageBodiesAndCommits := by
  unfold Obligations.ImageBodiesAndCommits
  refine ⟨?segment, ?marker, ?full, ?spare, ?inPlace⟩
  case segment =>
    intro s plain x d l role die n hload hstage hsegs hhalt hfull hx hn _ _ hplain hinbox hbody hfields htype hdie hrole haway hlost hpad hdata
    subst hdie hrole
    have htake := State.takeSegment_tin (s := s.clearOut) (d := d) htype hfull hlost
    refine Runs.of (exec_imageSegment_of_taken hload hstage hhalt hsegs hfull hx hn hplain hinbox hbody hfields haway hpad hdata htake)
      ((State.setLoad_keeps ..).via rfl ((State.setTin_keeps ..).via rfl (s.clearOut_keeps.via rfl Keeps.refl))) ⟨?_, ?_, rfl⟩
    · exact State.tin_setTin_self ..
    · exact State.setTin_tinOnly s.clearOut _ _
  case marker =>
    rintro s tagOk l m hload hstage hsegs hhalt rfl hlen hused hmagic hcount hhash hzero hclear htag
    exact Runs.of (exec_endMarker_of_ok hload hstage hhalt hsegs hlen hused hmagic hcount hhash hzero hclear htag) (State.setLoad_keeps ..)
      ⟨rfl, (State.RegsOnly.fset (by decide) (.of_regs rfl)).trans (.of_regs rfl)⟩
  case full =>
    intro s l hload hstage hfull hhalt hok
    obtain ⟨st, hst, hexec⟩ := exec_fullImageCommit_of_ok hload hstage hfull hhalt hok
    obtain ⟨hdev, hver, hfold, harv, hbread⟩ := State.fullCommitted_loadDone (s := s) (l := l) (st := st) rfl
    refine Runs.keeps (execFullImageCommit_keeps s) fun u hu => ?_
    cases hexec.symm.trans hu
    refine ⟨hdev, hver, State.loadDone_load .., ?_, hfold, harv, hbread⟩
    rw [State.loadDone_last_status]
    exact hst.imp (congrArg (· % 2 ^ 8)) (congrArg (· % 2 ^ 8))
  case spare =>
    rintro s l t hload hstage hpart hhalt hok rfl hplace
    obtain ⟨c, st, hexec⟩ := exec_partialImageCommit_spare hload hstage hpart hhalt hok hplace
    have hwait := (s.clearOut.keepWaiting_keeps l (s.partialTin l.hdr) c).via (qs := [.events, .spr, .hqe]) rfl (s.clearOut_keeps.via rfl Keeps.refl)
    have htins := State.tin_congr (hwait.only .tins (by decide))
    refine Runs.keeps ⟨_, hexec, (State.loadDone_keeps ..).via rfl ((State.setTinState_keeps ..).via rfl ((State.setTin_keeps ..).via rfl
      (hwait.via rfl Keeps.refl)))⟩ fun u hu => ?_
    obtain ⟨hstate, htin, honly, hnone⟩ := State.setTin_loadDone (Host.Outcome.next.inj (hu.symm.trans hexec)) (by decide)
    exact ⟨hstate, by rw [htin, htins]; rfl, fun j hj => (honly j hj).trans (htins j), hnone⟩
  case inPlace =>
    rintro s l t hload hstage hpart hhalt hok rfl hplace
    obtain ⟨c, st, hexec⟩ := exec_partialImageCommit_inPlace hload hstage hpart hhalt hok hplace
    have hrole := (s.clearOut.roleReplaced_keeps l c).via (qs := [.regs, .events, .ring, .kept, .noc, .hqe]) rfl (s.clearOut_keeps.via rfl Keeps.refl)
    have htins := State.tin_congr (hrole.only .tins (by decide))
    refine Runs.keeps ⟨_, hexec, (State.loadDone_keeps ..).via rfl ((State.setTinState_keeps ..).via rfl ((State.releaseTin_keeps ..).via rfl
      (hrole.via rfl Keeps.refl)))⟩ fun u hu => ?_
    obtain ⟨hstate, -, honly, hnone⟩ := State.setTin_loadDone (Host.Outcome.next.inj (hu.symm.trans hexec)) (by decide)
    exact ⟨hstate, fun j hj => (honly j hj).trans (htins j), hnone⟩

/-- The header of an image of 4384 bytes with flag bit 1 set, of the kind `kind`: version 7, anti-rollback value 3, golden address 0x1000, and
`place` where a partial image says that it replaces its role in place. -/
def witnessHdr (kind place : Nat) : List Byte :=
  leBytes 0x110 (kind * 2 ^ 0x50 + 2 * 2 ^ 0x90 + 7 * 2 ^ 0xA0 + 3 * 2 ^ 0xC0 + 4384 * 2 ^ 0x100 + 0x1000 * 2 ^ 0x140 + place * 2 ^ 0x830)

/-- A tin segment of role 0 of die 0: frame 0x9BEC, the tin control frame, with the value 3. -/
def witnessSegment : List Byte := leBytes 160 (1 + 0x9BEC * 2 ^ 0x20 + 1 * 2 ^ 0x40 + 128 * 2 ^ 0x80 + 3 * 2 ^ 0x100)

/-- The end marker of that image. -/
def witnessMarker : List Byte := leBytes 128 (endMagic + 160 * 2 ^ 0x40)

/-- The load of an image under way at stage `stage`, with `segs` segments left, the bytes `inbox` to be judged and `used` bytes behind it. -/
def witnessLoad (kind place stage segs used : Nat) (inbox : List Byte) : Load :=
  { Load.start 0 0 inbox 0 with hdr := witnessHdr kind place, stage := stage, segs := segs, used := used, roles := [0] }

/-- A design without logic: the two control frames that every design has. -/
def plainTin : Tin := { Tin.blank with frames := [(0x9BEC, 2), (0x9BED, 1)] }

/-- The device with that load and die 0 running, where tin 0 and the spare, tin 12, hold such a design. -/
def loadingState (l : Load) : State :=
  State.fset { State.reset with tins := [(0, plainTin), (12, plainTin)], cfg := { Cfg.fresh with load := some l } } (DIE_STAT.state 0) 2

theorem plainTin_legal : plainTin.legal = true := by decide +kernel

/-- An image of tin segments alone passes its checks when every tin that it has filled is legal (R551). -/
theorem State.fullOk_of_legal {s : State} {l : Load} (hlegal : ∀ r ∈ l.roles, (s.tin (s.tinOf (r / 13) (r % 13))).legal = true) (hring : l.ring = [])
    (hfolds : l.folds = []) (heq : l.eq = none) : s.fullOk l = true := by
  have hroles : l.roles.all (fun r => s.roleLost (r / 13) (r % 13) || (s.tin (s.tinOf (r / 13) (r % 13))).legal) = true :=
    List.all_eq_true.mpr fun r hr => by simp [hlegal r hr]
  simp [State.fullOk, hroles, hring, hfolds, heq, ringOk]

/-- A partial image without connections passes its checks when its target is legal (R551). -/
theorem State.partialOk_of_legal {s : State} {l : Load} (hlegal : (s.tin (s.partialTin l.hdr)).legal = true) (hring : l.ring = []) :
    s.partialOk l = true := by
  simp [State.partialOk, hlegal, hring, ringOk]

/-- States that meet the hypotheses of O26, clause by clause. -/
theorem imageBodiesAndCommits_witness :
    (∃ u, exec (.imageSegment []) (loadingState (witnessLoad 1 0 1 1 4096 witnessSegment)) = .next u ∧ (u.tin 0).frame 0x9BEC = 3) ∧
    (∃ u, exec (.endMarker true false) (loadingState (witnessLoad 1 0 1 0 4256 witnessMarker)) = .next u ∧
      u.cfg.load.map Load.stage = some 2) ∧
    (∃ u, exec .fullImageCommit (loadingState (witnessLoad 1 0 2 0 4384 [])) = .next u ∧ u.fget HQE_STAT.dev_state = 3 ∧
      u.fget CFG_IMAGE_VER.version = 7 ∧ u.fuses.arv = 3) ∧
    (∃ u, exec .partialImageCommit (loadingState (witnessLoad 2 0 2 0 4384 [])) = .next u ∧ u.tinState 12 = tsLoaded ∧
      (u.tin 12).design = some 0) ∧
    (∃ u, exec .partialImageCommit (loadingState (witnessLoad 2 1 2 0 4384 [])) = .next u ∧ u.tinState 0 = tsInService) := by
  obtain ⟨segment, marker, full, spare, inPlace⟩ := imageBodiesAndCommits
  obtain ⟨u1, h1, ⟨t1, -, -⟩, -⟩ := segment (loadingState (witnessLoad 1 0 1 1 4096 witnessSegment)) [] witnessSegment
    ((witnessSegment.drop 32).take 128) _ 0 0 160 rfl rfl (by decide) (by decide +kernel) (by decide +kernel) (by decide +kernel) (by decide +kernel)
    (by decide +kernel) (by decide +kernel) (by decide +kernel) (by decide +kernel) (by decide +kernel) (by decide +kernel) (by decide +kernel)
    (by decide +kernel) (by decide +kernel) (by decide +kernel) (by decide +kernel) (by decide +kernel) (by decide +kernel)
  obtain ⟨u2, h2, ⟨c2, -⟩, -⟩ := marker (loadingState (witnessLoad 1 0 1 0 4256 witnessMarker)) false _ _ rfl rfl rfl (by decide +kernel) rfl
    (by decide +kernel) (by decide +kernel) (by decide +kernel) (by decide +kernel) (by decide +kernel) (by decide +kernel)
    (fun _ => by decide +kernel) (by decide +kernel)
  obtain ⟨u3, h3, ⟨d3, v3, -, -, -, a3, -⟩, -⟩ := full (loadingState (witnessLoad 1 0 2 0 4384 [])) _ rfl rfl (by decide +kernel) (by decide +kernel)
    (State.fullOk_of_legal (fun r hr => by
      obtain rfl := List.mem_singleton.mp hr
      exact (congrArg Tin.legal (by decide +kernel)).trans plainTin_legal) rfl rfl rfl)
  obtain ⟨u4, h4, ⟨s4, t4, -⟩, -⟩ := spare (loadingState (witnessLoad 2 0 2 0 4384 [])) _ 12 rfl rfl (by decide +kernel) (by decide +kernel)
    (State.partialOk_of_legal ((congrArg Tin.legal (by decide +kernel)).trans plainTin_legal) rfl) (by decide +kernel) (by decide +kernel)
  obtain ⟨u5, h5, ⟨s5, -⟩, -⟩ := inPlace (loadingState (witnessLoad 2 1 2 0 4384 [])) _ 0 rfl rfl (by decide +kernel) (by decide +kernel)
    (State.partialOk_of_legal ((congrArg Tin.legal (by decide +kernel)).trans plainTin_legal) rfl) (by decide +kernel) (by decide +kernel)
  refine ⟨⟨u1, h1, ?_⟩, ⟨u2, h2, ?_⟩, ⟨u3, h3, d3, v3.trans (by decide +kernel), a3.trans (by decide +kernel)⟩, ⟨u4, h4, s4, ?_⟩, ⟨u5, h5, s5⟩⟩
  · exact (congrArg (Tin.frame · 0x9BEC) t1).trans (by decide +kernel)
  · rw [c2]
    rfl
  · exact (congrArg Tin.design t4).trans (by decide +kernel)

end Sys2Proof.Machine
end

section
/-! SUPPORT. Requests that arrive at the larder by the NoC (R189, R190, R195, R271, R273–R275). -/

namespace Sys2Proof.Machine

/-! ### Poison marks and banks -/

/-- Marking words leaves the banks alone. -/
theorem Larder.markWords_banks (l : Larder) (o n : Nat) (p : Bool) : (l.markWords o n p).banks = l.banks :=
  List.foldlRecOn _ _ (motive := fun m : Larder => m.banks = l.banks) rfl fun _ hm _ _ => hm

/-- A range that is not empty holds no poison only if its first word has none. -/
theorem Larder.poisoned_of_anyPoison {l : Larder} {o n : Nat} (hn : n ≠ 0) (h : l.anyPoison o n = false) : l.poisoned o = false := by
  have hfirst : 0 ∈ List.range (ceilDiv n 8) := by rw [List.mem_range, ceilDiv]; omega
  simpa using List.any_eq_false.mp h 0 hfirst

/-! ### What a request does at the larder -/

section
variable {s : State} {p : Packet} (hlost : (s.bank (larderBank (p.addr - larderBase))).lost = false)
include hlost

/-- A READ answers the stored bytes and their poison (R273). -/
theorem State.larderAccess_read (hcmd : p.cmd = .read) (hshape : larderShape (p.addr - larderBase) p.bytes = true)
    (hmay : s.larderMay p.domain (p.addr - larderBase) false = true) :
    s.larderAccess p .clean = (some (p.reply nodeLarder stDone 0 (readBytes 0 s.larder.mem (p.addr - larderBase) p.bytes)
      (s.larder.anyPoison (p.addr - larderBase) p.bytes) true), s) := by
  unfold State.larderAccess
  simp only [hcmd, State.larderRead_clean hshape hlost hmay, readBytes_isEmpty (larderShape_ne_zero hshape), Bool.false_eq_true, if_false]

section
variable (hshape : larderShape (p.addr - larderBase) p.data.length = true) (hmay : s.larderMay p.domain (p.addr - larderBase) true = true)
  (hword : 8 ≤ p.data.length ∨ s.larder.poisoned (p.addr - larderBase) = false)
include hshape hmay hword

/-- A WRITE stores its bytes and is answered DONE. -/
theorem State.larderAccess_write (hcmd : p.cmd = .write) :
    s.larderAccess p .clean = (some (p.refuse nodeLarder stDone 0),
      { s with larder := (s.larder.write (p.addr - larderBase) p.data).markWords (p.addr - larderBase) p.data.length p.poison }) := by
  unfold State.larderAccess
  simp only [hcmd, State.larderWrite_clean hshape hlost hmay hword]

/-- A WRITE_POSTED stores its bytes and is not answered. -/
theorem State.larderAccess_writePosted (hcmd : p.cmd = .writePosted) :
    s.larderAccess p .clean = (none,
      { s with larder := (s.larder.write (p.addr - larderBase) p.data).markWords (p.addr - larderBase) p.data.length p.poison }) := by
  unfold State.larderAccess
  simp only [hcmd, State.larderWrite_clean hshape hlost hmay hword, if_true]

end

/-- An atomic on unpoisoned bytes stores its new value and is answered with the old bytes (R274). -/
theorem State.larderAccess_atomic {new : Nat} (hcmd : p.cmd.atomic = true)
    (hnew : atomicNew p.cmd p.bytes p.data (leVal (readBytes 0 s.larder.mem (p.addr - larderBase) p.bytes)) = new)
    (hshape : larderShape (p.addr - larderBase) p.bytes = true) (hwrite : s.larderMay p.domain (p.addr - larderBase) true = true)
    (hread : s.larderMay p.domain (p.addr - larderBase) false = true) (hclean : s.larder.anyPoison (p.addr - larderBase) p.bytes = false)
    (hpoison : p.poison = false) :
    s.larderAccess p .clean =
      (some (p.reply nodeLarder stDone 0 (readBytes 0 s.larder.mem (p.addr - larderBase) p.bytes) false true),
        { s with larder :=
          (s.larder.write (p.addr - larderBase) (leBytes p.bytes new)).markWords (p.addr - larderBase) (leBytes p.bytes new).length false }) := by
  have hshape' : larderShape (p.addr - larderBase) (leBytes p.bytes new).length = true := by rw [leBytes_length]; exact hshape
  have hword := Larder.poisoned_of_anyPoison (larderShape_ne_zero hshape) hclean
  have hatomic : p.cmd = .atomicAdd ∨ p.cmd = .atomicSwap ∨ p.cmd = .atomicCas := by
    cases hc : p.cmd <;> simp [hc, PCmd.atomic] at hcmd ⊢
  unfold State.larderAccess
  rcases hatomic with hc | hc | hc <;> rw [hc] at hnew <;>
    simp only [hc, hnew, hwrite, hpoison, State.larderRead_clean hshape hlost hread, hclean,
      State.larderWrite_clean hshape' hlost hwrite (.inr hword), ne_eq, not_true, Bool.not_true, Bool.false_eq_true, or_self, if_false]

end

/-! ### The request as a flight that has arrived -/

theorem nodeOf_nodeLarder : nodeOf nodeLarder = some (.hub nodeLarder) := rfl

/-- A request for the larder's node is the larder's. -/
theorem State.targetReq_larder {s : State} {f loc : Nat} {p : Packet} {err : MemErr} (hdst : p.dst = nodeLarder) :
    s.targetReq f p loc err = s.larderTarget f p loc err := by
  unfold State.targetReq
  simp only [hdst, nodeOf_nodeLarder, if_true]

section
variable {s : State} {f loc : Nat} {p : Packet} {c : Instr} {cmd : PCmd} {l : Larder}
  (hexec : exec c s = s.atCmd f cmd (fun p loc => s.targetReq f p loc .clean)) (hcmd : p.cmd = cmd) (hat : s.atTarget f = some (p, loc))
  (hdst : p.dst = nodeLarder)
include hexec hcmd hat hdst

/-- The larder's answer `q` enters the NoC where the request left it. -/
theorem exec_larder_answered {q : Packet}
    (haccess : (s.dropFlight f).larderAccess p .clean = (some q, { s.dropFlight f with larder := l })) :
    exec c s = .next (State.launch { s.dropFlight f with larder := l } q loc) := by
  rw [hexec, State.atCmd_eq hat hcmd, State.targetReq_larder hdst, State.larderTarget]
  simp only [haccess]

/-- A request without an answer leaves the NoC. -/
theorem exec_larder_consumed (haccess : (s.dropFlight f).larderAccess p .clean = (none, { s.dropFlight f with larder := l })) :
    exec c s = .next { s.dropFlight f with larder := l } := by
  rw [hexec, State.atCmd_eq hat hcmd, State.targetReq_larder hdst, State.larderTarget]
  simp only [haccess]

end

/-- A flight taken out of the NoC and a larder whose bytes stay canonical. -/
theorem State.dropFlight_larder_keeps (s : State) (f : Nat) {l : Larder} (hl : Memory.wf s.larder.mem = true → Memory.wf l.mem = true) :
    Keeps [.noc, .larder] s { s.dropFlight f with larder := l } :=
  Keeps.upd_larder rfl (Keeps.via (s.dropFlight_keeps f) rfl Keeps.refl) hl

/-- The three atomics at the larder, which differ in the new value alone. -/
theorem runs_larder_atomic {s : State} {f loc new : Nat} {p : Packet} {c : Instr} {cmd : PCmd}
    (hexec : exec c s = s.atCmd f cmd (fun p loc => s.targetReq f p loc .clean)) (hcmd : p.cmd = cmd) (hatomic : cmd.atomic = true)
    (hat : s.atTarget f = some (p, loc)) (hdst : p.dst = nodeLarder)
    (hnew : atomicNew p.cmd p.bytes p.data (leVal (readBytes 0 s.larder.mem (p.addr - larderBase) p.bytes)) = new)
    (hshape : larderShape (p.addr - larderBase) p.bytes = true) (hwrite : s.larderMay p.domain (p.addr - larderBase) true = true)
    (hread : s.larderMay p.domain (p.addr - larderBase) false = true) (hlost : (s.bank (larderBank (p.addr - larderBase))).lost = false)
    (hclean : s.larder.anyPoison (p.addr - larderBase) p.bytes = false) (hpoison : p.poison = false) :
    Runs c s [.noc, .larder] fun u =>
      s.Answered u f loc (p.reply nodeLarder stDone 0 (readBytes 0 s.larder.mem (p.addr - larderBase) p.bytes) false true) ∧
      BytesOnly s.larder.mem u.larder.mem (p.addr - larderBase) (leBytes p.bytes new) ∧ u.larder.banks = s.larder.banks :=
  Runs.of (exec_larder_answered hexec hcmd hat hdst (State.larderAccess_atomic (s := s.dropFlight f) hlost (hcmd ▸ hatomic) hnew hshape hwrite
      hread hclean hpoison))
    (Keeps.via (State.launch_keeps ..) rfl (s.dropFlight_larder_keeps f Larder.write_markWords_wf))
    ⟨rfl, s.larder.bytesOnly_write_markWords .., Larder.markWords_banks ..⟩

/-- Settles O7: the arrived packet is one request of R190's shape at the larder, and its answer, if any, enters the NoC in its place. -/
theorem nocRequestsAtLarder : Obligations.NocRequestsAtLarder := by
  unfold Obligations.NocRequestsAtLarder
  refine ⟨?read, ?write, ?writePosted, ?atomic⟩
  case read =>
    intro s f p loc hat hcmd hdst hshape hmay hlost
    exact Runs.of (exec_larder_answered rfl hcmd hat hdst (State.larderAccess_read (s := s.dropFlight f) hlost hcmd hshape hmay))
      (Keeps.via (State.launch_keeps ..) rfl (Keeps.via (s.dropFlight_keeps f) rfl Keeps.refl)) rfl
  case write =>
    intro s f p loc hat hcmd hdst hshape hmay hlost hword
    exact Runs.of (exec_larder_answered rfl hcmd hat hdst (State.larderAccess_write (s := s.dropFlight f) hlost hshape hmay hword hcmd))
      (Keeps.via (State.launch_keeps ..) rfl (s.dropFlight_larder_keeps f Larder.write_markWords_wf))
      ⟨rfl, s.larder.bytesOnly_write_markWords .., Larder.markWords_banks ..⟩
  case writePosted =>
    intro s f p loc hat hcmd hdst hshape hmay hlost hword
    exact Runs.of (exec_larder_consumed rfl hcmd hat hdst (State.larderAccess_writePosted (s := s.dropFlight f) hlost hshape hmay hword hcmd))
      (s.dropFlight_larder_keeps f Larder.write_markWords_wf) ⟨rfl, s.larder.bytesOnly_write_markWords .., Larder.markWords_banks ..⟩
  case atomic =>
    intro s f p loc old c new hat hdst hold hkind hshape hwrite hread hlost hclean hpoison
    subst hold
    obtain ⟨hcmd, rfl, rfl⟩ | ⟨hcmd, rfl, rfl⟩ | ⟨hcmd, rfl, rfl⟩ := hkind
    · exact runs_larder_atomic rfl hcmd rfl hat hdst (by simp [atomicNew, hcmd]) hshape hwrite hread hlost hclean hpoison
    · exact runs_larder_atomic rfl hcmd rfl hat hdst (by simp [atomicNew, hcmd]) hshape hwrite hread hlost hclean hpoison
    · exact runs_larder_atomic rfl hcmd rfl hat hdst (by simp [atomicNew, hcmd]) hshape hwrite hread hlost hclean hpoison

/-- The larder with two bytes of its last two words stored and the last word poisoned, where domain 0 may read and write; packet `p` has
arrived at its router of spine 11. -/
def requestAtLarder (p : Packet) : State :=
  { State.reset with
    regs := [(LRD_RIGHTS, 2)]
    larder := { Larder.empty with mem := [(0x7FFFFF0, 5), (0x7FFFFFD, 0xA7)], poison := [(0xFFFFFF, true)] }
    noc := { Noc.idle with flights := [Packet.flightAt p 155] } }

/-- Requests of role 0 of die 0 at the last words of the larder. -/
def lastWordRead : Packet := { larderReadReq with dst := nodeLarder, addr := larderBase + 0x7FFFFFC, bytes := 4 }
def lastWordWrite (cmd : PCmd) : Packet :=
  { lastWordRead with cmd := cmd, addr := larderBase + 0x7FFFFF8, bytes := 8, data := [1, 2, 3, 4, 5, 6, 7, 8], poison := true }
def sumRequest : Packet := { lastWordRead with cmd := .atomicAdd, addr := larderBase + 0x7FFFFF0, data := [0xFF, 0xFF, 0xFF, 0xFF] }
def swapRequest : Packet := { sumRequest with cmd := .atomicSwap, data := [9, 8, 7, 6] }
def casRequest : Packet := { sumRequest with cmd := .atomicCas, data := [5, 0, 0, 0, 0, 0, 0, 0, 6, 0, 0, 0] }

/-- States that meet the hypotheses of O7, clause by clause: a read of part of a poisoned word, writes of all of it, a sum that wraps, an
exchange, and a compare whose value is the old one. -/
theorem nocRequestsAtLarder_witness :
    (∃ u, exec (.read 0 .clean) (requestAtLarder lastWordRead) = .next u ∧
      u.noc.flights = [Packet.flightAt (lastWordRead.reply nodeLarder stDone 0 [0, 0xA7, 0, 0] true true) 155]) ∧
    (∃ u, exec (.write 0 .clean) (requestAtLarder (lastWordWrite .write)) = .next u ∧
      u.noc.flights = [Packet.flightAt ((lastWordWrite .write).refuse nodeLarder stDone 0) 155] ∧
      readBytes 0 u.larder.mem 0x7FFFFF8 8 = [1, 2, 3, 4, 5, 6, 7, 8]) ∧
    (∃ u, exec (.writePosted 0 .clean) (requestAtLarder (lastWordWrite .writePosted)) = .next u ∧ u.noc.flights = [] ∧
      readBytes 0 u.larder.mem 0x7FFFFF8 8 = [1, 2, 3, 4, 5, 6, 7, 8]) ∧
    (∃ u, exec (.atomicAdd 0 .clean) (requestAtLarder sumRequest) = .next u ∧
      readBytes 0 u.larder.mem 0x7FFFFF0 4 = [4, 0, 0, 0]) ∧
    (∃ u, exec (.atomicSwap 0 .clean) (requestAtLarder swapRequest) = .next u ∧
      readBytes 0 u.larder.mem 0x7FFFFF0 4 = [9, 8, 7, 6]) ∧
    (∃ u, exec (.atomicCas 0 .clean) (requestAtLarder casRequest) = .next u ∧
      readBytes 0 u.larder.mem 0x7FFFFF0 4 = [6, 0, 0, 0]) := by
  obtain ⟨read, write, writePosted, atomic⟩ := nocRequestsAtLarder
  obtain ⟨u1, h1, n1, -⟩ := read (requestAtLarder lastWordRead) 0 lastWordRead 155 (by decide) rfl rfl (by decide) (by decide +kernel) (by decide)
  obtain ⟨u2, h2, ⟨n2, ⟨b2, -⟩, -⟩, -⟩ := write (requestAtLarder (lastWordWrite .write)) 0 (lastWordWrite .write) 155 (by decide) rfl rfl
    (by decide) (by decide +kernel) (by decide) (.inl (by decide))
  obtain ⟨u3, h3, ⟨n3, ⟨b3, -⟩, -⟩, -⟩ := writePosted (requestAtLarder (lastWordWrite .writePosted)) 0 (lastWordWrite .writePosted) 155 (by decide)
    rfl rfl (by decide) (by decide +kernel) (by decide) (.inl (by decide))
  obtain ⟨u4, h4, ⟨-, ⟨b4, -⟩, -⟩, -⟩ := atomic (requestAtLarder sumRequest) 0 sumRequest 155 5 _ 4 (by decide) rfl
    (by decide) (.inl ⟨rfl, rfl, by decide⟩) (by decide) (by decide +kernel) (by decide +kernel) (by decide) (by decide) rfl
  obtain ⟨u5, h5, ⟨-, ⟨b5, -⟩, -⟩, -⟩ := atomic (requestAtLarder swapRequest) 0 swapRequest 155 5 _ 0x06070809 (by decide) rfl
    (by decide) (.inr (.inl ⟨rfl, rfl, by decide⟩)) (by decide) (by decide +kernel) (by decide +kernel) (by decide) (by decide) rfl
  obtain ⟨u6, h6, ⟨-, ⟨b6, -⟩, -⟩, -⟩ := atomic (requestAtLarder casRequest) 0 casRequest 155 5 _ 6
    (by decide) rfl (by decide) (.inr (.inr ⟨rfl, rfl, by decide⟩)) (by decide) (by decide +kernel) (by decide +kernel) (by decide) (by decide) rfl
  exact ⟨⟨u1, h1, (congrArg Noc.flights n1).trans (by decide +kernel)⟩, ⟨u2, h2, congrArg Noc.flights n2, b2⟩,
    ⟨u3, h3, congrArg Noc.flights n3, b3⟩, ⟨u4, h4, b4⟩, ⟨u5, h5, b5⟩, ⟨u6, h6, b6⟩⟩

end Sys2Proof.Machine
end

section
/-! SUPPORT. Accesses of the larder by its own commands (R190, R193, R195), scrubbing (R191), checkers (R196) and the reports of corrected
errors (R209). -/

namespace Sys2Proof.Machine

/-- A state whose registers are those of `s` after a count differs from `s` in the register of that count alone. -/
theorem State.RegsOnly.of_fsat {s t : State} {l : List Nat} {f : Fld} {n : Nat} (h : t.regs = (s.fsat f n).regs) (hf : f.off ∈ l) :
    s.RegsOnly l t :=
  fun o ho => (State.reg_congr h o).trans (State.reg_fsat_ne s n (by rintro rfl; exact ho hf))

/-! ### Accesses -/

/-- A refused domain reads zeros and is counted in `LRD_ERR` (R195, R208). -/
theorem State.larderRead_denied {s : State} {off n k : Nat} {err : MemErr} (hshape : larderShape off n = true)
    (hmay : s.larderMay k off false = false) :
    s.larderRead off n k err = (⟨stNoRights, List.replicate n 0, false⟩, s.fsat LRD_ERR.denied 1) := by
  simp [State.larderRead, hshape, hmay]

/-- An address of the larder's range. -/
theorem larder_contains {off : Nat} (h : off < larderSize) : larderBase ≤ larderBase + off ∧ larderBase + off < larderBase + larderSize := by omega

section
variable {s : State} {o n : Nat} {k : Dom} (hoff : o < larderSize)
include hoff

theorem exec_larderRead_eq {a : Answer} {u : State} (hread : s.larderRead o n k.val .clean = (a, u)) :
    exec (.larderRead (larderBase + o) n k .clean) s = .next { u with answer := some a } := by
  change execLarderRead (larderBase + o) n k .clean s = _
  unfold execLarderRead
  simp only [if_pos (larder_contains hoff), Nat.add_sub_cancel_left, hread]

theorem exec_larderWrite_eq {d : List Byte} {posted poison : Bool} {st : Nat} {u : State}
    (hwrite : s.larderWrite o k.val d poison .clean = (st, u)) :
    exec (.larderWrite (larderBase + o) d k posted poison .clean) s =
      .next { u with answer := if posted then none else some ⟨st, [], false⟩ } := by
  change execLarderWrite (larderBase + o) d k posted poison .clean s = _
  unfold execLarderWrite
  simp only [if_pos (larder_contains hoff), Nat.add_sub_cancel_left, hwrite]

end

/-! ### Poison marks -/

/-- A mark set is the mark of its 8-byte word alone. -/
theorem Larder.poisoned_setPoison (l : Larder) (o b : Nat) (p : Bool) :
    (l.setPoison o p).poisoned b = if b / 8 = o / 8 then p else l.poisoned b := Tab.get_put

/-- Marks set over a list of words: those of the listed words, and no others. -/
theorem Larder.poisoned_foldl_setPoison (p : Bool) (o b : Nat) (is : List Nat) (l : Larder) :
    (is.foldl (fun a i => a.setPoison (o + 8 * i) p) l).poisoned b = if ∃ i ∈ is, b / 8 = (o + 8 * i) / 8 then p else l.poisoned b := by
  induction is generalizing l with
  | nil => simp
  | cons i is ih =>
    rw [List.foldl_cons, ih, Larder.poisoned_setPoison]
    by_cases hrest : ∃ j ∈ is, b / 8 = (o + 8 * j) / 8 <;> by_cases hhere : b / 8 = (o + 8 * i) / 8 <;> simp [hrest, hhere]

/-- Every byte of a marked range that begins with a word reads the mark. -/
theorem Larder.poisoned_markWords (l : Larder) {o n b : Nat} (p : Bool) (hword : o % 8 = 0) (hlo : o ≤ b) (hhi : b < o + n) :
    (l.markWords o n p).poisoned b = p := by
  have hmem : ∃ i ∈ List.range (ceilDiv n 8), b / 8 = (o + 8 * i) / 8 := by
    refine ⟨(b - o) / 8, ?_, by omega⟩
    rw [List.mem_range, ceilDiv]
    omega
  rw [Larder.markWords, Larder.poisoned_foldl_setPoison, if_pos hmem]

/-! ### Banks -/

@[simp] theorem State.bank_setBank_self (s : State) (b : Nat) (v : Bank) : (s.setBank b v).bank b = v := Tab.get_put_self

theorem State.bank_setBank_ne (s : State) {b c : Nat} (v : Bank) (h : c ≠ b) : (s.setBank b v).bank c = s.bank c := Tab.get_put_ne h

/-- The bank of the line that a bank scrubs next (R191). -/
theorem larderBank_scrub (r : Nat) (b : Fin 16) : larderBank (r * 1024 + b.val * 64) = b.val := by unfold larderBank; omega

/-- A corrected error of a larder word is counted for its bank (R191, R208, R209). -/
theorem State.larderDecode_corrected (s : State) (off : Nat) :
    s.larderDecode off .corrected = (s.fsat LRD_ERR.corr 1).countCorr (instBank (larderBank off)) := rfl

theorem exec_larderScrub_corrected (s : State) (b : Fin 16) :
    exec (.larderScrub b .corrected) s = .next (((s.fsat LRD_ERR.corr 1).countCorr (instBank b.val)).setBank b.val
      { s.bank b.val with scrubRow := ((s.bank b.val).scrubRow + 1) % 131072 }) := by
  change execLarderScrub b .corrected s = _
  unfold execLarderScrub
  simp only [State.larderDecode_corrected, larderBank_scrub]
  rfl

/-! ### Checkers (R196) -/

section
variable {s : State} {b : Nat} (hlost : (s.bank b).lost = false)
include hlost

/-- The standby checker takes over from the active one. -/
theorem State.checkerTest_standby (hstandby : (s.bank b).standbyOk = true) :
    s.checkerTest b false true false = (s.setBank b { s.bank b with activeOk := true, standbyOk := false }).post 0x010A 2 none b 0 := by
  simp [State.checkerTest, hlost, hstandby]

/-- Without a checker the bank is lost. -/
theorem State.checkerTest_lost :
    s.checkerTest b false false false =
      (s.setBank b { s.bank b with activeOk := false, standbyOk := false, lost := true }).post 0x010B 4 none b := by
  simp [State.checkerTest, hlost]

end

/-! ### Reports of corrected errors (R209) -/

/-- The state in which the corrected errors of memory `i` have been reported. -/
def State.corrReported (s : State) (i : Nat) : State :=
  let u := State.post { s with corr := Tab.put 0 s.corr i 0 } 0x010F 1 (if i < 9984 then some (i / 96 / 13) else none) i (Tab.get 0 s.corr i)
  { u with events := { u.events with limited := Tab.put (0, 0) u.events.limited (0x10000 + i) (s.now + 1, 0) } }

/-- They are reported when there are some and the last report is a second ago. -/
theorem exec_memCorrected_due {s : State} {i : Nat} (hn : Tab.get 0 s.corr i ≠ 0)
    (hdue : (Tab.get (0, 0) s.events.limited (0x10000 + i)).1 + oneSecond ≤ s.now + 1) :
    exec (.memCorrected i) s = .next (s.corrReported i) :=
  if_pos ⟨hn, .inr hdue⟩

theorem State.corrReported_keeps (s : State) (i : Nat) : Keeps [.events, .corr] s (s.corrReported i) :=
  Keeps.upd_events rfl (Keeps.via (State.post_keeps ..) rfl (Keeps.upd_corr rfl Keeps.refl))

/-- Settles O17: reads and writes are those of `larderRead` and `larderWrite`, a scrub and a checker test each write one bank, and a report
takes the count of its memory. -/
theorem larderCommands : Obligations.LarderCommands := by
  unfold Obligations.LarderCommands
  refine ⟨?read, ?denied, ?write, ?scrub, ?standby, ?lost, ?report⟩
  case read =>
    intro s a n o k ha hoff hshape hmay hlost
    subst ha
    exact Runs.of (exec_larderRead_eq hoff (State.larderRead_clean hshape hlost hmay)) (Keeps.upd_answer rfl Keeps.refl) rfl
  case denied =>
    intro s a n o k ha hoff hshape hmay
    subst ha
    exact Runs.of (exec_larderRead_eq hoff (State.larderRead_denied hshape hmay))
      (Keeps.upd_answer rfl (Keeps.via (State.fsat_keeps ..) rfl Keeps.refl)) ⟨rfl, State.fget_fsat s 1 (by decide), .of_fsat (f := LRD_ERR.denied) rfl (by decide)⟩
  case write =>
    intro s a o d k posted poison ha hoff hshape hmay hlost hword
    subst ha
    exact Runs.of (exec_larderWrite_eq hoff (State.larderWrite_clean hshape hlost hmay hword))
      (Keeps.upd_answer rfl (Keeps.upd_larder rfl Keeps.refl Larder.write_markWords_wf))
      ⟨rfl, s.larder.bytesOnly_write_markWords .., Larder.markWords_banks .., fun _ hlo hhi ho => Larder.poisoned_markWords _ _ ho hlo hhi⟩
  case scrub =>
    intro s b
    exact Runs.of (exec_larderScrub_corrected s b)
      (Keeps.via (State.setBank_keeps ..) rfl (Keeps.via (State.countCorr_keeps ..) rfl (Keeps.via (State.fsat_keeps ..) rfl Keeps.refl)))
      ⟨congrArg Bank.scrubRow (State.bank_setBank_self ..), rfl, State.fget_fsat s 1 (by decide), rfl,
        .of_fsat (f := LRD_ERR.corr) rfl (by decide)⟩
  case standby =>
    intro s b hlost hstandby
    exact Runs.of (congrArg Host.Outcome.next (State.checkerTest_standby hlost hstandby))
      (Keeps.via (State.post_keeps ..) rfl (Keeps.via (State.setBank_keeps ..) rfl Keeps.refl))
      ⟨State.bank_setBank_self .., rfl, fun _ hc => State.bank_setBank_ne s _ hc, rfl⟩
  case lost =>
    intro s b hlost
    exact Runs.of (congrArg Host.Outcome.next (State.checkerTest_lost hlost))
      (Keeps.via (State.post_keeps ..) rfl (Keeps.via (State.setBank_keeps ..) rfl Keeps.refl))
      ⟨State.bank_setBank_self .., rfl, fun _ hc => State.bank_setBank_ne s _ hc, rfl⟩
  case report =>
    intro s i n hn hzero hdue
    subst hn
    exact Runs.of (exec_memCorrected_due hzero hdue) (s.corrReported_keeps i)
      ⟨Tab.get_put_self, fun _ hj => Tab.get_put_ne hj, rfl, Tab.get_put_self⟩

/-- Domain 0 may read and write the larder, whose last word holds a byte and is poisoned and whose bank 15 has its last line to scrub; the last
pantry of the fabric has three corrected errors, and its last report was one second ago. -/
def larderInService : State :=
  { State.reset with
    regs := [(LRD_RIGHTS, 2), (LRD_ERR, 0x00FFFFFF)]
    larder := { Larder.empty with
      mem := [(0x7FFFFFD, 0xA7)], poison := [(0xFFFFFF, true)], banks := [(15, { Bank.fresh with scrubRow := 131071 })] }
    corr := [(9983, 3)]
    events := { State.reset.events with limited := [(0x10000 + 9983, (1, 0))] }
    now := oneSecond }

/-- States that meet the hypotheses of O17, clause by clause; the counters of `LRD_ERR` stand at their tops. -/
theorem larderCommands_witness :
    (∃ u, exec (.larderRead 0x2007FFFFFC 4 0 .clean) larderInService = .next u ∧ u.answer = some ⟨stDone, [0, 0xA7, 0, 0], true⟩) ∧
    (∃ u, exec (.larderRead 0x2007FFFFFC 4 1 .clean) larderInService = .next u ∧ u.answer = some ⟨stNoRights, [0, 0, 0, 0], false⟩ ∧
      u.fget LRD_ERR.denied = 255) ∧
    (∃ u, exec (.larderWrite 0x2007FFFFF8 [1, 2, 3, 4, 5, 6, 7, 8] 0 true false .clean) larderInService = .next u ∧ u.answer = none ∧
      readBytes 0 u.larder.mem 0x7FFFFF8 8 = [1, 2, 3, 4, 5, 6, 7, 8] ∧ u.larder.poisoned 0x7FFFFF8 = false) ∧
    (∃ u, exec (.larderScrub 15 .corrected) larderInService = .next u ∧ (u.bank 15).scrubRow = 0 ∧ u.fget LRD_ERR.corr = 65535) ∧
    (∃ u, exec (.larderCheckerTest 15 false true false) larderInService = .next u ∧ (u.bank 15).activeOk = true ∧
      (u.bank 15).standbyOk = false) ∧
    (∃ u, exec (.larderCheckerTest 15 false false false) larderInService = .next u ∧ (u.bank 15).lost = true) ∧
    (∃ u, exec (.memCorrected 9983) larderInService = .next u ∧ Tab.get 0 u.corr 9983 = 0) := by
  obtain ⟨read, denied, write, scrub, standby, lost, report⟩ := larderCommands
  obtain ⟨u1, h1, a1, -⟩ := read larderInService 0x2007FFFFFC 4 0x7FFFFFC 0 rfl (by decide) (by decide) (by decide +kernel) (by decide)
  obtain ⟨u2, h2, ⟨a2, d2, -⟩, -⟩ := denied larderInService 0x2007FFFFFC 4 0x7FFFFFC 1 rfl (by decide) (by decide) (by decide +kernel)
  obtain ⟨u3, h3, ⟨a3, ⟨b3, -⟩, -, p3⟩, -⟩ := write larderInService 0x2007FFFFF8 0x7FFFFF8 [1, 2, 3, 4, 5, 6, 7, 8] 0 true false rfl (by decide)
    (by decide) (by decide +kernel) (by decide) (.inl (by decide))
  obtain ⟨u4, h4, ⟨b4, -, c4, -⟩, -⟩ := scrub larderInService 15
  obtain ⟨u5, h5, ⟨b5, -⟩, -⟩ := standby larderInService 15 (by decide) (by decide)
  obtain ⟨u6, h6, ⟨b6, -⟩, -⟩ := lost larderInService 15 (by decide)
  obtain ⟨u7, h7, ⟨c7, -⟩, -⟩ := report larderInService 9983 3 (by decide) (by decide) (by decide)
  exact ⟨⟨u1, h1, a1⟩, ⟨u2, h2, a2, d2.trans (by decide +kernel)⟩, ⟨u3, h3, a3, b3, p3 0xFFFFFF (by decide) (by decide) (by decide)⟩,
    ⟨u4, h4, b4.trans (by decide), c4.trans (by decide +kernel)⟩, ⟨u5, h5, congrArg Bank.activeOk b5, congrArg Bank.standbyOk b5⟩,
    ⟨u6, h6, congrArg Bank.lost b6⟩, ⟨u7, h7, c7⟩⟩

end Sys2Proof.Machine
end

section
/-! SUPPORT. Words, rows and poison of a pantry (R168, R169, R176), its port answers (R171), and commands that write one pantry of a tin. -/

namespace Sys2Proof.Machine

/-! ### Rows and words -/

@[simp] theorem Pantry.row_setRow (v : Pantry) (r n : Nat) : (v.setRow r n).row r = n % 2 ^ 72 := by
  simp [Pantry.row, Pantry.setRow]

theorem Pantry.row_setRow_ne (v : Pantry) {r q : Nat} (n : Nat) (h : q ≠ r) : (v.setRow r n).row q = v.row q := by
  simp [Pantry.row, Pantry.setRow, Tab.get_put_ne h]

@[simp] theorem Pantry.rowPoison_setPoison (v : Pantry) (r n : Nat) : (v.setPoison r n).rowPoison r = n := Tab.get_put_self

theorem Pantry.rowPoison_setPoison_ne (v : Pantry) {r q : Nat} (n : Nat) (h : q ≠ r) : (v.setPoison r n).rowPoison q = v.rowPoison q :=
  Tab.get_put_ne h

theorem Pantry.row_congr {v w : Pantry} (h : w.rows = v.rows) (r : Nat) : w.row r = v.row r := by unfold Pantry.row; rw [h]
theorem Pantry.rowPoison_congr {v w : Pantry} (h : w.poison = v.poison) (r : Nat) : w.rowPoison r = v.rowPoison r := by
  unfold Pantry.rowPoison; rw [h]

theorem pantryOrg_lt (c : Nat) : pantryOrg c < 4 := bits_lt c 0 2

/-- A word lies within its 72-bit row (R168). -/
theorem word_fits {org : Nat} (h : org < 4) (a : Nat) : 9 * wordLane org a + orgWidth org ≤ 72 := by
  unfold wordLane orgWidth
  have horg : org = 0 ∨ org = 1 ∨ org = 2 ∨ org = 3 := by omega
  obtain rfl | rfl | rfl | rfl := horg <;> simp only [Nat.reducePow, Nat.reduceDiv] <;> omega

theorem bits_mod_two_pow {n lo len m : Nat} (h : lo + len ≤ m) : bits (n % 2 ^ m) lo len = bits n lo len := by
  have hm : (2 : Nat) ^ m = 2 ^ lo * (2 ^ len * 2 ^ (m - lo - len)) := by
    rw [← Nat.pow_add, ← Nat.pow_add]; congr 1; omega
  unfold bits
  rw [hm, Nat.mod_mul_right_div_self, Nat.mod_mul_right_mod]

/-- The word stored reads as its low bits. -/
theorem Pantry.word_setWord (v : Pantry) {org : Nat} (h : org < 4) (a w : Nat) : (v.setWord org a w).word org a = w % 2 ^ orgWidth org := by
  change bits ((v.setRow (wordRow org a) _).row (wordRow org a)) _ _ = _
  rw [Pantry.row_setRow, bits_mod_two_pow (word_fits h a), bits_setBits]

/-- Its lanes are poisoned no more (R176). -/
theorem Pantry.wordPoison_setWord (v : Pantry) (org a w : Nat) : (v.setWord org a w).wordPoison org a = false := by
  simp [Pantry.wordPoison, Pantry.setWord, bits_setBits]

/-- Every other row is as it was. -/
theorem Pantry.setWord_rows_ne (v : Pantry) {org a r : Nat} (w : Nat) (h : r ≠ wordRow org a) :
    (v.setWord org a w).row r = v.row r ∧ (v.setWord org a w).rowPoison r = v.rowPoison r :=
  ⟨v.row_setRow_ne _ h, v.rowPoison_setPoison_ne _ h⟩

/-! ### The answer of a port -/

section
variable (v : Pantry) (b : Bool) (r : Option Nat)

theorem Pantry.answer_rows : (v.answer b r).rows = v.rows := by cases b <;> rfl
theorem Pantry.answer_poison : (v.answer b r).poison = v.poison := by cases b <;> rfl

theorem Pantry.answer_row (q : Nat) : (v.answer b r).row q = v.row q := Pantry.row_congr (v.answer_rows b r) q
theorem Pantry.answer_rowPoison (q : Nat) : (v.answer b r).rowPoison q = v.rowPoison q := Pantry.rowPoison_congr (v.answer_poison b r) q

theorem Pantry.answer_word (org a : Nat) : (v.answer b r).word org a = v.word org a := by unfold Pantry.word; rw [v.answer_row]
theorem Pantry.answer_wordPoison (org a : Nat) : (v.answer b r).wordPoison org a = v.wordPoison org a := by
  unfold Pantry.wordPoison; rw [v.answer_rowPoison]

/-- The port's own acknowledge rises. -/
theorem Pantry.answer_ack : (if b then (v.answer b r).ackB else (v.answer b r).ackA) = true := by cases b <;> rfl

/-- The port shows its response. -/
theorem Pantry.answer_out (n : Nat) : (if b then (v.answer b (some n)).outB else (v.answer b (some n)).outA) = ⟨some n, false⟩ := by cases b <;> rfl

/-- The other port's output is left alone. -/
theorem Pantry.answer_otherOut : (if b then (v.answer b r).outA else (v.answer b r).outB) = (if b then v.outA else v.outB) := by cases b <;> rfl

/-- Without a response no output changes. -/
theorem Pantry.answer_none_outs : (v.answer b none).outA = v.outA ∧ (v.answer b none).outB = v.outB := by cases b <;> exact ⟨rfl, rfl⟩

end

/-! ### Commands that write one pantry -/

@[simp] theorem Tin.pantry_setPantry (x : Tin) (p : Nat) (v : Pantry) : (x.setPantry p v).pantry p = v := by simp [Tin.pantry, Tin.setPantry]

@[simp] theorem Tin.setPantry_setPantry (x : Tin) (p : Nat) (v w : Pantry) : (x.setPantry p v).setPantry p w = x.setPantry p w := by
  simp [Tin.setPantry]

/-- A command that writes pantry `p` of tin `t` as `w` and settles the tin. -/
theorem runs_setPantry_settle {c : Instr} {s : State} {t p : Nat} {w : Pantry} {P : Pantry → Prop}
    (e : exec c s = .next (s.setTin t ((s.tin t).setPantry p w).settle)) (h : P w) :
    Runs c s [.tins] fun u => s.TinOnly t u ∧ ∃ w : Pantry, u.tin t = ((s.tin t).setPantry p w).settle ∧ P w :=
  Runs.of e (s.setTin_keeps t _) ⟨s.setTin_tinOnly t _, w, s.tin_setTin_self t _, h⟩

/-! ### Accesses of a port (R170–R172) -/

/-- The pantry after an access with the command token `k`: the response is formed before the word is stored. -/
def Pantry.accessed (v : Pantry) (org : Nat) (b : Bool) (k want : Nat) : Pantry :=
  (if want = 0 then v else v.setWord org (bits k 2 13) (bits k 15 (orgWidth org))).answer b
    (if want = 1 then none else some (v.response org (bits k 2 13)))

/-- A WRITE and a SWAP store the token's word, clear the poison of its lanes and leave every other row as it was. -/
theorem Pantry.accessed_stores (v : Pantry) {org want : Nat} (horg : org < 4) (hwant : want ≠ 0) (b : Bool) (k : Nat) :
    (v.accessed org b k want).word org (bits k 2 13) = bits k 15 (orgWidth org) ∧
    (v.accessed org b k want).wordPoison org (bits k 2 13) = false ∧
    ∀ r, r ≠ wordRow org (bits k 2 13) →
      (v.accessed org b k want).row r = v.row r ∧ (v.accessed org b k want).rowPoison r = v.rowPoison r := by
  simp only [Pantry.accessed, if_neg hwant, Pantry.answer_word, Pantry.answer_wordPoison, Pantry.answer_row, Pantry.answer_rowPoison]
  exact ⟨(v.word_setWord horg _ _).trans (Nat.mod_mod _ _), v.wordPoison_setWord .., fun _ hr => v.setWord_rows_ne _ hr⟩

/-- An access whose decode finds no error (R175). -/
theorem State.pantryAccess_clean {s : State} {t p k want : Nat} {b : Bool} (hcmd : (s.tin t).pantryCmd p b = some k)
    (hop : pantryOp ((s.tin t).pantryCtl p) b k = want) :
    s.pantryAccess t p b want .clean =
      s.setTin t ((s.tin t).setPantry p (((s.tin t).pantry p).accessed (pantryOrg ((s.tin t).pantryCtl p)) b k want)).settle := by
  have hdecode : ∀ r, s.pantryDecode t p r .clean = s := fun _ => rfl
  unfold State.pantryAccess
  simp only [hcmd, hop, ne_eq, not_true, if_false, hdecode, ite_self]
  rfl

/-- Settles O12: each access answers with the word as it was and stores the word of its token, in one pantry. -/
theorem pantryAccesses : Obligations.PantryAccesses := by
  unfold Obligations.PantryAccesses
  refine ⟨?read, ?write, ?swap⟩
  case read =>
    intro s t p b k org a v hcmd horg ha hv hop
    subst horg ha hv
    exact runs_setPantry_settle (congrArg Host.Outcome.next (State.pantryAccess_clean hcmd hop)) ⟨Pantry.answer_rows .., Pantry.answer_poison ..,
      Pantry.answer_ack .., Pantry.answer_out .., Pantry.answer_otherOut ..⟩
  case write =>
    intro s t p b k org a v hcmd horg ha hv hop
    subst horg ha hv
    obtain ⟨hword, hpoison, hrows⟩ := ((s.tin t.val).pantry p.val).accessed_stores (want := 1) (pantryOrg_lt _) (by decide) b k
    exact runs_setPantry_settle (congrArg Host.Outcome.next (State.pantryAccess_clean hcmd hop)) ⟨hword, hpoison, hrows, Pantry.answer_ack ..,
      Pantry.answer_none_outs ..⟩
  case swap =>
    intro s t p b k org a v hcmd horg ha hv hop
    subst horg ha hv
    obtain ⟨hword, hpoison, hrows⟩ := ((s.tin t.val).pantry p.val).accessed_stores (want := 2) (pantryOrg_lt _) (by decide) b k
    exact runs_setPantry_settle (congrArg Host.Outcome.next (State.pantryAccess_clean hcmd hop)) ⟨hword, hpoison, hrows, Pantry.answer_ack ..,
      Pantry.answer_out .., Pantry.answer_otherOut ..⟩

/-- A crumb whose hold 0 starts full, the hold full with a 1, and the bits `ins` of the inputs of pantry 0 tapped from it; the control frame of
the pantry is `ctl` and the pantry is `v`. -/
def pantryTin (ctl : Nat) (ins : List Nat) (v : Pantry) : Tin :=
  { Tin.blank with
    frames := [(0, BitVec.ofNat 1024 (2 ^ 654)), (0x5802, BitVec.ofNat 1024 (ins.foldr (fun i n => 2 ^ 16 * n + 0xC000 + i) 0)),
      (0x9B00, BitVec.ofNat 1024 ctl)]
    holds := [(0, ⟨true, true, false⟩)]
    pantries := [(0, v)]
    released := true }

/-- The device with that tin as tin 103. -/
def pantryState (ctl : Nat) (ins : List Nat) (v : Pantry) : State := { State.reset with tins := [(103, pantryTin ctl ins v)] }

/-- The last row of a pantry with a poisoned 9-bit word 0x0FE in its last lane. -/
def lastRowPantry : Pantry := { Pantry.blank with rows := [(1023, BitVec.ofNat 72 (0x0FE * 2 ^ 63))], poison := [(1023, 0x80)] }

/-- States that meet the hypotheses of O12, clause by clause: with words of 9 bits, a READ at the last address on port B, and a WRITE and a SWAP
there of the word 0x101 on port A. -/
theorem pantryAccesses_witness :
    (∃ u, exec (.pantryRead 103 0 true .clean) (pantryState 3 ((List.range 13).map (89 + ·)) lastRowPantry) = .next u ∧
      ∃ w : Pantry, u.tin 103 = ((pantryTin 3 ((List.range 13).map (89 + ·)) lastRowPantry).setPantry 0 w).settle ∧ w.rows = lastRowPantry.rows ∧
        w.outB = ⟨some 0x2FE, false⟩) ∧
    (∃ u, exec (.pantryWrite 103 0 false .clean) (pantryState 3 ([0, 15, 23] ++ (List.range 13).map (2 + ·)) lastRowPantry) = .next u ∧
      ∃ w : Pantry, u.tin 103 = ((pantryTin 3 ([0, 15, 23] ++ (List.range 13).map (2 + ·)) lastRowPantry).setPantry 0 w).settle ∧
        w.word 3 8191 = 0x101 ∧ w.wordPoison 3 8191 = false) ∧
    (∃ u, exec (.pantrySwap 103 0 false .clean) (pantryState 3 ([1, 15, 23] ++ (List.range 13).map (2 + ·)) lastRowPantry) = .next u ∧
      ∃ w : Pantry, u.tin 103 = ((pantryTin 3 ([1, 15, 23] ++ (List.range 13).map (2 + ·)) lastRowPantry).setPantry 0 w).settle ∧
        w.word 3 8191 = 0x101 ∧ w.outA = ⟨some 0x2FE, false⟩) := by
  obtain ⟨read, write, swap⟩ := pantryAccesses
  obtain ⟨u1, h1, ⟨-, w1, t1, r1, -, -, o1, -⟩, -⟩ := read (pantryState 3 ((List.range 13).map (89 + ·)) lastRowPantry) 103 0 true 0x7FFC 3 8191
    lastRowPantry (by decide +kernel) (by decide +kernel) (by decide) rfl (by decide +kernel)
  obtain ⟨u2, h2, ⟨-, w2, t2, b2, p2, -⟩, -⟩ := write (pantryState 3 ([0, 15, 23] ++ (List.range 13).map (2 + ·)) lastRowPantry) 103 0 false
    0x80FFFD 3 8191 lastRowPantry (by decide +kernel) (by decide +kernel) (by decide) rfl (by decide +kernel)
  obtain ⟨u3, h3, ⟨-, w3, t3, b3, -, -, -, o3, -⟩, -⟩ := swap (pantryState 3 ([1, 15, 23] ++ (List.range 13).map (2 + ·)) lastRowPantry) 103 0 false
    0x80FFFE 3 8191 lastRowPantry (by decide +kernel) (by decide +kernel) (by decide) rfl (by decide +kernel)
  exact ⟨⟨u1, h1, w1, t1, r1, o1.trans (by decide +kernel)⟩, ⟨u2, h2, w2, t2, b2, p2⟩, ⟨u3, h3, w3, t3, b3, o3.trans (by decide +kernel)⟩⟩

end Sys2Proof.Machine
end

section
/-! SUPPORT. Spare rows (R177), scrubbing (R175, R176, R180, R207) and the event channel (R187, R188) of a pantry. -/

namespace Sys2Proof.Machine

theorem State.setTin_setTin (s : State) (t : Nat) (x y : Tin) : (s.setTin t x).setTin t y = s.setTin t y := by
  simp [State.setTin]

/-- A state whose tins are those of `s` but for tin `t`. -/
theorem State.TinOnly.of_tins {s u : State} {t : Nat} {x : Tin} (h : u.tins = (s.setTin t x).tins) : s.TinOnly t u :=
  fun j hj => (State.tin_congr h j).trans (s.setTin_tinOnly t x j hj)

theorem State.tin_of_tins {s u : State} {t : Nat} {x : Tin} (h : u.tins = (s.setTin t x).tins) : u.tin t = x :=
  (State.tin_congr h t).trans (s.tin_setTin_self t x)

/-! ### Spare rows -/

/-- A hard-failed row moves to the next spare row (R177). -/
theorem exec_pantryRowSpared_free {s : State} {t : TinIx} {p : PantryIx} {r : Fin 1024} {v : Pantry} (hv : v = (s.tin t.val).pantry p.val)
    (hfailed : r.val ∈ v.hardFailed) (hfree : v.spareUsed < 8) :
    exec (.pantryRowSpared t p r) s = .next ((s.setTin t.val ((s.tin t.val).setPantry p.val { v with
      hardFailed := v.hardFailed.filter (fun q => q != r.val), remap := r.val :: v.remap.filter (fun q => q != r.val),
      spareUsed := v.spareUsed + 1 })).post
        0x0107 2 (some (t.val / 13)) (pantryUnit (s.roleOf t.val) (t.val % 13) p.val) r.val) := by
  subst hv
  exact if_pos (by simp [hfailed, hfree])

/-! ### Scrubbing -/

/-- The pantry's next scrub is of the row after `r` (R180). -/
def Pantry.scrubbed (v : Pantry) (r : Nat) : Pantry := { v with scrubRow := (r + 1) % 1024 }

/-- A scrub after whose decode the tin holds `w` as the pantry. -/
theorem exec_pantryScrub_of_tin {s s1 : State} {t : TinIx} {p : PantryIx} {err : MemErr} {r : Nat} {w : Pantry}
    (hr : r = ((s.tin t.val).pantry p.val).scrubRow) (hdecode : s.pantryDecode t.val p.val r err = s1)
    (htin : s1.tin t.val = (s.tin t.val).setPantry p.val w) :
    exec (.pantryScrub t p err) s = .next (s1.setTin t.val ((s.tin t.val).setPantry p.val (w.scrubbed r))) := by
  subst hr
  change execPantryScrub t p err s = _
  unfold execPantryScrub
  simp only [hdecode, htin, Tin.pantry_setPantry, Tin.setPantry_setPantry]
  rfl

theorem exec_pantryScrub_clean (s : State) (t : TinIx) (p : PantryIx) :
    exec (.pantryScrub t p .clean) s = .next (s.setTin t.val ((s.tin t.val).setPantry p.val
      (((s.tin t.val).pantry p.val).scrubbed ((s.tin t.val).pantry p.val).scrubRow))) := rfl

/-- A corrected error is counted in the tin's register and for the memory (R207, R209). -/
theorem exec_pantryScrub_corrected (s : State) (t : TinIx) (p : PantryIx) :
    exec (.pantryScrub t p .corrected) s = .next (((s.fsat (TIN_PANTRY_ERR.corr t.val) 1).countCorr (pantryInst t.val p.val)).setTin t.val
      ((s.tin t.val).setPantry p.val (((s.tin t.val).pantry p.val).scrubbed ((s.tin t.val).pantry p.val).scrubRow))) := rfl

theorem TIN_PANTRY_ERR_fits (t : Nat) :
    (TIN_PANTRY_ERR.corr t).lo + (TIN_PANTRY_ERR.corr t).len ≤ 32 ∧ (TIN_PANTRY_ERR.uncorr t).lo + (TIN_PANTRY_ERR.uncorr t).len ≤ 32 ∧
    (TIN_PANTRY_ERR.fifo_fault t).lo + (TIN_PANTRY_ERR.fifo_fault t).len ≤ 32 := by
  simp [TIN_PANTRY_ERR.corr, TIN_PANTRY_ERR.uncorr, TIN_PANTRY_ERR.fifo_fault]

theorem TIN_PANTRY_ERR_no_spare_below_uncorr (t : Nat) :
    (TIN_PANTRY_ERR.no_spare t).lo + (TIN_PANTRY_ERR.no_spare t).len ≤ (TIN_PANTRY_ERR.uncorr t).lo := by
  simp [TIN_PANTRY_ERR.uncorr, TIN_PANTRY_ERR.no_spare]

/-- An uncorrectable row poisons its lanes and is counted (R176, R207), whether it goes to a spare row, waits for one already or finds none. -/
theorem State.pantryDecode_uncorr (s : State) (t p r : Nat) : ∃ w : Pantry,
    (s.pantryDecode t p r .uncorr).tins = (s.setTin t ((s.tin t).setPantry p w)).tins ∧
    w.rows = (((s.tin t).pantry p).setRow r (Config.freeNat s.free)).rows ∧ w.poison = (((s.tin t).pantry p).setPoison r 0xFF).poison ∧
    (s.pantryDecode t p r .uncorr).fget (TIN_PANTRY_ERR.uncorr t) =
      satAdd (TIN_PANTRY_ERR.uncorr t).len (s.fget (TIN_PANTRY_ERR.uncorr t)) 1 := by
  obtain ⟨-, hfits, -⟩ := TIN_PANTRY_ERR_fits t
  have hcount : ((s.takeFree 1).2.fsat (TIN_PANTRY_ERR.uncorr t) 1).fget (TIN_PANTRY_ERR.uncorr t) =
      satAdd (TIN_PANTRY_ERR.uncorr t).len (s.fget (TIN_PANTRY_ERR.uncorr t)) 1 := by
    rw [State.fget_fsat _ _ hfits, State.takeFree_fget]
  have hapart : ∀ u : State, (u.fsat (TIN_PANTRY_ERR.no_spare t) 1).fget (TIN_PANTRY_ERR.uncorr t) = u.fget (TIN_PANTRY_ERR.uncorr t) :=
    fun u => State.fget_fset_apart (f := TIN_PANTRY_ERR.no_spare t) (g := TIN_PANTRY_ERR.uncorr t) u _ rfl hfits
      (.inr (TIN_PANTRY_ERR_no_spare_below_uncorr t))
  unfold State.pantryDecode
  dsimp only
  split
  · exact ⟨_, rfl, rfl, rfl, by simp [hcount]⟩
  split
  · exact ⟨_, rfl, rfl, rfl, by simp [hcount]⟩
  split
  · exact ⟨_, rfl, rfl, rfl, by simp [hcount, hapart]⟩
  · exact ⟨_, rfl, rfl, rfl, by simp [hcount]⟩

/-! ### Events -/

/-- The stale timer of a FIFO with words runs out (R181, R188). -/
theorem exec_stale_due {s : State} {t : TinIx} {p : PantryIx} {c : Nat} {v : Pantry} (hc : c = (s.tin t.val).pantryCtl p.val)
    (hv : v = (s.tin t.val).pantry p.val) (hfifo : pantryFifo c = true) (hcount : pantryStaleCount c ≠ 0) (hwords : v.wpA ≠ v.rpA)
    (hfired : v.staleFired = false) (hdue : v.staleSince + staleTime c ≤ s.now) :
    exec (.stale t p) s = .next (s.setTin t.val ((s.tin t.val).setPantry p.val { v.raise 0 with staleFired := true })) := by
  subst hc hv
  exact if_pos (by simp [hfifo, hcount, hwords, hfired, hdue])

/-- What STALE leaves in the pantry: the event's bit, merged when a token was pending (R187). -/
theorem Pantry.stale_eq (v : Pantry) : { v.raise 0 with staleFired := true } =
    { v with staleFired := true, event := if v.event = 0 then 1 else setBit (setBit v.event 0 true) 2 true } := by
  unfold Pantry.raise
  split <;> rfl

/-- Settles O13: each clause writes one pantry of one tin. -/
theorem pantryUpkeep : Obligations.PantryUpkeep := by
  unfold Obligations.PantryUpkeep
  refine ⟨?spared, ?clean, ?corrected, ?uncorr, ?stale, ?consumed⟩
  case spared =>
    intro s t p r v hv hfailed hfree
    exact Runs.of (exec_pantryRowSpared_free hv hfailed hfree) (Keeps.via (State.post_keeps ..) rfl (Keeps.via (State.setTin_keeps ..) rfl Keeps.refl))
      ⟨.of_tins rfl, State.tin_of_tins rfl, rfl⟩
  case clean =>
    intro s t p v hv
    subst hv
    exact Runs.of (exec_pantryScrub_clean s t p) (State.setTin_keeps ..) ⟨.of_tins rfl, State.tin_of_tins rfl⟩
  case corrected =>
    intro s t p v hv
    subst hv
    obtain ⟨hfits, -⟩ := TIN_PANTRY_ERR_fits t.val
    exact Runs.of (exec_pantryScrub_corrected s t p)
      (Keeps.via (State.setTin_keeps ..) rfl (Keeps.via (State.countCorr_keeps ..) rfl (Keeps.via (State.fsat_keeps ..) rfl Keeps.refl)))
      ⟨.of_tins rfl, State.tin_of_tins rfl, State.fget_fsat s 1 hfits, .of_fsat (f := TIN_PANTRY_ERR.corr t.val) rfl (by simp), rfl⟩
  case uncorr =>
    intro s t p v hv
    subst hv
    obtain ⟨w, htins, hrows, hpoison, hcount⟩ := s.pantryDecode_uncorr t.val p.val ((s.tin t.val).pantry p.val).scrubRow
    refine Runs.of (exec_pantryScrub_of_tin rfl rfl (State.tin_of_tins htins))
      (Keeps.via (State.setTin_keeps ..) rfl (Keeps.via (State.pantryDecode_keeps ..) rfl Keeps.refl)) ?_
    simp only [State.tin_setTin_self, Tin.pantry_setPantry, State.setTin_fget]
    refine ⟨?_, ?_, rfl, fun r hr => ⟨?_, ?_⟩, hcount⟩
    · exact fun j hj => (State.setTin_tinOnly _ _ _ j hj).trans (State.TinOnly.of_tins htins j hj)
    · exact (Pantry.rowPoison_congr (v := ((s.tin t.val).pantry p.val).setPoison _ 0xFF) hpoison _).trans (Pantry.rowPoison_setPoison ..)
    · exact (Pantry.row_congr (v := ((s.tin t.val).pantry p.val).setRow _ _) hrows r).trans (Pantry.row_setRow_ne _ _ hr)
    · exact (Pantry.rowPoison_congr (v := ((s.tin t.val).pantry p.val).setPoison _ 0xFF) hpoison r).trans (Pantry.rowPoison_setPoison_ne _ _ hr)
  case stale =>
    intro s t p c v hc hv hfifo hcount hwords hfired hdue
    refine Runs.of (exec_stale_due hc hv hfifo hcount hwords hfired hdue) (State.setTin_keeps ..) ⟨.of_tins rfl, ?_⟩
    rw [State.tin_setTin_self, Pantry.stale_eq]
  case consumed =>
    intro s t p v hv hevent hwait htapped hacks
    subst hv
    exact Runs.of (if_pos ⟨hevent, hwait, htapped, hacks⟩) (State.setTin_keeps ..) ⟨.of_tins rfl, State.tin_of_tins rfl⟩

/-- A pantry whose last row, the next to be scrubbed, waits for the eighth spare row; as a FIFO of 9-bit words it holds 8,191 of them and has an
ERROR pending. -/
def wornPantry : Pantry :=
  { Pantry.blank with
    rows := [(0, 7), (1023, 9)], hardFailed := [1023], spareUsed := 7, scrubRow := 1023, wpA := 8191, wpB := 8191, event := 2 }

/-- Tin 103 with that pantry in FIFO mode with a stale time of 10 ns, at the time it runs out; the counters of its
`TIN_PANTRY_ERR` stand one below their tops. -/
def wornState : State :=
  { pantryState (7 + 2 ^ 20) [] wornPantry with
    now := 10 * 2 ^ 40
    regs := [(TIN_PANTRY_ERR 103, 0xFEFE0FFE)] }

/-- A released tin in which output bit `n` of pantry 0 drives input 0 of crumb 0, whose hold has taken it; the pantry's control frame is `ctl`. -/
def takingTin (ctl n : Nat) (v : Pantry) : Tin :=
  { Tin.blank with
    frames := [(0, BitVec.ofNat 1024 (1 + 2 ^ 654 + 2 ^ 687)), (0x5800, 16), (0x5803, BitVec.ofNat 1024 (2 ^ 15 + n)),
      (0x9B00, BitVec.ofNat 1024 ctl)]
    holds := [(0, ⟨true, true, true⟩)]
    pantries := [(0, v)]
    released := true }

/-- The device with that tin as tin 103. -/
def takingState (ctl n : Nat) (v : Pantry) : State := { State.reset with tins := [(103, takingTin ctl n v)] }

/-- The hold of crumb 0 is the one receiver of bit `n`: bit 0 of the event channel (146), or of the read side (73). -/
theorem takingTin_acks : (takingTin 7 146 Pantry.blank).outAcks (.pantry 0) 146 3 = [true] ∧
    (takingTin 7 73 Pantry.blank).outAcks (.pantry 0) 73 73 = [true] := by
  decide +kernel

/-- States that meet the hypotheses of O13, clause by clause. -/
theorem pantryUpkeep_witness :
    (∃ u, exec (.pantryRowSpared 103 0 1023) wornState = .next u ∧ ((u.tin 103).pantry 0).remap = [1023] ∧
      ((u.tin 103).pantry 0).spareUsed = 8) ∧
    (∃ u, exec (.pantryScrub 103 0 .clean) wornState = .next u ∧ ((u.tin 103).pantry 0).scrubRow = 0) ∧
    (∃ u, exec (.pantryScrub 103 0 .corrected) wornState = .next u ∧ u.fget (TIN_PANTRY_ERR.corr 103) = 4095) ∧
    (∃ u, exec (.pantryScrub 103 0 .uncorr) wornState = .next u ∧ ((u.tin 103).pantry 0).rowPoison 1023 = 0xFF ∧
      ((u.tin 103).pantry 0).row 0 = 7 ∧ u.fget (TIN_PANTRY_ERR.uncorr 103) = 255) ∧
    (∃ u, exec (.stale 103 0) wornState = .next u ∧ ((u.tin 103).pantry 0).event = 7) ∧
    (∃ u, exec (.fifoEventConsume 103 0) (takingState 7 146 { Pantry.blank with event := 7 }) = .next u ∧
      u.tin 103 = ((takingTin 7 146 { Pantry.blank with event := 7 }).setPantry 0 { Pantry.blank with eventWait := true }).settle) := by
  obtain ⟨spared, clean, corrected, uncorr, stale, consumed⟩ := pantryUpkeep
  obtain ⟨u1, h1, ⟨-, t1, -⟩, -⟩ := spared wornState 103 0 1023 wornPantry (by decide +kernel) (by decide) (by decide)
  obtain ⟨u2, h2, ⟨-, t2⟩, -⟩ := clean wornState 103 0 wornPantry (by decide +kernel)
  obtain ⟨u3, h3, ⟨-, -, c3, -⟩, -⟩ := corrected wornState 103 0 wornPantry (by decide +kernel)
  obtain ⟨u4, h4, ⟨-, p4, -, r4, c4⟩, -⟩ := uncorr wornState 103 0 wornPantry (by decide +kernel)
  obtain ⟨u5, h5, ⟨-, t5⟩, -⟩ := stale wornState 103 0 (7 + 2 ^ 20) wornPantry (by decide +kernel) (by decide +kernel) (by decide) (by decide)
    (by decide) rfl (by decide +kernel)
  obtain ⟨u6, h6, ⟨-, t6⟩, -⟩ := consumed (takingState 7 146 { Pantry.blank with event := 7 }) 103 0 { Pantry.blank with event := 7 }
    (by decide +kernel) (by decide) rfl (by decide +kernel) (by decide +kernel)
  have p1 := (congrArg (Tin.pantry · 0) t1).trans (Tin.pantry_setPantry ..)
  have p2 := (congrArg (Tin.pantry · 0) t2).trans (Tin.pantry_setPantry ..)
  have p5 := (congrArg (Tin.pantry · 0) t5).trans (Tin.pantry_setPantry ..)
  exact ⟨⟨u1, h1, congrArg Pantry.remap p1, congrArg Pantry.spareUsed p1⟩, ⟨u2, h2, congrArg Pantry.scrubRow p2⟩,
    ⟨u3, h3, c3.trans (by decide +kernel)⟩, ⟨u4, h4, p4, (r4 0 (by decide)).1.trans (by decide), c4.trans (by decide +kernel)⟩,
    ⟨u5, h5, congrArg Pantry.event p5⟩, ⟨u6, h6, t6⟩⟩

end Sys2Proof.Machine
end

section
/-! SUPPORT. The moves of a FIFO and its flush (R184–R186). -/

namespace Sys2Proof.Machine

/-! ### Flushing -/

/-- An event raised shows its bit (R187); `merged` is bit 2. -/
theorem Pantry.bit_raise (v : Pantry) {b : Nat} (h : b < 2) : bit (v.raise b).event b = true := by
  unfold Pantry.raise
  split
  · change bit (2 ^ b) b = true
    unfold bit bits
    rw [Nat.div_self (Nat.two_pow_pos b)]
    rfl
  · have hbelow : bit (setBit (setBit v.event b true) 2 true) b = bit (setBit v.event b true) b := by
      unfold bit setBit
      rw [bits_setBits_below _ _ _ _ _ _ (by omega)]
    exact hbelow.trans (bit_setBit ..)

/-- A flush raises ERROR (R186). -/
theorem Pantry.flush_error (v : Pantry) : bit v.flush.event 1 = true := v.bit_raise (by decide)

/-- Two pointers that differ in bit 0 still differ after their step. -/
theorem pointer_upset_ne (n d : Nat) : (n + 1) % (2 * d) ≠ ((n ^^^ 1) + 1) % (2 * d) := by
  intro h
  have hparity := congrArg (· % 2) h
  simp only [Nat.mod_mul_right_mod] at hparity
  have hxor := Nat.xor_mod_two_eq_one (a := n) (b := 1)
  omega

/-! ### The write side -/

/-- The pantry after a word has been taken at the write port at the time `now`, the second copy of the write pointer having stood at `wp2`
(R184). -/
def Pantry.written (v : Pantry) (org w now wp2 : Nat) : Pantry :=
  { v.setWord org (v.wpA % fifoDepth org) w with
    wpA := (v.wpA + 1) % (2 * fifoDepth org), wpB := (wp2 + 1) % (2 * fifoDepth org), ackA := true
    staleSince := if v.wpA = v.rpA then now else v.staleSince
    staleFired := if v.wpA = v.rpA then false else v.staleFired }

/-- A FIFO with room takes the word; its pointer copies decide whether it goes on. -/
theorem exec_fifoWrite_taken {s : State} {t : TinIx} {p : PantryIx} {c org w : Nat} {v x : Pantry} {upset : Bool}
    (hc : c = (s.tin t.val).pantryCtl p.val) (horg : org = pantryOrg c) (hv : v = (s.tin t.val).pantry p.val)
    (hrun : (s.tin t.val).running = true) (hfifo : pantryFifo c = true) (husable : v.unusable = false) (hack : v.ackA = false)
    (hroom : v.fifoCount org < fifoDepth org) (htok : (s.tin t.val).groupToken (.pantry p.val) 0 (orgWidth org) = some w)
    (hx : x = v.written org w s.now (if upset then v.wpB ^^^ 1 else v.wpB)) :
    exec (.fifoWrite t p upset) s = if x.wpA ≠ x.wpB ∨ x.rpA ≠ x.rpB then .next (s.fifoFault t.val p.val x) else
      .next (s.setTin t.val ((s.tin t.val).setPantry p.val (if v.wpA = v.rpA && !v.ackB then x.offerHead org else x)).settle) := by
  subst hx hc horg hv
  change execFifoWrite t p upset s = _
  unfold execFifoWrite
  rw [if_pos (by simp [hrun, hfifo, husable, hack, hroom])]
  simp only [htok]
  rfl

/-- The word stands at the place of the write pointer, and no other row has changed. -/
theorem Pantry.written_word (v : Pantry) {org : Nat} (horg : org < 4) (w now wp2 : Nat) :
    (v.written org w now wp2).word org (v.wpA % fifoDepth org) = w % 2 ^ orgWidth org ∧
    ∀ r, r ≠ wordRow org (v.wpA % fifoDepth org) →
      (v.written org w now wp2).row r = v.row r ∧ (v.written org w now wp2).rowPoison r = v.rowPoison r :=
  ⟨v.word_setWord horg _ w, fun _ hr => v.setWord_rows_ne w hr⟩

/-! ### The read side -/

/-- The pantry after its head word has been taken at the time `now` (R184): the read side waits for the acknowledges to fall. -/
def Pantry.headTaken (v : Pantry) (org now : Nat) : Pantry :=
  { v with rpA := (v.rpA + 1) % (2 * fifoDepth org), rpB := (v.rpB + 1) % (2 * fifoDepth org), outB := ⟨none, true⟩,
           staleSince := now, staleFired := false }

/-- Every receiver has taken the head word, and the next one, if any, is offered. -/
theorem exec_fifoRead_taken {s : State} {t : TinIx} {p : PantryIx} {c org : Nat} {v : Pantry} (hc : c = (s.tin t.val).pantryCtl p.val)
    (horg : org = pantryOrg c) (hv : v = (s.tin t.val).pantry p.val) (hrun : (s.tin t.val).running = true) (hfifo : pantryFifo c = true)
    (hwait : v.outB.wait = false) (hleft : v.ackB = false) (hwords : v.wpA ≠ v.rpA) (hoffered : v.outB.tok.isSome = true)
    (htapped : (s.tin t.val).outTapped (.pantry p.val) 73 73 = true)
    (hacks : ((s.tin t.val).outAcks (.pantry p.val) 73 73).all id = true) (hwp : v.wpA = v.wpB) (hrp : v.rpA = v.rpB) :
    exec (.fifoRead t p false .clean) s =
      .next (s.setTin t.val ((s.tin t.val).setPantry p.val ((v.headTaken org s.now).offerHead org)).settle) := by
  subst hc horg hv
  change execFifoRead t p false .clean s = _
  unfold execFifoRead
  rw [if_pos (by simp [hrun, hfifo, hwait, hwords, hoffered, htapped, hacks]), if_neg (by simp [hleft])]
  extract_lets m x s1 s2 x2
  have hs2 : s2 = s1 := ite_self s1
  have hx2 : x2 = (s.tin t.val).setPantry p.val x := (congrArg (State.tin · t.val) hs2).trans (s.tin_setTin_self ..)
  rw [if_neg (by simp [x, hwp, hrp]), hx2, hs2, Tin.pantry_setPantry, Tin.setPantry_setPantry, State.setTin_setTin]
  rfl

/-- Settles O14: a move stores or offers one word and steps both copies of one pointer; a copy that differs in a bit differs after the step. -/
theorem fifoMoves : Obligations.FifoMoves := by
  unfold Obligations.FifoMoves
  refine ⟨?write, ?read, ?flush⟩
  case write =>
    intro s t p c org w v hc horg hv hrun hfifo husable hack hroom htok hwp hrp
    have hexec := exec_fifoWrite_taken (upset := false) hc horg hv hrun hfifo husable hack hroom htok rfl
    rw [if_neg (by simp [Pantry.written, Pantry.setWord, Pantry.setPoison, Pantry.setRow, hwp, hrp]), hv] at hexec
    have hnext := congrArg (fun n => (n + 1) % (2 * fifoDepth org)) hwp.symm
    obtain ⟨hword, hrows⟩ := v.written_word (horg ▸ pantryOrg_lt c) w s.now v.wpB
    subst hv
    refine runs_setPantry_settle hexec ?_
    split <;> exact ⟨hword, rfl, hnext, rfl, rfl, rfl, hrows⟩
  case read =>
    intro s t p c org v hc horg hv hrun hfifo hwait hleft hwords hoffered htapped hacks hwp hrp
    exact runs_setPantry_settle (exec_fifoRead_taken hc horg hv hrun hfifo hwait hleft hwords hoffered htapped hacks hwp hrp)
      ⟨rfl, congrArg (fun n => (n + 1) % (2 * fifoDepth org)) hrp.symm, rfl, rfl, rfl, rfl, rfl⟩
  case flush =>
    intro s t p c org w v hc horg hv hrun hfifo husable hack hroom htok hwp hrp
    obtain ⟨-, -, hfits⟩ := TIN_PANTRY_ERR_fits t.val
    have hupset : (v.written org w s.now (v.wpB ^^^ 1)).wpA ≠ (v.written org w s.now (v.wpB ^^^ 1)).wpB := by
      rw [← hwp]
      exact pointer_upset_ne v.wpA (fifoDepth org)
    have hexec := exec_fifoWrite_taken (upset := true) hc horg hv hrun hfifo husable hack hroom htok rfl
    rw [if_pos (.inl hupset)] at hexec
    exact Runs.of hexec (s.fifoFault_keeps ..)
      ⟨.of_tins rfl, _, State.tin_of_tins rfl, rfl, rfl, rfl, rfl, Pantry.flush_error _, State.fget_fsat s 1 hfits,
        .of_fsat (f := TIN_PANTRY_ERR.fifo_fault t.val) rfl (by simp)⟩

/-- A FIFO of 9-bit words with room for one more, its write pointer at its last value. -/
def nearlyFull : Pantry := { Pantry.blank with wpA := 16383, wpB := 16383, rpA := 8192, rpB := 8192 }

/-- A FIFO that holds two words across the wrap of its pointers and offers the first. -/
def twoWords : Pantry :=
  { Pantry.blank with rows := [(0, 7), (1023, 5)], wpA := 1, wpB := 1, rpA := 16383, rpB := 16383, outB := ⟨some 5, false⟩ }

/-- States that meet the hypotheses of O14, clause by clause: the word 0x101 is taken, the next word is offered, and an upset of the write
pointer flushes a FIFO whose fault count stands at its top. -/
theorem fifoMoves_witness :
    (∃ u, exec (.fifoWrite 103 0 false) (pantryState 7 [0, 8] nearlyFull) = .next u ∧
      ∃ x : Pantry, u.tin 103 = ((pantryTin 7 [0, 8] nearlyFull).setPantry 0 x).settle ∧ x.word 3 8191 = 0x101 ∧ x.wpA = 0 ∧ x.wpB = 0) ∧
    (∃ u, exec (.fifoRead 103 0 false .clean) (takingState 7 73 twoWords) = .next u ∧
      ∃ x : Pantry, u.tin 103 = ((takingTin 7 73 twoWords).setPantry 0 x).settle ∧ x.rpA = 0 ∧ x.rpB = 0 ∧ x.outB = ⟨some 7, true⟩) ∧
    (∃ u, exec (.fifoWrite 103 0 true) { pantryState 7 [0, 8] nearlyFull with regs := [(TIN_PANTRY_ERR 103, 0xFF000000)] } = .next u ∧
      u.fget (TIN_PANTRY_ERR.fifo_fault 103) = 255 ∧
      ∃ x : Pantry, u.tin 103 = ((pantryTin 7 [0, 8] nearlyFull).setPantry 0 x).settle ∧ x.wpA = 0 ∧ x.rpA = 0 ∧ bit x.event 1 = true) := by
  obtain ⟨write, read, flush⟩ := fifoMoves
  obtain ⟨u1, h1, ⟨-, x1, t1, w1, a1, b1, -⟩, -⟩ := write (pantryState 7 [0, 8] nearlyFull) 103 0 7 3 0x101 nearlyFull (by decide +kernel) (by decide)
    (by decide +kernel) rfl (by decide) rfl rfl (by decide) (by decide +kernel) rfl rfl
  obtain ⟨u2, h2, ⟨-, x2, t2, a2, b2, -, -, -, -, o2⟩, -⟩ := read (takingState 7 73 twoWords) 103 0 7 3 twoWords (by decide +kernel) (by decide)
    (by decide +kernel) rfl (by decide) rfl rfl (by decide) rfl (by decide +kernel) (by decide +kernel) rfl rfl
  obtain ⟨u3, h3, ⟨-, x3, t3, a3, -, r3, -, e3, c3, -⟩, -⟩ := flush
    { pantryState 7 [0, 8] nearlyFull with regs := [(TIN_PANTRY_ERR 103, 0xFF000000)] } 103 0 7 3 0x101 nearlyFull (by decide +kernel) (by decide)
    (by decide +kernel) rfl (by decide) rfl rfl (by decide) (by decide +kernel) rfl rfl
  have p2 : x2.rpA = 0 := a2
  rw [p2] at o2
  exact ⟨⟨u1, h1, x1, t1, w1, a1, b1.trans a1⟩, ⟨u2, h2, x2, t2, p2, b2.trans p2, o2.trans (by decide +kernel)⟩,
    ⟨u3, h3, c3.trans (by decide +kernel), x3, t3, a3, r3, e3⟩⟩

end Sys2Proof.Machine
end

section
/-! SUPPORT. Rounding and saturation of a stored result (R220) and the clamp of an accumulator (R218). -/

namespace Sys2Proof.Machine

/-! ### Rounding -/

/-- The rounding of `q * 2 ^ (n + 1) + rem` as R220 tells it: down below the half, up above it, and at the half to the even neighbour. -/
theorem roundShift_cases (a : Int) (n : Nat) : ∃ q rem : Int, a = q * (2 * 2 ^ n) + rem ∧ 0 ≤ rem ∧ rem < 2 * 2 ^ n ∧
    (rem < 2 ^ n ∧ roundShift a (n + 1) = q ∨ rem = 2 ^ n ∧ roundShift a (n + 1) = q + q % 2 ∨
      2 ^ n < rem ∧ roundShift a (n + 1) = q + 1) := by
  have hpow : (2 : Int) ^ (n + 1) = 2 * 2 ^ n := by rw [Int.pow_succ, Int.mul_comm]
  have hpos : (0 : Int) < 2 * 2 ^ n := Int.mul_pos (by decide) (Int.pow_pos (by decide))
  have hdiv := Int.mul_ediv_add_emod a (2 * 2 ^ n)
  have hrem : a - a / (2 * 2 ^ n) * (2 * 2 ^ n) = a % (2 * 2 ^ n) := by rw [Int.mul_comm]; omega
  refine ⟨a / (2 * 2 ^ n), a % (2 * 2 ^ n), by rw [Int.mul_comm]; exact hdiv.symm, Int.emod_nonneg _ (Int.ne_of_gt hpos), Int.emod_lt_of_pos _ hpos, ?_⟩
  simp only [roundShift, hpow, hrem, Nat.add_one_ne_zero, if_false, Nat.add_sub_cancel]
  split
  · exact .inr (.inr ⟨‹_›, rfl⟩)
  split
  · exact .inr (.inl ⟨‹_›, rfl⟩)
  · exact .inl ⟨by omega, rfl⟩

/-- The rounded value is a nearest multiple, and the even one of two that are equally near. -/
theorem roundShift_nearest (a : Int) (n : Nat) : 2 * (roundShift a (n + 1) * 2 ^ (n + 1) - a) ≤ 2 ^ (n + 1) ∧
    -(2 ^ (n + 1)) ≤ 2 * (roundShift a (n + 1) * 2 ^ (n + 1) - a) ∧
    (2 * (roundShift a (n + 1) * 2 ^ (n + 1) - a) = 2 ^ (n + 1) ∨ 2 * (roundShift a (n + 1) * 2 ^ (n + 1) - a) = -(2 ^ (n + 1)) →
      roundShift a (n + 1) % 2 = 0) := by
  have hpow : (2 : Int) ^ (n + 1) = 2 * 2 ^ n := by rw [Int.pow_succ, Int.mul_comm]
  obtain ⟨q, rem, rfl, hnonneg, hlt, hround⟩ := roundShift_cases a n
  rw [hpow]
  generalize (2 : Int) ^ n = half at *
  obtain ⟨hbelow, hr⟩ | ⟨htie, hr⟩ | ⟨habove, hr⟩ := hround
  · rw [hr]
    omega
  · rw [hr, Int.add_mul]
    obtain h | h := Int.emod_two_eq q <;> rw [h] <;> omega
  · rw [hr, Int.add_mul]
    omega

/-! ### Saturation -/

/-- The rails of the output format (R220). -/
def storeLow (w : Nat) (unsig : Bool) : Int := if unsig then 0 else -(2 ^ (w - 1))
def storeHigh (w : Nat) (unsig : Bool) : Int := if unsig then 2 ^ w - 1 else 2 ^ (w - 1) - 1

theorem storeLow_le_storeHigh (w : Nat) (unsig : Bool) : storeLow w unsig ≤ storeHigh w unsig := by
  have hw : (0 : Int) < 2 ^ w := Int.pow_pos (by decide)
  have hw1 : (0 : Int) < 2 ^ (w - 1) := Int.pow_pos (by decide)
  cases unsig <;> simp only [storeLow, storeHigh, Bool.false_eq_true, if_true, if_false] <;> omega

/-- A stored result is the rounded value, or a rail that the rail given or the range asks for. -/
theorem storeValue_cases (w n : Nat) (unsig : Bool) (a : Int) (ovf : Rail) :
    storeValue w n unsig a ovf = (storeHigh w unsig, .high) ∨ storeValue w n unsig a ovf = (storeLow w unsig, .low) ∨
    storeValue w n unsig a ovf = (roundShift a n, .none) ∧ storeLow w unsig ≤ roundShift a n ∧ roundShift a n ≤ storeHigh w unsig := by
  unfold storeValue storeLow storeHigh
  extract_lets q lo hi rail
  cases ovf with
  | high => exact .inl rfl
  | low => exact .inr (.inl rfl)
  | none =>
    have hrail : rail = if q > hi then .high else if q < lo then .low else .none := rfl
    split at hrail
    · exact .inl (by rw [hrail])
    split at hrail
    · exact .inr (.inl (by rw [hrail]))
    · exact .inr (.inr ⟨by rw [hrail], by omega, by omega⟩)

/-- A stored result lies in the range of the output format. -/
theorem storeValue_in_range (w n : Nat) (unsig : Bool) (a : Int) (ovf : Rail) :
    storeLow w unsig ≤ (storeValue w n unsig a ovf).1 ∧ (storeValue w n unsig a ovf).1 ≤ storeHigh w unsig := by
  have hle := storeLow_le_storeHigh w unsig
  obtain h | h | ⟨h, hlo, hhi⟩ := storeValue_cases w n unsig a ovf <;> rw [h]
  · exact ⟨hle, Int.le_refl _⟩
  · exact ⟨Int.le_refl _, hle⟩
  · exact ⟨hlo, hhi⟩

/-- A rounded value that fits is stored as it is when the accumulator stands at no rail. -/
theorem storeValue_of_fits {w n : Nat} {unsig : Bool} {a : Int} (hlo : storeLow w unsig ≤ roundShift a n)
    (hhi : roundShift a n ≤ storeHigh w unsig) : storeValue w n unsig a .none = (roundShift a n, .none) := by
  unfold storeValue
  unfold storeLow at hlo
  unfold storeHigh at hhi
  simp only [if_true, if_neg (Int.not_lt.mpr hlo), if_neg (Int.not_lt.mpr hhi)]

/-! ### The clamp of an accumulator -/

theorem clamp56_in_range (x : Int) (r : Rail) : -(2 ^ 55) ≤ (clamp56 x r).1 ∧ (clamp56 x r).1 ≤ 2 ^ 55 - 1 := by
  unfold clamp56
  split
  · exact ⟨by decide, Int.le_refl _⟩
  split
  · exact ⟨Int.le_refl _, by decide⟩
  · exact ⟨by omega, by omega⟩

theorem clamp56_of_fits {x : Int} (r : Rail) (hlo : -(2 ^ 55) ≤ x) (hhi : x ≤ 2 ^ 55 - 1) : clamp56 x r = (x, r) := by
  unfold clamp56
  rw [if_neg (Int.not_lt.mpr hhi), if_neg (Int.not_lt.mpr hlo)]

/-- Settles O16: a rounded value is a nearest multiple, a stored one lies between the rails of its format, an accumulator within 56 bits. -/
theorem mixerRounding : Obligations.MixerRounding := by
  unfold Obligations.MixerRounding
  refine ⟨?nearest, ?fits, ?range, ?clamp⟩
  case nearest =>
    intro a n hn
    obtain ⟨k, rfl⟩ := Nat.exists_eq_add_one.mpr hn
    exact roundShift_nearest a k
  case fits =>
    intro w n a _ hlo hhi
    exact storeValue_of_fits (unsig := false) hlo hhi
  case range =>
    intro w n a _
    obtain ⟨hlo, hhi⟩ := storeValue_in_range w n false a .none
    obtain ⟨hlou, hhiu⟩ := storeValue_in_range w n true a .none
    exact ⟨hlo, hhi, hlou, hhiu⟩
  case clamp =>
    intro x r
    obtain ⟨hlo, hhi⟩ := clamp56_in_range x r
    exact ⟨hlo, hhi, clamp56_of_fits r⟩

/-- Values that meet the hypotheses of O16: −40 / 16 = −2.5 is a tie, and −32,776 / 16 = −2,048.5 rounds onto the low rail of 12 bits and
is stored as it is. -/
theorem mixerRounding_witness : roundShift (-40) 4 % 2 = 0 ∧ storeValue 12 4 false (-32776) .none = (-2048, .none) := by
  obtain ⟨nearest, fits, -, -⟩ := mixerRounding
  exact ⟨(nearest (-40) 4 (by decide)).2.2 (by decide), fits 12 4 (-32776) (by decide) (by decide) (by decide)⟩

end Sys2Proof.Machine
end

section
/-! SUPPORT. One operation of a mixer (R217) and one step of its search (R223). -/

namespace Sys2Proof.Machine

/-! ### Commands that write one mixer -/

/-- A command that writes mixer `q` of tin `t` as `w` and settles the tin. -/
theorem runs_setMixer_settle {c : Instr} {s : State} {t q : Nat} {w : Mixer} {P : Mixer → Prop}
    (e : exec c s = .next (s.setTin t ((s.tin t).setMixer q w).settle)) (h : P w) :
    Runs c s [.tins] fun u => s.TinOnly t u ∧ ∃ w : Mixer, u.tin t = ((s.tin t).setMixer q w).settle ∧ P w :=
  Runs.of e (s.setTin_keeps t _) ⟨s.setTin_tinOnly t _, w, s.tin_setTin_self t _, h⟩

/-- Without a failed parity check the mixer is as it was. -/
@[simp] theorem Mixer.parityFail_zero (v : Mixer) : v.parityFail 0 = v := by
  simp [Mixer.parityFail, bit, bits]

/-- A ready mixer with a token on every used port operates. -/
theorem exec_mixerOperation_ready {s : State} {t : TinIx} {q : MixerIx} {ctl : Nat} {i : MixIn} {v : Mixer}
    (hctl : ctl = (s.tin t.val).mixerCtl q.val) (hv : v = (s.tin t.val).mixer q.val) (hready : (s.tin t.val).mixReady q.val = true)
    (hmode : mixMode ctl ≠ 3) (hin : (s.tin t.val).mixInputs q.val = some i) :
    exec (.mixerOperation t q 0) s = .next (s.setTin t.val ((s.tin t.val).setMixer q.val (v.operate ctl i)).settle) := by
  subst hctl hv
  change execMixerOperation t q 0 s = _
  unfold execMixerOperation
  rw [if_pos (by simp [hready, hmode])]
  simp only [hin, Mixer.parityFail_zero]
  rfl

/-- A ready mixer in search mode with a token on `A0` and `OP` searches. -/
theorem exec_mixerSearch_ready {s : State} {t : TinIx} {q : MixerIx} {ctl a0 op : Nat} {v : Mixer}
    (hctl : ctl = (s.tin t.val).mixerCtl q.val) (hv : v = (s.tin t.val).mixer q.val) (hready : (s.tin t.val).mixReady q.val = true)
    (hmode : mixMode ctl = 3) (ha0 : (s.tin t.val).mixPort q.val ctl 0 = some a0) (hop : (s.tin t.val).mixPort q.val ctl 6 = some op)
    (huses : mixerUses ctl 6 = true) :
    exec (.mixerSearch t q false) s = .next (s.setTin t.val ((s.tin t.val).setMixer q.val (v.search ctl a0 op)).settle) := by
  subst hctl hv
  change execMixerSearch t q false s = _
  unfold execMixerSearch
  rw [if_pos (by simp [hready, hmode])]
  simp only [ha0, hop, huses, if_true]
  rfl

/-! ### One operation -/

/-- The mixer as an operation finds it after CLR and, in broadcast mode, ZH (R214, R217). -/
def Mixer.opened (v : Mixer) (ctl op : Nat) : Mixer :=
  { v with
    acc0 := if bit op 0 then 0 else v.acc0, ovf0 := if bit op 0 then .none else v.ovf0
    acc1 := if bit op 0 then 0 else v.acc1, ovf1 := if bit op 0 then .none else v.ovf1
    h1 := if mixMode ctl == 0 && bit op 4 then 0 else v.h1, h2 := if mixMode ctl == 0 && bit op 4 then 0 else v.h2
    h3 := if mixMode ctl == 0 && bit op 4 then 0 else v.h3, h4 := if mixMode ctl == 0 && bit op 4 then 0 else v.h4 }

section
variable (v : Mixer) {ctl : Nat} (i : MixIn)

/-- A broadcast operation shifts the chain and puts A0 in front (R216). -/
theorem Mixer.operate_chain_broadcast (hmode : mixMode ctl = 0) : (v.operate ctl i).h1 = i.a0 ∧ (v.operate ctl i).h2 = (v.opened ctl i.op).h1 ∧
    (v.operate ctl i).h3 = (v.opened ctl i.op).h2 ∧ (v.operate ctl i).h4 = (v.opened ctl i.op).h3 := by
  simp [Mixer.operate, Mixer.opened, hmode]

/-- In the other modes the chain stays. -/
theorem Mixer.operate_chain_kept (hmode : mixMode ctl ≠ 0) : (v.operate ctl i).h1 = v.h1 ∧ (v.operate ctl i).h2 = v.h2 ∧
    (v.operate ctl i).h3 = v.h3 ∧ (v.operate ctl i).h4 = v.h4 := by
  simp [Mixer.operate, hmode]

/-- Broadcast into one accumulator: A0 and the chain meet the four coefficients (R215). -/
theorem Mixer.operate_broadcast (hmode : mixMode ctl = 0) (hsum : mixSum ctl = false) :
    ((v.operate ctl i).acc0, (v.operate ctl i).ovf0) = clamp56 ((v.opened ctl i.op).acc0 + i.a0 * i.b0 + (v.opened ctl i.op).h1 * i.b1 +
      (v.opened ctl i.op).h2 * i.b2 + (v.opened ctl i.op).h3 * i.b3 + i.c) (v.opened ctl i.op).ovf0 := by
  simp [Mixer.operate, Mixer.opened, hmode, hsum]

/-- Pairs into one accumulator (R215). -/
theorem Mixer.operate_pairs (hmode : mixMode ctl = 1) (hsum : mixSum ctl = false) :
    ((v.operate ctl i).acc0, (v.operate ctl i).ovf0) = clamp56 ((v.opened ctl i.op).acc0 + i.a0 * i.b0 + i.a1 * i.b1 + i.a0 * i.b2 +
      i.a1 * i.b3 + i.c) (v.opened ctl i.op).ovf0 := by
  simp [Mixer.operate, Mixer.opened, hmode, hsum]

/-- Pairs into two accumulators (R215). -/
theorem Mixer.operate_pairs_two (hmode : mixMode ctl = 1) (hsum : mixSum ctl = true) :
    ((v.operate ctl i).acc0, (v.operate ctl i).ovf0) =
      clamp56 ((v.opened ctl i.op).acc0 + i.a0 * i.b0 + i.a1 * i.b1 + i.c) (v.opened ctl i.op).ovf0 ∧
    ((v.operate ctl i).acc1, (v.operate ctl i).ovf1) =
      clamp56 ((v.opened ctl i.op).acc1 + i.a0 * i.b2 + i.a1 * i.b3) (v.opened ctl i.op).ovf1 := by
  simp [Mixer.operate, Mixer.opened, hmode, hsum]

/-- Complex mode: the real part into accumulator 0, the imaginary part into accumulator 1 (R215). -/
theorem Mixer.operate_complex (hmode : mixMode ctl = 2) :
    ((v.operate ctl i).acc0, (v.operate ctl i).ovf0) =
      clamp56 ((v.opened ctl i.op).acc0 + i.a0 * i.b0 - i.a1 * i.b1 + i.c) (v.opened ctl i.op).ovf0 ∧
    ((v.operate ctl i).acc1, (v.operate ctl i).ovf1) =
      clamp56 ((v.opened ctl i.op).acc1 + i.a0 * i.b1 + i.a1 * i.b0) (v.opened ctl i.op).ovf1 := by
  simp [Mixer.operate, Mixer.opened, hmode]

/-- A STORE shows the accumulator as it has become, and takes its parity error along (R220, R221). -/
theorem Mixer.operate_store (hstore : bit i.op 1 = true) (hrd : bit i.op 5 = false) (huses : mixerUses ctl 8 = true) :
    (v.operate ctl i).z0 = [(storeToken ctl (v.operate ctl i).acc0 (v.operate ctl i).ovf0 v.err0).1] ∧ (v.operate ctl i).err0 = false := by
  simp [Mixer.operate, hstore, hrd, huses]

/-- Without a STORE or a read of the counter nothing is shown or counted. -/
theorem Mixer.operate_quiet (hstore : bit i.op 1 = false) (hrd : bit i.op 5 = false) :
    (v.operate ctl i).z0 = [] ∧ (v.operate ctl i).counter = v.counter := by
  simp [Mixer.operate, hstore, hrd]

end

/-! ### One step of a search -/

/-- The value that a search compares (R223). -/
def searchKey (ctl n : Nat) : Int := if mixCmpUnsigned ctl then n else toSigned n 24

/-- Whether `a` is strictly better than `b` (R223). -/
def searchBetter (ctl a b : Nat) : Bool :=
  if mixSearchMax ctl then decide (searchKey ctl a > searchKey ctl b) else decide (searchKey ctl a < searchKey ctl b)

section
variable (v : Mixer) {ctl a0 op : Nat}

/-- The best so far and its index after the value `a0`, the first of its search or not. -/
theorem Mixer.search_best : ((v.search ctl a0 op).best, (v.search ctl a0 op).bestIdx) =
    if !(v.have_ && !bit op 0) || searchBetter ctl a0 v.best then (a0, if bit op 0 then 0 else v.idx) else (v.best, v.bestIdx) :=
  (Prod.ext (apply_ite Prod.fst ..) (apply_ite Prod.snd ..)).symm

/-- The first value of a search is the best so far. -/
theorem Mixer.search_first (h : v.have_ = false ∨ bit op 0 = true) :
    (v.search ctl a0 op).best = a0 ∧ (v.search ctl a0 op).bestIdx = if bit op 0 then 0 else v.idx := by
  have htake : (v.have_ && !bit op 0) = false := by obtain h | h := h <;> simp [h]
  simpa [htake] using v.search_best (ctl := ctl) (a0 := a0) (op := op)

/-- A strictly better value becomes the best so far. -/
theorem Mixer.search_better (hclr : bit op 0 = false) (h : searchBetter ctl a0 v.best = true) :
    (v.search ctl a0 op).best = a0 ∧ (v.search ctl a0 op).bestIdx = v.idx := by
  simpa [hclr, h] using v.search_best (ctl := ctl) (a0 := a0) (op := op)

/-- Any other value leaves the best so far, so that its first occurrence counts. -/
theorem Mixer.search_kept (hhave : v.have_ = true) (hclr : bit op 0 = false) (h : searchBetter ctl a0 v.best = false) :
    (v.search ctl a0 op).best = v.best ∧ (v.search ctl a0 op).bestIdx = v.bestIdx := by
  simpa [hhave, hclr, h] using v.search_best (ctl := ctl) (a0 := a0) (op := op)

/-- LAST ends the search and shows its result; otherwise it goes on. -/
theorem Mixer.search_continues (hlast : bit op 2 = false) : (v.search ctl a0 op).have_ = true ∧ (v.search ctl a0 op).z0 = [] := by
  simp [Mixer.search, hlast]

theorem Mixer.search_ends (hlast : bit op 2 = true) : (v.search ctl a0 op).have_ = false ∧ (v.search ctl a0 op).idx = 0 := by
  simp [Mixer.search, hlast]

end

/-- Unsigned values compare as they are. -/
theorem searchBetter_unsigned {ctl a b : Nat} (hcmp : mixCmpUnsigned ctl = true) :
    searchBetter ctl a b = if mixSearchMax ctl then decide (b < a) else decide (a < b) := by
  simp [searchBetter, searchKey, hcmp]

/-- Settles O15: an operation and a step of a search write one mixer; each clause is a law of `Mixer.operate` or of `Mixer.search`. -/
theorem mixers : Obligations.Mixers := by
  unfold Obligations.Mixers
  refine ⟨?operation, ?search⟩
  case operation =>
    intro s t q ctl i v hctl hv hready hmode hin
    refine runs_setMixer_settle (exec_mixerOperation_ready hctl hv hready hmode hin)
      ⟨rfl, ?shifted, ?zeroed, v.operate_chain_kept i, ?broadcast, ?pairs, ?complex, ?pairsCleared, v.operate_store i, v.operate_quiet i⟩
    case shifted =>
      intro hmode hzh
      simpa [Mixer.opened, hzh] using v.operate_chain_broadcast i hmode
    case zeroed =>
      intro hmode hzh
      simpa [Mixer.opened, hmode, hzh] using v.operate_chain_broadcast i hmode
    case broadcast =>
      intro hmode hsum hzh hclr
      simpa [Mixer.opened, hzh, hclr] using v.operate_broadcast i hmode hsum
    case pairs =>
      intro hmode hsum hclr
      simpa [Mixer.opened, hclr] using v.operate_pairs i hmode hsum
    case complex =>
      intro hmode hclr
      simpa [Mixer.opened, hclr] using v.operate_complex i hmode
    case pairsCleared =>
      intro hmode hclr hsum
      simpa [Mixer.opened, hclr] using v.operate_pairs_two i hmode hsum
  case search =>
    intro s t q ctl a0 op v hctl hv hready hmode ha0 hop huses
    refine runs_setMixer_settle (exec_mixerSearch_ready hctl hv hready hmode ha0 hop huses)
      ⟨rfl, v.search_first, ?max, ?min, v.search_continues, v.search_ends⟩
    case max =>
      intro hhave hclr hcmp hmax
      have hbetter := searchBetter_unsigned (a := a0) (b := v.best) hcmp
      rw [if_pos hmax] at hbetter
      exact ⟨fun h => v.search_better hclr (by simpa [hbetter] using h), fun h => v.search_kept hhave hclr (by simpa [hbetter] using h)⟩
    case min =>
      intro hhave hclr hcmp hmin
      have hbetter := searchBetter_unsigned (a := a0) (b := v.best) hcmp
      rw [if_neg (by simp [hmin])] at hbetter
      exact ⟨fun h => v.search_better hclr (by simpa [hbetter] using h), fun h => v.search_kept hhave hclr (by simpa [hbetter] using h)⟩

/-! ### Witnesses -/

/-- A released tin in which the bits `ins` of the inputs of mixer 0 show a 1; the control frames of the mixer are `ctl` and `k`, and the mixer
is `v`. -/
def mixerTin (ctl k : Nat) (ins : List Nat) (v : Mixer) : Tin :=
  { Tin.blank with
    frames := [(11 * 480, BitVec.ofNat 1024 (2 ^ 654)),
      (0x5800 + 5 * 480 + 2, BitVec.ofNat 1024 (ins.foldr (fun i n => 2 ^ 16 * n + 0xC000 + i) 0)),
      (0x9B60, BitVec.ofNat 1024 ctl), (0x9B61, BitVec.ofNat 1024 k)]
    holds := [(holdKey 480 0 0, ⟨true, true, false⟩)]
    mixers := [(0, v)]
    released := true }

/-- The device with that tin as tin 103. -/
def mixerState (ctl k : Nat) (ins : List Nat) (v : Mixer) : State := { State.reset with tins := [(103, mixerTin ctl k ins v)] }

/-- Command `c` makes of mixer 0 of tin 103 one that satisfies `P`, and settles the tin. -/
def MixerBecomes (c : Instr) (s : State) (P : Mixer → Prop) : Prop :=
  ∃ u, exec c s = .next u ∧ ∃ w : Mixer, u.tin 103 = ((s.tin 103).setMixer 0 w).settle ∧ P w

theorem MixerBecomes.of_runs {c : Instr} {s : State} {ps : List Part} {P Q : Mixer → Prop}
    (h : Runs c s ps fun u => s.TinOnly 103 u ∧ ∃ w : Mixer, u.tin 103 = ((s.tin 103).setMixer 0 w).settle ∧ P w) (hPQ : ∀ w, P w → Q w) :
    MixerBecomes c s Q := by
  obtain ⟨u, he, ⟨-, w, hw, hP⟩, -⟩ := h
  exact ⟨u, he, w, hw, hPQ w hP⟩

/-- The four constants of bank 0 at their lowest value. -/
def lowestBank : Nat := 0x800000800000800000800000

/-- A0 and the coefficients at their lowest value, without cascade. -/
def lowestIn (a1 : Int) (op : Nat) : MixIn := ⟨-8388608, a1, -8388608, -8388608, -8388608, -8388608, op, 0⟩

/-- A mixer whose accumulator 0 stands at one rail and 1 at the other, with its chain at the lowest value, a parity error and a full counter. -/
def fullMixer : Mixer :=
  { Mixer.released with
    acc0 := -2 ^ 55, acc1 := 2 ^ 55 - 1, ovf0 := .low, h1 := -8388608, h2 := -8388608, h3 := -8388608, h4 := -8388608
    counter := 0xFFFF, err0 := true }

/-- States that meet the hypotheses of O15 about an operation, clause by clause: with the largest products, a broadcast that stores, one that
zeroes the chain, pairs into one accumulator, a complex product whose imaginary part overflows, and pairs from 0 into two accumulators. -/
theorem mixers_operation_witness :
    MixerBecomes (.mixerOperation 103 0 0) (mixerState 0xA08000 lowestBank [23, 145] fullMixer) (fun w =>
      (w.acc0, w.ovf0) = (-2 ^ 55 + 2 ^ 48, .low) ∧ w.h2 = -8388608 ∧ w.z0 = [0x5800000] ∧ w.err0 = false) ∧
    MixerBecomes (.mixerOperation 103 0 0) (mixerState 0xA08000 lowestBank [23, 148] fullMixer) (fun w =>
      w.h1 = -8388608 ∧ w.h2 = 0 ∧ w.h3 = 0 ∧ w.h4 = 0 ∧ w.z0 = [] ∧ w.counter = 0xFFFF) ∧
    MixerBecomes (.mixerOperation 103 0 0) (mixerState 0x18001 lowestBank [23, 47] fullMixer) (fun w =>
      (w.acc0, w.ovf0) = (-2 ^ 55 + 2 ^ 48, .low) ∧ w.h4 = -8388608) ∧
    MixerBecomes (.mixerOperation 103 0 0) (mixerState 0x18006 lowestBank [23, 47] fullMixer) (fun w =>
      (w.acc0, w.ovf0) = (-2 ^ 55, .low) ∧ (w.acc1, w.ovf1) = (2 ^ 55 - 1, .high)) ∧
    MixerBecomes (.mixerOperation 103 0 0) (mixerState 0x218005 lowestBank [23, 47, 144] fullMixer) (fun w =>
      (w.acc0, w.ovf0) = (2 ^ 47, .none) ∧ (w.acc1, w.ovf1) = (2 ^ 47, .none)) := by
  obtain ⟨operation, -⟩ := mixers
  refine ⟨?stored, ?zeroed, ?pairs, ?complex, ?cleared⟩
  case stored =>
    refine .of_runs (operation (mixerState 0xA08000 lowestBank [23, 145] fullMixer) 103 0 0xA08000 (lowestIn 0 2) fullMixer (by decide +kernel)
      (by decide +kernel) (by decide +kernel) (by decide) (by decide +kernel)) ?_
    rintro w ⟨-, chain, -, -, acc, -, -, -, store, -⟩
    have hacc := acc (by decide) (by decide) (by decide) (by decide)
    have hsum : (w.acc0, w.ovf0) = (-2 ^ 55 + 2 ^ 48, .low) := hacc.trans (by decide)
    obtain ⟨h0, ho⟩ := Prod.mk.inj hsum
    obtain ⟨hz, herr⟩ := store (by decide) (by decide) (by decide)
    rw [h0, ho] at hz
    exact ⟨hsum, (chain (by decide) (by decide)).2.1, hz.trans (by decide), herr⟩
  case zeroed =>
    refine .of_runs (operation (mixerState 0xA08000 lowestBank [23, 148] fullMixer) 103 0 0xA08000 (lowestIn 0 16) fullMixer (by decide +kernel)
      (by decide +kernel) (by decide +kernel) (by decide) (by decide +kernel)) ?_
    rintro w ⟨-, -, chain, -, -, -, -, -, -, quiet⟩
    obtain ⟨h1, h2, h3, h4⟩ := chain (by decide) (by decide)
    obtain ⟨hz, hcount⟩ := quiet (by decide) (by decide)
    exact ⟨h1, h2, h3, h4, hz, hcount⟩
  case pairs =>
    refine .of_runs (operation (mixerState 0x18001 lowestBank [23, 47] fullMixer) 103 0 0x18001 (lowestIn (-8388608) 0) fullMixer
      (by decide +kernel) (by decide +kernel) (by decide +kernel) (by decide) (by decide +kernel)) ?_
    rintro w ⟨-, -, -, chain, -, acc, -, -, -, -⟩
    exact ⟨(acc (by decide) (by decide) (by decide)).trans (by decide), (chain (by decide)).2.2.2⟩
  case complex =>
    refine .of_runs (operation (mixerState 0x18006 lowestBank [23, 47] fullMixer) 103 0 0x18006 (lowestIn (-8388608) 0) fullMixer
      (by decide +kernel) (by decide +kernel) (by decide +kernel) (by decide) (by decide +kernel)) ?_
    rintro w ⟨-, -, -, -, -, -, acc, -, -, -⟩
    obtain ⟨h0, h1⟩ := acc (by decide) (by decide)
    exact ⟨h0.trans (by decide), h1.trans (by decide)⟩
  case cleared =>
    refine .of_runs (operation (mixerState 0x218005 lowestBank [23, 47, 144] fullMixer) 103 0 0x218005 (lowestIn (-8388608) 1) fullMixer
      (by decide +kernel) (by decide +kernel) (by decide +kernel) (by decide) (by decide +kernel)) ?_
    rintro w ⟨-, -, -, -, -, -, -, acc, -, -⟩
    obtain ⟨h0, h1⟩ := acc (by decide) (by decide) (by decide)
    exact ⟨h0.trans (by decide), h1.trans (by decide)⟩

/-- A search whose best so far is `best`, found first, and whose index stands at its top. -/
def searchingMixer (best : Nat) : Mixer := { Mixer.released with best := best, idx := 0xFFFFFFFF, have_ := true }

/-- States that meet the hypotheses of O15 about a search, clause by clause: a value that starts a new search, an unsigned maximum that the last
value takes, and an unsigned minimum that an equal value leaves. -/
theorem mixers_search_witness :
    MixerBecomes (.mixerSearch 103 0 false) (mixerState 0xA0E003 0 [23, 144] (searchingMixer 0xFFFFFF)) (fun w =>
      w.best = 0x800000 ∧ w.bestIdx = 0) ∧
    MixerBecomes (.mixerSearch 103 0 false) (mixerState 0xA0E003 0 [23, 146] (searchingMixer 0x7FFFFF)) (fun w =>
      w.best = 0x800000 ∧ w.bestIdx = 0xFFFFFFFF ∧ w.have_ = false ∧ w.idx = 0) ∧
    MixerBecomes (.mixerSearch 103 0 false) (mixerState 0xA0C003 0 [23, 147] (searchingMixer 0x800000)) (fun w =>
      w.best = 0x800000 ∧ w.bestIdx = 0 ∧ w.have_ = true ∧ w.z0 = []) := by
  obtain ⟨-, search⟩ := mixers
  refine ⟨?first, ?max, ?min⟩
  case first =>
    refine .of_runs (search (mixerState 0xA0E003 0 [23, 144] (searchingMixer 0xFFFFFF)) 103 0 0xA0E003 0x800000 1 (searchingMixer 0xFFFFFF)
      (by decide +kernel) (by decide +kernel) (by decide +kernel) (by decide) (by decide +kernel) (by decide +kernel) (by decide)) ?_
    rintro w ⟨-, first, -⟩
    obtain ⟨hbest, hidx⟩ := first (.inr (by decide))
    exact ⟨hbest, hidx.trans (by decide)⟩
  case max =>
    refine .of_runs (search (mixerState 0xA0E003 0 [23, 146] (searchingMixer 0x7FFFFF)) 103 0 0xA0E003 0x800000 4 (searchingMixer 0x7FFFFF)
      (by decide +kernel) (by decide +kernel) (by decide +kernel) (by decide) (by decide +kernel) (by decide +kernel) (by decide)) ?_
    rintro w ⟨-, -, max, -, -, last⟩
    obtain ⟨hbest, hidx⟩ := (max rfl (by decide) (by decide) (by decide)).1 (by decide)
    obtain ⟨hend, hrestart⟩ := last (by decide)
    exact ⟨hbest, hidx, hend, hrestart⟩
  case min =>
    refine .of_runs (search (mixerState 0xA0C003 0 [23, 147] (searchingMixer 0x800000)) 103 0 0xA0C003 0x800000 8 (searchingMixer 0x800000)
      (by decide +kernel) (by decide +kernel) (by decide +kernel) (by decide) (by decide +kernel) (by decide +kernel) (by decide)) ?_
    rintro w ⟨-, -, -, min, more, -⟩
    obtain ⟨hbest, hidx⟩ := (min rfl (by decide) (by decide) (by decide)).2 (by decide)
    obtain ⟨hgoes, hz⟩ := more (by decide)
    exact ⟨hbest, hidx, hgoes, hz⟩

end Sys2Proof.Machine
end

section
/-! SUPPORT. The clock generators: what the fields of `CLK_STAT` and the faults read after their steps (R233–R241, R260, R637). -/

namespace Sys2Proof.Machine

/-! ### The fields of `CLK_STAT` -/

/-- A value that fits its field is read back as written. -/
theorem State.fget_fset_of_lt (s : State) {f : Fld} {v : Nat} (hfits : f.lo + f.len ≤ 32) (hv : v < 2 ^ f.len) : (s.fset f v).fget f = v :=
  (State.fget_fset s v hfits).trans (Nat.mod_eq_of_lt hv)

theorem State.genActive_lt (s : State) : s.genActive < 2 := bits_lt _ 31 1

theorem genLocked_off (g : Nat) : (genLocked g).off = CLK_STAT := by unfold genLocked; split <;> rfl

theorem genLocked_mem (g : Nat) : (genLocked g).off ∈ [CLK_STAT] := List.mem_singleton.mpr (genLocked_off g)

/-- The lock bits are bits 30 and 29 (R260). -/
theorem genLocked_place (g : Nat) : (genLocked g).len = 1 ∧ 29 ≤ (genLocked g).lo ∧ (genLocked g).lo ≤ 30 := by
  unfold genLocked; split <;> decide

/-- A lock bit reads as written. -/
theorem State.fget_fset_genLocked_self (s : State) (g : Nat) {v : Nat} (hv : v < 2) : (s.fset (genLocked g) v).fget (genLocked g) = v := by
  obtain ⟨hlen, -, hlo⟩ := genLocked_place g
  exact s.fget_fset_of_lt (by omega) (by rwa [hlen])

section
variable (s : State) {f : Fld} (g v : Nat) (hoff : f.off = CLK_STAT) (hplace : f.lo + f.len ≤ 29 ∨ 31 ≤ f.lo)
include hoff hplace

/-- A lock bit is apart from every field of `CLK_STAT` that is not one. -/
theorem State.fget_fset_genLocked (hfits : f.lo + f.len ≤ 32) : (s.fset (genLocked g) v).fget f = s.fget f := by
  obtain ⟨hlen, hlo, hhi⟩ := genLocked_place g
  exact State.fget_fset_apart s v (hoff.trans (genLocked_off g).symm) hfits (by omega)

theorem State.fget_genLocked_fset : (s.fset f v).fget (genLocked g) = s.fget (genLocked g) := by
  obtain ⟨hlen, hlo, hhi⟩ := genLocked_place g
  exact State.fget_fset_apart s v ((genLocked_off g).trans hoff.symm) (by omega) (by omega)

end

/-! ### Faults -/

/-- An event stays the last one posted while registers and the record of faults change. -/
theorem State.Posted.fset {s t : State} {c v u a b n : Nat} {d : Option Nat} {f : Fld} (h : s.Posted t c v d u a b) :
    s.Posted (t.fset f n) c v d u a b := h

theorem State.Posted.setFaulted {s t : State} {c v u a b g : Nat} {d : Option Nat} {x : Bool} (h : s.Posted t c v d u a b) :
    s.Posted (t.setFaulted g x) c v d u a b := h

@[simp] theorem State.setFaulted_fget (s : State) (g : Nat) (b : Bool) (f : Fld) : (s.setFaulted g b).fget f = s.fget f :=
  State.fget_congr rfl f

@[simp] theorem State.genFaulted_setFaulted (s : State) (g : Nat) (b : Bool) : (s.setFaulted g b).genFaulted g = b := bit_setBit ..

@[simp] theorem State.fset_genFaulted (s : State) (f : Fld) (v g : Nat) : (s.fset f v).genFaulted g = s.genFaulted g := rfl
@[simp] theorem State.post_genFaulted (s : State) (c v : Nat) (d : Option Nat) (u a b g : Nat) :
    (s.post c v d u a b).genFaulted g = s.genFaulted g := rfl

theorem State.RegsOnly.setFaulted {s t : State} {l : List Nat} {g : Nat} {b : Bool} (h : s.RegsOnly l t) : s.RegsOnly l (t.setFaulted g b) :=
  h.trans (.of_regs rfl)

/-! ### Switchovers -/

theorem State.switchover_active (s : State) (sev : Nat) : (s.switchover sev).fget CLK_STAT.active = 1 - s.fget CLK_STAT.active := by
  unfold State.switchover State.fsat
  simp (disch := decide) only [State.post_fget, State.fget_fset_apart]
  exact State.fget_fset_of_lt _ (by decide) (Nat.lt_succ_of_le (Nat.sub_le ..))

theorem State.switchover_switch_count (s : State) (sev : Nat) :
    (s.switchover sev).fget CLK_STAT.switch_count = satAdd 16 (s.fget CLK_STAT.switch_count) 1 := by
  unfold State.switchover
  simp (disch := decide) only [State.post_fget, State.fget_fsat, State.fget_fset_apart]
  rfl

theorem State.switchover_tracking (s : State) (sev : Nat) : (s.switchover sev).fget CLK_STAT.tracking = s.fget CLK_STAT.tracking := by
  unfold State.switchover State.fsat
  simp (disch := decide) only [State.post_fget, State.fget_fset_apart]

theorem State.switchover_regsOnly (s : State) (sev : Nat) : s.RegsOnly [CLK_STAT] (s.switchover sev) :=
  .post (.fsat (List.mem_singleton_self _) (.fset (List.mem_singleton_self _) (.of_regs rfl)))

theorem State.switchover_posted (s : State) (sev : Nat) : s.Posted (s.switchover sev) 0x0300 sev none (1 - s.fget CLK_STAT.active) := rfl

/-! ### What the commands answer -/

/-- A reference declared lost, or present again, in the register: its family holds over while it is lost (R239). -/
def State.setRefLost (s : State) (f : Nat) (b : Bool) : State :=
  (s.fset CLK_STAT.ref_lost (setBit (s.fget CLK_STAT.ref_lost) f b)).fset CLK_STAT.holdover (setBit (s.fget CLK_STAT.holdover) f b)

theorem State.setRefLost_fget (s : State) (f : Nat) (b : Bool) :
    (s.setRefLost f b).fget CLK_STAT.ref_lost = setBit (s.fget CLK_STAT.ref_lost) f b % 16 ∧
    (s.setRefLost f b).fget CLK_STAT.holdover = setBit (s.fget CLK_STAT.holdover) f b % 16 := by
  unfold State.setRefLost
  refine ⟨?_, State.fget_fset _ _ (by decide)⟩
  rw [State.fget_fset_apart (f := CLK_STAT.holdover) (g := CLK_STAT.ref_lost) _ _ rfl (by decide) (by decide)]
  exact State.fget_fset _ _ (by decide)

theorem State.setRefLost_regsOnly (s : State) (f : Nat) (b : Bool) : s.RegsOnly [CLK_STAT] (s.setRefLost f b) :=
  .fset (List.mem_singleton_self _) (.fset (List.mem_singleton_self _) (.of_regs rfl))

theorem State.setRefLost_keeps (s : State) (f : Nat) (b : Bool) : Keeps [.regs] s (s.setRefLost f b) :=
  (State.fset_keeps ..).via rfl (State.fset_keeps ..)

theorem exec_clkRefLost_of_present {s : State} {f : Fin 4} (h : bit (s.fget CLK_STAT.ref_lost) f.val = false) :
    exec (.clkRefLost f) s = .next ((s.setRefLost f.val true).post 0x0303 2 none f.val) :=
  if_neg (by simp [h])

theorem exec_clkRefRestored_of_lost {s : State} {f : Fin 4} (h : bit (s.fget CLK_STAT.ref_lost) f.val = true) :
    exec (.clkRefRestored f) s = .next ((s.setRefLost f.val false).post 0x0304 0 none f.val) :=
  if_pos h

theorem exec_clkSwitchover_of_ready {s : State} (hauto : s.fbit CLK_CTL.auto_switch = true) (hready : s.standbyReady = true) :
    exec (.clkSwitchover true) s =
      .next ((((s.switchover 2).setFaulted s.genActive true).fset (genLocked s.genActive) 0).fset CLK_STAT.tracking 0) :=
  if_pos (by simp [hauto, hready])

theorem exec_clkCtlSwitch_of_ready {s : State} (hready : s.standbyReady = true) (hgood : s.genFaulted s.genActive = false) :
    exec .clkCtlSwitch s = .next (s.switchover 0) :=
  congrArg Host.Outcome.next ((if_pos hready).trans (if_neg (by simp [hgood])))

theorem exec_clkCtlSwitch_of_not_ready {s : State} (h : s.standbyReady = false) : exec .clkCtlSwitch s = .next s :=
  congrArg Host.Outcome.next (if_neg (by simp [h]))

/-- Generator `g` locked again on every family, its fault over. -/
def State.genLocks (s : State) (g : Nat) : State := (s.setFaulted g false).fset (genLocked g) 1

theorem State.genLocks_keeps (s : State) (g : Nat) : Keeps [.regs, .clk] s (s.genLocks g) :=
  (State.fset_keeps ..).via rfl ((State.setFaulted_keeps ..).via rfl Keeps.refl)

theorem State.genLocks_regsOnly (s : State) (g : Nat) : s.RegsOnly [CLK_STAT] (s.genLocks g) := .fset (genLocked_mem g) (.of_regs rfl)

theorem State.genLocks_locked (s : State) (g : Nat) : (s.genLocks g).fget (genLocked g) = 1 := State.fget_fset_genLocked_self _ _ (by decide)

theorem exec_clkGenReady_of_faulted {s : State} (hfault : s.genFaulted (1 - s.genActive) = true) (hstate : s.fget PTM_PSTATE.state ≠ 3) :
    exec .clkGenReady s =
      .next (((s.genLocks (1 - s.genActive)).fset CLK_STAT.tracking 1).post 0x0301 0 none (1 - s.genActive)) :=
  if_pos ⟨hfault, .inl hstate⟩

theorem exec_clkGenFault_of_not_ready {s : State} (h : s.standbyReady = false) :
    exec (.clkGenFault false) s = .next ((s.setFaulted s.genActive true).post 0x0302 4 none s.genActive) := by
  change execClkGenFault false s = _
  simp [execClkGenFault, h]

theorem exec_clkOutputGate_of_faulted {s : State} (h : s.genFaulted s.genActive = true) :
    exec .clkOutputGate s = .next { s with clk := { s.clk with gated := true } } :=
  if_pos h

theorem exec_standbyGeneratorFault_of_lostLock (s : State) : exec (.standbyGeneratorFault true) s =
    .next (((s.setFaulted (1 - s.genActive) true).fset CLK_STAT.tracking 0).fset (genLocked (1 - s.genActive)) 0) := rfl

/-- Generator `n` takes over afresh: its outputs run where the gated ones stopped (R637). -/
def State.takeOver (s : State) (n : Nat) : State :=
  { ((s.fset CLK_STAT.active n).post 0x0300 2 none n) with clk := { s.clk with gated := false } }

theorem State.takeOver_keeps (s : State) (n : Nat) : Keeps [.regs, .events, .clk] s (s.takeOver n) :=
  Keeps.upd_clk rfl ((State.post_keeps ..).via rfl ((State.fset_keeps ..).via rfl Keeps.refl))

theorem State.takeOver_fget (s : State) (n : Nat) (f : Fld) : (s.takeOver n).fget f = (s.fset CLK_STAT.active n).fget f := rfl

theorem State.takeOver_regsOnly (s : State) (n : Nat) : s.RegsOnly [CLK_STAT] (s.takeOver n) :=
  (State.RegsOnly.fset (f := CLK_STAT.active) (List.mem_singleton_self _) (.of_regs rfl)).trans (.of_regs rfl)

theorem exec_otherGeneratorLocked_of_gated {s : State} (hdeep : s.fget PTM_PSTATE.state = 3) (hfault : s.genFaulted s.genActive = true)
    (hgated : s.clk.gated = true) : exec .otherGeneratorLocked s = .next ((s.genLocks (1 - s.genActive)).takeOver (1 - s.genActive)) :=
  (if_pos ⟨hdeep, hfault⟩).trans (if_pos hgated)

theorem exec_clkPathSpared_of_active_path {s : State} {d : DieIx} (hdie : s.dieAway d.val = false)
    (hpath : s.fbit (DIE_CLK_STAT.path_other d.val) = false) :
    exec (.clkPathSpared d) s = .next ((s.fset (DIE_CLK_STAT.path_other d.val) 1).post 0x0305 2 (some d.val) d.val) :=
  if_neg (by simp [hdie, hpath])

/-- Settles O24: the references and the switchovers write their fields of `CLK_STAT`, a fault marks its generator until it locks again, and a
die marks the path it has changed to. -/
theorem clockGenerators : Obligations.ClockGenerators := by
  unfold Obligations.ClockGenerators
  refine ⟨?lost, ?restored, ?forced, ?commanded, ?idle, ?rejoins, ?fault, ?gate, ?standby, ?deep, ?path⟩
  case lost =>
    intro s f h
    obtain ⟨href, hhold⟩ := s.setRefLost_fget f.val true
    exact Runs.of (exec_clkRefLost_of_present h) ((State.post_keeps ..).via rfl ((s.setRefLost_keeps ..).via rfl Keeps.refl))
      ⟨(State.post_fget ..).trans href, (State.post_fget ..).trans hhold, .post (s.setRefLost_regsOnly _ _), rfl⟩
  case restored =>
    intro s f h
    obtain ⟨href, hhold⟩ := s.setRefLost_fget f.val false
    exact Runs.of (exec_clkRefRestored_of_lost h) ((State.post_keeps ..).via rfl ((s.setRefLost_keeps ..).via rfl Keeps.refl))
      ⟨(State.post_fget ..).trans href, (State.post_fget ..).trans hhold, .post (s.setRefLost_regsOnly _ _), rfl⟩
  case forced =>
    intro s hauto hready
    refine Runs.keeps (execClkSwitchover_keeps true s) fun u hu => ?_
    cases (exec_clkSwitchover_of_ready hauto hready).symm.trans hu
    refine ⟨?_, ?_, State.fget_fset_of_lt _ (by decide) (by decide), ?_, ?_, ?_, .fset (.fset (.setFaulted (s.switchover_posted 2)))⟩
    · simp (disch := decide) only [State.fget_fset_apart, State.fget_fset_genLocked, State.setFaulted_fget]
      exact s.switchover_active 2
    · rw [State.fget_genLocked_fset _ _ _ rfl (by decide)]
      exact State.fget_fset_genLocked_self _ _ (by decide)
    · simp (disch := decide) only [State.fget_fset_apart, State.fget_fset_genLocked, State.setFaulted_fget]
      exact s.switchover_switch_count 2
    · rw [State.fset_genFaulted, State.fset_genFaulted]
      exact State.genFaulted_setFaulted ..
    · exact .fset (List.mem_singleton_self _) (.fset (genLocked_mem _) (.setFaulted (s.switchover_regsOnly 2)))
  case commanded =>
    intro s hready hgood
    exact Runs.of (exec_clkCtlSwitch_of_ready hready hgood) (s.switchover_keeps 0)
      ⟨s.switchover_active 0, s.switchover_tracking 0, s.switchover_switch_count 0, s.switchover_regsOnly 0, s.switchover_posted 0⟩
  case idle => exact fun s h => exec_clkCtlSwitch_of_not_ready h
  case rejoins =>
    rintro s g rfl hfault hstate
    refine Runs.keeps (execClkGenReady_keeps s) fun u hu => ?_
    cases (exec_clkGenReady_of_faulted hfault hstate).symm.trans hu
    refine ⟨s.genFaulted_setFaulted _ false, ?_, ?_, ?_, .post (.fset (List.mem_singleton_self _) (s.genLocks_regsOnly _)), rfl⟩
    · rw [State.post_fget, State.fget_genLocked_fset _ _ _ rfl (by decide)]
      exact s.genLocks_locked _
    · rw [State.post_fget]
      exact State.fget_fset_of_lt _ (by decide) (by decide)
    · simp (disch := decide) only [State.post_fget, State.fget_fset_apart]
      exact State.fget_fset_genLocked _ _ _ rfl (by decide) (by decide)
  case fault =>
    rintro s g rfl hready
    exact Runs.of (exec_clkGenFault_of_not_ready hready) ((State.post_keeps ..).via rfl ((s.setFaulted_keeps ..).via rfl Keeps.refl))
      ⟨s.genFaulted_setFaulted _ true, .of_regs rfl, rfl⟩
  case gate => exact fun s h => exec_clkOutputGate_of_faulted h
  case standby =>
    rintro s g rfl
    refine Runs.keeps (execStandbyGeneratorFault_keeps true s) fun u hu => ?_
    cases (exec_standbyGeneratorFault_of_lostLock s).symm.trans hu
    refine ⟨s.genFaulted_setFaulted _ true, ?_, State.fget_fset_genLocked_self _ _ (by decide), ?_,
      .fset (genLocked_mem _) (.fset (List.mem_singleton_self _) (.of_regs rfl))⟩
    · rw [State.fget_fset_genLocked _ _ _ rfl (by decide) (by decide)]
      exact State.fget_fset_of_lt _ (by decide) (by decide)
    · simp (disch := decide) only [State.fget_fset_genLocked, State.fget_fset_apart, State.setFaulted_fget]
  case deep =>
    rintro s g rfl hdeep hfault hgated
    refine Runs.of (exec_otherGeneratorLocked_of_gated hdeep hfault hgated)
      ((State.takeOver_keeps ..).via rfl ((s.genLocks_keeps _).via rfl Keeps.refl))
      ⟨?_, ?_, rfl, s.genFaulted_setFaulted _ false, (s.genLocks_regsOnly _).trans (State.takeOver_regsOnly _ _), rfl⟩
    · rw [State.takeOver_fget]
      exact State.fget_fset_of_lt _ (by decide) (Nat.lt_succ_of_le (Nat.sub_le ..))
    · rw [State.takeOver_fget]
      exact (State.fget_genLocked_fset _ _ _ rfl (by decide)).trans (s.genLocks_locked _)
  case path =>
    intro s d hdie hpath
    refine Runs.of (exec_clkPathSpared_of_active_path hdie hpath) ((State.post_keeps ..).via rfl ((State.fset_keeps ..).via rfl Keeps.refl))
      ⟨?_, .post (.fset (List.mem_singleton_self _) (.of_regs rfl)), rfl⟩
    exact State.fget_fset_of_lt s (show 30 + 1 ≤ 32 by decide) (show 1 < 2 ^ 1 by decide)

/-- Generator A is active and both are locked; `faulted` marks those with a fault (bit 0 A, bit 1 B), and `tracking` says that B tracks A. -/
def twoGenerators (faulted : Nat) (tracking : Bool) : State :=
  ((State.fset { State.reset with clk := { Clk.fresh with faulted := faulted } } CLK_STAT.a_locked 1).fset CLK_STAT.b_locked 1).fset
    CLK_STAT.tracking (b2n tracking)

/-- In DEEP the faulted generator A has gated its outputs off. -/
def gatedInDeep : State :=
  State.fset { twoGenerators 1 false with clk := { Clk.fresh with faulted := 1, gated := true } } PTM_PSTATE.state 3

/-- States that meet the hypotheses of O24, clause by clause; the switch count of the forced switchover is at its top before. -/
theorem clockGenerators_witness :
    (∃ u, exec (.clkRefLost 3) (twoGenerators 0 true) = .next u ∧ u.fget CLK_STAT.ref_lost = 8 ∧ u.fget CLK_STAT.holdover = 8) ∧
    (∃ u, exec (.clkRefRestored 3) ((twoGenerators 0 true).setRefLost 3 true) = .next u ∧ u.fget CLK_STAT.ref_lost = 0) ∧
    (∃ u, exec (.clkSwitchover true) ((twoGenerators 0 true).fset CLK_STAT.switch_count 0xFFFF) = .next u ∧ u.fget CLK_STAT.active = 1 ∧
      u.fget CLK_STAT.switch_count = 0xFFFF) ∧
    (∃ u, exec .clkCtlSwitch (twoGenerators 0 true) = .next u ∧ u.fget CLK_STAT.active = 1 ∧ u.fget CLK_STAT.tracking = 1) ∧
    exec .clkCtlSwitch (twoGenerators 0 false) = .next (twoGenerators 0 false) ∧
    (∃ u, exec .clkGenReady (twoGenerators 2 false) = .next u ∧ u.genFaulted 1 = false ∧ u.fget CLK_STAT.tracking = 1) ∧
    (∃ u, exec (.clkGenFault false) (twoGenerators 0 false) = .next u ∧ u.genFaulted 0 = true) ∧
    (∃ u, exec .clkOutputGate (twoGenerators 1 false) = .next u ∧ u.clk.gated = true) ∧
    (∃ u, exec (.standbyGeneratorFault true) (twoGenerators 0 true) = .next u ∧ u.fget CLK_STAT.b_locked = 0) ∧
    (∃ u, exec .otherGeneratorLocked gatedInDeep = .next u ∧ u.fget CLK_STAT.active = 1 ∧ u.clk.gated = false) ∧
    (∃ u, exec (.clkPathSpared 7) ((twoGenerators 0 true).fset (DIE_STAT.state 7) 2) = .next u ∧ u.fget (DIE_CLK_STAT.path_other 7) = 1) := by
  obtain ⟨lost, restored, forced, commanded, idle, rejoins, fault, gate, standby, deep, path⟩ := clockGenerators
  obtain ⟨u1, h1, ⟨l1, o1, -⟩, -⟩ := lost (twoGenerators 0 true) 3 (by decide +kernel)
  obtain ⟨u2, h2, ⟨l2, -⟩, -⟩ := restored ((twoGenerators 0 true).setRefLost 3 true) 3 (by decide +kernel)
  obtain ⟨u3, h3, ⟨a3, -, -, n3, -⟩, -⟩ := forced ((twoGenerators 0 true).fset CLK_STAT.switch_count 0xFFFF) (by decide +kernel) (by decide +kernel)
  obtain ⟨u4, h4, ⟨a4, t4, -⟩, -⟩ := commanded (twoGenerators 0 true) (by decide +kernel) (by decide +kernel)
  obtain ⟨u6, h6, ⟨f6, -, t6, -⟩, -⟩ := rejoins (twoGenerators 2 false) 1 (by decide +kernel) (by decide +kernel) (by decide +kernel)
  obtain ⟨u7, h7, ⟨f7, -⟩, -⟩ := fault (twoGenerators 0 false) 0 (by decide +kernel) (by decide +kernel)
  obtain ⟨u9, h9, ⟨-, -, l9, -⟩, -⟩ := standby (twoGenerators 0 true) 1 (by decide +kernel)
  obtain ⟨u10, h10, ⟨a10, -, g10, -⟩, -⟩ := deep gatedInDeep 0 (by decide +kernel) (by decide +kernel) (by decide +kernel) rfl
  obtain ⟨u11, h11, ⟨p11, -⟩, -⟩ := path ((twoGenerators 0 true).fset (DIE_STAT.state 7) 2) 7 (by decide +kernel) (by decide +kernel)
  exact ⟨⟨u1, h1, l1.trans (by decide +kernel), o1.trans (by decide +kernel)⟩, ⟨u2, h2, l2.trans (by decide +kernel)⟩,
    ⟨u3, h3, a3.trans (by decide +kernel), n3.trans (by decide +kernel)⟩, ⟨u4, h4, a4.trans (by decide +kernel), t4.trans (by decide +kernel)⟩,
    idle _ (by decide +kernel), ⟨u6, h6, f6, t6⟩, ⟨u7, h7, f7⟩, ⟨_, gate _ (by decide +kernel), rfl⟩, ⟨u9, h9, l9⟩, ⟨u10, h10, a10, g10⟩,
    ⟨u11, h11, p11⟩⟩

end Sys2Proof.Machine
end

section
/-! SUPPORT. The crossings of a clocked edge: one crossing written, the flags of its group, and the edge FIFO (R242–R253). -/

namespace Sys2Proof.Machine

/-! ### One crossing and the flags of its group -/

@[simp] theorem State.edge_setEdge (s : State) (d g n : Nat) (v : Edge) : (s.setEdge d g n v).edge d g n = v := Tab.get_put_self

theorem State.edge_congr {s t : State} (h : t.clk = s.clk) (d g n : Nat) : t.edge d g n = s.edge d g n := by unfold State.edge; rw [h]

/-- A command whose whole effect is one crossing written. -/
theorem runs_setEdge {c : Instr} {s : State} {d g n : Nat} {v : Edge} (h : exec c s = .next (s.setEdge d g n v)) :
    Runs c s [.clk] fun u => u.clk = { s.clk with edges := Tab.put .fresh s.clk.edges (edgeKey d g n) v } :=
  Runs.of h (s.setEdge_keeps d g n v) rfl

/-- The flag of a group, once written, is set. -/
theorem State.bit_fget_fset_setBit (s : State) {f : Fld} {g n : Nat} (hg : g < f.len) (hfits : f.lo + f.len ≤ 32) :
    bit ((s.fset f (setBit n g true)).fget f) g = true := by
  rw [State.fget_fset _ _ hfits, bit_mod_two_pow hg, bit_setBit]

theorem State.setFlag_of_clear {s : State} {f : Fld} {g : Nat} (d n code sev : Nat) (h : bit (s.fget f) g = false) :
    s.setFlag f d g n code sev = (s.fset f (setBit (s.fget f) g true)).post code sev (some d) (64 * g + n) :=
  if_neg (by simp [h])

/-- The flag is set afterwards, whether or not it was (R253). -/
theorem State.bit_setFlag (s : State) {f : Fld} {g : Nat} (d n code sev : Nat) (hg : g < f.len) (hfits : f.lo + f.len ≤ 32) :
    bit ((s.setFlag f d g n code sev).fget f) g = true := by
  cases h : bit (s.fget f) g with
  | true => rwa [show s.setFlag f d g n code sev = s from if_pos h]
  | false => rw [State.setFlag_of_clear d n code sev h, State.post_fget, State.bit_fget_fset_setBit s hg hfits]

theorem State.setFlag_regsOnly (s : State) (f : Fld) (d g n code sev : Nat) : s.RegsOnly [f.off] (s.setFlag f d g n code sev) := by
  unfold State.setFlag
  split
  · exact .of_regs rfl
  · exact .post (.fset (List.mem_singleton_self _) (.of_regs rfl))

/-- A crossing written and a flag set: that crossing, and the register of the flag. -/
theorem State.setEdge_setFlag (s : State) (f : Fld) (d g n code sev : Nat) (v : Edge) {u : State}
    (hu : u = (s.setEdge d g n v).setFlag f d g n code sev) :
    u.clk = { s.clk with edges := Tab.put .fresh s.clk.edges (edgeKey d g n) v } ∧ u.edge d g n = v ∧ s.RegsOnly [f.off] u := by
  subst hu
  have hclk := ((s.setEdge d g n v).setFlag_keeps f d g n code sev).only .clk (by decide)
  exact ⟨hclk, (State.edge_congr hclk d g n).trans (State.edge_setEdge ..),
    State.RegsOnly.trans (.of_regs rfl) ((s.setEdge d g n v).setFlag_regsOnly f d g n code sev)⟩

/-- Every group has its bit in a flag field of `DIE_CLK_STAT`, whose fields lie within the word (R261). -/
theorem DIE_CLK_STAT_flag_fits (d : Nat) : ∀ f ∈ [DIE_CLK_STAT.unstable d, DIE_CLK_STAT.evt_overrun d, DIE_CLK_STAT.overrun d],
    f.len = 4 ∧ f.lo + f.len ≤ 32 ∧ f.off = DIE_CLK_STAT d := by
  simp [DIE_CLK_STAT.unstable, DIE_CLK_STAT.evt_overrun, DIE_CLK_STAT.overrun]

/-! ### What the commands answer on a crossing that is not frozen -/

section
variable {s : State} {d : DieIx} {g : Fin 4} {n : Fin 64}

/-- A reader that qualifies its words leaves an empty FIFO as it is, frozen or not. -/
theorem exec_edgeFifoRead_qualified_of_empty (h : (s.edge d.val g.val n.val).fifo = []) : exec (.edgeFifoRead d g n 2) s = .next s := by
  change execEdgeFifoRead d g n 2 s = _
  unfold execEdgeFifoRead
  dsimp only
  rw [h]
  split <;> rfl

variable (hlive : s.frozenEdge d.val g.val n.val = false)
include hlive

theorem exec_controlCrossing_of_live (l : Bool) :
    exec (.controlCrossing d g n l) s = .next (s.setEdge d.val g.val n.val { s.edge d.val g.val n.val with level := l }) :=
  if_neg (by simp [hlive])

theorem exec_valuePublish_of_live (v : Nat) :
    exec (.valuePublish d g n v) s = .next (s.setEdge d.val g.val n.val { s.edge d.val g.val n.val with value := v }) :=
  if_neg (by simp [hlive])

theorem exec_eventCrossing_ack (c : Bool) : exec (.eventCrossing d g n c true) s =
    .next (s.setEdge d.val g.val n.val { s.edge d.val g.val n.val with ack := (s.edge d.val g.val n.val).req }) :=
  (if_neg (by simp [hlive])).trans (if_pos rfl)

theorem exec_eventCrossing_of_acked (c : Bool) (h : (s.edge d.val g.val n.val).req = (s.edge d.val g.val n.val).ack) :
    exec (.eventCrossing d g n c false) s =
      .next (s.setEdge d.val g.val n.val { s.edge d.val g.val n.val with req := !(s.edge d.val g.val n.val).req }) :=
  (if_neg (by simp [hlive])).trans ((if_neg (by decide)).trans (if_pos h))

/-- The event in flight takes a clocked source's next one with it (R244). -/
theorem exec_eventCrossing_merges (h : (s.edge d.val g.val n.val).req ≠ (s.edge d.val g.val n.val).ack) :
    exec (.eventCrossing d g n true false) s =
      .next (((s.setEdge d.val g.val n.val { s.edge d.val g.val n.val with merges := (s.edge d.val g.val n.val).merges + 1 }).fset
        (DIE_CLK_STAT.evt_overrun d.val) (setBit (s.fget (DIE_CLK_STAT.evt_overrun d.val)) g.val true)).postLimited
          (0x50000 + edgeKey d.val g.val n.val) 0x030A 3 (some d.val) (64 * g.val + n.val) 1) :=
  (if_neg (by simp [hlive])).trans ((if_neg (by decide)).trans ((if_neg h).trans (if_pos rfl)))

/-- A clockless source waits (R244). -/
theorem exec_eventCrossing_waits (h : (s.edge d.val g.val n.val).req ≠ (s.edge d.val g.val n.val).ack) :
    exec (.eventCrossing d g n false false) s = .next s :=
  (if_neg (by simp [hlive])).trans ((if_neg (by decide)).trans ((if_neg h).trans (if_neg (by decide))))

theorem exec_edgeFifoWrite_of_room (c : Bool) (w : BitVec 64) (hroom : (s.edge d.val g.val n.val).fifo.length < 16) :
    exec (.edgeFifoWrite d g n c w) s = .next (s.setEdge d.val g.val n.val
      { s.edge d.val g.val n.val with fifo := (s.edge d.val g.val n.val).fifo ++ [w.toNat] }) :=
  (if_neg (by simp [hlive])).trans (if_pos hroom)

theorem exec_edgeFifoWrite_clocked_of_full (w : BitVec 64) (hfull : 16 ≤ (s.edge d.val g.val n.val).fifo.length) :
    exec (.edgeFifoWrite d g n true w) s = .next ((s.setEdge d.val g.val n.val
      { s.edge d.val g.val n.val with discards := (s.edge d.val g.val n.val).discards + 1 }).setFlag
        (DIE_CLK_STAT.overrun d.val) d.val g.val n.val 0x0308 3) :=
  (if_neg (by simp [hlive])).trans ((if_neg (Nat.not_lt.mpr hfull)).trans (if_pos rfl))

theorem exec_edgeFifoRead_of_word {w : Nat} {r : List Nat} (k : Fin 3) (h : (s.edge d.val g.val n.val).fifo = w :: r) :
    exec (.edgeFifoRead d g n k) s = .next { s.setEdge d.val g.val n.val { s.edge d.val g.val n.val with fifo := r } with
      answer := some ⟨0, leBytes 8 w, false⟩ } := by
  change execEdgeFifoRead d g n k s = _
  unfold execEdgeFifoRead
  dsimp only
  rw [h, hlive]
  rfl

end

/-- Settles O23: neither a frozen FIFO nor an empty one offers a word. -/
theorem qualifiedReaderTakesNothing : Obligations.QualifiedReaderTakesNothing := by
  unfold Obligations.QualifiedReaderTakesNothing
  exact fun s d g n h => exec_edgeFifoRead_qualified_of_empty h

/-- Settles O22: the discard writes the count of one crossing, and the flag is set whether or not it stood. -/
theorem fullEdgeFifoDiscards : Obligations.FullEdgeFifoDiscards := by
  unfold Obligations.FullEdgeFifoDiscards
  intro s d g n w hlive hfull
  obtain ⟨hlen, hfits, hoff⟩ := DIE_CLK_STAT_flag_fits d.val (DIE_CLK_STAT.overrun d.val) (by simp)
  refine Runs.keeps (execEdgeFifoWrite_keeps d g n true w s) fun u hu => ?_
  cases (exec_edgeFifoWrite_clocked_of_full hlive w hfull).symm.trans hu
  obtain ⟨hclk, hedge, hregs⟩ := s.setEdge_setFlag (DIE_CLK_STAT.overrun d.val) d.val g.val n.val 0x0308 3 _ rfl
  exact ⟨congrArg Clk.edges hclk, by rw [hedge], by rw [hedge],
    State.bit_setFlag _ d.val n.val 0x0308 3 (by omega) hfits, hoff ▸ hregs⟩

/-- Crossing 63 of the time edge of die 7 holds 16 words and has discarded five. -/
def fullTimeEdge : State := State.reset.setEdge 7 3 63 { Edge.fresh with fifo := List.replicate 16 0xFFFFFFFFFFFFFFFF, discards := 5 }

/-- A state that meets the hypotheses of O22, at the last crossing of the last group. -/
theorem fullEdgeFifoDiscards_witness : ∃ u, exec (.edgeFifoWrite 7 3 63 true 1) fullTimeEdge = .next u ∧
    (u.edge 7 3 63).discards = 6 ∧ bit (u.fget (DIE_CLK_STAT.overrun 7)) 3 = true := by
  obtain ⟨u, hu, ⟨-, -, hcount, hflag, -⟩, -⟩ := fullEdgeFifoDiscards fullTimeEdge 7 3 63 1 (by decide +kernel) (by decide +kernel)
  exact ⟨u, hu, hcount.trans (by decide +kernel), hflag⟩

/-- A state that meets the hypothesis of O23: crossing 62 beside the full one is empty. -/
theorem qualifiedReaderTakesNothing_witness : exec (.edgeFifoRead 7 3 62 2) fullTimeEdge = .next fullTimeEdge :=
  qualifiedReaderTakesNothing fullTimeEdge 7 3 62 (by decide +kernel)

end Sys2Proof.Machine
end

section
/-! SUPPORT. The loss and the return of a die's interface clock (R255–R258). -/

namespace Sys2Proof.Machine

/-- The lanes of `l` whose state satisfies `p` follow their demand. -/
def State.lanesFollow (s : State) (l : List Nat) (p : Nat → Prop) [DecidablePred p] : State :=
  l.foldl (fun a k => if p (a.fget (laneState k)) then a.laneReach k false else a) s

theorem State.lanesFollow_keeps (s : State) (l : List Nat) (p : Nat → Prop) [DecidablePred p] :
    Keeps [.regs, .events, .larder, .pool, .corr, .lanes, .mac, .free] s (s.lanesFollow l p) :=
  Keeps.foldl (fun _ _ => Keeps.ite (fun _ => State.laneReach_keeps ..) (fun _ => Keeps.refl)) Keeps.refl

/-- The flags of a loss in `DIE_CLK_STAT`: the loss itself, the crossings of its groups that hold their value, and the overruns, underruns
and event overruns that the stop causes (R255, R256). -/
def State.flagLoss (s : State) (d fam ovr und evt : Nat) : State :=
  (((((s.fset (DIE_CLK_STAT.lost d) 1).fsat (DIE_CLK_STAT.loss_count d) 1).setFlags (DIE_CLK_STAT.unstable d) d (groupsOf fam) 0x030B 0).setFlags
    (DIE_CLK_STAT.overrun d) d ovr 0x0308 3).setFlags (DIE_CLK_STAT.underrun d) d und 0x0309 3).setFlags (DIE_CLK_STAT.evt_overrun d) d evt 0x030A 3

theorem State.flagLoss_keeps (s : State) (d fam ovr und evt : Nat) : Keeps [.regs, .events] s (s.flagLoss d fam ovr und evt) := by
  have hstat : Keeps [.regs] s ((s.fset (DIE_CLK_STAT.lost d) 1).fsat (DIE_CLK_STAT.loss_count d) 1) :=
    (State.fsat_keeps ..).via rfl (State.fset_keeps ..)
  exact (State.setFlags_keeps ..).via rfl ((State.setFlags_keeps ..).via rfl ((State.setFlags_keeps ..).via rfl
    ((State.setFlags_keeps ..).via rfl (hstat.via rfl Keeps.refl))))

/-- A die without the MAIN family: its channels are in self-refresh and its time is no longer aligned (R255, R492). -/
def State.stopMain (s : State) (d : Nat) : State :=
  let a := (s.selfRefresh (2 * d)).selfRefresh (2 * d + 1)
  { a with time := { a.time with aligned := Tab.put true a.time.aligned d false } }

theorem State.selfRefresh_pair_keeps (s : State) (b c : Nat) : Keeps [.regs] s ((s.selfRefresh b).selfRefresh c) :=
  (State.selfRefresh_keeps ..).via rfl (State.selfRefresh_keeps ..)

theorem State.stopMain_keeps (s : State) (d : Nat) : Keeps [.regs, .time] s (s.stopMain d) :=
  Keeps.upd_time rfl ((s.selfRefresh_pair_keeps _ _).via rfl Keeps.refl)

theorem State.stopMain_time (s : State) (d : Nat) :
    (s.stopMain d).time = { s.time with aligned := Tab.put true s.time.aligned d false } := by
  have h : ((s.selfRefresh (2 * d)).selfRefresh (2 * d + 1)).time = s.time := (s.selfRefresh_pair_keeps _ _).only .time (by decide)
  unfold State.stopMain
  dsimp only
  rw [h]

/-- Die `d` marked as without the families `fam`; its crossings freeze from then on. -/
def State.loseFamilies (s : State) (d fam : Nat) : State :=
  { s with clk := { s.clk with lost := Tab.put 0 s.clk.lost d (Tab.get 0 s.clk.lost d ||| fam) } }

/-- The state of a die that has lost the families `fam`, before the event of the loss is posted. -/
def State.edgesStopped (s : State) (d fam ovr und evt : Nat) : State :=
  let s1 := (s.loseFamilies d fam).flagLoss d fam ovr und evt
  (if bit fam 0 then s1.stopMain d else s1).lanesFollow (dieLanes d) (fun st => st ≤ 2 ∨ st = 5)

theorem State.edgesStopped_keeps (s : State) (d fam ovr und evt : Nat) :
    Keeps [.regs, .events, .larder, .pool, .corr, .lanes, .time, .mac, .free] (s.loseFamilies d fam) (s.edgesStopped d fam ovr und evt) := by
  have hflags := (s.loseFamilies d fam).flagLoss_keeps d fam ovr und evt
  unfold State.edgesStopped
  refine Keeps.via (State.lanesFollow_keeps ..) rfl ?_
  refine Keeps.ite (fun _ => ?_) (fun _ => ?_)
  · exact (State.stopMain_keeps ..).via rfl (hflags.via rfl Keeps.refl)
  · exact hflags.via rfl Keeps.refl

theorem State.edgesStopped_time (s : State) (d fam ovr und evt : Nat) : (s.edgesStopped d fam ovr und evt).time =
    if bit fam 0 then { s.time with aligned := Tab.put true s.time.aligned d false } else s.time := by
  have hflags : ((s.loseFamilies d fam).flagLoss d fam ovr und evt).time = s.time := (State.flagLoss_keeps ..).only .time (by decide)
  unfold State.edgesStopped
  refine ((State.lanesFollow_keeps ..).only .time (by decide)).trans ?_
  split
  · rw [State.stopMain_time, hflags]
  · exact hflags

theorem exec_dieClkLost_of_new {s : State} {d : DieIx} {f : Fin 8} {ovr und evt : Fin 16} (hf : f.val ≠ 0)
    (hnew : Tab.get 0 s.clk.lost d.val ||| f.val ≠ Tab.get 0 s.clk.lost d.val) (hdie : s.dieAway d.val = false) :
    exec (.dieClkLost d f ovr und evt) s =
      .next ((s.edgesStopped d.val f.val ovr.val und.val evt.val).post 0x0306 4 (some d.val) d.val f.val) :=
  (if_neg (not_or.mpr ⟨hf, hnew⟩)).trans (if_neg (by simp [hdie]))

/-- Die `d` with every family back: its crossings and FIFOs are empty and its time is aligned. -/
def State.regainFamilies (s : State) (d : Nat) : State :=
  { s with
    clk := { s.clk with lost := Tab.put 0 s.clk.lost d 0, edges := Tab.drop (fun k => k / 256 == d) s.clk.edges }
    time := { s.time with aligned := Tab.put true s.time.aligned d true } }

/-- The state of a die whose clock is back: its lanes follow their demand, and `lost` reads 0. -/
def State.edgesRestarted (s : State) (d : Nat) : State :=
  ((s.regainFamilies d).lanesFollow (dieLanes d) (fun st => st = 3)).fset (DIE_CLK_STAT.lost d) 0

theorem State.edgesRestarted_lost (s : State) (d : Nat) : (s.edgesRestarted d).fget (DIE_CLK_STAT.lost d) = 0 :=
  State.fget_fset_of_lt _ (show 31 + 1 ≤ 32 by decide) (Nat.two_pow_pos _)

theorem State.edgesRestarted_keeps (s : State) (d : Nat) :
    Keeps [.regs, .events, .larder, .pool, .corr, .lanes, .mac, .free] (s.regainFamilies d) (s.edgesRestarted d) :=
  (State.fset_keeps ..).via rfl (State.lanesFollow_keeps ..)

theorem exec_dieClkRestored_of_lost {s : State} {d : DieIx} (hlost : s.fbit (DIE_CLK_STAT.lost d.val) = true)
    (hgated : s.clk.gated = false) (hdie : s.dieAway d.val = false) :
    exec (.dieClkRestored d) s = .next ((s.edgesRestarted d.val).post 0x0307 0 (some d.val) d.val) :=
  if_pos (by simp [hlost, hgated, hdie])

/-- Settles O25: on a live crossing each command writes that crossing, a merge and an unstable value also set the flag of their group; the
flags, the channels and the lanes that a loss or a return takes along leave the crossings and the time as the clause says. -/
theorem crossingsAndDieClock : Obligations.CrossingsAndDieClock := by
  unfold Obligations.CrossingsAndDieClock
  refine ⟨?level, ?value, ?event, ?unstable, ?write, ?read, ?lost, ?restored⟩
  case level => exact fun s d g n l hlive => runs_setEdge (exec_controlCrossing_of_live hlive l)
  case value => exact fun s d g n v hlive => runs_setEdge (exec_valuePublish_of_live hlive v)
  case event =>
    rintro s d g n c v hlive rfl
    obtain ⟨hlen, hfits, hoff⟩ := DIE_CLK_STAT_flag_fits d.val (DIE_CLK_STAT.evt_overrun d.val) (by simp)
    refine ⟨runs_setEdge (exec_eventCrossing_ack hlive c), fun h => runs_setEdge (exec_eventCrossing_of_acked hlive c h), fun h => ?_,
      fun h => exec_eventCrossing_waits hlive h⟩
    refine Runs.keeps (execEventCrossing_keeps d g n true false s) fun u hu => ?_
    cases (exec_eventCrossing_merges hlive h).symm.trans hu
    refine ⟨State.postLimited_clk .., ?_, ?_⟩
    · rw [State.postLimited_fget]
      exact State.bit_fget_fset_setBit _ (by omega) hfits
    · refine State.RegsOnly.trans ?_ (.of_regs (State.postLimited_regs ..))
      exact .fset (List.mem_singleton.mpr hoff) (.of_regs rfl)
  case unstable =>
    intro s d g n h
    obtain ⟨hlen, hfits, hoff⟩ := DIE_CLK_STAT_flag_fits d.val (DIE_CLK_STAT.unstable d.val) (by simp)
    refine Runs.of rfl (s.setFlag_keeps ..) ⟨State.bit_setFlag _ _ _ _ _ (by omega) hfits, hoff ▸ s.setFlag_regsOnly _ _ _ _ _ _, ?_⟩
    rw [State.setFlag_of_clear d.val n.val 0x030B 0 h]
    rfl
  case write => exact fun s d g n c w hlive hroom => runs_setEdge (exec_edgeFifoWrite_of_room hlive c w hroom)
  case read =>
    exact fun s d g n k w r hlive h => Runs.of (exec_edgeFifoRead_of_word hlive k h)
      (Keeps.upd_answer rfl ((s.setEdge_keeps ..).via rfl Keeps.refl)) ⟨rfl, rfl⟩
  case lost =>
    rintro s d f a b c old rfl hf hnew hdie
    have hkeeps := s.edgesStopped_keeps d.val f.val a.val b.val c.val
    have htime := s.edgesStopped_time d.val f.val a.val b.val c.val
    refine Runs.keeps (execDieClkLost_keeps d f a b c s) fun u hu => ?_
    cases (exec_dieClkLost_of_new hf hnew hdie).symm.trans hu
    exact ⟨hkeeps.only .clk (by decide), fun hmain => htime.trans (if_pos hmain), fun hmain => htime.trans (if_neg (by simp [hmain])),
      _, hkeeps.only .now (by decide), rfl⟩
  case restored =>
    intro s d hlost hgated hdie
    refine Runs.keeps (execDieClkRestored_keeps d s) fun u hu => ?_
    cases (exec_dieClkRestored_of_lost hlost hgated hdie).symm.trans hu
    have hkeeps := s.edgesRestarted_keeps d.val
    exact ⟨(State.post_fget ..).trans (s.edgesRestarted_lost _), hkeeps.only .clk (by decide), hkeeps.only .time (by decide),
      _, hkeeps.only .now (by decide), rfl⟩

/-- Die 7 runs without the MAIN family, as `DIE_CLK_STAT` shows, and crossing 63 of its media lanes, which needs MEDIA_A alone, is as given. -/
def mediaCrossing (v : Edge) : State :=
  ((State.setEdge { State.reset with clk := { Clk.fresh with lost := [(7, 1)] } } 7 1 63 v).fset (DIE_STAT.state 7) 2).fset (DIE_CLK_STAT.lost 7) 1

/-- States that meet the hypotheses of O25 about one crossing, clause by clause. -/
theorem crossingsAndDieClock_crossing_witness :
    (∃ u, exec (.controlCrossing 7 1 63 true) (mediaCrossing .fresh) = .next u ∧ (Tab.get .fresh u.clk.edges (edgeKey 7 1 63)).level = true) ∧
    (∃ u, exec (.valuePublish 7 1 63 9) (mediaCrossing .fresh) = .next u ∧ (Tab.get .fresh u.clk.edges (edgeKey 7 1 63)).value = 9) ∧
    (∃ u, exec (.eventCrossing 7 1 63 false false) (mediaCrossing .fresh) = .next u ∧
      (Tab.get .fresh u.clk.edges (edgeKey 7 1 63)).req = true) ∧
    (∃ u, exec (.eventCrossing 7 1 63 false true) (mediaCrossing { Edge.fresh with req := true }) = .next u ∧
      (Tab.get .fresh u.clk.edges (edgeKey 7 1 63)).ack = true) ∧
    (∃ u, exec (.eventCrossing 7 1 63 true false) (mediaCrossing { Edge.fresh with req := true }) = .next u ∧
      bit (u.fget (DIE_CLK_STAT.evt_overrun 7)) 1 = true) ∧
    exec (.eventCrossing 7 1 63 false false) (mediaCrossing { Edge.fresh with req := true }) =
      .next (mediaCrossing { Edge.fresh with req := true }) ∧
    (∃ u, exec (.edgeUnstable 7 1 63) (mediaCrossing .fresh) = .next u ∧ bit (u.fget (DIE_CLK_STAT.unstable 7)) 1 = true) ∧
    (∃ u, exec (.edgeFifoWrite 7 1 63 true 6) (mediaCrossing { Edge.fresh with fifo := List.replicate 15 5 }) = .next u ∧
      (Tab.get .fresh u.clk.edges (edgeKey 7 1 63)).fifo = List.replicate 15 5 ++ [6]) ∧
    (∃ u, exec (.edgeFifoRead 7 1 63 1) (mediaCrossing { Edge.fresh with fifo := [0x0102, 3] }) = .next u ∧
      u.answer = some ⟨0, [2, 1, 0, 0, 0, 0, 0, 0], false⟩) := by
  obtain ⟨level, value, event, unstable, write, read, -⟩ := crossingsAndDieClock
  obtain ⟨-, toggles, -⟩ := event (mediaCrossing .fresh) 7 1 63 false _ (by decide +kernel) rfl
  obtain ⟨acks, -, merges, waits⟩ := event (mediaCrossing { Edge.fresh with req := true }) 7 1 63 false _ (by decide +kernel) rfl
  obtain ⟨u1, h1, c1, -⟩ := level (mediaCrossing .fresh) 7 1 63 true (by decide +kernel)
  obtain ⟨u2, h2, c2, -⟩ := value (mediaCrossing .fresh) 7 1 63 9 (by decide +kernel)
  obtain ⟨u3, h3, c3, -⟩ := toggles (by decide +kernel)
  obtain ⟨u4, h4, c4, -⟩ := acks
  obtain ⟨u5, h5, ⟨-, f5, -⟩, -⟩ := merges (by decide +kernel)
  obtain ⟨u7, h7, ⟨f7, -⟩, -⟩ := unstable (mediaCrossing .fresh) 7 1 63 (by decide +kernel)
  obtain ⟨u8, h8, c8, -⟩ := write (mediaCrossing { Edge.fresh with fifo := List.replicate 15 5 }) 7 1 63 true 6 (by decide +kernel)
    (by decide +kernel)
  obtain ⟨u9, h9, ⟨-, a9⟩, -⟩ := read (mediaCrossing { Edge.fresh with fifo := [0x0102, 3] }) 7 1 63 1 0x0102 [3] (by decide +kernel)
    (by decide +kernel)
  exact ⟨⟨u1, h1, by rw [c1]; decide +kernel⟩, ⟨u2, h2, by rw [c2]; decide +kernel⟩, ⟨u3, h3, by rw [c3]; decide +kernel⟩,
    ⟨u4, h4, by rw [c4]; decide +kernel⟩, ⟨u5, h5, f5⟩, waits (by decide +kernel), ⟨u7, h7, f7⟩, ⟨u8, h8, by rw [c8]; decide +kernel⟩,
    ⟨u9, h9, a9.trans (by decide)⟩⟩

/-- States that meet the hypotheses of O25 about a die: one that runs loses MAIN, one that lacks MAIN loses MEDIA_A as well, and its clock
returns. -/
theorem crossingsAndDieClock_die_witness :
    (∃ u, exec (.dieClkLost 0 1 15 0 0) (State.reset.fset (DIE_STAT.state 0) 2) = .next u ∧ u.clk.lost = [(0, 1)] ∧
      u.time.aligned = [(0, false)]) ∧
    (∃ u, exec (.dieClkLost 7 2 0 15 15) (mediaCrossing .fresh) = .next u ∧ u.clk.lost = [(7, 3)] ∧ u.time = .fresh) ∧
    (∃ u, exec (.dieClkRestored 7) (mediaCrossing { Edge.fresh with req := true }) = .next u ∧
      u.fget (DIE_CLK_STAT.lost 7) = 0 ∧ u.clk.lost = [] ∧ u.clk.edges = []) := by
  obtain ⟨-, -, -, -, -, -, lost, restored⟩ := crossingsAndDieClock
  obtain ⟨u1, h1, ⟨c1, t1, -, -⟩, -⟩ := lost (State.reset.fset (DIE_STAT.state 0) 2) 0 1 15 0 0 _ rfl (by decide) (by decide +kernel)
    (by decide +kernel)
  obtain ⟨u2, h2, ⟨c2, -, t2, -⟩, -⟩ := lost (mediaCrossing .fresh) 7 2 0 15 15 _ rfl (by decide) (by decide +kernel) (by decide +kernel)
  obtain ⟨u3, h3, ⟨f3, c3, -, -⟩, -⟩ := restored (mediaCrossing { Edge.fresh with req := true }) 7 (by decide +kernel) (by decide +kernel)
    (by decide +kernel)
  exact ⟨⟨u1, h1, by rw [c1]; decide +kernel, by rw [t1 (by decide)]; decide +kernel⟩,
    ⟨u2, h2, by rw [c2]; decide +kernel, (t2 (by decide)).trans rfl⟩, ⟨u3, h3, f3, by rw [c3]; decide +kernel, by rw [c3]; decide +kernel⟩⟩

end Sys2Proof.Machine
end

section
/-! SUPPORT. The units of a packet on their way: what moves, what waits, and what stays (R281–R283, R286, R287, R294). -/

namespace Sys2Proof.Machine

/-! ### What one unit's move changes -/

/-- Flight `v` after its unit `u` has gone on to location `b`: a header extends the trail, a data unit follows it. -/
def Flight.moved (v : Flight) (u b : Nat) : Flight :=
  { v with
    trail := if u = 0 ∧ v.idx.getD u 0 + 1 = v.trail.length then v.trail ++ [b] else v.trail
    idx := v.idx.set u (v.idx.getD u 0 + 1), wait := 0 }

/-- A header that stands at the end of the trail extends it. -/
theorem Flight.moved_header {v : Flight} (b : Nat) (hend : v.idx.getD 0 0 + 1 = v.trail.length) :
    v.moved 0 b = { v with trail := v.trail ++ [b], idx := v.idx.set 0 v.trail.length, wait := 0 } := by
  unfold Flight.moved
  rw [if_pos ⟨rfl, hend⟩, hend]

/-- A data unit leaves the trail as it is. -/
theorem Flight.moved_data {v : Flight} {u : Nat} (b : Nat) (hu : 0 < u) :
    v.moved u b = { v with idx := v.idx.set u (v.idx.getD u 0 + 1), wait := 0 } := by
  unfold Flight.moved
  rw [if_neg fun h => Nat.ne_of_gt hu h.1]

/-- Every flight of `l` stands in `m` at its place with its packet, trail and unit places, and has waited through at most one more unit. -/
def WaitsOnly (l m : List Flight) : Prop :=
  m.length = l.length ∧
    ∀ (g : Nat) (w : Flight), l[g]? = some w → ∃ x, m[g]? = some { w with wait := x } ∧ (x = w.wait ∨ x = w.wait + 1)

theorem WaitsOnly.refl (l : List Flight) : WaitsOnly l l := ⟨rfl, fun _ w hw => ⟨w.wait, hw, .inl rfl⟩⟩

/-- One flight of `l` that has waited through one more unit. -/
theorem WaitsOnly.set {l m : List Flight} {k : Nat} {v : Flight} (h : WaitsOnly l m) (hv : l[k]? = some v) :
    WaitsOnly l (m.set k { v with wait := v.wait + 1 }) := by
  obtain ⟨hlen, hkeep⟩ := h
  refine ⟨List.length_set.trans hlen, fun g w hw => ?_⟩
  by_cases hne : k = g
  · subst hne
    cases hv.symm.trans hw
    have hlt : k < m.length := hlen ▸ (List.getElem?_eq_some_iff.mp hv).1
    exact ⟨v.wait + 1, List.getElem?_set_self hlt, .inr rfl⟩
  · obtain ⟨x, hx, hwait⟩ := hkeep g w hw
    exact ⟨x, (List.getElem?_set_ne hne).trans hx, hwait⟩

/-- A flight paired with its number stands at that place of the list. -/
theorem getElem?_of_mem_range_zip {l : List Flight} {e : Nat × Flight} (h : e ∈ (List.range l.length).zip l) : l[e.1]? = some e.2 := by
  obtain ⟨i, hi⟩ := List.mem_iff_getElem?.mp h
  obtain ⟨hplace, hflight⟩ := List.getElem?_zip_eq_some.mp hi
  obtain ⟨hlt, hval⟩ := List.getElem?_eq_some_iff.mp hplace
  rwa [← hval, List.getElem_range]

/-- Counting who waits changes counts of waiting alone. -/
theorem State.countWait_waitsOnly (s : State) (f : Nat) (p : Packet) (a b : Nat) : WaitsOnly s.noc.flights (s.countWait f p a b).noc.flights :=
  List.foldlRecOn _ _ (motive := WaitsOnly s.noc.flights) (WaitsOnly.refl _) fun _ h _ he =>
    h.set (getElem?_of_mem_range_zip (List.mem_filter.mp (List.mem_filter.mp he).1).1)

/-- What a command that moves one unit does: the unit's packet has moved, the others keep their content, trail and unit places, and nothing
else of the NoC changes. -/
theorem runs_moveUnit {c : Instr} {s : State} {f u b : Nat} {v v' : Flight} (hexec : exec c s = .next (s.moveUnit f u b v))
    (hv : s.noc.flights[f]? = some v) (hmoved : v.moved u b = v') :
    Runs c s [.noc] fun t =>
      t.noc.flights[f]? = some v' ∧ t.noc.flights.length = s.noc.flights.length ∧
      (∀ g w, g ≠ f → s.noc.flights[g]? = some w → ∃ x, t.noc.flights[g]? = some { w with wait := x } ∧ (x = w.wait ∨ x = w.wait + 1)) ∧
      t.noc = { s.noc with flights := t.noc.flights } := by
  obtain ⟨hlen, hkeep⟩ := s.countWait_waitsOnly f v.pkt (v.locOf u) b
  have hflights : (s.moveUnit f u b v).noc.flights = (s.countWait f v.pkt (v.locOf u) b).noc.flights.set f v' := by rw [← hmoved]; rfl
  refine Runs.of hexec (s.moveUnit_keeps ..) ⟨?_, ?_, fun g w hne hw => ?_, rfl⟩
  · exact hflights ▸ List.getElem?_set_self (hlen ▸ (List.getElem?_eq_some_iff.mp hv).1)
  · exact hflights ▸ List.length_set.trans hlen
  · obtain ⟨x, hx, hwait⟩ := hkeep g w hw
    exact ⟨x, hflights ▸ (List.getElem?_set_ne hne.symm).trans hx, hwait⟩

/-! ### A header's hop -/

/-- A link is free for a packet when no other packet of its virtual channel holds it (R282). -/
theorem State.no_other_holds {s : State} {f a b : Nat} {v : Flight}
    (h : ∀ g w, s.noc.flights[g]? = some w → g ≠ f → Packet.vc w.pkt = Packet.vc v.pkt → w.holds a b = false) :
    ((List.range s.noc.flights.length).zip s.noc.flights).any
      (fun e => e.1 != f && Packet.vc e.2.pkt == Packet.vc v.pkt && e.2.holds a b) = false := by
  refine List.any_eq_false.mpr fun e he => ?_
  have hholds := h e.1 e.2 (getElem?_of_mem_range_zip he)
  simp only [Bool.and_eq_true, bne_iff_ne, beq_iff_eq, not_and, Bool.not_eq_true, and_imp]
  exact hholds

/-- A header short of its destination, with no die asleep or away in front of it, crosses a link that is up, free for its virtual channel and
granted to it (R281–R283, R291, R635). -/
theorem State.hopHeader_eq_moveUnit {s : State} {f b : Nat} {v : Flight} {n : Node} (hdst : nodeOf v.pkt.dst = some n)
    (hhere : (s.site n).here (v.locOf 0) = false)
    (hawake : ∀ d q, s.site n = .ring d q → 144 ≤ v.locOf 0 →
      s.dieAway d = false ∧ s.fget PTM_PSTATE.state ≠ 2 ∧ s.fget PTM_PSTATE.state ≠ 3)
    (hnext : s.noc.nextHop (v.locOf 0) (s.site n) = some b) (hup : s.edgeUp (v.locOf 0) b = true)
    (hgo : s.mayGo f v.pkt v.wait (v.locOf 0) b = true)
    (hfree : ∀ g w, s.noc.flights[g]? = some w → g ≠ f → Packet.vc w.pkt = Packet.vc v.pkt → w.holds (v.locOf 0) b = false) :
    s.hopHeader f v = s.moveUnit f 0 b v := by
  have hsend := State.no_other_holds hfree
  unfold State.hopHeader
  simp only [hdst, hhere, hnext, hup, hgo, hsend, Bool.not_false, Bool.and_self, if_true, Bool.false_eq_true, if_false]
  cases hsite : s.site n with
  | spine ports => simp
  | ring d q =>
    by_cases hout : 144 ≤ v.locOf 0
    · obtain ⟨haway, hnap, hdeep⟩ := hawake d q hsite hout
      simp [haway, hnap, hdeep]
    · simp [hout]

/-- A clean header that stands where its trail ends is decoded there. -/
theorem exec_routerHop_header {s : State} {f : Nat} {v : Flight} (hv : s.noc.flights[f]? = some v) (hunits : 0 < v.idx.length)
    (hend : v.idx.getD 0 0 + 1 = v.trail.length) : exec (.routerHop f 0 .clean) s = .next (s.hopHeader f v) := by
  change execRouterHop f 0 .clean s = _
  unfold execRouterHop
  simp only [hv, hend, Nat.not_le.mpr hunits, reduceCtorEq, or_self, if_false, if_true]

/-! ### A data unit's hop, and an uncorrectable header -/

/-- A clean data unit follows over the next link of the trail when the link is up, or its units are re-sent by the alternate routes, and the
link is granted to it (R282, R287, R293, R294). -/
theorem exec_routerHop_data {s : State} {f i b : Nat} {v : Flight} (hv : s.noc.flights[f]? = some v) (hi : 0 < i) (hlt : i < v.idx.length)
    (hnext : v.nextOf i = some b) (hup : s.edgeUp (v.locOf i) b = true ∨ s.noc.resent (v.locOf i) b = true)
    (hgo : s.mayGo f v.pkt v.wait (v.locOf i) b = true) : exec (.routerHop f i .clean) s = .next (s.moveUnit f i b v) := by
  change execRouterHop f i .clean s = _
  have hlink : (s.edgeUp (v.locOf i) b || s.noc.resent (v.locOf i) b) = true := Bool.or_eq_true_iff.mpr hup
  unfold execRouterHop
  simp only [hv, hnext, hlink, hgo, Nat.not_le.mpr hlt, Nat.ne_of_gt hi, reduceCtorEq, or_self, Bool.and_self, if_false, if_true]

/-- A packet whose header is uncorrectable is lost, counted and reported at the router where it stands (R286). -/
theorem exec_routerHop_uncorr {s : State} {f : Nat} {v : Flight} (hv : s.noc.flights[f]? = some v) (hunits : 0 < v.idx.length) :
    exec (.routerHop f 0 .uncorr) s = .next (((s.dropFlight f).fsat NOC_ERR.hdr_uncorr 1).post 0x0401 3
      (if v.locOf 0 < 144 then some (v.locOf 0 / 18) else none) (v.locOf 0)) := by
  change execRouterHop f 0 .uncorr s = _
  unfold execRouterHop
  simp only [hv, Nat.not_le.mpr hunits, if_false, if_true]

/-- Settles O10: a header's or data unit's hop is one `moveUnit`, which leaves the other flights but for their waiting; an uncorrectable
header drops its flight. -/
theorem nocHops : Obligations.NocHops := by
  unfold Obligations.NocHops
  refine ⟨?header, ?data, ?uncorr⟩
  case header =>
    intro s f v n b hv hunits hend hdst hhere hawake hnext hup hgo hfree
    exact runs_moveUnit
      ((exec_routerHop_header hv hunits hend).trans (congrArg _ (State.hopHeader_eq_moveUnit hdst hhere hawake hnext hup hgo hfree)))
      hv (Flight.moved_header b hend)
  case data =>
    intro s f i v b hv hi hlt hnext hup hgo
    exact runs_moveUnit (exec_routerHop_data hv hi hlt hnext hup hgo) hv (Flight.moved_data b hi)
  case uncorr =>
    intro s f v hv hunits
    refine Runs.of (exec_routerHop_uncorr hv hunits)
      ((State.post_keeps ..).via rfl ((State.fsat_keeps ..).via rfl ((s.dropFlight_keeps f).via rfl Keeps.refl))) ⟨rfl, ?_, ?_, rfl⟩
    · exact (State.post_fget ..).trans (State.fget_fsat (s.dropFlight f) 1 (by decide))
    · exact .post (.fsat (by simp [NOC_ERR.hdr_uncorr]) (.of_regs rfl))

/-- A header from spine position 0 to role 0 of die 0, which runs, beside a header of lower priority for the same link. -/
def headersAtSpine : State :=
  { State.reset.fset (DIE_STAT.state 0) 2 with
    noc := { Noc.idle with flights := [Packet.flightAt windowReadReq 144, Packet.flightAt { windowReadReq with prio := 0 } 144] } }

/-- A data unit whose header crossed bench link 0 of die 0 before the link was retired and the alternate routes were installed. -/
def unitOfRetiredLink : State :=
  { State.reset.fset (BL_STAT.state 0 0) 3 with
    noc := { Noc.idle with flights := [⟨windowAnswer, [0, 144], [1, 0], 7⟩], downLinks := [0] } }

/-- A header at the last ring position of die 7, beside another packet; the count of uncorrectable headers is at its top. -/
def headerAtLastRing : State :=
  { State.reset.fset NOC_ERR.hdr_uncorr 255 with
    noc := { Noc.idle with flights := [Packet.flightAt windowReadReq 0, Packet.flightAt windowReadReq 143] } }

/-- States that meet the hypotheses of O10, clause by clause: the other header stays where it waits, the data unit is re-sent, and
the full count stays. -/
theorem nocHops_witness :
    (∃ u, exec (.routerHop 0 0 .clean) headersAtSpine = .next u ∧ u.noc.flights[0]? = some ⟨windowReadReq, [144, 0], [1], 0⟩ ∧
      ∃ x, u.noc.flights[1]? = some ⟨{ windowReadReq with prio := 0 }, [144], [0], x⟩ ∧ (x = 0 ∨ x = 1)) ∧
    (∃ u, exec (.routerHop 0 1 .clean) unitOfRetiredLink = .next u ∧ u.noc.flights[0]? = some ⟨windowAnswer, [0, 144], [1, 1], 0⟩) ∧
    (∃ u, exec (.routerHop 1 0 .uncorr) headerAtLastRing = .next u ∧ u.noc.flights = [Packet.flightAt windowReadReq 0] ∧
      u.fget NOC_ERR.hdr_uncorr = 255) := by
  obtain ⟨header, data, uncorr⟩ := nocHops
  obtain ⟨u1, h1, ⟨f1, -, w1, -⟩, -⟩ := header headersAtSpine 0 (Packet.flightAt windowReadReq 144) (.role 0 0) 0 rfl (by decide) (by decide)
    (by decide) (by decide +kernel) (fun d q hsite _ => by cases hsite; decide +kernel) (by decide +kernel) (by decide +kernel)
    (by decide +kernel) (fun g w hw hg hvc => by
      obtain _ | _ | g := g
      · exact absurd rfl hg
      · cases hw; rfl
      · cases hw)
  obtain ⟨u2, h2, ⟨f2, -⟩, -⟩ := data unitOfRetiredLink 0 1 ⟨windowAnswer, [0, 144], [1, 0], 7⟩ 144 rfl (by decide) (by decide) (by decide)
    (.inr (by decide)) (by decide +kernel)
  obtain ⟨u3, h3, ⟨n3, c3, -⟩, -⟩ := uncorr headerAtLastRing 1 (Packet.flightAt windowReadReq 143) rfl (by decide)
  exact ⟨⟨u1, h1, f1, w1 1 (Packet.flightAt { windowReadReq with prio := 0 } 144) (by decide) rfl⟩, ⟨u2, h2, f2⟩,
    ⟨u3, h3, congrArg Noc.flights n3, c3.trans (by decide +kernel)⟩⟩

end Sys2Proof.Machine
end

section
/-! SUPPORT. Messages and responses at their targets (R275, R371, R379, R504, R794), timeouts and quarantine (R288–R290). -/

namespace Sys2Proof.Machine

/-- A new NoC and a new answer, and every other part as it was. -/
theorem Keeps.upd_noc_answer {ps : List Part} {s t : State} {n : Noc} {a : Option Answer} (hs : Part.sub [.noc, .answer] ps = true)
    (k : Keeps ps s t) : Keeps ps s { t with noc := n, answer := a } :=
  (Keeps.upd_answer (t := { t with noc := n }) rfl (Keeps.upd_noc rfl Keeps.refl)).via hs k

/-! ### Messages -/

/-- A MESSAGE to a role is the business of the role's tin. -/
theorem exec_message_role {s : State} {f loc d r : Nat} {p : Packet} (hat : s.atTarget f = some (p, loc)) (hcmd : p.cmd = .message)
    (hdst : nodeOf p.dst = some (.role d r)) : exec (.message f) s = .next (s.tinTarget f p loc p.dst (s.tinOf d r)) := by
  refine (State.atCmd_eq hat hcmd).trans ?_
  simp only [hdst]

/-- A MESSAGE to a stream port is the business of the port. -/
theorem exec_message_stream {s : State} {f loc d k : Nat} {p : Packet} (hat : s.atTarget f = some (p, loc)) (hcmd : p.cmd = .message)
    (hdst : nodeOf p.dst = some (.stream d k)) : exec (.message f) s = .next (s.streamTarget f p d k) := by
  refine (State.atCmd_eq hat hcmd).trans ?_
  simp only [hdst]

/-- An open, running tin hands a posted packet over to its design (R275). -/
theorem State.tinTarget_posted {s : State} {f loc node t : Nat} {p : Packet} (hopen : s.roleOpen t = true) (hfrz : (s.tin t).frozen = false)
    (hhalt : s.halted = false) (hatomic : p.cmd.atomic = false) (hposted : p.cmd.posted = true) :
    s.tinTarget f p loc node t = { s.dropFlight f with answer := some ⟨stDone, p.data, p.poison⟩ } := by
  unfold State.tinTarget
  simp only [hopen, hfrz, hhalt, hatomic, hposted, Bool.not_true, Bool.or_self, Bool.false_and, Bool.false_eq_true, if_false, if_true]

/-- A stream port counts a message of a sender that it does not accept (R504). -/
theorem State.streamTarget_rejected {s : State} {f d k : Nat} {p : Packet}
    (h : s.fbit (SP_ROUTE.valid d k) = false ∨ s.fget (SP_ROUTE.node d k) ≠ p.src) :
    s.streamTarget f p d k = (s.dropFlight f).fsat (SP_ROUTE.rejected d k) 1 := by
  have hreject : (!(s.dropFlight f).fbit (SP_ROUTE.valid d k) || (s.dropFlight f).fget (SP_ROUTE.node d k) != p.src) = true := by
    simpa [State.fbit] using h
  unfold State.streamTarget
  exact if_pos hreject

/-! ### Responses -/

section
variable {s : State} {f loc : Nat} {p : Packet} (hat : s.atTarget f = some (p, loc)) (hcmd : p.cmd = .response)
include hat hcmd

/-- A notice for a tin takes the read that it names off the tin's unproofed reads (R379). -/
theorem exec_response_notice {d r : Nat} (hnotice : p.notice = true) (hdst : nodeOf p.dst = some (.role d r)) :
    exec (.response f) s = .next ((s.dropFlight f).setTin (s.tinOf d r) { s.tin (s.tinOf d r) with
      reads := (s.tin (s.tinOf d r)).reads.eraseP (fun q => q.tag == p.tag && q.epoch == p.epoch) }) := by
  refine (State.atCmd_eq hat hcmd).trans ?_
  simp only [hnotice, hdst, if_true]

variable (hnotice : p.notice = false)
include hnotice

/-- A response completes the outstanding request that it answers, unless its tin's crust holds it (R289, R379). -/
theorem exec_response_outstanding {o : Outst} (hout : s.noc.out.find? (fun o => o.isOf p) = some o) (hroom : s.crustFull p = false) :
    exec (.response f) s = .next ((s.dropFlight f).complete o p) := by
  refine (State.atCmd_eq hat hcmd).trans ?_
  simp only [hnotice, hout, hroom, Bool.false_eq_true, if_false]

variable (hout : s.noc.out.find? (fun o => o.isOf p) = none)
include hout

/-- A response to a quarantined request ends the quarantine and counts as late (R289). -/
theorem exec_response_quarantined {o : Outst} (hquar : s.noc.quar.find? (fun o => o.isOf p) = some o) :
    exec (.response f) s = .next (State.fsat { s.dropFlight f with noc := { (s.dropFlight f).noc with quar := (s.dropFlight f).noc.quar.erase o } }
      (lateFld p.dst) 1) := by
  refine (State.atCmd_eq hat hcmd).trans ?_
  simp only [hnotice, hout, hquar, Bool.false_eq_true, if_false]

/-- A response to no request counts as late (R289). -/
theorem exec_response_late (hquar : s.noc.quar.find? (fun o => o.isOf p) = none) :
    exec (.response f) s = .next ((s.dropFlight f).fsat (lateFld p.dst) 1) := by
  refine (State.atCmd_eq hat hcmd).trans ?_
  simp only [hnotice, hout, hquar, Bool.false_eq_true, if_false]

end

/-- The crust of a tin has room for a proof, and a tin that does not proof has room for every response (R379). -/
theorem State.crustFull_of_role {s : State} {p : Packet} {d r : Nat} (hdst : nodeOf p.dst = some (.role d r))
    (hproof : p.proof = true ∨ (s.tin (s.tinOf d r)).proofing = false) : s.crustFull p = false := by
  unfold State.crustFull
  simp only [hdst]
  rcases hproof with h | h <;> simp [h]

/-- A completed request of a tin leaves the outstanding ones and its answer is handed over; a response with its proof, or to a tin that does
not proof, is not numbered (R289, R379). -/
theorem State.complete_role {s : State} {o : Outst} {p : Packet} {d r : Nat} (hdst : nodeOf p.dst = some (.role d r))
    (hproof : p.proof = true ∨ (s.tin (s.tinOf d r)).proofing = false) :
    s.complete o p = { s with noc := { s.noc with out := s.noc.out.erase o }, answer := some ⟨p.status, p.data, p.poison⟩ } := by
  have hunnumbered : (p.proof || !(s.tin (s.tinOf d r)).proofing) = true := by rcases hproof with h | h <;> simp [h]
  unfold State.complete
  simp only [hdst]
  exact if_pos hunnumbered

theorem lateFld_fits (src : Nat) : (lateFld src).len = 16 ∧ (lateFld src).lo + (lateFld src).len ≤ 32 := by
  unfold lateFld
  split <;> simp [NOC_LATE.late, BL_TMO.late]

/-- A late response is counted in the 16-bit field of its initiator, and no other register changes. -/
theorem State.fsat_late {s t : State} (h : t.regs = s.regs) (src : Nat) :
    (t.fsat (lateFld src) 1).fget (lateFld src) = satAdd 16 (s.fget (lateFld src)) 1 ∧
      s.RegsOnly [(lateFld src).off] (t.fsat (lateFld src) 1) := by
  obtain ⟨hlen, hfits⟩ := lateFld_fits src
  refine ⟨?_, .fsat (List.mem_singleton_self _) (.of_regs h)⟩
  rw [State.fget_fsat _ _ hfits, hlen, State.fget_congr h]

/-! ### Timeouts -/

/-- A tin's request whose timer expires goes to quarantine and is answered TIMEOUT with poisoned zeros; the timeout is counted and reported
(R288–R290). -/
theorem exec_nocTimeout_role {s : State} {i d : Nat} {o : Outst} (hi : s.noc.out[i]? = some o) (hsrc : o.src / 256 = d + 1) :
    exec (.nocTimeout i) s = .next ((State.fsat { s with
        noc := { s.noc with out := s.noc.out.eraseIdx i, quar := s.noc.quar ++ [o] }
        answer := some ⟨stTimeout, List.replicate o.respBytes 0, decide (o.respBytes ≠ 0)⟩ } (BL_TMO.timeouts d) 1).postLimited
      (0x30000 + o.src) 0x0400 0 (some d) o.src 1) := by
  have hhub : o.src / 256 ≠ 0 := by omega
  have hhqe : (o.src == nodeHqe) = false := beq_false_of_ne fun h => hhub (by rw [h]; decide)
  have hfld : timeoutsFld o.src = BL_TMO.timeouts d := by
    unfold timeoutsFld
    rw [if_neg hhub, hsrc, Nat.add_sub_cancel]
  change execNocTimeout i s = _
  unfold execNocTimeout
  simp only [hi, hhqe, hfld, hsrc, Nat.add_one_ne_zero, Nat.add_sub_cancel, Bool.false_and, Bool.false_eq_true, if_false]

/-- Settles O8: each packet that has arrived and each expired timer meets one case of its target, and the count, the answer and the lists of
requests follow from that case. -/
theorem nocMessagesAndResponses : Obligations.NocMessagesAndResponses := by
  unfold Obligations.NocMessagesAndResponses
  refine ⟨?delivered, ?rejected, ?completed, ?quarantined, ?late, ?notice, ?timeout, ?quarantineEnd⟩
  case delivered =>
    intro s f p loc d r hat hcmd hdst hopen hfrz hhalt
    have htin := State.tinTarget_posted (f := f) (p := p) (loc := loc) (node := p.dst) hopen hfrz hhalt (by simp [hcmd, PCmd.atomic])
      (by simp [hcmd, PCmd.posted])
    exact Runs.of ((exec_message_role hat hcmd hdst).trans (congrArg _ htin))
      (Keeps.upd_answer rfl ((s.dropFlight_keeps f).via rfl Keeps.refl)) ⟨rfl, rfl⟩
  case rejected =>
    intro s f p loc d k hat hcmd hdst h
    refine Runs.of ((exec_message_stream hat hcmd hdst).trans (congrArg _ (State.streamTarget_rejected h)))
      ((State.fsat_keeps ..).via rfl ((s.dropFlight_keeps f).via rfl Keeps.refl)) ⟨rfl, ?_, .fsat (List.mem_singleton_self _) (.of_regs rfl)⟩
    exact State.fget_fsat (f := SP_ROUTE.rejected d k) _ 1 (show 24 + 8 ≤ 32 by decide)
  case completed =>
    intro s f p loc d r o hat hcmd hnotice hdst hout hproof
    have hcomplete := State.complete_role (s := s.dropFlight f) (o := o) hdst hproof
    exact Runs.of ((exec_response_outstanding hat hcmd hnotice hout (State.crustFull_of_role hdst hproof)).trans (congrArg _ hcomplete))
      (Keeps.upd_noc_answer rfl ((s.dropFlight_keeps f).via rfl Keeps.refl)) ⟨rfl, rfl⟩
  case quarantined =>
    intro s f p loc o hat hcmd hnotice hout hquar
    exact Runs.of (exec_response_quarantined hat hcmd hnotice hout hquar)
      ((State.fsat_keeps ..).via rfl (Keeps.upd_noc rfl ((s.dropFlight_keeps f).via rfl Keeps.refl))) ⟨rfl, State.fsat_late rfl _⟩
  case late =>
    intro s f p loc hat hcmd hnotice hout hquar
    exact Runs.of (exec_response_late hat hcmd hnotice hout hquar)
      ((State.fsat_keeps ..).via rfl ((s.dropFlight_keeps f).via rfl Keeps.refl)) ⟨rfl, State.fsat_late rfl _⟩
  case notice =>
    intro s f p loc d r hat hcmd hnotice hdst
    exact Runs.of (exec_response_notice hat hcmd hnotice hdst)
      ((State.setTin_keeps ..).via rfl ((s.dropFlight_keeps f).via rfl Keeps.refl))
      ⟨rfl, (s.dropFlight f).setTin_tinOnly _ _, State.tin_setTin_self ..⟩
  case timeout =>
    rintro s i o d n hi hsrc rfl
    refine Runs.of (exec_nocTimeout_role hi hsrc)
      ((State.postLimited_keeps ..).via rfl ((State.fsat_keeps ..).via rfl (Keeps.upd_noc_answer rfl Keeps.refl))) ⟨?_, ?_, ?_, ?_⟩
    · exact State.postLimited_noc ..
    · exact State.postLimited_answer ..
    · exact (State.postLimited_fget ..).trans (State.fget_fsat (f := BL_TMO.timeouts d) _ 1 (show 0 + 16 ≤ 32 by decide))
    · exact .of_fsat (State.postLimited_regs ..) (List.mem_singleton_self _)
  case quarantineEnd =>
    intro s i hi
    refine Runs.of rfl (Keeps.upd_noc rfl Keeps.refl) ⟨rfl, ?_⟩
    exact congrArg (· + 1) (List.length_eraseIdx_of_lt hi) |>.trans (Nat.sub_add_cancel (Nat.zero_lt_of_lt hi))

/-- A message of the HQE to role 0 of die 0, and one of role 0 of die 0 to the last stream port of die 7. -/
def tinMessage : Packet := { windowReadReq with cmd := .message, data := [1, 2, 3, 4, 5, 6, 7, 8], poison := true }
def portMessage : Packet := { tinMessage with dst := 0x82F, src := 0x100 }

/-- The last stream port of die 7 takes the messages of role 1 of die 0 alone, and its count of rejected messages is at its top. -/
def rejectingPort : State :=
  { ((State.reset.fset (SP_ROUTE.valid 7 7) 1).fset (SP_ROUTE.node 7 7) 0x101).fset (SP_ROUTE.rejected 7 7) 255 with
    noc := { Noc.idle with flights := [Packet.flightAt portMessage 134] } }

/-- The larder's answer to the read of role 0 of die 0 and the outstanding read; a response that the HQE waits for no more; and the notice
that proofs the read. -/
def larderAnswer : Packet := larderReadReq.reply nodeLarder stPoisoned 0 (List.replicate 64 0xA5) true true
def outstandingRead : Outst := ⟨0x100, 3, 1, larderBase, .read, 64⟩
def strayAnswer : Packet := { larderAnswer with dst := nodeHqe }
def readNotice : Packet := { larderAnswer with notice := true, data := [] }

/-- Tin 0 in service as `x`, with packet `p` at location `loc`, the outstanding requests `o`, the quarantined ones `q`, and the counts of late
responses and timeouts of its die at their top. -/
def awaitingState (x : Tin) (p : Packet) (loc : Nat) (o q : List Outst) : State :=
  { (State.reset.fset (BL_TMO.late 0) 65535).fset (BL_TMO.timeouts 0) 65535 with
    tins := [(0, x)], noc := { Noc.idle with flights := [Packet.flightAt p loc], out := o, quar := q } }

/-- States that meet the hypotheses of O8 about messages and responses, clause by clause. -/
theorem nocMessagesAndResponses_witness :
    (∃ u, exec (.message 0) (injectingState injectingTin [Packet.flightAt tinMessage 1]) = .next u ∧
      u.answer = some ⟨stDone, [1, 2, 3, 4, 5, 6, 7, 8], true⟩) ∧
    (∃ u, exec (.message 0) rejectingPort = .next u ∧ u.noc.flights = [] ∧ u.fget (SP_ROUTE.rejected 7 7) = 255) ∧
    (∃ u, exec (.response 0) (awaitingState unproofedTin larderAnswer 1 [outstandingRead] []) = .next u ∧
      u.answer = some ⟨stPoisoned, List.replicate 64 0xA5, true⟩ ∧ u.noc.out = []) ∧
    (∃ u, exec (.response 0) (awaitingState unproofedTin larderAnswer 1 [] [outstandingRead]) = .next u ∧ u.noc.quar = [] ∧
      u.fget (BL_TMO.late 0) = 65535) ∧
    (∃ u, exec (.response 0) (awaitingState unproofedTin strayAnswer 151 [outstandingRead] [outstandingRead]) = .next u ∧
      u.noc.flights = [] ∧ u.fget NOC_LATE.late = 1) ∧
    (∃ u, exec (.response 0) (awaitingState unproofedTin readNotice 1 [] []) = .next u ∧ (u.tin 0).reads = []) := by
  obtain ⟨delivered, rejected, completed, quarantined, late, notice, -⟩ := nocMessagesAndResponses
  obtain ⟨u1, h1, ⟨-, a1⟩, -⟩ := delivered (injectingState injectingTin [Packet.flightAt tinMessage 1]) 0 tinMessage 1 0 0 (by decide) rfl
    (by decide) (by decide +kernel) rfl (by decide +kernel)
  obtain ⟨u2, h2, ⟨n2, c2, -⟩, -⟩ := rejected rejectingPort 0 portMessage 134 7 7 (by decide) rfl (by decide) (.inr (by decide +kernel))
  obtain ⟨u3, h3, ⟨a3, n3⟩, -⟩ := completed (awaitingState unproofedTin larderAnswer 1 [outstandingRead] []) 0 larderAnswer 1 0 0
    outstandingRead (by decide) rfl rfl (by decide) (by decide) (.inl rfl)
  obtain ⟨u4, h4, ⟨n4, c4, -⟩, -⟩ := quarantined (awaitingState unproofedTin larderAnswer 1 [] [outstandingRead]) 0 larderAnswer 1
    outstandingRead (by decide) rfl rfl rfl (by decide)
  obtain ⟨u5, h5, ⟨n5, c5, -⟩, -⟩ := late (awaitingState unproofedTin strayAnswer 151 [outstandingRead] [outstandingRead]) 0 strayAnswer 151
    (by decide) rfl rfl (by decide) (by decide)
  obtain ⟨u6, h6, ⟨-, -, t6⟩, -⟩ := notice (awaitingState unproofedTin readNotice 1 [] []) 0 readNotice 1 0 0 (by decide) rfl rfl (by decide)
  exact ⟨⟨u1, h1, a1⟩, ⟨u2, h2, congrArg Noc.flights n2, c2.trans (by decide +kernel)⟩, ⟨u3, h3, a3, congrArg Noc.out n3⟩,
    ⟨u4, h4, congrArg Noc.quar n4, c4.trans (by decide +kernel)⟩, ⟨u5, h5, congrArg Noc.flights n5, c5.trans (by decide +kernel)⟩,
    ⟨u6, h6, congrArg Tin.reads t6⟩⟩

/-- States that meet the hypotheses of O8 about time: a read that times out when the count is full, and the second of two quarantines. -/
theorem nocMessagesAndResponses_time_witness :
    (∃ u, exec (.nocTimeout 0) (awaitingState unproofedTin readNotice 1 [outstandingRead] []) = .next u ∧ u.noc.out = [] ∧
      u.noc.quar = [outstandingRead] ∧ u.answer = some ⟨stTimeout, List.replicate 64 0, true⟩ ∧ u.fget (BL_TMO.timeouts 0) = 65535) ∧
    (∃ u, exec (.quarantineEnd 1) (awaitingState unproofedTin readNotice 1 [] [outstandingRead, { outstandingRead with tag := 4 }]) = .next u ∧
      u.noc.quar = [outstandingRead]) := by
  obtain ⟨-, -, -, -, -, -, timeout, quarantineEnd⟩ := nocMessagesAndResponses
  obtain ⟨u1, h1, ⟨n1, a1, c1, -⟩, -⟩ := timeout (awaitingState unproofedTin readNotice 1 [outstandingRead] []) 0 outstandingRead 0 64 rfl
    (by decide) rfl
  obtain ⟨u2, h2, ⟨n2, -⟩, -⟩ := quarantineEnd (awaitingState unproofedTin readNotice 1 [] [outstandingRead, { outstandingRead with tag := 4 }]) 1
    (by decide)
  exact ⟨⟨u1, h1, congrArg Noc.out n1, congrArg Noc.quar n1, a1, c1.trans (by decide +kernel)⟩, ⟨u2, h2, congrArg Noc.quar n2⟩⟩

end Sys2Proof.Machine
end

section
/-! SUPPORT. The tick of an empty queue: the count of the time keeper and what moves beside it (R484, log 2). -/

namespace Sys2Proof.Machine

/-- With no command waiting, a step is a tick of the time keeper, and then the stream ports move their beats. -/
theorem step_of_pending_nil {s : State} (h : s.pending = []) : step s = .next s.tickTime.pumpAll := by
  unfold step
  rw [h]

/-- The timer interrupts that follow the time write the harts alone (R614). -/
theorem State.foldl_setMtip_keeps (s : State) (harts : List Nat) :
    Keeps [.mgc] s (harts.foldl (fun a h => if (a.hart h).mtip == a.timerDue h then a else a.setMtip h) s) :=
  Keeps.foldl (fun a h => Keeps.ite (fun _ => .refl) (fun _ => a.setMtip_keeps h)) .refl

/-- Where the clock does not run, a tick does nothing. -/
theorem State.tickTime_of_stopped {s : State} (h : s.timeRuns = false) : s.tickTime = s := if_pos (by simp [h])

/-- Where the clock runs, a tick counts one period: the time takes 1 ns, the rate and a part of the slew, which is taken off what remains. -/
theorem State.tickTime_of_running {s : State} (h : s.timeRuns = true) :
    s.tickTime.now = ((s.now : Int) + s.periodStep + slewPart s.time.slew).toNat ∧
      s.tickTime.time.slew = s.time.slew - slewPart s.time.slew := by
  unfold State.tickTime
  rw [if_neg (by simp [h])]
  exact ⟨(State.foldl_setMtip_keeps _ _).only .now (by decide), congrArg Time.slew ((State.foldl_setMtip_keeps _ _).only .time (by decide))⟩

/-- The stream ports move beats and leave the time as the tick left it. -/
theorem State.pumpAll_now (s : State) : s.pumpAll.now = s.now := s.pumpAll_keeps.only .now (by decide)

theorem State.pumpAll_time (s : State) : s.pumpAll.time = s.time := s.pumpAll_keeps.only .time (by decide)

/-- What a step on an empty queue can touch: the parts of the time keeper's tick and those of the stream ports. -/
theorem State.tick_keeps (s : State) : Keeps [.now, .dram, .time, .mgc, .laneIn, .mac] s s.tickTime.pumpAll :=
  s.tickTime.pumpAll_keeps.via rfl (s.tickTime_keeps.via rfl .refl)

/-- Settles O2: the queue is in the footprint of neither half of the tick, and the time comes from the time keeper's half alone. -/
theorem emptyQueueTicks : Obligations.EmptyQueueTicks := by
  unfold Obligations.EmptyQueueTicks
  intro s hempty
  have hframe := s.tick_keeps.only
  refine ⟨_, step_of_pending_nil hempty, (hframe .pending (by decide)).trans hempty, hframe, ?stopped, ?running⟩
  case stopped =>
    intro hstop
    rw [State.pumpAll_now, State.tickTime_of_stopped hstop]
  case running =>
    intro hrun
    obtain ⟨hnow, hslew⟩ := State.tickTime_of_running hrun
    rw [State.pumpAll_now, State.pumpAll_time, hnow, Int.toNat_eq_max, Int.max_comm, State.periodStep, ← Int.add_assoc]
    exact ⟨rfl, hslew⟩

/-- A powered device with generator A locked, its MAIN reference lost and the family in holdover or not (R239), and the time keeper at 7 ns
with a rate of -1 and the slew `slew`. -/
def keepingTime (holdover : Nat) (slew : Int) : State :=
  State.fset (State.fset (State.fset (State.fset { State.reset with
      now := 7 * 2 ^ 40, time := { Time.fresh with slew := slew }, powerGood := true }
    CLK_STAT.a_locked 1) CLK_STAT.ref_lost 1) CLK_STAT.holdover holdover) TIME_RATE.rate (2 ^ 32 - 1)

/-- The rate field of all ones subtracts 2^-40 ns a period, as a signed value (R484). -/
theorem keepingTime_rate (holdover : Nat) (slew : Int) : toSigned ((keepingTime holdover slew).fget TIME_RATE.rate) 32 = -1 := by
  rw [keepingTime, State.fget_fset_of_lt _ (by decide) (by decide)]
  decide

/-- States that meet the hypotheses of O2: a slew one above the most that a period applies, one as far below, and a clock that has lost its
reference with no holdover. -/
theorem emptyQueueTicks_witness :
    (∃ u, step (keepingTime 1 (slewStep + 1)) = .next u ∧ (u.now : Int) = 8 * 2 ^ 40 - 1 + slewStep ∧ u.time.slew = 1) ∧
    (∃ u, step (keepingTime 1 (-slewStep - 1)) = .next u ∧ (u.now : Int) = 8 * 2 ^ 40 - 1 - slewStep ∧ u.time.slew = -1) ∧
    (∃ u, step (keepingTime 0 (slewStep + 1)) = .next u ∧ u.now = 7 * 2 ^ 40) := by
  obtain ⟨u1, h1, -, -, -, run1⟩ := emptyQueueTicks (keepingTime 1 (slewStep + 1)) rfl
  obtain ⟨u2, h2, -, -, -, run2⟩ := emptyQueueTicks (keepingTime 1 (-slewStep - 1)) rfl
  obtain ⟨u3, h3, -, -, stop3, -⟩ := emptyQueueTicks (keepingTime 0 (slewStep + 1)) rfl
  obtain ⟨now1, slew1⟩ := run1 (by decide +kernel)
  obtain ⟨now2, slew2⟩ := run2 (by decide +kernel)
  rw [keepingTime_rate] at now1 now2
  exact ⟨⟨u1, h1, now1.trans (by decide), slew1.trans (by decide)⟩, ⟨u2, h2, now2.trans (by decide), slew2.trans (by decide)⟩,
    ⟨u3, h3, stop3 (by decide +kernel)⟩⟩

end Sys2Proof.Machine
end

section
/-! SUPPORT. How a load begins and takes its bytes (R528, R531, R536, R540), and the status word (R532). -/

namespace Sys2Proof.Machine

/-- A frame of fewer registers is one of more. -/
theorem State.RegsOnly.mono {s t : State} {l m : List Nat} (h : s.RegsOnly l t) (hsub : l ⊆ m) : s.RegsOnly m t :=
  fun o ho => h o fun hm => ho (hsub hm)

/-! ### The status word -/

theorem State.statusWord_length (s : State) : s.statusWord.length = 32 := by simp [State.statusWord, leBytes_length]

/-- The status word begins with the status of the last load (R532). -/
theorem State.statusWord_status (s : State) : leAt s.statusWord 0 1 = s.fget CFG_STAT.last_status := by
  have hfits : s.fget CFG_STAT.last_status < 256 := bits_lt ..
  simp [State.statusWord, leAt, slice, leBytes, leVal, Nat.mod_eq_of_lt hfits]

/-! ### The load under way -/

theorem State.setLoad_cfg (s : State) (l : Option Load) : (s.setLoad l).cfg = { s.cfg with load := l } := rfl

theorem State.setLoad_regs (s : State) (l : Option Load) : (s.setLoad l).regs = (s.fset CFG_STAT.loading (b2n l.isSome)).regs := rfl

theorem State.setLoad_regsOnly (s : State) (l : Option Load) : s.RegsOnly [CFG_STAT] (s.setLoad l) :=
  (State.RegsOnly.fset (by decide) (.of_regs rfl)).trans (.of_regs (s.setLoad_regs l))

theorem State.setLoad_loading (s : State) (l : Load) : (s.setLoad (some l)).fget CFG_STAT.loading = 1 := by
  rw [State.setLoad_fget, State.fget_fset _ _ (by decide)]
  rfl

/-- A load under way shows in its own bit of `CFG_STAT` alone. -/
theorem State.setLoad_source (s : State) (l : Option Load) : (s.setLoad l).fget CFG_STAT.source = s.fget CFG_STAT.source := by
  rw [State.setLoad_fget, State.fget_fset_apart (f := CFG_STAT.loading) (g := CFG_STAT.source) _ _ rfl (by decide) (by decide)]

/-- A load that begins: its source and its presence are shown (R528, R532). -/
def State.loadBegun (s : State) (src q : Nat) (bytes : List Byte) : State :=
  (s.fset CFG_STAT.source src).setLoad (some (Load.start src q bytes (s.fget HQE_STAT.dev_state)))

/-- The TAP leaves `CFG_ERR_N` as it is; the other sources release it. -/
theorem State.beginLoad_eq (s : State) (src q : Nat) (bytes : List Byte) : s.beginLoad src q bytes =
    { s.loadBegun src q bytes with cfg := { (s.loadBegun src q bytes).cfg with errN := decide (src ≠ 3) || s.cfg.errN } } := by
  unfold State.beginLoad State.loadBegun
  dsimp only
  by_cases htap : src = 3
  · rw [if_pos htap]
    simp [htap, State.setLoad]
  · rw [if_neg htap]
    simp [htap]

theorem State.beginLoad_cfg (s : State) (src q : Nat) (bytes : List Byte) : (s.beginLoad src q bytes).cfg =
    { s.cfg with load := some (Load.start src q bytes (s.fget HQE_STAT.dev_state)), errN := decide (src ≠ 3) || s.cfg.errN } := by
  rw [State.beginLoad_eq]
  rfl

theorem State.beginLoad_regsOnly (s : State) (src q : Nat) (bytes : List Byte) : s.RegsOnly [CFG_STAT] (s.beginLoad src q bytes) := by
  have hsource : s.RegsOnly [CFG_STAT] (s.fset CFG_STAT.source src) := .fset (by decide) (.of_regs rfl)
  rw [State.beginLoad_eq]
  exact (hsource.trans (State.setLoad_regsOnly _ _)).trans (.of_regs rfl)

theorem State.beginLoad_loading (s : State) (src q : Nat) (bytes : List Byte) : (s.beginLoad src q bytes).fget CFG_STAT.loading = 1 := by
  rw [State.beginLoad_eq, State.fget_withCfg, State.loadBegun, State.setLoad_loading]

theorem State.beginLoad_source (s : State) {src : Nat} (q : Nat) (bytes : List Byte) (hsrc : src < 4) :
    (s.beginLoad src q bytes).fget CFG_STAT.source = src := by
  rw [State.beginLoad_eq, State.fget_withCfg, State.loadBegun, State.setLoad_source, State.fget_fset _ _ (by decide)]
  exact Nat.mod_eq_of_lt hsrc

/-! ### Sessions and shifts -/

theorem exec_push_of_idle {s : State} {par : Bool} (bytes : List Byte) (hon : s.cfgOn = true) (hmode : s.fget CFG_STAT.cfg_mode = b2n par)
    (hload : s.cfg.load = none) (hend : s.cfg.chainEnd = none) : exec (.push par bytes) s = .next (s.beginLoad (b2n par) 0 bytes) := by
  change execPush par bytes s = _
  unfold execPush
  rw [if_neg (by simp [hon, hmode]), if_neg (by simp [hload, hend])]

theorem exec_push_of_busy {s : State} {par : Bool} (bytes : List Byte) (hon : s.cfgOn = true) (hmode : s.fget CFG_STAT.cfg_mode = b2n par)
    (hload : s.cfg.load.isSome = true) : exec (.push par bytes) s = .next { s with answer := some ⟨stBusy, [], false⟩ } := by
  change execPush par bytes s = _
  unfold execPush
  rw [if_neg (by simp [hon, hmode]), if_pos (by simp [hload])]

theorem exec_stat_of_port {s : State} (hon : s.cfgOn = true) (hport : s.fget CFG_STAT.cfg_mode < 2) :
    exec .stat s = .next { s with answer := some ⟨stDone, s.statusWord, false⟩ } := by
  change execStat s = _
  unfold execStat
  rw [if_neg (by simp [hon]; omega)]

/-- The state in which `CFG_LOAD` has been selected and the status word of `s` scanned out (R540, R728). -/
def State.cfgScanned (s v : State) : State :=
  { v with dbg := { v.dbg with ir := 0x14 }, answer := some ⟨stDone, leBytes 1 v.irCapture ++ s.statusWord, false⟩ }

theorem State.cfgScanned_fget (s v : State) (f : Fld) : (s.cfgScanned v).fget f = v.fget f := State.fget_congr rfl f

theorem State.cfgScanned_keeps (s v : State) : Keeps [.dbg, .answer] v (s.cfgScanned v) := by
  unfold State.cfgScanned
  exact Keeps.upd_dbg_answer rfl Keeps.refl

section
variable {s : State} (hmay : s.mayExtest = true) (hon : s.cfgOn = true) (hbound : s.dbg.boundary = none)
include hmay hon hbound

theorem exec_cfgLoad_first (bytes : List Byte) (hload : s.cfg.load = none) (hend : s.cfg.chainEnd = none) :
    exec (.cfgLoad bytes) s = .next (s.cfgScanned (s.beginLoad 3 0 bytes)) := by
  have hscan := State.selectIr_of_no_boundary (s := s.beginLoad 3 0 bytes) hbound 0x14 stDone s.statusWord
  change execCfgLoad bytes s = _
  unfold execCfgLoad
  rw [if_neg (by simp [hmay]), if_neg (by simp [hon]), hload]
  dsimp only
  rw [if_neg (by simp [hend]), hscan, State.cfgScanned]

theorem exec_cfgLoad_later {l : Load} (bytes : List Byte) (hload : s.cfg.load = some l) (hsrc : l.src = 3) (hstage : l.stage < 3) :
    exec (.cfgLoad bytes) s =
      .next (s.cfgScanned (s.setLoad (some { l with inbox := l.inbox ++ bytes, got := l.got + bytes.length }))) := by
  have hscan := State.selectIr_of_no_boundary
    (s := s.setLoad (some { l with inbox := l.inbox ++ bytes, got := l.got + bytes.length })) hbound 0x14 stDone s.statusWord
  change execCfgLoad bytes s = _
  unfold execCfgLoad
  rw [if_neg (by simp [hmay]), if_neg (by simp [hon]), hload]
  dsimp only
  rw [if_pos ⟨hsrc, hstage⟩, hscan, State.cfgScanned]

end

/-! ### Chains of the host -/

/-- A load with one more piece of its chain; a piece without `cont` is the last (R536). -/
def Load.withPiece (l : Load) (bytes : List Byte) (cont : Bool) : Load :=
  { l with inbox := (if l.stage ≤ 1 then l.inbox ++ bytes else l.inbox), got := l.got + bytes.length, ended := !cont }

/-- A chain's first piece is all that its load has received. -/
theorem Load.start_withPiece (src q : Nat) (bytes : List Byte) (prior : Nat) :
    (Load.start src q [] prior).withPiece bytes true = Load.start src q bytes prior := by simp [Load.withPiece, Load.start]

theorem State.endJob_regsOnly (s : State) (q k status detail result : Nat) : s.RegsOnly [HQE_ERR, HQE_QCTL] (s.endJob q k status detail result) :=
  (s.dropJob_regsOnly _ _ _ _ _).trans (State.settleQueue_regsOnly _ _ _)

/-- A piece for the load under way reaches it; its descriptor then completes, or waits for the outcome (R538). -/
theorem State.chainPiece_of_load {s : State} {l : Load} (q k : Nat) (j : Job) (bytes : List Byte) (hload : s.cfg.load = some l)
    (hend : s.cfg.chainEnd = none) :
    (s.setLoad (some (l.withPiece bytes (bit (Desc.w1 j.desc) 0)))).RegsOnly [HQE_ERR, HQE_QCTL] (s.chainPiece q k j bytes) ∧
      (s.chainPiece q k j bytes).cfg = { s.cfg with load := some (l.withPiece bytes (bit (Desc.w1 j.desc) 0)) } := by
  have hload' : (s.setQueue q { s.queue q with chain := bit (Desc.w1 j.desc) 0 }).cfg.load = some l := hload
  unfold State.chainPiece
  rw [hend]
  dsimp only
  rw [hload']
  dsimp only
  split
  · exact ⟨State.RegsOnly.trans (.of_regs rfl) (State.endJob_regsOnly _ _ _ _ _ _), (State.endJob_keeps ..).only .cfg (by decide)⟩
  · exact ⟨.of_regs ((State.mgmtWait_keeps ..).only .regs (by decide)), (State.mgmtWait_keeps ..).only .cfg (by decide)⟩

section
variable {s : State} {q : QueueIx} {k : Nat} {j : Job} {b : List Byte} (ep : Bool) (hstart : s.Started q.val 0x50 k j)
  (hclear : Desc.clear j.desc true false true false = true) (hw1 : Desc.w1 j.desc < 2) (hlen : 1 ≤ Desc.len j.desc)
  (hbytes : b.length = Desc.len j.desc)
include hstart hclear hw1 hlen hbytes

/-- The first piece of a container opens a chain and begins a load (R536, R537). -/
theorem exec_loadImage_first (hchain : (s.queue q.val).chain = false) (hlegal : s.legalState 0x50 = true) (hload : s.cfg.load = none)
    (hend : s.cfg.chainEnd = none) (hmode : s.fget CFG_STAT.cfg_mode ≠ 3) (hon : s.cfgOn = true) :
    exec (.loadImage q (.data b ep)) s = .next ((s.clearOut.beginLoad 2 q.val []).chainPiece q.val k j b) := by
  refine congrArg Host.Outcome.next ?_
  unfold State.loadImage
  rw [hstart.job]
  dsimp only
  rw [if_neg (by simp [hclear, hw1, hlen]), if_neg (by simp [hlegal]), if_neg (by simp [hload, hend]), if_neg (by simp [hmode, hon]),
    if_neg (by simp [hbytes]), if_neg (by simp [hchain])]

/-- A further piece goes to the chain that is open on its queue (R537). -/
theorem exec_loadImage_later (hchain : (s.queue q.val).chain = true) :
    exec (.loadImage q (.data b ep)) s = .next (s.clearOut.chainPiece q.val k j b) := by
  refine congrArg Host.Outcome.next ?_
  unfold State.loadImage
  rw [hstart.job]
  dsimp only
  rw [if_neg (by simp [hclear, hw1, hlen]), if_neg (by simp [hchain]), if_neg (by simp [hchain]), if_neg (by simp [hchain]),
    if_neg (by simp [hbytes]), if_pos hchain]

end

theorem b2n_lt_two (b : Bool) : b2n b < 2 := by cases b <;> decide

/-- Settles O20: every source begins its load with `beginLoad` or appends its bytes to the load under way, and a session that meets a load is
answered alone. -/
theorem imageSources : Obligations.ImageSources := by
  unfold Obligations.ImageSources
  refine ⟨?push, ?busy, ?stat, ?tapFirst, ?tapLater, ?hostFirst, ?hostLater⟩
  case push =>
    intro s par bytes hon hmode hload hend
    have hpar := b2n_lt_two par
    refine Runs.of (exec_push_of_idle bytes hon hmode hload hend) (State.beginLoad_keeps ..) ⟨State.beginLoad_regsOnly _ _ _ _,
      State.beginLoad_loading .., State.beginLoad_source _ _ _ (by omega), ?_⟩
    rw [State.beginLoad_cfg, decide_eq_true (by omega : b2n par ≠ 3), Bool.true_or]
  case busy =>
    exact fun s par bytes hon hmode hload => Runs.of (exec_push_of_busy bytes hon hmode hload) (Keeps.upd_answer rfl Keeps.refl) rfl
  case stat =>
    exact fun s hon hport => Runs.of (exec_stat_of_port hon hport) (Keeps.upd_answer rfl Keeps.refl)
      ⟨_, rfl, s.statusWord_length, s.statusWord_status⟩
  case tapFirst =>
    intro s bytes hmay hon hbound hload hend
    exact Runs.of (exec_cfgLoad_first hmay hon hbound bytes hload hend)
      ((s.cfgScanned_keeps _).via rfl ((State.beginLoad_keeps ..).via rfl Keeps.refl))
      ⟨(s.beginLoad_regsOnly 3 0 bytes).trans (.of_regs rfl), (s.cfgScanned_fget ..).trans (s.beginLoad_loading ..),
        (s.cfgScanned_fget ..).trans (s.beginLoad_source _ _ (by decide)), s.beginLoad_cfg 3 0 bytes, rfl, _, rfl⟩
  case tapLater =>
    intro s bytes l hmay hon hbound hload hsrc hstage
    exact Runs.of (exec_cfgLoad_later hmay hon hbound bytes hload hsrc hstage)
      ((s.cfgScanned_keeps _).via rfl ((State.setLoad_keeps ..).via rfl Keeps.refl))
      ⟨State.RegsOnly.trans (s.setLoad_regsOnly _) (.of_regs rfl), rfl, rfl, _, rfl⟩
  case hostFirst =>
    intro s q k j b ep hstart hclear hw1 hlen hbytes hchain hlegal hload hend hmode hon
    have hbegun := s.clearOut.beginLoad_cfg 2 q.val []
    obtain ⟨hregs, hcfg⟩ := State.chainPiece_of_load q.val k j b (congrArg Cfg.load hbegun) ((congrArg Cfg.chainEnd hbegun).trans hend)
    refine Runs.of (exec_loadImage_first ep hstart hclear (by omega) hlen hbytes hchain hlegal hload hend hmode hon)
      ((State.chainPiece_keeps ..).via rfl ((State.beginLoad_keeps ..).via rfl (s.clearOut_keeps.via rfl Keeps.refl))) ⟨?_, ?_, ?_, ?_⟩
    · have hbegin : s.RegsOnly [CFG_STAT] (s.clearOut.beginLoad 2 q.val []) := s.clearOut.beginLoad_regsOnly 2 q.val []
      exact ((hbegin.trans (State.setLoad_regsOnly _ _)).mono (by simp)).trans (hregs.mono (by simp))
    · rw [hregs.fget (by decide), State.setLoad_loading]
    · rw [hregs.fget (by decide), State.setLoad_source, State.beginLoad_source _ _ _ (by decide)]
    · rw [hcfg, hbegun, hw1]
      exact congrArg (fun l => { s.cfg with load := some l, errN := true }) (Load.start_withPiece ..)
  case hostLater =>
    intro s q k j b ep l hstart hclear hw1 hlen hbytes hchain hload hstage hend
    obtain ⟨hregs, hcfg⟩ := State.chainPiece_of_load (s := s.clearOut) q.val k j b hload hend
    refine Runs.of (exec_loadImage_later ep hstart hclear hw1 hlen hbytes hchain)
      ((State.chainPiece_keeps ..).via rfl (s.clearOut_keeps.via rfl Keeps.refl)) ⟨?_, ?_⟩
    · exact ((s.clearOut.setLoad_regsOnly _).mono (by simp)).trans (hregs.mono (by simp))
    · rw [hcfg, Load.withPiece, if_pos hstage]
      rfl

/-- A powered device in BLANK that accepts images under strap `mode`, its last load incomplete, with the load `l` under way and, as the first
descriptor of queue 1, a `LOAD_IMAGE` of two bytes with `cont` as its dw1, in a chain that is open or not. -/
def acceptingImages (mode : Nat) (l : Option Load) (cont : Nat) (chain : Bool) : State :=
  State.fset (State.fset { State.reset with
      cfg := { Cfg.fresh with ready := true, load := l }
      hqe := { Hqe.fresh with queues :=
        [(1, some { Queue.reset 1 with state := qEnabled, run := [Job.start ⟨0x50, cont, 0, 0, 0, 0, 2, 0⟩ 0], chain := chain })] } }
    CFG_STAT.cfg_mode mode) CFG_STAT.last_status stImageIncomplete

/-- A load of `src` at stage `stage` that has received one byte. -/
def startedLoad (src stage : Nat) : Load := { Load.start src 1 [0x42] 0 with stage := stage }

theorem acceptingImages_halted (mode : Nat) (l : Option Load) (cont : Nat) (chain : Bool) : (acceptingImages mode l cont chain).halted = false := by
  have hreset : State.reset.fget SEC_HALT_CAUSE.active = 0 := by decide +kernel
  have hregs : State.reset.RegsOnly [CFG_STAT] (acceptingImages mode l cont chain) := .fset (by decide) (.fset (by decide) (.of_regs rfl))
  rw [State.halted, State.fbit, hregs.fget (by decide), hreset]
  rfl

theorem acceptingImages_started (mode : Nat) (l : Option Load) (cont : Nat) (chain : Bool) :
    (acceptingImages mode l cont chain).Started 1 0x50 0 (Job.start ⟨0x50, cont, 0, 0, 0, 0, 2, 0⟩ 0) where
  job := by
    rw [State.mgmtJob, acceptingImages_halted]
    rfl
  mine := rfl
  open_ := .inl rfl
  stays := rfl

/-- States that meet the hypotheses of O20, clause by clause. -/
theorem imageSources_witness :
    (∃ u, exec (.push true [0x42]) (acceptingImages 1 none 1 false) = .next u ∧ u.fget CFG_STAT.source = 1 ∧ u.cfg.errN = true) ∧
    (∃ u, exec (.push false []) (acceptingImages 0 (some (startedLoad 3 0)) 1 false) = .next u ∧ u.answer = some ⟨stBusy, [], false⟩) ∧
    (∃ u, exec .stat (acceptingImages 1 none 1 false) = .next u ∧ ∃ w, u.answer = some ⟨stDone, w, false⟩ ∧ leAt w 0 1 = stImageIncomplete) ∧
    (∃ u, exec (.cfgLoad [0x42]) (acceptingImages 3 none 1 false) = .next u ∧ u.fget CFG_STAT.source = 3 ∧ u.cfg.errN = false) ∧
    (∃ u, exec (.cfgLoad [0x4C]) (acceptingImages 3 (some (startedLoad 3 2)) 1 false) = .next u ∧
      u.cfg.load.map Load.inbox = some [0x42, 0x4C]) ∧
    (∃ u, exec (.loadImage 1 (.data [0x42, 0x4C] true)) (acceptingImages 2 none 1 false) = .next u ∧ u.fget CFG_STAT.source = 2 ∧
      u.cfg.errN = true) ∧
    (∃ u, exec (.loadImage 1 (.data [0x4C, 0x56] false)) (acceptingImages 2 (some (startedLoad 2 1)) 0 true) = .next u ∧
      u.cfg.load.map Load.inbox = some [0x42, 0x4C, 0x56] ∧ u.cfg.load.map Load.ended = some true) := by
  obtain ⟨push, busy, stat, tapFirst, tapLater, hostFirst, hostLater⟩ := imageSources
  obtain ⟨u1, h1, ⟨-, -, s1, c1⟩, -⟩ := push (acceptingImages 1 none 1 false) true [0x42] (by decide +kernel) (by decide +kernel) rfl rfl
  obtain ⟨u2, h2, a2, -⟩ := busy (acceptingImages 0 (some (startedLoad 3 0)) 1 false) false [] (by decide +kernel) (by decide +kernel) rfl
  obtain ⟨u3, h3, ⟨w3, a3, -, l3⟩, -⟩ := stat (acceptingImages 1 none 1 false) (by decide +kernel) (by decide +kernel)
  obtain ⟨u4, h4, ⟨-, -, s4, c4, -⟩, -⟩ := tapFirst (acceptingImages 3 none 1 false) [0x42] (by decide +kernel) (by decide +kernel) rfl rfl rfl
  obtain ⟨u5, h5, ⟨-, c5, -⟩, -⟩ := tapLater (acceptingImages 3 (some (startedLoad 3 2)) 1 false) [0x4C] _ (by decide +kernel) (by decide +kernel)
    rfl rfl rfl (by decide)
  obtain ⟨u6, h6, ⟨-, -, s6, c6⟩, -⟩ := hostFirst (acceptingImages 2 none 1 false) 1 0 _ [0x42, 0x4C] true
    (acceptingImages_started 2 none 1 false) (by decide) (by decide) (by decide) (by decide) rfl (by decide +kernel) rfl rfl
    (by decide +kernel) (by decide +kernel)
  obtain ⟨u7, h7, ⟨-, c7⟩, -⟩ := hostLater (acceptingImages 2 (some (startedLoad 2 1)) 0 true) 1 0 _ [0x4C, 0x56] false _
    (acceptingImages_started 2 _ 0 true) (by decide) (by decide) (by decide) (by decide) rfl rfl (by decide) rfl
  exact ⟨⟨u1, h1, s1, congrArg Cfg.errN c1⟩, ⟨u2, h2, a2⟩, ⟨u3, h3, w3, a3, l3.trans (by decide +kernel)⟩, ⟨u4, h4, s4, congrArg Cfg.errN c4⟩,
    ⟨u5, h5, congrArg (fun c => c.load.map Load.inbox) c5⟩, ⟨u6, h6, s6, congrArg Cfg.errN c6⟩,
    ⟨u7, h7, congrArg (fun c => c.load.map Load.inbox) c7, congrArg (fun c => c.load.map Load.ended) c7⟩⟩

end Sys2Proof.Machine
end

section
/-! SUPPORT. Headers that pass and loads that fail (R533, R548, R552, R554, R558, R560). -/

namespace Sys2Proof.Machine

/-! ### The device state -/

theorem State.setDev_regsOnly (s : State) (n : Nat) : s.RegsOnly [CFG_STAT, HQE_STAT] (s.setDev n) :=
  .fset (by decide) (.fset (by decide) (.of_regs rfl))

/-- The device state shows in `HQE_STAT` and in `CFG_STAT` (R433, R564). -/
theorem State.setDev_fget (s : State) {n : Nat} (hn : n < 8) :
    (s.setDev n).fget HQE_STAT.dev_state = n ∧ (s.setDev n).fget CFG_STAT.dev_state = n := by
  unfold State.setDev
  rw [State.fget_fset_ne _ _ (by decide), State.fget_fset _ _ (by decide), State.fget_fset _ _ (by decide)]
  exact ⟨Nat.mod_eq_of_lt hn, Nat.mod_eq_of_lt hn⟩

/-! ### The body begins -/

/-- A load whose header `h` has passed: its body is next (R533). -/
def Load.inBody (l : Load) (h : List Byte) : Load :=
  { l with hdr := h, inbox := l.inbox.drop 4096, used := 4096, segs := leAt h 0x100 4, stage := 1 }

theorem State.beginBody_full (s : State) (l : Load) {h : List Byte} (hfull : hdrPartial h = false) :
    s.beginBody l h = (s.setDev 1).setLoad (some (l.inBody h)) := by
  unfold State.beginBody
  dsimp only
  rw [if_neg (by simp [hfull])]
  rfl

theorem State.beginBody_spare (s : State) (l : Load) {h : List Byte} (hpart : hdrPartial h = true) (hplace : hdrInPlace h = false) :
    s.beginBody l h = ((s.wipeTin (s.tinOf (hdrDie h) 12)).setTinState (s.tinOf (hdrDie h) 12) tsLoading).setLoad (some (l.inBody h)) := by
  have htarget : s.partialTin h = s.tinOf (hdrDie h) 12 := by simp [State.partialTin, hplace]
  unfold State.beginBody
  dsimp only
  rw [if_pos hpart, if_neg (by simp [hplace]), htarget]
  rfl

/-- Outside RUNNING a full image is legal (R539). -/
theorem State.hdrStop8_full {s : State} {h : List Byte} (hfull : hdrPartial h = false) (hdev : s.fget HQE_STAT.dev_state ≠ 3) :
    s.hdrStop8 h = none := by simp [State.hdrStop8, hfull, hdev]

/-- In RUNNING a partial image may go to a spare that is free (R539, R558). -/
theorem State.hdrStop8_spare {s : State} {h : List Byte} (hpart : hdrPartial h = true) (hplace : hdrInPlace h = false)
    (hdev : s.fget HQE_STAT.dev_state = 3) (hspare : s.tinState (s.tinOf (hdrDie h) 12) = tsSpare) : s.hdrStop8 h = none := by
  simp [State.hdrStop8, hpart, hplace, hdev, hspare, tsSpare, tsRetired, tsTesting, tsLoading, tsLoaded]

theorem State.clearOut_hdrStop47 (s : State) (h : List Byte) (key : Option (Fin 4)) (sig : Bool) :
    s.clearOut.hdrStop47 h key sig = s.hdrStop47 h key sig := rfl

theorem State.clearOut_hdrStop8 (s : State) (h : List Byte) : s.clearOut.hdrStop8 h = s.hdrStop8 h := rfl

theorem State.clearOut_tinOf (s : State) (d r : Nat) : s.clearOut.tinOf d r = s.tinOf d r := rfl

section
variable {s : State} {l : Load} (key : Option (Fin 4)) (sig : Bool) (hload : s.cfg.load = some l) (hstage : l.stage = 0) (hhalt : s.halted = false)
include hload hstage hhalt

/-- A header that passes every check, of an image that is not the golden attempt, starts the body (R548). -/
theorem exec_headerAuthenticated_of_ok {h : List Byte} (hh : h = l.inbox.take 4096) (hlen : h.length = 4096) (h12 : hdrStop12 h = none)
    (h3 : hdrStop3 h = none) (hgold : (l.prior == 2 && !hdrPartial h) = false) (h47 : s.hdrStop47 h key sig = none)
    (h8 : s.hdrStop8 h = none) : exec (.headerAuthenticated key sig) s = .next (s.clearOut.beginBody { l with golden := false } h) := by
  have hinbox : 4096 ≤ l.inbox.length := by
    rw [hh, List.length_take] at hlen
    omega
  change execHeaderAuthenticated key sig s = _
  unfold execHeaderAuthenticated
  rw [hload]
  dsimp only
  rw [if_neg (by simp [hstage, hhalt]; omega), ← hh, h12]
  dsimp only
  rw [if_neg (by omega), h3]
  dsimp only
  simp only [hgold, Bool.false_eq_true, if_false, State.clearOut_hdrStop47, h47, State.clearOut_hdrStop8, h8]

/-- A header that fails step 1 or 2 ends its load (R548). -/
theorem exec_headerAuthenticated_of_stop12 {st off : Nat} (hinbox : 16 ≤ l.inbox.length)
    (h12 : hdrStop12 (l.inbox.take 4096) = some (st, off)) :
    exec (.headerAuthenticated key sig) s = .next (s.clearOut.loadFail l st 0 off) := by
  change execHeaderAuthenticated key sig s = _
  unfold execHeaderAuthenticated
  rw [hload]
  dsimp only
  rw [if_neg (by simp [hstage, hhalt]; omega), h12]

end

/-! ### Failures -/

theorem Load.head_of_hdr {l : Load} (h : l.hdr ≠ []) : l.head = l.hdr := by simp [Load.head, h]

theorem Load.head_of_no_hdr {l : Load} (h : l.hdr = []) : l.head = l.inbox.take 4096 := by simp [Load.head, h]

/-- The outcome of a load that no host chain brings is shown, and that is all. -/
theorem State.loadOutcome_of_port (s : State) {l : Load} (st detail off : Nat) (hsrc : l.src ≠ 2) :
    s.loadOutcome l st detail off = s.outcomeShown st off := if_pos hsrc

theorem State.outcomeShown_cfg (s : State) (st off : Nat) : (s.outcomeShown st off).cfg = { s.cfg with load := none, errN := stOk st } := rfl

/-- A full image for another device requests no fallback (R554). -/
theorem State.loadFail_wrongDevice (s : State) {l : Load} (detail off : Nat) (hkind : hdrKind l.head ≠ 2) :
    s.loadFail l stImageWrongDevice detail off =
      (s.post 0x0A01 0 none 0 stImageWrongDevice (off % 2 ^ 32)).loadOutcome l stImageWrongDevice detail off := by
  unfold State.loadFail
  dsimp only
  rw [if_neg hkind, if_pos (.inl rfl)]

/-- A full image that ends early keeps its failure until the fabric is wiped (R554, R555). -/
theorem State.loadFail_incomplete (s : State) {l : Load} (detail off : Nat) (hkind : hdrKind l.head ≠ 2) (hprior : l.prior ≠ 2) :
    s.loadFail l stImageIncomplete detail off = (s.post 0x0A01 0 none 0 stImageIncomplete (off % 2 ^ 32)).setLoad
      (some { l with stage := 3, fail := (stImageIncomplete, detail, off) }) := by
  unfold State.loadFail
  dsimp only
  rw [if_neg hkind, if_neg (by simp [hprior, stImageIncomplete, stImageWrongDevice, stWrongState])]

section
variable {s : State} {l : Load} (hload : s.cfg.load = some l) (hhalt : s.halted = false) (hshort : l.short = true) (hstage : l.stage = 1)
include hload hhalt hshort hstage

/-- Within the body an early end is IMAGE_INCOMPLETE at the bytes received (R554). -/
theorem State.earlyEnd_of_body : s.earlyEnd = s.clearOut.loadFail l stImageIncomplete 0 l.got := by
  unfold State.earlyEnd
  rw [hload]
  dsimp only
  rw [if_neg (by simp [hshort, hhalt]), if_neg (by simp [hstage])]

theorem exec_earlyEnd_of_body (hended : l.src = 2 → l.ended = true) :
    exec .earlyEnd s = .next (s.clearOut.loadFail l stImageIncomplete 0 l.got) := by
  change execEarlyEnd s = _
  unfold execEarlyEnd
  rw [hload]
  dsimp only
  rw [if_neg (by simpa using hended), State.earlyEnd_of_body hload hhalt hshort hstage]

theorem exec_cfgIdleTimeout_of_body (hsrc : l.src ≠ 3) : exec .cfgIdleTimeout s = .next (s.clearOut.loadFail l stImageIncomplete 0 l.got) := by
  change execCfgIdleTimeout s = _
  unfold execCfgIdleTimeout
  rw [hload]
  dsimp only
  rw [if_neg hsrc, State.earlyEnd_of_body hload hhalt hshort hstage]

end

end Sys2Proof.Machine
end

section
/-! SUPPORT. The wiped fabric, the fallback and the safe shell (R555–R557). -/

namespace Sys2Proof.Machine

/-! ### The wiped fabric -/

/-- The fabric holds no design: no frame, no connection, no kept copy and no operation on a role (R555). -/
structure State.FabricBlank (s : State) : Prop where
  ring : s.ring = []
  kept : s.kept = []
  dieCopy : s.dieCopy = []
  ops : s.spr.ops = []
  frames : ∀ t, t < 104 → (s.tin t).frames = []

/-- The parts that the outcome of a load is shown in hold nothing of the fabric. -/
theorem State.FabricBlank.of_keeps {s u : State} (h : s.FabricBlank) (k : Keeps [.regs, .events, .hqe, .cfg] s u) : u.FabricBlank where
  ring := (k.only .ring (by decide)).trans h.ring
  kept := (k.only .kept (by decide)).trans h.kept
  dieCopy := (k.only .dieCopy (by decide)).trans h.dieCopy
  ops := (congrArg Spr.ops (k.only .spr (by decide))).trans h.ops
  frames := fun t ht => (congrArg Tin.frames (State.tin_congr (k.only .tins (by decide)) t)).trans (h.frames t ht)

/-- The wipe's turn at tin `t`: a tin that is not blank is wiped, and a tin of a design goes back to where it has none. -/
def State.wipeTurn (s : State) (t : Nat) : State :=
  let b := if s.tin t = Tin.blank then s else s.wipeTin t
  if b.tinState t = tsStopped ∨ b.tinState t = tsFrozen then b.setTinState t tsInService
  else if b.tinState t = tsLoading ∨ b.tinState t = tsLoaded then b.setTinState t (if b.roleOf t = 12 then tsSpare else tsInService) else b

/-- A turn for every tin of the device. -/
def State.wipeTurns (s : State) : State := (List.range 104).foldl State.wipeTurn s

theorem State.wipeFabric_eq (s : State) : s.wipeFabric =
    { s.wipeTurns with ring := [], kept := [], dieCopy := [], spr := { s.wipeTurns.spr with ops := [], retry := [], waitCopy := [] } } := rfl

/-- A turn writes no tin but by the wipe. -/
theorem State.wipeTurn_tins (s : State) (t : Nat) : (s.wipeTurn t).tins = (if s.tin t = Tin.blank then s else s.wipeTin t).tins := by
  unfold State.wipeTurn State.setTinState
  generalize (if s.tin t = Tin.blank then s else s.wipeTin t) = b
  dsimp only
  split
  · exact State.fset_tins ..
  · split
    · exact State.fset_tins ..
    · rfl

/-- A turn leaves its tin without frames, and every tin that had none. -/
theorem State.wipeTurn_frames (s : State) {t j : Nat} (h : j = t ∨ (s.tin j).frames = []) : ((s.wipeTurn t).tin j).frames = [] := by
  rw [State.tin_congr (s.wipeTurn_tins t)]
  split
  case isTrue hblank => exact h.elim (fun hj => by rw [hj, hblank]; rfl) id
  case isFalse =>
    rw [State.wipeTin, State.tin_setTin]
    split
    case isTrue => rfl
    case isFalse hne => exact h.resolve_left hne

theorem State.wipeFabric_blank (s : State) : s.wipeFabric.FabricBlank := by
  rw [State.wipeFabric_eq]
  have hframes : ∀ t, t < 104 → (s.wipeTurns.tin t).frames = [] := fun t ht =>
    foldl_of_mem (P := fun a : State => (a.tin t).frames = []) (List.mem_range.mpr ht) (fun a => a.wipeTurn_frames (.inl rfl))
      (fun a _ ha => a.wipeTurn_frames (.inr ha)) s
  exact ⟨by dsimp only, by dsimp only, by dsimp only, by dsimp only, hframes⟩

/-! ### The safe shell -/

/-- In SAFE_SHELL no fallback is requested; `CFG_ERR_N` falls at the entry (R557). -/
theorem State.enterSafeShell_regs (s : State) : s.enterSafeShell.fget HQE_STAT.dev_state = 4 ∧ s.enterSafeShell.fget CFG_STAT.fallback_req = 0 ∧
    s.RegsOnly [CFG_STAT, HQE_STAT] s.enterSafeShell := by
  have hreq : (s.fset CFG_STAT.fallback_req 0).fget CFG_STAT.fallback_req = 0 := by
    rw [State.fget_fset _ _ (by decide)]
    rfl
  have hregs : s.RegsOnly [CFG_STAT, HQE_STAT] (s.fset CFG_STAT.fallback_req 0) := .fset (by decide) (.of_regs rfl)
  unfold State.enterSafeShell
  dsimp only
  split
  · next hshell => exact ⟨hshell, hreq, hregs⟩
  · refine ⟨?_, ?_, (hregs.trans (State.setDev_regsOnly _ _)).trans (.of_regs rfl)⟩
    · rw [State.post_fget, State.fget_withCfg, (State.setDev_fget _ (by decide)).1]
    · rw [State.post_fget, State.fget_withCfg, State.setDev, State.fget_fset_apart (f := CFG_STAT.dev_state) (g := CFG_STAT.fallback_req) _ _ rfl
        (by decide) (by decide), State.fget_fset_ne _ _ (by decide), hreq]

theorem State.enterSafeShell_load (s : State) : s.enterSafeShell.cfg.load = s.cfg.load := by
  unfold State.enterSafeShell
  dsimp only
  split <;> rfl

theorem State.enterSafeShell_cfg {s : State} (h : s.fget HQE_STAT.dev_state ≠ 4) : s.enterSafeShell.cfg = { s.cfg with errN := false } := by
  have hdev : (s.fset CFG_STAT.fallback_req 0).fget HQE_STAT.dev_state ≠ 4 := by rwa [State.fget_fset_ne _ _ (by decide)]
  unfold State.enterSafeShell
  dsimp only
  rw [if_neg hdev]
  rfl

/-! ### The fallback -/

theorem State.goldenAddr_congr {s t : State} (hbread : t.breadbox = s.breadbox) (hfuses : t.fuses = s.fuses) : t.goldenAddr = s.goldenAddr := by
  unfold State.goldenAddr
  rw [hbread, hfuses]

/-- The device once the fabric is wiped and the failure of the load has been shown (R555). -/
def State.wipeShown (s : State) (l : Load) : State := s.clearOut.wipeFabric.loadOutcome l l.fail.1 l.fail.2.1 l.fail.2.2

theorem State.wipeShown_blank (s : State) (l : Load) : (s.wipeShown l).FabricBlank :=
  s.clearOut.wipeFabric_blank.of_keeps (State.loadOutcome_keeps ..)

theorem State.wipeShown_load (s : State) (l : Load) : (s.wipeShown l).cfg.load = none := (State.loadOutcome_frame ..).2

theorem State.wipeShown_keeps (s : State) (l : Load) :
    Keeps [.regs, .events, .tins, .ring, .kept, .dieCopy, .hqe, .cfg, .spr] s (s.wipeShown l) :=
  (State.loadOutcome_keeps ..).via rfl ((State.wipeFabric_keeps ..).via rfl (s.clearOut_keeps.via rfl Keeps.refl))

/-- The device falls back: the golden image is requested and not yet tried (R555). -/
def State.enterFallback (s : State) : State :=
  (((s.setDev 2).fset CFG_STAT.fallback_req 1).fset CFG_STAT.golden_tried 0).post 0x0A02 0 none 0 (s.goldenAddr % 2 ^ 32)
    (s.goldenAddr / 2 ^ 32 % 2 ^ 32)

theorem State.enterFallback_keeps (s : State) : Keeps [.regs, .events] s s.enterFallback :=
  (State.post_keeps ..).via rfl ((State.fset_keeps ..).via rfl ((State.fset_keeps ..).via rfl ((State.setDev_keeps ..).via rfl Keeps.refl)))

theorem State.enterFallback_fget (s : State) : s.enterFallback.fget HQE_STAT.dev_state = 2 ∧ s.enterFallback.fget CFG_STAT.fallback_req = 1 ∧
    s.enterFallback.fget CFG_STAT.golden_tried = 0 := by
  unfold State.enterFallback
  simp only [State.post_fget]
  refine ⟨?_, ?_, ?_⟩
  · rw [State.fget_fset_ne _ _ (by decide), State.fget_fset_ne _ _ (by decide), (State.setDev_fget _ (by decide)).1]
  · rw [State.fget_fset_apart (f := CFG_STAT.golden_tried) (g := CFG_STAT.fallback_req) _ _ rfl (by decide) (by decide),
      State.fget_fset _ _ (by decide)]
    rfl
  · rw [State.fget_fset _ _ (by decide)]
    rfl

section
variable {s : State} {l : Load} (hload : s.cfg.load = some l) (hstage : l.stage = 3) (hhalt : s.halted = false) (hprior : l.prior ≠ 4)
include hload hstage hhalt hprior

/-- A failed attempt that was not the golden one falls back to the golden image, where its address is known (R555). -/
theorem exec_fabricWipeDone_fallback (hgolden : l.golden = false) (haddr : s.goldenAddr ≠ 0) :
    exec .fabricWipeDone s = .next (s.wipeShown l).enterFallback := by
  have hkeeps := s.wipeShown_keeps l
  have haddr' : (s.wipeShown l).goldenAddr ≠ 0 := by
    rwa [State.goldenAddr_congr (hkeeps.only .breadbox (by decide)) (hkeeps.only .fuses (by decide))]
  change execFabricWipeDone s = _
  unfold execFabricWipeDone
  rw [hload]
  dsimp only
  rw [if_neg (by simp [hstage, hhalt])]
  exact if_neg (not_or.mpr ⟨by simp [hgolden], not_or.mpr ⟨hprior, haddr'⟩⟩)

/-- A failed golden attempt enters the safe shell (R556). -/
theorem exec_fabricWipeDone_shell (hgolden : l.golden = true) : exec .fabricWipeDone s = .next (s.wipeShown l).enterSafeShell := by
  change execFabricWipeDone s = _
  unfold execFabricWipeDone
  rw [hload]
  dsimp only
  rw [if_neg (by simp [hstage, hhalt]), if_pos (.inl hgolden), if_neg hprior]
  rfl

end

theorem exec_fallbackTimeout_of_waiting {s : State} (hdev : s.fget HQE_STAT.dev_state = 2) (htried : s.fbit CFG_STAT.golden_tried = false)
    (hload : s.cfg.load = none) (hhalt : s.halted = false) : exec .fallbackTimeout s = .next s.enterSafeShell := by
  change execFallbackTimeout s = _
  unfold execFallbackTimeout
  rw [if_pos (by simp [hdev, htried, hload, hhalt])]

/-- Settles O21: a header that passes starts the body, a failure is shown or waits for the wipe, and the wiped fabric goes to the fallback or to
the safe shell. -/
theorem imageHeadersAndFailures : Obligations.ImageHeadersAndFailures := by
  unfold Obligations.ImageHeadersAndFailures
  refine ⟨?full, ?spare, ?wrongDevice, ?early, ?fallback, ?shell, ?timeout⟩
  case full =>
    intro s key sig l h hload hstage hhalt hh hlen h12 h3 h47 hfull hdev hprior
    have hexec := exec_headerAuthenticated_of_ok key sig hload hstage hhalt hh hlen h12 h3 (by simp [hprior]) h47 (s.hdrStop8_full hfull hdev)
    rw [State.beginBody_full _ _ hfull] at hexec
    have hshown := State.setLoad_regsOnly (s.clearOut.setDev 1) (some (Load.inBody { l with golden := false } h))
    obtain ⟨hhqe, hcfg⟩ := s.clearOut.setDev_fget (n := 1) (by decide)
    refine Runs.of hexec ((State.setLoad_keeps ..).via rfl ((State.setDev_keeps ..).via rfl (s.clearOut_keeps.via rfl Keeps.refl))) ⟨?_, ?_, ?_, rfl⟩
    · exact (s.clearOut.setDev_regsOnly 1).trans (hshown.mono (by simp))
    · rw [hshown.fget (by decide), hhqe]
    · rw [State.setLoad_fget, State.fget_fset_apart (f := CFG_STAT.loading) (g := CFG_STAT.dev_state) _ _ rfl (by decide) (by decide), hcfg]
  case spare =>
    rintro s key sig l h t hload hstage hhalt hh hlen h12 h3 h47 hpart hplace rfl hdev hspare
    have hexec := exec_headerAuthenticated_of_ok key sig hload hstage hhalt hh hlen h12 h3 (by simp [hpart]) h47
      (s.hdrStop8_spare hpart hplace hdev hspare)
    rw [State.beginBody_spare _ _ hpart hplace, State.clearOut_tinOf] at hexec
    refine Runs.of hexec ((State.setLoad_keeps ..).via rfl ((State.setTinState_keeps ..).via rfl ((State.wipeTin_keeps ..).via rfl
      (s.clearOut_keeps.via rfl Keeps.refl)))) ⟨?_, ?_, ?_, rfl⟩
    · exact s.clearOut.setTin_tinOnly _ _
    · exact congrArg Tin.frames (s.clearOut.tin_setTin_self _ _)
    · rw [State.tinState, (State.setLoad_regsOnly _ _).fget (TIN_STAT_not_mem (by decide)), State.setTinState,
        State.fget_fset _ _ (TIN_STAT_state_fits _)]
      rfl
  case wrongDevice =>
    intro s key sig l off hload hstage hhalt hhdr hinbox h12 hkind hsrc
    have hhead := Load.head_of_no_hdr hhdr
    have hexec := exec_headerAuthenticated_of_stop12 key sig hload hstage hhalt hinbox h12
    rw [State.loadFail_wrongDevice _ _ _ (by rwa [hhead]), State.loadOutcome_of_port _ _ _ _ hsrc] at hexec
    refine Runs.keeps ⟨_, hexec, ?_⟩ fun u hu => ?_
    · rw [← State.loadOutcome_of_port _ stImageWrongDevice 0 off hsrc]
      exact (State.loadOutcome_keeps ..).via rfl ((State.post_keeps ..).via rfl (s.clearOut_keeps.via rfl Keeps.refl))
    · cases hexec.symm.trans hu
      refine ⟨?_, ?_, ?_⟩
      · rw [State.outcomeShown_fget, State.outcomeRegs_last_status]
        rfl
      · rw [State.outcomeShown_fget, State.outcomeRegs_fget _ _ _ (by decide), State.post_fget]
        rfl
      · exact State.outcomeShown_cfg ..
  case early =>
    intro s c l hload hhalt hshort hstage hhdr hkind hprior hc
    have hexec : exec c s = .next (s.clearOut.loadFail l stImageIncomplete 0 l.got) := by
      rcases hc with ⟨rfl, hended⟩ | ⟨rfl, hsrc⟩
      · exact exec_earlyEnd_of_body hload hhalt hshort hstage hended
      · exact exec_cfgIdleTimeout_of_body hload hhalt hshort hstage hsrc
    rw [State.loadFail_incomplete _ _ _ (by rwa [Load.head_of_hdr hhdr]) hprior] at hexec
    refine Runs.of hexec ((State.setLoad_keeps ..).via rfl ((State.post_keeps ..).via rfl (s.clearOut_keeps.via rfl Keeps.refl))) ⟨rfl, ?_⟩
    exact State.RegsOnly.trans (.of_regs rfl) (State.setLoad_regsOnly _ _)
  case fallback =>
    intro s l hload hstage hhalt hgolden hprior haddr
    have hkeeps := (s.wipeShown l).enterFallback_keeps
    have hblank := (s.wipeShown_blank l).of_keeps (hkeeps.via rfl Keeps.refl)
    obtain ⟨hdev, hreq, htried⟩ := (s.wipeShown l).enterFallback_fget
    exact Runs.of (exec_fabricWipeDone_fallback hload hstage hhalt hprior hgolden haddr) (hkeeps.via rfl (s.wipeShown_keeps l))
      ⟨hdev, hreq, htried, (congrArg Cfg.load (hkeeps.only .cfg (by decide))).trans (s.wipeShown_load l), hblank.ring, hblank.kept,
        hblank.dieCopy, hblank.ops, hblank.frames⟩
  case shell =>
    intro s l hload hstage hhalt hgolden hprior
    have hkeeps := (s.wipeShown l).enterSafeShell_keeps
    have hblank := (s.wipeShown_blank l).of_keeps (hkeeps.via rfl Keeps.refl)
    obtain ⟨hdev, hreq, -⟩ := (s.wipeShown l).enterSafeShell_regs
    exact Runs.of (exec_fabricWipeDone_shell hload hstage hhalt hprior hgolden) (hkeeps.via rfl (s.wipeShown_keeps l))
      ⟨hdev, hreq, (s.wipeShown l).enterSafeShell_load.trans (s.wipeShown_load l), hblank.ring, hblank.kept, hblank.dieCopy, hblank.frames⟩
  case timeout =>
    intro s hdev htried hload hhalt
    obtain ⟨hshell, hreq, hregs⟩ := s.enterSafeShell_regs
    exact Runs.of (exec_fallbackTimeout_of_waiting hdev htried hload hhalt) s.enterSafeShell_keeps
      ⟨hregs, hshell, hreq, State.enterSafeShell_cfg (by omega)⟩

/-! ### States that meet the hypotheses -/

/-- Bytes past the end of `l` read as the zeros that follow it. -/
theorem leAt_append_zeros (l : List Byte) (n : Nat) {lo : Nat} (len : Nat) (h : l.length ≤ lo) : leAt (l ++ List.replicate n 0) lo len = 0 := by
  have hzero : ∀ is : List Nat, leVal (is.map fun i => (l ++ List.replicate n 0).getD (lo + i) 0) = 0 := by
    intro is
    induction is with
    | nil => rfl
    | cons i is ih =>
      have hbyte : (l ++ List.replicate n (0 : Byte)).getD (lo + i) 0 = 0 := by
        rw [List.getD_eq_getElem?_getD, List.getElem?_append_right (by omega), List.getElem?_replicate]
        split
        · rfl
        · rfl
      rw [List.map_cons, leVal, hbyte, ih]
      rfl
  exact hzero _

/-- The first 264 bytes of the header of an image of `kind` for die 7 or, of a full one, for no die: 4256 bytes with one segment. -/
def passingFields (kind : Nat) : List Byte :=
  leBytes 264 (hdrMagic + 2 ^ 0x40 + kind * 2 ^ 0x50 + 0x54580896 * 2 ^ 0x60 + 4256 * 2 ^ 0x100 + 2 ^ 0x800 + (kind - 1) * 7 * 2 ^ 0x820)

/-- That header, without a key or a signature. -/
def passingHdr (kind : Nat) : List Byte := passingFields kind ++ List.replicate 3832 0

theorem passingHdr_length (kind : Nat) : (passingHdr kind).length = 4096 := by
  rw [passingHdr, List.length_append, passingFields, leBytes_length, List.length_replicate]

theorem passingHdr_zeros (kind : Nat) : leAt (passingHdr kind) 0x108 760 = 0 ∧ leAt (passingHdr kind) 0x460 2976 = 0 := by
  have hlen : (passingFields kind).length = 264 := leBytes_length ..
  exact ⟨leAt_append_zeros _ _ _ (by omega), leAt_append_zeros _ _ _ (by omega)⟩

theorem hdrStop3_passingHdr {kind : Nat} (h : kind = 1 ∨ kind = 2) : hdrStop3 (passingHdr kind) = none := by
  obtain ⟨hrsv, htail⟩ := passingHdr_zeros kind
  unfold hdrStop3
  rw [hrsv, htail]
  rcases h with rfl | rfl
  · decide +kernel
  · decide +kernel

/-- A device in device state `dev` with the load `l` under way and a golden address fused, whose tin 0 and free spare of
die 7, tin 103, hold the two control frames of a design. -/
def loadingIn (dev : Nat) (l : Option Load) : State :=
  State.fset (State.fset { State.reset with
    tins := [(0, plainTin), (103, plainTin)]
    fuses := { State.reset.fuses with golden := 0x4000000 }
    cfg := { Cfg.fresh with load := l } } (TIN_STAT.state 103) tsSpare) HQE_STAT.dev_state dev

/-- A load over the serial port whose header has come with the first byte after it. -/
def headerLoad (kind prior : Nat) : Load := Load.start 0 0 (passingHdr kind ++ [1]) prior

/-- A load whose header has passed and whose last byte is still to come. -/
def shortLoad (src : Nat) (ended : Bool) : Load :=
  { Load.start src 0 [] 0 with hdr := passingHdr 1, got := 4255, stage := 1, ended := ended }

/-- A load that has failed and waits for the wipe. -/
def failedLoad (prior : Nat) (golden : Bool) : Load :=
  { Load.start 1 0 [] prior with stage := 3, golden := golden, fail := (stImageIncomplete, 0, 4255) }

theorem headerLoad_take (kind prior : Nat) : passingHdr kind = (headerLoad kind prior).inbox.take 4096 :=
  (List.take_left' (passingHdr_length kind)).symm

/-- States that meet the hypotheses of O21, clause by clause. -/
theorem imageHeadersAndFailures_witness :
    (∃ u, exec (.headerAuthenticated none true) (loadingIn 0 (some (headerLoad 1 0))) = .next u ∧ u.fget HQE_STAT.dev_state = 1 ∧
      u.cfg.load.map Load.segs = some 1) ∧
    (∃ u, exec (.headerAuthenticated none true) (loadingIn 3 (some (headerLoad 2 3))) = .next u ∧ (u.tin 103).frames = [] ∧
      u.tinState 103 = tsLoading) ∧
    (∃ u, exec (.headerAuthenticated none true) (loadingIn 2 (some (Load.start 1 0 (leBytes 16 (hdrMagic + 2 ^ 0x40 + 2 ^ 0x50)) 2))) = .next u ∧
      u.fget CFG_STAT.last_status = stImageWrongDevice ∧ u.fget HQE_STAT.dev_state = 2) ∧
    (∃ u, exec .earlyEnd (loadingIn 1 (some (shortLoad 2 true))) = .next u ∧ u.cfg.load.map Load.fail = some (stImageIncomplete, 0, 4255)) ∧
    (∃ u, exec .cfgIdleTimeout (loadingIn 1 (some (shortLoad 0 false))) = .next u ∧ u.cfg.load.map Load.stage = some 3) ∧
    (∃ u, exec .fabricWipeDone (loadingIn 1 (some (failedLoad 0 false))) = .next u ∧ u.fget HQE_STAT.dev_state = 2 ∧ (u.tin 103).frames = []) ∧
    (∃ u, exec .fabricWipeDone (loadingIn 1 (some (failedLoad 2 true))) = .next u ∧ u.fget HQE_STAT.dev_state = 4 ∧ (u.tin 0).frames = []) ∧
    (∃ u, exec .fallbackTimeout (loadingIn 2 none) = .next u ∧ u.fget HQE_STAT.dev_state = 4) := by
  obtain ⟨full, spare, wrongDevice, early, fallback, shell, timeout⟩ := imageHeadersAndFailures
  obtain ⟨u1, h1, ⟨-, d1, -, c1⟩, -⟩ := full (loadingIn 0 (some (headerLoad 1 0))) none true _ _ rfl rfl (by decide +kernel)
    (headerLoad_take 1 0) (passingHdr_length 1) (by decide +kernel) (hdrStop3_passingHdr (.inl rfl)) (by decide +kernel) (by decide +kernel)
    (by decide +kernel) (by decide)
  obtain ⟨u2, h2, ⟨-, f2, s2, -⟩, -⟩ := spare (loadingIn 3 (some (headerLoad 2 3))) none true _ _ 103 rfl rfl (by decide +kernel)
    (headerLoad_take 2 3) (passingHdr_length 2) (by decide +kernel) (hdrStop3_passingHdr (.inr rfl)) (by decide +kernel) (by decide +kernel)
    (by decide +kernel) (by decide +kernel) (by decide +kernel) (by decide +kernel)
  obtain ⟨u3, h3, ⟨s3, d3, -⟩, -⟩ := wrongDevice (loadingIn 2 (some (Load.start 1 0 (leBytes 16 (hdrMagic + 2 ^ 0x40 + 2 ^ 0x50)) 2))) none true _
    0x0C rfl rfl (by decide +kernel) rfl (by decide +kernel) (by decide +kernel) (by decide +kernel) (by decide)
  obtain ⟨u4, h4, ⟨c4, -⟩, -⟩ := early (loadingIn 1 (some (shortLoad 2 true))) .earlyEnd _ rfl (by decide +kernel) (by decide +kernel) rfl
    (by decide +kernel) (by decide +kernel) (by decide) (.inl ⟨rfl, fun _ => rfl⟩)
  obtain ⟨u5, h5, ⟨c5, -⟩, -⟩ := early (loadingIn 1 (some (shortLoad 0 false))) .cfgIdleTimeout _ rfl (by decide +kernel) (by decide +kernel) rfl
    (by decide +kernel) (by decide +kernel) (by decide) (.inr ⟨rfl, by decide⟩)
  obtain ⟨u6, h6, ⟨d6, -, -, -, -, -, -, -, f6⟩, -⟩ := fallback (loadingIn 1 (some (failedLoad 0 false))) _ rfl rfl (by decide +kernel) rfl
    (by decide) (by decide +kernel)
  obtain ⟨u7, h7, ⟨d7, -, -, -, -, -, f7⟩, -⟩ := shell (loadingIn 1 (some (failedLoad 2 true))) _ rfl rfl (by decide +kernel) rfl (by decide)
  obtain ⟨u8, h8, ⟨-, d8, -, -⟩, -⟩ := timeout (loadingIn 2 none) (by decide +kernel) (by decide +kernel) rfl (by decide +kernel)
  refine ⟨⟨u1, h1, d1, ?_⟩, ⟨u2, h2, f2, s2⟩, ⟨u3, h3, s3, d3.trans (by decide +kernel)⟩, ⟨u4, h4, congrArg (fun c => c.load.map Load.fail) c4⟩,
    ⟨u5, h5, congrArg (fun c => c.load.map Load.stage) c5⟩, ⟨u6, h6, d6, f6 103 (by decide)⟩, ⟨u7, h7, d7, f7 0 (by decide)⟩, ⟨u8, h8, d8⟩⟩
  have hsegs : leAt (passingHdr 1) 0x100 4 = 1 := by decide +kernel
  exact (congrArg (fun c => c.load.map Load.segs) c1).trans (congrArg some hsegs)

end Sys2Proof.Machine
end

section
/-! SUPPORT. Fuses burn and never clear: what one slot, the array and every command that reaches the array do to it (R688, R691, R695–R697). -/

namespace Sys2Proof.Machine

/-! ### Burning -/

/-- Key-hash slot `y` is slot `x` after burning alone: a valid slot keeps its hash and permissions, a revoked one stays revoked (R695–R697). -/
structure Slot.BurnedTo (x y : Slot) : Prop where
  valid : x.valid = true → y.valid = true ∧ y.hash = x.hash ∧ y.perm = x.perm
  revoked : x.revoked = true → y.revoked = true

/-- Fuse array `g` is array `f` after burning alone (R688, R691, R695, R697, R699). -/
structure Fuses.BurnedTo (f g : Fuses) : Prop where
  lifecycle : f.lifecycle ≤ g.lifecycle
  arv : f.arv ≤ g.arv
  serial : g.serial = f.serial
  dukKill : f.dukKill = true → g.dukKill = true
  imgKill : f.imgKill = true → g.imgKill = true
  imgKey : ∀ k, f.imgKey = some k → g.imgKey = some k
  slots : ∀ k, Slot.BurnedTo (Tab.get .empty f.slots k) (Tab.get .empty g.slots k)

section
variable {f g : Fuses} {x y : Slot}

theorem Slot.BurnedTo.refl (x : Slot) : x.BurnedTo x := ⟨fun h => ⟨h, rfl, rfl⟩, id⟩

theorem Fuses.BurnedTo.refl (f : Fuses) : f.BurnedTo f :=
  ⟨le_rfl, le_rfl, rfl, id, id, fun _ => id, fun _ => .refl _⟩

/-- A slot that is not valid takes a key and keeps its revocation (R695). -/
theorem Slot.BurnedTo.program (h : x.valid = false) (hash perm : Nat) : x.BurnedTo ⟨hash, perm, true, x.revoked⟩ :=
  ⟨fun hv => absurd hv (by simp [h]), id⟩

/-- Revoking leaves the key in its slot (R696). -/
theorem Slot.BurnedTo.revoke (x : Slot) : x.BurnedTo { x with revoked := true } := ⟨fun h => ⟨h, rfl, rfl⟩, fun _ => rfl⟩

/-- The lifecycle advances to the later of two (R688). -/
theorem Fuses.BurnedTo.advance (f : Fuses) (goal : Nat) : f.BurnedTo { f with lifecycle := max f.lifecycle goal } :=
  { Fuses.BurnedTo.refl f with lifecycle := le_max_left .. }

/-- The anti-rollback count rises (R553, R697). -/
theorem Fuses.BurnedTo.raiseArv {v : Nat} (h : f.arv ≤ v) : f.BurnedTo { f with arv := v } :=
  { Fuses.BurnedTo.refl f with arv := h }

/-- An image key is burned where none is (R695). -/
theorem Fuses.BurnedTo.burnImgKey (h : f.imgKey = none) (key : Option (List Byte)) : f.BurnedTo { f with imgKey := key } :=
  { Fuses.BurnedTo.refl f with imgKey := fun k hk => absurd (h.symm.trans hk) (Option.some_ne_none k).symm }

/-- One slot burns. -/
theorem Fuses.BurnedTo.putSlot {k : Nat} (h : (Tab.get .empty f.slots k).BurnedTo y) :
    f.BurnedTo { f with slots := Tab.put .empty f.slots k y } :=
  { Fuses.BurnedTo.refl f with
    slots := fun j => by
      by_cases hj : j = k
      · subst hj
        simpa using h
      · simpa [Tab.get_put_ne hj] using Slot.BurnedTo.refl _ }

/-- What SEC reads at boot has at most burned the kill bits (R691, R698). -/
theorem Fuses.BurnedTo.boot (f : Fuses) (goldenBad : Bool) : f.BurnedTo (f.boot goldenBad) :=
  { Fuses.BurnedTo.refl f with
    dukKill := fun h => by simp [Fuses.boot, h]
    imgKill := fun h => by simp [Fuses.boot, h] }

/-! ### Operations that leave the array alone -/

@[simp] theorem State.showFuses_fuses (s : State) : s.showFuses.fuses = s.fuses := s.showFuses_keeps.only .fuses (by decide)
@[simp] theorem State.secDone_fuses (s : State) (st : Nat) (rsp : List Nat) : (s.secDone st rsp).fuses = s.fuses := rfl
@[simp] theorem State.securityHalt_fuses (s : State) (cause die chan level addr node : Nat) :
    (s.securityHalt cause die chan level addr node).fuses = s.fuses := (s.securityHalt_keeps ..).only .fuses (by decide)
@[simp] theorem State.bootRegs_fuses (s : State) (b : BootSettings) : (s.bootRegs b).fuses = s.fuses := (s.bootRegs_keeps b).only .fuses (by decide)
@[simp] theorem State.loadBaselines_fuses (s : State) (bad : List TinIx) : (s.loadBaselines bad).fuses = s.fuses :=
  (s.loadBaselines_keeps bad).only .fuses (by decide)
@[simp] theorem State.foldl_drawKeys_fuses (s : State) (l : List Nat) : (l.foldl (fun a c => a.drawKeys c) s).fuses = s.fuses :=
  (Keeps.foldl (fun a c => a.drawKeys_keeps c) Keeps.refl).only .fuses (by decide)
@[simp] theorem State.clearOut_fuses (s : State) : s.clearOut.fuses = s.fuses := s.clearOut_keeps.only .fuses (by decide)
@[simp] theorem State.loadFail_fuses (s : State) (l : Load) (st detail off : Nat) : (s.loadFail l st detail off).fuses = s.fuses :=
  (s.loadFail_keeps l st detail off).only .fuses (by decide)
@[simp] theorem State.commitCopies_fuses (s : State) (l : Load) : (s.commitCopies l).fuses = s.fuses := (s.commitCopies_keeps l).only .fuses (by decide)

/-- A written slot is what the array holds; nothing else of the array changes. -/
@[simp] theorem State.setSlot_fuses (s : State) (k : Nat) (x : Slot) :
    (s.setSlot k x).fuses = { s.fuses with slots := Tab.put .empty s.fuses.slots k x } := State.showFuses_fuses _

/-! ### Commands -/

/-- A command answers a next state whose fuse array is `f` after burning alone. -/
def OutBurns (f : Fuses) (o : Out) : Prop := ∃ u, o = .next u ∧ f.BurnedTo u.fuses

theorem OutBurns.next {u : State} (h : f.BurnedTo u.fuses) : OutBurns f (.next u) := ⟨u, rfl, h⟩

/-- The array stays as it was. -/
theorem OutBurns.same {u : State} (h : u.fuses = f) : OutBurns f (.next u) := .next (h ▸ .refl f)

theorem OutBurns.ite {c : Prop} [Decidable c] {a b : Out} (h : c → OutBurns f a) (k : ¬c → OutBurns f b) : OutBurns f (if c then a else b) := by
  split
  · exact h ‹_›
  · exact k ‹_›

/-- The array is out of reach of a command whose footprint does not name it. -/
theorem OutBurns.of_footprint {c : Instr} (h : Part.fuses ∉ footprint c) (s : State) : OutBurns s.fuses (exec c s) := by
  obtain ⟨u, hu, hk⟩ := exec_keeps c s
  rw [hu]
  exact .same (hk.only .fuses h)

theorem execLifecycleAdvance_burns (key : Option (Fin 4)) (sigOk : Bool) (s : State) : OutBurns s.fuses (execLifecycleAdvance key sigOk s) := by
  unfold execLifecycleAdvance
  refine .ite (fun _ => .same rfl) (fun _ => ?_)
  split
  · exact .same (State.secDone_fuses ..)
  · refine .ite (fun _ => .next ?_) (fun _ => .same (State.secDone_fuses ..))
    rw [State.secDone_fuses, State.post_fuses, State.showFuses_fuses]
    exact .advance ..

theorem execKeyProgram_burns (key : Option (Fin 4)) (sigOk : Bool) (s : State) : OutBurns s.fuses (execKeyProgram key sigOk s) := by
  unfold execKeyProgram
  refine .ite (fun _ => .same rfl) (fun _ => ?_)
  split
  · exact .same (State.secDone_fuses ..)
  · refine .ite (fun _ => .same (State.secDone_fuses ..)) (fun _ => .ite
      (fun _ => .ite (fun _ => .same (State.secDone_fuses ..)) (fun hfree => .next ?_))
      (fun _ => .ite (fun _ => .same (State.secDone_fuses ..)) (fun hfree => .next ?_)))
    · have himg : s.fuses.imgKey = none := by simpa using fun h => hfree (.inl h)
      rw [State.secDone_fuses, State.post_fuses, State.showFuses_fuses]
      exact .burnImgKey himg _
    · have hslot : (s.slot (tokArg s.token)).valid = false := by simpa using fun h => hfree (.inl h)
      rw [State.secDone_fuses, State.post_fuses, State.setSlot_fuses]
      exact .putSlot (.program hslot ..)

theorem execKeyRevoke_burns (key : Option (Fin 4)) (sigOk : Bool) (s : State) : OutBurns s.fuses (execKeyRevoke key sigOk s) := by
  unfold execKeyRevoke
  refine .ite (fun _ => .same rfl) (fun _ => ?_)
  split
  · exact .same (State.secDone_fuses ..)
  · refine .ite (fun _ => .same (State.secDone_fuses ..)) (fun _ => .ite (fun _ => .same (State.secDone_fuses ..)) (fun _ =>
      .ite (fun _ => .same (State.secDone_fuses ..)) (fun _ => .ite (fun _ => .same (State.secDone_fuses ..)) (fun _ => .next ?_))))
    rw [State.secDone_fuses, State.post_fuses, State.setSlot_fuses]
    exact .putSlot (.revoke _)

/-- The boot burns the kill fuses of a RETIRED device (R691), whether it goes on or ends in a security halt. -/
theorem execSecBoot_burns (b : BootSettings) (r : FuseRead) (selfOk trngOk : Bool) (s : State) :
    OutBurns s.fuses (execSecBoot b r selfOk trngOk s) := by
  have hboot := Fuses.BurnedTo.boot s.fuses r.goldenBad
  unfold execSecBoot
  refine .ite (fun _ => .same rfl) (fun _ => .ite (fun _ => .next ?_) (fun _ => .ite (fun _ => .next ?_) (fun _ => .ite (fun _ => .next ?_)
    (fun _ => .next ?_))))
  · rwa [State.securityHalt_fuses, State.showFuses_fuses]
  · rwa [State.securityHalt_fuses, State.showFuses_fuses]
  · rwa [State.securityHalt_fuses, State.showFuses_fuses]
  · rwa [apply_ite State.fuses, State.foldl_drawKeys_fuses, ite_self, apply_ite State.fuses, State.post_fuses, ite_self, apply_ite State.fuses,
      State.post_fuses, ite_self, State.loadBaselines_fuses, State.bootRegs_fuses, State.fset_fuses, State.fset_fuses, State.showFuses_fuses]

/-- Step 5 of R553 raises the anti-rollback count or leaves it. -/
theorem State.commitArv_burns (s : State) (l : Load) : s.fuses.BurnedTo (s.commitArv l).fuses := by
  unfold State.commitArv
  dsimp only
  split
  · next h =>
    rw [State.post_fuses, State.showFuses_fuses]
    exact .raiseArv (Nat.le_of_lt h.2)
  · exact .refl _

/-- Of the steps of a full image's commit only the fifth reaches the array (R553). -/
theorem State.fullCommitted_burns (s : State) (l : Load) (st : Nat) : s.fuses.BurnedTo ((s.fullCommitted l).loadDone l st).fuses := by
  have hend : Keeps [.regs, .events, .tins, .noc, .breadbox, .hqe, .cfg] (((s.fullStaged l).commitCopies l).commitArv l)
      ((s.fullCommitted l).loadDone l st) :=
    (State.loadDone_keeps ..).via rfl (Keeps.upd_cfg rfl ((State.fullRunning_keeps ..).via rfl ((State.commitRelease_keeps ..).via rfl
      ((State.commitGolden_keeps ..).via rfl Keeps.refl))))
  have hstaged : ((s.fullStaged l).commitCopies l).fuses = s.fuses := (State.commitCopies_fuses ..).trans (s.fullStaged_frame l).2.1
  rw [hend.only .fuses (by decide), ← hstaged]
  exact State.commitArv_burns ..

theorem execFullImageCommit_burns (s : State) : OutBurns s.fuses (execFullImageCommit s) := by
  unfold execFullImageCommit
  split
  · exact .same rfl
  · next l _ =>
    exact .ite (fun _ => .same rfl) (fun _ => .ite (fun _ => .same ((State.loadFail_fuses ..).trans (State.clearOut_fuses s)))
      (fun _ => .next (s.fullCommitted_burns l _)))

/-- Five commands reach the fuse array, and each only burns it; every other command's footprint leaves it out. -/
theorem exec_burns (c : Instr) (s : State) : OutBurns s.fuses (exec c s) := by
  cases c with
  | fullImageCommit => exact execFullImageCommit_burns s
  | lifecycleAdvance key sigOk => exact execLifecycleAdvance_burns key sigOk s
  | keyProgram key sigOk => exact execKeyProgram_burns key sigOk s
  | keyRevoke key sigOk => exact execKeyRevoke_burns key sigOk s
  | secBoot b r selfOk trngOk => exact execSecBoot_burns b r selfOk trngOk s
  | _ => exact .of_footprint (of_decide_eq_true rfl) s

end

/-- Settles O5: whatever the command, its answer's fuse array is the one before it after burning alone. -/
theorem fusesOnlyBurn : Obligations.FusesOnlyBurn := by
  unfold Obligations.FusesOnlyBurn
  intro c s u h
  obtain ⟨t, ht, hburn⟩ := exec_burns c s
  cases ht.symm.trans h
  exact ⟨hburn.lifecycle, hburn.arv, hburn.serial, hburn.dukKill, hburn.imgKill, hburn.imgKey, fun k => (hburn.slots k).valid,
    fun k => (hburn.slots k).revoked⟩

/-- A RETIRED device, powered and not yet booted, with the anti-rollback count at its top: slot 0 holds a key, slot 2 is revoked and the image
key is burned. -/
def retiredDevice : State :=
  { State.reset with
    powerGood := true
    fuses := { Fuses.shipped with
      serial := 7
      imgKey := some [0xA5]
      slots := [(0, ⟨5, 0xF, true, false⟩), (2, ⟨0, 0, false, true⟩)]
      lifecycle := 3
      arv := 64 } }

/-- A BLANK device with slot 0 programmed and slot 1 revoked, whose SEC is asked for KEY_PROGRAM of slot 1 with permissions 3 by the token at
larder offset 0x1000000 (R699). -/
def keyProgramAsked : State :=
  { ((State.reset.fset MGC_SEC_CTL.busy 1).fset (MGC_SEC_REQ.value 0) 0x11).fset (MGC_SEC_REQ.value 1) 0x1000000 with
    fuses := { Fuses.shipped with slots := [(0, ⟨5, 0xF, true, false⟩), (1, ⟨0, 0, false, true⟩)] }
    larder := { Larder.empty with mem := writeBytes 0 [] 0x1000000 [0x42, 0x4C, 0x56, 0x54, 0x4F, 0x4B, 0x30, 0x38, 2, 1, 3] } }

/-- States that meet the hypotheses of O5 on commands that burn: the boot of a RETIRED device burns both kill bits, and a programmed slot that
was revoked takes its key and stays revoked. -/
theorem fusesOnlyBurn_witness :
    (∃ u, exec (.secBoot ⟨0, 0, 0, false, false⟩ ⟨false, true, []⟩ true true) retiredDevice = .next u ∧
      u.fuses.dukKill = true ∧ u.fuses.imgKey = some [0xA5] ∧ 64 ≤ u.fuses.arv ∧ (u.slot 0).hash = 5) ∧
    (∃ u, exec (.keyProgram none false) keyProgramAsked = .next u ∧
      (u.slot 1).valid = true ∧ (u.slot 1).revoked = true ∧ (u.slot 0).perm = 0xF) := by
  obtain ⟨u, hu, -⟩ := exec_keeps (.secBoot ⟨0, 0, 0, false, false⟩ ⟨false, true, []⟩ true true) retiredDevice
  obtain ⟨v, hv, -⟩ := exec_keeps (.keyProgram none false) keyProgramAsked
  obtain ⟨-, harv, -, -, -, himg, hslot, -⟩ := fusesOnlyBurn _ _ _ hu
  obtain ⟨-, -, -, -, -, -, hslot', hrevoked⟩ := fusesOnlyBurn _ _ _ hv
  have hkill : (match exec (.secBoot ⟨0, 0, 0, false, false⟩ ⟨false, true, []⟩ true true) retiredDevice with
    | .next t => t.fuses.dukKill | _ => false) = true := by decide +kernel
  have hvalid : (match exec (.keyProgram none false) keyProgramAsked with | .next t => (t.slot 1).valid | _ => false) = true := by decide +kernel
  rw [hu] at hkill
  rw [hv] at hvalid
  exact ⟨⟨u, hu, hkill, himg _ rfl, harv, (hslot 0 rfl).2.1⟩, ⟨v, hv, hvalid, hrevoked 1 rfl, (hslot' 0 rfl).2.2⟩⟩

end Sys2Proof.Machine
end

section
/-! SUPPORT. Authentication (R710–R714, R728), the terminal (R743) and abstract register access (R734). -/

namespace Sys2Proof.Machine

/-! ### The scan of AUTH -/

theorem State.endBoundary_of_none {s : State} (h : s.dbg.boundary = none) : s.endBoundary = s := by simp [State.endBoundary, h]

/-- A live challenge is the one captured, and none is drawn (R728). -/
theorem State.captureChallenge_of_live {s : State} {c : List Byte} {x : Nat × Bool} (hlive : s.challengeLive = true)
    (hc : s.dbg.challenge = some (c, x)) : s.captureChallenge = (c, s) := by
  simp [State.captureChallenge, hlive, hc]

/-- What a scan of AUTH answers while challenge `c` stands: the status of the last response and the challenge (R728, log 62). -/
def State.authAnswer (s : State) (c : List Byte) : Option Answer :=
  some ⟨stDone, leBytes 1 s.irCapture ++ (leBytes 1 s.dbg.authStatus ++ slice c 0 48 ++ List.replicate 152 0), false⟩

/-- The TAP with AUTH selected, its scan answered (R728). -/
def State.authScanned (s : State) (a : Option Answer) : State := { s with dbg := { s.dbg with ir := 0x11 }, answer := a }

theorem State.authScanned_keeps (s : State) (a : Option Answer) : Keeps [.dbg, .answer] s (s.authScanned a) := by
  unfold State.authScanned
  exact Keeps.upd_dbg_answer rfl Keeps.refl

section
variable {s : State} {c : List Byte} {x : Nat × Bool} (htap : s.tapOn = true) (hmay : s.mayAuth = true) (hbound : s.dbg.boundary = none)
  (hlive : s.challengeLive = true) (hc : s.dbg.challenge = some (c, x))
include htap hmay hbound hlive hc

/-- A scan with no response leaves the challenge as it stands. -/
theorem exec_auth_scan (key : Option (Fin 4)) (sig : Bool) : exec (.auth none key sig) s = .next (s.authScanned (s.authAnswer c)) := by
  change execAuth none key sig s = _
  unfold execAuth
  simp only [htap, hmay, State.endBoundary_of_none hbound, State.captureChallenge_of_live hlive hc, Bool.not_true, Bool.false_eq_true, if_false]
  rfl

/-- A response is judged on its first 200 bytes, against the challenge that stands (R710). -/
theorem exec_auth_response (r : List Byte) (key : Option (Fin 4)) (sig : Bool) :
    exec (.auth (some r) key sig) s = .next ((s.respond (slice r 0 200) key sig).authScanned (s.authAnswer c)) := by
  change execAuth (some r) key sig s = _
  unfold execAuth
  simp only [htap, hmay, State.endBoundary_of_none hbound, State.captureChallenge_of_live hlive hc, hlive, Bool.not_true, Bool.false_eq_true,
    if_false, if_true]
  rfl

end

/-! ### The judgement of a response -/

/-- A response has been judged with status `st`, and the challenge it answered is now `x` (R710). -/
def State.judged (s : State) (st : Nat) (x : Option (List Byte × Nat × Bool)) : State :=
  { s with dbg := { s.dbg with authStatus := st, challenge := x } }

theorem State.judged_keeps (s : State) (st : Nat) (x : Option (List Byte × Nat × Bool)) : Keeps [.dbg] s (s.judged st x) := by
  unfold State.judged
  exact Keeps.upd_dbg rfl Keeps.refl

/-- The level that is granted: the count of failures clears, and the grant is posted (R711, R714). -/
def State.granted (s : State) (w : Nat) : State := ((s.fset SEC_LIFECYCLE.auth_fail 0).fset SEC_LIFECYCLE.debug w).post 0x0F03 0 none 0 w

/-- The refusal is counted and posted (R714). -/
def State.refused (s : State) (st : Nat) : State := (s.fsat SEC_LIFECYCLE.auth_fail 1).post 0x0F04 0 none 0 st

theorem State.granted_keeps (s : State) (w : Nat) : Keeps [.regs, .events] s (s.granted w) := by
  unfold State.granted
  exact (State.post_keeps ..).via rfl ((State.fset_keeps ..).via rfl ((State.fset_keeps ..).via rfl Keeps.refl))

theorem State.refused_keeps (s : State) (st : Nat) : Keeps [.regs, .events] s (s.refused st) := by
  unfold State.refused
  exact (State.post_keeps ..).via rfl ((State.fsat_keeps ..).via rfl Keeps.refl)

theorem State.granted_regsOnly (s : State) (w : Nat) : s.RegsOnly [SEC_LIFECYCLE] (s.granted w) :=
  .post (.fset (by decide) (.fset (by decide) (.of_regs rfl)))

theorem State.refused_regsOnly (s : State) (st : Nat) : s.RegsOnly [SEC_LIFECYCLE] (s.refused st) :=
  .post (.fsat (by decide) (.of_regs rfl))

theorem State.granted_fget (s : State) {w : Nat} (hw : w < 4) :
    (s.granted w).fget SEC_LIFECYCLE.debug = w ∧ (s.granted w).fget SEC_LIFECYCLE.auth_fail = 0 := by
  unfold State.granted
  rw [State.post_fget, State.post_fget, State.fget_fset _ _ (by decide),
    State.fget_fset_apart (f := SEC_LIFECYCLE.debug) (g := SEC_LIFECYCLE.auth_fail) _ _ rfl (by decide) (by decide),
    State.fget_fset _ _ (by decide)]
  exact ⟨Nat.mod_eq_of_lt hw, rfl⟩

theorem State.refused_fget (s : State) (st : Nat) :
    (s.refused st).fget SEC_LIFECYCLE.debug = s.fget SEC_LIFECYCLE.debug ∧
    (s.refused st).fget SEC_LIFECYCLE.auth_fail = satAdd 8 (s.fget SEC_LIFECYCLE.auth_fail) 1 := by
  unfold State.refused
  rw [State.post_fget, State.post_fget, State.fget_fsat _ _ (by decide)]
  exact ⟨State.fget_fset_apart _ _ rfl (by decide) (by decide), rfl⟩

theorem State.granted_posted (s : State) (w : Nat) : s.Posted (s.granted w) 0x0F03 0 none 0 w := by
  unfold State.granted State.Posted
  exact State.post_events_congr rfl rfl

theorem State.refused_posted (s : State) (st : Nat) : s.Posted (s.refused st) 0x0F04 0 none 0 st := by
  unfold State.refused State.Posted
  exact State.post_events_congr rfl rfl

/-- Below FULL a level is set and no debugging ends (R746). -/
theorem State.setLevel_of_below {s : State} (h : s.debugLevel < 3) (w : Nat) : s.setLevel w = s.fset SEC_LIFECYCLE.debug w := by
  unfold State.setLevel
  rw [if_neg fun k => Nat.ne_of_lt h k.1]

/-- A response to the live challenge that asks for more than the level in force is answered by its signature (R710–R713). -/
theorem State.responseStatus_of_raise {s : State} {l : List Byte} (hw : leAt l 0 1 ≤ 3) (hzero : leAt l 1 7 = 0) (hlevel : s.debugLevel < leAt l 0 1)
    (hopen : s.challengeRefused = false) (hlive : s.challengeLive = true) (hblank : s.lifecycle ≠ 0) (hretired : s.lifecycle ≠ 3) (k : Fin 4)
    (sig : Bool) : s.responseStatus l (some k) sig =
      if (s.slot k.val).may (if leAt l 0 1 = 3 then 2 else 1) && sig then stDone else stNoRights := by
  unfold State.responseStatus
  dsimp only
  exact (if_neg (by omega)).trans ((if_neg (by omega)).trans ((if_neg (by simp [hopen])).trans ((if_neg (by simp [hlive])).trans
    (if_neg (by omega)))))

section
variable {s : State} {l c : List Byte} {t : Nat} {used : Bool} {key : Option (Fin 4)} {sig : Bool}
  (hc : s.dbg.challenge = some (c, t, used)) (hlevel : s.debugLevel < leAt l 0 1)
include hc hlevel

/-- A response that verifies uses the challenge up and raises the level (R711). -/
theorem State.respond_of_done (hw : leAt l 0 1 ≤ 3) (hst : s.responseStatus l key sig = stDone) :
    s.respond l key sig = (s.judged stDone (some (c, t, true))).granted (leAt l 0 1) := by
  have hsame : ((s.judged stDone (some (c, t, true))).fset SEC_LIFECYCLE.auth_fail 0).debugLevel = s.debugLevel :=
    State.fget_fset_apart (f := SEC_LIFECYCLE.auth_fail) (g := SEC_LIFECYCLE.debug) _ _ rfl (by decide) (by decide)
  have hbelow : ((s.judged stDone (some (c, t, true))).fset SEC_LIFECYCLE.auth_fail 0).debugLevel < 3 := by omega
  unfold State.respond State.granted
  rw [hst, hc]
  dsimp only
  rw [if_pos rfl, if_neg (Nat.not_le.mpr hlevel)]
  change State.post (State.setLevel _ _) _ _ _ _ _ _ = _
  rw [← State.setLevel_of_below hbelow]
  rfl

/-- A response that does not verify uses the challenge up and is counted; the eighth in a row would lock out (R714). -/
theorem State.respond_of_noRights (hst : s.responseStatus l key sig = stNoRights) (hfew : s.fget SEC_LIFECYCLE.auth_fail < 7) :
    s.respond l key sig = (s.judged stNoRights (some (c, t, true))).refused stNoRights := by
  have hcount : ((s.judged stNoRights (some (c, t, true))).refused stNoRights).fget SEC_LIFECYCLE.auth_fail < 8 := by
    rw [(State.refused_fget ..).2]
    change satAdd 8 (s.fget SEC_LIFECYCLE.auth_fail) 1 < 8
    unfold satAdd
    omega
  unfold State.respond
  simp only [hst, hc, if_neg (Nat.not_le.mpr hlevel), if_neg (by decide : stNoRights ≠ stDone)]
  exact if_neg (Nat.not_le.mpr hcount)

end

/-! ### What AUTH does -/

/-- What the grant or the refusal of a judged response shows is there once the scan has ended. -/
theorem runs_auth_judged {i : Instr} {s v : State} {st level fail code arg : Nat} {x : Option (List Byte × Nat × Bool)} {a : Option Answer}
    (hexec : exec i s = .next (v.authScanned a)) (hkeeps : Keeps [.regs, .events] (s.judged st x) v) (hlevel : v.fget SEC_LIFECYCLE.debug = level)
    (hfail : v.fget SEC_LIFECYCLE.auth_fail = fail) (hregs : (s.judged st x).RegsOnly [SEC_LIFECYCLE] v)
    (hposted : (s.judged st x).Posted v code 0 none 0 arg) :
    Runs i s [.regs, .events, .dbg, .answer] fun u =>
      u.fget SEC_LIFECYCLE.debug = level ∧ u.fget SEC_LIFECYCLE.auth_fail = fail ∧
      u.dbg = { s.dbg with ir := 0x11, authStatus := st, challenge := x } ∧ s.RegsOnly [SEC_LIFECYCLE] u ∧ s.Posted u code 0 none 0 arg := by
  have hdbg : v.dbg = (s.judged st x).dbg := hkeeps.only .dbg (by decide)
  refine .of hexec ((State.authScanned_keeps ..).via rfl (hkeeps.via rfl ((State.judged_keeps ..).via rfl Keeps.refl)))
    ⟨hlevel, hfail, ?_, fun o ho => hregs o ho, hposted⟩
  unfold State.authScanned
  rw [hdbg]
  rfl

section
variable {s : State} {r l c : List Byte} {k : Fin 4} {t w : Nat} (htap : s.tapOn = true) (hmay : s.mayAuth = true) (hbound : s.dbg.boundary = none)
  (hlive : s.challengeLive = true) (hc : s.dbg.challenge = some (c, t, false)) (hl : l = slice r 0 200) (hwant : w = leAt l 0 1) (hw : w ≤ 3)
  (hzero : leAt l 1 7 = 0) (hlevel : s.debugLevel < w) (hopen : s.challengeRefused = false) (hblank : s.lifecycle ≠ 0) (hretired : s.lifecycle ≠ 3)
include htap hmay hbound hlive hc hl hwant hw hzero hlevel hopen hblank hretired

/-- A response that a slot with the permission has signed raises the level (R711–R713). -/
theorem runs_auth_verified (hslot : (s.slot k.val).may (if w = 3 then 2 else 1) = true) :
    Runs (.auth (some r) (some k) true) s [.regs, .events, .dbg, .answer] fun u =>
      u.fget SEC_LIFECYCLE.debug = w ∧ u.fget SEC_LIFECYCLE.auth_fail = 0 ∧
      u.dbg = { s.dbg with ir := 0x11, authStatus := stDone, challenge := some (c, t, true) } ∧ s.RegsOnly [SEC_LIFECYCLE] u ∧
      s.Posted u 0x0F03 0 none 0 w := by
  subst hl hwant
  have hst : s.responseStatus (slice r 0 200) (some k) true = stDone := by
    rw [State.responseStatus_of_raise hw hzero hlevel hopen hlive hblank hretired]
    exact if_pos (by simp [hslot])
  have hexec := exec_auth_response htap hmay hbound hlive hc r (some k) true
  rw [State.respond_of_done hc hlevel hw hst] at hexec
  obtain ⟨hdebug, hfail⟩ := (s.judged stDone (some (c, t, true))).granted_fget (Nat.lt_succ_of_le hw)
  exact runs_auth_judged hexec (State.granted_keeps ..) hdebug hfail (State.granted_regsOnly _ _) (State.granted_posted ..)

/-- A response whose signature fails leaves the level and is counted (R714). -/
theorem runs_auth_unverified (hfew : s.fget SEC_LIFECYCLE.auth_fail < 7) :
    Runs (.auth (some r) (some k) false) s [.regs, .events, .dbg, .answer] fun u =>
      u.fget SEC_LIFECYCLE.debug = s.fget SEC_LIFECYCLE.debug ∧ u.fget SEC_LIFECYCLE.auth_fail = s.fget SEC_LIFECYCLE.auth_fail + 1 ∧
      u.dbg = { s.dbg with ir := 0x11, authStatus := stNoRights, challenge := some (c, t, true) } ∧ s.RegsOnly [SEC_LIFECYCLE] u ∧
      s.Posted u 0x0F04 0 none 0 stNoRights := by
  subst hl hwant
  have hst : s.responseStatus (slice r 0 200) (some k) false = stNoRights := by
    rw [State.responseStatus_of_raise hw hzero hlevel hopen hlive hblank hretired]
    exact if_neg (by simp)
  have hexec := exec_auth_response htap hmay hbound hlive hc r (some k) false
  rw [State.respond_of_noRights hc hlevel hst hfew] at hexec
  obtain ⟨hdebug, hfail⟩ := (s.judged stNoRights (some (c, t, true))).refused_fget stNoRights
  have hnext : satAdd 8 (s.fget SEC_LIFECYCLE.auth_fail) 1 = s.fget SEC_LIFECYCLE.auth_fail + 1 := by unfold satAdd; omega
  exact runs_auth_judged hexec (State.refused_keeps ..) hdebug (hfail.trans hnext) (State.refused_regsOnly _ _) (State.refused_posted ..)

end

/-! ### The terminal -/

/-- A word enters an empty `DBG_DTX`; a full one keeps its word and the loss is counted (R743). -/
theorem runs_dtxWrite (s : State) (w : Word) : Runs (.dtxWrite w) s [.regs] fun u => s.RegsOnly [DBG_DTX, DBG_DTERM_STAT] u ∧
    (s.fbit DBG_DTERM_STAT.tx_full = false → u.fget DBG_DTX.word = w.toNat ∧ u.fget DBG_DTERM_STAT.tx_full = 1) ∧
    (s.fbit DBG_DTERM_STAT.tx_full = true →
      u.fget DBG_DTERM_STAT.tx_lost = satAdd 14 (s.fget DBG_DTERM_STAT.tx_lost) 1 ∧ u.fget DBG_DTX.word = s.fget DBG_DTX.word) := by
  have hexec : exec (.dtxWrite w) s = .next (s.dtx w.toNat) := rfl
  cases hfull : s.fbit DBG_DTERM_STAT.tx_full with
  | true =>
    have hdtx : s.dtx w.toNat = s.fsat DBG_DTERM_STAT.tx_lost 1 := by unfold State.dtx; rw [if_pos hfull]
    rw [hdtx] at hexec
    refine .of hexec (State.fsat_keeps ..) ⟨.fsat (by decide) (.of_regs rfl), by simp, fun _ => ⟨State.fget_fsat _ _ (by decide), ?_⟩⟩
    exact State.fget_fset_ne _ _ (by decide)
  | false =>
    have hdtx : s.dtx w.toNat = (s.fset DBG_DTX.word w.toNat).fset DBG_DTERM_STAT.tx_full 1 := by
      unfold State.dtx
      rw [if_neg (by simp [hfull])]
    rw [hdtx] at hexec
    refine .of hexec ((State.fset_keeps ..).trans (State.fset_keeps ..))
      ⟨.fset (by decide) (.fset (by decide) (.of_regs rfl)), fun _ => ⟨?_, State.fget_fset _ _ (by decide)⟩, by simp⟩
    rw [State.fget_fset_ne _ _ (by decide), State.fget_fset _ _ (by decide)]
    exact Nat.mod_eq_of_lt w.isLt

/-- The word received is answered and its place is free again (R743). -/
theorem runs_drxConsume (s : State) : Runs .drxConsume s [.regs, .answer] fun u =>
    u.fget DBG_DTERM_STAT.rx_full = 0 ∧ s.RegsOnly [DBG_DTERM_STAT] u ∧ u.answer = some ⟨stDone, leBytes 4 (s.fget DBG_DRX.word), false⟩ :=
  .of (u := { s.fset DBG_DTERM_STAT.rx_full 0 with answer := some ⟨stDone, leBytes 4 (s.fget DBG_DRX.word), false⟩ }) rfl
    (Keeps.upd_answer rfl ((State.fset_keeps ..).via rfl Keeps.refl))
    ⟨State.fget_fset _ _ (by decide), .fset (t := s) (by decide) (.of_regs rfl), rfl⟩

/-! ### Abstract register access -/

section
variable {s : State} {h : HartIx} {n : Fin 65536} (hlevel : s.debugLevel = 3) (hcore : s.fget (MGC_CORE_STAT.state h.val) ≠ 3)
  (herr : bits (s.dmReg dmAbstractcs) 8 3 = 0) (hreg : regnoOk n.val = true) (hhalt : (s.hart h.val).dbgHalt = true)
include hlevel hcore herr hreg hhalt

/-- At FULL the low word of a halted hart's register is read to `data0` (R734). -/
theorem exec_accessRegister_read : exec (.accessRegister h n false false) s =
    .next { s with dbg := { s.dbg with dm := Tab.put 0 s.dbg.dm dmData0 (Tab.get 0 (s.hart h.val).regs n.val % 2 ^ 32) } } := by
  change execAccessRegister h n false false s = _
  simp [execAccessRegister, State.accessRegister, State.setDm, hlevel, hcore, herr, hreg, hhalt]

/-- At FULL a halted hart's register takes both data words (R734). -/
theorem exec_accessRegister_write (hn : n.val ≠ 0x1000) : exec (.accessRegister h n true true) s =
    .next (s.setHart h.val
      { s.hart h.val with regs := Tab.put 0 (s.hart h.val).regs n.val (s.dmReg dmData0 + s.dmReg dmData1 * 2 ^ 32) }) := by
  change execAccessRegister h n true true s = _
  simp [execAccessRegister, State.accessRegister, hlevel, hcore, herr, hreg, hhalt, hn]

end

@[simp] theorem State.hart_setHart (s : State) (h : Nat) (v : Hart) : (s.setHart h v).hart h = v := by simp [State.hart, State.setHart]

end Sys2Proof.Machine
end

section
/-! SUPPORT. Trace packets (R740, R741), cross-trigger channels (R737), halt requests (R735) and trace frames (R742). -/

namespace Sys2Proof.Machine

/-! ### Packets -/

/-- A packet written at the write pointer, with the slot after it free (R741). -/
def State.packetAdded (s : State) (data src type index : Nat) : State :=
  { s with
    larder := (s.larder.write (s.traceBase + 32 * s.fget DBG_TRACE_STAT.wp)
      (leBytes 32 (tracePkt (timeWord s.now) data src type index s.dbg.seq))).markWords (s.traceBase + 32 * s.fget DBG_TRACE_STAT.wp) 32 false
    dbg := { s.dbg with
      seq := (s.dbg.seq + 1) % 2 ^ 24
      frames := if s.fbit DBG_TRACE_PORT.enable then s.dbg.frames ++ [tracePkt (timeWord s.now) data src type index s.dbg.seq]
        else s.dbg.frames } }.fset DBG_TRACE_STAT.wp (s.fget DBG_TRACE_STAT.wp + 1)

theorem State.packetAdded_keeps (s : State) (data src type index : Nat) : Keeps [.regs, .larder, .dbg] s (s.packetAdded data src type index) := by
  unfold State.packetAdded
  exact (State.fset_keeps ..).via rfl (Keeps.upd_larder_dbg rfl Keeps.refl Larder.write_markWords_wf)

theorem State.packetAdded_regsOnly (s : State) (data src type index : Nat) : s.RegsOnly [DBG_TRACE_STAT] (s.packetAdded data src type index) :=
  .fset (by decide) (.of_regs rfl)

theorem State.packetAdded_wp (s : State) (data src type index : Nat) :
    (s.packetAdded data src type index).fget DBG_TRACE_STAT.wp = (s.fget DBG_TRACE_STAT.wp + 1) % 2 ^ 20 := State.fget_fset _ _ (by decide)

theorem State.packetAdded_seq (s : State) (data src type index : Nat) :
    (s.packetAdded data src type index).dbg.seq = (s.dbg.seq + 1) % 2 ^ 24 := rfl

theorem State.packetAdded_lostNow (s : State) (data src type index : Nat) :
    (s.packetAdded data src type index).dbg.lostNow = s.dbg.lostNow := rfl

/-- While trace runs, nothing is lost and a slot is free, a packet offered is a packet added. -/
theorem State.trace_of_room {s : State} (hrun : s.fbit DBG_TRACE_CTL.run = true) (hlost : s.dbg.lostNow = 0)
    (hroom : s.fget DBG_TRACE_STAT.wp + 1 < s.traceSlots) (data src type index : Nat) :
    s.trace data src type index = s.packetAdded data src type index := by
  unfold State.trace State.writePkt
  rw [if_neg (by simp [hrun]), if_neg (by omega), if_pos hlost]
  exact if_pos hroom

/-! ### Sources without a channel -/

/-- A source that no channel enables fires nothing (R737). -/
theorem State.xt_of_disabled {s : State} {src : XtSrc} (h : ∀ c, s.xtEnabled c src = false) : s.xt src = s := by
  unfold State.xt State.xtSource
  exact List.foldl_fixed' (fun c => if_neg (by simp [h c])) _

/-- The registers of the cross-trigger channels lie apart from the trace status. -/
theorem DBG_XT_SRC_not_trace (c : Nat) : DBG_XT_SRC c ∉ [DBG_TRACE_CTL, DBG_TRACE_STAT] := by
  simp only [DBG_XT_SRC, DBG_TRACE_CTL, DBG_TRACE_STAT, List.mem_cons, List.not_mem_nil, or_false]
  omega

theorem DBG_XT_SINK_not_trace (c : Nat) : DBG_XT_SINK c ∉ [DBG_TRACE_CTL, DBG_TRACE_STAT] := by
  simp only [DBG_XT_SINK, DBG_TRACE_CTL, DBG_TRACE_STAT, List.mem_cons, List.not_mem_nil, or_false]
  omega

/-- A stimulus word whose port no channel watches is one packet (R740). -/
theorem exec_stimulusWrite_of_room {s : State} {n : Fin 256} {w : Word} {src : Fin 4096} (hrun : s.fbit DBG_TRACE_CTL.run = true)
    (hlost : s.dbg.lostNow = 0) (hroom : s.fget DBG_TRACE_STAT.wp + 1 < s.traceSlots) (hstim : ∀ c, s.fbit (DBG_XT_SRC.stim_en c) = false) :
    exec (.stimulusWrite n w src) s = .next (s.packetAdded w.toNat src.val 1 n.val) := by
  have hoff : ∀ c, (s.packetAdded w.toNat src.val 1 n.val).xtEnabled c (.stim n.val) = false := fun c => by
    have hsame := (State.packetAdded_regsOnly s w.toNat src.val 1 n.val).fget (f := DBG_XT_SRC.stim_en c)
      (fun h => DBG_XT_SRC_not_trace c (List.mem_cons_of_mem _ h))
    have hen := hstim c
    unfold State.fbit at hen
    simp [State.xtEnabled, State.fbit, hsame, hen]
  change Host.Outcome.next ((s.trace w.toNat src.val 1 n.val).xt (.stim n.val)) = _
  rw [State.trace_of_room hrun hlost hroom, State.xt_of_disabled hoff]

/-! ### A channel that starts trace -/

/-- On the way from `s` to `u` trace has started, and `n` packets have been written since (R741, log 53). -/
structure TraceAt (s u : State) (n : Nat) : Prop where
  run : u.fget DBG_TRACE_CTL.run = 1
  wp : u.fget DBG_TRACE_STAT.wp = n
  seq : u.dbg.seq = n
  lostNow : u.dbg.lostNow = 0
  regs : s.RegsOnly [DBG_TRACE_CTL, DBG_TRACE_STAT] u
  keeps : Keeps [.regs, .events, .larder, .dbg] s u

/-- One packet more. -/
theorem TraceAt.trace {s u : State} {n : Nat} (h : TraceAt s u n) (hn : n + 1 < 2 ^ 20) (hroom : n + 1 < s.traceSlots)
    (data src type index : Nat) : TraceAt s (u.trace data src type index) (n + 1) := by
  have hslots : u.traceSlots = s.traceSlots := by unfold State.traceSlots; rw [h.regs.fget (by decide)]
  rw [State.trace_of_room (by simp [State.fbit, h.run]) h.lostNow (by rw [h.wp, hslots]; exact hroom)]
  have hregs := u.packetAdded_regsOnly data src type index
  exact {
    run := (hregs.fget (by decide)).trans h.run
    wp := by rw [State.packetAdded_wp, h.wp, Nat.mod_eq_of_lt hn]
    seq := by rw [State.packetAdded_seq, h.seq]; omega
    lostNow := (State.packetAdded_lostNow ..).trans h.lostNow
    regs := h.regs.trans fun o ho => hregs o fun hm => ho (List.mem_cons_of_mem _ hm)
    keeps := (u.packetAdded_keeps data src type index).via rfl h.keeps }

/-- The trace registers at a start: trace runs, and writes from the base of the region (R741). -/
def State.traceRegs (s : State) : State := ((s.fset DBG_TRACE_CTL.run 1).fset DBG_TRACE_STAT.wp 0).fset DBG_TRACE_STAT.wrapped 0

/-- Trace that has started, before its first packet: the packet count begins at 0 (log 53). -/
def State.traceEmpty (s : State) : State := { s.traceRegs with dbg := { s.dbg with seq := 0 } }

theorem State.traceRegs_run (s : State) : s.traceRegs.fget DBG_TRACE_CTL.run = 1 := by
  unfold State.traceRegs
  rw [State.fget_fset_ne _ _ (by decide), State.fget_fset_ne _ _ (by decide), State.fget_fset _ _ (by decide)]
  rfl

theorem State.traceRegs_wp (s : State) : s.traceRegs.fget DBG_TRACE_STAT.wp = 0 := by
  unfold State.traceRegs
  rw [State.fget_fset_apart (f := DBG_TRACE_STAT.wrapped) (g := DBG_TRACE_STAT.wp) _ _ rfl (by decide) (by decide),
    State.fget_fset _ _ (by decide)]
  rfl

theorem State.traceRegs_regsOnly (s : State) : s.RegsOnly [DBG_TRACE_CTL, DBG_TRACE_STAT] s.traceRegs :=
  .fset (by decide) (.fset (by decide) (.fset (by decide) (.of_regs rfl)))

theorem State.traceRegs_keeps (s : State) : Keeps [.regs] s s.traceRegs := by
  unfold State.traceRegs
  exact (State.fset_keeps ..).trans ((State.fset_keeps ..).trans (State.fset_keeps ..))

theorem State.traceEmpty_regs (s : State) : s.traceEmpty.regs = s.traceRegs.regs := by unfold State.traceEmpty; rfl

theorem State.traceEmpty_at {s : State} (hlost : s.dbg.lostNow = 0) : TraceAt s s.traceEmpty 0 where
  run := (State.fget_congr s.traceEmpty_regs _).trans s.traceRegs_run
  wp := (State.fget_congr s.traceEmpty_regs _).trans s.traceRegs_wp
  seq := rfl
  lostNow := hlost
  regs := s.traceRegs_regsOnly.trans (.of_regs s.traceEmpty_regs)
  keeps := Keeps.upd_dbg rfl (s.traceRegs_keeps.via rfl Keeps.refl)

/-- Trace that starts writes its first packet. -/
theorem State.traceStart_at {s : State} (hstopped : s.fbit DBG_TRACE_CTL.run = false) (hlost : s.dbg.lostNow = 0) (hroom : 1 < s.traceSlots) :
    TraceAt s s.traceStart 1 := by
  have hstart : s.traceStart = s.traceEmpty.trace 0 nodeDbg 3 0 := by
    unfold State.traceStart
    rw [if_neg (by simp [hstopped])]
    rfl
  rw [hstart]
  exact (State.traceEmpty_at hlost).trace (by decide) hroom ..

/-- An armed channel that starts trace writes the start's packet and its own; below FULL it halts and freezes nothing (R737, R738). -/
theorem State.xtSinks_traceStart {s : State} {c : Nat} (hstart : s.fbit (DBG_XT_SINK.trace_start c) = true)
    (hstop : s.fbit (DBG_XT_SINK.trace_stop c) = false) (hstopped : s.fbit DBG_TRACE_CTL.run = false) (hlevel : s.debugLevel ≠ 3)
    (hlost : s.dbg.lostNow = 0) (hroom : 2 < s.traceSlots) : ∃ u, s.xtSinks c = (u, []) ∧ TraceAt s u 2 := by
  have hat := (State.traceStart_at hstopped hlost (by omega)).trace (by decide) hroom 0 nodeDbg 2 c
  have hnostop : (s.traceStart.trace 0 nodeDbg 2 c).fbit (DBG_XT_SINK.trace_stop c) = false := by
    unfold State.fbit at hstop ⊢
    rw [hat.regs.fget (DBG_XT_SINK_not_trace c), hstop]
  have hbelow : (s.traceStart.trace 0 nodeDbg 2 c).debugLevel ≠ 3 := by
    unfold State.debugLevel at hlevel ⊢
    rwa [hat.regs.fget (by decide)]
  refine ⟨_, ?_, hat⟩
  unfold State.xtSinks
  simp only [hstart, if_true, hnostop, Bool.false_eq_true, if_false, if_neg hbelow]

/-- A trigger match that fires such a channel (R737). -/
theorem runs_xtChannelFire_traceStart {s : State} {c : Fin 8} {h : HartIx} (hwatch : bit (s.fget (DBG_XT_SRC.watch c.val)) h.val = true)
    (harmed : s.fbit (DBG_XT_SINK.enable c.val) = true) (hstart : s.fbit (DBG_XT_SINK.trace_start c.val) = true)
    (hstop : s.fbit (DBG_XT_SINK.trace_stop c.val) = false) (hstopped : s.fbit DBG_TRACE_CTL.run = false) (hlevel : s.debugLevel ≠ 3)
    (hlost : s.dbg.lostNow = 0) (hroom : 2 < s.traceSlots) :
    Runs (.xtChannelFire c h) s [.regs, .events, .larder, .dbg] fun u =>
      u.fget DBG_TRACE_CTL.run = 1 ∧ u.fget DBG_TRACE_STAT.wp = 2 ∧ u.dbg.seq = 2 := by
  have hpost := s.postLimited_keeps (0x60000 + c.val) 0x1001 0 none c.val 1
  have hfget := fun f => State.fget_congr (hpost.only .regs (by decide)) f
  have hdbg : (s.postLimited (0x60000 + c.val) 0x1001 0 none c.val 1).dbg = s.dbg := hpost.only .dbg (by decide)
  obtain ⟨u, hsinks, hat⟩ := State.xtSinks_traceStart (s := s.postLimited (0x60000 + c.val) 0x1001 0 none c.val 1) (c := c.val)
    ((congrArg (· == 1) (hfget _)).trans hstart) ((congrArg (· == 1) (hfget _)).trans hstop) ((congrArg (· == 1) (hfget _)).trans hstopped)
    ((hfget _).trans_ne hlevel) ((congrArg Dbg.lostNow hdbg).trans hlost) (by unfold State.traceSlots at hroom ⊢; rwa [hfget])
  refine .of (u := u) ?_ (hat.keeps.via rfl (hpost.via rfl Keeps.refl)) ⟨hat.run, hat.wp, hat.seq⟩
  change execXtChannelFire c h s = _
  unfold execXtChannelFire State.xtFire
  simp only [State.xtEnabled, hwatch, harmed, if_true, hsinks, List.foldl_nil]

/-! ### Frames of packets -/

/-- A frame takes the oldest 32 packets that wait for the lane (R742). -/
theorem exec_traceFrameSend {s : State} (hwaiting : s.dbg.frames.isEmpty = false) (hport : s.fbit DBG_TRACE_PORT.enable = true) :
    exec .traceFrameSend s = .next { s with
      dbg := { s.dbg with frames := s.dbg.frames.drop 32, frameSeq := (s.dbg.frameSeq + 1) % 2 ^ 16 }
      answer := some ⟨stDone, traceFrame (s.fget DBG_TRACE_PORT.lane) s.dbg.frameSeq (s.dbg.frames.take 32), false⟩ } :=
  if_neg (by simp [hwaiting, hport])

/-! ### Halt requests -/

/-- A running hart with its watchdog off halts for debug with its reservation cleared (R735). -/
theorem State.haltHart_of_running {s : State} {h : Nat} (hrunning : (s.hart h).dbgHalt = false) (hcore : s.fget (MGC_CORE_STAT.state h) = 0)
    (hwdg : s.fbit (MGC_WDG_CTL.enable h) = false) :
    s.haltHart h = s.setHart h { s.hart h with dbgHalt := true, resv := none, count := 0 } := by
  simp [State.haltHart, hrunning, hcore, hwdg]

/-- A halt that no channel watches halts the hart and nothing else (R735). -/
theorem exec_dmHalt_of_running {s : State} {h : HartIx} (hrunning : (s.hart h.val).dbgHalt = false)
    (hcore : s.fget (MGC_CORE_STAT.state h.val) = 0) (hhalt : s.halted = false) (hwdg : s.fbit (MGC_WDG_CTL.enable h.val) = false)
    (hunwatched : ∀ c, bit (s.fget (DBG_XT_SRC.halt c)) h.val = false) :
    exec (.dmHalt h) s = .next (s.setHart h.val { s.hart h.val with dbgHalt := true, resv := none, count := 0 }) := by
  have hoff : ∀ c, (s.setHart h.val { s.hart h.val with dbgHalt := true, resv := none, count := 0 }).xtEnabled c (.halt h.val) = false :=
    hunwatched
  change execDmHalt h s = _
  unfold execDmHalt
  rw [if_neg (by simp [hrunning, hcore, hhalt]), State.haltHart_of_running hrunning hcore hwdg, State.xt_of_disabled hoff]

/-- Settles O29: each command's answer is known by its cases, and its frame is that of the operations it ends in. -/
theorem authTerminalAndTrace : Obligations.AuthTerminalAndTrace := by
  unfold Obligations.AuthTerminalAndTrace
  refine ⟨?scan, ?response, runs_dtxWrite, runs_drxConsume, ?register, ?frame, ?stimulus, ?channel, ?halt⟩
  case scan =>
    intro s key sig c t htap hmay hbound hlive hc
    exact .of (exec_auth_scan htap hmay hbound hlive hc key sig) (State.authScanned_keeps ..) ⟨rfl, rfl⟩
  case response =>
    intro s r l c k t w htap hmay hbound hlive hc hl hwant hw hzero hlevel hopen hblank hretired hslot
    exact ⟨runs_auth_verified htap hmay hbound hlive hc hl hwant hw hzero hlevel hopen hblank hretired hslot,
      runs_auth_unverified htap hmay hbound hlive hc hl hwant hw hzero hlevel hopen hblank hretired⟩
  case register =>
    intro s h n hlevel hcore herr hreg hhalt
    exact ⟨.of (exec_accessRegister_read hlevel hcore herr hreg hhalt) (Keeps.upd_dbg rfl Keeps.refl) rfl,
      fun hn => .of (exec_accessRegister_write hlevel hcore herr hreg hhalt hn) (State.setHart_keeps ..) (State.hart_setHart ..)⟩
  case frame =>
    intro s hwaiting hport
    exact .of (exec_traceFrameSend hwaiting hport) (Keeps.upd_dbg_answer rfl Keeps.refl) ⟨rfl, rfl⟩
  case stimulus =>
    intro s n w src p o hrun hlost hp hroom hstim ho
    subst hp ho
    exact .of (exec_stimulusWrite_of_room hrun hlost hroom hstim) (State.packetAdded_keeps ..)
      ⟨State.packetAdded_wp .., State.packetAdded_regsOnly _ _ _ _ _, rfl, State.packetAdded_seq ..⟩
  case channel =>
    intro s c h hwatch harmed hstart hstop hstopped hlevel hlost hroom
    exact runs_xtChannelFire_traceStart hwatch harmed hstart hstop hstopped hlevel hlost hroom
  case halt =>
    intro s h hrunning hcore hhalt hwdg hunwatched
    exact .of (exec_dmHalt_of_running hrunning hcore hhalt hwdg hunwatched) (State.setHart_keeps ..) rfl

/-! ### States that meet the hypotheses -/

/-- A DEVELOP device whose slot 2 may raise to FULL, with a live challenge and six failures counted. -/
def challengedDevice : State :=
  { ((State.reset.fset SEC_LIFECYCLE.lifecycle 1).fset SEC_LIFECYCLE.trng_ok 1).fset SEC_LIFECYCLE.auth_fail 6 with
    fuses := { Fuses.shipped with slots := [(2, ⟨9, 0b100, true, false⟩)], lifecycle := 1 }
    dbg := { Dbg.fresh with challenge := some (List.replicate 48 0xC3, 0, false) } }

/-- The terminal holds a word each way, with the count of losses at its top. -/
def fullTerminal : State :=
  (((State.reset.fset DBG_DTERM_STAT.tx_full 1).fset DBG_DTERM_STAT.tx_lost 16383).fset DBG_DTERM_STAT.rx_full 1).fset DBG_DRX.word 0x01020304

/-- A device at FULL whose hart 3 is halted for debug; `ra` holds a wide value and the data registers another. -/
def haltedHart : State :=
  { State.reset.fset SEC_LIFECYCLE.debug 3 with
    mgc := { State.reset.mgc with harts := [(3, { Hart.fresh with dbgHalt := true, regs := [(0x1001, 2 ^ 40 + 7)] })] }
    dbg := { Dbg.fresh with dm := [(dmData0, 5), (dmData1, 1)] } }

/-- Thirty-three packets wait for media lane 31, and the frame count is at its top. -/
def waitingPackets : State :=
  { (State.reset.fset DBG_TRACE_PORT.enable 1).fset DBG_TRACE_PORT.lane 31 with dbg := { Dbg.fresh with frames := List.range 33, frameSeq := 65535 } }

/-- Channel 7 is armed to start trace when a trigger of hart 3 matches. -/
def armedChannel : State :=
  ((State.reset.fset (DBG_XT_SRC.watch 7) 8).fset (DBG_XT_SINK.enable 7) 1).fset (DBG_XT_SINK.trace_start 7) 1

/-- States that meet the hypotheses of O29 on AUTH: the signature verifies or fails at the seventh response. -/
theorem authTerminalAndTrace_auth_witness :
    (∃ u, exec (.auth none none false) challengedDevice = .next u ∧ u.dbg.ir = 0x11) ∧
    (∃ u, exec (.auth (some [3]) (some 2) true) challengedDevice = .next u ∧ u.debugLevel = 3 ∧ u.fget SEC_LIFECYCLE.auth_fail = 0) ∧
    (∃ u, exec (.auth (some [3]) (some 2) false) challengedDevice = .next u ∧ u.debugLevel = 0 ∧ u.fget SEC_LIFECYCLE.auth_fail = 7) := by
  obtain ⟨scan, response, -⟩ := authTerminalAndTrace
  have hlive : challengedDevice.challengeLive = true := by decide +kernel
  obtain ⟨u, hu, ⟨hdbg, -⟩, -⟩ := scan challengedDevice none false _ _ (by decide +kernel) (by decide +kernel) rfl hlive rfl
  obtain ⟨⟨v, hv, ⟨hlevel, hfail, -⟩, -⟩, hrefuse⟩ := response challengedDevice [3] _ _ 2 _ 3 (by decide +kernel) (by decide +kernel) rfl hlive rfl
    rfl (by decide +kernel) (by decide) (by decide +kernel) (by decide +kernel) (by decide +kernel) (by decide +kernel) (by decide +kernel)
    (by decide +kernel)
  obtain ⟨w, hw, ⟨hlevel', hfail', -⟩, -⟩ := hrefuse (by decide +kernel)
  exact ⟨⟨u, hu, congrArg Dbg.ir hdbg⟩, ⟨v, hv, hlevel, hfail⟩,
    ⟨w, hw, hlevel'.trans (by decide +kernel), hfail'.trans (by decide +kernel)⟩⟩

/-- States that meet the hypotheses of O29 on the terminal and on a halted hart: a word lost and one taken, a register read and written. -/
theorem authTerminalAndTrace_access_witness :
    (∃ u, exec (.dtxWrite 9) fullTerminal = .next u ∧ u.fget DBG_DTERM_STAT.tx_lost = 16383) ∧
    (∃ u, exec .drxConsume fullTerminal = .next u ∧ u.answer = some ⟨stDone, [4, 3, 2, 1], false⟩) ∧
    (∃ u, exec (.accessRegister 3 0x1001 false false) haltedHart = .next u ∧ u.dmReg dmData0 = 7) ∧
    (∃ u, exec (.accessRegister 3 0x1001 true true) haltedHart = .next u ∧ Tab.get 0 (u.hart 3).regs 0x1001 = 2 ^ 32 + 5) := by
  obtain ⟨-, -, dtx, drx, register, -⟩ := authTerminalAndTrace
  obtain ⟨u1, h1, ⟨-, -, hfull⟩, -⟩ := dtx fullTerminal 9
  obtain ⟨u2, h2, ⟨-, -, hanswer⟩, -⟩ := drx fullTerminal
  obtain ⟨⟨u3, h3, hread, -⟩, hwrite⟩ := register haltedHart 3 0x1001 (by decide +kernel) (by decide +kernel) (by decide +kernel)
    (by decide +kernel) (by decide +kernel)
  obtain ⟨u4, h4, hregs, -⟩ := hwrite (by decide)
  refine ⟨⟨u1, h1, (hfull (by decide +kernel)).1.trans (by decide +kernel)⟩, ⟨u2, h2, hanswer.trans (by decide +kernel)⟩, ⟨u3, h3, ?_⟩,
    ⟨u4, h4, ?_⟩⟩
  · unfold State.dmReg
    rw [hread]
    decide +kernel
  · refine (congrArg (fun v => Tab.get 0 (Hart.regs v) 0x1001) hregs).trans ?_
    decide +kernel

/-- The table that stores 0 for every offset below `n`. -/
def zeroTab : Nat → Tab Word
  | 0 => []
  | n + 1 => (n, 0) :: zeroTab n

theorem get_zeroTab (d : Word) (n o : Nat) : Tab.get d (zeroTab n) o = if o < n then 0 else d := by
  induction n with
  | zero => rfl
  | succ n ih =>
    rw [zeroTab, Tab.get, ih]
    by_cases h : n = o
    · simp [h]
    · rw [if_neg h]
      congr 1
      exact propext (by omega)

/-- The device with every register of the window at 0. -/
def zeroRegs : State := { State.reset with regs := zeroTab 0xC00000 }

/-- Beyond the windows of the dies no register is defined (R777). -/
theorem resetWord_beyond {o : Nat} (h : 0xC00000 ≤ o) : resetWord o = 0 := by
  have hdie : dieOfOff o = none := if_neg (by omega)
  have hnone : regDefAt o = none := by
    unfold regDefAt
    rw [if_neg (by omega), hdie]
    rfl
  unfold resetWord
  rw [hnone]

theorem zeroRegs_reg (o : Nat) : zeroRegs.reg o = 0 := by
  unfold State.reg zeroRegs
  rw [get_zeroTab]
  split
  · rfl
  · next h => exact resetWord_beyond (Nat.le_of_not_lt h)

theorem zeroRegs_fget (f : Fld) : zeroRegs.fget f = 0 := by
  unfold State.fget
  rw [zeroRegs_reg]
  simp [bits]

/-- The registers at 0 but for 1 MiB of TRACE, trace that runs, and a write pointer with one slot free. -/
def runningTrace : State := ((zeroRegs.setReg LRD_LAYOUT 0x10000).fset DBG_TRACE_CTL.run 1).fset DBG_TRACE_STAT.wp 32766

theorem runningTrace_reg {o : Nat} (h : o ∉ [DBG_TRACE_CTL, DBG_TRACE_STAT]) : runningTrace.reg o = if o = LRD_LAYOUT then 0x10000 else 0 := by
  simp only [List.mem_cons, List.not_mem_nil, or_false, not_or] at h
  unfold runningTrace
  rw [State.reg_fset_ne _ _ h.2, State.reg_fset_ne _ _ h.1]
  split
  · next hlayout => rw [hlayout, State.reg_setReg]
  · next hother => rw [State.reg_setReg_ne _ _ hother, zeroRegs_reg]

theorem runningTrace_stim_en (c : Nat) : runningTrace.fget (DBG_XT_SRC.stim_en c) = 0 := by
  unfold State.fget
  rw [show (DBG_XT_SRC.stim_en c).off = DBG_XT_SRC c from rfl, runningTrace_reg (DBG_XT_SRC_not_trace c)]
  change bits _ 17 1 = 0
  split <;> rfl

theorem runningTrace_run : runningTrace.fget DBG_TRACE_CTL.run = 1 := by
  unfold runningTrace
  rw [State.fget_fset_ne _ _ (by decide), State.fget_fset _ _ (by decide)]
  rfl

theorem runningTrace_wp : runningTrace.fget DBG_TRACE_STAT.wp = 32766 := by
  unfold runningTrace
  rw [State.fget_fset _ _ (by decide)]
  rfl

theorem runningTrace_layout : runningTrace.reg LRD_LAYOUT = 0x10000 := by
  rw [runningTrace_reg (o := LRD_LAYOUT) (by decide), if_pos rfl]

theorem runningTrace_slots : runningTrace.traceSlots = 32768 := by
  have hmib : runningTrace.fget LRD_LAYOUT.trace_mib = 1 := by
    rw [State.fget, show LRD_LAYOUT.trace_mib.off = LRD_LAYOUT from rfl, runningTrace_layout]
    decide
  rw [State.traceSlots, hmib, Nat.one_mul]

/-- States that meet the hypotheses of O29 on trace, cross-triggers and halts: a frame of 32 packets, a stimulus in the last slot but one, a
channel that starts trace, and a hart that halts. -/
theorem authTerminalAndTrace_trace_witness :
    (∃ u, exec .traceFrameSend waitingPackets = .next u ∧ u.dbg.frames = [32] ∧ u.dbg.frameSeq = 0) ∧
    (∃ u, exec (.stimulusWrite 255 0xFFFFFFFF 3) runningTrace = .next u ∧ u.fget DBG_TRACE_STAT.wp = 32767) ∧
    (∃ u, exec (.xtChannelFire 7 3) armedChannel = .next u ∧ u.fget DBG_TRACE_STAT.wp = 2) ∧
    (∃ u, exec (.dmHalt 1) zeroRegs = .next u ∧ (u.hart 1).dbgHalt = true) := by
  obtain ⟨-, -, -, -, -, frame, stimulus, channel, halt⟩ := authTerminalAndTrace
  obtain ⟨u1, h1, ⟨hframes, -⟩, -⟩ := frame waitingPackets rfl (by decide +kernel)
  obtain ⟨u2, h2, ⟨hnext, -⟩, -⟩ := stimulus runningTrace 255 0xFFFFFFFF 3 32766 _ (by simp [State.fbit, runningTrace_run]) rfl
    runningTrace_wp.symm (by rw [runningTrace_slots]; decide) (fun c => by simp [State.fbit, runningTrace_stim_en c]) rfl
  obtain ⟨u3, h3, ⟨-, hwp', -⟩, -⟩ := channel armedChannel 7 3 (by decide +kernel) (by decide +kernel) (by decide +kernel) (by decide +kernel)
    (by decide +kernel) (by decide +kernel) rfl (by decide +kernel)
  obtain ⟨u4, h4, hmgc, -⟩ := halt zeroRegs 1 rfl (zeroRegs_fget _) (by simp [State.halted, State.fbit, zeroRegs_fget])
    (by simp [State.fbit, zeroRegs_fget]) (fun c => by simp [zeroRegs_fget, bit, bits])
  refine ⟨⟨u1, h1, congrArg Dbg.frames hframes, congrArg Dbg.frameSeq hframes⟩, ⟨u2, h2, hnext⟩, ⟨u3, h3, hwp'⟩, ⟨u4, h4, ?_⟩⟩
  exact congrArg Hart.dbgHalt ((congrArg (fun m => Tab.get .fresh (Mgc.harts m) 1) hmgc).trans Tab.get_put_self)

end Sys2Proof.Machine
end

section
/-! SUPPORT. The instructions of the TAP: what each selects and captures, boundary operation, and the terminal's update (R722–R729, R743). -/

namespace Sys2Proof.Machine

/-! ### Instructions and boundary operation -/

/-- The parts that the end of boundary operation and the selection of an instruction may change (R723, R727). -/
abbrev tapParts : List Part := [.regs, .events, .larder, .pool, .corr, .lanes, .mac, .dbg, .answer, .free]

/-- The answer of a scan: what Capture-IR loads, then the data register (R723, log 62). -/
def State.tapAnswer (s : State) (dr : List Byte) : Option Answer := some ⟨stDone, leBytes 1 s.irCapture ++ dr, false⟩

/-- A boundary instruction that ends leaves nothing else of the debug unit changed (R727). -/
theorem State.endBoundary_dbg (s : State) : s.endBoundary.dbg = { s.dbg with boundary := none } := by
  unfold State.endBoundary
  split
  · next hnone => rw [← Option.isNone_iff_eq_none.mp hnone]
  · have htrain : Keeps [.regs, .events, .larder, .pool, .corr, .lanes, .mac, .free] { s with dbg := { s.dbg with boundary := none } }
        ((List.range 96).foldl (fun a l => if [3, 4, 6].contains (a.fget (laneState l)) then a else a.laneTrain l)
          { s with dbg := { s.dbg with boundary := none } }) :=
      Keeps.foldl (fun a l => Keeps.ite (fun _ => Keeps.refl) (fun _ => a.laneTrain_keeps l)) Keeps.refl
    exact htrain.only .dbg (by decide)

section
variable {c : Instr} {s : State} {code : Nat}

theorem State.selectIr_dbg (s : State) (code st : Nat) (dr : List Byte) :
    (s.selectIr code st dr).dbg = { s.dbg with ir := code, boundary := none } := by
  change { s.endBoundary.dbg with ir := code } = _
  rw [s.endBoundary_dbg]

/-- A command that selects an instruction makes it current, ends boundary operation and answers its capture (R724, R727). -/
theorem runs_selectIr {dr : List Byte} (hexec : exec c s = .next (s.selectIr code stDone dr)) :
    Runs c s tapParts fun u => u.dbg = { s.dbg with ir := code, boundary := none } ∧ u.answer = s.tapAnswer dr :=
  .of hexec (s.selectIr_keeps ..) ⟨s.selectIr_dbg .., rfl⟩

/-- Every memory channel in self-refresh (R727). -/
def State.channelsAsleep (s : State) : State := (List.range 16).foldl (fun a c => a.selfRefresh c) s

theorem State.channelsAsleep_keeps (s : State) : Keeps [.regs] s s.channelsAsleep :=
  Keeps.foldl (fun a c => a.selfRefresh_keeps c) Keeps.refl

/-- A boundary instruction that is permitted starts boundary operation (R724, R727). -/
theorem State.boundaryIr_of_permitted {cells : Option Nat} (htap : s.tapOn = true) (hmay : s.mayExtest = true) :
    s.boundaryIr code cells = { s.channelsAsleep with
      dbg := { s.dbg with ir := code, boundary := some code, cells := cells.getD s.dbg.cells }
      answer := s.tapAnswer (if cells.isSome then s.boundaryBytes else [0]) } := by
  have hdbg : s.channelsAsleep.dbg = s.dbg := s.channelsAsleep_keeps.only .dbg (by decide)
  unfold State.boundaryIr
  rw [if_neg (by simp [htap]), if_neg (by simp [hmay]), ← hdbg]
  rfl

theorem runs_boundaryIr {cells : Option Nat} (hexec : exec c s = .next (s.boundaryIr code cells)) (htap : s.tapOn = true)
    (hmay : s.mayExtest = true) :
    Runs c s tapParts fun u =>
      u.dbg = { s.dbg with ir := code, boundary := some code, cells := cells.getD s.dbg.cells } ∧
      u.answer = s.tapAnswer (if cells.isSome then s.boundaryBytes else [0]) := by
  refine .of hexec (s.boundaryIr_keeps ..) ?_
  rw [State.boundaryIr_of_permitted htap hmay]
  exact ⟨rfl, rfl⟩

end

/-! ### The terminal's update -/

/-- The debugger says by bit 32 that it has taken the word sent (R743). -/
def State.txTaken (s : State) (v : Nat) : State := if bit v 32 then s.fset DBG_DTERM_STAT.tx_full 0 else s

/-- The debugger sends a word by bit 33, where there is room and FULL holds (R743). -/
def State.rxPlaced (s : State) (v : Nat) : State :=
  if bit v 33 && !s.fbit DBG_DTERM_STAT.rx_full && s.debugLevel == 3 then (s.fset DBG_DRX.word (bits v 0 32)).fset DBG_DTERM_STAT.rx_full 1 else s

theorem State.txTaken_keeps (s : State) (v : Nat) : Keeps [.regs] s (s.txTaken v) := by
  unfold State.txTaken
  exact Keeps.ite (fun _ => s.fset_keeps ..) (fun _ => Keeps.refl)

theorem State.rxPlaced_keeps (s : State) (v : Nat) : Keeps [.regs] s (s.rxPlaced v) := by
  unfold State.rxPlaced
  exact Keeps.ite (fun _ => (State.fset_keeps ..).trans (s.fset_keeps ..)) (fun _ => Keeps.refl)

theorem State.txTaken_regsOnly (s : State) (v : Nat) : s.RegsOnly [DBG_DTERM_STAT, DBG_DRX] (s.txTaken v) := by
  unfold State.txTaken
  split
  · exact .fset (by decide) (.of_regs rfl)
  · exact .of_regs rfl

theorem State.rxPlaced_regsOnly (s : State) (v : Nat) : s.RegsOnly [DBG_DTERM_STAT, DBG_DRX] (s.rxPlaced v) := by
  unfold State.rxPlaced
  split
  · exact .fset (by decide) (.fset (by decide) (.of_regs rfl))
  · exact .of_regs rfl

theorem State.txTaken_tx_full {s : State} {v : Nat} (h : bit v 32 = true) : (s.txTaken v).fget DBG_DTERM_STAT.tx_full = 0 := by
  unfold State.txTaken
  rw [if_pos h]
  exact State.fget_fset_of_lt _ (by decide) (by decide)

theorem State.txTaken_rx_full (s : State) (v : Nat) : (s.txTaken v).fget DBG_DTERM_STAT.rx_full = s.fget DBG_DTERM_STAT.rx_full := by
  unfold State.txTaken
  split
  · exact State.fget_fset_apart _ _ rfl (by decide) (by decide)
  · rfl

theorem State.rxPlaced_tx_full (s : State) (v : Nat) : (s.rxPlaced v).fget DBG_DTERM_STAT.tx_full = s.fget DBG_DTERM_STAT.tx_full := by
  unfold State.rxPlaced
  split
  · rw [State.fget_fset_apart (f := DBG_DTERM_STAT.rx_full) (g := DBG_DTERM_STAT.tx_full) _ _ rfl (by decide) (by decide),
      State.fget_fset_ne _ _ (by decide)]
  · rfl

theorem State.rxPlaced_word {s : State} {v : Nat} (hsend : bit v 33 = true) (hroom : s.fbit DBG_DTERM_STAT.rx_full = false)
    (hlevel : s.debugLevel = 3) :
    (s.rxPlaced v).fget DBG_DRX.word = bits v 0 32 ∧ (s.rxPlaced v).fget DBG_DTERM_STAT.rx_full = 1 := by
  unfold State.rxPlaced
  rw [if_pos (by simp [hsend, hroom, hlevel])]
  refine ⟨?_, State.fget_fset_of_lt _ (by decide) (by decide)⟩
  rw [State.fget_fset_ne _ _ (by decide)]
  exact State.fget_fset_of_lt _ (by decide) (bits_lt v 0 32)

/-- What DTERM captures (R743). -/
def State.terminalCapture (s : State) : Nat :=
  s.fget DBG_DTX.word + s.fget DBG_DTERM_STAT.rx_full * 2 ^ 32 + s.fget DBG_DTERM_STAT.tx_full * 2 ^ 33

/-- The TAP with DTERM selected, its scan answered. -/
def State.dtermSelected (s : State) : State := { s with dbg := { s.dbg with ir := 0x13 }, answer := s.tapAnswer (leBytes 5 s.terminalCapture) }

theorem exec_dtermUpdate_of_permitted {s : State} (v : BitVec 34) (htap : s.tapOn = true) (hmay : s.mayJt = true) (hbound : s.dbg.boundary = none) :
    exec (.dtermUpdate v) s = .next ((s.dtermSelected.txTaken v.toNat).rxPlaced v.toNat) := by
  change execDtermUpdate v s = _
  unfold execDtermUpdate
  rw [if_neg (by simp [htap]), if_neg (by simp [hmay])]
  dsimp only
  rw [State.selectIr_of_no_boundary hbound]
  rfl

/-- At FULL the update of DTERM takes and places words, and answers what it captured before (R743). -/
theorem runs_dtermUpdate {s : State} (v : BitVec 34) (htap : s.tapOn = true) (hmay : s.mayJt = true) (hlevel : s.debugLevel = 3)
    (hbound : s.dbg.boundary = none) :
    Runs (.dtermUpdate v) s [.regs, .dbg, .answer] fun u =>
      (bit v.toNat 32 = true → u.fget DBG_DTERM_STAT.tx_full = 0) ∧
      (bit v.toNat 33 = true → s.fbit DBG_DTERM_STAT.rx_full = false →
        u.fget DBG_DRX.word = bits v.toNat 0 32 ∧ u.fget DBG_DTERM_STAT.rx_full = 1) ∧
      s.RegsOnly [DBG_DTERM_STAT, DBG_DRX] u ∧ u.dbg = { s.dbg with ir := 0x13 } ∧ u.answer = s.tapAnswer (leBytes 5 s.terminalCapture) := by
  have htaken := s.dtermSelected.txTaken_regsOnly v.toNat
  have hkeeps : Keeps [.regs] s.dtermSelected ((s.dtermSelected.txTaken v.toNat).rxPlaced v.toNat) :=
    (State.rxPlaced_keeps ..).trans (State.txTaken_keeps ..)
  refine .of (exec_dtermUpdate_of_permitted v htap hmay hbound) (hkeeps.via rfl (Keeps.upd_dbg_answer rfl Keeps.refl))
    ⟨fun h => ?_, fun hsend hroom => ?_, ?_, hkeeps.only .dbg (by decide), hkeeps.only .answer (by decide)⟩
  · rw [State.rxPlaced_tx_full, State.txTaken_tx_full h]
  · refine State.rxPlaced_word hsend ?_ ((htaken.fget (by decide)).trans hlevel)
    exact (congrArg (· == 1) (State.txTaken_rx_full ..)).trans hroom
  · exact htaken.trans (State.rxPlaced_regsOnly _ _)

/-- Settles O27: an instruction's meaning is the selection or the start of boundary operation with its own code and capture. -/
theorem jtagInstructions : Obligations.JtagInstructions := by
  unfold Obligations.JtagInstructions
  refine ⟨?reset, ?select, ?sample, ?extest, ?pads, ?scanEnd, ?readback, ?terminal⟩
  case reset =>
    intro s
    refine .of rfl (Keeps.upd_dbg rfl s.endBoundary_keeps) ?_
    change { s.endBoundary.dbg with ir := 2 } = _
    rw [s.endBoundary_dbg]
  case select =>
    rintro s c code dr htap (⟨rfl, rfl, rfl⟩ | ⟨rfl, rfl, rfl⟩ | ⟨rfl, rfl, rfl⟩) <;> exact runs_selectIr (if_pos htap)
  case sample =>
    intro s cells htap
    refine .of (if_pos htap) (Keeps.upd_dbg rfl (s.selectIr_keeps ..)) ⟨?_, rfl⟩
    change { (s.selectIr ..).dbg with cells := cells } = _
    rw [s.selectIr_dbg]
  case extest =>
    rintro s c code cells htap hmay (⟨rfl, rfl⟩ | ⟨rfl, rfl⟩ | ⟨rfl, rfl⟩) <;> exact runs_boundaryIr (cells := some cells) rfl htap hmay
  case pads =>
    rintro s c code htap hmay (⟨rfl, rfl⟩ | ⟨rfl, rfl⟩) <;> exact runs_boundaryIr (cells := none) rfl htap hmay
  case scanEnd => exact fun s => .of rfl s.endBoundary_keeps s.endBoundary_dbg
  case readback =>
    intro s t f htap hmay
    refine .of ((if_neg (by simp [htap])).trans (if_neg (by simp [hmay]))) (Keeps.upd_dbg rfl (s.selectIr_keeps ..)) ⟨?_, rfl⟩
    change { (s.selectIr ..).dbg with readSel := some (t.val, f.val) } = _
    rw [s.selectIr_dbg]
  case terminal => exact fun s v htap hmay hlevel hbound => runs_dtermUpdate v htap hmay hlevel hbound

/-! ### States that meet the hypotheses -/

/-- A blank device at FULL with a word sent to the debugger. -/
def terminalAtFull : State := ((State.reset.fset SEC_LIFECYCLE.debug 3).fset DBG_DTERM_STAT.tx_full 1).fset DBG_DTX.word 0x01020304

/-- That device while EXTEST_TRAIN is in force. -/
def trainingTap : State := { terminalAtFull with dbg := { Dbg.fresh with ir := 6, boundary := some 6, cells := 7 } }

/-- States that meet the hypotheses of O27: at FULL each instruction ends or replaces the boundary operation in force, and the terminal exchanges
two words. -/
theorem jtagInstructions_witness :
    (∃ u, exec .tapReset trainingTap = .next u ∧ u.dbg = { Dbg.fresh with cells := 7 }) ∧
    (∃ u, exec .idcode trainingTap = .next u ∧ u.answer = some ⟨stDone, [13, 0x4F, 0x83, 0x80, 0x15], false⟩) ∧
    (∃ u, exec (.samplePreload 9) trainingTap = .next u ∧ u.dbg = { Dbg.fresh with ir := 1, cells := 9 }) ∧
    (∃ u, exec (.extestPulse 9) trainingTap = .next u ∧ u.dbg = { Dbg.fresh with ir := 5, boundary := some 5, cells := 9 }) ∧
    (∃ u, exec .highz trainingTap = .next u ∧ u.answer = some ⟨stDone, [13, 0], false⟩) ∧
    (∃ u, exec .boundaryScanEnd trainingTap = .next u ∧ u.dbg = { Dbg.fresh with ir := 6, cells := 7 }) ∧
    (∃ u, exec (.cfgReadback (some (103, 0x9FFF))) trainingTap = .next u ∧ u.dbg.readSel = some (103, 0x9FFF)) ∧
    (∃ u, exec (.dtermUpdate 0x3FFFFFFFF) terminalAtFull = .next u ∧ u.fget DBG_DTERM_STAT.tx_full = 0 ∧ u.fget DBG_DRX.word = 0xFFFFFFFF ∧
      u.answer = some ⟨stDone, [13, 4, 3, 2, 1, 2], false⟩) := by
  obtain ⟨reset, select, sample, extest, pads, scanEnd, readback, terminal⟩ := jtagInstructions
  have htap : trainingTap.tapOn = true := by decide +kernel
  have hmay : trainingTap.mayExtest = true := by decide +kernel
  obtain ⟨u1, h1, hreset, -⟩ := reset trainingTap
  obtain ⟨u2, h2, ⟨-, hcode⟩, -⟩ := select trainingTap .idcode _ _ htap (.inl ⟨rfl, rfl, rfl⟩)
  obtain ⟨u3, h3, ⟨hsample, -⟩, -⟩ := sample trainingTap 9 htap
  obtain ⟨u4, h4, ⟨hpulse, -⟩, -⟩ := extest trainingTap (.extestPulse 9) 5 9 htap hmay (.inr (.inl ⟨rfl, rfl⟩))
  obtain ⟨u5, h5, ⟨-, hbypass⟩, -⟩ := pads trainingTap .highz 4 htap hmay (.inr ⟨rfl, rfl⟩)
  obtain ⟨u6, h6, hend, -⟩ := scanEnd trainingTap
  obtain ⟨u7, h7, ⟨hsel, -⟩, -⟩ := readback trainingTap 103 0x9FFF htap (by decide +kernel)
  obtain ⟨u8, h8, ⟨htaken, hplaced, -, -, hword⟩, -⟩ := terminal terminalAtFull 0x3FFFFFFFF (by decide +kernel) (by decide +kernel)
    (by decide +kernel) rfl
  exact ⟨⟨u1, h1, hreset⟩, ⟨u2, h2, hcode.trans (by decide +kernel)⟩, ⟨u3, h3, hsample⟩, ⟨u4, h4, hpulse⟩,
    ⟨u5, h5, hbypass.trans (by decide +kernel)⟩, ⟨u6, h6, hend⟩, ⟨u7, h7, congrArg Dbg.readSel hsel⟩,
    ⟨u8, h8, htaken (by decide), (hplaced (by decide) (by decide +kernel)).1.trans (by decide), hword.trans (by decide +kernel)⟩⟩

end Sys2Proof.Machine
end

section
/-! SUPPORT. Debug operations on tins: freeze, release, step, readback and state write (R744, R745). -/

namespace Sys2Proof.Machine

/-! ### The state of a tin -/

/-- A register of the hub is no register of a tin (R776). -/
theorem State.tinState_fset_hub (s : State) {f : Fld} (v t : Nat) (h : f.off < 0x800000) : (s.fset f v).tinState t = s.tinState t :=
  State.fget_fset_ne _ _ fun hsame => TIN_STAT_not_mem (l := [f.off]) (by simpa using h) (List.mem_singleton.mpr hsame)

theorem State.tinState_fset_self (s : State) (t : Nat) {v : Nat} (hv : v < 8) : (s.fset (TIN_STAT.state t) v).tinState t = v :=
  State.fget_fset_of_lt _ (TIN_STAT_state_fits t) hv

/-! ### `DBG_TIN_CTL` -/

section
variable (s : State) (op d r port : Nat)

theorem State.tinCtl_regsOnly : s.RegsOnly [DBG_TIN_CTL] (s.tinCtl op d r port) :=
  .fset (by decide) (.fset (by decide) (.fset (by decide) (.fset (by decide) (.of_regs rfl))))

@[simp] theorem State.tinCtl_tin (t : Nat) : (s.tinCtl op d r port).tin t = s.tin t := rfl
@[simp] theorem State.tinCtl_tinOf (e q : Nat) : (s.tinCtl op d r port).tinOf e q = s.tinOf e q := rfl
@[simp] theorem State.tinCtl_setTin_tins (t : Nat) (x : Tin) : ((s.tinCtl op d r port).setTin t x).tins = (s.setTin t x).tins := rfl
@[simp] theorem State.tinCtl_larder : (s.tinCtl op d r port).larder = s.larder := rfl

@[simp] theorem State.tinCtl_tinState (t : Nat) : (s.tinCtl op d r port).tinState t = s.tinState t :=
  (s.tinCtl_regsOnly op d r port).fget (TIN_STAT_not_mem (by decide))

@[simp] theorem State.tinCtl_dbgQuiet (e q : Nat) : (s.tinCtl op d r port).dbgQuiet e q = s.dbgQuiet e q := by
  unfold State.dbgQuiet
  dsimp only
  rw [State.tinCtl_tinState]
  rfl

@[simp] theorem State.tinCtl_traceRun : (s.tinCtl op d r port).fbit DBG_TRACE_CTL.run = s.fbit DBG_TRACE_CTL.run :=
  congrArg (· == 1) ((s.tinCtl_regsOnly op d r port).fget (by decide))

@[simp] theorem State.tinCtl_tinBuf : (s.tinCtl op d r port).tinBuf = s.tinBuf := by
  have hsame {f : Fld} (hf : f.off ∉ [DBG_TIN_CTL]) : (s.tinCtl op d r port).fget f = s.fget f := (s.tinCtl_regsOnly op d r port).fget hf
  unfold State.tinBuf State.traceBase State.imageBase
  rw [hsame (by decide), hsame (by decide), hsame (by decide), hsame (by decide)]

end

/-! ### The outcome of an operation -/

@[simp] theorem State.tinOpEnd_tins (s : State) (st : Nat) : (s.tinOpEnd st).tins = s.tins := rfl

@[simp] theorem State.tinOpEnd_larder (s : State) (st : Nat) : (s.tinOpEnd st).larder = s.larder := rfl

theorem State.tinOpEnd_done (s : State) : (s.tinOpEnd stDone).fget DBG_TIN_STAT.status = stDone := State.fget_fset_of_lt _ (by decide) (by decide)

/-- The outcome leaves the state of the debugged tin as the operation set it. -/
theorem State.tinOpEnd_state (s : State) (st : Nat) : (s.tinOpEnd st).fget DBG_TIN_STAT.state = s.fget DBG_TIN_STAT.state :=
  State.fget_fset_apart _ _ rfl (by decide) (by decide)

theorem State.tinOpEnd_tinState (s : State) (st t : Nat) : (s.tinOpEnd st).tinState t = s.tinState t :=
  s.tinState_fset_hub _ _ (by decide)

theorem State.fget_fset_debugState (s : State) {v : Nat} (hv : v < 8) : (s.fset DBG_TIN_STAT.state v).fget DBG_TIN_STAT.state = v :=
  State.fget_fset_of_lt _ (by decide) hv

section
variable {s v : State} {op d r port : Nat}

/-- An operation at FULL that is done has changed `DBG_TIN_CTL`, and beyond that what its work and its outcome change (R744). -/
theorem Runs.of_tinOp {c : Instr} {w : State} {ps : List Part} {P : State → Prop} (hlevel : s.debugLevel = 3) (hop : w = v.tinOpEnd stDone)
    (hexec : exec c s = .next (if s.debugLevel ≠ 3 then { s with answer := some ⟨stNoRights, [], false⟩ } else w))
    (hregs : Part.sub [.regs] ps = true) (hkeeps : Keeps ps (s.tinCtl op d r port) v) (p : P (v.tinOpEnd stDone)) : Runs c s ps P :=
  .of (hexec.trans (congrArg _ ((if_neg (not_not.mpr hlevel)).trans hop)))
    ((v.tinOpEnd_keeps stDone).via hregs (hkeeps.trans ((s.tinCtl_keeps op d r port).via hregs Keeps.refl))) p

theorem State.RegsOnly.tinOp (h : (s.tinCtl op d r port).RegsOnly [DBG_TIN_CTL, DBG_TIN_STAT] v) :
    s.RegsOnly [DBG_TIN_CTL, DBG_TIN_STAT] (v.tinOpEnd stDone) :=
  .fset (by decide) (.trans ((s.tinCtl_regsOnly op d r port).mono (by simp)) h)

end

/-! ### The work of an operation -/

section
variable {s : State} {d r : Nat}

/-- A debug freeze begins: the inbound ports of the tin are asked to stall (R744 op 0). -/
def State.freezing (s : State) (d r : Nat) : State :=
  State.fset { s.setTin (s.tinOf d r) (s.tin (s.tinOf d r)).askStall with dbg := { s.dbg with frozen := s.dbg.frozen ++ [13 * d + r] } }
    DBG_TIN_STAT.state dsFreezing

theorem State.freezing_keeps (s : State) (d r : Nat) : Keeps [.regs, .tins, .dbg] s (s.freezing d r) := by
  unfold State.freezing
  exact (State.fset_keeps ..).via rfl (Keeps.upd_dbg rfl ((State.setTin_keeps ..).via rfl Keeps.refl))

theorem State.freezing_tins (s : State) (d r : Nat) : (s.freezing d r).tins = (s.setTin (s.tinOf d r) (s.tin (s.tinOf d r)).askStall).tins := rfl

theorem State.freezing_regsOnly (s : State) (d r : Nat) : s.RegsOnly [DBG_TIN_CTL, DBG_TIN_STAT] (s.freezing d r) :=
  .fset (by decide) (.of_regs rfl)

theorem State.opFreeze_of_in_service (hstate : s.tinState (s.tinOf d r) = tsInService) (hfree : s.dbgFrozen d r = false) :
    s.opFreeze d r = (s.freezing d r).tinOpEnd stDone := by
  unfold State.opFreeze State.freezeRole
  rw [if_neg (by simp [hstate, hfree])]
  rfl

/-- A debug freeze ends: the ports have their modes back, and the tin is in service (R744 op 1). -/
def State.releasing (s : State) (d r : Nat) : State :=
  State.fset { (s.setTin (s.tinOf d r) (s.tin (s.tinOf d r)).unstall.settle).fset (TIN_STAT.state (s.tinOf d r)) tsInService with
    dbg := { s.dbg with
      frozen := s.dbg.frozen.filter (· != 13 * d + r)
      stepping := if s.dbg.stepping = some (13 * d + r) then none else s.dbg.stepping } }
    DBG_TIN_STAT.state dsIdle

theorem State.releasing_keeps (s : State) (d r : Nat) : Keeps [.regs, .tins, .dbg] s (s.releasing d r) := by
  unfold State.releasing
  exact (State.fset_keeps ..).via rfl (Keeps.upd_dbg rfl ((State.fset_keeps ..).via rfl ((State.setTin_keeps ..).via rfl Keeps.refl)))

theorem State.releasing_tins (s : State) (d r : Nat) :
    (s.releasing d r).tins = (s.setTin (s.tinOf d r) (s.tin (s.tinOf d r)).unstall.settle).tins := rfl

theorem State.releasing_tinState (s : State) (d r : Nat) : (s.releasing d r).tinState (s.tinOf d r) = tsInService :=
  (State.tinState_fset_hub _ _ _ (by decide)).trans (State.tinState_fset_self (s.setTin _ _) _ (by decide))

theorem State.opRelease_of_frozen (hstate : s.tinState (s.tinOf d r) = tsFrozen) (hfrozen : s.dbgFrozen d r = true) :
    s.opRelease d r = (s.releasing d r).tinOpEnd stDone := by
  have hsame : (s.setTin (s.tinOf d r) (s.tin (s.tinOf d r)).unstall.settle).tinState (s.tinOf d r) = tsFrozen :=
    (State.setTin_fget ..).trans hstate
  unfold State.opRelease State.releaseRole
  rw [if_pos hfrozen]
  dsimp only
  rw [if_pos hsame]
  rfl

/-- The tin with the ports that a step may use marked for one token (R744 op 2). -/
def Tin.stepMarked (x : Tin) (port : Nat) : Tin := (x.stepPorts port).foldl (fun y q => y.setPort q { y.port q with one := true }) x

/-- A step begins, and waits for its token (R744 op 2, R745). -/
def State.stepWaiting (s : State) (d r port : Nat) : State :=
  State.fset { s.setTin (s.tinOf d r) ((s.tin (s.tinOf d r)).stepMarked port) with dbg := { s.dbg with stepping := some (13 * d + r) } }
    DBG_TIN_STAT.state dsStepping

theorem State.stepWaiting_keeps (s : State) (d r port : Nat) : Keeps [.regs, .tins, .dbg] s (s.stepWaiting d r port) := by
  unfold State.stepWaiting
  exact (State.fset_keeps ..).via rfl (Keeps.upd_dbg rfl ((State.setTin_keeps ..).via rfl Keeps.refl))

theorem State.stepWaiting_tins (s : State) (d r port : Nat) :
    (s.stepWaiting d r port).tins = (s.setTin (s.tinOf d r) ((s.tin (s.tinOf d r)).stepMarked port)).tins := rfl

theorem State.opStep_of_no_token {port : Nat} (hquiet : s.dbgQuiet d r = true) (hnone : ∀ q, s.tokenFor d r q = none) :
    s.opStep d r port = (s.stepWaiting d r port).tinOpEnd stDone := by
  have hfind : ((s.tin (s.tinOf d r)).stepPorts port).find? (fun p => (s.tokenFor d r p).isSome) = none :=
    List.find?_eq_none.mpr fun p _ => by simp [hnone p]
  unfold State.opStep
  rw [if_neg (by simp [hquiet])]
  dsimp only
  rw [hfind]
  rfl

/-- The state of tin `t` stored in the larder from `b` up (R744 op 3). -/
def State.tinStored (s : State) (t b : Nat) : State :=
  { s with larder := (s.larder.write b (s.tin t).readback).markWords b readbackLen false }

theorem State.tinStored_keeps (s : State) (t b : Nat) : Keeps [.regs, .larder] s (s.tinStored t b) := by
  unfold State.tinStored
  exact Keeps.upd_larder rfl Keeps.refl Larder.write_markWords_wf

theorem State.tinStored_regs (s : State) (t b : Nat) : (s.tinStored t b).regs = s.regs := by unfold State.tinStored; rfl

theorem State.tinStored_tins (s : State) (t b : Nat) : (s.tinStored t b).tins = s.tins := by unfold State.tinStored; rfl

theorem State.tinStored_larder (s : State) (t b : Nat) :
    (s.tinStored t b).larder = (s.larder.write b (s.tin t).readback).markWords b readbackLen false := by simp only [State.tinStored]

theorem State.opReadback_of_room {b : Nat} (hquiet : s.dbgQuiet d r = true) (hidle : s.fbit DBG_TRACE_CTL.run = false) (hbuf : s.tinBuf = some b) :
    s.opReadback d r = (s.tinStored (s.tinOf d r) b).tinOpEnd stDone := by
  unfold State.opReadback
  rw [if_neg (by simp [hquiet, hidle]), hbuf]
  rfl

/-- The state of tin `t` loaded from the larder from `b` up (R744 op 4). -/
def State.tinLoaded (s : State) (t b : Nat) : State := s.setTin t ((s.tin t).loadState (s.larder.read b readbackLen))

theorem State.tinLoaded_keeps (s : State) (t b : Nat) : Keeps [.regs, .tins] s (s.tinLoaded t b) := (s.setTin_keeps ..).via rfl Keeps.refl

theorem State.tinLoaded_regs (s : State) (t b : Nat) : (s.tinLoaded t b).regs = s.regs := rfl

theorem State.opStateWrite_of_right {b : Nat} (hquiet : s.dbgQuiet d r = true) (hidle : s.fbit DBG_TRACE_CTL.run = false) (hbuf : s.tinBuf = some b)
    (hright : (s.tin (s.tinOf d r)).stateOk (s.larder.read b readbackLen) = true) :
    s.opStateWrite d r = (s.tinLoaded (s.tinOf d r) b).tinOpEnd stDone := by
  unfold State.opStateWrite
  rw [if_neg (by simp [hquiet, hidle]), hbuf]
  exact if_neg (by simp [hright])

end

/-! ### The operations -/

section
variable {s : State} {d : DieIx} {r : Fin 12} (hlevel : s.debugLevel = 3)
include hlevel

/-- A freeze of a tin in service that no debugger holds (R744, R745). -/
theorem runs_tinFreeze (hstate : s.tinState (s.tinOf d.val r.val) = tsInService) (hfree : s.dbgFrozen d.val r.val = false) :
    Runs (.tinFreeze d r) s [.regs, .tins, .dbg] fun u =>
      u.tin (s.tinOf d.val r.val) = (s.tin (s.tinOf d.val r.val)).askStall ∧ s.TinOnly (s.tinOf d.val r.val) u ∧
      u.fget DBG_TIN_STAT.state = dsFreezing ∧ u.fget DBG_TIN_STAT.status = stDone ∧
      u.dbg = { s.dbg with frozen := s.dbg.frozen ++ [13 * d.val + r.val] } ∧ s.RegsOnly [DBG_TIN_CTL, DBG_TIN_STAT] u := by
  have hop := State.opFreeze_of_in_service (s := s.tinCtl 0 d.val r.val (s.fget DBG_TIN_CTL.port))
    ((State.tinCtl_tinState ..).trans hstate) hfree
  have htins : (((s.tinCtl 0 d.val r.val (s.fget DBG_TIN_CTL.port)).freezing d.val r.val).tinOpEnd stDone).tins =
      (s.setTin (s.tinOf d.val r.val) (s.tin (s.tinOf d.val r.val)).askStall).tins := by simp [State.freezing_tins]
  refine .of_tinOp hlevel hop rfl rfl (State.freezing_keeps ..)
    ⟨State.tin_of_tins htins, .of_tins htins, ?_, State.tinOpEnd_done _, rfl, .tinOp (State.freezing_regsOnly _ _ _)⟩
  exact (State.tinOpEnd_state ..).trans (State.fget_fset_debugState _ (by decide))

/-- A release of a frozen tin (R744). -/
theorem runs_tinRelease (hfrozen : s.dbgFrozen d.val r.val = true) (hstate : s.tinState (s.tinOf d.val r.val) = tsFrozen) :
    Runs (.tinRelease d r) s [.regs, .tins, .dbg] fun u =>
      u.tinState (s.tinOf d.val r.val) = tsInService ∧ u.tin (s.tinOf d.val r.val) = (s.tin (s.tinOf d.val r.val)).unstall.settle ∧
      s.TinOnly (s.tinOf d.val r.val) u ∧ u.fget DBG_TIN_STAT.state = dsIdle ∧ u.fget DBG_TIN_STAT.status = stDone ∧
      u.dbg.frozen = s.dbg.frozen.filter (· != 13 * d.val + r.val) := by
  have hop := State.opRelease_of_frozen (s := s.tinCtl 1 d.val r.val (s.fget DBG_TIN_CTL.port))
    ((State.tinCtl_tinState ..).trans hstate) hfrozen
  have htins : (((s.tinCtl 1 d.val r.val (s.fget DBG_TIN_CTL.port)).releasing d.val r.val).tinOpEnd stDone).tins =
      (s.setTin (s.tinOf d.val r.val) (s.tin (s.tinOf d.val r.val)).unstall.settle).tins := by simp [State.releasing_tins]
  refine .of_tinOp hlevel hop rfl rfl (State.releasing_keeps ..)
    ⟨(State.tinOpEnd_tinState ..).trans (State.releasing_tinState ..), State.tin_of_tins htins, .of_tins htins, ?_, State.tinOpEnd_done _, rfl⟩
  exact (State.tinOpEnd_state ..).trans (State.fget_fset_debugState _ (by decide))

/-- A step of a tin to which no token waits (R744, R745). -/
theorem runs_tokenStep (p : Fin 512) (hquiet : s.dbgQuiet d.val r.val = true) (hnone : ∀ q, s.tokenFor d.val r.val q = none) :
    Runs (.tokenStep d r p) s [.regs, .tins, .dbg] fun u =>
      u.fget DBG_TIN_STAT.state = dsStepping ∧ u.fget DBG_TIN_STAT.status = stDone ∧ s.TinOnly (s.tinOf d.val r.val) u ∧
      u.tin (s.tinOf d.val r.val) = (s.tin (s.tinOf d.val r.val)).stepMarked p.val ∧
      u.dbg = { s.dbg with stepping := some (13 * d.val + r.val) } := by
  have hop := State.opStep_of_no_token (s := s.tinCtl 2 d.val r.val p.val) (port := p.val)
    ((State.tinCtl_dbgQuiet ..).trans hquiet) hnone
  have htins : (((s.tinCtl 2 d.val r.val p.val).stepWaiting d.val r.val p.val).tinOpEnd stDone).tins =
      (s.setTin (s.tinOf d.val r.val) ((s.tin (s.tinOf d.val r.val)).stepMarked p.val)).tins := by simp [State.stepWaiting_tins]
  refine .of_tinOp hlevel hop rfl rfl (State.stepWaiting_keeps ..) ⟨?_, State.tinOpEnd_done _, .of_tins htins, State.tin_of_tins htins, rfl⟩
  exact (State.tinOpEnd_state ..).trans (State.fget_fset_debugState _ (by decide))

section
variable {b : Nat} (hquiet : s.dbgQuiet d.val r.val = true) (hidle : s.fbit DBG_TRACE_CTL.run = false) (hbuf : s.tinBuf = some b)
include hquiet hidle hbuf

/-- A readback of a quiet tin into TRACE (R744). -/
theorem runs_tinReadback :
    Runs (.tinReadback d r) s [.regs, .larder] fun u =>
      u.fget DBG_TIN_STAT.status = stDone ∧ s.RegsOnly [DBG_TIN_CTL, DBG_TIN_STAT] u ∧
      u.larder = (s.larder.write b (s.tin (s.tinOf d.val r.val)).readback).markWords b readbackLen false := by
  have hop := State.opReadback_of_room (s := s.tinCtl 3 d.val r.val (s.fget DBG_TIN_CTL.port))
    ((State.tinCtl_dbgQuiet ..).trans hquiet) ((State.tinCtl_traceRun ..).trans hidle) ((State.tinCtl_tinBuf ..).trans hbuf)
  exact .of_tinOp hlevel hop rfl rfl (State.tinStored_keeps ..)
    ⟨State.tinOpEnd_done _, .tinOp (.of_regs (State.tinStored_regs ..)), by simp [State.tinStored_larder]⟩

/-- A state write of a quiet tin from words that are right (R744). -/
theorem runs_tinStateWrite (hright : (s.tin (s.tinOf d.val r.val)).stateOk (s.larder.read b readbackLen) = true) :
    Runs (.tinStateWrite d r) s [.regs, .tins] fun u =>
      u.tin (s.tinOf d.val r.val) = (s.tin (s.tinOf d.val r.val)).loadState (s.larder.read b readbackLen) ∧ s.TinOnly (s.tinOf d.val r.val) u ∧
      u.fget DBG_TIN_STAT.status = stDone ∧ s.RegsOnly [DBG_TIN_CTL, DBG_TIN_STAT] u := by
  have hop := State.opStateWrite_of_right (s := s.tinCtl 4 d.val r.val (s.fget DBG_TIN_CTL.port))
    ((State.tinCtl_dbgQuiet ..).trans hquiet) ((State.tinCtl_traceRun ..).trans hidle) ((State.tinCtl_tinBuf ..).trans hbuf) hright
  have htins : (((s.tinCtl 4 d.val r.val (s.fget DBG_TIN_CTL.port)).tinLoaded (s.tinOf d.val r.val) b).tinOpEnd stDone).tins =
      (s.setTin (s.tinOf d.val r.val) ((s.tin (s.tinOf d.val r.val)).loadState (s.larder.read b readbackLen))).tins := by simp [State.tinLoaded]
  exact .of_tinOp hlevel hop rfl rfl (State.tinLoaded_keeps ..)
    ⟨State.tin_of_tins htins, .of_tins htins, State.tinOpEnd_done _, .tinOp (.of_regs (State.tinLoaded_regs ..))⟩

end
end

/-- A debug-frozen tin in service that has come to rest is frozen (R744, R745). -/
theorem runs_dbgTinFrozen {s : State} {d : DieIx} {r : Fin 12} {t : Nat} (ht : t = s.tinOf d.val r.val) (hfrozen : s.dbgFrozen d.val r.val = true)
    (hstalled : (s.tin t).stalled = true) (hquiet : (s.tin t).quiescent = true) (hstep : s.dbg.stepping = none)
    (hstate : s.tinState t = tsInService) :
    Runs (.dbgTinFrozen d r) s [.regs, .events] fun u =>
      u.tinState t = tsFrozen ∧ u.fget DBG_TIN_STAT.state = dsFrozen ∧ s.RegsOnly [TIN_STAT t, DBG_TIN_STAT] u ∧
      s.Posted u 0x1000 0 (some d.val) (tinUnit r.val (t % 13)) := by
  subst ht
  refine .of ((if_neg (by simp [hfrozen, hstalled, hquiet])).trans ((if_neg (by simp [hstep])).trans (if_pos hstate)))
    ((State.post_keeps ..).via rfl ((State.fset_keeps ..).via rfl ((State.fset_keeps ..).via rfl Keeps.refl)))
    ⟨?_, ?_, .post (.fset (List.mem_cons_of_mem _ (List.mem_singleton.mpr rfl)) (.fset (List.mem_cons.mpr (.inl rfl)) (.of_regs rfl))),
      State.post_events_congr rfl rfl⟩
  · exact (State.post_fget ..).trans ((State.tinState_fset_hub _ _ _ (by decide)).trans (State.tinState_fset_self _ _ (by decide)))
  · rw [State.post_fget, State.fget_fset_debugState _ (by decide)]

/-- Below FULL an operation is refused and changes nothing (R744). -/
theorem State.tinOp_of_below {s : State} (hlevel : s.debugLevel ≠ 3) (op d r port : Nat) :
    s.tinOp op d r port = { s with answer := some ⟨stNoRights, [], false⟩ } := if_pos hlevel

/-- Settles O28: each operation is its work between the write of `DBG_TIN_CTL` and the outcome. -/
theorem debugOfTins : Obligations.DebugOfTins := by
  unfold Obligations.DebugOfTins
  refine ⟨?freeze, ?frozen, ?release, ?step, ?readback, ?stateWrite, ?below⟩
  case freeze =>
    rintro s d r t hlevel rfl hstate hfree
    exact runs_tinFreeze hlevel hstate hfree
  case frozen => exact fun s d r t ht hfrozen hstalled hquiet hstep hstate => runs_dbgTinFrozen ht hfrozen hstalled hquiet hstep hstate
  case release =>
    rintro s d r t hlevel rfl hfrozen hstate
    exact runs_tinRelease hlevel hfrozen hstate
  case step =>
    rintro s d r p t hlevel rfl hquiet hnone
    exact runs_tokenStep hlevel p hquiet hnone
  case readback => exact fun s d r b hlevel hquiet hidle hbuf => runs_tinReadback hlevel hquiet hidle hbuf
  case stateWrite =>
    rintro s d r b t hlevel rfl hquiet hidle hbuf hright
    exact runs_tinStateWrite hlevel hquiet hidle hbuf hright
  case below =>
    rintro s c d r p hlevel (rfl | rfl | rfl | rfl | rfl) <;> exact congrArg _ (State.tinOp_of_below hlevel ..)

end Sys2Proof.Machine
end

section
/-! SUPPORT. A readback is a right state write: where the words of a tin's state lie, and that each has the form R92, R183 and R229 ask for. -/

namespace Sys2Proof.Machine

/-! ### Places in a list of bytes -/

theorem leVal_leBytes (n v : Nat) : leVal (leBytes n v) = v % 256 ^ n := by
  induction n generalizing v with
  | zero => rw [Nat.pow_zero, Nat.mod_one]; rfl
  | succ n ih => rw [leBytes, leVal, ih, BitVec.toNat_ofNat, Nat.pow_succ' (m := 256), Nat.mod_mul]

theorem leAt_leBytes (n v : Nat) : leAt (leBytes n v) 0 n = v % 256 ^ n := by
  have h := leAt_zero_length (leBytes n v)
  rw [leBytes_length] at h
  exact h.trans (leVal_leBytes n v)

theorem slice_append_left {a b : List Byte} {lo len : Nat} (h : lo + len ≤ a.length) : slice (a ++ b) lo len = slice a lo len := by
  refine List.map_congr_left fun i hi => ?_
  have hlt := List.mem_range.mp hi
  rw [List.getD_append _ _ _ _ (by omega)]

theorem slice_append_right {a b : List Byte} {n : Nat} (lo len : Nat) (h : a.length = n) : slice (a ++ b) (n + lo) len = slice b lo len := by
  refine List.map_congr_left fun i _ => ?_
  rw [List.getD_append_right _ _ _ _ (by omega)]
  congr 1
  omega

theorem length_flatMap_range {f : Nat → List Byte} {n : Nat} (hf : ∀ j, (f j).length = n) (k : Nat) :
    ((List.range k).flatMap f).length = n * k := by
  simp [List.length_flatMap, hf, Nat.mul_comm]

/-- In a row of blocks of `n` bytes a place within block `i` is read from that block. -/
theorem slice_flatMap_range {f : Nat → List Byte} {n k i lo len : Nat} (hf : ∀ j, (f j).length = n) (hi : i < k) (hlen : lo + len ≤ n) :
    slice ((List.range k).flatMap f) (n * i + lo) len = slice (f i) lo len := by
  induction k with
  | zero => exact absurd hi (Nat.not_lt_zero i)
  | succ k ih =>
    have hblocks := length_flatMap_range hf k
    rw [List.range_succ, List.flatMap_append, List.flatMap_singleton]
    rcases Nat.lt_succ_iff_lt_or_eq.mp hi with hlt | rfl
    · have hend : n * i + n ≤ n * k := Nat.mul_succ n i ▸ Nat.mul_le_mul_left n hlt
      rw [slice_append_left (by omega), ih hlt]
    · exact slice_append_right lo len hblocks

/-! ### The layout of a readback (R744) -/

theorem pantryBytes_length (ctl : Nat) (v : Pantry) : (pantryBytes ctl v).length = 10368 := by
  simp [pantryBytes, leBytes_length]

theorem Tin.holdBytes_length (x : Tin) : x.holdBytes.length = 131072 := length_flatMap_range (fun _ => leBytes_length ..) 32768

theorem Tin.pantryRecords_length (x : Tin) :
    ((List.range 96).flatMap fun p => pantryBytes (x.pantryCtl p) (x.pantry p)).length = 995328 :=
  length_flatMap_range (fun _ => pantryBytes_length ..) 96

theorem Tin.readback_length (x : Tin) : x.readback.length = readbackLen := by
  rw [Tin.readback, List.length_append, List.length_append, x.holdBytes_length, x.pantryRecords_length,
    length_flatMap_range (n := 128) (fun _ => leBytes_length ..)]
  rfl

theorem Tin.leAt_readback_hold (x : Tin) {i : Nat} (hi : i < 32768) : leAt x.readback (4 * i) 4 = x.holdWord (i / 16) (i % 16) % 256 ^ 4 := by
  have hlen := x.holdBytes_length
  unfold leAt Tin.readback
  rw [List.append_assoc, slice_append_left (by omega), Tin.holdBytes]
  exact (congrArg leVal (slice_flatMap_range (lo := 0) (fun _ => leBytes_length ..) hi (Nat.le_refl 4))).trans (leAt_leBytes ..)

theorem Tin.leAt_readback_fifo (x : Tin) {p : Nat} (hp : p < 96) :
    leAt x.readback (131072 + 10368 * p + 10240) 128 = fifoBlock (x.pantryCtl p) (x.pantry p) % 256 ^ 128 := by
  have hlen := x.pantryRecords_length
  unfold leAt Tin.readback
  rw [List.append_assoc, Nat.add_assoc, slice_append_right _ _ x.holdBytes_length, slice_append_left (by omega),
    slice_flatMap_range (fun _ => pantryBytes_length ..) hp (by decide), pantryBytes]
  rw [slice_append_right (n := 10240) 0 128 (by simp [leBytes_length])]
  exact leAt_leBytes ..

theorem Tin.leAt_readback_mixer (x : Tin) {q : Nat} (hq : q < 64) : leAt x.readback (1126400 + 128 * q) 128 = mixerBlock (x.mixer q) % 256 ^ 128 := by
  have hfront : (x.holdBytes ++ (List.range 96).flatMap fun p => pantryBytes (x.pantryCtl p) (x.pantry p)).length = 1126400 := by
    rw [List.length_append, x.holdBytes_length, x.pantryRecords_length]
  unfold leAt Tin.readback
  rw [slice_append_right _ _ hfront]
  exact (congrArg leVal (slice_flatMap_range (lo := 0) (fun _ => leBytes_length ..) hq (Nat.le_refl 128))).trans (leAt_leBytes ..)

/-! ### The words of a readback -/

theorem b2n_le (b : Bool) : b2n b ≤ 1 := by cases b <;> decide

/-- An empty hold has no value (R90). -/
theorem Tin.holdBits_form (x : Tin) (b c m : Nat) : x.holdBits b c m < 8 ∧ x.holdBits b c m % 4 ≠ 1 := by
  have htrans := b2n_le (crumbTransparent (x.crumb b c) m)
  unfold Tin.holdBits
  dsimp only
  cases (x.hold b c m).full
  · simp only [Bool.false_and, b2n, Bool.false_eq_true, if_false] at htrans ⊢
    omega
  · have hvalue := b2n_le (true && (x.hold b c m).value)
    have hfull : b2n true = 1 := rfl
    omega

/-- Four digits side by side, each read from its place. -/
theorem octal_digits {f : Nat → Nat} (hf : ∀ m, f m < 8 ∧ f m % 4 ≠ 1) :
    ((List.range 4).map fun m => f m * 8 ^ m).sum < 4096 ∧ ∀ m < 4, ((List.range 4).map fun m => f m * 8 ^ m).sum / 8 ^ m % 4 ≠ 1 := by
  obtain ⟨h0, v0⟩ := hf 0
  obtain ⟨h1, v1⟩ := hf 1
  obtain ⟨h2, v2⟩ := hf 2
  obtain ⟨h3, v3⟩ := hf 3
  have hsum : ((List.range 4).map fun m => f m * 8 ^ m).sum = f 0 + f 1 * 8 + f 2 * 64 + f 3 * 512 := by simp [List.range_succ, Nat.add_assoc]
  rw [hsum]
  refine ⟨by omega, fun m hm => ?_⟩
  interval_cases m <;> simp only [Nat.reducePow] <;> omega

/-- A word with its crumb's place and no empty hold with a value is right, whatever its fault bit (R90, R92). -/
theorem holdWordOk_of_fields {i g q : Nat} (hi : i < 32768) (hg : g ≤ 1) (hq : q < 4096) (hform : ∀ m < 4, q / 8 ^ m % 4 ≠ 1) :
    holdWordOk i ((2 ^ 31 + g * 2 ^ 30 + i / 16 * 2 ^ 19 + i % 16 * 2 ^ 15 + q) % 256 ^ 4) = true := by
  have hfield : ∀ m < 4, (2 ^ 31 + g * 2 ^ 30 + i / 16 * 2 ^ 19 + i % 16 * 2 ^ 15 + q) % 256 ^ 4 / 2 ^ (3 * m) % 2 ^ 2 = q / 8 ^ m % 4 := by
    intro m hm
    interval_cases m <;> simp only [Nat.reducePow, Nat.reduceMul] <;> omega
  simp only [holdWordOk, bit, bits, Bool.and_eq_true, beq_iff_eq, List.all_eq_true, List.mem_range, Bool.not_eq_true', beq_eq_false_iff_ne]
  refine ⟨⟨⟨by omega, by omega⟩, by omega⟩, fun m hm => ?_⟩
  rw [hfield m hm]
  exact hform m hm

/-- The word of a crumb is right for the crumb's place (R92). -/
theorem Tin.holdWordOk_holdWord (x : Tin) {i : Nat} (hi : i < 32768) : holdWordOk i (x.holdWord (i / 16) (i % 16) % 256 ^ 4) = true := by
  obtain ⟨hlt, hform⟩ := octal_digits (x.holdBits_form (i / 16) (i % 16))
  exact holdWordOk_of_fields hi (b2n_le _) hlt hform

theorem ofSigned_lt (z : Int) (len : Nat) : ofSigned z len < 2 ^ len := by
  have hpos : (0 : Int) < (2 ^ len : Nat) := Int.natCast_pos.mpr (Nat.two_pow_pos len)
  have hlow := Int.emod_nonneg z hpos.ne'
  have hhigh := Int.emod_lt_of_pos z hpos
  unfold ofSigned
  omega

theorem railCode_lt (r : Rail) : railCode r < 3 := by cases r <;> decide

/-- The block of a mixer sets no reserved bit and no rail that does not exist (R229). -/
theorem mixerBlockOk_mixerBlock (v : Mixer) : mixerBlockOk (mixerBlock v % 256 ^ 128) = true := by
  have hacc0 := ofSigned_lt v.acc0 56
  have hacc1 := ofSigned_lt v.acc1 56
  have hovf0 := railCode_lt v.ovf0
  have hovf1 := railCode_lt v.ovf1
  have hh1 := ofSigned_lt v.h1 24
  have hh2 := ofSigned_lt v.h2 24
  have hh3 := ofSigned_lt v.h3 24
  have hh4 := ofSigned_lt v.h4 24
  have hhave := b2n_le v.have_
  have hsat := b2n_le v.idxSat
  simp only [mixerBlockOk, mixerBlock, bits, Bool.and_eq_true, beq_iff_eq, bne_iff_ne, ne_eq]
  omega

/-- The readback of a tin without a pantry in FIFO mode is a state that the tin takes (R92, R183, R229, R744). -/
theorem Tin.stateOk_readback {x : Tin} (hfifo : ∀ p < 96, pantryFifo (x.pantryCtl p) = false) : x.stateOk x.readback = true := by
  unfold Tin.stateOk
  rw [Bool.and_eq_true, Bool.and_eq_true, List.all_eq_true, List.all_eq_true, List.all_eq_true]
  refine ⟨⟨fun i hi => ?_, fun p hp => ?_⟩, fun q hq => ?_⟩
  · rw [x.leAt_readback_hold (List.mem_range.mp hi)]
    exact x.holdWordOk_holdWord (List.mem_range.mp hi)
  · rw [x.leAt_readback_fifo (List.mem_range.mp hp)]
    simp [fifoBlock, fifoBlockOk, hfifo p (List.mem_range.mp hp)]
  · rw [x.leAt_readback_mixer (List.mem_range.mp hq)]
    exact mixerBlockOk_mixerBlock _

/-- What a readback has stored is read from its place. -/
theorem State.tinStored_read (s : State) (t b : Nat) : (s.tinStored t b).larder.read b readbackLen = (s.tin t).readback := by
  obtain ⟨hread, -⟩ := s.larder.bytesOnly_write_markWords b readbackLen (s.tin t).readback false
  rw [(s.tin t).readback_length] at hread
  rw [State.tinStored_larder]
  exact hread

theorem State.tinStored_tin (s : State) (t b k : Nat) : (s.tinStored t b).tin k = s.tin k := State.tin_congr (s.tinStored_tins t b) k

/-- A readback of a tin without a pantry in FIFO mode can be written back (R744). -/
theorem State.tinStored_right {s : State} {t : Nat} (b : Nat) (hfifo : ∀ p < 96, pantryFifo ((s.tin t).pantryCtl p) = false) :
    ((s.tinStored t b).tin t).stateOk ((s.tinStored t b).larder.read b readbackLen) = true := by
  rw [s.tinStored_read, s.tinStored_tin]
  exact Tin.stateOk_readback hfifo

/-! ### States that meet the hypotheses -/

/-- A pantry of a tin whose frames lie past the pantries' is not in FIFO mode. -/
theorem Tin.pantryFifo_of_ports {x : Tin} {v : Frame} (h : x.frames = [(0x9BEB, v)]) {p : Nat} (hp : p < 96) :
    pantryFifo (x.pantryCtl p) = false := by
  have hframe : x.frame (0x9B00 + p) = 0 := by
    have hapart : 0x9BEB ≠ 0x9B00 + p := by omega
    rw [Tin.frame, h, Tab.get, if_neg hapart, Tab.get_nil]
    exact BitVec.toNat_zero
  unfold Tin.pantryCtl
  rw [hframe]
  rfl

/-- Tin 102 holds role 11 of die 7 at FULL, with the top inbound crust port in use, in the port state `port` and the tin state `state`. -/
def portedTin (port : Port) (state : Nat) (frozen : List Nat) : State :=
  { (State.reset.fset SEC_LIFECYCLE.debug 3).fset (TIN_STAT.state 102) state with
    tins := [(102, { Tin.blank with frames := [(0x9BEB, BitVec.ofNat 1024 (8 * 2 ^ 960))], ports := [(382, port)] })]
    dbg := { Dbg.fresh with frozen := frozen } }

/-- The port is in PASS, and no debugger holds the tin. -/
def passingTin : State := portedTin { Port.blank with mode := .pass } tsInService []

/-- The port has stalled for a freeze, which the tin awaits. -/
def restingTin : State := portedTin { Port.blank with saved := some .pass } tsInService [102]

/-- The freeze has been reached. -/
def frozenTin : State := portedTin { Port.blank with saved := some .pass } tsFrozen [102]

/-- The tin's readback lies at the base of TRACE. -/
def storedTin : State := frozenTin.tinStored 102 0x4800000

/-- States that meet the hypotheses of O28: a tin of the last role of the last die is frozen, comes to rest, and is released, stepped, read and
written; below FULL it is refused. -/
theorem debugOfTins_witness :
    (∃ u, exec (.tinFreeze 7 11) passingTin = .next u ∧ ((u.tin 102).port 382).want = some .stall) ∧
    (∃ u, exec (.dbgTinFrozen 7 11) restingTin = .next u ∧ u.tinState 102 = tsFrozen) ∧
    (∃ u, exec (.tinRelease 7 11) frozenTin = .next u ∧ ((u.tin 102).port 382).mode = .pass) ∧
    (∃ u, exec (.tokenStep 7 11 0x1FF) frozenTin = .next u ∧ ((u.tin 102).port 382).one = true) ∧
    (∃ u, exec (.tinReadback 7 11) frozenTin = .next u ∧ u.fget DBG_TIN_STAT.status = stDone) ∧
    (∃ u, exec (.tinStateWrite 7 11) storedTin = .next u ∧ u.fget DBG_TIN_STAT.status = stDone) ∧
    exec (.tinFreeze 7 11) State.reset = .next { State.reset with answer := some ⟨stNoRights, [], false⟩ } := by
  obtain ⟨freeze, frozen, release, step, readback, stateWrite, below⟩ := debugOfTins
  obtain ⟨u1, h1, ⟨hasked, -⟩, -⟩ := freeze passingTin 7 11 102
    (by decide +kernel) (by decide +kernel) (by decide +kernel) (by decide +kernel)
  obtain ⟨u2, h2, ⟨hfrozen, -⟩, -⟩ := frozen restingTin 7 11 102
    (by decide +kernel) (by decide +kernel) (by decide +kernel) (by decide +kernel) rfl (by decide +kernel)
  obtain ⟨u3, h3, ⟨-, hreleased, -⟩, -⟩ := release frozenTin 7 11 102
    (by decide +kernel) (by decide +kernel) (by decide +kernel) (by decide +kernel)
  obtain ⟨u4, h4, ⟨-, -, -, hmarked, -⟩, -⟩ := step frozenTin 7 11 0x1FF 102
    (by decide +kernel) (by decide +kernel) (by decide +kernel) (fun _ => rfl)
  obtain ⟨u5, h5, ⟨hread, -⟩, -⟩ := readback frozenTin 7 11 0x4800000
    (by decide +kernel) (by decide +kernel) (by decide +kernel) (by decide +kernel)
  obtain ⟨u6, h6, ⟨-, -, hwritten, -⟩, -⟩ := stateWrite storedTin 7 11 0x4800000 102
    (by decide +kernel) (by decide +kernel) (by decide +kernel) (by decide +kernel) (by decide +kernel)
    (State.tinStored_right _ fun p hp => Tin.pantryFifo_of_ports rfl hp)
  refine ⟨⟨u1, h1, ?_⟩, ⟨u2, h2, hfrozen⟩, ⟨u3, h3, ?_⟩, ⟨u4, h4, ?_⟩, ⟨u5, h5, hread⟩, ⟨u6, h6, hwritten⟩,
    below State.reset _ 7 11 0 (by decide +kernel) (.inl rfl)⟩
  · rw [hasked]
    decide +kernel
  · rw [hreleased]
    decide +kernel
  · rw [hmarked]
    decide +kernel

end Sys2Proof.Machine
end
